-- ==== Sys2Proof/Word.lean ====
section
/-! DEFINITION. The word types of the Glanas Fliore 9120 (R7, R8). -/

namespace Sys2Proof

/-- 8 bits: the smallest addressable unit (R7). -/
abbrev Byte := BitVec 8
/-- 32 bits: a lane of a vector register, an instruction word. -/
abbrev Word := BitVec 32
/-- 64 bits: a scalar register, an address, a system register. -/
abbrev DWord := BitVec 64
/-- One bit for each of the 256 lanes of a group (R4). -/
abbrev Mask := BitVec 256
/-- One value for each of the 256 lanes of a group (R4). -/
abbrev Lanes (α : Type) := Vector α 256

/-- The lanes `f 0` to `f 255`. -/
def Lanes.of {α : Type} (f : Nat → α) : Lanes α := Vector.ofFn fun i => f i.val

/-- Lane `i`, with the lane number taken modulo 256. -/
def Lanes.lane {α : Type} (v : Lanes α) (i : Nat) : α :=
  v[i % 256]'(Nat.mod_lt _ (by decide))

/-- The same value in every lane. -/
def Lanes.all {α : Type} (a : α) : Lanes α := Vector.replicate 256 a

end Sys2Proof
end

