-- ==== Sys2Proof/Machine/Cause.lean ====
section
/-! DEFINITION. The 97 cause codes of R392 and how each is delivered at the faulting instruction (R387). -/

namespace Sys2Proof.Machine

/-- The causes of R392, in the order of their codes. -/
inductive Cause where
  | zeroWord  -- 0x00 ZERO_WORD
  | illegalInstr  -- 0x01 ILLEGAL_INSTR
  | illegalForm  -- 0x02 ILLEGAL_FORM
  | privilege  -- 0x03 PRIVILEGE
  | targetForm  -- 0x04 TARGET_FORM
  | operandRange  -- 0x05 OPERAND_RANGE
  | sysregValue  -- 0x06 SYSREG_VALUE
  | shapeForm  -- 0x07 SHAPE_FORM
  | launchForm  -- 0x08 LAUNCH_FORM
  | chorusForm  -- 0x09 CHORUS_FORM
  | copyForm  -- 0x0A COPY_FORM
  | collForm  -- 0x0B COLL_FORM
  | softTrap  -- 0x0C SOFT_TRAP
  | breakpoint  -- 0x0D BREAKPOINT
  | handlerNest  -- 0x0E HANDLER_NEST
  | trvecForm  -- 0x0F TRVEC_FORM
  | regEmpty  -- 0x10 REG_EMPTY
  | regIndexRange  -- 0x11 REG_INDEX_RANGE
  | divOverflow  -- 0x12 DIV_OVERFLOW
  | joinMismatch  -- 0x13 JOIN_MISMATCH
  | idemDiverged  -- 0x14 IDEM_DIVERGED
  | detmSpan  -- 0x15 DETM_SPAN
  | barState  -- 0x16 BAR_STATE
  | accRange  -- 0x17 ACC_RANGE
  | accVersion  -- 0x18 ACC_VERSION
  | muHeld  -- 0x19 MU_HELD
  | uePool  -- 0x1A UE_POOL
  | imageForm  -- 0x1B IMAGE_FORM
  | imagePoison  -- 0x1C IMAGE_POISON
  | stackForm  -- 0x1D STACK_FORM
  | swapFail  -- 0x1E SWAP_FAIL
  | migrateFail  -- 0x1F MIGRATE_FAIL
  | addrNoncanonical  -- 0x20 ADDR_NONCANONICAL
  | addrWindow  -- 0x21 ADDR_WINDOW
  | windowRange  -- 0x22 WINDOW_RANGE
  | privateAlias  -- 0x23 PRIVATE_ALIAS
  | atomicAlign  -- 0x24 ATOMIC_ALIGN
  | ptFormat  -- 0x25 PT_FORMAT
  | pageFault  -- 0x26 PAGE_FAULT
  | pageAbsent  -- 0x27 PAGE_ABSENT
  | pageProt  -- 0x28 PAGE_PROT
  | pageCow  -- 0x29 PAGE_COW
  | pageHole  -- 0x2A PAGE_HOLE
  | bulkheadGate  -- 0x2B BULKHEAD_GATE
  | windowPeerReset  -- 0x2C WINDOW_PEER_RESET
  | windowRevoked  -- 0x2D WINDOW_REVOKED
  | fabricDevice  -- 0x2E FABRIC_DEVICE
  | fabricWriteLost  -- 0x2F FABRIC_WRITE_LOST
  | matrixForm  -- 0x30 MATRIX_FORM
  | spId  -- 0x31 SP_ID
  | spBroken  -- 0x32 SP_BROKEN
  | objState  -- 0x33 OBJ_STATE
  | stableStore  -- 0x34 STABLE_STORE
  | frozenStore  -- 0x35 FROZEN_STORE
  | pinRevoked  -- 0x36 PIN_REVOKED
  | dpaHole  -- 0x37 DPA_HOLE
  | fpoolLow  -- 0x38 FPOOL_LOW
  | lcSat  -- 0x39 LC_SAT
  | spLogFull  -- 0x3A SP_LOG_FULL
  | spBudget  -- 0x3B SP_BUDGET
  | spNv  -- 0x3C SP_NV
  | spOf  -- 0x3D SP_OF
  | ueEngine  -- 0x3E UE_ENGINE
  | spPoison  -- 0x3F SP_POISON
  | tenderUnplaced  -- 0x40 TENDER_UNPLACED
  | withdrawnBid  -- 0x41 WITHDRAWN_BID
  | amTarget  -- 0x42 AM_TARGET
  | amAbort  -- 0x43 AM_ABORT
  | taskAbort  -- 0x44 TASK_ABORT
  | collPeer  -- 0x45 COLL_PEER
  | fabricReadLost  -- 0x46 FABRIC_READ_LOST
  | fabricRate  -- 0x47 FABRIC_RATE
  | launchRefused  -- 0x48 LAUNCH_REFUSED
  | evqOverflow  -- 0x49 EVQ_OVERFLOW
  | quarantined  -- 0x4A QUARANTINED
  | governorThrottle  -- 0x4B GOVERNOR_THROTTLE
  | collCancel  -- 0x4C COLL_CANCEL
  | taskCancel  -- 0x4D TASK_CANCEL
  | chorusFault  -- 0x4E CHORUS_FAULT
  | launchAbort  -- 0x4F LAUNCH_ABORT
  | sigMismatch  -- 0x50 SIG_MISMATCH
  | silentErrorPersistent  -- 0x51 SILENT_ERROR_PERSISTENT
  | ueL1  -- 0x52 UE_L1
  | ueL2  -- 0x53 UE_L2
  | ueHbm  -- 0x54 UE_HBM
  | ueRemote  -- 0x55 UE_REMOTE
  | ueFetch  -- 0x56 UE_FETCH
  | replayMismatch  -- 0x57 REPLAY_MISMATCH
  | replaySplit  -- 0x58 REPLAY_SPLIT
  | gangAbort  -- 0x59 GANG_ABORT
  | timerExpired  -- 0x5A TIMER_EXPIRED
  | ctxEvictTimeout  -- 0x5B CTX_EVICT_TIMEOUT
  | drainDeadline  -- 0x5C DRAIN_DEADLINE
  | cutTimeout  -- 0x5D CUT_TIMEOUT
  | ctxDestroyed  -- 0x5E CTX_DESTROYED
  | frameExhausted  -- 0x5F FRAME_EXHAUSTED
  | signalLost  -- 0x60 SIGNAL_LOST
deriving DecidableEq, Repr

/-- The delivery letters of R387. -/
inductive Delivery where
  | handler | deferred | firstTouch | plex | restart | completion | grid | event | status
deriving DecidableEq, Repr

/-- The code of a cause (R392). -/
def Cause.code : Cause → BitVec 7
  | .zeroWord => 0x00
  | .illegalInstr => 0x01
  | .illegalForm => 0x02
  | .privilege => 0x03
  | .targetForm => 0x04
  | .operandRange => 0x05
  | .sysregValue => 0x06
  | .shapeForm => 0x07
  | .launchForm => 0x08
  | .chorusForm => 0x09
  | .copyForm => 0x0A
  | .collForm => 0x0B
  | .softTrap => 0x0C
  | .breakpoint => 0x0D
  | .handlerNest => 0x0E
  | .trvecForm => 0x0F
  | .regEmpty => 0x10
  | .regIndexRange => 0x11
  | .divOverflow => 0x12
  | .joinMismatch => 0x13
  | .idemDiverged => 0x14
  | .detmSpan => 0x15
  | .barState => 0x16
  | .accRange => 0x17
  | .accVersion => 0x18
  | .muHeld => 0x19
  | .uePool => 0x1A
  | .imageForm => 0x1B
  | .imagePoison => 0x1C
  | .stackForm => 0x1D
  | .swapFail => 0x1E
  | .migrateFail => 0x1F
  | .addrNoncanonical => 0x20
  | .addrWindow => 0x21
  | .windowRange => 0x22
  | .privateAlias => 0x23
  | .atomicAlign => 0x24
  | .ptFormat => 0x25
  | .pageFault => 0x26
  | .pageAbsent => 0x27
  | .pageProt => 0x28
  | .pageCow => 0x29
  | .pageHole => 0x2A
  | .bulkheadGate => 0x2B
  | .windowPeerReset => 0x2C
  | .windowRevoked => 0x2D
  | .fabricDevice => 0x2E
  | .fabricWriteLost => 0x2F
  | .matrixForm => 0x30
  | .spId => 0x31
  | .spBroken => 0x32
  | .objState => 0x33
  | .stableStore => 0x34
  | .frozenStore => 0x35
  | .pinRevoked => 0x36
  | .dpaHole => 0x37
  | .fpoolLow => 0x38
  | .lcSat => 0x39
  | .spLogFull => 0x3A
  | .spBudget => 0x3B
  | .spNv => 0x3C
  | .spOf => 0x3D
  | .ueEngine => 0x3E
  | .spPoison => 0x3F
  | .tenderUnplaced => 0x40
  | .withdrawnBid => 0x41
  | .amTarget => 0x42
  | .amAbort => 0x43
  | .taskAbort => 0x44
  | .collPeer => 0x45
  | .fabricReadLost => 0x46
  | .fabricRate => 0x47
  | .launchRefused => 0x48
  | .evqOverflow => 0x49
  | .quarantined => 0x4A
  | .governorThrottle => 0x4B
  | .collCancel => 0x4C
  | .taskCancel => 0x4D
  | .chorusFault => 0x4E
  | .launchAbort => 0x4F
  | .sigMismatch => 0x50
  | .silentErrorPersistent => 0x51
  | .ueL1 => 0x52
  | .ueL2 => 0x53
  | .ueHbm => 0x54
  | .ueRemote => 0x55
  | .ueFetch => 0x56
  | .replayMismatch => 0x57
  | .replaySplit => 0x58
  | .gangAbort => 0x59
  | .timerExpired => 0x5A
  | .ctxEvictTimeout => 0x5B
  | .drainDeadline => 0x5C
  | .cutTimeout => 0x5D
  | .ctxDestroyed => 0x5E
  | .frameExhausted => 0x5F
  | .signalLost => 0x60

/-- The first delivery letter that R392 gives a cause. -/
def Cause.delivery : Cause → Delivery
  | .zeroWord => .handler
  | .illegalInstr => .handler
  | .illegalForm => .handler
  | .privilege => .handler
  | .targetForm => .handler
  | .operandRange => .handler
  | .sysregValue => .handler
  | .shapeForm => .handler
  | .launchForm => .grid
  | .chorusForm => .handler
  | .copyForm => .completion
  | .collForm => .completion
  | .softTrap => .handler
  | .breakpoint => .handler
  | .handlerNest => .plex
  | .trvecForm => .plex
  | .regEmpty => .handler
  | .regIndexRange => .handler
  | .divOverflow => .handler
  | .joinMismatch => .handler
  | .idemDiverged => .handler
  | .detmSpan => .handler
  | .barState => .handler
  | .accRange => .handler
  | .accVersion => .deferred
  | .muHeld => .handler
  | .uePool => .restart
  | .imageForm => .status
  | .imagePoison => .status
  | .stackForm => .handler
  | .swapFail => .grid
  | .migrateFail => .event
  | .addrNoncanonical => .handler
  | .addrWindow => .handler
  | .windowRange => .handler
  | .privateAlias => .handler
  | .atomicAlign => .handler
  | .ptFormat => .plex
  | .pageFault => .firstTouch
  | .pageAbsent => .plex
  | .pageProt => .handler
  | .pageCow => .firstTouch
  | .pageHole => .handler
  | .bulkheadGate => .handler
  | .windowPeerReset => .deferred
  | .windowRevoked => .handler
  | .fabricDevice => .handler
  | .fabricWriteLost => .deferred
  | .matrixForm => .handler
  | .spId => .handler
  | .spBroken => .handler
  | .objState => .handler
  | .stableStore => .handler
  | .frozenStore => .handler
  | .pinRevoked => .event
  | .dpaHole => .event
  | .fpoolLow => .event
  | .lcSat => .event
  | .spLogFull => .event
  | .spBudget => .event
  | .spNv => .event
  | .spOf => .event
  | .ueEngine => .restart
  | .spPoison => .event
  | .tenderUnplaced => .deferred
  | .withdrawnBid => .event
  | .amTarget => .deferred
  | .amAbort => .deferred
  | .taskAbort => .event
  | .collPeer => .completion
  | .fabricReadLost => .deferred
  | .fabricRate => .completion
  | .launchRefused => .completion
  | .evqOverflow => .event
  | .quarantined => .event
  | .governorThrottle => .event
  | .collCancel => .completion
  | .taskCancel => .deferred
  | .chorusFault => .event
  | .launchAbort => .grid
  | .sigMismatch => .restart
  | .silentErrorPersistent => .plex
  | .ueL1 => .restart
  | .ueL2 => .restart
  | .ueHbm => .restart
  | .ueRemote => .restart
  | .ueFetch => .plex
  | .replayMismatch => .event
  | .replaySplit => .grid
  | .gangAbort => .grid
  | .timerExpired => .handler
  | .ctxEvictTimeout => .status
  | .drainDeadline => .grid
  | .cutTimeout => .status
  | .ctxDestroyed => .grid
  | .frameExhausted => .grid
  | .signalLost => .event

/-- The causes whose handler lanes receive an address (R389): 0x20 to 0x2F, STABLE_STORE and FROZEN_STORE. -/
def Cause.isAddress (c : Cause) : Bool :=
  (decide (0x20 ≤ c.code.toNat) && decide (c.code.toNat ≤ 0x2F)) || c == .stableStore || c == .frozenStore

/-- The causes in the order of their codes. -/
def Cause.all : List Cause :=
  [.zeroWord, .illegalInstr, .illegalForm, .privilege, .targetForm, .operandRange, .sysregValue, .shapeForm,
   .launchForm, .chorusForm, .copyForm, .collForm, .softTrap, .breakpoint, .handlerNest, .trvecForm,
   .regEmpty, .regIndexRange, .divOverflow, .joinMismatch, .idemDiverged, .detmSpan, .barState, .accRange,
   .accVersion, .muHeld, .uePool, .imageForm, .imagePoison, .stackForm, .swapFail, .migrateFail,
   .addrNoncanonical, .addrWindow, .windowRange, .privateAlias, .atomicAlign, .ptFormat, .pageFault, .pageAbsent,
   .pageProt, .pageCow, .pageHole, .bulkheadGate, .windowPeerReset, .windowRevoked, .fabricDevice, .fabricWriteLost,
   .matrixForm, .spId, .spBroken, .objState, .stableStore, .frozenStore, .pinRevoked, .dpaHole,
   .fpoolLow, .lcSat, .spLogFull, .spBudget, .spNv, .spOf, .ueEngine, .spPoison,
   .tenderUnplaced, .withdrawnBid, .amTarget, .amAbort, .taskAbort, .collPeer, .fabricReadLost, .fabricRate,
   .launchRefused, .evqOverflow, .quarantined, .governorThrottle, .collCancel, .taskCancel, .chorusFault, .launchAbort,
   .sigMismatch, .silentErrorPersistent, .ueL1, .ueL2, .ueHbm, .ueRemote, .ueFetch, .replayMismatch,
   .replaySplit, .gangAbort, .timerExpired, .ctxEvictTimeout, .drainDeadline, .cutTimeout, .ctxDestroyed, .frameExhausted,
   .signalLost]

/-- The cause with a code, where there is one (R392: 0x61 to 0x7F are never raised). -/
def Cause.ofCode (n : BitVec 7) : Option Cause := Cause.all.find? fun c => c.code == n

end Sys2Proof.Machine
end

