-- ==== Sys2Proof/Syntax.lean ====
section
/-! DEFINITION. The instructions and device steps of the 9120: one constructor for each row of the opcode
table. Rows 0 to 377 are instruction forms, with the fields of R212 to R218. Rows 378 to 515 are steps of the
device that have no encoding; their arguments say which unit, request or register the step concerns. -/

namespace Sys2Proof

/-- The fields of word 0 besides OP and LEN (R212). -/
structure Word0 where
  b : BitVec 6
  a : Byte
  d : Byte
deriving DecidableEq, Repr

/-- The fields of an extended form of class A (R212 to R216): `b` is BH:B, `w2` is word 2. -/
structure ExtA where
  d : Byte
  a : Byte
  b : Byte
  c : Byte
  mod : BitVec 6
  ty : BitVec 4
  rnd : BitVec 3
  sat : BitVec 1
  fe : BitVec 3
  gn : BitVec 1
  g : BitVec 4
  w2 : Word
deriving DecidableEq, Repr

/-- The fields of an extended form of class E (R214). -/
structure ExtE where
  d : Byte
  a : Byte
  b : Byte
  c : Byte
  sigx : BitVec 14
  fe : BitVec 3
  gn : BitVec 1
  g : BitVec 4
  w2 : Word
deriving DecidableEq, Repr

/-- The fields of an extended form of class M (R214). -/
structure ExtM where
  d : Byte
  a : Byte
  b : Byte
  c : Byte
  rq : BitVec 3
  ord : BitVec 2
  sys : BitVec 1
  ty : BitVec 4
  lo : BitVec 1
  modm : BitVec 3
  fe : BitVec 3
  gn : BitVec 1
  g : BitVec 4
  w2 : Word
deriving DecidableEq, Repr

/-- Registers of the device register space that REGISTER_WRITE and RONURI_START write, with the bulkhead,
core, tenant entry or context that each belongs to. -/
inductive DevReg where
  | bhWdog (bh : Nat)            -- R44
  | bhFdtbase (bh : Nat)         -- R56
  | bhFpool (bh : Nat)           -- R59
  | bhFplow (bh : Nat)           -- R59
  | l2Pinmax (bh : Nat)          -- R116
  | chorusWin (bh : Nat)         -- R172
  | chorusWdlim (bh : Nat)       -- R172
  | chorusHop (bh core : Nat)    -- R172
  | gateErr (bh : Nat)           -- R38
  | tntErr                       -- R37
  | tntShape (n : Nat)           -- R36
  | tntFab (n : Nat)             -- R417
  | tntQrate (n : Nat)           -- R422
  | fabCfg                       -- R416
  | fabRetrainBudget             -- R142
  | ctx (asid : Nat) (number : BitVec 12)   -- R242, through the context's save area
deriving DecidableEq, Repr

/-- The operations of atomics (R329, R330). -/
inductive Machine.AtOp where
  | add | addF | minS | minU | maxS | maxU | and | or | xor | xchg | cas | inc | dec
deriving DecidableEq, Repr

/-- What a fabric request of a peer device asks for (R417): `sc` marks an SC operation (R139). -/
inductive FabKind where
  | load (sc : Bool)
  | store (sc : Bool)
  | atomic (op : Machine.AtOp) (sc : Bool)
deriving DecidableEq, Repr

/-- A request of a peer device as it arrives at this device's fabric gate (R417, R26): `cmp` is the compare value of an
atomic, `counter` the sender's counter (R96), `poison` marks poisoned data (R41). -/
structure FabReq where
  device : Nat
  tid : BitVec 16
  kind : FabKind
  offset : Nat
  size : Nat
  data : DWord
  cmp : DWord
  counter : Nat
  poison : Bool
deriving DecidableEq, Repr

/-- Where a soft error strikes (R83). -/
inductive ErrorSite where
  | pool (core : Nat) (asid : Nat) (offset : Nat)
  | l1 (core : Nat) (word : Nat)
  | l2 (word : Nat)
  | hbm (word : Nat)
  | control (g : Nat)
  | reg (g : Nat) (n : Nat) (lane : Nat)
  | tile (team : Nat) (core : Nat) (part : Nat) (n : Nat) (elem : Nat)
deriving DecidableEq, Repr

/-- Who waits for the supervisor plex (R69): a group, an engine request, or a binding of a bulkhead's SPE (R352). -/
inductive Waiter where
  | group (g : Nat)
  | engine (id : Nat)
  | binding (bh b : Nat)
  | outside (id : Nat)
deriving DecidableEq, Repr

/-- One constructor for each row of the opcode table, in the table's order. -/
inductive Instr where
  /-- TRAP0 (R227): The all-zero word is never executed and traps ZERO_WORD. -/
  | trap0
  /-- ILL (R227): A word 0 with OP 0xFF is never executed and traps ILLEGAL_INSTR. -/
  | ill (w : Word)
  /-- NOP (R226): Compact no-operation; it only feeds SIG. -/
  | nop (f : Word0)
  /-- NOP_EXT (R226): Extended form of the no-operation. -/
  | nopExt (f : ExtA)
  /-- BR (R231): Unconditional branch to a word offset, with a signature check. -/
  | br (f : ExtE)
  /-- BC_EQ (R230): Branch when two scalars are equal. -/
  | bcEq (f : ExtE)
  /-- BC_NE (R230): Branch when two scalars differ. -/
  | bcNe (f : ExtE)
  /-- BC_LT (R230): Branch when s[A] < s[B] as i64. -/
  | bcLt (f : ExtE)
  /-- BC_GE (R230): Branch when s[A] >= s[B] as i64. -/
  | bcGe (f : ExtE)
  /-- BC_LTN (R230): Branch when s[A] < s[B] as n64. -/
  | bcLtn (f : ExtE)
  /-- BC_GEN (R230): Branch when s[A] >= s[B] as n64. -/
  | bcGen (f : ExtE)
  /-- BANY (R230): Branch when any active lane is set in k[A]. -/
  | bany (f : ExtE)
  /-- BALL (R230): Branch when every active lane is set in k[A]. -/
  | ball (f : ExtE)
  /-- BNONE (R230): Branch when no active lane is set in k[A]. -/
  | bnone (f : ExtE)
  /-- BDIV (R234): Splits the slot's lanes into branching and fall-through sides, pushing the divergence stack if needed. -/
  | bdiv (f : ExtE)
  /-- JOIN (R235): Reconverges two PC slots or pops a divergence-stack entry. -/
  | join (f : ExtE)
  /-- CALL (R232): Writes the link and transfers to a relative target. -/
  | call (f : ExtE)
  /-- CALL_ABSOLUTE (R232): LEN 11 call to a literal absolute target. -/
  | callAbsolute (f : ExtE) (lit : DWord)
  /-- RET (R232): Transfers to the address in s[A]. -/
  | ret (f : ExtE)
  /-- JMP (R232): Transfers to s[A] plus a word displacement. -/
  | jmp (f : ExtE)
  /-- JMP_ABSOLUTE (R232): LEN 11 jump to a literal absolute target. -/
  | jmpAbsolute (f : ExtE) (lit : DWord)
  /-- EXIT (R236): Ends the issuing slot's lanes, and the group when no slot or stack entry remains. -/
  | exit (f : ExtE)
  /-- IDEM (R237): Compact form; opens an idempotent region, recording entry PC, SIG and draw counters. -/
  | idem (f : Word0)
  /-- IDEM_EXT (R237): Extended form of idem. -/
  | idemExt (f : ExtA)
  /-- STEP (R238): Compact form; counts a compiler step boundary, stopping at a pending cut. -/
  | step (f : Word0)
  /-- STEP_EXT (R238): Extended form of step with an immediate step number. -/
  | stepExt (f : ExtA)
  /-- TRAP (R239): Takes SOFT_TRAP with argument n after the signature check. -/
  | trap (f : ExtE)
  /-- ERET (R391): Returns from handler mode to the saved PC, mask and SIG. -/
  | eret (f : ExtE)
  /-- MFSYS (R241): Reads a system register into s[D]. -/
  | mfsys (f : ExtA)
  /-- MTSYS (R241): Writes s[A] to a system register after privilege and value checks. -/
  | mtsys (f : ExtA)
  /-- YIELD (R248): Compact form; restarts the slot's ready age. -/
  | yield (f : Word0)
  /-- YIELD_EXT (R248): Extended form of yield. -/
  | yieldExt (f : ExtA)
  /-- TMSET (R246): Compact form; arms the group timer from s[B]. -/
  | tmset (f : Word0)
  /-- TMSET_EXT (R246): Extended form of tmset with an immediate count. -/
  | tmsetExt (f : ExtA)
  /-- RDCYC (R247): Compact form; returns CYC, or the retired-instruction count in deterministic mode. -/
  | rdcyc (f : Word0)
  /-- RDCYC_EXT (R247): Extended form of rdcyc. -/
  | rdcycExt (f : ExtA)
  /-- DETM (R249): Compact form; turns the team's deterministic mode on or off once all groups arrive. -/
  | detm (f : Word0)
  /-- DETM_EXT (R249): Extended form of detm with an immediate operand. -/
  | detmExt (f : ExtA)
  /-- SIGCK (R250): Checks SIG against SIGX and resets it. -/
  | sigck (f : ExtE)
  /-- CTXSW (R251): Switches twin contexts on the named cores of the bulkhead. -/
  | ctxsw (f : ExtA)
  /-- FINJ (R252): Injects a signature, poison or suspicion fault for testing. -/
  | finj (f : ExtA)
  /-- BRK (R239): Compact form; takes BREAKPOINT when CTX_DBG.BRK is set. -/
  | brk (f : Word0)
  /-- BRK_EXT (R239): Extended form of brk with an immediate argument. -/
  | brkExt (f : ExtA)
  /-- SADD (R253): Compact scalar add. -/
  | sadd (f : Word0)
  /-- SADD_EXT (R253): Extended scalar add, optionally saturating or with an immediate. -/
  | saddExt (f : ExtA)
  /-- SSUB (R253): Compact scalar subtract. -/
  | ssub (f : Word0)
  /-- SSUB_EXT (R253): Extended scalar subtract. -/
  | ssubExt (f : ExtA)
  /-- SMUL (R253): Compact scalar multiply, low 64 bits. -/
  | smul (f : Word0)
  /-- SMUL_EXT (R253): Extended scalar multiply. -/
  | smulExt (f : ExtA)
  /-- SMULH (R253): Compact scalar multiply, high 64 bits as i64. -/
  | smulh (f : Word0)
  /-- SMULH_EXT (R253): Extended scalar multiply high, signed or unsigned. -/
  | smulhExt (f : ExtA)
  /-- SAND (R253): Compact scalar AND. -/
  | sand (f : Word0)
  /-- SAND_EXT (R253): Extended scalar AND. -/
  | sandExt (f : ExtA)
  /-- SOR (R253): Compact scalar OR. -/
  | sor (f : Word0)
  /-- SOR_EXT (R253): Extended scalar OR. -/
  | sorExt (f : ExtA)
  /-- SXOR (R253): Compact scalar XOR. -/
  | sxor (f : Word0)
  /-- SXOR_EXT (R253): Extended scalar XOR. -/
  | sxorExt (f : ExtA)
  /-- SSHL (R253): Compact scalar shift left by an immediate. -/
  | sshl (f : Word0)
  /-- SSHL_EXT (R253): Extended scalar shift left. -/
  | sshlExt (f : ExtA)
  /-- SSHR (R253): Compact scalar logical shift right by an immediate. -/
  | sshr (f : Word0)
  /-- SSHR_EXT (R253): Extended scalar logical shift right. -/
  | sshrExt (f : ExtA)
  /-- SSRA (R253): Compact scalar arithmetic shift right by an immediate. -/
  | ssra (f : Word0)
  /-- SSRA_EXT (R253): Extended scalar arithmetic shift right. -/
  | ssraExt (f : ExtA)
  /-- SMIN (R253): Compact scalar signed minimum. -/
  | smin (f : Word0)
  /-- SMIN_EXT (R253): Extended scalar signed minimum. -/
  | sminExt (f : ExtA)
  /-- SMAX (R253): Compact scalar signed maximum. -/
  | smax (f : Word0)
  /-- SMAX_EXT (R253): Extended scalar signed maximum. -/
  | smaxExt (f : ExtA)
  /-- SMINN (R253): Compact scalar unsigned minimum. -/
  | sminn (f : Word0)
  /-- SMINN_EXT (R253): Extended scalar unsigned minimum. -/
  | sminnExt (f : ExtA)
  /-- SMAXN (R253): Compact scalar unsigned maximum. -/
  | smaxn (f : Word0)
  /-- SMAXN_EXT (R253): Extended scalar unsigned maximum. -/
  | smaxnExt (f : ExtA)
  /-- SMOV (R255): Compact scalar move. -/
  | smov (f : Word0)
  /-- SMOV_EXT (R255): Extended scalar move. -/
  | smovExt (f : ExtA)
  /-- SLI (R255): Compact scalar load of a sign-extended 6-bit immediate. -/
  | sli (f : Word0)
  /-- SLI_EXT (R255): Extended scalar load of a 32-bit immediate. -/
  | sliExt (f : ExtA)
  /-- SLI_LITERAL (R255): LEN 10 scalar load of a 64-bit literal. -/
  | sliLiteral (f : Word0) (lit : DWord)
  /-- SSET (R255): Compact scalar set on equal. -/
  | sset (f : Word0)
  /-- SSET_EXT (R255): Extended scalar set on a coded condition. -/
  | ssetExt (f : ExtA)
  /-- SSEL (R255): Compact scalar select on the old s[D]. -/
  | ssel (f : Word0)
  /-- SSEL_EXT (R255): Extended scalar select. -/
  | sselExt (f : ExtA)
  /-- SLD (R256): Scalar load from memory into s[D]. -/
  | sld (f : ExtM)
  /-- SST (R256): Scalar store of s[D] to memory. -/
  | sst (f : ExtM)
  /-- XLAT (R62): Translates one global address and fills a translation register. -/
  | xlat (f : ExtM)
  /-- SHLD (R259): Loads a 32-byte shape record into h[D]. -/
  | shld (f : ExtA)
  /-- SHSET (R259): Sets one field of a shape register. -/
  | shset (f : ExtA)
  /-- SHGET (R259): Reads one field of a shape register. -/
  | shget (f : ExtA)
  /-- LSSET (R260): Compact form; sets the loss scale from s[A]. -/
  | lsset (f : Word0)
  /-- LSSET_EXT (R260): Extended lsset, including the .up and .dn forms that double or halve LS. -/
  | lssetExt (f : ExtA)
  /-- LSGET (R260): Compact form; reads the loss scale. -/
  | lsget (f : Word0)
  /-- LSGET_EXT (R260): Extended form of lsget. -/
  | lsgetExt (f : ExtA)
  /-- OVFRD (R261): Compact form; reads OVF after pending merges. -/
  | ovfrd (f : Word0)
  /-- OVFRD_EXT (R261): Extended ovfrd, with .clr clearing selected flags in one step. -/
  | ovfrdExt (f : ExtA)
  /-- KPOP (R262): Compact form; counts set bits of a mask. -/
  | kpop (f : Word0)
  /-- KPOP_EXT (R262): Extended kpop, optionally ANDed with the slot mask. -/
  | kpopExt (f : ExtA)
  /-- KFFS (R262): Compact form; finds the lowest set bit of a mask. -/
  | kffs (f : Word0)
  /-- KFFS_EXT (R262): Extended form of kffs. -/
  | kffsExt (f : ExtA)
  /-- VTOS (R263): Compact form; moves one lane of a vector register to a scalar. -/
  | vtos (f : Word0)
  /-- VTOS_EXT (R263): Extended vtos with a type selector. -/
  | vtosExt (f : ExtA)
  /-- STOV (R263): Compact form; broadcasts a scalar into the active lanes of v[D]. -/
  | stov (f : Word0)
  /-- STOV_EXT (R263): Extended stov, including the 64-bit pair form. -/
  | stovExt (f : ExtA)
  /-- SDIV (R254): Compact scalar signed division. -/
  | sdiv (f : Word0)
  /-- SDIV_EXT (R254): Extended scalar division with remainder and unsigned options. -/
  | sdivExt (f : ExtA)
  /-- VADD_I32 (R270): Compact 32-bit vector add. -/
  | vaddI32 (f : Word0)
  /-- VADD_I32_EXT (R270): Extended 32-bit vector add with selector and saturation. -/
  | vaddI32Ext (f : ExtA)
  /-- VSUB_I32 (R270): Compact 32-bit vector subtract. -/
  | vsubI32 (f : Word0)
  /-- VSUB_I32_EXT (R270): Extended 32-bit vector subtract. -/
  | vsubI32Ext (f : ExtA)
  /-- VMUL_I32 (R270): Compact 32-bit vector multiply, low half. -/
  | vmulI32 (f : Word0)
  /-- VMUL_I32_EXT (R270): Extended 32-bit vector multiply. -/
  | vmulI32Ext (f : ExtA)
  /-- VMULH_I32 (R270): Compact 32-bit vector multiply, high half. -/
  | vmulhI32 (f : Word0)
  /-- VMULH_I32_EXT (R270): Extended 32-bit vector multiply high. -/
  | vmulhI32Ext (f : ExtA)
  /-- VMAD_I32 (R270): Compact accumulating multiply-add into v[D]. -/
  | vmadI32 (f : Word0)
  /-- VMAD_I32_EXT (R270): Extended 32-bit multiply-add with a third source. -/
  | vmadI32Ext (f : ExtA)
  /-- VADD_I64 (R270): Compact 64-bit pair add. -/
  | vaddI64 (f : Word0)
  /-- VADD_I64_EXT (R270): Extended 64-bit pair add. -/
  | vaddI64Ext (f : ExtA)
  /-- VSUB_I64 (R270): Compact 64-bit pair subtract. -/
  | vsubI64 (f : Word0)
  /-- VSUB_I64_EXT (R270): Extended 64-bit pair subtract. -/
  | vsubI64Ext (f : ExtA)
  /-- VMIN (R271): Compact i8 vector minimum. -/
  | vmin (f : Word0)
  /-- VMIN_EXT (R271): Extended typed vector minimum. -/
  | vminExt (f : ExtA)
  /-- VMAX (R271): Compact i8 vector maximum. -/
  | vmax (f : Word0)
  /-- VMAX_EXT (R271): Extended typed vector maximum. -/
  | vmaxExt (f : ExtA)
  /-- VABS_I32 (R270): Compact 32-bit absolute value. -/
  | vabsI32 (f : Word0)
  /-- VABS_I32_EXT (R270): Extended 32-bit absolute value. -/
  | vabsI32Ext (f : ExtA)
  /-- VAND (R272): Compact vector AND. -/
  | vand (f : Word0)
  /-- VAND_EXT (R272): Extended vector AND. -/
  | vandExt (f : ExtA)
  /-- VOR (R272): Compact vector OR. -/
  | vor (f : Word0)
  /-- VOR_EXT (R272): Extended vector OR. -/
  | vorExt (f : ExtA)
  /-- VXOR (R272): Compact vector XOR. -/
  | vxor (f : Word0)
  /-- VXOR_EXT (R272): Extended vector XOR. -/
  | vxorExt (f : ExtA)
  /-- VANDN (R272): Compact vector AND NOT. -/
  | vandn (f : Word0)
  /-- VANDN_EXT (R272): Extended vector AND NOT. -/
  | vandnExt (f : ExtA)
  /-- VSHL (R272): Compact vector shift left by an immediate. -/
  | vshl (f : Word0)
  /-- VSHL_EXT (R272): Extended vector shift left. -/
  | vshlExt (f : ExtA)
  /-- VSHR (R272): Compact vector logical shift right by an immediate. -/
  | vshr (f : Word0)
  /-- VSHR_EXT (R272): Extended vector logical shift right. -/
  | vshrExt (f : ExtA)
  /-- VSRA (R272): Compact vector arithmetic shift right by an immediate. -/
  | vsra (f : Word0)
  /-- VSRA_EXT (R272): Extended vector arithmetic shift right. -/
  | vsraExt (f : ExtA)
  /-- VROT (R272): Compact vector rotate left by an immediate. -/
  | vrot (f : Word0)
  /-- VROT_EXT (R272): Extended vector rotate left. -/
  | vrotExt (f : ExtA)
  /-- VBFE (R273): Compact bit-field extract. -/
  | vbfe (f : Word0)
  /-- VBFE_EXT (R273): Extended bit-field extract, optionally sign-extending. -/
  | vbfeExt (f : ExtA)
  /-- VBFI (R273): Compact bit-field insert into v[D]. -/
  | vbfi (f : Word0)
  /-- VBFI_EXT (R273): Extended bit-field insert with a third source. -/
  | vbfiExt (f : ExtA)
  /-- VPOPC (R273): Compact per-lane population count. -/
  | vpopc (f : Word0)
  /-- VPOPC_EXT (R273): Extended population count. -/
  | vpopcExt (f : ExtA)
  /-- VCLZ (R273): Compact per-lane leading-zero count. -/
  | vclz (f : Word0)
  /-- VCLZ_EXT (R273): Extended leading-zero count. -/
  | vclzExt (f : ExtA)
  /-- VCMP (R275): Compares typed lanes into a mask register. -/
  | vcmp (f : ExtA)
  /-- VSEL (R276): Compact select under k0. -/
  | vsel (f : Word0)
  /-- VSEL_EXT (R276): Extended select under a mask register. -/
  | vselExt (f : ExtA)
  /-- VMOV (R274): Compact vector register move. -/
  | vmov (f : Word0)
  /-- VMOV_EXT (R274): Extended vector move, optionally of pairs. -/
  | vmovExt (f : ExtA)
  /-- VLI (R274): Compact vector load of a sign-extended immediate. -/
  | vli (f : Word0)
  /-- VLI_EXT (R274): Extended vector load of a 32-bit immediate. -/
  | vliExt (f : ExtA)
  /-- VLI_LITERAL (R274): LEN 10 pair load of a 64-bit literal. -/
  | vliLiteral (f : Word0) (lit : DWord)
  /-- VID (R274): Compact form; writes each lane's index. -/
  | vid (f : Word0)
  /-- VID_EXT (R274): Extended vid, optionally the global lane index. -/
  | vidExt (f : ExtA)
  /-- KAND (R277): Compact mask AND. -/
  | kand (f : Word0)
  /-- KAND_EXT (R277): Extended mask AND. -/
  | kandExt (f : ExtA)
  /-- KOR (R277): Compact mask OR. -/
  | kor (f : Word0)
  /-- KOR_EXT (R277): Extended mask OR. -/
  | korExt (f : ExtA)
  /-- KXOR (R277): Compact mask XOR. -/
  | kxor (f : Word0)
  /-- KXOR_EXT (R277): Extended mask XOR. -/
  | kxorExt (f : ExtA)
  /-- KNOT (R277): Compact mask NOT. -/
  | knot (f : Word0)
  /-- KNOT_EXT (R277): Extended mask NOT. -/
  | knotExt (f : ExtA)
  /-- KMOV (R277): Compact mask move. -/
  | kmov (f : Word0)
  /-- KMOV_EXT (R277): Extended mask move. -/
  | kmovExt (f : ExtA)
  /-- KMOV_Q (R277): Writes one 64-bit quarter of a mask from a scalar. -/
  | kmovQ (f : ExtA)
  /-- KMOV_ACT (R277): Copies the issuing slot's mask into a mask register. -/
  | kmovAct (f : ExtA)
  /-- VMATCH (R278): Compact form; gives each lane the lowest active lane holding the same value. -/
  | vmatch (f : Word0)
  /-- VMATCH_EXT (R278): Extended vmatch, optionally on pairs. -/
  | vmatchExt (f : ExtA)
  /-- VMRANK (R278): Compact form; ranks each lane among equal active values. -/
  | vmrank (f : Word0)
  /-- VMRANK_EXT (R278): Extended vmrank, with pair and count options. -/
  | vmrankExt (f : ExtA)
  /-- VBFLY (R279): Compact butterfly exchange at distance 2^s[B]. -/
  | vbfly (f : Word0)
  /-- VBFLY_EXT (R279): Extended butterfly exchange. -/
  | vbflyExt (f : ExtA)
  /-- VSHFL (R280): Compact lane shuffle by a vector of indices. -/
  | vshfl (f : Word0)
  /-- VSHFL_EXT (R280): Extended lane shuffle. -/
  | vshflExt (f : ExtA)
  /-- VBCAST (R280): Compact broadcast of lane s[B]. -/
  | vbcast (f : Word0)
  /-- VBCAST_EXT (R280): Extended lane broadcast. -/
  | vbcastExt (f : ExtA)
  /-- VSCAN (R281): Compact inclusive i8 add scan over active lanes. -/
  | vscan (f : Word0)
  /-- VSCAN_EXT (R281): Extended prefix scan with operation, type and exclusive options. -/
  | vscanExt (f : ExtA)
  /-- VRED (R282): Compact i8 add reduction over active lanes. -/
  | vred (f : Word0)
  /-- VRED_EXT (R282): Extended reduction with operation and type. -/
  | vredExt (f : ExtA)
  /-- VSAT (R271): Compact clamp of an i32 value to i8. -/
  | vsat (f : Word0)
  /-- VSAT_EXT (R271): Extended clamp to a typed range. -/
  | vsatExt (f : ExtA)
  /-- VXLD (R285): Reads registers indirectly through an index register. -/
  | vxld (f : ExtA)
  /-- VXST (R285): Writes registers indirectly through an index register. -/
  | vxst (f : ExtA)
  /-- XSET (R284): Compact form; sets an index register from a vector. -/
  | xset (f : Word0)
  /-- XSET_EXT (R284): Extended xset, optionally from an immediate. -/
  | xsetExt (f : ExtA)
  /-- XWIN (R284): Sets the window of an index register; `compact` says that the word is of LEN 00 (R226), whose
  fields are those of the extended form that it stands for. -/
  | xwin (compact : Bool) (f : ExtA)
  /-- VDOT4_I8 (R270): Compact accumulating 4-way byte dot product. -/
  | vdot4I8 (f : Word0)
  /-- VDOT4_I8_EXT (R270): Extended 4-way byte dot product. -/
  | vdot4I8Ext (f : ExtA)
  /-- VMULW (R270): Compact widening 32x32 to 64-bit multiply. -/
  | vmulw (f : Word0)
  /-- VMULW_EXT (R270): Extended widening multiply. -/
  | vmulwExt (f : ExtA)
  /-- VCLAMP (R271): Compact clamp of A between B and the old D. -/
  | vclamp (f : Word0)
  /-- VCLAMP_EXT (R271): Extended typed clamp. -/
  | vclampExt (f : ExtA)
  /-- VHASH (R283): Compact Mix64 hash of a lane value XOR s[B]. -/
  | vhash (f : Word0)
  /-- VHASH_EXT (R283): Extended vector hash. -/
  | vhashExt (f : ExtA)
  /-- VFADD_F32 (R287): Compact binary32 add. -/
  | vfaddF32 (f : Word0)
  /-- VFADD_F32_EXT (R287): Extended binary32 add. -/
  | vfaddF32Ext (f : ExtA)
  /-- VFSUB_F32 (R287): Compact binary32 subtract. -/
  | vfsubF32 (f : Word0)
  /-- VFSUB_F32_EXT (R287): Extended binary32 subtract. -/
  | vfsubF32Ext (f : ExtA)
  /-- VFMUL_F32 (R287): Compact binary32 multiply. -/
  | vfmulF32 (f : Word0)
  /-- VFMUL_F32_EXT (R287): Extended binary32 multiply. -/
  | vfmulF32Ext (f : ExtA)
  /-- VFFMA_F32 (R287): Compact accumulating binary32 fused multiply-add. -/
  | vffmaF32 (f : Word0)
  /-- VFFMA_F32_EXT (R287): Extended binary32 fused multiply-add. -/
  | vffmaF32Ext (f : ExtA)
  /-- VFADD_F64 (R287): Compact binary64 add. -/
  | vfaddF64 (f : Word0)
  /-- VFADD_F64_EXT (R287): Extended binary64 add. -/
  | vfaddF64Ext (f : ExtA)
  /-- VFMUL_F64 (R287): Compact binary64 multiply. -/
  | vfmulF64 (f : Word0)
  /-- VFMUL_F64_EXT (R287): Extended binary64 multiply. -/
  | vfmulF64Ext (f : ExtA)
  /-- VFFMA_F64 (R287): Compact accumulating binary64 fused multiply-add. -/
  | vffmaF64 (f : Word0)
  /-- VFFMA_F64_EXT (R287): Extended binary64 fused multiply-add. -/
  | vffmaF64Ext (f : ExtA)
  /-- VFADD_F16X2 (R287): Compact packed binary16 add. -/
  | vfaddF16x2 (f : Word0)
  /-- VFADD_F16X2_EXT (R287): Extended packed binary16 add. -/
  | vfaddF16x2Ext (f : ExtA)
  /-- VFFMA_F16X2 (R287): Compact accumulating packed binary16 fma. -/
  | vffmaF16x2 (f : Word0)
  /-- VFFMA_F16X2_EXT (R287): Extended packed binary16 fma. -/
  | vffmaF16x2Ext (f : ExtA)
  /-- VFADD_B16X2 (R287): Compact packed bfloat16 add. -/
  | vfaddB16x2 (f : Word0)
  /-- VFADD_B16X2_EXT (R287): Extended packed bfloat16 add. -/
  | vfaddB16x2Ext (f : ExtA)
  /-- VFFMA_B16X2 (R287): Compact accumulating packed bfloat16 fma. -/
  | vffmaB16x2 (f : Word0)
  /-- VFFMA_B16X2_EXT (R287): Extended packed bfloat16 fma. -/
  | vffmaB16x2Ext (f : ExtA)
  /-- VFMIN (R288): Floating minimum with NaN rules. -/
  | vfmin (f : ExtA)
  /-- VFMAX (R288): Floating maximum with NaN rules. -/
  | vfmax (f : ExtA)
  /-- VFABS (R288): Floating absolute value. -/
  | vfabs (f : ExtA)
  /-- VFNEG (R288): Floating negation. -/
  | vfneg (f : ExtA)
  /-- VFCMP (R289): Floating comparison into a mask register. -/
  | vfcmp (f : ExtA)
  /-- VFDIV_F32 (R290): Compact correctly rounded binary32 divide. -/
  | vfdivF32 (f : Word0)
  /-- VFDIV_F32_EXT (R290): Extended binary32 divide. -/
  | vfdivF32Ext (f : ExtA)
  /-- VFSQRT_F32 (R290): Compact correctly rounded binary32 square root. -/
  | vfsqrtF32 (f : Word0)
  /-- VFSQRT_F32_EXT (R290): Extended binary32 square root. -/
  | vfsqrtF32Ext (f : ExtA)
  /-- VFRCP (R290): Correctly rounded reciprocal. -/
  | vfrcp (f : ExtA)
  /-- VFRSQRT (R290): Correctly rounded reciprocal square root. -/
  | vfrsqrt (f : ExtA)
  /-- VFEXP2 (R290): Correctly rounded exp2. -/
  | vfexp2 (f : ExtA)
  /-- VFLOG2 (R290): Correctly rounded log2. -/
  | vflog2 (f : ExtA)
  /-- VFCLASS (R291): Writes a one-hot floating class mask. -/
  | vfclass (f : ExtA)
  /-- VCVT_F (R296): Converts between floating formats. -/
  | vcvtF (f : ExtA)
  /-- VCVT_FI (R296): Converts floating to integer. -/
  | vcvtFi (f : ExtA)
  /-- VCVT_IF (R296): Converts integer to floating. -/
  | vcvtIf (f : ExtA)
  /-- VQBLK (R297): Compact block quantisation to i8. -/
  | vqblk (f : Word0)
  /-- VQBLK_EXT (R297): Extended block quantisation with format and Hadamard options. -/
  | vqblkExt (f : ExtA)
  /-- VDQBLK (R298): Compact block dequantisation from i8. -/
  | vdqblk (f : Word0)
  /-- VDQBLK_EXT (R298): Extended block dequantisation. -/
  | vdqblkExt (f : ExtA)
  /-- VHAD (R300): Applies a Hadamard transform to lane blocks. -/
  | vhad (f : ExtA)
  /-- VTERN (R301): Compact ternary pack of 16 integer registers. -/
  | vtern (f : Word0)
  /-- VTERN_EXT (R301): Extended ternary pack, threshold pack or element get. -/
  | vternExt (f : ExtA)
  /-- VRAND (R302): Compact form; takes one random draw per active lane. -/
  | vrand (f : Word0)
  /-- VRAND_EXT (R302): Extended vrand, optionally as a float in [0,1). -/
  | vrandExt (f : ExtA)
  /-- ABSRD (R303): Compact form; reads ABSMAX over some drained prefix. -/
  | absrd (f : Word0)
  /-- ABSRD_EXT (R303): Extended absrd, with .settled waiting for the drain. -/
  | absrdExt (f : ExtA)
  /-- ABSCLR (R303): Compact form; waits for the drain and clears ABSMAX. -/
  | absclr (f : Word0)
  /-- ABSCLR_EXT (R303): Extended form of absclr. -/
  | absclrExt (f : ExtA)
  /-- ABSUPD (R303): Compact form; enqueues lane magnitudes to ABSMAX. -/
  | absupd (f : Word0)
  /-- ABSUPD_EXT (R303): Extended form of absupd. -/
  | absupdExt (f : ExtA)
  /-- VFSCALE (R292): Scales floating lanes by a power of two. -/
  | vfscale (f : ExtA)
  /-- VLSCALE (R292): Multiplies or divides lanes by the loss scale. -/
  | vlscale (f : ExtA)
  /-- VFCHK (R292): Marks lanes holding infinities or NaNs. -/
  | vfchk (f : ExtA)
  /-- VFSUM (R293): Sums active lanes through the fixed tree. -/
  | vfsum (f : ExtA)
  /-- VFDOT2_F16 (R294): Compact accumulating 2-way binary16 dot product. -/
  | vfdot2F16 (f : Word0)
  /-- VFDOT2_F16_EXT (R294): Extended 2-way binary16 dot product. -/
  | vfdot2F16Ext (f : ExtA)
  /-- VFDOT2_B16 (R294): Compact accumulating 2-way bfloat16 dot product. -/
  | vfdot2B16 (f : Word0)
  /-- VFDOT2_B16_EXT (R294): Extended 2-way bfloat16 dot product. -/
  | vfdot2B16Ext (f : ExtA)
  /-- VFPACK (R295): Packs two binary32 values into a 16-bit pair. -/
  | vfpack (f : ExtA)
  /-- VFUNPK (R295): Unpacks one half of a 16-bit pair to binary32. -/
  | vfunpk (f : ExtA)
  /-- VFRINT (R288): Rounds to an integral value of the same format. -/
  | vfrint (f : ExtA)
  /-- VFCOPYSIGN (R288): Gives |A| with the sign of B. -/
  | vfcopysign (f : ExtA)
  /-- VFMAXABS (R288): Gives the larger magnitude of two operands. -/
  | vfmaxabs (f : ExtA)
  /-- VNORM2 (R293): Sums squares of active lanes through the fixed tree. -/
  | vnorm2 (f : ExtA)
  /-- VCVT_E8 (R299): Compact pack of four 8-bit codes per lane. -/
  | vcvtE8 (f : Word0)
  /-- VCVT_E8_EXT (R299): Extended 8-bit pack with convert and 6-bit options. -/
  | vcvtE8Ext (f : ExtA)
  /-- VCVT_E4 (R299): Compact pack of eight 4-bit codes per lane. -/
  | vcvtE4 (f : Word0)
  /-- VCVT_E4_EXT (R299): Extended 4-bit pack, optionally converting. -/
  | vcvtE4Ext (f : ExtA)
  /-- VECTOR_SWEEP (R218): LEN 11 form of a sweep-capable vector opcode, repeated over COUNT segments. -/
  | vectorSweep (op : Byte) (f : ExtA) (lit : DWord)
  /-- LD (R308): Per-lane load into v[D]. -/
  | ld (f : ExtM)
  /-- ST (R308): Per-lane store of v[D]. -/
  | st (f : ExtM)
  /-- LDSW (R310): Sweep load over segments. -/
  | ldsw (f : ExtM) (lit : DWord)
  /-- STSW (R310): Sweep store over segments. -/
  | stsw (f : ExtM) (lit : DWord)
  /-- GATHER (R311): Hands a per-lane 64-bit address load to the GE. -/
  | gather (f : ExtM)
  /-- SCATTER (R311): Hands a per-lane 64-bit address store to the GE. -/
  | scatter (f : ExtM)
  /-- LDS (R309): Team-scratchpad-relative load. -/
  | lds (f : ExtM)
  /-- STS (R309): Team-scratchpad-relative store. -/
  | sts (f : ExtM)
  /-- LDC (R309): Cluster-scratchpad-relative load. -/
  | ldc (f : ExtM)
  /-- STC (R309): Cluster-scratchpad-relative store. -/
  | stc (f : ExtM)
  /-- LDP (R309): Private-window-relative load. -/
  | ldp (f : ExtM)
  /-- STP (R309): Private-window-relative store. -/
  | stp (f : ExtM)
  /-- PREF (R315): Prefetches lines into the L1 or home slice. -/
  | pref (f : ExtM)
  /-- L2PIN (R317): Pins the lines of a range at their home slices. -/
  | l2pin (f : ExtM)
  /-- L2UNPIN (R317): Drops the ASID's pins over a range. -/
  | l2unpin (f : ExtM)
  /-- DISCARD (R319): Drops or keeps each line of a range against stamp F. -/
  | discard (f : ExtM)
  /-- WBACK (R318): Ranged write-back of a range to HBM. -/
  | wback (f : ExtM)
  /-- OBJDECL (R321): Declares a coherence object from a record. -/
  | objdecl (f : ExtM)
  /-- OBJSET (R322): Changes an object's state, as a fence. -/
  | objset (f : ExtM)
  /-- OBJREL (R322): Releases an object entry, as a fence. -/
  | objrel (f : ExtM)
  /-- FENCE (R323): Compact plain fence. -/
  | fence (f : Word0)
  /-- FENCE_EXT (R323): Extended fence, including fence.sys. -/
  | fenceExt (f : ExtM)
  /-- ACQ (R323): Compact standalone acquire. -/
  | acq (f : Word0)
  /-- ACQ_EXT (R323): Extended standalone acquire. -/
  | acqExt (f : ExtM)
  /-- REL (R323): Compact standalone release. -/
  | rel (f : Word0)
  /-- REL_EXT (R323): Extended standalone release, including rel.sys. -/
  | relExt (f : ExtM)
  /-- LDSC (R312): Sequentially consistent load. -/
  | ldsc (f : ExtM)
  /-- STSC (R312): Sequentially consistent store. -/
  | stsc (f : ExtM)
  /-- STMC (R313): Store to a multicast set. -/
  | stmc (f : ExtM)
  /-- LDX (R314): Supervisor load from a lane-qualified private address. -/
  | ldx (f : ExtM)
  /-- STX (R314): Supervisor store to a lane-qualified private address. -/
  | stx (f : ExtM)
  /-- WINMAP (R324): Opens a mirror window and issues its fill copy. -/
  | winmap (f : ExtM)
  /-- WINSYNC_WB (R325): Copies a mirror window back to global memory. -/
  | winsyncWb (f : ExtM)
  /-- WINSYNC_FILL (R325): Refills a mirror window from global memory. -/
  | winsyncFill (f : ExtM)
  /-- WINSYNC_CLOSE (R325): Closes a mirror window without copying. -/
  | winsyncClose (f : ExtM)
  /-- TLBINV (R326): Supervisor shootdown of pages of the context's ASID. -/
  | tlbinv (f : ExtM)
  /-- XLATQ (R327): Reports a translation without filling or faulting. -/
  | xlatq (f : ExtM)
  /-- ATADD_I32 (R329): 32-bit atomic add. -/
  | ataddI32 (f : ExtM)
  /-- ATADD_I64 (R329): 64-bit atomic add. -/
  | ataddI64 (f : ExtM)
  /-- ATADDF_F32 (R329): binary32 atomic add. -/
  | ataddfF32 (f : ExtM)
  /-- ATMIN (R329): Atomic minimum. -/
  | atmin (f : ExtM)
  /-- ATMAX (R329): Atomic maximum. -/
  | atmax (f : ExtM)
  /-- ATAND (R329): Atomic AND. -/
  | atand (f : ExtM)
  /-- ATOR (R329): Atomic OR. -/
  | ator (f : ExtM)
  /-- ATXOR (R329): Atomic XOR. -/
  | atxor (f : ExtM)
  /-- ATXCHG (R329): Atomic exchange. -/
  | atxchg (f : ExtM)
  /-- ATCAS_I32 (R330): 32-bit atomic compare-and-swap. -/
  | atcasI32 (f : ExtM)
  /-- ATCAS_I64 (R330): 64-bit atomic compare-and-swap. -/
  | atcasI64 (f : ExtM)
  /-- ATINC (R329): Atomic wrapping increment. -/
  | atinc (f : ExtM)
  /-- ATDEC (R329): Atomic wrapping decrement. -/
  | atdec (f : ExtM)
  /-- ATADDSC (R329): Sequentially consistent atomic add. -/
  | ataddsc (f : ExtM)
  /-- ATCASSC (R330): Sequentially consistent compare-and-swap. -/
  | atcassc (f : ExtM)
  /-- ATWAIT (R331): Stalls until each lane's watched word meets a condition. -/
  | atwait (f : ExtM)
  /-- MWLD (R339): Loads a weight slot from a shape, claiming its pair. -/
  | mwld (f : ExtA)
  /-- MMAC (R342): Multiply-accumulates a stream against a slot into a tile. -/
  | mmac (f : ExtA)
  /-- MTRI (R343): Triangular multiply-accumulate with a fill constant. -/
  | mtri (f : ExtA)
  /-- MLUT (R342): Lookup-plane multiply-accumulate. -/
  | mlut (f : ExtA)
  /-- MTERN (R342): Ternary-plane multiply-accumulate. -/
  | mtern (f : ExtA)
  /-- MZERO (R344): Fills a tile with +0 or a constant. -/
  | mzero (f : ExtA)
  /-- MRD (R345): Copies a tile into vector registers. -/
  | mrd (f : ExtA)
  /-- MWR (R345): Copies vector registers into a tile. -/
  | mwr (f : ExtA)
  /-- MVER (R346): Reads a tile's version. -/
  | mver (f : ExtA)
  /-- MVER_SET (R346): Sets a tile's version once it is idle. -/
  | mverSet (f : ExtA)
  /-- MSCALE (R344): Scales every tile element by a constant. -/
  | mscale (f : ExtA)
  /-- MSTREAM (R341): Sets an activation stream from a shape. -/
  | mstream (f : ExtA)
  /-- MWREL (R340): Releases the team's claim on a slot pair. -/
  | mwrel (f : ExtA)
  /-- SPBIND (R350): Binds a standing product from a binding record. -/
  | spbind (f : ExtA)
  /-- SPUNBIND (R360): Ends a binding after applying its captured records. -/
  | spunbind (f : ExtA)
  /-- SPSETTLE (R136): Waits until every delta that happens-before it is applied to C. -/
  | spsettle (f : ExtA)
  /-- SPQUERY (R356): Reads a binding's state at one point in stamp order. -/
  | spquery (f : ExtA)
  /-- SPREFRESH (R357): Recomputes C from the shadows and returns the drift. -/
  | sprefresh (f : ExtA)
  /-- SPPAUSE (R355): Pauses delta application of a binding. -/
  | sppause (f : ExtA)
  /-- SPRESUME (R355): Resumes delta application of a binding. -/
  | spresume (f : ExtA)
  /-- SPSNAP (R359): Copies C at one stamp point into a shape region. -/
  | spsnap (f : ExtA)
  /-- MBAR (R347): Matrix barrier among the team's groups on a partition. -/
  | mbar (f : ExtA)
  /-- MACCADD (R344): Adds one tile into another. -/
  | maccadd (f : ExtA)
  /-- MPEEK (R346): Reads one tile element into a scalar. -/
  | mpeek (f : ExtA)
  /-- MFMT (R340): Reports a weight slot's claim and latched format. -/
  | mfmt (f : ExtA)
  /-- BAR (R362): Compact team barrier on barrier s[B]. -/
  | bar (f : Word0)
  /-- BAR_EXT (R362): Team barrier with an immediate barrier number. -/
  | barExt (f : ExtA)
  /-- BARAR (R362): Compact barrier arrival. -/
  | barar (f : Word0)
  /-- BARAR_EXT (R362): Barrier arrival with an immediate number. -/
  | bararExt (f : ExtA)
  /-- BARWT (R362): Compact barrier wait. -/
  | barwt (f : Word0)
  /-- BARWT_EXT (R362): Barrier wait with an immediate number. -/
  | barwtExt (f : ExtA)
  /-- CWAIT (R364): Waits until a countdown object reaches 0 or less. -/
  | cwait (f : ExtA)
  /-- ECWAIT (R365): Compact wait until an engine counter falls to s[B]. -/
  | ecwait (f : Word0)
  /-- ECWAIT_EXT (R365): Engine counter wait with an immediate threshold. -/
  | ecwaitExt (f : ExtA)
  /-- KICK (R367): Hands n copy records to the CE. -/
  | kick (f : ExtA)
  /-- COLL (R369): Hands one collective request to the CLE. -/
  | coll (f : ExtA)
  /-- AMSG (R372): Sends an active message to a core of the bulkhead. -/
  | amsg (f : ExtA)
  /-- AMREPLY (R373): Sends a reply value to a message's sender. -/
  | amreply (f : ExtA)
  /-- TENDER (R374): Tenders a task class to the bulkhead's cores. -/
  | tender (f : ExtA)
  /-- BIDLD (R375): Loads a task class record. -/
  | bidld (f : ExtA)
  /-- TQUERY (R376): Reports the state of a tender. -/
  | tquery (f : ExtA)
  /-- LAUNCH (R377): Enqueues a grid from a launch record. -/
  | launch (f : ExtA)
  /-- LAUNCH_FAB (R377): Sends a fabric launch packet and waits for the reply. -/
  | launchFab (f : ExtA)
  /-- LEAVE (R378): Requests a power-leave grant ahead of time. -/
  | leave (f : ExtA)
  /-- LEAVE_Q (R378): Reports whether the team holds a leave grant. -/
  | leaveQ (f : ExtA)
  /-- EVPOST (R382): Posts a software record to the event queue. -/
  | evpost (f : ExtA)
  /-- EVGET (R382): Takes the oldest event record, optionally waiting. -/
  | evget (f : ExtA)
  /-- QWAIT (R384): Waits until a completion object reaches a value. -/
  | qwait (f : ExtA)
  /-- QSIG (R384): Adds to or sets a completion object as a release. -/
  | qsig (f : ExtA)
  /-- GANGSYNC (R363): Barrier among every group of the gang. -/
  | gangsync (f : ExtA)
  /-- REPLAY (R385): Reads the group's replay status. -/
  | replay (f : ExtA)
  /-- DIGEST (R385): Reads the group's store digest. -/
  | digest (f : ExtA)
  /-- PARK (R383): Compact wait for a nonempty event queue or s[B] cycles. -/
  | park (f : Word0)
  /-- PARK_EXT (R383): Park with an immediate cycle count. -/
  | parkExt (f : ExtA)
  /-- CUTQ (R386): Reports the step-count cut of the group's job. -/
  | cutq (f : ExtA)
  /-- DEFERRED_MEMORY_TRAP (R29): A failure known after issue reaches the core and is taken at the next boundary. -/
  | deferredMemoryTrap (g : Nat)
  /-- TIMER_EXPIRED (R246): The group timer reaches 0 and traps before the next issue. -/
  | timerExpired (g : Nat)
  /-- PT_CMD (R68): Compare-and-replace of a page-table entry by mtsys PT_CMD. -/
  | ptCmd (v : DWord)
  /-- FD_READ (R60): FD_CMD READ returns a frame descriptor. -/
  | fdRead (frame : BitVec 23)
  /-- FD_INC (R60): FD_CMD INC raises a frame's REFCNT. -/
  | fdInc (frame : BitVec 23)
  /-- FD_DEC (R60): FD_CMD DEC lowers REFCNT, freeing the frame at 0. -/
  | fdDec (frame : BitVec 23)
  /-- FD_FREE (R60): FD_CMD FREE frees an unreferenced frame to the pool. -/
  | fdFree (frame : BitVec 23) (zf : Bool)
  /-- FP_POP (R59): A read of FP_POP pops a frame from the bulkhead's pool. -/
  | fpPop (d : BitVec 8)
  /-- FT_HANDOFF (R72): Hands the current trap from the handler to the plex. -/
  | ftHandoff (v : DWord)
  /-- TLB_SHOOT (R67): A GO write starts a device-wide shootdown of a page range. -/
  | tlbShoot (word : Nat) (v : DWord)
  /-- SHOOTDOWN_COMPLETE (R66): The shootdown completes once no cache holds the range and earlier accesses are performed. -/
  | shootdownComplete (id : Nat)
  /-- PLEX_RESUME (R69): The plex maps a page and resumes a waiting requester, or fails the grid. -/
  | plexResume (who : Waiter) (tables : List (Nat × DWord)) (resume : Bool)
  /-- SI_LOAD_REQUEST (R93): A home slice serves an si or nc load. -/
  | siLoadRequest (m : Nat)
  /-- OWN_LOAD_REQUEST (R93): A home slice registers the requester and returns the value. -/
  | ownLoadRequest (m : Nat)
  /-- REGISTRATION (R93): A home slice takes an own store or atomic, registering the requester. -/
  | registration (m : Nat)
  /-- WRITE_THROUGH (R93): A home slice performs a wt, nc or written-through store. -/
  | writeThrough (m : Nat)
  /-- NC_ATOMIC (R93): A home slice executes an atomic itself. -/
  | ncAtomic (m : Nat)
  /-- SC_OPERATION (R139): A home slice performs and stamps an SC operation. -/
  | scOperation (m : Nat)
  /-- GRANT (R89): A grant reaches the L1 and the word becomes O. -/
  | grant (m : Nat)
  /-- REVOCATION (R89): An owner returns a revoked word's value and turns it I. -/
  | revocation (m : Nat)
  /-- FORWARDED_READ (R89): An owner returns a word's value and keeps ownership. -/
  | forwardedRead (m : Nat)
  /-- FILL (R102): Fill data reaches the L1 and is retained or only delivered. -/
  | fill (m : Nat)
  /-- WRITE_THROUGH_ACK (R89): An acknowledgement turns a P word V. -/
  | writeThroughAck (m : Nat)
  /-- L1_LINE_EVICTION (R89): An L1 line is evicted to make room. -/
  | l1LineEviction (core : Nat) (line : Nat)
  /-- L2_LINE_EVICTION (R107): An L2 line is evicted, revoking its registered words first. -/
  | l2LineEviction (line : Nat)
  /-- OBJECT_INVALIDATION (R102): An object invalidation arrives and drops tagged words, replicas and redirects. -/
  | objectInvalidation (m : Nat)
  /-- CAPTURE_QUEUE_SEND (R105): A slice sends its next capture record to the SPE. -/
  | captureQueueSend (bh : Nat) (slice : Nat)
  /-- LCS_HEARTBEAT (R105): An idle slice sends its LCS to the SPE every 64 network cycles. -/
  | lcsHeartbeat (bh : Nat) (slice : Nat)
  /-- DELTA_APPLY (R352): The SPE applies one delta record to the shadows and writes C. -/
  | deltaApply (bh : Nat)
  /-- WATCH_ARRIVAL (R331): An atwait or wait watch registers at a home slice and tests the word. -/
  | watchArrival (m : Nat)
  /-- WATCH_RETRY (R331): A lane refused a watch resends after 256 network cycles. -/
  | watchRetry (m : Nat)
  /-- ABSMAX_DRAIN (R144): A queued magnitude is applied to ABSMAX. -/
  | absmaxDrain (g : Nat)
  /-- HMASK_WRITE (R109): Switches interleave selectors of quiesced regions and moves pins. -/
  | hmaskWrite (bh : Nat) (v : DWord)
  /-- L2_QUIESCE_WRITE (R111): Setting or clearing QREG quiesces or releases regions. -/
  | l2QuiesceWrite (bh : Nat) (v : DWord)
  /-- QUIESCE_COMPLETE (R111): The quiesce work or pin transfer finishes and BUSY clears. -/
  | quiesceComplete (bh : Nat)
  /-- L2_WBCMD (R117): Starts a supervisor ranged write-back, optionally dropping lines. -/
  | l2Wbcmd (bh : Nat) (word : Nat) (v : DWord)
  /-- WRITEBACK_COMPLETE (R117): The memory controllers accept every write of a ranged write-back. -/
  | writebackComplete (bh : Nat)
  /-- GATE_ENTRY_WRITE (R38): Writes a gate egress or ingress entry with range checks. -/
  | gateEntryWrite (bh : Nat) (ingress : Bool) (n : Nat) (word : Nat) (v : DWord)
  /-- GATE_REQUEST (R39): A cross-bulkhead request is checked and passed or refused at a gate. -/
  | gateRequest (m : Nat)
  /-- TNT_SHAPE_WRITE (R37): Writes a tenant shape entry with shape checks. -/
  | tntShapeWrite (n : Nat) (v : DWord)
  /-- TNT_FAB_WRITE (R417): Writes a tenant fabric entry with domain checks. -/
  | tntFabWrite (n : Nat) (v : DWord)
  /-- MC_SET_WRITE (R420): Writes a multicast set entry with member checks. -/
  | mcSetWrite (n : Nat) (m : Nat) (v : DWord)
  /-- REGISTER_WRITE (R245): Writes a device or system register that has no behaviour of its own. -/
  | registerWrite (r : DevReg) (v : DWord)
  /-- BULKHEAD_RESET (R45): Starts a bulkhead reset and its Fence phase. -/
  | bulkheadReset (bh : Nat) (cause : BitVec 4)
  /-- RESET_SETTLE (R45): The Settle phase completes accepted requests, revokes and writes back. -/
  | resetSettle (bh : Nat)
  /-- LOGIC_RESET (R45): Cores, slices and engines are reset and resident contexts destroyed. -/
  | logicReset (bh : Nat)
  /-- PLL_RELOCK (R45): The PLL relocks at operating-point code 0. -/
  | pllRelock (bh : Nat)
  /-- MEMORY_REINIT (R45): The HBM controller re-initialises. -/
  | memoryReinit (bh : Nat)
  /-- SELF_TEST (R45): Built-in tests run and the reset completes with a record. -/
  | selfTest (bh : Nat) (failed : BitVec 24) (us : BitVec 32)
  /-- RAIL_FAULT (R42): A fault on a bulkhead rail resets it. -/
  | railFault (bh : Nat)
  /-- PLL_LOCK_LOSS (R42): Loss of PLL lock resets the bulkhead. -/
  | pllLockLoss (bh : Nat)
  /-- SLICE_GATE_FAULT (R42): An uncorrectable slice or gate fault resets the bulkhead. -/
  | sliceGateFault (bh : Nat)
  /-- WATCHDOG_KICK (R44): A KICK write restarts the watchdog count. -/
  | watchdogKick (bh : Nat)
  /-- WATCHDOG_EXPIRY (R44): The watchdog expires and resets the bulkhead. -/
  | watchdogExpiry (bh : Nat)
  /-- VF_BHRESET (R426): A host write resets bulkheads of its own tenant. -/
  | vfBhreset (n : Nat) (v : DWord)
  /-- LAUNCH_READY (R157): A queue's head launch becomes ready when WAIT reaches WVAL. -/
  | launchReady (bh : Nat) (asid : Nat) (q : Nat)
  /-- GANG_PLACEMENT (R161): A gang is placed atomically on a cluster when room allows. -/
  | gangPlacement (bh : Nat) (asid : Nat) (q : Nat)
  /-- OPERATING_POINT_CHANGE (R159): A new operating point becomes stable. -/
  | operatingPointChange (bh : Nat)
  /-- COMPACTION (R153): The compaction engine moves register blocks to merge free space. -/
  | compaction (core : Nat)
  /-- ACTIVE_SET_EXCHANGE (R154): A group waiting 64 cycles yields its active place to a ready group. -/
  | activeSetExchange (out : Nat) (into : Nat)
  /-- GANG_SWAP_OUT (R163): A gang waiting longer than CTX_WAITSWAP is written to an image. -/
  | gangSwapOut (gang : Nat)
  /-- GANG_SWAP_IN (R163): A swapped gang returns once one of its waits is satisfied. -/
  | gangSwapIn (gang : Nat)
  /-- GROUP_END (R236): An exited group frees its slot once counters and replies drain. -/
  | groupEnd (g : Nat)
  /-- GRID_COMPLETION (R158): The last team retires and DONE is advanced. -/
  | gridCompletion (id : Nat)
  /-- COPY_REQUEST (R367): The CE reads a copy record and starts its pieces. -/
  | copyRequest (id : Nat)
  /-- COPY_PIECE (R367): A copy piece is written and the countdown decremented. -/
  | copyPiece (id : Nat)
  /-- ENGINE_RETIREMENT (R134): An engine request retires in order, lowering its counter. -/
  | engineRetirement (id : Nat)
  /-- GATHER_LANE (R311): The GE performs one lane access of a gather or scatter. -/
  | gatherLane (m : Nat)
  /-- COLLECTIVE_STEP (R370): The CLE receives and folds participant data of a collective. -/
  | collectiveStep (id : Nat) (rank : Nat) (data : List DWord)
  /-- MATRIX_OP_START (R336): The matrix unit starts an operation whose tile version matches. -/
  | matrixOpStart (core : Nat) (part : Nat)
  /-- MATRIX_OP_COMPLETE (R336): A matrix operation completes, advancing versions and merging flags. -/
  | matrixOpComplete (core : Nat) (part : Nat)
  /-- SLOT_PAIR_FREE (R338): A released slot pair lets a waiting mwld claim it. -/
  | slotPairFree (core : Nat) (part : Nat) (pair : Nat)
  /-- TENDER_BROADCAST (R170): The chorus broadcasts a tender and cores sample inputs and bid. -/
  | tenderBroadcast (bh : Nat)
  /-- BID_WINDOW_END (R171): The bid window closes and the lowest bidder is awarded. -/
  | bidWindowEnd (bh : Nat)
  /-- AWARD_ACCEPT (R171): The winner accepts the award into its task queue. -/
  | awardAccept (bh : Nat)
  /-- BID_WITHDRAWAL (R171): The winner withdraws and the tender re-runs. -/
  | bidWithdrawal (bh : Nat)
  /-- TASK_START (R434): The dispatcher starts a tendered task when a slot is free. -/
  | taskStart (core : Nat)
  /-- AM_DISPATCH (R373): The dispatcher starts an active-message handler. -/
  | amDispatch (core : Nat)
  /-- AM_REPLY_LANDING (R373): A reply value lands in the sender's registers. -/
  | amReplyLanding (m : Nat)
  /-- REPLAY_RUN (R410): The RVE replays a selected team on other cores. -/
  | replayRun (id : Nat)
  /-- DIGEST_COMPARE (R411): Digests are compared at exit and an arbiter run is started if they differ. -/
  | digestCompare (id : Nat)
  /-- ARBITER_DECISION (R411): An arbiter's digest decides commit, discard or split. -/
  | arbiterDecision (id : Nat)
  /-- SUSPICION_DECAY (R413): A core's suspicion falls by 1 every 2^20 core cycles. -/
  | suspicionDecay (core : Nat)
  /-- QUARANTINE_MIGRATION (R414): A gang of a quarantined core migrates at its team boundary. -/
  | quarantineMigration (gang : Nat)
  /-- MIGRATE_FAIL (R414): A migrating gang found no room for 1 ms. -/
  | migrateFail (gang : Nat)
  /-- SUSP_SCORE_WRITE (R414): A supervisor write of SUSP_SCORE may start or end quarantine. -/
  | suspScoreWrite (core : Nat) (v : DWord)
  /-- SUSP_LIMIT_WRITE (R414): A supervisor write of SUSP_LIMIT may quarantine the core. -/
  | suspLimitWrite (core : Nat) (v : DWord)
  /-- FATAL_FAULT (R415): A fatal fault stops the group and aborts its gang. -/
  | fatalFault (g : Nat) (cause : BitVec 7)
  /-- PRE_DRAIN (R396): PRE_CMD drain stops new work of a context. -/
  | preDrain (bh : Nat) (w0 : DWord) (w1 : DWord) (w2 : DWord)
  /-- PRE_CUT (R398): PRE_CMD cut brings every group to one step count. -/
  | preCut (bh : Nat) (w0 : DWord) (w1 : DWord) (w2 : DWord)
  /-- PRE_EVICT (R399): PRE_CMD evict writes a context's gangs to an image. -/
  | preEvict (bh : Nat) (w0 : DWord) (w1 : DWord) (w2 : DWord)
  /-- PRE_RESTORE (R399): PRE_CMD restore checks and places an image. -/
  | preRestore (bh : Nat) (w0 : DWord) (w1 : DWord) (w2 : DWord)
  /-- PRE_FORCED_RESET (R397): PRE_CMD forced reset stops every group of a context at once. -/
  | preForcedReset (bh : Nat) (w0 : DWord) (w1 : DWord) (w2 : DWord)
  /-- PRE_RELEASE_CUT (R398): PRE_CMD release cut resumes stopped groups. -/
  | preReleaseCut (bh : Nat) (w0 : DWord) (w1 : DWord) (w2 : DWord)
  /-- DRAIN_DEADLINE (R396): The drain deadline expires and a forced reset follows. -/
  | drainDeadline (bh : Nat)
  /-- CUT_DONE (R398): The reduction tree declares the cut complete. -/
  | cutDone (bh : Nat)
  /-- CUT_TIMEOUT (R398): The cut deadline expires and the cut is cancelled. -/
  | cutTimeout (bh : Nat)
  /-- CTX_EVICT_TIMEOUT (R399): The eviction drain exceeds 65,536 network cycles and is abandoned. -/
  | ctxEvictTimeout (bh : Nat)
  /-- EVICTION_DRAIN_DONE (R399): Counters and replies drain and the image is written. -/
  | evictionDrainDone (bh : Nat)
  /-- CTX_EVQ_WRITE (R380): The plex enables or disables a context event queue. -/
  | ctxEvqWrite (bh : Nat) (asid : Nat) (v : DWord)
  /-- SEVQ_GET_WRITE (R381): The plex advances GET of the supervisor event queue. -/
  | sevqGetWrite (v : DWord)
  /-- FABRIC_REQUEST (R417): A fabric request arrives at a target gate and is accepted or refused. -/
  | fabricRequest (r : FabReq)
  /-- FABRIC_ACK (R141): A target acknowledges a posted fabric write as performed. -/
  | fabricAck (id : Nat)
  /-- RETRAIN_BUDGET_EXPIRY (R142): The retrain budget expires and held writes are dropped as lost. -/
  | retrainBudgetExpiry (device : Nat)
  /-- PORT_RETRAINING (R418): A port enters RETRAINING after repeated retry failure. -/
  | portRetraining (port : Nat)
  /-- PORT_UP (R418): A port finishes training and goes UP. -/
  | portUp (port : Nat)
  /-- PORT_DOWN (R418): A port fails training and goes DOWN. -/
  | portDown (port : Nat)
  /-- FORCEDN (R418): A FORCEDN write declares a port down. -/
  | forcedn (ports : BitVec 16)
  /-- FABRIC_LAUNCH_PACKET (R423): A fabric launch packet is checked against the tenant table and rate. -/
  | fabricLaunchPacket (device : Nat) (packet : List Byte)
  /-- FABRIC_LAUNCH_REPLY (R377): A launch reply reaches the sending group. -/
  | fabricLaunchReply (g : Nat) (cause : BitVec 7) (number : BitVec 48)
  /-- TOKEN_REFILL (R422): A tenant's launch bucket gains RATE tokens per millisecond. -/
  | tokenRefill (n : Nat)
  /-- HOST_READ (R143): A host read through BAR2 returns performed data. -/
  | hostRead (vf : Nat) (offset : Nat) (bytes : Nat)
  /-- HOST_WRITE (R143): A host write through BAR2 is performed at its home slice. -/
  | hostWrite (vf : Nat) (offset : Nat) (data : List Byte)
  /-- DOORBELL (R425): A host doorbell write releases queue entries to the dispatcher. -/
  | doorbell (vf : Nat) (q : Nat) (index : Nat)
  /-- HOST_LAUNCH (R427): The dispatcher reads a Hexben queue entry and launches or refuses it. -/
  | hostLaunch (vf : Nat) (q : Nat) (record : DWord) (bh : Nat)
  /-- LEAVE_GRANT (R449): The governor grants the oldest fitting leave request. -/
  | leaveGrant (bh : Nat)
  /-- GOVERNOR_THROTTLE (R449): Draw above BUDGET for 100 us lowers the operating code. -/
  | governorThrottle (bh : Nat) (draw : BitVec 16)
  /-- GOVERNOR_RECOVER (R449): Draw below 90 % of BUDGET for 1 ms raises the code. -/
  | governorRecover (bh : Nat)
  /-- BH_PWR_WRITE (R449): Writes a rail budget, clamped to range and total. -/
  | bhPwrWrite (bh : Nat) (v : DWord)
  /-- POWER_ON (R443): Power-on starts the ROM, or tadpole mode after too many failures. -/
  | powerOn
  /-- IMAGE_VERIFY (R443): The ROM verifies both boot image signatures. -/
  | imageVerify
  /-- RONURI_START (R443): Ronuri starts and writes the fabric and tenant tables. -/
  | ronuriStart (writes : List (DevReg × DWord))
  /-- BULKHEAD_BRINGUP (R443): Rails rise, PLLs lock and HBM and self-test run. -/
  | bulkheadBringup
  /-- HOST_STAGE (R443): The endpoint exposes its functions. -/
  | hostStage
  /-- BOOT_OK_WRITE (R444): Setting BOOT_STAT.OK clears FAILS. -/
  | bootOkWrite (v : DWord)
  /-- BOOT_TIMEOUT (R444): OK not set within 5 s ends the start with a device reset. -/
  | bootTimeout
  /-- FUNCTION_LEVEL_RESET (R445): A function-level reset restarts normally or into tadpole mode. -/
  | functionLevelReset
  /-- MBX_BEGIN (R446): Opens a recovery mailbox session. -/
  | mbxBegin (v : DWord)
  /-- MBX_WRITE (R446): Stores the data window into an NVMe block. -/
  | mbxWrite (v : DWord) (data : List Byte)
  /-- MBX_COMMIT (R446): Verifies the written image and clears FAILS on success. -/
  | mbxCommit (v : DWord)
  /-- MBX_ABORT (R446): Ends the mailbox session. -/
  | mbxAbort (v : DWord)
  /-- TADREQ (R447): The host requests tadpole mode at the next reset. -/
  | tadreq (v : DWord)
  /-- SPDM_REQUEST (R448): The physical function answers an SPDM message through DOE. -/
  | spdmRequest (index : BitVec 8)
  /-- PARK_EXPIRY (R383): A park returns when its N resident core cycles have passed without a record arriving. -/
  | parkExpiry (g : Nat)
  /-- SOFT_ERROR (R83): A soft error strikes a word of the core pool, an L1, an L2 slice or HBM (or the control of a group), to be corrected or to poison the word. -/
  | softError (site : ErrorSite) (correctable : Bool)
  /-- CHORUS_FAULT (R392): An uncorrectable error in a bulkhead's chorus network posts CHORUS_FAULT and makes waiting tenders take TENDER_UNPLACED. -/
  | chorusFault (bh : Nat)
  /-- ZERO_LENGTH_READ_COMPLETION (R143): The host's completion of the zero-length read that flushes posted device writes to host memory arrives, letting a waiting .sys release or fence complete. -/
  | zeroLengthReadCompletion (g : Nat)
  /-- COLL_CANCEL (R392): The supervisor cancels a waiting collective, whose request then fails with COLL_CANCEL. -/
  | collCancel (id : Nat)
deriving DecidableEq, Repr

end Sys2Proof
end

