-- ==== Sys2Proof/Decode.lean ====
section
/-! DEFINITION. Decoding and encoding of the instruction words: the form checks of R210 to R228 and of the
field tables of the instruction chapters, the decoder, and the encoder written from the same tables. -/

namespace Sys2Proof

open Sys2Proof.Machine (Cause)

/-- What decides the privilege checks and the register fields of R220: handler mode, and supervisor privilege
(R390 gives handler mode supervisor privilege). -/
structure Mode where
  hnd : Bool
  sup : Bool
deriving DecidableEq, Repr

/-- The operand kinds of R220, the spans of R267, and the numbers that take the place of a register. -/
inductive Kind where
  | none | vec | pair | mult (m : Nat) | scalar | memBase | mask | index | trans | shape | counter | acc
  | num (lo hi : Nat) | events | any
deriving DecidableEq, Repr

/-- The Decode column of R220. -/
def Kind.ok (hnd : Bool) (k : Kind) (v : Byte) : Bool :=
  let n := v.toNat
  match k with
  | .none => n == 0
  | .vec => true
  | .pair => n % 2 == 0
  | .mult m => n % m == 0
  | .scalar => decide (n < 64) || (hnd && decide (n < 72))
  | .memBase => decide (n < 64) || (hnd && decide (n < 72)) || (decide (128 ≤ n) && decide (n < 136))
  | .mask => decide (n < 16)
  | .index => decide (n < 8)
  | .trans => decide (n < 8)
  | .shape => decide (n < 16)
  | .counter => decide (n < 4)
  | .acc => decide (n < 32)
  | .num lo hi => decide (lo ≤ n) && decide (n ≤ hi)
  | .events => decide (4 ≤ n) && decide (n ≤ 60) && n % 4 == 0
  | .any => true

/-- Whether a kind names vector registers, so that an FE bit may be set for it (R213). -/
def Kind.isVec : Kind → Bool
  | .vec | .pair | .mult _ => true
  | _ => false

/-- What word 2 may hold (R216, R361). -/
inductive Imm where
  | zero | any | range (lo hi : Nat) | offset
deriving DecidableEq, Repr

/-- The check of word 2 (R216): an offset has bits 31:24 zero. -/
def Imm.ok (m : Imm) (w : Word) : Bool :=
  match m with
  | .zero => w.toNat == 0
  | .any => true
  | .range lo hi => decide (lo ≤ w.toNat) && decide (w.toNat ≤ hi)
  | .offset => decide (w.toNat < 2 ^ 24)

/-- What one opcode asks of its fields. `ok` holds the conditions on MOD, TY, RND, SAT, RQ, ORD, SYS and MODM. -/
structure Req where
  d : Kind := .none
  a : Kind := .none
  b : Kind := .none
  c : Kind := .none
  imm : Imm := .zero
  ok : Bool := true
  feD : Bool := false
  feA : Bool := false
deriving DecidableEq, Repr

/-- Privilege of an opcode (R226). -/
inductive Priv where
  | any | handler | supervisor | perReg
deriving DecidableEq, Repr

/-- Word-1 class of an opcode (R214, R226). -/
inductive Cls where
  | a | e | m | none
deriving DecidableEq, Repr

/-- A row of R226. `lens` lists the accepted LEN codes. -/
structure OpForm where
  lens : List Nat
  cls : Cls
  guard : Bool
  priv : Priv
deriving DecidableEq, Repr

/-- Whether `n` lies in one of the ranges. -/
def inRanges (l : List (Nat × Nat)) (n : Nat) : Bool := l.any fun r => decide (r.1 ≤ n) && decide (n ≤ r.2)

/-- The sweep-capable vector opcodes (R226). -/
def sweepCapable (op : Nat) : Bool :=
  inRanges [(0x40, 0x55), (0x57, 0x58), (0x67, 0x67), (0x6C, 0x6E), (0x70, 0x85), (0x87, 0x89), (0x9A, 0x9B)] op

/-- The lengths that an opcode accepts (R226). -/
def opLens (op : Nat) : List Nat :=
  if op == 0x01 then [0, 1]
  else if inRanges [(0x02, 0x0D), (0x0F, 0x0F), (0x11, 0x11), (0x14, 0x17), (0x1C, 0x1E)] op then [1]
  else if op == 0x0E || op == 0x10 then [1, 3]
  else if inRanges [(0x12, 0x13), (0x18, 0x1B), (0x1F, 0x1F), (0x20, 0x2E), (0x30, 0x31), (0x38, 0x3F)] op then [0, 1]
  else if op == 0x2F || op == 0x59 then [0, 1, 2]
  else if inRanges [(0x32, 0x37)] op then [1]
  else if sweepCapable op then [0, 1, 3]
  else if inRanges [(0x68, 0x69)] op then [1]
  else if inRanges [(0x56, 0x9F)] op then [0, 1]
  else if inRanges [(0xA2, 0xA3)] op then [3]
  else if inRanges [(0xB4, 0xB6), (0xE8, 0xEA), (0xEC, 0xEC), (0xFD, 0xFD)] op then [0, 1]
  else if inRanges [(0xA0, 0xFE)] op then [1]
  else []

/-- The word-1 class of an opcode (R226). -/
def opCls (op : Nat) : Cls :=
  if op == 0 || op == 0xFF then .none
  else if inRanges [(0x02, 0x11), (0x14, 0x15), (0x1C, 0x1C)] op then .e
  else if inRanges [(0x32, 0x34), (0xA0, 0xCF)] op then .m
  else .a

/-- Whether an opcode takes a guard (R226). -/
def opGuard (op : Nat) : Bool :=
  inRanges [(0x40, 0x5A), (0x60, 0x8E), (0x91, 0x9F), (0xA0, 0xAC), (0xB7, 0xBB), (0xC0, 0xCF)] op

/-- The privilege of an opcode (R226). -/
def opPriv (op : Nat) : Priv :=
  if op == 0x15 then .handler
  else if op == 0x16 || op == 0x17 then .perReg
  else if inRanges [(0x1D, 0x1E), (0xBA, 0xBB), (0xBE, 0xBE), (0xF2, 0xF2)] op then .supervisor
  else .any

/-- The system register numbers of R242. -/
def sysNumbers : List Nat :=
  [0x000, 0x001, 0x002, 0x003, 0x008, 0x009, 0x00A, 0x00B, 0x00C, 0x00D, 0x00E, 0x100, 0x101, 0x102, 0x103, 0x104,
   0x105, 0x106, 0x107, 0x108, 0x109, 0x10A, 0x10B, 0x10C, 0x200, 0x201, 0x202]

/-- Whether the mode may read (`write = false`) or write a system register (R242). A register whose access is "none",
and a write of FT_HANDOFF outside handler mode, is refused by SYSREG_VALUE, not by privilege (R72, R241). -/
def sysPriv (m : Mode) (write : Bool) (n : Nat) : Bool :=
  if inRanges [(0x008, 0x00D)] n then m.sup
  else if n == 0x00E then !write || m.sup
  else if write && inRanges [(0x100, 0x107), (0x10A, 0x10C), (0x201, 0x202)] n then m.sup
  else true

/-- Check 4 of R228: whether the mode reaches the opcode's privilege; `w2` names the system register. -/
def privOk (m : Mode) (op : Nat) (w2 : Word) : Bool :=
  match opPriv op with
  | .any => true
  | .handler => m.hnd
  | .supervisor => m.sup
  | .perReg => sysPriv m (op == 0x17) (w2.toNat % 4096)

/-- Whether a TY code names an 8-byte element, held in a pair (R265, R305). -/
def tyPair (ty : Nat) : Bool := ty == 6 || ty == 7 || ty == 11

/-- A vector operand of type `ty`. -/
def vecOf (ty : Nat) : Kind := if tyPair ty then .pair else .vec

/-- Whether MOD has only the bits of `m` set. -/
def modIn (f : ExtA) (m : Nat) : Bool := f.mod.toNat &&& (63 - m) == 0

/-- Whether a code is in a list. -/
def oneOf (n : Nat) (l : List Nat) : Bool := l.contains n

/-- RND and SAT at zero. -/
def plain (f : ExtA) : Bool := f.rnd == 0 && f.sat == 0

/-- TY, RND and SAT at zero. -/
def plainTy (f : ExtA) : Bool := f.ty == 0 && plain f

/-- The B selector of R264: the kind of B and word 2, where B read as a register has kind `k`. -/
def selB (f : ExtA) (k : Kind) : Kind := if f.mod.toNat % 4 == 0 then k else if f.mod.toNat % 4 == 2 then .scalar else .none

/-- Word 2 under the B selector. -/
def selImm (f : ExtA) : Imm := if f.mod.toNat % 4 == 1 then .any else .zero

/-- Selector 11 is reserved (R264). -/
def selOk (f : ExtA) : Bool := f.mod.toNat % 4 != 3

/-- A selector that takes an immediate or a scalar only (vbfly, vbcast, vtern). -/
def selUniform (f : ExtA) : Bool := f.mod.toNat % 4 == 1 || f.mod.toNat % 4 == 2

/-- Operand O of R229. -/
def reqO (f : ExtA) (ok : Bool) : Req :=
  { d := .scalar, a := .scalar, b := if f.mod.toNat % 2 == 0 then .scalar else .none
    imm := if f.mod.toNat % 2 == 0 then .zero else .any, ok := f.ty == 0 && f.rnd == 0 && ok }

/-- The formats of vqblk and vdqblk (R297): TY and MOD bits 5:4. -/
def blkFormat (f : ExtA) : Bool :=
  let h := f.mod.toNat / 16
  (h == 0 && oneOf f.ty.toNat [0, 12, 13, 14]) || ((h == 1 || h == 2) && f.ty == 0)

/-- The fields of 0x01 and 0x12 to 0x1F in class A (R226, R229, R237 to R252). -/
def reqSystem (op : Nat) (f : ExtA) : Req :=
  let p := plainTy f && f.mod == 0
  match op with
  | 0x13 | 0x19 | 0x1B | 0x1F => { imm := .any, ok := p }
  | 0x16 => { d := .scalar, imm := .range 0 4095, ok := p && oneOf f.w2.toNat sysNumbers }
  | 0x17 => { a := .scalar, imm := .range 0 4095, ok := p && oneOf f.w2.toNat sysNumbers }
  | 0x1A => { d := .scalar, ok := p }
  | 0x1D => { d := .scalar, a := .scalar, ok := p }
  | 0x1E => { a := .scalar, imm := .range 0 2, ok := p }
  | _ => { ok := p }

/-- The fields of the scalar instructions of class A (R253 to R255, R259 to R263). -/
def reqScalar (op : Nat) (f : ExtA) : Req :=
  let p := plainTy f
  match op with
  | 0x20 | 0x21 => reqO f (modIn f 1)
  | 0x23 => reqO f (modIn f 3 && f.sat == 0)
  | 0x2E => { d := .scalar, a := .scalar, ok := p && f.mod == 0 }
  | 0x2F => { d := .scalar, imm := .any, ok := p && f.mod == 1 }
  | 0x30 => reqO f (f.sat == 0 && decide (f.mod.toNat / 2 ≤ 5))
  | 0x35 => { d := .shape, a := .scalar, imm := .any, ok := p && f.mod == 0 }
  | 0x36 => { d := .shape, a := .scalar, imm := .range 0 4, ok := p && f.mod == 0 }
  | 0x37 => { d := .scalar, a := .shape, imm := .range 0 4, ok := p && f.mod == 0 }
  | 0x38 => { a := if f.mod == 0 then .scalar else .none, ok := p && oneOf f.mod.toNat [0, 2, 4] }
  | 0x39 => { d := .scalar, ok := p && f.mod == 0 }
  | 0x3A => { d := .scalar, a := if f.mod == 1 then .scalar else .none, ok := p && modIn f 1 }
  | 0x3B => { d := .scalar, a := .mask, ok := p && modIn f 1 }
  | 0x3C => { d := .scalar, a := .mask, ok := p && f.mod == 0 }
  | 0x3D => { d := .scalar, a := vecOf f.ty.toNat, b := .scalar
              ok := plain f && f.mod == 0 && oneOf f.ty.toNat [0, 4, 6, 7] }
  | 0x3E => { d := vecOf f.ty.toNat, a := .scalar, ok := plain f && f.mod == 0 && oneOf f.ty.toNat [0, 6, 7] }
  | 0x3F => reqO f (modIn f 7 && f.sat == 0)
  | _ => reqO f (modIn f 1 && f.sat == 0)

/-- A two-source vector instruction with the B selector; `bits` are its further MOD bits, `k` its operand kind. -/
def reqSel (f : ExtA) (k : Kind) (bits : Nat) (ok : Bool) : Req :=
  { d := k, a := k, b := selB f k, imm := selImm f, ok := selOk f && modIn f (3 + bits) && ok }

/-- A one-source vector instruction. -/
def reqOne (k : Kind) (ok : Bool) : Req := { d := k, a := k, ok := ok }

/-- The fields of 0x40 to 0x6F (R270 to R285). -/
def reqVecInt (op : Nat) (f : ExtA) : Req :=
  let p := plainTy f
  let ty := f.ty.toNat
  let pr := f.mod.toNat / 4 % 2 == 1
  let kp := if pr then Kind.pair else Kind.vec
  match op with
  | 0x40 | 0x41 | 0x42 => reqSel f .vec 0 (f.ty == 0 && f.rnd == 0)
  | 0x43 => reqSel f .vec 4 p
  | 0x44 => { reqSel f .vec 0 (f.ty == 0 && f.rnd == 0) with c := .vec }
  | 0x45 | 0x46 => reqSel f .pair 0 (f.ty == 0 && f.rnd == 0)
  | 0x47 | 0x48 => reqSel f (vecOf ty) 0 (plain f && decide (ty ≤ 7))
  | 0x49 => reqOne .vec (f.ty == 0 && f.rnd == 0 && f.mod == 0)
  | 0x52 => reqSel f .vec 4 p
  | 0x53 => { reqSel f .vec 0 p with c := .vec }
  | 0x54 | 0x55 => reqOne .vec (p && f.mod == 0)
  | 0x56 => { reqSel f (vecOf ty) 28 (plain f && decide (4 ≤ ty) && decide (ty ≤ 7) && decide (f.mod.toNat / 4 ≤ 5)) with
              d := .mask }
  | 0x57 => { reqSel f kp 4 p with c := .mask }
  | 0x58 => reqOne kp (p && modIn f 4)
  | 0x59 => { d := .vec, imm := .any, ok := p && f.mod == 0 }
  | 0x5A => { d := .vec, ok := p && modIn f 4 }
  | 0x5B | 0x5C | 0x5D => { d := .mask, a := .mask, b := .mask, ok := p && f.mod == 0 }
  | 0x5E => { d := .mask, a := .mask, ok := p && f.mod == 0 }
  | 0x5F =>
    if f.mod == 1 then { d := .mask, a := .scalar, imm := .range 0 3, ok := p }
    else if f.mod == 2 then { d := .mask, ok := p }
    else { d := .mask, a := .mask, ok := p && f.mod == 0 }
  | 0x60 => { d := .vec, a := kp, ok := p && modIn f 4 }
  | 0x61 => { d := .vec, a := kp, ok := p && modIn f 12 }
  | 0x62 => reqSel f .vec 0 (p && selUniform f)
  | 0x63 => { d := .vec, a := .vec, b := .vec, ok := p && f.mod == 0 }
  | 0x64 => reqSel f kp 4 (p && selUniform f)
  | 0x65 =>
    let add := f.mod.toNat / 4 % 4 == 0
    { d := .vec, a := .vec
      ok := modIn f 28 && f.mod.toNat / 4 % 4 != 3 && oneOf ty [0, 1, 2, 3, 4, 5, 10]
        && (f.rnd == 0 || (add && ty == 10)) && (f.sat == 0 || (add && ty != 10)) }
  | 0x66 =>
    let o := f.mod.toNat / 4
    { d := .vec, a := .vec
      ok := modIn f 28 && decide (o ≤ 5) && (decide (ty ≤ 5) || (ty == 10 && (o == 1 || o == 2))) && f.rnd == 0
        && (f.sat == 0 || (o == 0 && decide (ty ≤ 5))) }
  | 0x67 => { d := .vec, a := kp, ok := plain f && modIn f 12 && decide (ty ≤ 5) }
  | 0x68 => { d := .vec, a := .index, imm := .range 0 255, ok := p && f.mod == 0, feA := true }
  | 0x69 => { d := .index, a := .vec, imm := .range 0 255, ok := p && f.mod == 0 }
  | 0x6A =>
    if f.mod == 1 then { d := .index, imm := .any, ok := p } else { d := .index, a := .vec, ok := p && f.mod == 0 }
  | 0x6B => { d := .index, imm := .range 0 65535, ok := p && f.mod == 0 }
  | 0x6C => { reqSel f .vec 12 (f.ty == 0 && f.rnd == 0) with c := .vec }
  | 0x6D => { reqSel f .vec 4 p with d := .pair }
  | 0x6E => { reqSel f (vecOf ty) 0 (plain f && decide (ty ≤ 7)) with c := vecOf ty }
  | 0x6F => { reqSel f kp 4 (p && f.mod.toNat % 4 == 2) with d := .vec }
  | _ => reqSel f .vec 0 p

/-- The fields of 0x70 to 0x9F (R287 to R303). -/
def reqVecFloat (op : Nat) (f : ExtA) : Req :=
  let ty := f.ty.toNat
  let src := f.mod.toNat / 4
  let hi := f.mod.toNat / 2 % 2 == 1
  let r := f.ty == 0 && f.sat == 0
  let s := f.sat == 0
  match op with
  | 0x70 | 0x71 | 0x72 | 0x77 | 0x79 => reqSel f .vec 4 r
  | 0x73 | 0x78 | 0x7A => { reqSel f .vec 12 r with c := .vec }
  | 0x74 | 0x75 => reqSel f .pair 4 r
  | 0x76 => { reqSel f .pair 12 r with c := .pair }
  | 0x7B | 0x7C | 0x9B | 0x9C => reqSel f (vecOf ty) 0 (plain f && oneOf ty [8, 9, 10, 11])
  | 0x7D | 0x7E => reqOne (vecOf ty) (plain f && f.mod == 0 && oneOf ty [8, 9, 10, 11])
  | 0x7F => { reqSel f (vecOf ty) 60 (plain f && oneOf ty [10, 11] && decide (src ≤ 7)) with d := .mask }
  | 0x80 => reqSel f .vec 0 r
  | 0x81 => reqOne .vec (r && f.mod == 0)
  | 0x82 | 0x83 | 0x84 | 0x85 => reqOne .vec (s && f.mod == 0 && oneOf ty [8, 9, 10])
  | 0x86 => reqOne (vecOf ty) (plain f && f.mod == 0 && oneOf ty [8, 9, 10, 11])
  | 0x87 => { d := vecOf ty, a := vecOf src
              ok := modIn f 62 && decide (8 ≤ ty) && decide (ty ≤ 14) && decide (8 ≤ src) && decide (src ≤ 14)
                && (!hi || src == 8 || src == 9) && (s || ty == 12 || ty == 13) }
  | 0x88 => { d := vecOf ty, a := vecOf src
              ok := modIn f 62 && decide (ty ≤ 7) && decide (8 ≤ src) && decide (src ≤ 11)
                && (!hi || src == 8 || src == 9) && s }
  | 0x89 => { d := vecOf ty, a := vecOf src
              ok := modIn f 62 && decide (8 ≤ ty) && decide (ty ≤ 11) && decide (src ≤ 7)
                && (!hi || src == 2 || src == 3) && s }
  | 0x8A => { d := .vec, a := .vec
              ok := s && blkFormat f && f.mod.toNat % 2 == 0 && src % 4 != 3 && (!hi || src % 4 != 0) }
  | 0x8B => { d := .vec, a := .vec, b := if src % 4 == 1 then .vec else .none
              ok := s && blkFormat f && modIn f 52 }
  | 0x8C => { d := .vec, a := .vec, ok := s && ty == 10 && modIn f 14 && (src == 1 || src == 2) }
  | 0x8D =>
    if src % 2 == 1 then
      { d := .vec, a := .vec, b := selB f .none, imm := selImm f, ok := plainTy f && modIn f 7 && selUniform f }
    else if src % 4 == 2 then
      { d := .vec, a := .mult 16, b := selB f .none, imm := selImm f, ok := plainTy f && modIn f 11 && selUniform f }
    else { d := .vec, a := .mult 16, ok := plainTy f && f.mod == 0 }
  | 0x8E => { d := .vec, ok := plainTy f && modIn f 4 }
  | 0x8F => { d := .scalar, ok := plainTy f && modIn f 4 }
  | 0x90 => { ok := plainTy f && f.mod == 0 }
  | 0x91 => { a := .vec, ok := plainTy f && f.mod == 0 }
  | 0x92 => { reqSel f (vecOf ty) 0 (s && oneOf ty [10, 11]) with b := selB f .vec }
  | 0x93 => reqOne .vec (s && modIn f 4 && oneOf ty [8, 9, 10])
  | 0x94 => { d := .mask, a := vecOf ty, ok := plain f && modIn f 4 && oneOf ty [8, 9, 10, 11] }
  | 0x95 | 0x9D => reqOne .vec (s && ty == 10 && f.mod == 0)
  | 0x96 | 0x97 => { reqSel f .vec 0 r with c := .vec }
  | 0x98 => reqSel f .vec 0 (s && oneOf ty [8, 9])
  | 0x99 => reqOne .vec (plain f && modIn f 4 && oneOf ty [8, 9])
  | 0x9A => reqOne (vecOf ty) (s && f.mod == 0 && oneOf ty [8, 9, 10, 11])
  | 0x9E =>
    if src == 1 then { d := .vec, a := .mult 4, ok := s && f.mod == 4 && oneOf ty [12, 13] }
    else { d := .vec, a := .mult 4, ok := plainTy f && oneOf f.mod.toNat [0, 8] }
  | _ =>
    if src == 1 then { d := .vec, a := .mult 8, ok := s && f.mod == 4 && ty == 14 }
    else { d := .vec, a := .mult 8, ok := plainTy f && f.mod == 0 }

/-- The fields of 0xD0 to 0xE7 (R333). -/
def reqMatrix (op : Nat) (f : ExtA) : Req :=
  let p := plainTy f
  let m := f.mod.toNat
  let ver := Imm.range 0 65535
  match op with
  | 0xD0 => { d := .num 0 3, a := .shape, b := if m % 2 == 1 then .shape else .none, c := .scalar, ok := p && modIn f 7 }
  | 0xD1 => { d := .acc, a := .num 0 3, b := .num 0 1, c := .scalar, imm := ver, ok := p && modIn f 1 }
  | 0xD2 => { d := .acc, a := .num 0 3, b := .num 0 1, c := .scalar, imm := .any, ok := p && modIn f 7 }
  | 0xD3 | 0xD4 => { d := .acc, a := .num 0 3, b := .num 2 3, c := .scalar, imm := ver, ok := p && modIn f 1 }
  | 0xD5 => { d := .acc, b := if m == 1 then .scalar else .none, imm := ver, ok := p && modIn f 1 }
  | 0xD6 => { d := if f.ty == 10 then .mult 8 else .mult 4, a := .acc, imm := ver
              ok := f.sat == 0 && f.mod == 0 && oneOf f.ty.toNat [8, 9, 10] }
  | 0xD7 => { d := .acc, a := .mult 8, imm := ver, ok := plain f && f.mod == 0 && f.ty == 10 }
  | 0xD8 =>
    if m == 1 then { a := .acc, b := .scalar, ok := p } else { d := .scalar, a := .acc, ok := p && f.mod == 0 }
  | 0xD9 => { d := .acc, b := .scalar, imm := ver, ok := p && f.mod == 0 }
  | 0xDA => { d := .num 0 3, a := .shape, b := if m == 1 then .shape else .none, ok := p && modIn f 1 }
  | 0xDB => { imm := .range 0 1, ok := p && f.mod == 0 }
  | 0xDC => { d := .scalar, a := .scalar, imm := .any, ok := p && f.mod == 0 }
  | 0xDD | 0xDE | 0xE1 | 0xE2 => { a := .scalar, ok := p && f.mod == 0 }
  | 0xDF | 0xE0 => { d := .scalar, a := .scalar, ok := p && f.mod == 0 }
  | 0xE3 => { a := .scalar, b := .shape, ok := p && f.mod == 0 }
  | 0xE4 => { ok := p && f.mod == 0 }
  | 0xE5 => { d := .acc, a := .acc, imm := .any, ok := p && f.mod == 0 && f.d != f.a }
  | 0xE6 => { d := .scalar, a := .acc, b := .scalar, imm := ver, ok := p && f.mod == 0 }
  | _ => { d := .scalar, imm := .range 0 3, ok := p && f.mod == 0 }

/-- The fields of 0xE8 to 0xFE (R361). -/
def reqSync (op : Nat) (f : ExtA) : Req :=
  let p := plainTy f
  let z := p && f.mod == 0
  match op with
  | 0xE8 | 0xE9 | 0xEA => { imm := .range 0 15, ok := z }
  | 0xEB => { a := .scalar, imm := .any, ok := z }
  | 0xEC => { a := .counter, imm := .range 0 255, ok := z }
  | 0xED => { a := .scalar, imm := .range 1 64, ok := z }
  | 0xEE => { a := .scalar, ok := z }
  | 0xEF => { d := if f.mod == 1 then .none else .pair, a := .scalar, ok := p && modIn f 1 }
  | 0xF0 | 0xF8 => { a := .scalar, b := .scalar, ok := z }
  | 0xF1 => { d := .scalar, a := .scalar, b := .scalar, imm := .range 0 15, ok := z }
  | 0xF2 => { a := .scalar, imm := .range 0 15, ok := z }
  | 0xF3 => { d := .scalar, a := .scalar, ok := z }
  | 0xF4 =>
    if f.mod == 1 then { d := .scalar, a := .scalar, c := .scalar, ok := p }
    else { d := .scalar, a := .scalar, imm := .range 0 15, ok := z }
  | 0xF5 => if f.mod == 1 then { d := .scalar, imm := .range 0 4, ok := p } else { imm := .range 0 4, ok := z }
  | 0xF6 => { d := .scalar, a := .scalar, b := .scalar, c := .scalar, ok := z }
  | 0xF7 => { d := .events, ok := p && modIn f 1 }
  | 0xF9 => { a := .scalar, b := .scalar, ok := p && modIn f 1 }
  | 0xFA => { ok := z }
  | 0xFD => { imm := .any, ok := z }
  | _ => { d := .scalar, ok := z }

/-- What an opcode of class A asks of its extended form. -/
def reqA (op : Nat) (f : ExtA) : Req :=
  if op < 0x20 then reqSystem op f
  else if op < 0x40 then reqScalar op f
  else if op < 0x70 then reqVecInt op f
  else if op < 0xA0 then reqVecFloat op f
  else if op < 0xE8 then reqMatrix op f
  else reqSync op f

/-- What an opcode of class E asks of its fields (R230, R232, R234 to R236, R239, R240, R250); `abs` is LEN 11. -/
def reqE (op : Nat) (abs : Bool) : Req :=
  match op with
  | 0x02 => { imm := .offset }
  | 0x03 | 0x04 | 0x05 | 0x06 | 0x07 | 0x08 => { a := .scalar, b := .scalar, imm := .offset }
  | 0x09 | 0x0A | 0x0B => { a := .mask, imm := .offset }
  | 0x0C => { d := .any, a := .mask, c := .any, imm := .offset }
  | 0x0E => { d := .scalar, imm := if abs then .zero else .offset }
  | 0x0F => { a := .scalar }
  | 0x10 => if abs then {} else { a := .scalar, imm := .offset }
  | 0x14 => { imm := .range 0 255 }
  | _ => {}

/-- Size in bytes of an element of TY 0 to 13 (R305). -/
def tySize (ty : Nat) : Nat :=
  if oneOf ty [0, 1, 12, 13] then 1 else if oneOf ty [2, 3, 8, 9] then 2 else if oneOf ty [6, 7, 11] then 8 else 4

/-- TY, RQ, ORD, SYS, MODM at zero. -/
def plainM (f : ExtM) : Bool := f.ty == 0 && f.rq == 0 && f.ord == 0 && f.sys == 0 && f.modm == 0

/-- SYS 1 only with ORD 10 or 11 (R307). -/
def sysRel (f : ExtM) : Bool := f.sys == 0 || f.ord == 2 || f.ord == 3

/-- A load or store with the memory operand of R304: base kind `a`, and the offset register where LO is set. -/
def reqMem (f : ExtM) (a : Kind) (store ok : Bool) : Req :=
  { d := vecOf f.ty.toNat, a := a, b := if f.lo == 1 then .vec else .none, imm := .any, ok := ok, feD := store }

/-- RQ at most nc, ORD none or acquire, SYS 0 (R307). -/
def loadOk (f : ExtM) : Bool := decide (f.rq.toNat ≤ 4) && oneOf f.ord.toNat [0, 1] && f.sys == 0

/-- RQ at most nc, ORD none or release, SYS with a release (R307). -/
def storeOk (f : ExtM) : Bool := decide (f.rq.toNat ≤ 4) && oneOf f.ord.toNat [0, 2] && sysRel f

/-- A range instruction (R316). -/
def reqRange (f : ExtM) (d : Kind) (ok : Bool) : Req :=
  { d := d, a := .scalar, c := .scalar, imm := .any, ok := ok && f.lo == 0 }

/-- An atomic with an element of 8 bytes (`wide`) or 4 (R328, R330); `cas` takes two operands. -/
def reqAtomic (f : ExtM) (wide cas ok : Bool) : Req :=
  { d := if f.modm == 1 then .none else if wide then .pair else .vec, a := .memBase
    b := if f.lo == 1 then .vec else .none
    c := if cas then (if wide then .mult 4 else .mult 2) else if wide then .pair else .vec
    imm := .any, ok := ok && decide (f.modm.toNat ≤ 1) }

/-- RQ and ORD of the atomics 0xC0 to 0xCC (R307). -/
def atomicOk (f : ExtM) : Bool := oneOf f.rq.toNat [0, 1, 4] && sysRel f

/-- RQ, ORD and SYS at zero. -/
def noOrder (f : ExtM) : Bool := f.rq == 0 && f.ord == 0 && f.sys == 0

/-- What an opcode of class M asks of its fields (R256, R257, R304 to R331). -/
def reqM (op : Nat) (f : ExtM) : Req :=
  let ty := f.ty.toNat
  let t13 := decide (ty ≤ 13) && f.modm == 0
  let w := tyPair ty
  match op with
  | 0x32 => { d := .scalar, a := .scalar, imm := .any, ok := decide (ty ≤ 7) && f.lo == 0 && f.modm == 0 && loadOk f }
  | 0x33 => { d := .scalar, a := .scalar, imm := .any, ok := decide (ty ≤ 7) && f.lo == 0 && f.modm == 0 && storeOk f }
  | 0x34 => { d := .trans, a := .scalar, imm := .any, ok := plainM f && f.lo == 0 }
  | 0xA0 | 0xA2 => reqMem f .memBase false (t13 && loadOk f)
  | 0xA1 | 0xA3 => reqMem f .memBase true (t13 && storeOk f)
  | 0xA4 => { reqMem f .scalar false (t13 && loadOk f && f.lo == 1) with b := .pair }
  | 0xA5 => { reqMem f .scalar true (t13 && storeOk f && f.lo == 1) with b := .pair }
  | 0xA6 | 0xA8 | 0xAA => reqMem f .scalar false (t13 && f.rq == 0 && loadOk f)
  | 0xA7 | 0xA9 | 0xAB => reqMem f .scalar true (t13 && f.rq == 0 && f.sys == 0 && storeOk f)
  | 0xAC => { reqMem f .memBase false (decide (ty ≤ 13) && oneOf f.rq.toNat [0, 1, 3] && f.ord == 0 && f.sys == 0
                && decide (f.modm.toNat ≤ 1)) with d := .none }
  | 0xAD | 0xAE => reqRange f .scalar (plainM f)
  | 0xAF | 0xB0 => reqRange f .none (plainM f)
  | 0xB1 => { d := .scalar, a := .scalar, imm := .any, ok := plainM f && f.lo == 0 }
  | 0xB2 => { a := .scalar, ok := f.ty == 0 && noOrder f && f.lo == 0 && decide (f.modm.toNat ≤ 2) }
  | 0xB3 => { a := .scalar, ok := plainM f && f.lo == 0 }
  | 0xB4 | 0xB6 => { ok := f.ty == 0 && f.rq == 0 && f.ord == 0 && f.modm == 0 && f.lo == 0 }
  | 0xB5 => { ok := plainM f && f.lo == 0 }
  | 0xB7 => reqMem f .memBase false (decide (ty ≤ 11) && f.modm == 0 && noOrder f)
  | 0xB8 => reqMem f .memBase true (decide (ty ≤ 11) && f.modm == 0 && f.rq == 0 && f.ord == 0)
  | 0xB9 => { reqMem f .scalar true (t13 && oneOf f.rq.toNat [0, 2] && storeOk f) with c := .scalar }
  | 0xBA => reqMem f .scalar false (t13 && noOrder f)
  | 0xBB => reqMem f .scalar true (t13 && noOrder f)
  | 0xBC => reqRange f .scalar (plainM f)
  | 0xBD => { a := .scalar, ok := f.ty == 0 && noOrder f && f.lo == 0 && decide (f.modm.toNat ≤ 2) }
  | 0xBE => reqRange f .none (f.ty == 0 && noOrder f && decide (f.modm.toNat ≤ 1))
  | 0xBF => { d := .scalar, a := .scalar, imm := .any, ok := plainM f && f.lo == 0 }
  | 0xC0 | 0xC2 => reqAtomic f false false (f.ty == 0 && atomicOk f)
  | 0xC1 => reqAtomic f true false (f.ty == 0 && atomicOk f)
  | 0xC9 => reqAtomic f false true (f.ty == 0 && atomicOk f)
  | 0xCA => reqAtomic f true true (f.ty == 0 && atomicOk f)
  | 0xCB | 0xCC => reqAtomic f w false (oneOf ty [5, 7] && atomicOk f)
  | 0xCD => reqAtomic f w false (oneOf ty [4, 5, 6, 7] && noOrder f)
  | 0xCE => reqAtomic f w true (oneOf ty [4, 5, 6, 7] && noOrder f)
  | 0xCF => { reqAtomic { f with modm := 0 } w false (oneOf ty [4, 5, 6, 7] && noOrder f && decide (f.modm.toNat ≤ 3)) with
              imm := .any }
  | _ => reqAtomic f w false (oneOf ty [4, 5, 6, 7] && atomicOk f)

/-- The register fields of a requirement. -/
def Req.fields (r : Req) (hnd : Bool) (d a b c : Byte) : Bool :=
  r.d.ok hnd d && r.a.ok hnd a && r.b.ok hnd b && r.c.ok hnd c && r.ok

/-- The FE bits of class A and E (R213): only for a vector source that the opcode reads. -/
def Req.feA3 (r : Req) (fe : BitVec 3) : Bool :=
  (!fe.getLsbD 2 || r.a.isVec || r.feA) && (!fe.getLsbD 1 || r.b.isVec) && (!fe.getLsbD 0 || r.c.isVec)

/-- The FE bits of class M (R304): bit 16 for the offset register, bit 15 for the data register. -/
def Req.feM3 (r : Req) (fe : BitVec 3) : Bool :=
  !fe.getLsbD 2 && (!fe.getLsbD 1 || r.b.isVec) && (!fe.getLsbD 0 || r.feD || r.c.isVec)

/-- Guard bits only where the opcode takes a guard (R221). -/
def guardOk (op : Nat) (gn : BitVec 1) (g : BitVec 4) : Bool := opGuard op || (gn == 0 && g == 0)

/-- Check 5 of R228 for an extended form of class A. -/
def checkA (hnd : Bool) (op : Nat) (f : ExtA) : Bool :=
  let r := reqA op f
  r.fields hnd f.d f.a f.b f.c && r.imm.ok f.w2 && r.feA3 f.fe && guardOk op f.gn f.g && f.rnd != 7

/-- Check 5 for class E; `abs` is the LEN 11 form. -/
def checkE (hnd : Bool) (op : Nat) (abs : Bool) (f : ExtE) : Bool :=
  let r := reqE op abs
  r.fields hnd f.d f.a f.b f.c && r.imm.ok f.w2 && r.feA3 f.fe && guardOk op f.gn f.g

/-- Check 5 for class M. -/
def checkM (hnd : Bool) (op : Nat) (f : ExtM) : Bool :=
  let r := reqM op f
  r.fields hnd f.d f.a f.b f.c && r.imm.ok f.w2 && r.feM3 f.fe && guardOk op f.gn f.g

/-- The opcodes whose compact form reads operand N from s[B] (R229, R361). -/
def takesN (op : Nat) : Bool := oneOf op [0x13, 0x19, 0x1B, 0x1F, 0xE8, 0xE9, 0xEA, 0xEC, 0xFD]

/-- An immediate of the compact B field, zero-extended or sign-extended (R212). -/
def compactImm (signed : Bool) (b : BitVec 6) : Word := if signed then b.signExtend 32 else b.setWidth 32

/-- The extended form that a compact form stands for (R212, R229, R264): its immediates, its uniform sources, and
its third source. -/
def Word0.ext (op : Nat) (f : Word0) : ExtA :=
  let base : ExtA := { d := f.d, a := f.a, b := f.b.setWidth 8, c := 0, mod := 0, ty := 0, rnd := 0, sat := 0, fe := 0
                       gn := 0, g := 0, w2 := 0 }
  if inRanges [(0x27, 0x29), (0x4E, 0x51)] op then { base with b := 0, mod := 1, w2 := compactImm false f.b }
  else if op == 0x2F then { base with b := 0, mod := 1, w2 := compactImm true f.b }
  else if op == 0x59 then { base with b := 0, w2 := compactImm true f.b }
  else if oneOf op [0x62, 0x64, 0x6F] then { base with mod := 2 }
  else if oneOf op [0x44, 0x53, 0x6C, 0x6E, 0x73, 0x76, 0x78, 0x7A, 0x96, 0x97] then { base with c := f.d }
  else base

/-- Word 0 of a compact form that stands for an extended form. -/
def ExtA.word0 (f : ExtA) : Word0 := { b := f.b.setWidth 6, a := f.a, d := f.d }

/-- The class-M form that a compact class-M form stands for (R226). -/
def Word0.extM (f : Word0) : ExtM :=
  { d := f.d, a := f.a, b := f.b.setWidth 8, c := 0, rq := 0, ord := 0, sys := 0, ty := 0, lo := 0, modm := 0
    fe := 0, gn := 0, g := 0, w2 := 0 }

/-- Check 5 for a compact form. -/
def checkCompact (hnd : Bool) (op : Nat) (f : Word0) : Bool :=
  if takesN op then
    f.d == 0 && (if op == 0xEC then Kind.ok hnd .counter f.a else f.a == 0) && Kind.ok hnd .scalar (f.b.setWidth 8)
  else if opCls op == .m then checkM hnd op f.extM
  else checkA hnd op (f.ext op)

/-- COUNT of a sweep (R218). -/
def sweepCount (w2 : Word) : Nat := w2.toNat % 4096
/-- SEG of a sweep. -/
def sweepSeg (w2 : Word) : Nat := w2.toNat / 4096 % 16
/-- IMM16 of a sweep. -/
def sweepImm (w2 : Word) : BitVec 16 := w2.extractLsb' 16 16
/-- STEPD of a sweep. -/
def stepD (lit : DWord) : Int := (lit.extractLsb' 0 20).toInt
/-- STEPA of a sweep. -/
def stepA (lit : DWord) : Int := (lit.extractLsb' 20 20).toInt
/-- STEPB of a sweep. -/
def stepB (lit : DWord) : Int := (lit.extractLsb' 40 20).toInt

/-- A step of a vector register is a multiple of 4; an operand that cannot step has step 0 (R218). -/
def stepOk (vec : Bool) (s : Int) : Bool := if vec then s % 4 == 0 else s == 0

/-- Check 5 for the LEN 11 form of a sweep-capable vector opcode (R218, R264). -/
def checkSweepA (hnd : Bool) (op : Nat) (f : ExtA) (lit : DWord) : Bool :=
  let r := reqA op { f with w2 := 0 }
  r.fields hnd f.d f.a f.b f.c && r.imm == .zero && r.feA3 f.fe && guardOk op f.gn f.g && f.rnd != 7
    && sweepSeg f.w2 == 0 && sweepImm f.w2 == 0 && decide (lit.toNat < 2 ^ 60)
    && stepOk r.d.isVec (stepD lit) && stepOk r.a.isVec (stepA lit) && stepOk r.b.isVec (stepB lit)

/-- Check 5 for `ldsw` and `stsw` (R218, R310). -/
def checkSweepM (hnd : Bool) (op : Nat) (f : ExtM) (lit : DWord) : Bool :=
  let r := reqM op f
  r.fields hnd f.d f.a f.b f.c && r.feM3 f.fe && guardOk op f.gn f.g
    && decide (sweepSeg f.w2 ≤ 5) && decide (lit.toNat < 2 ^ 60)
    && stepOk true (stepD lit) && stepOk r.b.isVec (stepB lit)

/-- A literal target (R217): bits 63:56 equal bit 55, bits 1:0 zero. -/
def literalTarget (lit : DWord) : Bool :=
  lit.toNat % 4 == 0 && lit.extractLsb' 56 8 == (if lit.getLsbD 55 then 255#8 else 0#8)

/-- The parts of an instruction: its opcode, its layout and its fields. -/
inductive Parts where
  | raw (w : Word)
  | compact (op : Byte) (f : Word0)
  | extA (op : Byte) (f : ExtA)
  | extE (op : Byte) (f : ExtE)
  | extM (op : Byte) (f : ExtM)
  | lit (op : Byte) (f : Word0) (l : DWord)
  | absE (op : Byte) (f : ExtE) (l : DWord)
  | sweepA (op : Byte) (f : ExtA) (l : DWord)
  | sweepM (op : Byte) (f : ExtM) (l : DWord)
deriving DecidableEq, Repr

/-- The opcode of the parts. -/
def Parts.op : Parts → Byte
  | .raw w => w.extractLsb' 2 8
  | .compact op _ | .extA op _ | .extE op _ | .extM op _ | .lit op _ _ | .absE op _ _ | .sweepA op _ _
  | .sweepM op _ _ => op

/-- The LEN code of the parts. -/
def Parts.len : Parts → Nat
  | .raw _ => 0
  | .compact _ _ => 0
  | .extA _ _ | .extE _ _ | .extM _ _ => 1
  | .lit _ _ _ => 2
  | .absE _ _ _ | .sweepA _ _ _ | .sweepM _ _ _ => 3

/-- Word 2 of the parts, which names the system register of `mfsys` and `mtsys`. -/
def Parts.w2 : Parts → Word
  | .extA _ f => f.w2
  | _ => 0

/-- Check 5 of R228. -/
def Parts.formOk (hnd : Bool) : Parts → Bool
  | .raw _ => true
  | .compact op f => checkCompact hnd op.toNat f
  | .extA op f => opCls op.toNat == .a && checkA hnd op.toNat f
  | .extE op f => opCls op.toNat == .e && checkE hnd op.toNat false f
  | .extM op f => opCls op.toNat == .m && checkM hnd op.toNat f
  | .lit op f _ => f.a == 0 && f.b == 0 && (if op == 0x2F then Kind.ok hnd .scalar f.d else Kind.ok hnd .pair f.d)
  | .absE op f l => checkE hnd op.toNat true f && literalTarget l
  | .sweepA op f l => sweepCapable op.toNat && checkSweepA hnd op.toNat f l
  | .sweepM op f l => checkSweepM hnd op.toNat f l

/-- The checks of R228 in their order; the all-zero word and OP 0xFF are the instructions `trap0` and `ill`,
whose meaning is to trap. -/
def Parts.check (m : Mode) (p : Parts) : Option Cause :=
  match p with
  | .raw w => if w == 0 || p.op == 0xFF then none else some .illegalInstr
  | _ =>
    if !(opLens p.op.toNat).contains p.len then some .illegalForm
    else if !privOk m p.op.toNat p.w2 then some .privilege
    else if !p.formOk m.hnd then some .illegalForm
    else none

/-- The parts of the words of an instruction (R210 to R218). -/
def Parts.ofWords (w0 w1 w2 w3 w4 : Word) : Parts :=
  let op := w0.extractLsb' 2 8
  let b6 := w0.extractLsb' 26 6
  let a := w0.extractLsb' 18 8
  let d := w0.extractLsb' 10 8
  let b := (w1.extractLsb' 0 2) ++ b6
  let c := w1.extractLsb' 2 8
  let g := w1.extractLsb' 10 4
  let gn := w1.extractLsb' 14 1
  let fe := w1.extractLsb' 15 3
  let fa : ExtA := { d, a, b, c, mod := w1.extractLsb' 26 6, ty := w1.extractLsb' 22 4, rnd := w1.extractLsb' 19 3
                     sat := w1.extractLsb' 18 1, fe, gn, g, w2 }
  let fe' : ExtE := { d, a, b, c, sigx := w1.extractLsb' 18 14, fe, gn, g, w2 }
  let fm : ExtM := { d, a, b, c, rq := w1.extractLsb' 29 3, ord := w1.extractLsb' 27 2, sys := w1.extractLsb' 26 1
                     ty := w1.extractLsb' 22 4, lo := w1.extractLsb' 21 1, modm := w1.extractLsb' 18 3, fe, gn, g, w2 }
  let f0 : Word0 := { b := b6, a, d }
  if op == 0 || op == 0xFF then .raw w0
  else
    match (w0.extractLsb' 0 2).toNat with
    | 0 => .compact op f0
    | 1 => match opCls op.toNat with
      | .e => .extE op fe'
      | .m => .extM op fm
      | _ => .extA op fa
    | 2 => .lit op f0 (w2 ++ w1)
    | _ => match opCls op.toNat with
      | .e => .absE op fe' (w4 ++ w3)
      | .m => .sweepM op fm (w4 ++ w3)
      | _ => .sweepA op fa (w4 ++ w3)

/-- Word 0 (R212). -/
def word0 (b : BitVec 6) (a d op : Byte) (len : BitVec 2) : Word := b ++ a ++ d ++ op ++ len

/-- Word 1 (R213): 14 class bits, FE, GN, G, C, BH. -/
def word1 (cls : BitVec 14) (fe : BitVec 3) (gn : BitVec 1) (g : BitVec 4) (c : Byte) (b : Byte) : Word :=
  cls ++ fe ++ gn ++ g ++ c ++ b.extractLsb' 6 2

/-- Words 0 to 2 of a class-A form. -/
def wordsA (op : Byte) (len : BitVec 2) (f : ExtA) : List Word :=
  [word0 (f.b.extractLsb' 0 6) f.a f.d op len, word1 (f.mod ++ f.ty ++ f.rnd ++ f.sat) f.fe f.gn f.g f.c f.b, f.w2]

/-- Words 0 to 2 of a class-E form. -/
def wordsE (op : Byte) (len : BitVec 2) (f : ExtE) : List Word :=
  [word0 (f.b.extractLsb' 0 6) f.a f.d op len, word1 f.sigx f.fe f.gn f.g f.c f.b, f.w2]

/-- Words 0 to 2 of a class-M form. -/
def wordsM (op : Byte) (len : BitVec 2) (f : ExtM) : List Word :=
  [word0 (f.b.extractLsb' 0 6) f.a f.d op len,
   word1 (f.rq ++ f.ord ++ f.sys ++ f.ty ++ f.lo ++ f.modm) f.fe f.gn f.g f.c f.b, f.w2]

/-- A literal as two words, low half first (R210). -/
def wordsLit (l : DWord) : List Word := [l.extractLsb' 0 32, l.extractLsb' 32 32]

/-- The words of the parts, lowest address first (R210). -/
def Parts.words : Parts → List Word
  | .raw w => [w]
  | .compact op f => [word0 f.b f.a f.d op 0]
  | .extA op f => wordsA op 1 f
  | .extE op f => wordsE op 1 f
  | .extM op f => wordsM op 1 f
  | .lit op f l => word0 f.b f.a f.d op 2 :: wordsLit l
  | .absE op f l => wordsE op 3 f ++ wordsLit l
  | .sweepA op f l => wordsA op 3 f ++ wordsLit l
  | .sweepM op f l => wordsM op 3 f ++ wordsLit l

/-- Words of an instruction whose word 0 is `w0` (R210); one for OP 0x00 and 0xFF (R227). -/
def wordCount (w0 : Word) : Nat :=
  let op := w0.extractLsb' 2 8
  if op == 0 || op == 0xFF then 1
  else match (w0.extractLsb' 0 2).toNat with
    | 0 => 1
    | 1 => 3
    | 2 => 3
    | _ => 5

/-- The parts of an instruction; a device step has none. -/
def Instr.parts : Instr → Option Parts
  | .trap0 => some (.raw 0)
  | .ill w => some (.raw w)
  | .nop f => some (.compact 0x01 f)
  | .nopExt f => some (.extA 0x01 f)
  | .br f => some (.extE 0x02 f)
  | .bcEq f => some (.extE 0x03 f)
  | .bcNe f => some (.extE 0x04 f)
  | .bcLt f => some (.extE 0x05 f)
  | .bcGe f => some (.extE 0x06 f)
  | .bcLtn f => some (.extE 0x07 f)
  | .bcGen f => some (.extE 0x08 f)
  | .bany f => some (.extE 0x09 f)
  | .ball f => some (.extE 0x0A f)
  | .bnone f => some (.extE 0x0B f)
  | .bdiv f => some (.extE 0x0C f)
  | .join f => some (.extE 0x0D f)
  | .call f => some (.extE 0x0E f)
  | .callAbsolute f l => some (.absE 0x0E f l)
  | .ret f => some (.extE 0x0F f)
  | .jmp f => some (.extE 0x10 f)
  | .jmpAbsolute f l => some (.absE 0x10 f l)
  | .exit f => some (.extE 0x11 f)
  | .idem f => some (.compact 0x12 f)
  | .idemExt f => some (.extA 0x12 f)
  | .step f => some (.compact 0x13 f)
  | .stepExt f => some (.extA 0x13 f)
  | .trap f => some (.extE 0x14 f)
  | .eret f => some (.extE 0x15 f)
  | .mfsys f => some (.extA 0x16 f)
  | .mtsys f => some (.extA 0x17 f)
  | .yield f => some (.compact 0x18 f)
  | .yieldExt f => some (.extA 0x18 f)
  | .tmset f => some (.compact 0x19 f)
  | .tmsetExt f => some (.extA 0x19 f)
  | .rdcyc f => some (.compact 0x1A f)
  | .rdcycExt f => some (.extA 0x1A f)
  | .detm f => some (.compact 0x1B f)
  | .detmExt f => some (.extA 0x1B f)
  | .sigck f => some (.extE 0x1C f)
  | .ctxsw f => some (.extA 0x1D f)
  | .finj f => some (.extA 0x1E f)
  | .brk f => some (.compact 0x1F f)
  | .brkExt f => some (.extA 0x1F f)
  | .sadd f => some (.compact 0x20 f)
  | .saddExt f => some (.extA 0x20 f)
  | .ssub f => some (.compact 0x21 f)
  | .ssubExt f => some (.extA 0x21 f)
  | .smul f => some (.compact 0x22 f)
  | .smulExt f => some (.extA 0x22 f)
  | .smulh f => some (.compact 0x23 f)
  | .smulhExt f => some (.extA 0x23 f)
  | .sand f => some (.compact 0x24 f)
  | .sandExt f => some (.extA 0x24 f)
  | .sor f => some (.compact 0x25 f)
  | .sorExt f => some (.extA 0x25 f)
  | .sxor f => some (.compact 0x26 f)
  | .sxorExt f => some (.extA 0x26 f)
  | .sshl f => some (.compact 0x27 f)
  | .sshlExt f => some (.extA 0x27 f)
  | .sshr f => some (.compact 0x28 f)
  | .sshrExt f => some (.extA 0x28 f)
  | .ssra f => some (.compact 0x29 f)
  | .ssraExt f => some (.extA 0x29 f)
  | .smin f => some (.compact 0x2A f)
  | .sminExt f => some (.extA 0x2A f)
  | .smax f => some (.compact 0x2B f)
  | .smaxExt f => some (.extA 0x2B f)
  | .sminn f => some (.compact 0x2C f)
  | .sminnExt f => some (.extA 0x2C f)
  | .smaxn f => some (.compact 0x2D f)
  | .smaxnExt f => some (.extA 0x2D f)
  | .smov f => some (.compact 0x2E f)
  | .smovExt f => some (.extA 0x2E f)
  | .sli f => some (.compact 0x2F f)
  | .sliExt f => some (.extA 0x2F f)
  | .sliLiteral f l => some (.lit 0x2F f l)
  | .sset f => some (.compact 0x30 f)
  | .ssetExt f => some (.extA 0x30 f)
  | .ssel f => some (.compact 0x31 f)
  | .sselExt f => some (.extA 0x31 f)
  | .sld f => some (.extM 0x32 f)
  | .sst f => some (.extM 0x33 f)
  | .xlat f => some (.extM 0x34 f)
  | .shld f => some (.extA 0x35 f)
  | .shset f => some (.extA 0x36 f)
  | .shget f => some (.extA 0x37 f)
  | .lsset f => some (.compact 0x38 f)
  | .lssetExt f => some (.extA 0x38 f)
  | .lsget f => some (.compact 0x39 f)
  | .lsgetExt f => some (.extA 0x39 f)
  | .ovfrd f => some (.compact 0x3A f)
  | .ovfrdExt f => some (.extA 0x3A f)
  | .kpop f => some (.compact 0x3B f)
  | .kpopExt f => some (.extA 0x3B f)
  | .kffs f => some (.compact 0x3C f)
  | .kffsExt f => some (.extA 0x3C f)
  | .vtos f => some (.compact 0x3D f)
  | .vtosExt f => some (.extA 0x3D f)
  | .stov f => some (.compact 0x3E f)
  | .stovExt f => some (.extA 0x3E f)
  | .sdiv f => some (.compact 0x3F f)
  | .sdivExt f => some (.extA 0x3F f)
  | .vaddI32 f => some (.compact 0x40 f)
  | .vaddI32Ext f => some (.extA 0x40 f)
  | .vsubI32 f => some (.compact 0x41 f)
  | .vsubI32Ext f => some (.extA 0x41 f)
  | .vmulI32 f => some (.compact 0x42 f)
  | .vmulI32Ext f => some (.extA 0x42 f)
  | .vmulhI32 f => some (.compact 0x43 f)
  | .vmulhI32Ext f => some (.extA 0x43 f)
  | .vmadI32 f => some (.compact 0x44 f)
  | .vmadI32Ext f => some (.extA 0x44 f)
  | .vaddI64 f => some (.compact 0x45 f)
  | .vaddI64Ext f => some (.extA 0x45 f)
  | .vsubI64 f => some (.compact 0x46 f)
  | .vsubI64Ext f => some (.extA 0x46 f)
  | .vmin f => some (.compact 0x47 f)
  | .vminExt f => some (.extA 0x47 f)
  | .vmax f => some (.compact 0x48 f)
  | .vmaxExt f => some (.extA 0x48 f)
  | .vabsI32 f => some (.compact 0x49 f)
  | .vabsI32Ext f => some (.extA 0x49 f)
  | .vand f => some (.compact 0x4A f)
  | .vandExt f => some (.extA 0x4A f)
  | .vor f => some (.compact 0x4B f)
  | .vorExt f => some (.extA 0x4B f)
  | .vxor f => some (.compact 0x4C f)
  | .vxorExt f => some (.extA 0x4C f)
  | .vandn f => some (.compact 0x4D f)
  | .vandnExt f => some (.extA 0x4D f)
  | .vshl f => some (.compact 0x4E f)
  | .vshlExt f => some (.extA 0x4E f)
  | .vshr f => some (.compact 0x4F f)
  | .vshrExt f => some (.extA 0x4F f)
  | .vsra f => some (.compact 0x50 f)
  | .vsraExt f => some (.extA 0x50 f)
  | .vrot f => some (.compact 0x51 f)
  | .vrotExt f => some (.extA 0x51 f)
  | .vbfe f => some (.compact 0x52 f)
  | .vbfeExt f => some (.extA 0x52 f)
  | .vbfi f => some (.compact 0x53 f)
  | .vbfiExt f => some (.extA 0x53 f)
  | .vpopc f => some (.compact 0x54 f)
  | .vpopcExt f => some (.extA 0x54 f)
  | .vclz f => some (.compact 0x55 f)
  | .vclzExt f => some (.extA 0x55 f)
  | .vcmp f => some (.extA 0x56 f)
  | .vsel f => some (.compact 0x57 f)
  | .vselExt f => some (.extA 0x57 f)
  | .vmov f => some (.compact 0x58 f)
  | .vmovExt f => some (.extA 0x58 f)
  | .vli f => some (.compact 0x59 f)
  | .vliExt f => some (.extA 0x59 f)
  | .vliLiteral f l => some (.lit 0x59 f l)
  | .vid f => some (.compact 0x5A f)
  | .vidExt f => some (.extA 0x5A f)
  | .kand f => some (.compact 0x5B f)
  | .kandExt f => some (.extA 0x5B f)
  | .kor f => some (.compact 0x5C f)
  | .korExt f => some (.extA 0x5C f)
  | .kxor f => some (.compact 0x5D f)
  | .kxorExt f => some (.extA 0x5D f)
  | .knot f => some (.compact 0x5E f)
  | .knotExt f => some (.extA 0x5E f)
  | .kmov f => some (.compact 0x5F f)
  | .kmovExt f => some (.extA 0x5F f)
  | .kmovQ f => some (.extA 0x5F f)
  | .kmovAct f => some (.extA 0x5F f)
  | .vmatch f => some (.compact 0x60 f)
  | .vmatchExt f => some (.extA 0x60 f)
  | .vmrank f => some (.compact 0x61 f)
  | .vmrankExt f => some (.extA 0x61 f)
  | .vbfly f => some (.compact 0x62 f)
  | .vbflyExt f => some (.extA 0x62 f)
  | .vshfl f => some (.compact 0x63 f)
  | .vshflExt f => some (.extA 0x63 f)
  | .vbcast f => some (.compact 0x64 f)
  | .vbcastExt f => some (.extA 0x64 f)
  | .vscan f => some (.compact 0x65 f)
  | .vscanExt f => some (.extA 0x65 f)
  | .vred f => some (.compact 0x66 f)
  | .vredExt f => some (.extA 0x66 f)
  | .vsat f => some (.compact 0x67 f)
  | .vsatExt f => some (.extA 0x67 f)
  | .vxld f => some (.extA 0x68 f)
  | .vxst f => some (.extA 0x69 f)
  | .xset f => some (.compact 0x6A f)
  | .xsetExt f => some (.extA 0x6A f)
  | .xwin c f => some (if c then .compact 0x6B f.word0 else .extA 0x6B f)
  | .vdot4I8 f => some (.compact 0x6C f)
  | .vdot4I8Ext f => some (.extA 0x6C f)
  | .vmulw f => some (.compact 0x6D f)
  | .vmulwExt f => some (.extA 0x6D f)
  | .vclamp f => some (.compact 0x6E f)
  | .vclampExt f => some (.extA 0x6E f)
  | .vhash f => some (.compact 0x6F f)
  | .vhashExt f => some (.extA 0x6F f)
  | .vfaddF32 f => some (.compact 0x70 f)
  | .vfaddF32Ext f => some (.extA 0x70 f)
  | .vfsubF32 f => some (.compact 0x71 f)
  | .vfsubF32Ext f => some (.extA 0x71 f)
  | .vfmulF32 f => some (.compact 0x72 f)
  | .vfmulF32Ext f => some (.extA 0x72 f)
  | .vffmaF32 f => some (.compact 0x73 f)
  | .vffmaF32Ext f => some (.extA 0x73 f)
  | .vfaddF64 f => some (.compact 0x74 f)
  | .vfaddF64Ext f => some (.extA 0x74 f)
  | .vfmulF64 f => some (.compact 0x75 f)
  | .vfmulF64Ext f => some (.extA 0x75 f)
  | .vffmaF64 f => some (.compact 0x76 f)
  | .vffmaF64Ext f => some (.extA 0x76 f)
  | .vfaddF16x2 f => some (.compact 0x77 f)
  | .vfaddF16x2Ext f => some (.extA 0x77 f)
  | .vffmaF16x2 f => some (.compact 0x78 f)
  | .vffmaF16x2Ext f => some (.extA 0x78 f)
  | .vfaddB16x2 f => some (.compact 0x79 f)
  | .vfaddB16x2Ext f => some (.extA 0x79 f)
  | .vffmaB16x2 f => some (.compact 0x7A f)
  | .vffmaB16x2Ext f => some (.extA 0x7A f)
  | .vfmin f => some (.extA 0x7B f)
  | .vfmax f => some (.extA 0x7C f)
  | .vfabs f => some (.extA 0x7D f)
  | .vfneg f => some (.extA 0x7E f)
  | .vfcmp f => some (.extA 0x7F f)
  | .vfdivF32 f => some (.compact 0x80 f)
  | .vfdivF32Ext f => some (.extA 0x80 f)
  | .vfsqrtF32 f => some (.compact 0x81 f)
  | .vfsqrtF32Ext f => some (.extA 0x81 f)
  | .vfrcp f => some (.extA 0x82 f)
  | .vfrsqrt f => some (.extA 0x83 f)
  | .vfexp2 f => some (.extA 0x84 f)
  | .vflog2 f => some (.extA 0x85 f)
  | .vfclass f => some (.extA 0x86 f)
  | .vcvtF f => some (.extA 0x87 f)
  | .vcvtFi f => some (.extA 0x88 f)
  | .vcvtIf f => some (.extA 0x89 f)
  | .vqblk f => some (.compact 0x8A f)
  | .vqblkExt f => some (.extA 0x8A f)
  | .vdqblk f => some (.compact 0x8B f)
  | .vdqblkExt f => some (.extA 0x8B f)
  | .vhad f => some (.extA 0x8C f)
  | .vtern f => some (.compact 0x8D f)
  | .vternExt f => some (.extA 0x8D f)
  | .vrand f => some (.compact 0x8E f)
  | .vrandExt f => some (.extA 0x8E f)
  | .absrd f => some (.compact 0x8F f)
  | .absrdExt f => some (.extA 0x8F f)
  | .absclr f => some (.compact 0x90 f)
  | .absclrExt f => some (.extA 0x90 f)
  | .absupd f => some (.compact 0x91 f)
  | .absupdExt f => some (.extA 0x91 f)
  | .vfscale f => some (.extA 0x92 f)
  | .vlscale f => some (.extA 0x93 f)
  | .vfchk f => some (.extA 0x94 f)
  | .vfsum f => some (.extA 0x95 f)
  | .vfdot2F16 f => some (.compact 0x96 f)
  | .vfdot2F16Ext f => some (.extA 0x96 f)
  | .vfdot2B16 f => some (.compact 0x97 f)
  | .vfdot2B16Ext f => some (.extA 0x97 f)
  | .vfpack f => some (.extA 0x98 f)
  | .vfunpk f => some (.extA 0x99 f)
  | .vfrint f => some (.extA 0x9A f)
  | .vfcopysign f => some (.extA 0x9B f)
  | .vfmaxabs f => some (.extA 0x9C f)
  | .vnorm2 f => some (.extA 0x9D f)
  | .vcvtE8 f => some (.compact 0x9E f)
  | .vcvtE8Ext f => some (.extA 0x9E f)
  | .vcvtE4 f => some (.compact 0x9F f)
  | .vcvtE4Ext f => some (.extA 0x9F f)
  | .vectorSweep op f l => some (.sweepA op f l)
  | .ld f => some (.extM 0xA0 f)
  | .st f => some (.extM 0xA1 f)
  | .ldsw f l => some (.sweepM 0xA2 f l)
  | .stsw f l => some (.sweepM 0xA3 f l)
  | .gather f => some (.extM 0xA4 f)
  | .scatter f => some (.extM 0xA5 f)
  | .lds f => some (.extM 0xA6 f)
  | .sts f => some (.extM 0xA7 f)
  | .ldc f => some (.extM 0xA8 f)
  | .stc f => some (.extM 0xA9 f)
  | .ldp f => some (.extM 0xAA f)
  | .stp f => some (.extM 0xAB f)
  | .pref f => some (.extM 0xAC f)
  | .l2pin f => some (.extM 0xAD f)
  | .l2unpin f => some (.extM 0xAE f)
  | .discard f => some (.extM 0xAF f)
  | .wback f => some (.extM 0xB0 f)
  | .objdecl f => some (.extM 0xB1 f)
  | .objset f => some (.extM 0xB2 f)
  | .objrel f => some (.extM 0xB3 f)
  | .fence f => some (.compact 0xB4 f)
  | .fenceExt f => some (.extM 0xB4 f)
  | .acq f => some (.compact 0xB5 f)
  | .acqExt f => some (.extM 0xB5 f)
  | .rel f => some (.compact 0xB6 f)
  | .relExt f => some (.extM 0xB6 f)
  | .ldsc f => some (.extM 0xB7 f)
  | .stsc f => some (.extM 0xB8 f)
  | .stmc f => some (.extM 0xB9 f)
  | .ldx f => some (.extM 0xBA f)
  | .stx f => some (.extM 0xBB f)
  | .winmap f => some (.extM 0xBC f)
  | .winsyncWb f => some (.extM 0xBD f)
  | .winsyncFill f => some (.extM 0xBD f)
  | .winsyncClose f => some (.extM 0xBD f)
  | .tlbinv f => some (.extM 0xBE f)
  | .xlatq f => some (.extM 0xBF f)
  | .ataddI32 f => some (.extM 0xC0 f)
  | .ataddI64 f => some (.extM 0xC1 f)
  | .ataddfF32 f => some (.extM 0xC2 f)
  | .atmin f => some (.extM 0xC3 f)
  | .atmax f => some (.extM 0xC4 f)
  | .atand f => some (.extM 0xC5 f)
  | .ator f => some (.extM 0xC6 f)
  | .atxor f => some (.extM 0xC7 f)
  | .atxchg f => some (.extM 0xC8 f)
  | .atcasI32 f => some (.extM 0xC9 f)
  | .atcasI64 f => some (.extM 0xCA f)
  | .atinc f => some (.extM 0xCB f)
  | .atdec f => some (.extM 0xCC f)
  | .ataddsc f => some (.extM 0xCD f)
  | .atcassc f => some (.extM 0xCE f)
  | .atwait f => some (.extM 0xCF f)
  | .mwld f => some (.extA 0xD0 f)
  | .mmac f => some (.extA 0xD1 f)
  | .mtri f => some (.extA 0xD2 f)
  | .mlut f => some (.extA 0xD3 f)
  | .mtern f => some (.extA 0xD4 f)
  | .mzero f => some (.extA 0xD5 f)
  | .mrd f => some (.extA 0xD6 f)
  | .mwr f => some (.extA 0xD7 f)
  | .mver f => some (.extA 0xD8 f)
  | .mverSet f => some (.extA 0xD8 f)
  | .mscale f => some (.extA 0xD9 f)
  | .mstream f => some (.extA 0xDA f)
  | .mwrel f => some (.extA 0xDB f)
  | .spbind f => some (.extA 0xDC f)
  | .spunbind f => some (.extA 0xDD f)
  | .spsettle f => some (.extA 0xDE f)
  | .spquery f => some (.extA 0xDF f)
  | .sprefresh f => some (.extA 0xE0 f)
  | .sppause f => some (.extA 0xE1 f)
  | .spresume f => some (.extA 0xE2 f)
  | .spsnap f => some (.extA 0xE3 f)
  | .mbar f => some (.extA 0xE4 f)
  | .maccadd f => some (.extA 0xE5 f)
  | .mpeek f => some (.extA 0xE6 f)
  | .mfmt f => some (.extA 0xE7 f)
  | .bar f => some (.compact 0xE8 f)
  | .barExt f => some (.extA 0xE8 f)
  | .barar f => some (.compact 0xE9 f)
  | .bararExt f => some (.extA 0xE9 f)
  | .barwt f => some (.compact 0xEA f)
  | .barwtExt f => some (.extA 0xEA f)
  | .cwait f => some (.extA 0xEB f)
  | .ecwait f => some (.compact 0xEC f)
  | .ecwaitExt f => some (.extA 0xEC f)
  | .kick f => some (.extA 0xED f)
  | .coll f => some (.extA 0xEE f)
  | .amsg f => some (.extA 0xEF f)
  | .amreply f => some (.extA 0xF0 f)
  | .tender f => some (.extA 0xF1 f)
  | .bidld f => some (.extA 0xF2 f)
  | .tquery f => some (.extA 0xF3 f)
  | .launch f => some (.extA 0xF4 f)
  | .launchFab f => some (.extA 0xF4 f)
  | .leave f => some (.extA 0xF5 f)
  | .leaveQ f => some (.extA 0xF5 f)
  | .evpost f => some (.extA 0xF6 f)
  | .evget f => some (.extA 0xF7 f)
  | .qwait f => some (.extA 0xF8 f)
  | .qsig f => some (.extA 0xF9 f)
  | .gangsync f => some (.extA 0xFA f)
  | .replay f => some (.extA 0xFB f)
  | .digest f => some (.extA 0xFC f)
  | .park f => some (.compact 0xFD f)
  | .parkExt f => some (.extA 0xFD f)
  | .cutq f => some (.extA 0xFE f)
  | _ => none

/-- The instruction of a compact form, by its opcode (R225). -/
noncomputable def compactInstr (op : Byte) (f : Word0) : Option Instr :=
  match op.toNat with
  | 0x01 => some (.nop f)
  | 0x12 => some (.idem f)
  | 0x13 => some (.step f)
  | 0x18 => some (.yield f)
  | 0x19 => some (.tmset f)
  | 0x1A => some (.rdcyc f)
  | 0x1B => some (.detm f)
  | 0x1F => some (.brk f)
  | 0x20 => some (.sadd f)
  | 0x21 => some (.ssub f)
  | 0x22 => some (.smul f)
  | 0x23 => some (.smulh f)
  | 0x24 => some (.sand f)
  | 0x25 => some (.sor f)
  | 0x26 => some (.sxor f)
  | 0x27 => some (.sshl f)
  | 0x28 => some (.sshr f)
  | 0x29 => some (.ssra f)
  | 0x2A => some (.smin f)
  | 0x2B => some (.smax f)
  | 0x2C => some (.sminn f)
  | 0x2D => some (.smaxn f)
  | 0x2E => some (.smov f)
  | 0x2F => some (.sli f)
  | 0x30 => some (.sset f)
  | 0x31 => some (.ssel f)
  | 0x38 => some (.lsset f)
  | 0x39 => some (.lsget f)
  | 0x3A => some (.ovfrd f)
  | 0x3B => some (.kpop f)
  | 0x3C => some (.kffs f)
  | 0x3D => some (.vtos f)
  | 0x3E => some (.stov f)
  | 0x3F => some (.sdiv f)
  | 0x40 => some (.vaddI32 f)
  | 0x41 => some (.vsubI32 f)
  | 0x42 => some (.vmulI32 f)
  | 0x43 => some (.vmulhI32 f)
  | 0x44 => some (.vmadI32 f)
  | 0x45 => some (.vaddI64 f)
  | 0x46 => some (.vsubI64 f)
  | 0x47 => some (.vmin f)
  | 0x48 => some (.vmax f)
  | 0x49 => some (.vabsI32 f)
  | 0x4A => some (.vand f)
  | 0x4B => some (.vor f)
  | 0x4C => some (.vxor f)
  | 0x4D => some (.vandn f)
  | 0x4E => some (.vshl f)
  | 0x4F => some (.vshr f)
  | 0x50 => some (.vsra f)
  | 0x51 => some (.vrot f)
  | 0x52 => some (.vbfe f)
  | 0x53 => some (.vbfi f)
  | 0x54 => some (.vpopc f)
  | 0x55 => some (.vclz f)
  | 0x57 => some (.vsel f)
  | 0x58 => some (.vmov f)
  | 0x59 => some (.vli f)
  | 0x5A => some (.vid f)
  | 0x5B => some (.kand f)
  | 0x5C => some (.kor f)
  | 0x5D => some (.kxor f)
  | 0x5E => some (.knot f)
  | 0x5F => some (.kmov f)
  | 0x60 => some (.vmatch f)
  | 0x61 => some (.vmrank f)
  | 0x62 => some (.vbfly f)
  | 0x63 => some (.vshfl f)
  | 0x64 => some (.vbcast f)
  | 0x65 => some (.vscan f)
  | 0x66 => some (.vred f)
  | 0x67 => some (.vsat f)
  | 0x6A => some (.xset f)
  | 0x6B => some (.xwin true (f.ext 0x6B))
  | 0x6C => some (.vdot4I8 f)
  | 0x6D => some (.vmulw f)
  | 0x6E => some (.vclamp f)
  | 0x6F => some (.vhash f)
  | 0x70 => some (.vfaddF32 f)
  | 0x71 => some (.vfsubF32 f)
  | 0x72 => some (.vfmulF32 f)
  | 0x73 => some (.vffmaF32 f)
  | 0x74 => some (.vfaddF64 f)
  | 0x75 => some (.vfmulF64 f)
  | 0x76 => some (.vffmaF64 f)
  | 0x77 => some (.vfaddF16x2 f)
  | 0x78 => some (.vffmaF16x2 f)
  | 0x79 => some (.vfaddB16x2 f)
  | 0x7A => some (.vffmaB16x2 f)
  | 0x80 => some (.vfdivF32 f)
  | 0x81 => some (.vfsqrtF32 f)
  | 0x8A => some (.vqblk f)
  | 0x8B => some (.vdqblk f)
  | 0x8D => some (.vtern f)
  | 0x8E => some (.vrand f)
  | 0x8F => some (.absrd f)
  | 0x90 => some (.absclr f)
  | 0x91 => some (.absupd f)
  | 0x96 => some (.vfdot2F16 f)
  | 0x97 => some (.vfdot2B16 f)
  | 0x9E => some (.vcvtE8 f)
  | 0x9F => some (.vcvtE4 f)
  | 0xB4 => some (.fence f)
  | 0xB5 => some (.acq f)
  | 0xB6 => some (.rel f)
  | 0xE8 => some (.bar f)
  | 0xE9 => some (.barar f)
  | 0xEA => some (.barwt f)
  | 0xEC => some (.ecwait f)
  | 0xFD => some (.park f)
  | _ => none

/-- The instruction of a extended form of class A, by its opcode (R225). -/
noncomputable def extAInstr (op : Byte) (f : ExtA) : Option Instr :=
  match op.toNat with
  | 0x01 => some (.nopExt f)
  | 0x12 => some (.idemExt f)
  | 0x13 => some (.stepExt f)
  | 0x16 => some (.mfsys f)
  | 0x17 => some (.mtsys f)
  | 0x18 => some (.yieldExt f)
  | 0x19 => some (.tmsetExt f)
  | 0x1A => some (.rdcycExt f)
  | 0x1B => some (.detmExt f)
  | 0x1D => some (.ctxsw f)
  | 0x1E => some (.finj f)
  | 0x1F => some (.brkExt f)
  | 0x20 => some (.saddExt f)
  | 0x21 => some (.ssubExt f)
  | 0x22 => some (.smulExt f)
  | 0x23 => some (.smulhExt f)
  | 0x24 => some (.sandExt f)
  | 0x25 => some (.sorExt f)
  | 0x26 => some (.sxorExt f)
  | 0x27 => some (.sshlExt f)
  | 0x28 => some (.sshrExt f)
  | 0x29 => some (.ssraExt f)
  | 0x2A => some (.sminExt f)
  | 0x2B => some (.smaxExt f)
  | 0x2C => some (.sminnExt f)
  | 0x2D => some (.smaxnExt f)
  | 0x2E => some (.smovExt f)
  | 0x2F => some (.sliExt f)
  | 0x30 => some (.ssetExt f)
  | 0x31 => some (.sselExt f)
  | 0x35 => some (.shld f)
  | 0x36 => some (.shset f)
  | 0x37 => some (.shget f)
  | 0x38 => some (.lssetExt f)
  | 0x39 => some (.lsgetExt f)
  | 0x3A => some (.ovfrdExt f)
  | 0x3B => some (.kpopExt f)
  | 0x3C => some (.kffsExt f)
  | 0x3D => some (.vtosExt f)
  | 0x3E => some (.stovExt f)
  | 0x3F => some (.sdivExt f)
  | 0x40 => some (.vaddI32Ext f)
  | 0x41 => some (.vsubI32Ext f)
  | 0x42 => some (.vmulI32Ext f)
  | 0x43 => some (.vmulhI32Ext f)
  | 0x44 => some (.vmadI32Ext f)
  | 0x45 => some (.vaddI64Ext f)
  | 0x46 => some (.vsubI64Ext f)
  | 0x47 => some (.vminExt f)
  | 0x48 => some (.vmaxExt f)
  | 0x49 => some (.vabsI32Ext f)
  | 0x4A => some (.vandExt f)
  | 0x4B => some (.vorExt f)
  | 0x4C => some (.vxorExt f)
  | 0x4D => some (.vandnExt f)
  | 0x4E => some (.vshlExt f)
  | 0x4F => some (.vshrExt f)
  | 0x50 => some (.vsraExt f)
  | 0x51 => some (.vrotExt f)
  | 0x52 => some (.vbfeExt f)
  | 0x53 => some (.vbfiExt f)
  | 0x54 => some (.vpopcExt f)
  | 0x55 => some (.vclzExt f)
  | 0x56 => some (.vcmp f)
  | 0x57 => some (.vselExt f)
  | 0x58 => some (.vmovExt f)
  | 0x59 => some (.vliExt f)
  | 0x5A => some (.vidExt f)
  | 0x5B => some (.kandExt f)
  | 0x5C => some (.korExt f)
  | 0x5D => some (.kxorExt f)
  | 0x5E => some (.knotExt f)
  | 0x5F => some (if f.mod == 1 then .kmovQ f else if f.mod == 2 then .kmovAct f else .kmovExt f)
  | 0x60 => some (.vmatchExt f)
  | 0x61 => some (.vmrankExt f)
  | 0x62 => some (.vbflyExt f)
  | 0x63 => some (.vshflExt f)
  | 0x64 => some (.vbcastExt f)
  | 0x65 => some (.vscanExt f)
  | 0x66 => some (.vredExt f)
  | 0x67 => some (.vsatExt f)
  | 0x68 => some (.vxld f)
  | 0x69 => some (.vxst f)
  | 0x6A => some (.xsetExt f)
  | 0x6B => some (.xwin false f)
  | 0x6C => some (.vdot4I8Ext f)
  | 0x6D => some (.vmulwExt f)
  | 0x6E => some (.vclampExt f)
  | 0x6F => some (.vhashExt f)
  | 0x70 => some (.vfaddF32Ext f)
  | 0x71 => some (.vfsubF32Ext f)
  | 0x72 => some (.vfmulF32Ext f)
  | 0x73 => some (.vffmaF32Ext f)
  | 0x74 => some (.vfaddF64Ext f)
  | 0x75 => some (.vfmulF64Ext f)
  | 0x76 => some (.vffmaF64Ext f)
  | 0x77 => some (.vfaddF16x2Ext f)
  | 0x78 => some (.vffmaF16x2Ext f)
  | 0x79 => some (.vfaddB16x2Ext f)
  | 0x7A => some (.vffmaB16x2Ext f)
  | 0x7B => some (.vfmin f)
  | 0x7C => some (.vfmax f)
  | 0x7D => some (.vfabs f)
  | 0x7E => some (.vfneg f)
  | 0x7F => some (.vfcmp f)
  | 0x80 => some (.vfdivF32Ext f)
  | 0x81 => some (.vfsqrtF32Ext f)
  | 0x82 => some (.vfrcp f)
  | 0x83 => some (.vfrsqrt f)
  | 0x84 => some (.vfexp2 f)
  | 0x85 => some (.vflog2 f)
  | 0x86 => some (.vfclass f)
  | 0x87 => some (.vcvtF f)
  | 0x88 => some (.vcvtFi f)
  | 0x89 => some (.vcvtIf f)
  | 0x8A => some (.vqblkExt f)
  | 0x8B => some (.vdqblkExt f)
  | 0x8C => some (.vhad f)
  | 0x8D => some (.vternExt f)
  | 0x8E => some (.vrandExt f)
  | 0x8F => some (.absrdExt f)
  | 0x90 => some (.absclrExt f)
  | 0x91 => some (.absupdExt f)
  | 0x92 => some (.vfscale f)
  | 0x93 => some (.vlscale f)
  | 0x94 => some (.vfchk f)
  | 0x95 => some (.vfsum f)
  | 0x96 => some (.vfdot2F16Ext f)
  | 0x97 => some (.vfdot2B16Ext f)
  | 0x98 => some (.vfpack f)
  | 0x99 => some (.vfunpk f)
  | 0x9A => some (.vfrint f)
  | 0x9B => some (.vfcopysign f)
  | 0x9C => some (.vfmaxabs f)
  | 0x9D => some (.vnorm2 f)
  | 0x9E => some (.vcvtE8Ext f)
  | 0x9F => some (.vcvtE4Ext f)
  | 0xD0 => some (.mwld f)
  | 0xD1 => some (.mmac f)
  | 0xD2 => some (.mtri f)
  | 0xD3 => some (.mlut f)
  | 0xD4 => some (.mtern f)
  | 0xD5 => some (.mzero f)
  | 0xD6 => some (.mrd f)
  | 0xD7 => some (.mwr f)
  | 0xD8 => some (if f.mod == 1 then .mverSet f else .mver f)
  | 0xD9 => some (.mscale f)
  | 0xDA => some (.mstream f)
  | 0xDB => some (.mwrel f)
  | 0xDC => some (.spbind f)
  | 0xDD => some (.spunbind f)
  | 0xDE => some (.spsettle f)
  | 0xDF => some (.spquery f)
  | 0xE0 => some (.sprefresh f)
  | 0xE1 => some (.sppause f)
  | 0xE2 => some (.spresume f)
  | 0xE3 => some (.spsnap f)
  | 0xE4 => some (.mbar f)
  | 0xE5 => some (.maccadd f)
  | 0xE6 => some (.mpeek f)
  | 0xE7 => some (.mfmt f)
  | 0xE8 => some (.barExt f)
  | 0xE9 => some (.bararExt f)
  | 0xEA => some (.barwtExt f)
  | 0xEB => some (.cwait f)
  | 0xEC => some (.ecwaitExt f)
  | 0xED => some (.kick f)
  | 0xEE => some (.coll f)
  | 0xEF => some (.amsg f)
  | 0xF0 => some (.amreply f)
  | 0xF1 => some (.tender f)
  | 0xF2 => some (.bidld f)
  | 0xF3 => some (.tquery f)
  | 0xF4 => some (if f.mod == 1 then .launchFab f else .launch f)
  | 0xF5 => some (if f.mod == 1 then .leaveQ f else .leave f)
  | 0xF6 => some (.evpost f)
  | 0xF7 => some (.evget f)
  | 0xF8 => some (.qwait f)
  | 0xF9 => some (.qsig f)
  | 0xFA => some (.gangsync f)
  | 0xFB => some (.replay f)
  | 0xFC => some (.digest f)
  | 0xFD => some (.parkExt f)
  | 0xFE => some (.cutq f)
  | _ => none

/-- The instruction of a form of class E, by its opcode (R225). -/
noncomputable def extEInstr (op : Byte) (f : ExtE) : Option Instr :=
  match op.toNat with
  | 0x02 => some (.br f)
  | 0x03 => some (.bcEq f)
  | 0x04 => some (.bcNe f)
  | 0x05 => some (.bcLt f)
  | 0x06 => some (.bcGe f)
  | 0x07 => some (.bcLtn f)
  | 0x08 => some (.bcGen f)
  | 0x09 => some (.bany f)
  | 0x0A => some (.ball f)
  | 0x0B => some (.bnone f)
  | 0x0C => some (.bdiv f)
  | 0x0D => some (.join f)
  | 0x0E => some (.call f)
  | 0x0F => some (.ret f)
  | 0x10 => some (.jmp f)
  | 0x11 => some (.exit f)
  | 0x14 => some (.trap f)
  | 0x15 => some (.eret f)
  | 0x1C => some (.sigck f)
  | _ => none

/-- The instruction of a form of class M, by its opcode (R225). -/
noncomputable def extMInstr (op : Byte) (f : ExtM) : Option Instr :=
  match op.toNat with
  | 0x32 => some (.sld f)
  | 0x33 => some (.sst f)
  | 0x34 => some (.xlat f)
  | 0xA0 => some (.ld f)
  | 0xA1 => some (.st f)
  | 0xA4 => some (.gather f)
  | 0xA5 => some (.scatter f)
  | 0xA6 => some (.lds f)
  | 0xA7 => some (.sts f)
  | 0xA8 => some (.ldc f)
  | 0xA9 => some (.stc f)
  | 0xAA => some (.ldp f)
  | 0xAB => some (.stp f)
  | 0xAC => some (.pref f)
  | 0xAD => some (.l2pin f)
  | 0xAE => some (.l2unpin f)
  | 0xAF => some (.discard f)
  | 0xB0 => some (.wback f)
  | 0xB1 => some (.objdecl f)
  | 0xB2 => some (.objset f)
  | 0xB3 => some (.objrel f)
  | 0xB4 => some (.fenceExt f)
  | 0xB5 => some (.acqExt f)
  | 0xB6 => some (.relExt f)
  | 0xB7 => some (.ldsc f)
  | 0xB8 => some (.stsc f)
  | 0xB9 => some (.stmc f)
  | 0xBA => some (.ldx f)
  | 0xBB => some (.stx f)
  | 0xBC => some (.winmap f)
  | 0xBD => some (if f.modm == 0 then .winsyncWb f else if f.modm == 1 then .winsyncFill f else .winsyncClose f)
  | 0xBE => some (.tlbinv f)
  | 0xBF => some (.xlatq f)
  | 0xC0 => some (.ataddI32 f)
  | 0xC1 => some (.ataddI64 f)
  | 0xC2 => some (.ataddfF32 f)
  | 0xC3 => some (.atmin f)
  | 0xC4 => some (.atmax f)
  | 0xC5 => some (.atand f)
  | 0xC6 => some (.ator f)
  | 0xC7 => some (.atxor f)
  | 0xC8 => some (.atxchg f)
  | 0xC9 => some (.atcasI32 f)
  | 0xCA => some (.atcasI64 f)
  | 0xCB => some (.atinc f)
  | 0xCC => some (.atdec f)
  | 0xCD => some (.ataddsc f)
  | 0xCE => some (.atcassc f)
  | 0xCF => some (.atwait f)
  | _ => none

/-- The instruction that the parts stand for. -/
noncomputable def Parts.instr : Parts → Option Instr
  | .raw w => some (if w == 0 then .trap0 else .ill w)
  | .compact op f => compactInstr op f
  | .extA op f => extAInstr op f
  | .extE op f => extEInstr op f
  | .extM op f => extMInstr op f
  | .lit op f l => if op == 0x2F then some (.sliLiteral f l) else if op == 0x59 then some (.vliLiteral f l) else none
  | .absE op f l => if op == 0x0E then some (.callAbsolute f l) else if op == 0x10 then some (.jmpAbsolute f l) else none
  | .sweepA op f l => some (.vectorSweep op f l)
  | .sweepM op f l => if op == 0xA2 then some (.ldsw f l) else if op == 0xA3 then some (.stsw f l) else none

/-- Whether an instruction is well formed in a mode: its fields pass R228 and name this constructor. -/
noncomputable def Instr.wf (m : Mode) (i : Instr) : Bool :=
  match i.parts with
  | some p => p.check m == none && p.instr == some i
  | none => true

/-- The words of an instruction, from the encoding of R210 to R218; a device step has none. -/
def encode (i : Instr) : List Word :=
  match i.parts with
  | some p => p.words
  | none => []

/-- Decoding of up to five words (R228): the instruction, or the cause that refuses it. -/
noncomputable def decodeWords (m : Mode) (w0 w1 w2 w3 w4 : Word) : Except Cause Instr :=
  let p := Parts.ofWords w0 w1 w2 w3 w4
  match p.check m with
  | some c => .error c
  | none => match p.instr with
    | some i => .ok i
    | none => .error .illegalForm

/-- Word number `k` of a list of words, or 0 past its end. -/
def wordAt (ws : List Word) (k : Nat) : Word := (ws[k]?).getD 0

/-- The decoder on a list of words, lowest address first; only as many as word 0 asks for are read. -/
noncomputable def decode (m : Mode) (ws : List Word) : Except Cause Instr :=
  let n := wordCount (wordAt ws 0)
  decodeWords m (wordAt ws 0) (if 1 < n then wordAt ws 1 else 0) (if 1 < n then wordAt ws 2 else 0)
    (if 3 < n then wordAt ws 3 else 0) (if 3 < n then wordAt ws 4 else 0)

/-- The words of `n` bytes, little-endian (R7, R210). -/
def wordsOfBytes : Nat → List Byte → List Word
  | 0, _ => []
  | n + 1, bs => ((bs[3]?).getD 0 ++ (bs[2]?).getD 0 ++ (bs[1]?).getD 0 ++ (bs[0]?).getD 0) :: wordsOfBytes n (bs.drop 4)

/-- The bytes of a word, little-endian (R7). -/
def bytesOfWord (w : Word) : List Byte :=
  [w.extractLsb' 0 8, w.extractLsb' 8 8, w.extractLsb' 16 8, w.extractLsb' 24 8]

/-- The decoder on bytes, lowest address first: refused where the bytes end before the instruction does. -/
noncomputable def decodeBytes (m : Mode) (bs : List Byte) : Except Cause (Instr × List Byte) :=
  let n := wordCount (wordAt (wordsOfBytes 1 bs) 0)
  if bs.length < 4 * n then .error .illegalForm
  else match decode m (wordsOfBytes n bs) with
    | .ok i => .ok (i, bs.drop (4 * n))
    | .error c => .error c

/-- The bytes of an instruction, lowest address first. -/
def encodeBytes (i : Instr) : List Byte := (encode i).flatMap bytesOfWord

/-- Handler mode, which holds supervisor privilege (R390): the mode that reaches every opcode. -/
def Mode.handler : Mode := { hnd := true, sup := true }

/-- What the decoder reads from an instruction with the bits `w` of the opcode table: bit 0 is bit 0 of word 0,
word 1 lies in bits 63:32, and so on. Bits at or above `nbits` are 0. -/
noncomputable def decodeTableWord (nbits w : Nat) : Option Instr :=
  let v := w % 2 ^ nbits
  let word (k : Nat) : Word := BitVec.ofNat 32 (v / 2 ^ (32 * k))
  match decode Mode.handler [word 0, word 1, word 2, word 3, word 4] with
  | .ok i => some i
  | .error _ => none

end Sys2Proof
end

