-- ==== Sys2Proof/Config.lean ====
section
/-! DEFINITION. What the implementation fixes, and the free values of the model. A free value is an opaque
constant with no body: nothing can be proved of what it is. -/

namespace Sys2Proof

/-- What a place outside populated memory reads as, by its DPA: poisoned data (R30; log 123). -/
opaque Config.holeData : Nat → DWord

/-- Populated frames of each bulkhead's stack (R31). -/
def Config.hbmFrames : Nat := 976562

/-- Free value number `n`: a value that the spec leaves open. `State.tick` numbers them (log 2). -/
opaque Config.freeValue : Nat → DWord

/-- The code or scale number `i` of a weight slot read back from an image, by the 8 KiB of the slot as one number and the slot's
`mfmt` fields: the slot's internal order is open (R401; log 33). -/
opaque Config.slotCode : Nat → Nat → Nat → Nat

/-- The binary32 magnitude that enters ABSMAX for a block maximum m × 2^e that binary32 does not represent (log 18). -/
opaque Config.wideMagnitude : Nat → Int → Word

/-- Network cycles that pass during step number `n` of the device (log 4). -/
opaque Config.stepCycles : Nat → Nat

/-- Core cycles that pass in bulkhead `b` during step number `n` of the device (log 4). -/
opaque Config.coreCycles : Nat → Nat → Nat

/-- Whether the NVMe device fails to answer, as no device, no namespace 1 or an error (R444, R446), at a value of `State.tick`
and of the clock (log 81). -/
opaque Config.nvmeFails : Nat → Nat → Bool

/-- Whether the boot image with this content passes the ECDSA check of R443 (log 11). -/
opaque Config.ecdsaOk : List (Nat × Byte) → Bool

/-- Whether the boot image with this content passes the LMS check of R443 (log 11). -/
opaque Config.lmsOk : List (Nat × Byte) → Bool

/-- Whether the boot image has a readable format (R444, REASON 0x02; log 11). -/
opaque Config.imageFormatOk : List (Nat × Byte) → Bool

/-- Whether the image's security version reaches the fused minimum (R443; log 11). -/
opaque Config.securityVersionOk : List (Nat × Byte) → Bool

/-- The frames of which Ronuri builds the free pool of bulkhead `b` at a start (R443; log 11). -/
opaque Config.bootPool : Nat → List Nat

/-- The fused number of failed starts that lead to tadpole mode (R444, reset 3). -/
def Config.bootLimit : Nat := 3

/-- The SPDM answer for a measured content (R448; log 11). -/
opaque Config.spdmAnswer : BitVec 8 → List (Nat × Byte) → DWord

end Sys2Proof
end

