-- ==== Sys2Proof/Machine/Tables.lean ====
section
/-! DEFINITION. Sparse tables by number, and byte memory as a table in canonical form: keys strictly rising, and
no entry equal to what an unlisted address reads as. -/

namespace Sys2Proof.Machine

/-- Entries by number, the numbers strictly rising. -/
abbrev Table (α : Type) := List (Nat × α)

/-- The entry of number `k`. -/
def Table.find {α : Type} : Table α → Nat → Option α
  | [], _ => none
  | (j, a) :: t, k => if j = k then some a else Table.find t k

/-- The entry of number `k`, or `d` where there is none. -/
def Table.findD {α : Type} (t : Table α) (k : Nat) (d : α) : α := (Table.find t k).getD d

/-- The table with `a` as the entry of number `k`. -/
def Table.set {α : Type} : Table α → Nat → α → Table α
  | [], k, a => [(k, a)]
  | (j, b) :: t, k, a =>
    if k < j then (k, a) :: (j, b) :: t
    else if k = j then (k, a) :: t
    else (j, b) :: Table.set t k a

/-- The table without an entry of number `k`. -/
def Table.erase {α : Type} : Table α → Nat → Table α
  | [], _ => []
  | (j, b) :: t, k => if j = k then Table.erase t k else (j, b) :: Table.erase t k

/-- The table with the entry of number `k` changed by `f`, where there is one. -/
def Table.modify {α : Type} (t : Table α) (k : Nat) (f : α → α) : Table α :=
  match Table.find t k with
  | some a => Table.set t k (f a)
  | none => t

/-- Every entry changed by `f`. -/
def Table.mapAll {α : Type} (t : Table α) (f : Nat → α → α) : Table α := t.map fun p => (p.1, f p.1 p.2)

/-- The entries for which `p` holds. -/
def Table.select {α : Type} (t : Table α) (p : Nat → α → Bool) : Table α := t.filter fun e => p e.1 e.2

/-- The table without the numbers whose entry `p` holds of. -/
def Table.drop {α : Type} (t : Table α) (p : Nat → α → Bool) : Table α :=
  t.filter fun e => !(p e.1 e.2 || (Table.find t e.1).any (p e.1))

/-- The lowest number at or above `k` that has no entry. -/
def Table.freeFrom {α : Type} (t : Table α) : Nat → Nat → Nat
  | 0, k => k
  | fuel + 1, k => if (Table.find t k).isSome then Table.freeFrom t fuel (k + 1) else k

/-- The numbers strictly rise. -/
def Table.sorted {α : Type} : Table α → Bool
  | [] => true
  | [_] => true
  | (i, _) :: (j, b) :: t => decide (i < j) && Table.sorted ((j, b) :: t)

/-- Byte memory: an address that is not listed reads 0 (log 1). -/
abbrev Memory := Table Byte

/-- What an unlisted address reads as (log 1). -/
def Memory.unlisted : Byte := 0

/-- The byte at an address. -/
def Memory.byte (m : Memory) (a : Nat) : Byte := Table.findD m a Memory.unlisted

/-- The memory with one byte written, in canonical form. -/
def Memory.put (m : Memory) (a : Nat) (b : Byte) : Memory :=
  if b = Memory.unlisted then Table.erase m a else Table.set m a b

/-- The canonical form: addresses strictly rising, no listed byte equal to what an unlisted one reads as. -/
def Memory.wf (m : Memory) : Bool := Table.sorted m && m.all fun c => c.2 != Memory.unlisted

/-- `n` bytes from address `a`, little-endian (R7), as a number. -/
def Memory.load (m : Memory) (a : Nat) : Nat → Nat
  | 0 => 0
  | n + 1 => (Memory.byte m a).toNat + 256 * Memory.load m (a + 1) n

/-- The low `n` bytes of `v` stored from address `a`, little-endian (R7). -/
def Memory.store (m : Memory) (a : Nat) : Nat → Nat → Memory
  | 0, _ => m
  | n + 1, v => Memory.store (Memory.put m a (BitVec.ofNat 8 v)) (a + 1) n (v / 256)

/-- `n` bytes from address `a` as a list, lowest address first. -/
def Memory.bytes (m : Memory) (a : Nat) (n : Nat) : List Byte :=
  (List.range n).map fun i => Memory.byte m (a + i)

/-- A list of bytes stored from address `a`. -/
def Memory.putBytes (m : Memory) (a : Nat) : List Byte → Memory
  | [] => m
  | b :: t => Memory.putBytes (Memory.put m a b) (a + 1) t

end Sys2Proof.Machine
end

