-- ==== Sys2Proof/Machine/State.lean ====
section
/-! DEFINITION. The state of the whole device as plain data: groups, teams, grids, contexts, cores, matrix units,
bulkheads, messages in flight, the fabric and host side, and the schedule that says which agent moves next. -/

namespace Sys2Proof.Machine

/-- A vector register: its lanes and its full/empty bit (R152, R266). -/
structure VReg where
  full : Bool
  lane : Lanes Word
deriving DecidableEq, Repr

/-- An index register with its window (R284). -/
structure IndexReg where
  lane : Lanes (BitVec 16)
  lo : Byte
  hi : Byte
deriving DecidableEq, Repr

/-- A translation register (R61). -/
structure TransReg where
  v : Bool
  w : Bool
  cw : Bool
  fz : Bool
  nc : Bool
  s : Bool
  frame : BitVec 23
  limit : BitVec 36
  va : BitVec 56
deriving DecidableEq, Repr

/-- A shape record (R258). -/
structure Shape where
  base : BitVec 56
  rows : BitVec 24
  cols : BitVec 24
  pitch : BitVec 40
  fc : BitVec 5
deriving DecidableEq, Repr

/-- An activation stream (R341): a copy of a shape, and of a scale shape with `.sc`. -/
structure Stream where
  shape : Shape
  scales : Option Shape
deriving DecidableEq, Repr

/-- A program-counter slot (R150, R222, R234, R162). `flip` is the pending effect of `finj 0` (R252), `segment` the
sweep segment that the slot performs next when it stands inside a sweep (R219), `swept` the PC and the words of the sweep that it
fetched last, `sysSince` when its `.sys` operation began to wait (R142), `age` since when it has been ready, `unready` that its next
instruction is not, and `tried` when it was last asked for it (R162). -/
structure PcSlot where
  live : Bool
  waiting : Bool
  flip : Bool
  pc : DWord
  mask : Mask
  sig : Word
  joinPc : DWord
  age : Nat
  segment : Option (BitVec 12)
  sysSince : Option Nat
  swept : Option (DWord × List Word) := none
  unready : Bool := false
  tried : Nat := 0
deriving DecidableEq, Repr

/-- What trap entry saves besides y0 to y4 (R389). -/
structure HandlerState where
  resumePc : DWord
  mask : Mask
  sig : Word
  slot : Bool
  segment : BitVec 12
deriving DecidableEq, Repr

/-- A pending deferred trap (R29) or other cause that is taken at an instruction boundary (R393). -/
structure Pending where
  cause : Cause
  pc : DWord
  lane : Nat
  addr : DWord
  kind : BitVec 2
deriving DecidableEq, Repr

/-- What a group waits for (R154, R163, R398, R69, R405): `register` is a register that is empty, or an operation on a tile or a slot,
`room` is a load into a scalar register, which has no empty state (R256), room in a counter, a table or a unit, or an order that R127
or R134 asks for. -/
inductive Wait where
  | none
  | bar (n : Nat)
  | gangsync
  | mbar
  | qwait
  | park
  | ecwait
  | atwait
  | cwait
  | evget
  | spPaused (binding : Nat)
  | register
  | room
  | detm (on slot : Bool) (words : Nat)
  | leave
  | fabricLaunch
  | cutStop
  | plex (cause : Cause)
  | restart (cause : Cause)
  | sysRelease
deriving DecidableEq, Repr

/-- Which run of a group this is (R385). -/
inductive RunKind where
  | original | replay | arbiter
deriving DecidableEq, Repr

/-- One group: the registers of R402 and what the model adds to name it and where it is; `uid` is its own number wherever it lies,
`pushed` are the sweep segments at which slots on the divergence stack stand, by level (R219), `flips` the levels at which a slot's
next byte is fed altered (R252), `handoff` is what FT_HANDOFF gave the plex that it waits for (R72), `consumed` are the uncorrectable
errors not taken yet (R393), `regPoison` marks the poisoned lanes of its registers, by the number of `Group.named` (R83). -/
structure Group where
  asid : Nat
  team : Nat
  index : Nat
  uid : Nat := 0
  supervisor : Bool
  ended : Bool
  regs : Nat
  base : Nat
  active : Bool
  s : Vector DWord 64
  y : Vector DWord 8
  k : Vector Mask 16
  v : Table VReg
  z : Vector (Lanes Word) 16
  zFull : BitVec 16
  x : Vector IndexReg 8
  t : Vector TransReg 8
  h : Vector Shape 16
  e : Vector (BitVec 8) 4
  slot0 : PcSlot
  slot1 : PcSlot
  nextSlot : Bool
  depth : Nat
  pushed : Table (BitVec 12)
  flips : List Nat := []
  handoff : Option (BitVec 7)
  fenceLoss : Bool
  restarts : BitVec 2
  idem : Bool
  hnd : Bool
  stepLast : Word
  stepCount : Word
  tmrArmed : Bool
  tmrRemain : BitVec 48
  timerDue : Bool
  ls : Word
  ovf : BitVec 8
  absmax : Word
  absQueue : List Word
  draws : Lanes DWord
  idemPc : DWord
  idemSig : Word
  idemDraws : Lanes DWord
  saved : HandlerState
  ptVa : DWord
  ptOld : DWord
  ptNew : DWord
  ptStat : BitVec 3
  fdResult : DWord
  streams : Vector (Option Stream) 4
  digest : DWord
  run : RunKind
  selected : Bool
  deferred : List Pending
  consumed : List Cause
  regPoison : Table Mask := []
  gangAbort : Bool
  fenceStamp : Nat
  arrived : Vector (Option Nat) 16
  gangArrived : Option Nat
  wait : Wait
  waitSince : Nat
  waitClock : Nat
  messages : Nat
  zeroRead : Bool
  scalarBusy : List Nat
deriving DecidableEq, Repr

/-- A team barrier (R362) or gangsync (R363). -/
structure Barrier where
  episode : Nat
  arrived : List Nat
deriving DecidableEq, Repr

/-- A mirror window (R324, R401); `frames` are the frames that it marked, with the number of the page that each
backs. -/
structure Mirror where
  va : DWord
  offset : Nat
  units : Nat
  revoked : Bool
  frames : List (Nat × Nat)
deriving DecidableEq, Repr

/-- An accumulator tile: 32 by 64 binary32 elements, element (m, n) at 64m + n, its version (R334, R335), and the elements that are
poisoned (R83). -/
structure Tile where
  version : BitVec 16
  data : Table Word
  poison : List Nat := []
deriving DecidableEq, Repr

/-- What a team belongs to (R155, R373, R374, R410). -/
inductive TeamKind where
  | grid
  | task (bh : Nat) (seq : Nat)
  | message (token : Nat)
  | replay (job : Nat)
deriving DecidableEq, Repr

/-- A team that is placed (R148, R160); `ran` are the cores that ran a part of it (R410), `exited` says that its last group has
ended while its gang goes on (R161), `spadBases` are the bases of its scratchpad parts, core by core (R17), `turnFresh` says that a
`detm` has just set its turn (R440), `migrateSince` when its gang, which must migrate, first found no room, and `migratePosted` that
MIGRATE_FAIL was posted for it (R414). -/
structure Team where
  kind : TeamKind
  grid : Nat
  gang : Nat
  asid : Nat
  bh : Nat
  cores : List Nat
  ran : List Nat
  index : Nat
  gteam : Nat
  groups : Nat
  acct : Nat
  spad : Nat
  spadBases : List Nat
  barriers : Vector Barrier 16
  gangSync : Barrier
  mbarArrived : Table Nat
  windows : Table Mirror
  held : List Nat
  asked : List Nat
  detm : Bool
  turnGroup : Nat
  turnFresh : Bool := false
  retired : Nat
  exited : Bool
  tiles : Table Tile
  migrateSince : Option Nat := none
  migratePosted : Bool := false
deriving DecidableEq, Repr

/-- The launch record of R155. -/
structure LaunchRec where
  entry : DWord
  teams : Nat
  gang : Nat
  stage : Nat
  groups : Nat
  regsCode : Nat
  replay : Nat
  vbc : Bool
  opp : Nat
  seed : Word
  acct : Nat
  spad : Nat
  args : DWord
  done : DWord
  wait : DWord
  wval : DWord
deriving DecidableEq, Repr

/-- A grid that was accepted (R156 to R158); `taskSeq` and `taskCore` are the sequence number and the tendering core of a task's
(R374), `started` are the cores on which a team of it has started (R211). -/
structure Grid where
  asid : Nat
  bh : Nat
  queue : Nat
  number : Nat
  supervisor : Bool
  launch : LaunchRec
  ready : Bool
  placed : Nat
  retired : Nat
  cause : Option Cause
  taskSeq : Option Nat
  taskCore : Nat := 0
  reported : Bool
  started : List Nat
deriving DecidableEq, Repr

/-- The context's instance in one bulkhead (R157, R377, R380, R396, R398). -/
structure CtxBh where
  evqEn : Bool
  evqGet : Nat
  evqPut : Nat
  evqCount : Nat
  evqFrame : Nat
  evqLost : Nat
  queues : Vector (List Nat) 16
  launches : Nat
  drained : Bool
  cutPending : Bool
  cutDone : Bool
  cutTarget : Word
deriving DecidableEq, Repr

/-- A context: the context registers of R242 and its instances. -/
structure Ctx where
  part : DWord
  privBase : DWord
  privSz : DWord
  ptRoot : DWord
  ftVec : DWord
  bankKey : DWord
  qPrio : DWord
  waitSwap : DWord
  fpCtl : DWord
  fabCtl : DWord
  dbg : DWord
  trVec : DWord
  inst : Table CtxBh
  spIds : Table (Nat × Nat)
deriving DecidableEq, Repr

/-- The state of a word in an L1 (R88); a word that is not listed is I. -/
inductive L1State where
  | valid | pend | owned
deriving DecidableEq, Repr

/-- The level at which a word was poisoned (R406). -/
inductive PoisonLevel where
  | pool (core : Nat)
  | l1 (core : Nat)
  | l2
  | hbm
  | remote
deriving DecidableEq, Repr

/-- Under whose address an si store that was not sent was made, and by which instruction (R89, R97); `pair` marks one
half of an aligned element of 8 bytes, which is sent whole (R119), and `own` one of which an own store was merged into a
registration in flight (R89). -/
structure Lazy where
  asid : Nat
  va : Nat
  gid : Nat
  slot : Bool
  pc : DWord
  pair : Bool
  own : Bool
deriving DecidableEq, Repr

/-- A word of an L1 (R87, R89): `bytes` says which of its bytes it holds, `unsent` which of them were stored and not
sent, `lazy` under whose address that was, `tag` the object and version of its line, `leaving` that its line is being evicted
and the word goes once it is performed (R89). -/
structure L1Word where
  st : L1State
  data : Word
  bytes : BitVec 4
  unsent : BitVec 4
  lazy : Option Lazy
  tag : Option (Nat × Nat)
  poison : Option PoisonLevel
  leaving : Bool := false
deriving DecidableEq, Repr

/-- A cached non-leaf entry (R65): the address space, the level at which it stands, the number of the range that it covers,
and the table that it names. -/
structure TableEntry where
  asid : Nat
  level : Nat
  vpn : Nat
  table : Nat
deriving DecidableEq, Repr

/-- A cached translation (R65): the leaf entry of a range and the DPA at which the walk read it. -/
structure TlbEntry where
  asid : Nat
  level : Nat
  vpn : Nat
  entry : DWord
  addr : Nat
deriving DecidableEq, Repr

/-- The translation caches of a core, an engine, the fabric export path or the host path (R65), in the order of their use, the
latest first. -/
structure Cache where
  leaves : List TlbEntry
  tables : List TableEntry
deriving DecidableEq, Repr

/-- A class record of the chorus (R168). -/
structure ClassRec where
  steps : List (BitVec 16)
  entry : DWord
  asid : Nat
  spad : Nat
  groups : Nat
  regsCode : Nat
  replay : Nat
  vbc : Bool
deriving DecidableEq, Repr

/-- A tendered task accepted by a core (R171, R374). -/
structure Task where
  bh : Nat
  seq : Nat
  work : ClassRec
  args : DWord
  done : DWord
  tenderer : Nat
deriving DecidableEq, Repr

/-- A redirect entry of a network interface (R115): the line, its object, and the slices that accepted replicas, in the
order of R114. -/
structure Redirect where
  line : Nat
  obj : Nat
  helpers : List Nat
deriving DecidableEq, Repr

/-- A line in a core's fetch buffers (R211): its bytes, and the words of it that were poisoned (R406). -/
structure FetchLine where
  bytes : List Byte
  poison : List Nat
deriving DecidableEq, Repr

/-- A core (R77, R87, R164, R244, R414); `resident` are the contexts resident on it, in the order of their admission (R165),
`redirects` stand in the order of their use, the latest first (R115). -/
structure Core where
  l1 : Table L1Word
  lcc : Nat
  resident : List Nat
  switchedIn : Option Nat
  spad : Table Memory
  poolPoison : Table PoisonLevel
  fetch : Table FetchLine
  redirects : List Redirect
  decays : Nat
  suspScore : Nat
  suspLimit : Nat
  quarantined : Bool
  tasks : List Task
  withdrawals : Nat
  inbox : List Nat
  eccPool : Nat
  eccL1 : Nat
deriving DecidableEq, Repr

/-- A weight slot of a matrix unit (R338, R339): codes at 64k + n, scales at 64j + n. -/
structure WeightSlot where
  team : Nat
  fc : BitVec 5
  lut : Nat
  sc : Bool
  kw : Nat
  codes : Table Nat
  scales : Table Nat
deriving DecidableEq, Repr

/-- The matrix operations of R336 with their operands as taken at issue; `draws` are the draw counters of the lanes. -/
inductive MatKind where
  | load (slot : Nat) (shape : Shape) (scales : Option Shape) (lut : Nat) (kbase nbase : Nat)
  | mac (op : Byte) (tile slot : Nat) (stream : Stream) (zero : Bool) (row0 kbase : Nat) (fill : Nat) (diag : Int)
  | fill (tile : Nat) (value : Word)
  | scale (tile : Nat) (factor : Word)
  | accAdd (tile src : Nat) (srcVer : BitVec 16)
  | read (tile : Nat) (ty : BitVec 4) (rnd : BitVec 3) (draws : Lanes DWord)
  | write (tile : Nat) (data : List (Lanes Word))
  | peek (tile : Nat) (reg : Byte) (m n : Nat)
deriving DecidableEq, Repr

/-- A matrix operation at its unit (R335, R336). -/
structure MatOp where
  id : Nat
  gid : Nat
  slot : Bool
  pc : DWord
  mask : Mask
  kind : MatKind
  ver : Option (BitVec 16)
  started : Bool
deriving DecidableEq, Repr

/-- The matrix unit of a partition (R338): claims of the multiplier pair and of the plane pair, and where their holder has
released them (R340) the number below which the operations lie that it issued before. -/
structure MatUnit where
  claim0 : Option Nat
  claim1 : Option Nat
  freeing0 : Option Nat
  freeing1 : Option Nat
  slots : Table WeightSlot
  ops : List MatOp
deriving DecidableEq, Repr

/-- What is known of an L2 line (R107, R114, R116, R118): `reads` are the times of its counted reads, `helpers` hold
replicas of it, tagged with the object and version of `replicaOf`; each pin has its ASID and the page (address bits 55:16) at
which it was made. -/
structure Line where
  dirty : Bool
  firstStamp : Nat
  pins : List (Nat × Nat)
  reads : List Nat
  helpers : List Nat
  replicaOf : Option (Nat × Nat)
deriving DecidableEq, Repr

/-- The states of a coherence object (R98). -/
inductive ObjState where
  | shared | stable | frozen | standing
deriving DecidableEq, Repr

/-- An entry of a bulkhead's object table (R98); `owner` numbers the declaring grid, of which GRID shows 16 bits. -/
structure Obj where
  st : ObjState
  held : Bool
  opndB : Bool
  bind : Nat
  asid : Nat
  version : Nat
  grid : Nat
  owner : Nat
  base : Nat
  pitch : Nat
  rowBytes : Nat
  esz : Nat
  rows : Nat
deriving DecidableEq, Repr

/-- A delta record (R104). -/
structure Delta where
  stamp : Nat
  slice : Nat
  bind : Nat
  opndB : Bool
  row : Nat
  col : Nat
  value : Word
deriving DecidableEq, Repr

/-- A binding of the SPE (R349, R352): shadows at row times width plus column. `wait` is the cause of a write of C that
waits for the plex, `refused` that the plex refused it; `leaveAsked` and `leaveHeld` say whether the SPE has asked for
leave and holds it (R354), `stopped` that an unbind has stopped capture (R360). -/
structure Binding where
  asid : Nat
  id : Nat
  sha : Shape
  shb : Shape
  shc : Shape
  policy : Nat
  budget : Nat
  logCap : Nat
  objA : Nat
  objB : Nat
  frames : List Nat
  aS : Table Word
  bS : Table Word
  cS : Table Word
  cnt : Table Nat
  paused : Bool
  refreshDue : Bool
  nv : Bool
  ofl : Bool
  budgetHit : Bool
  broken : Bool
  applied : Nat
  log : List Delta
  logFullPosted : Bool
  supervisor : Bool
  wait : Option Cause
  refused : Bool
  leaveAsked : Bool
  leaveHeld : Bool
  stopped : Bool
deriving DecidableEq, Repr

/-- Conditions of a watch (R331, R364, R384). -/
inductive WatchCond where
  | eq | ne | geS | geU | ltS | ltU | leZero
deriving DecidableEq, Repr

/-- What a message in flight is (R89, R93, R114, R139, R331, R372). -/
inductive MsgKind where
  | siLoad | ncLoad | ownLoad
  | ownStore | wtStore | ncStore
  | ownAtomic | ncAtomic
  | scLoad | scStore | scAtomic
  | watch (cond : WatchCond) | watchRetry (cond : WatchCond)
  | gatherLoad | scatterStore
  | grant | revoke | forward | fill | ack | reply
  | objInval (obj : Nat) (version : Nat)
  | amReply
deriving DecidableEq, Repr

/-- A message in flight between a core and a home slice (R89 to R96, R112), or a watch that stands at its slice
(R331). `data` is the store data or the atomic's operand, `cmp` the compare value, `words` the words that a reply
carries, `gen` the generation of its region (R110), `tag` the object and version of a fill (R102), `tagged` whether the
object is read-only (R93), `left` and `passed` say that the egress and the ingress gate let it through (R39), `target`
names the helper slice to which a redirect entry sends a load (R115), `held` says that it was told to try again, so that its
sender's later requests to the line stay behind it (R112), `invals` the object invalidations that arrived while it was outstanding (R102), `due` when a
refused watch is sent again (R331). -/
structure Msg where
  id : Nat
  kind : MsgKind
  origin : MsgKind
  core : Nat
  gid : Option Nat
  slot : Bool
  pc : DWord
  pend : Option Nat
  lane : Nat
  off : Nat
  va : DWord
  asid : Nat
  dpa : Nat
  size : Nat
  data : DWord
  cmp : DWord
  op : AtOp
  counter : Nat
  left : Bool
  passed : Bool
  target : Option Nat
  gen : Nat
  words : Table Word
  tag : Option (Nat × Nat)
  tagged : Bool
  invals : List (Nat × Nat)
  poison : Option PoisonLevel
  due : Nat
  held : Bool := false
deriving DecidableEq, Repr

/-- The states of a tender that `tquery` reports (R376). -/
inductive TenderState where
  | waiting | bidding | awarded | accepted | running | done | unplaced
deriving DecidableEq, Repr

/-- A tender (R170, R171, R374, R376): `owner` is the group that made it, by `Group.uid`, on the core `core`; `work`, `win`, `lim` and
`done` are what its last broadcast took, at `since`; `lost` are the cores that must withdraw. -/
structure Tender where
  seq : Nat
  cls : Nat
  args : DWord
  mask : BitVec 24
  owner : Nat
  core : Nat
  pc : DWord
  asid : Nat
  st : TenderState
  work : Option ClassRec
  done : DWord
  since : Nat
  win : Nat
  lim : Nat
  excluded : List Nat
  bids : List (Nat × Nat)
  lost : List Nat
  winner : Nat
  cost : Nat
  wdrawn : Nat
deriving DecidableEq, Repr

/-- A replay job of the RVE (R410, R411); `ran` of its team are the cores that ran a part of its runs so far;
the first `logCount` stores of the arbiter run lie in the frames `logFrames`, and `log` holds those for which no frame was free. -/
structure RveJob where
  id : Nat
  grid : Nat
  bh : Nat
  team : Team
  selected : List Nat
  original : List (Nat × DWord)
  cores0 : List Nat
  replayed : List (Nat × DWord)
  cores1 : List Nat
  arbitrated : List (Nat × DWord)
  cores2 : List Nat
  log : List (Nat × DWord × Nat × DWord)
  logFrames : List Nat := []
  logCount : Nat := 0
  phase : Nat
deriving DecidableEq, Repr

/-- The phases of a bulkhead reset (R45); `none` is idle. -/
inductive ResetPhase where
  | idle | fence | settle | logic | clock | memory | selfTest
deriving DecidableEq, Repr

/-- A bulkhead (R33) with its registers and engines' state; `engCounters` are its engines' counters by network interface (R96;
log 129), `served` numbers, for each priority, the launch queue
that was served last (R157), as 1 + 16 ASID + queue; `preEnd` is
when the command of PRE_CMD that runs must have ended, and `preEvicting` are the gangs that it evicts (R395). -/
structure Bulkhead where
  cyc : Nat
  rstPhase : ResetPhase
  rstCause : BitVec 4
  rstCount : Nat
  rstLastUs : BitVec 32
  wdogEn : Bool
  wdogPeriod : Nat
  wdogSince : Nat
  fdtBase : DWord
  poolCount : Nat
  poolHead : Nat
  poolLow : Nat
  egr0 : Vector DWord 8
  egr1 : Vector DWord 8
  ing0 : Vector DWord 8
  ing1 : Vector DWord 8
  gateErr : Bool
  hmask : DWord
  gen : DWord
  qBusy : Bool
  qRefused : Bool
  qReg : Byte
  pinMax : Nat
  wbGo : Bool
  wbDrop : Bool
  wbFrame : Nat
  wbErr : Bool
  wbCount : Nat
  objs : Table Obj
  lcs : Vector Nat 16
  engineRedirects : Table (List Redirect)
  engCounters : Table Nat
  watches : List Msg
  capq : Vector (List Delta) 16
  speIn : List Delta
  speKnown : Vector Nat 16
  collOwed : List (Nat × Word)
  bindings : Table Binding
  chorusWin : Nat
  chorusWdlim : Nat
  chorusSeq : Nat
  hops : Vector DWord 24
  classes : Table ClassRec
  tenders : List Tender
  pwrHeld : Nat
  overKey : Option (Nat × Nat) := none
  pwrDraw : BitVec 16
  pwrBudget : Nat
  leaveQueue : List (Nat × Nat)
  opp : Nat
  served : Table Nat
  pre0 : DWord
  pre1 : DWord
  pre2 : DWord
  preGo : Bool
  preCur0 : DWord := 0
  preCur2 : DWord := 0
  preEnd : Option Nat
  preEvicting : List Nat
  jobs : List RveJob
  eccL2 : Nat
  eccHbm : Nat
deriving DecidableEq, Repr

/-- Where the value of a load or atomic goes (R308, R256, R328): a register of the block by its number, or z0 to z15
as 256 to 271. -/
inductive Dest where
  | vec (d : Nat) (ty : BitVec 4)
  | scalar (d : Byte) (ty : BitVec 4)
  | none
deriving DecidableEq, Repr

/-- An access of a group whose replies have not all arrived (R29, R308). `hold` marks one whose instruction has not
retired: it waits in its slot, for what `why` says; `cycles` counts the resident core cycles left of a `park` (R383).
`memory` is false for a matrix read-out and for a settling of a binding, which are no loads of memory. -/
structure Pend where
  id : Nat
  gid : Nat
  slot : Bool
  pc : DWord
  dest : Dest
  lanes : Mask
  values : Lanes DWord
  left : Nat
  acq : Bool
  sc : Bool
  store : Bool
  ge : Option Nat
  failed : Bool
  idem : Bool
  poison : Option Cause
  hold : Bool
  why : Wait
  cycles : Nat
  memory : Bool
deriving DecidableEq, Repr

/-- A gang written out by a swap, a migration or an eviction (R163, R400, R403): its groups by the number they had, its
teams, their scratchpads by offset with their poison, what they held of the matrix units by 4 times the core plus the
partition, the frames of a swap's image, what its groups waited for in their slots, and the completion objects that its
`qwait`s watched, with their thresholds. -/
structure Saved where
  bh : Nat
  asid : Nat
  gang : Nat
  teams : List (Nat × Team)
  groups : List (Nat × Group)
  spads : List (Nat × Memory × Table PoisonLevel)
  units : List (Nat × MatUnit)
  frames : List Nat
  pends : List Pend
  watch : List (Nat × DWord)
  tick : Option Nat := none
  stage : Option Nat := none
deriving DecidableEq, Repr

/-- A copy request record (R366). -/
structure CopyRec where
  src : DWord
  dst : DWord
  rows : Nat
  rowBytes : Nat
  spitch : Nat
  dpitch : Nat
  cntdn : DWord
  done : DWord
  tag : Word
  fillB : Byte
  post : Bool
  fill : Bool
  quiet : Bool
  drq : Nat
deriving DecidableEq, Repr

/-- A collective request record (R369). -/
structure CollRec where
  src : DWord
  dst : DWord
  op : Nat
  red : Nat
  fc : Nat
  norm : Bool
  full : Bool
  post : Bool
  quiet : Bool
  count : Nat
  rank : Nat
  root : Nat
  parts : Nat
  table : DWord
  done : DWord
  normDst : DWord
  tag : Word
deriving DecidableEq, Repr

/-- What an engine request is (R367, R369, R311, R324, R359, R336), or an advance of a completion object that the
device makes on its own (R158), with the sequence number where it is a task's. -/
inductive EngKind where
  | copy (addr : DWord) (rec : Option CopyRec) (row : Nat) (pos : Nat) (written : Nat)
  | mirror (va : DWord) (offset units : Nat) (toSpad : Bool) (pos : Nat)
  | coll (addr : DWord) (rec : Option CollRec) (data : Table Nat)
  | gather (pend : Option Nat)
  | snap (binding : Nat) (dst : Shape) (stamp : Nat)
  | matrix
  | signal (addr : DWord) (task : Option Nat)
deriving DecidableEq, Repr

/-- An engine request, in issue order within its class and group (R134). `wait` holds the cause for which it waits at
the plex (R69), `addr` and `access` the address and the kind of the access that failed, `owed` are the pieces of a copy, by the bytes
written before them, with their byte counts, which are posted and not subtracted yet (R364). -/
structure EngReq where
  id : Nat
  cls : Nat
  bh : Nat
  asid : Nat
  gid : Option Nat
  slot : Bool
  pc : DWord
  supervisor : Bool
  kind : EngKind
  finished : Bool
  cause : Option Cause
  addr : DWord
  access : BitVec 2
  wait : Option Cause
  owed : List (Nat × Nat) := []
deriving DecidableEq, Repr

/-- A posted fabric or multicast write that is not acknowledged (R141), or was lost (R142): one of an instruction of its group, or of
an engine request, with the piece of it (R134, R367). -/
structure Posted where
  id : Nat
  gid : Nat
  slot : Bool
  pc : DWord
  lane : Nat
  va : DWord
  device : Nat
  offset : Nat
  size : Nat
  data : DWord
  poison : Bool
  lost : Bool
  req : Option Nat := none
  piece : Nat := 0
deriving DecidableEq, Repr

/-- A fabric load or atomic, or the packet of a `launch.fab`, that waits for its reply since a time (R377, R419); `keep` says
that the L1 keeps what it returns (R141). -/
structure FabWait where
  id : Nat
  msg : Msg
  device : Nat
  since : Nat
  keep : Bool
deriving DecidableEq, Repr

/-- A read of a record or of an engine that waits for a link (R419): who reads, by `pipeKey` or `engineKey`, with which instruction,
from which device and since when; `lost` says that the budget has expired. -/
structure LinkWait where
  key : Nat
  pc : DWord
  device : Nat
  since : Nat
  lost : Bool
deriving DecidableEq, Repr

/-- An active message (R372): the record, who sent it, by its place and by `Group.uid`, its reply token (0 for `.nr`, R373) and where its reply
lands. -/
structure ActiveMsg where
  token : DWord
  sender : Nat
  owner : Nat
  slot : Bool
  pc : DWord
  pend : Option Nat
  core : Nat
  asid : Nat
  entry : DWord
  regsCode : Nat
  args : List DWord
  answered : Bool
deriving DecidableEq, Repr

/-- A shootdown in progress (R66): `frames` are the frames, each with the page that it backed, from which R73 takes pins;
`cmd` marks the one that TLB_SHOOT started (R67), `holds` are groups that wait for it (R24). -/
structure Shoot where
  id : Nat
  asid : Option Nat
  first : Nat
  count : Nat
  revoke : Bool
  frames : List (Nat × Nat)
  cmd : Bool
  holds : List Nat
  barrier : List Nat
  gid : Option Nat
  pend : Option Nat
deriving DecidableEq, Repr

/-- What an access from outside asks for (R75, R417, R423, R425). -/
inductive OutKind where
  | read
  | write (bytes : List Byte)
  | launch (bh q : Nat)
  | fabric (r : FabReq)
  | packet (device : Nat) (dwords : List Nat)
  | doorbell (q index : Nat)
deriving DecidableEq, Repr

/-- A MSI-X vector of a function of the endpoint (R424), with what PCI Express gives it (log 132). -/
structure Msix where
  addr : DWord
  data : Word
  masked : Bool
  pending : Bool
deriving DecidableEq, Repr

/-- An access from outside that is kept (R69, R75): the virtual function of a host's, the context and the address in it.
`cause` is the page fault for which it waits at the plex; without one it waits for those before it, or to be made again. -/
structure OutReq where
  id : Nat
  vf : Option Nat
  asid : Nat
  va : Nat
  size : Nat
  kind : OutKind
  cause : Option Cause
deriving DecidableEq, Repr

/-- What this device answers to a peer (R96, R417, R423): the offset asked for, or the TAG of a launch packet; the cause of a
refusal; the value, or the launch number; whether the value is poisoned (R41); the counter of the slice (R96). -/
structure PeerReply where
  device : Nat
  tag : DWord
  cause : Option Cause
  value : DWord
  poison : Bool
  counter : Nat
deriving DecidableEq, Repr

/-- The states of a port (R418). -/
inductive PortState where
  | down | training | up | retraining
deriving DecidableEq, Repr

/-- The stages of a start (R443, R445). -/
inductive BootStage where
  | off | verify | ronuri | bulkheads | host | running | tadpole
deriving DecidableEq, Repr

/-- What the device does on its own beside the rows of the opcode table: a restart ends (R405), a fabric access is
answered (R26, R419) with or without poison (R41), or refused by its peer (R26, R29), what was sent over a link that is down is
lost (R142, R419), a restore looks for room again (R399), a replica is evicted from its helper slice (R114), a kept access from
outside is made again (R75), a port begins to train, a peer is assigned to a port (R418), a participant of another device fails its
collectives (R369), Ronuri maps a range of an aperture or ends it (R75, R425), a vector is written or sent, and a request of
the host's side that the endpoint does not support is answered (R424). Ronuri launches a supervisor grid (R432), the self-test phase
of a reset begins (R45), and a command of the recovery mailbox ends (R446). -/
inductive Own where
  | restartEnd (gid : Nat)
  | fabReply (id : Nat) (poison : Bool)
  | fabRefused (id : Nat) (cause : Cause)
  | linkLost (device : Nat)
  | restore (bh : Nat)
  | replicaEviction (line slice : Nat)
  | outside (id : Nat)
  | portTraining (port : Nat)
  | assignPeer (device port : Nat)
  | peerFailed (device bh : Nat) (cause : Cause)
  | mapAperture (vf offset bytes asid : Nat) (va : DWord)
  | unmapAperture (vf offset : Nat)
  | msixWrite (function vector : Nat) (addr : DWord) (data : Word) (masked : Bool)
  | msixSend (function vector : Nat)
  | unsupported (function : Nat) (ats : Bool)
  | supervisorLaunch (bh asid queue : Nat) (record : List Nat)
  | selfTest (bh : Nat)
  | mailboxEnd
deriving DecidableEq, Repr

/-- An entry of the agenda: a device step, the issue of a group's slot, or what the device does on its own (log 3). -/
inductive Action where
  | event (i : Instr)
  | issue (gid : Nat) (slot : Bool)
  | own (o : Own)
deriving DecidableEq, Repr

/-- The whole device. -/
structure State where
  groups : Table Group
  teams : Table Team
  grids : Table Grid
  ctxs : Table Ctx
  cores : Table Core
  units : Table MatUnit
  bhs : Table Bulkhead
  saved : Table Saved
  images : Table (List Saved)
  home : Memory
  hbm : Memory
  lines : Table Line
  owners : Table (Nat × Nat)
  poison : Table PoisonLevel
  net : List Msg
  pends : List Pend
  engines : List EngReq
  messages : Table ActiveMsg
  shoots : List Shoot
  caches : Table Cache
  leaves : List TlbEntry
  outside : List OutReq
  shootGo : Bool
  shoot0 : DWord
  shoot1 : DWord
  posted : List Posted
  fabWaits : List FabWait
  linkWaits : List LinkWait
  peerReplies : List PeerReply
  tntShape : Vector DWord 8
  tntFab : Vector DWord 8
  tntQrate : Vector DWord 8
  tokens : Table Nat
  mcSet : Table DWord
  tntErr : BitVec 2
  fabCfg : DWord
  retrainBudget : Nat
  ports : Vector PortState 16
  peerPort : Table Nat
  lostWrites : Nat
  sevqGet : Nat
  sevqPut : Nat
  sevqCount : Nat
  sevqLost : Nat
  sevqGap : Nat
  moltNext : Vector Nat 9
  bootStage : BootStage
  bootOk : Bool
  bootFails : Nat
  bootReason : Byte
  tadReq : Bool
  mbxOpen : Bool
  mbxBusy : Bool := false
  tadDone : Bool := false
  bootImage : Memory := []
  mbxCode : Byte
  mbxReason : Byte
  mbxData : List Byte
  nvme : Memory
  endpointUp : Bool
  vfReset : Vector DWord 8
  doorbells : Table Nat
  aperture : Table (Nat × Nat × DWord)
  hostData : List (Nat × List Byte)
  spdmLast : DWord
  hostWrites : Nat
  msix : Table Msix
  hostIrqs : List (Nat × Nat)
  urSent : List (Nat × Bool)
  vfRunning : Table (List Nat)
  agenda : List Action
  cur : Nat
  curSlot : Bool
  clock : Nat
  tick : Nat
  nextId : Nat
deriving DecidableEq, Repr

/-- Why the machine stops. -/
inductive Fault where
  /-- Raised by every instruction meaning when no live PC slot of a present group is current: there is no group to
  issue the instruction, so the spec gives it no effect. Safe: the hardware issues nothing then (log 9). -/
  | noGroup
deriving DecidableEq, Repr

/-- Why a step has no meaning. -/
inductive Refusal where
  /-- Raised by an arm of exec whose instruction is not modelled yet. Safe: nothing is claimed of it. -/
  | notModelled (mnemonic : String)
deriving DecidableEq, Repr

/-- What one step or one meaning answers. -/
abbrev Out := Host.Outcome State Fault Refusal

/-- A vector register at group start: full, zero in every lane (R428). -/
def VReg.zero : VReg := { full := true, lane := Lanes.all 0 }

/-- An index register at group start (R284). -/
def IndexReg.zero : IndexReg := { lane := Lanes.all 0, lo := 0, hi := 255 }

/-- A translation register at group start (R61). -/
def TransReg.zero : TransReg :=
  { v := false, w := false, cw := false, fz := false, nc := false, s := false, frame := 0, limit := 0, va := 0 }

/-- A shape register at group start (R258). -/
def Shape.zero : Shape := { base := 0, rows := 0, cols := 0, pitch := 0, fc := 0 }

/-- An empty PC slot (R150, R222). -/
def PcSlot.empty : PcSlot :=
  { live := false, waiting := false, flip := false, pc := 0, mask := 0, sig := 0xFFFFFFFF, joinPc := 0, age := 0
    segment := none, sysSince := none }

/-- Handler state before the first trap (log 5). -/
def HandlerState.zero : HandlerState := { resumePc := 0, mask := 0, sig := 0, slot := false, segment := 0 }

/-- A group at group start (R428, R243, R284, R61, R258, R260, R184; log 5 for the registers without a stated value). -/
def Group.start (asid team index : Nat) (supervisor : Bool) (regs base : Nat) (pc : DWord) (clock : Nat) : Group :=
  { asid := asid, team := team, index := index, supervisor := supervisor, ended := false, regs := regs, base := base
    active := true, s := Vector.replicate 64 0, y := Vector.replicate 8 0, k := Vector.replicate 16 0, v := []
    z := Vector.replicate 16 (Lanes.all 0), zFull := BitVec.allOnes 16, x := Vector.replicate 8 IndexReg.zero
    t := Vector.replicate 8 TransReg.zero, h := Vector.replicate 16 Shape.zero, e := Vector.replicate 4 0
    slot0 := { PcSlot.empty with live := true, pc := pc, mask := BitVec.allOnes 256, age := clock }
    slot1 := PcSlot.empty, nextSlot := false, depth := 0, pushed := [], handoff := none, fenceLoss := false, restarts := 0, idem := false, hnd := false
    stepLast := 0, stepCount := 0, tmrArmed := false, tmrRemain := 0, timerDue := false, ls := 0x3F800000
    ovf := 0, absmax := 0, absQueue := [], draws := Lanes.all 0, idemPc := 0, idemSig := 0
    idemDraws := Lanes.all 0, saved := HandlerState.zero, ptVa := 0, ptOld := 0, ptNew := 0, ptStat := 0
    fdResult := 0, streams := Vector.replicate 4 none, digest := 0, run := .original, selected := false
    deferred := [], consumed := [], gangAbort := false, fenceStamp := 0, arrived := Vector.replicate 16 none
    gangArrived := none, wait := .none, waitSince := 0, waitClock := 0, messages := 0, zeroRead := false
    scalarBusy := [] }

/-- A context register file at its reset values (R242 and the rules it names). -/
def Ctx.reset : Ctx :=
  { part := 0x0000002000300010, privBase := 0, privSz := 4, ptRoot := 0, ftVec := 0, bankKey := 1, qPrio := 0
    waitSwap := 1048576, fpCtl := 0, fabCtl := 0, dbg := 0, trVec := 0, inst := [], spIds := [] }

/-- A context's instance in a bulkhead at reset (R380, R377). -/
def CtxBh.reset : CtxBh :=
  { evqEn := false, evqGet := 0, evqPut := 0, evqCount := 0, evqFrame := 0, evqLost := 0
    queues := Vector.replicate 16 [], launches := 0, drained := false, cutPending := false
    cutDone := false, cutTarget := 0 }

/-- A core at reset (R87, R96, R244). -/
def Core.reset : Core :=
  { l1 := [], lcc := 0, resident := [], switchedIn := none, spad := [], poolPoison := [], fetch := []
    redirects := [], decays := 0, suspScore := 0, suspLimit := 128, quarantined := false
    tasks := [], withdrawals := 0, inbox := [], eccPool := 0, eccL1 := 0 }

/-- A matrix unit at reset (R338). -/
def MatUnit.reset : MatUnit := { claim0 := none, claim1 := none, freeing0 := none, freeing1 := none, slots := [], ops := [] }

/-- The reset value of CHORUS_HOPc (R172): 1 + |c/4 - 3s/8| in bits 4s+3:4s. -/
def Bulkhead.hopReset (c : Nat) : DWord :=
  (List.range 16).foldl (fun acc s =>
    acc ||| (BitVec.ofNat 64 (1 + (if c / 4 ≤ 3 * s / 8 then 3 * s / 8 - c / 4 else c / 4 - 3 * s / 8)) <<< (4 * s))) 0

/-- A bulkhead at reset (R43, R44, R56, R59, R38, R109, R110, R116, R117, R172, R449, R395). -/
def Bulkhead.reset : Bulkhead :=
  { cyc := 0, rstPhase := .idle, rstCause := 0, rstCount := 0, rstLastUs := 0, wdogEn := false, wdogPeriod := 1000000
    wdogSince := 0, fdtBase := 0, poolCount := 0, poolHead := 0x7FFFFF, poolLow := 4096
    egr0 := Vector.replicate 8 0, egr1 := Vector.replicate 8 0, ing0 := Vector.replicate 8 0
    ing1 := Vector.replicate 8 0, gateErr := false, hmask := 0x0808080808080808, gen := 0, qBusy := false
    qRefused := false, qReg := 0, pinMax := 12288, wbGo := false, wbDrop := false, wbFrame := 0, wbErr := false
    wbCount := 0, objs := [], lcs := Vector.replicate 16 0, engineRedirects := [], engCounters := [], watches := []
    capq := Vector.replicate 16 [], speIn := [], speKnown := Vector.replicate 16 0, collOwed := [], bindings := []
    chorusWin := 64, chorusWdlim := 4, chorusSeq := 0, hops := Vector.ofFn fun c => Bulkhead.hopReset c.val
    classes := [], tenders := [], pwrHeld := 7, pwrDraw := 0, pwrBudget := 300, leaveQueue := [], opp := 0
    served := [], pre0 := 0, pre1 := 0, pre2 := 0, preGo := false, preEnd := none, preEvicting := [], jobs := [], eccL2 := 0
    eccHbm := 0 }

/-- The device right after reset: every register at the reset value its map gives, memory with nothing listed,
no group placed (R443 stage 1 not yet begun; log 5 for the values the spec leaves open). -/
def State.reset : State :=
  { groups := [], teams := [], grids := [], ctxs := [], cores := [], units := []
    bhs := (List.range 8).map fun b => (b, Bulkhead.reset), saved := []
    images := [], home := [], hbm := [], lines := [], owners := [], poison := [], net := [], pends := []
    engines := [], messages := [], shoots := [], caches := [], leaves := [], outside := [], shootGo := false, shoot0 := 0, shoot1 := 0, posted := []
    fabWaits := [], linkWaits := [], peerReplies := [], tntShape := Vector.replicate 8 0, tntFab := Vector.replicate 8 0
    tntQrate := Vector.replicate 8 0, tokens := [], mcSet := [], tntErr := 0, fabCfg := 0, retrainBudget := 2000
    ports := Vector.replicate 16 .down, peerPort := [], lostWrites := 0, sevqGet := 0, sevqPut := 0
    sevqCount := 0, sevqLost := 0, sevqGap := 0, moltNext := Vector.replicate 9 1, bootStage := .off, bootOk := false
    bootFails := 0, bootReason := 0, tadReq := false, mbxOpen := false, mbxCode := 0, mbxReason := 0
    mbxData := List.replicate 4096 0, nvme := [], endpointUp := false, vfReset := Vector.replicate 8 0
    doorbells := [], aperture := [], hostData := [], spdmLast := 0, hostWrites := 0, msix := [], hostIrqs := [], urSent := [], vfRunning := [], agenda := [], cur := 0
    curSlot := false, clock := 0, tick := 0, nextId := 0 }

end Sys2Proof.Machine
end

