-- ==== Sys2Proof/Machine/Access.lean ====
section
/-! DEFINITION. Where each register and record of the state is read and written: groups, contexts, cores,
bulkheads, and the register files as the operand fields name them (R220, R229). -/

namespace Sys2Proof.Machine

/-- Bits `hi` to `lo` of a number. -/
def bits (n hi lo : Nat) : Nat := n / 2 ^ lo % 2 ^ (hi + 1 - lo)

/-- Bit `i` of a number. -/
def bit (n i : Nat) : Bool := n / 2 ^ i % 2 == 1

/-- A number with bit `i` as `b`, added at its place. -/
def bitAt (b : Bool) (i : Nat) : Nat := if b then 2 ^ i else 0

/-- A signed number read from the low `w` bits of `n`. -/
def signed (w n : Nat) : Int := (BitVec.ofNat w n).toInt

/-- The two's complement pattern of an integer in `w` bits. -/
def unsigned (w : Nat) (x : Int) : Nat := (BitVec.ofInt w x).toNat

/-- The nearer bound of a range for a value outside it. -/
def clampNat (lo hi n : Nat) : Nat := if n < lo then lo else if hi < n then hi else n

/-- The group's number on the device: the core and its resident slot (R148). -/
def coreOf (gid : Nat) : Nat := gid / 128
/-- The resident slot of a group (R148). -/
def slotOf (gid : Nat) : Nat := gid % 128
/-- The scheduler partition of a group (R148). -/
def partOf (gid : Nat) : Nat := gid % 128 / 32
/-- The bulkhead of a core (R21). -/
def bhOfCore (core : Nat) : Nat := core / 24
/-- The bulkhead of a group. -/
def bhOf (gid : Nat) : Nat := bhOfCore (coreOf gid)

/-- The group with a number. -/
def State.group? (s : State) (gid : Nat) : Option Group := Table.find s.groups gid

/-- The state with a group written. -/
def State.setGroup (s : State) (gid : Nat) (g : Group) : State := { s with groups := Table.set s.groups gid g }

/-- The state with a group changed, where it is present. -/
def State.modGroup (s : State) (gid : Nat) (f : Group → Group) : State := { s with groups := Table.modify s.groups gid f }

/-- The core with a number; one that is not listed stands at reset. -/
def State.core (s : State) (c : Nat) : Core := Table.findD s.cores c Core.reset

/-- The state with a core changed. -/
def State.modCore (s : State) (c : Nat) (f : Core → Core) : State := { s with cores := Table.set s.cores c (f (s.core c)) }

/-- The bulkhead with a number. -/
def State.bh (s : State) (b : Nat) : Bulkhead := Table.findD s.bhs b Bulkhead.reset

/-- The state with a bulkhead changed. -/
def State.modBh (s : State) (b : Nat) (f : Bulkhead → Bulkhead) : State := { s with bhs := Table.set s.bhs b (f (s.bh b)) }

/-- The context with an ASID; one that is not listed stands at reset. -/
def State.ctx (s : State) (asid : Nat) : Ctx := Table.findD s.ctxs asid Ctx.reset

/-- The state with a context changed. -/
def State.modCtx (s : State) (asid : Nat) (f : Ctx → Ctx) : State :=
  { s with ctxs := Table.set s.ctxs asid (f (s.ctx asid)) }

/-- A context's instance in a bulkhead. -/
def State.inst (s : State) (asid b : Nat) : CtxBh := Table.findD (s.ctx asid).inst b CtxBh.reset

/-- The state with a context's instance changed. -/
def State.modInst (s : State) (asid b : Nat) (f : CtxBh → CtxBh) : State :=
  s.modCtx asid fun c => { c with inst := Table.set c.inst b (f (Table.findD c.inst b CtxBh.reset)) }

/-- The team of a group. -/
def State.team? (s : State) (tid : Nat) : Option Team := Table.find s.teams tid

/-- The state with a team changed, where it is present. -/
def State.modTeam (s : State) (tid : Nat) (f : Team → Team) : State := { s with teams := Table.modify s.teams tid f }

/-- The matrix unit of a partition of a core. -/
def State.unit (s : State) (core part : Nat) : MatUnit := Table.findD s.units (4 * core + part) MatUnit.reset

/-- The state with a matrix unit changed. -/
def State.modUnit (s : State) (core part : Nat) (f : MatUnit → MatUnit) : State :=
  { s with units := Table.set s.units (4 * core + part) (f (s.unit core part)) }

/-- A fresh number for a message, a request or a record, and the state in which it is used. -/
def State.fresh (s : State) : Nat × State := (s.nextId, { s with nextId := s.nextId + 1 })

/-- A free value (log 2), and the state in which it is used: nothing constrains the value. -/
def State.free (s : State) : DWord × State := (Config.freeValue s.tick, { s with tick := s.tick + 1 })

/-- The base of the `j`-th part of a team's scratchpad on its core (R17). -/
def Team.padAt (t : Team) (j : Nat) : Nat := (t.spadBases[j]?).getD 0

/-- The base of a team's scratchpad part on one of its cores. -/
def Team.padBase (t : Team) (core : Nat) : Nat := t.padAt (t.cores.idxOf core)

/-- The groups of a team, with their numbers. -/
def State.groupsOf (s : State) (tid : Nat) : Table Group := Table.select s.groups fun _ g => g.team == tid

/-- The teams of a gang, with their numbers. -/
def State.teamsOf (s : State) (gang : Nat) : Table Team := Table.select s.teams fun _ t => t.gang == gang

/-- The team of a gang that holds its `gangsync` barrier (R363, R401): the one with the lowest GTEAM. -/
def State.gangLead (s : State) (gang : Nat) : Option (Nat × Team) :=
  (s.teamsOf gang).foldl (fun best e => match best with
    | none => some e
    | some b => if e.2.gteam < b.2.gteam then some e else some b) none

/-- The groups of a gang, with their numbers. -/
def State.gangGroups (s : State) (gang : Nat) : Table Group :=
  Table.select s.groups fun _ g => match s.team? g.team with
    | some t => t.gang == gang
    | none => false

/-- Whether a context is switched in on a core (R164). -/
def State.isSwitchedIn (s : State) (c asid : Nat) : Bool := (s.core c).switchedIn == some asid

/-- Whether a context is resident on a core (R165). -/
def State.isResident (s : State) (c asid : Nat) : Bool := (s.core c).resident.contains asid

/-- A PC slot of a group. -/
def Group.pc (g : Group) (slot : Bool) : PcSlot := if slot then g.slot1 else g.slot0

/-- The group with a PC slot written. -/
def Group.setPc (g : Group) (slot : Bool) (p : PcSlot) : Group := if slot then { g with slot1 := p } else { g with slot0 := p }

/-- The group with a PC slot changed. -/
def Group.modPc (g : Group) (slot : Bool) (f : PcSlot → PcSlot) : Group := g.setPc slot (f (g.pc slot))

/-- Both slots live (GST.TWO). -/
def Group.two (g : Group) : Bool := g.slot0.live && g.slot1.live

/-- Supervisor privilege: a supervisor grid, or handler mode (R390, R432). -/
def Group.sup (g : Group) : Bool := g.supervisor || g.hnd

/-- A scalar register by its field: s0 to s63, or y0 to y7 (R220). s0 reads zero (R229). -/
def Group.rdS (g : Group) (n : Byte) : DWord :=
  if n == 0 then 0
  else if h : n.toNat < 64 then g.s[n.toNat]
  else if h : n.toNat - 64 < 8 then g.y[n.toNat - 64]
  else 0

/-- The bits of y0 that a write changes: SEGMENT, LANE and SEGV (R389); the others are read-only (log 17). -/
def y0Mask : DWord := 0x0000000FFFFF0400

/-- A scalar register written; a write to s0 is discarded (R229), and y0 keeps its read-only bits (R389). -/
def Group.wrS (g : Group) (n : Byte) (v : DWord) : Group :=
  if n == 0 then g
  else if n == 64 then { g with y := g.y.set 0 ((g.y[0] &&& ~~~y0Mask) ||| (v &&& y0Mask)) }
  else if h : n.toNat < 64 then { g with s := g.s.set n.toNat v }
  else if h : n.toNat - 64 < 8 then { g with y := g.y.set (n.toNat - 64) v }
  else g

/-- A handler scalar register. -/
def Group.rdY (g : Group) (n : Fin 8) : DWord := g.y[n]

/-- A mask register; k0 reads all ones (R221). -/
def Group.rdK (g : Group) (n : Nat) : Mask :=
  if n == 0 then BitVec.allOnes 256 else if h : n < 16 then g.k[n] else 0

/-- A mask register written; a write to k0 is discarded (R275, R277). -/
def Group.wrK (g : Group) (n : Nat) (m : Mask) : Group :=
  if n == 0 then g else if h : n < 16 then { g with k := g.k.set n m } else g

/-- An index register. -/
def Group.rdX (g : Group) (n : Nat) : IndexReg := g.x[n % 8]'(Nat.mod_lt _ (by decide))

/-- An index register written. -/
def Group.wrX (g : Group) (n : Nat) (r : IndexReg) : Group :=
  { g with x := g.x.set (n % 8) r (Nat.mod_lt _ (by decide)) }

/-- A translation register. -/
def Group.rdT (g : Group) (n : Nat) : TransReg := g.t[n % 8]'(Nat.mod_lt _ (by decide))

/-- A translation register written. -/
def Group.wrT (g : Group) (n : Nat) (r : TransReg) : Group :=
  { g with t := g.t.set (n % 8) r (Nat.mod_lt _ (by decide)) }

/-- A shape register. -/
def Group.rdH (g : Group) (n : Nat) : Shape := g.h[n % 16]'(Nat.mod_lt _ (by decide))

/-- A shape register written. -/
def Group.wrH (g : Group) (n : Nat) (r : Shape) : Group :=
  { g with h := g.h.set (n % 16) r (Nat.mod_lt _ (by decide)) }

/-- An engine counter. -/
def Group.rdE (g : Group) (n : Nat) : Nat := (g.e[n % 4]'(Nat.mod_lt _ (by decide))).toNat

/-- An engine counter written. -/
def Group.wrE (g : Group) (n v : Nat) : Group :=
  { g with e := g.e.set (n % 4) (BitVec.ofNat 8 v) (Nat.mod_lt _ (by decide)) }

/-- A register of the group's block, whatever the mode. -/
def Group.block (g : Group) (n : Nat) : VReg := Table.findD g.v n VReg.zero

/-- Whether a vector field names the trap bank (R220). -/
def Group.isTrapBank (g : Group) (n : Nat) : Bool := g.hnd && decide (240 ≤ n)

/-- The register that a vector field names in the group's mode: v0 to v255, or 256 to 271 for z0 to z15 (R220). -/
def Group.named (g : Group) (n : Nat) : Nat := if g.isTrapBank n then n + 16 else n

/-- A register by the number of `Group.named`. -/
def Group.rdReg (g : Group) (n : Nat) : VReg :=
  if 256 ≤ n then { full := g.zFull.getLsbD (n % 16), lane := g.z[n % 16]'(Nat.mod_lt _ (by decide)) } else g.block n

/-- A register written by the number of `Group.named`. -/
def Group.wrReg (g : Group) (n : Nat) (r : VReg) : Group :=
  if 256 ≤ n then
    { g with z := g.z.set (n % 16) r.lane (Nat.mod_lt _ (by decide))
             zFull := if r.full then g.zFull ||| (1#16 <<< (n % 16)) else g.zFull &&& ~~~(1#16 <<< (n % 16)) }
  else { g with v := Table.set g.v n r }

/-- Lanes of a register overwritten: they are poisoned no more (R406). -/
def Group.cleanReg (g : Group) (n : Nat) (m : Mask) : Group :=
  match Table.find g.regPoison n with
  | none => g
  | some p => { g with regPoison := if p &&& ~~~m == 0 then Table.erase g.regPoison n else Table.set g.regPoison n (p &&& ~~~m) }

/-- Whether some of the registers is poisoned in a lane of a mask (R83). -/
def Group.poisonIn (g : Group) (regs : List Nat) (m : Mask) : Bool :=
  regs.any fun n => (Table.find g.regPoison n).elim false fun p => p &&& m != 0

/-- A word of a register poisoned (R83). -/
def Group.strikeReg (g : Group) (n lane : Nat) : Group :=
  { g with regPoison := Table.set g.regPoison n (Table.findD g.regPoison n 0 ||| BitVec.twoPow 256 lane) }

/-- A vector register by its field: v0 to v255, or z0 to z15 in handler mode (R220). -/
def Group.rdV (g : Group) (n : Nat) : VReg := g.rdReg (g.named n)

/-- A vector register written by its field. -/
def Group.wrV (g : Group) (n : Nat) (r : VReg) : Group := g.wrReg (g.named n) r

/-- Whether a vector field passes the allocation check of R152. -/
def Group.regOk (g : Group) (n : Nat) : Bool := g.isTrapBank n || decide (n < g.regs)

/-- Lane `i` of a mask. -/
def Mask.on (m : Mask) (i : Nat) : Bool := m.getLsbD i

/-- The lanes of a mask, ascending. -/
def Mask.lanes (m : Mask) : List Nat := (List.range 256).filter fun i => m.getLsbD i

/-- A mask from its lanes. -/
def Mask.ofFn (f : Nat → Bool) : Mask :=
  BitVec.ofNat 256 ((List.range 256).foldr (fun i acc => 2 * acc + (if f i then 1 else 0)) 0)

/-- Lanes of `new` where the mask is set, of `old` elsewhere. -/
def Lanes.merge {α : Type} (m : Mask) (new old : Lanes α) : Lanes α :=
  Lanes.of fun i => if m.getLsbD i then new.lane i else old.lane i

/-- The supervisor and handler state that decides privilege checks. -/
def Group.mode (g : Group) : Mode := { hnd := g.hnd, sup := g.sup }

/-- The number that stands for no grid. -/
def noGrid : Nat := 2 ^ 48

end Sys2Proof.Machine
end

