-- ==== Sys2Proof/Machine/Flags.lean ====
section
/-! DEFINITION. Flags and signatures: the sticky flags of OVF (R187), the status word GST (R243), CrcStep (R208),
and Mix64 (R184). -/

namespace Sys2Proof.Machine

/-- The flags of R187, one bit each. -/
structure Flags where
  nv : Bool := false
  dz : Bool := false
  of_ : Bool := false
  uf : Bool := false
  nx : Bool := false
  sat : Bool := false
  tern : Bool := false
  scl : Bool := false
deriving DecidableEq, Repr

/-- No flag. -/
def Flags.none : Flags := {}

/-- The flags of either. -/
def Flags.or (a b : Flags) : Flags :=
  { nv := a.nv || b.nv, dz := a.dz || b.dz, of_ := a.of_ || b.of_, uf := a.uf || b.uf, nx := a.nx || b.nx
    sat := a.sat || b.sat, tern := a.tern || b.tern, scl := a.scl || b.scl }

/-- The bits of OVF that flags set (R187). -/
def Flags.bits (f : Flags) : BitVec 8 :=
  BitVec.ofNat 8 (bitAt f.nv 0 + bitAt f.dz 1 + bitAt f.of_ 2 + bitAt f.uf 3 + bitAt f.nx 4 + bitAt f.sat 5
    + bitAt f.tern 6 + bitAt f.scl 7)

/-- Flags are ORed into OVF (R188). -/
def Group.addFlags (g : Group) (f : Flags) : Group := { g with ovf := g.ovf ||| f.bits }

/-- One bit step of CRC-32C in reflected form (R208). -/
def crcBit (c : Word) : Word := if c.getLsbD 0 then (c >>> 1) ^^^ 0x82F63B78 else c >>> 1

/-- CrcStep of R208. -/
def crcStep (c : Word) (b : Byte) : Word :=
  crcBit (crcBit (crcBit (crcBit (crcBit (crcBit (crcBit (crcBit (c ^^^ b.setWidth 32))))))))

/-- CrcStep fed with a list of bytes, in order. -/
def crcBytes (c : Word) (bs : List Byte) : Word := bs.foldl crcStep c

/-- The bytes that an opcode feeds into SIG: 0xA5 first at a `join` (R222). -/
def sigBytes (op : Byte) : List Byte := if op == 0x0D then [0xA5, 0x0D] else [op]

/-- SIG after an opcode is fed; a pending `finj 0` inverts bit 0 of the first byte fed (R222, R252). -/
def PcSlot.feed (p : PcSlot) (op : Byte) : PcSlot :=
  match sigBytes op with
  | [] => p
  | b :: t => { p with sig := crcBytes p.sig ((if p.flip then b ^^^ 1 else b) :: t), flip := false }

/-- Mix64 of R184. -/
def mix64 (z0 : DWord) : DWord :=
  let z1 := z0 ^^^ (z0 >>> 30)
  let z2 := z1 * 0xBF58476D1CE4E5B9
  let z3 := z2 ^^^ (z2 >>> 27)
  let z4 := z3 * 0x94D049BB133111EB
  z4 ^^^ (z4 >>> 31)

/-- GST as an `mfsys` in a slot reads it (R243); DETM follows the team's mode. -/
def Group.gst (g : Group) (detm slot : Bool) : DWord :=
  BitVec.ofNat 64 (g.depth * 256 + bitAt g.fenceLoss 7 + g.restarts.toNat * 32 + bitAt g.idem 4 + bitAt g.two 3
    + bitAt slot 2 + bitAt detm 1 + bitAt g.hnd 0)

end Sys2Proof.Machine
end

