-- ==== Sys2Proof/Machine/Numbers.lean ====
section
/-! DEFINITION. Number formats and exact arithmetic: the formats of R174, Round (R180 to R182), the operations that
form exact results (R287 to R294), conversions (R185, R186), and the correctly rounded functions (R194). -/

namespace Sys2Proof.Machine

/-- The rounding modes of R179. -/
inductive RMode where
  | rne | zero | down | up | away | stochastic
deriving DecidableEq, Repr

/-- A floating-point format (R174): exponent and mantissa bits, bias, the code of the largest finite magnitude, and
whether it has infinities and NaNs. -/
structure Fmt where
  eb : Nat
  mb : Nat
  bias : Nat
  maxCode : Nat
  hasInf : Bool
  hasNan : Bool
  narrow : Bool
deriving DecidableEq, Repr

/-- binary64 (R174). -/
def Fmt.f64 : Fmt := { eb := 11, mb := 52, bias := 1023, maxCode := 0x7FEFFFFFFFFFFFFF, hasInf := true, hasNan := true, narrow := false }
/-- binary32 (R174). -/
def Fmt.f32 : Fmt := { eb := 8, mb := 23, bias := 127, maxCode := 0x7F7FFFFF, hasInf := true, hasNan := true, narrow := false }
/-- binary16 (R174). -/
def Fmt.f16 : Fmt := { eb := 5, mb := 10, bias := 15, maxCode := 0x7BFF, hasInf := true, hasNan := true, narrow := false }
/-- bfloat16 (R174). -/
def Fmt.b16 : Fmt := { eb := 8, mb := 7, bias := 127, maxCode := 0x7F7F, hasInf := true, hasNan := true, narrow := false }
/-- E5M2 (R174). -/
def Fmt.e5m2 : Fmt := { eb := 5, mb := 2, bias := 15, maxCode := 0x7B, hasInf := true, hasNan := true, narrow := true }
/-- E4M3 (R174). -/
def Fmt.e4m3 : Fmt := { eb := 4, mb := 3, bias := 7, maxCode := 0x7E, hasInf := false, hasNan := true, narrow := true }
/-- E3M2 (R174). -/
def Fmt.e3m2 : Fmt := { eb := 3, mb := 2, bias := 3, maxCode := 0x1F, hasInf := false, hasNan := false, narrow := true }
/-- E2M3 (R174). -/
def Fmt.e2m3 : Fmt := { eb := 2, mb := 3, bias := 1, maxCode := 0x1F, hasInf := false, hasNan := false, narrow := true }
/-- E2M1 (R174). -/
def Fmt.e2m1 : Fmt := { eb := 2, mb := 1, bias := 1, maxCode := 0x7, hasInf := false, hasNan := false, narrow := true }

/-- The format of a type code 8 to 14, 16 or 17 (R173); other codes have none and answer binary32. -/
def fmtOf (code : Nat) : Fmt :=
  match code with
  | 8 => .f16
  | 9 => .b16
  | 11 => .f64
  | 12 => .e4m3
  | 13 => .e5m2
  | 14 => .e2m1
  | 16 => .e3m2
  | 17 => .e2m3
  | _ => .f32

/-- Bits of a format's codes. -/
def Fmt.width (f : Fmt) : Nat := 1 + f.eb + f.mb

/-- The sign bit of a code. -/
def Fmt.signBit (f : Fmt) (neg : Bool) : Nat := bitAt neg (f.eb + f.mb)

/-- The canonical NaN of R175. -/
def Fmt.nanCode (f : Fmt) : Nat := if f.hasInf then (2 ^ f.eb - 1) * 2 ^ f.mb + 2 ^ (f.mb - 1) else 0x7F

/-- The code of +∞. -/
def Fmt.infCode (f : Fmt) : Nat := (2 ^ f.eb - 1) * 2 ^ f.mb

/-- Whether FTZ applies to a format (R182). -/
def Fmt.flushes (f : Fmt) : Bool := f == .f32 || f == .f16 || f == .b16

/-- An exact value or special: `fin neg m e sticky` is ±m × 2^e with m ≠ 0, and with `sticky` a magnitude strictly
between m and m + 1 in that unit. -/
inductive Exact where
  | nan
  | inf (neg : Bool)
  | zero (neg : Bool)
  | fin (neg : Bool) (m : Nat) (e : Int) (sticky : Bool)
deriving DecidableEq, Repr

/-- An exact value from a sign, a magnitude and an exponent. -/
def Exact.mk (neg : Bool) (m : Nat) (e : Int) : Exact := if m == 0 then .zero neg else .fin neg m e false

/-- The exact value of an integer. -/
def Exact.ofInt (x : Int) : Exact := Exact.mk (decide (x < 0)) x.natAbs 0

/-- The sign of a value. -/
def Exact.neg : Exact → Bool
  | .nan => false
  | .inf n => n
  | .zero n => n
  | .fin n _ _ _ => n

/-- The value negated. -/
def Exact.negate : Exact → Exact
  | .nan => .nan
  | .inf n => .inf (!n)
  | .zero n => .zero (!n)
  | .fin n m e s => .fin (!n) m e s

/-- The magnitude. -/
def Exact.abs : Exact → Exact
  | .nan => .nan
  | .inf _ => .inf false
  | .zero _ => .zero false
  | .fin _ m e s => .fin false m e s

/-- Whether the value is NaN. -/
def Exact.isNan (x : Exact) : Bool := x == .nan

/-- Whether the value is infinite. -/
def Exact.isInf : Exact → Bool
  | .inf _ => true
  | _ => false

/-- The value times a power of two. -/
def Exact.scale (x : Exact) (k : Int) : Exact :=
  match x with
  | .fin n m e s => .fin n m (e + k) s
  | y => y

/-- Whether a code is a signalling NaN (R175). -/
def Fmt.signalling (f : Fmt) (c : Nat) : Bool :=
  f.hasInf && c / 2 ^ f.mb % 2 ^ f.eb == 2 ^ f.eb - 1 && c % 2 ^ f.mb != 0 && !bit c (f.mb - 1)

/-- The value of a code (R174). -/
def Fmt.value (f : Fmt) (c : Nat) : Exact :=
  let neg := bit c (f.eb + f.mb)
  let e := c / 2 ^ f.mb % 2 ^ f.eb
  let m := c % 2 ^ f.mb
  if f.hasInf && e == 2 ^ f.eb - 1 then if m == 0 then .inf neg else .nan
  else if f.hasNan && !f.hasInf && e == 2 ^ f.eb - 1 && m == 2 ^ f.mb - 1 then .nan
  else if e == 0 then Exact.mk neg m (1 - (f.bias : Int) - f.mb)
  else .fin neg (2 ^ f.mb + m) ((e : Int) - f.bias - f.mb) false

/-- Whether a code is subnormal. -/
def Fmt.subnormal (f : Fmt) (c : Nat) : Bool := c / 2 ^ f.mb % 2 ^ f.eb == 0 && c % 2 ^ f.mb != 0

/-- How an instruction rounds: its mode, CTX_FPCTL.FTZ where it applies, and OFNS (R179). -/
structure FpEnv where
  mode : RMode
  ftz : Bool
  ofns : Bool
deriving DecidableEq, Repr

/-- An operand read by an arithmetic instruction: FTZ reads a subnormal as zero (R182), and a signalling NaN sets NV
(R175). -/
def FpEnv.read (v : FpEnv) (f : Fmt) (c : Nat) : Exact × Flags :=
  if v.ftz && f.flushes && f.subnormal c then (.zero (bit c (f.eb + f.mb)), .none)
  else (f.value c, { nv := f.signalling c })

/-- The number of bits of a number. -/
def bitLength (n : Nat) : Nat := if n == 0 then 0 else Nat.log2 n + 1

/-- Whether a magnitude n + (rem / 2^s, and a little more with `sticky`) is rounded away from zero (R180). -/
def roundsUp (mode : RMode) (d : Word) (neg : Bool) (n rem s : Nat) (sticky : Bool) : Bool :=
  let half := 2 ^ s
  match mode with
  | .rne => decide (half < 2 * rem) || (2 * rem == half && (sticky || n % 2 == 1))
  | .zero => false
  | .down => neg
  | .up => !neg
  | .away => decide (half ≤ 2 * rem)
  | .stochastic =>
    let t := rem * 2 ^ 32 / 2 ^ s
    let below := sticky || rem * 2 ^ 32 % 2 ^ s != 0
    let q := if neg then 2 ^ 32 - t - (if below then 1 else 0) else t
    if neg then !decide (d.toNat < q) else decide (d.toNat < q)

/-- A magnitude m × 2^e in units of 2^u: the whole units, the rest and its scale. A rest below 2^-33 of a unit rounds
like any other such rest, so its scale is cut short. -/
def inUnits (m : Nat) (e u : Int) : Nat × Nat × Nat :=
  if u ≤ e then (m * 2 ^ (e - u).toNat, 0, 0)
  else
    let s := (u - e).toNat
    if bitLength m + 34 ≤ s then (0, 1, 64) else (m / 2 ^ s, m % 2 ^ s, s)

/-- Overflow of R181. -/
def Fmt.overflow (f : Fmt) (v : FpEnv) (neg : Bool) : Nat × Flags :=
  let fl : Flags := { of_ := true, nx := true }
  let big := f.maxCode + f.signBit neg
  let toInf := match v.mode with
    | .zero => false
    | .down => neg
    | .up => !neg
    | _ => true
  if !toInf || !f.hasNan || (f.narrow && !v.ofns) then (big, fl)
  else if f.hasInf then (f.infCode + f.signBit neg, fl)
  else (f.nanCode, fl)

/-- Round of R180 to R182 on a finite nonzero value, with draw `d`. -/
def Fmt.round (f : Fmt) (v : FpEnv) (d : Word) (neg : Bool) (m : Nat) (e : Int) (sticky : Bool) : Nat × Flags :=
  let lead := e + bitLength m - 1
  let u := max lead (1 - (f.bias : Int)) - f.mb
  let (n, rem, s) := inUnits m e u
  let exact := rem == 0 && !sticky
  let n' := if !exact && roundsUp v.mode d neg n rem s sticky then n + 1 else n
  let code := (u + f.mb + f.bias - 1).toNat * 2 ^ f.mb + n'
  if f.maxCode < code then f.overflow v neg
  else if v.ftz && f.flushes && n' < 2 ^ f.mb then (f.signBit neg, { uf := true, nx := true })
  else (code + f.signBit neg, { uf := !exact && decide (code < 2 ^ f.mb), nx := !exact })

/-- The code of an exact result (R180, R175). -/
def Fmt.code (f : Fmt) (v : FpEnv) (d : Word) (x : Exact) : Nat × Flags :=
  match x with
  | .nan => (f.nanCode, .none)
  | .inf neg => (f.infCode + f.signBit neg, .none)
  | .zero neg => (f.signBit neg, .none)
  | .fin neg m e s => f.round v d neg m e s

/-- Exact sum; `down` decides the sign of an exact zero (R287). -/
def Exact.add (mode : RMode) (x y : Exact) : Exact × Flags :=
  match x, y with
  | .nan, _ => (.nan, .none)
  | _, .nan => (.nan, .none)
  | .inf a, .inf b => if a == b then (.inf a, .none) else (.nan, { nv := true })
  | .inf a, _ => (.inf a, .none)
  | _, .inf b => (.inf b, .none)
  | .zero a, .zero b => (.zero (if a == b then a else mode == .down), .none)
  | .zero _, z => (z, .none)
  | z, .zero _ => (z, .none)
  | .fin a m e s, .fin b n f t =>
    let u := min e f
    let p : Int := (m * 2 ^ (e - u).toNat : Nat)
    let q : Int := (n * 2 ^ (f - u).toNat : Nat)
    let sum := (if a then -p else p) + (if b then -q else q)
    if sum == 0 then (.zero (mode == .down), .none) else (.fin (decide (sum < 0)) sum.natAbs u (s || t), .none)

/-- Exact product (R287). -/
def Exact.mul (x y : Exact) : Exact × Flags :=
  let neg := x.neg != y.neg
  match x, y with
  | .nan, _ => (.nan, .none)
  | _, .nan => (.nan, .none)
  | .inf _, .zero _ => (.nan, { nv := true })
  | .zero _, .inf _ => (.nan, { nv := true })
  | .inf _, _ => (.inf neg, .none)
  | _, .inf _ => (.inf neg, .none)
  | .zero _, _ => (.zero neg, .none)
  | _, .zero _ => (.zero neg, .none)
  | .fin _ m e _, .fin _ n f _ => (.fin neg (m * n) (e + f) false, .none)

/-- x × y + z with the product exact (R287): 0 × ∞ sets NV even when z is NaN. -/
def Exact.fma (mode : RMode) (x y z : Exact) : Exact × Flags :=
  let (p, fl) := Exact.mul x y
  let (r, gl) := Exact.add mode p z
  (r, fl.or gl)

/-- Exact quotient, as far as every rounding needs (R194). -/
def Exact.div (x y : Exact) : Exact × Flags :=
  let neg := x.neg != y.neg
  match x, y with
  | .nan, _ => (.nan, .none)
  | _, .nan => (.nan, .none)
  | .inf _, .inf _ => (.nan, { nv := true })
  | .zero _, .zero _ => (.nan, { nv := true })
  | .inf _, _ => (.inf neg, .none)
  | _, .inf _ => (.zero neg, .none)
  | .zero _, _ => (.zero neg, .none)
  | .fin _ _ _ _, .zero _ => (.inf neg, { dz := true })
  | .fin _ m e _, .fin _ n f _ =>
    let k := 128 + bitLength n
    let q := m * 2 ^ k / n
    (.fin neg q (e - f - k) (m * 2 ^ k % n != 0), .none)

/-- Integer square root, one result bit at a time from bit `i`. -/
def isqrtFrom (n : Nat) : Nat → Nat → Nat
  | 0, r => r
  | i + 1, r =>
    let t := r + 2 ^ i
    isqrtFrom n i (if t * t ≤ n then t else r)

/-- The largest r with r × r ≤ n. -/
def isqrt (n : Nat) : Nat := isqrtFrom n (bitLength n / 2 + 1) 0

/-- Square root (R194). -/
def Exact.sqrt (x : Exact) : Exact × Flags :=
  match x with
  | .nan => (.nan, .none)
  | .inf false => (.inf false, .none)
  | .zero n => (.zero n, .none)
  | .fin false m e _ =>
    let odd := (e % 2).toNat
    let big := m * 2 ^ (odd + 256)
    let r := isqrt big
    (.fin false r ((e - odd - 256) / 2) (r * r != big), .none)
  | _ => (.nan, { nv := true })

/-- Reciprocal square root (R194). -/
def Exact.rsqrt (x : Exact) : Exact × Flags :=
  match x with
  | .nan => (.nan, .none)
  | .inf false => (.zero false, .none)
  | .zero n => (.inf n, { dz := true })
  | .fin false m e _ =>
    let odd := (e % 2).toNat
    let k := 256 + 2 * bitLength m
    let q := 2 ^ (2 * k) / (m * 2 ^ odd)
    let r := isqrt q
    (.fin false r (-(e - odd) / 2 - k) (r * r != q || 2 ^ (2 * k) % (m * 2 ^ odd) != 0), .none)
  | _ => (.nan, { nv := true })

/-- Fraction bits of the fixed-point numbers used for exp2 and log2 (log 10). -/
def fixBits : Nat := 360

/-- Terms z^(2k+1) / (2k+1) of the inverse hyperbolic tangent, in fixed point. -/
def atanhTerms (z2 : Nat) : Nat → Nat → Nat → Nat → Nat
  | 0, _, _, acc => acc
  | fuel + 1, k, p, acc => atanhTerms z2 fuel (k + 2) (p * z2 / 2 ^ fixBits) (acc + p / k)

/-- The natural logarithm of num / den for num ≥ den, num < 4 den, in fixed point. -/
def lnFix (num den : Nat) : Nat :=
  let z := (num - den) * 2 ^ fixBits / (num + den)
  2 * atanhTerms (z * z / 2 ^ fixBits) 260 1 z 0

/-- Terms y^k / k! of the exponential, in fixed point. -/
def expTerms (y : Nat) : Nat → Nat → Nat → Nat → Nat
  | 0, _, _, acc => acc
  | fuel + 1, k, p, acc => expTerms y fuel (k + 1) (p * y / 2 ^ fixBits / k) (acc + p)

/-- 2^f for a fixed-point fraction f, in fixed point. -/
def exp2Fix (f : Nat) : Nat := expTerms (f * lnFix 2 1 / 2 ^ fixBits) 90 1 (2 ^ fixBits) 0

/-- exp2 (R194): exact for integers; otherwise irrational, formed to more bits than any rounding needs (log 10). -/
def Exact.exp2 (x : Exact) : Exact × Flags :=
  match x with
  | .nan => (.nan, .none)
  | .inf false => (.inf false, .none)
  | .inf true => (.zero false, .none)
  | .zero _ => (.fin false 1 0 false, .none)
  | .fin neg m e _ =>
    if 20 ≤ e + bitLength m then (.fin false 1 (if neg then -(2 ^ 20) else 2 ^ 20) false, .none)
    else if 0 ≤ e then (.fin false 1 (if neg then -((m * 2 ^ e.toNat : Nat) : Int) else (m * 2 ^ e.toNat : Nat)) false, .none)
    else
      let t := (-e).toNat
      let fl : Int := if neg then -(((m + 2 ^ t - 1) / 2 ^ t : Nat) : Int) else ((m / 2 ^ t : Nat) : Int)
      let frac := if neg then (2 ^ t - m % 2 ^ t) % 2 ^ t else m % 2 ^ t
      if frac == 0 then (.fin false 1 fl false, .none)
      else (.fin false (exp2Fix (frac * 2 ^ fixBits / 2 ^ t) / 2 ^ 24) (fl - (fixBits - 24)) true, .none)

/-- log2 (R194): exact for powers of two; otherwise irrational, formed to more bits than any rounding needs
(log 10). -/
def Exact.log2 (x : Exact) : Exact × Flags :=
  match x with
  | .nan => (.nan, .none)
  | .inf false => (.inf false, .none)
  | .zero _ => (.inf true, { dz := true })
  | .fin false m e _ =>
    let l := bitLength m
    let lead := e + l - 1
    if m == 2 ^ (l - 1) then (Exact.ofInt lead, .none)
    else
      let frac : Nat := lnFix m (2 ^ (l - 1)) * 2 ^ fixBits / lnFix 2 1 / 2 ^ 24
      let total : Int := lead * ((2 ^ (fixBits - 24) : Nat) : Int) + (frac : Int)
      if total < 0 then (.fin true (total.natAbs - 1) (-((fixBits - 24 : Nat) : Int)) true, .none)
      else (.fin false total.toNat (-((fixBits - 24 : Nat) : Int)) true, .none)
  | _ => (.nan, { nv := true })

/-- A value rounded to an integer in a mode (R186): the integer, and whether it differs from the value. -/
def Exact.toInt (mode : RMode) (d : Word) (x : Exact) : Int × Bool :=
  match x with
  | .fin neg m e sticky =>
    let (n, rem, s) := inUnits m e 0
    let exact := rem == 0 && !sticky
    let n' := if !exact && roundsUp mode d neg n rem s sticky then n + 1 else n
    (if neg then -(n' : Int) else n', !exact)
  | _ => (0, false)

/-- The least value of an integer type 0 to 7 (R177, R265): even codes are signed. -/
def intMin (ty : Nat) : Int := if ty % 2 == 0 then -(2 ^ (8 * tySize ty - 1) : Nat) else 0

/-- The greatest value of an integer type. -/
def intMax (ty : Nat) : Int := if ty % 2 == 0 then (2 ^ (8 * tySize ty - 1) : Nat) - 1 else (2 ^ (8 * tySize ty) : Nat) - 1

/-- The value of the low bits of a pattern as an integer type. -/
def intOf (ty n : Nat) : Int :=
  let w := 8 * tySize ty
  if ty % 2 == 0 then signed w n else ((n % 2 ^ w : Nat) : Int)

/-- An integer clamped to a type's range, with SAT set where it is clamped (R186). -/
def clampInt (ty : Nat) (x : Int) : Int × Flags :=
  if x < intMin ty then (intMin ty, { sat := true })
  else if intMax ty < x then (intMax ty, { sat := true })
  else (x, .none)

/-- Conversion to an integer type (R186). -/
def Exact.convInt (mode : RMode) (d : Word) (ty : Nat) (x : Exact) : Int × Flags :=
  match x with
  | .nan => (0, { nv := true })
  | .inf neg => (if neg then intMin ty else intMax ty, { sat := true })
  | .zero _ => (0, .none)
  | y =>
    let (n, inexact) := y.toInt mode d
    let (c, fl) := clampInt ty n
    if fl.sat then (c, fl) else (c, { nx := inexact })

/-- Conversion to a floating-point format (R185). -/
def Exact.convFloat (x : Exact) (signalling : Bool) (f : Fmt) (v : FpEnv) (d : Word) : Nat × Flags :=
  match x with
  | .nan => if f.hasNan then (f.nanCode, { nv := signalling }) else (0, { nv := true })
  | .inf neg =>
    if f.hasInf && !(f.narrow && !v.ofns) then (f.infCode + f.signBit neg, .none)
    else if f.hasNan && !f.hasInf && v.ofns then (f.nanCode, { of_ := true })
    else (f.maxCode + f.signBit neg, { of_ := true })
  | y => f.code v d y

/-- RoundNE32 of R180: no FTZ, and only NV and OF. -/
def roundNE32 (x : Exact) : Nat × Flags :=
  let (c, fl) := Fmt.f32.code { mode := .rne, ftz := false, ofns := true } 0 x
  (c, { of_ := fl.of_ })

/-- The sum of a binary32 atomic (R329): RoundNE32(old + C). -/
def atomicSum (old x : Nat) : Nat := (roundNE32 (Exact.add .rne (Fmt.f32.value old) (Fmt.f32.value x)).1).1

/-- Order of two values that are no NaN, zeros being equal: whether x < y. -/
def Exact.lt (x y : Exact) : Bool :=
  match x, y with
  | .nan, _ => false
  | _, .nan => false
  | .inf a, .inf b => a && !b
  | .inf a, _ => a
  | _, .inf b => !b
  | .zero _, .zero _ => false
  | .zero _, .fin b _ _ _ => !b
  | .fin a _ _ _, .zero _ => a
  | .fin a m e _, .fin b n f _ =>
    let u := min e f
    let p : Int := (m * 2 ^ (e - u).toNat : Nat)
    let q : Int := (n * 2 ^ (f - u).toNat : Nat)
    decide ((if a then -p else p) < (if b then -q else q))

/-- Equality of two values that are no NaN, zeros being equal. -/
def Exact.eqv (x y : Exact) : Bool := !x.isNan && !y.isNan && !x.lt y && !y.lt x

/-- The rounding mode of a code of R179 (the codes 6 and 7 do not stand for a mode). -/
def rmodeOf (n : Nat) : RMode :=
  match n with
  | 1 => .zero
  | 2 => .down
  | 3 => .up
  | 4 => .away
  | 5 => .stochastic
  | _ => .rne

/-- The FP environment of an instruction (R179): RND 110 reads CTX_FPCTL.RM. -/
def fpEnv (fpctl : DWord) (rnd : BitVec 3) : FpEnv :=
  { mode := rmodeOf (if rnd == 6 then bits fpctl.toNat 2 0 else rnd.toNat), ftz := fpctl.getLsbD 3, ofns := fpctl.getLsbD 4 }

/-- Rand of R183. -/
def rand (seed : DWord) (gli : Nat) (draw : DWord) : Word :=
  (mix64 (seed + BitVec.ofNat 64 gli * 0x9E3779B97F4A7C15 + draw * 0xD1B54A32D192ED03)).extractLsb' 32 32

end Sys2Proof.Machine
end

