-- ==== Sys2Proof/Machine/Home.lean ====
section
/-! DEFINITION. The coherence point: the home slice of a line, the value of a word wherever its owner holds it,
reads, writes and atomics performed at the home slice, capture, watches, poison, and the records that the device
posts to the supervisor (R30, R92, R93, R95 to R97, R103 to R108, R331, R381, R450). -/

namespace Sys2Proof.Machine

/-- The first of two. -/
def firstOf {α : Type} (a b : Option α) : Option α :=
  match a with
  | some x => some x
  | none => b

/-- Whether a DPA lies in populated HBM or in the plex SRAM (R30, R31). -/
def dpaPopulated (dpa : Nat) : Bool :=
  (decide (dpa < 2 ^ 39) && decide (dpa / 2 ^ 16 % 2 ^ 20 < Config.hbmFrames))
    || (decide (0x020000000000 ≤ dpa) && decide (dpa < 0x020000800000))

/-- Whether a frame number is populated (R31). -/
def framePopulated (f : Nat) : Bool := decide (f < 2 ^ 23) && decide (f % 2 ^ 20 < Config.hbmFrames)

/-- Whether a bulkhead's slices, engines and governor are in a reset (R45): from its logic reset to its end. -/
def Bulkhead.down (x : Bulkhead) : Bool :=
  x.rstPhase == .logic || x.rstPhase == .clock || x.rstPhase == .memory || x.rstPhase == .selfTest

/-- The bulkhead that homes a DPA (R30, R32). -/
def bhOfDpa (dpa : Nat) : Nat := dpa / 2 ^ 36 % 8

/-- The bulkhead of a frame (R31). -/
def bhOfFrame (f : Nat) : Nat := f / 2 ^ 20 % 8

/-- The HBM region of a DPA (R108). -/
def regionOf (dpa : Nat) : Nat := dpa / 2 ^ 33 % 8

/-- The selector of a region in an HMASK (R109). -/
def selector (hmask : DWord) (region : Nat) : Nat := hmask.toNat / 2 ^ (8 * region) % 256

/-- The XOR of the eight nibbles of a line number (R108). -/
def lineHash (l : Nat) : Nat :=
  (List.range 8).foldl (fun h i => h ^^^ (l / 2 ^ (4 * i) % 16)) 0

/-- HomeSlice of R108, under a given HMASK. -/
def homeSliceOf (hmask : DWord) (dpa : Nat) : Nat :=
  let sel := selector hmask (regionOf dpa)
  sel / 16 + lineHash (dpa / 128 % 2 ^ 32) % 2 ^ (sel / 2 % 8)

/-- The home slice of a DPA in its bulkhead (R32, R108). -/
def State.homeSlice (s : State) (dpa : Nat) : Nat := homeSliceOf (s.bh (bhOfDpa dpa)).hmask dpa

/-- Bytes `v` written to memory that no cache shadows: the plex SRAM. -/
def State.rawStore (s : State) (dpa n v : Nat) : State := { s with home := Memory.store s.home dpa n v }

/-- An event record of KIND 0x08 or 0x09 for the supervisor (R381): written whole before PUT and COUNT advance;
dropped and counted when the ring is full. -/
def State.postSupRecord (s : State) (kind cause data0 data1 : Nat) : State :=
  if s.sevqCount == 4096 then { s with sevqLost := min (s.sevqLost + 1) 0xFFFF, sevqGap := min (s.sevqGap + 1) 0xFFFF }
  else
    let a := 0x020000600000 + 32 * s.sevqPut
    let s1 := s.rawStore a 8 (kind * 2 ^ 56 + cause * 2 ^ 48 + s.sevqGap * 2 ^ 32)
    let s2 := ((s1.rawStore (a + 8) 8 0).rawStore (a + 16) 8 data0).rawStore (a + 24) 8 data1
    { s2 with sevqPut := (s.sevqPut + 1) % 4096, sevqCount := s.sevqCount + 1, sevqGap := 0 }

/-- A device or core event for the supervisor (R381, KIND 0x08). -/
def State.postSup (s : State) (c : Cause) (data0 data1 : Nat) : State := s.postSupRecord 0x08 c.code.toNat data0 data1

/-- An entry of a molt record ring (R450, R451). -/
def State.molt (s : State) (ring kind cause core asid time data : Nat) : State :=
  let q := if h : ring < 9 then s.moltNext[ring] else 1
  let a := 0x020000700000 + ring * 0x2000 + (q - 1) % 256 * 32
  let s1 := (s.rawStore (a + 8) 8 time).rawStore (a + 16) 8 (kind * 2 ^ 56 + cause * 2 ^ 48 + core * 2 ^ 40 + asid)
  let s2 := (s1.rawStore (a + 24) 8 data).rawStore a 8 q
  { s2 with moltNext := if h : ring < 9 then s.moltNext.set ring (q + 1) else s.moltNext }

/-- Where the molt record is copied: NVMe namespace 2, which follows namespace 1 in the model (R450; log 32). -/
def moltCopy : Nat := 2 ^ 33

/-- The rings of the molt record copied to NVMe (R450). -/
def State.copyMolt (s : State) : State :=
  { s with nvme := Memory.putBytes s.nvme moltCopy (Memory.bytes s.home 0x020000700000 0x12000) }

/-- Words (of 4 bytes) that an access of `n` bytes touches, by number. -/
def wordsOf (dpa n : Nat) : List Nat :=
  (List.range ((dpa + n + 3) / 4 - dpa / 4)).map fun i => dpa / 4 + i

/-- The words that lie wholly inside an access. -/
def wholeWords (dpa n : Nat) : List Nat :=
  (wordsOf dpa n).filter fun w => decide (dpa ≤ 4 * w) && decide (4 * w + 4 ≤ dpa + n)

/-- The bytes of a word that an access touches. -/
def bytesOf (w dpa n : Nat) : BitVec 4 :=
  BitVec.ofNat 4 ((List.range 4).foldl (fun m i => if dpa ≤ 4 * w + i && decide (4 * w + i < dpa + n) then m + 2 ^ i else m) 0)

/-- The core that owns a word (R92). -/
def State.owner (s : State) (w : Nat) : Option Nat := (Table.find s.owners w).map fun p => p.1

/-- A word of a core's L1. -/
def State.l1 (s : State) (core w : Nat) : Option L1Word := Table.find (s.core core).l1 w

/-- A word of a core's L1 written. -/
def State.setL1 (s : State) (core w : Nat) (x : L1Word) : State :=
  s.modCore core fun c => { c with l1 := Table.set c.l1 w x }

/-- A word of a core's L1 turned to I. -/
def State.dropL1 (s : State) (core w : Nat) : State := s.modCore core fun c => { c with l1 := Table.erase c.l1 w }

/-- The four bytes of a word as its home slice holds them. -/
def State.homeWord (s : State) (w : Nat) : Word := BitVec.ofNat 32 (Memory.load s.home (4 * w) 4)

/-- The current value of a word: its owner's, or the home slice's (R92). -/
def State.wordNow (s : State) (w : Nat) : Word :=
  match s.owner w with
  | some c => match s.l1 c w with
    | some x => if x.st == .owned then x.data else s.homeWord w
    | none => s.homeWord w
  | none => s.homeWord w

/-- The current byte at a DPA. -/
def State.byteNow (s : State) (dpa : Nat) : Nat := (s.wordNow (dpa / 4)).toNat / 2 ^ (8 * (dpa % 4)) % 256

/-- The current value of `n` bytes, little-endian: what a read performed at the home slice returns (R93). -/
def State.loadNow (s : State) (dpa : Nat) : Nat → Nat
  | 0 => 0
  | n + 1 => s.byteNow dpa + 256 * s.loadNow (dpa + 1) n

/-- The poison of a word, at its owner or at home (R406). -/
def State.poisonNow (s : State) (w : Nat) : Option PoisonLevel :=
  match s.owner w with
  | some c => match s.l1 c w with
    | some x => if x.st == .owned then x.poison else Table.find s.poison w
    | none => Table.find s.poison w
  | none => Table.find s.poison w

/-- The first poison among the words of an access; an access outside populated memory reads poisoned (R30). -/
def State.poisonOf (s : State) (dpa n : Nat) : Option PoisonLevel :=
  if dpaPopulated dpa then (wordsOf dpa n).findSome? fun w => s.poisonNow w else some .hbm

/-- DPA_HOLE is posted when an access leaves populated memory (R30); `who` is 0 core or engine, 1 host, 2 fabric. -/
def State.holeCheck (s : State) (dpa who : Nat) : State := if dpaPopulated dpa then s else s.postSup .dpaHole dpa who

/-- No grant is on its way for a word of the access: its owner already holds it (R90). -/
def State.quiet (s : State) (dpa n : Nat) : Bool :=
  !(s.net.any fun m => m.kind == .grant && decide (m.dpa < 4 * (dpa / 4 + (n + 3) / 4 + 1)) && decide (dpa < m.dpa + m.size + 4))

/-- The line of a DPA as known to its slice. -/
def State.line (s : State) (l : Nat) : Line :=
  Table.findD s.lines l { dirty := false, firstStamp := 0, pins := [], reads := [], helpers := [], replicaOf := none }

/-- A line with nothing to remember is not listed. -/
def State.setLine (s : State) (l : Nat) (x : Line) : State :=
  if !x.dirty && x.pins.isEmpty && x.reads.isEmpty && x.helpers.isEmpty then { s with lines := Table.erase s.lines l }
  else { s with lines := Table.set s.lines l x }

/-- A line that its slice holds is written at a stamp: the stamp of the first write since its last write-back is kept
(R118). -/
def State.touchDirty (s : State) (dpa stamp : Nat) : State :=
  let x := s.line (dpa / 128)
  s.setLine (dpa / 128) { x with dirty := true, firstStamp := if x.dirty then min x.firstStamp stamp else stamp }

/-- Poison set or cleared on a word at home. -/
def State.setPoison (s : State) (w : Nat) (p : Option PoisonLevel) : State :=
  match p with
  | some l => { s with poison := Table.set s.poison w l }
  | none => { s with poison := Table.erase s.poison w }

/-- The counter of a slice (R96). -/
def State.lcsOf (s : State) (b slice : Nat) : Nat := (s.bh b).lcs[slice % 16]'(Nat.mod_lt _ (by decide))

/-- The largest value of a counter (R96). -/
def lcMax : Nat := 2 ^ 60 - 1

/-- The counter of a slice set: it stays at 2^60 − 1, and LC_SAT is posted when it reaches that value (R96). -/
def State.setLcs (s : State) (b slice v : Nat) : State :=
  let n := min v lcMax
  let s1 := s.modBh b fun x => { x with lcs := x.lcs.set (slice % 16) n (Nat.mod_lt _ (by decide)) }
  if n == lcMax && s.lcsOf b slice != lcMax then s1.postSup .lcSat (16 * b + slice) 0 else s1

/-- A slice of a bulkhead takes a sender's counter (R96). -/
def State.sliceTake (s : State) (b slice counter : Nat) : State := s.setLcs b slice (max (s.lcsOf b slice) counter)

/-- A slice of the bulkhead of a DPA takes a sender's counter (R96). -/
def State.lcsTakeAt (s : State) (dpa slice counter : Nat) : State := s.sliceTake (bhOfDpa dpa) slice counter

/-- The home slice takes a sender's counter (R96). -/
def State.lcsTake (s : State) (dpa counter : Nat) : State := s.lcsTakeAt dpa (s.homeSlice dpa) counter

/-- A core takes a received counter (R96). -/
def State.lccTake (s : State) (core v : Nat) : State := s.modCore core fun c => { c with lcc := max c.lcc v }

/-- A core and a slice of the bulkhead of a DPA exchange their counters, as a request and its reply do (R96). -/
def State.meetAt (s : State) (core dpa slice : Nat) : State :=
  let s1 := s.lcsTakeAt dpa slice (s.core core).lcc
  s1.lccTake core (s1.lcsOf (bhOfDpa dpa) slice)

/-- A core and the home slice of a DPA exchange their counters (R96). -/
def State.meet (s : State) (core dpa : Nat) : State := s.meetAt core dpa (s.homeSlice dpa)

/-- The new value of an atomic (R329, R330): `none` where it writes nothing. `size` is 4 or 8 bytes. The sum of
`addF` is supplied by the caller, which knows the number formats. -/
def AtOp.apply (o : AtOp) (fsum : Nat → Nat → Nat) (size old x cmp : Nat) : Option Nat :=
  let m := 2 ^ (8 * size)
  match o with
  | .add => some ((old + x) % m)
  | .addF => some (fsum old x)
  | .minS => some (if signed (8 * size) x < signed (8 * size) old then x else old)
  | .minU => some (min old x)
  | .maxS => some (if signed (8 * size) old < signed (8 * size) x then x else old)
  | .maxU => some (max old x)
  | .and => some (old &&& x)
  | .or => some (old ||| x)
  | .xor => some (old ^^^ x)
  | .xchg => some x
  | .cas => if old == cmp then some x else none
  | .inc => some (if x ≤ old then 0 else old + 1)
  | .dec => some (if old == 0 || x < old then x else old - 1)

/-- The slice of its bulkhead through which what another core sends to a core goes (R113). -/
def forwardSlice (core : Nat) : Nat := core % 24 % 16

/-- What a core sends to another goes through the other's forwarding slice, which takes its counter (R96, R113). -/
def State.announce (s : State) (core : Nat) (cores : List Nat) : State :=
  (cores.filter fun c => c != core).foldl (fun s c => s.sliceTake (bhOfCore c) (forwardSlice c) (s.core core).lcc) s

/-- What a core hears of the others comes through its forwarding slice, whose counter it takes (R96, R113). -/
def State.hear (s : State) (core : Nat) (cores : List Nat) : State :=
  if cores.all fun c => c == core then s else s.lccTake core (s.lcsOf (bhOfCore core) (forwardSlice core))

/-- An access of a core to the scratchpad of another, with its reply: both and the slice between them exchange their counters
(R96, R113). -/
def State.relay (s : State) (core target : Nat) : State :=
  if core == target then s
  else
    let s1 := ((s.announce core [target]).hear target [core]).sliceTake (bhOfCore target) (forwardSlice target) (s.core target).lcc
    s1.lccTake core (s1.lcsOf (bhOfCore target) (forwardSlice target))

/-- The counter of an engine of a bulkhead (log 129). -/
def State.engCounter (s : State) (b ni : Nat) : Nat := Table.findD (s.bh b).engCounters ni 0

/-- An engine takes a received counter (R96; log 129). -/
def State.engTake (s : State) (b ni v : Nat) : State :=
  s.modBh b fun x => { x with engCounters := Table.set x.engCounters ni (max (Table.findD x.engCounters ni 0) v) }

/-- An engine and a slice of the bulkhead of a DPA exchange their counters (R96; log 129). -/
def State.engMeet (s : State) (b ni dpa slice : Nat) : State :=
  let s1 := s.lcsTakeAt dpa slice (s.engCounter b ni)
  s1.engTake b ni (s1.lcsOf (bhOfDpa dpa) slice)

/-- An atomic. -/
def MsgKind.isAtomic (k : MsgKind) : Bool :=
  match k with
  | .ownAtomic | .ncAtomic | .scAtomic => true
  | _ => false

/-- A store. -/
def MsgKind.isStore (k : MsgKind) : Bool :=
  match k with
  | .ownStore | .wtStore | .ncStore | .scStore | .scatterStore => true
  | _ => false

/-- A word whose owner returns it: the value goes to the home slice, the owner's word becomes I, and the value counts as
written at the stamp of the owner's grant (R89, R92, R118). -/
def State.takeBack (s : State) (w : Nat) : State :=
  match Table.find s.owners w with
  | none => s
  | some (c, stamp) =>
    let s1 : State := { s with owners := Table.erase s.owners w }
    match s.l1 c w with
    | none => s1.touchDirty (4 * w) stamp
    | some x =>
      if x.st == .owned then
        let s2 : State := { s1 with home := Memory.store s1.home (4 * w) 4 x.data.toNat }
        (((s2.setPoison w x.poison).touchDirty (4 * w) stamp).dropL1 c w)
      else s1.touchDirty (4 * w) stamp

/-- The grant that is on its way to the owner of a word. -/
def State.grantFor (s : State) (core w : Nat) : Option Msg :=
  s.net.find? fun m => m.kind == .grant && m.core == core && (Table.find m.words w).isSome

/-- A message turned into another in its place. -/
def State.setMsg (s : State) (m : Msg) : State := { s with net := s.net.map fun x => if x.id == m.id then m else x }

/-- A word revoked whose grant is still on its way. The revocation does not overtake the grant, and the owner first performs the
operation that asked for it (R90, R130): the model performs it at the home slice with the words that return, and what
is on its way becomes the reply to it. -/
def State.recall (s : State) (m : Msg) : State :=
  let s1 := m.words.foldl (fun s e => s.takeBack e.1) s
  let old := Memory.load s1.home m.dpa m.size
  if m.origin.isStore then
    let s2 : State := { s1 with home := Memory.store s1.home m.dpa m.size m.data.toNat }
    s2.setMsg { m with kind := .ack, words := m.words.map fun e => (e.1, s2.homeWord e.1) }
  else if m.origin.isAtomic then
    let r := { m with kind := .fill, data := BitVec.ofNat 64 old, words := [] }
    match m.op.apply atomicSum m.size old m.data.toNat m.cmp.toNat with
    | none => s1.setMsg r
    | some new =>
      ((wholeWords m.dpa m.size).foldl (fun (s : State) w => s.setPoison w none)
        { s1 with home := Memory.store s1.home m.dpa m.size new }).setMsg r
  else s1.setMsg { m with kind := .fill, data := BitVec.ofNat 64 old }

/-- A word revoked (R89, R92, R93, R96): the owner takes the slice's counter, the slice the owner's, and the word returns. -/
def State.settle (s : State) (w : Nat) : State :=
  match Table.find s.owners w with
  | none => s
  | some (c, _) =>
    let s1 := s.meet c (4 * w)
    match s.grantFor c w with
    | some m => s1.recall m
    | none => s1.takeBack w

/-- A word that its owner returns on its own, with its counter (R89, R96). -/
def State.handBack (s : State) (core w : Nat) : State := (s.lcsTake (4 * w) (s.core core).lcc).takeBack w

/-- Every word of an access taken back from its owners. -/
def State.settleAll (s : State) (dpa n : Nat) : State := (wordsOf dpa n).foldl (fun s w => s.settle w) s

/-- Whether a core owns every word of an access. -/
def State.ownsAll (s : State) (core dpa n : Nat) : Bool :=
  (wordsOf dpa n).all fun w => match s.l1 core w with
    | some x => x.st == .owned
    | none => false

/-- The poison of the words of an access in a core's L1. -/
def State.l1Poison (s : State) (core dpa n : Nat) : Option PoisonLevel :=
  (wordsOf dpa n).findSome? fun w => (s.l1 core w).bind fun x => x.poison

/-- Words of an access whose owner is a core other than `c`. -/
def State.foreignOwned (s : State) (c dpa n : Nat) : List Nat :=
  (wordsOf dpa n).filter fun w => match s.owner w with
    | some o => o != c
    | none => false

/-- The words of a line, by number. -/
def wordsOfLine (l : Nat) : List Nat := (List.range 32).map fun i => 32 * l + i

/-- The registered words of a line taken back from their owners. -/
def State.settleLine (s : State) (l : Nat) : State :=
  (wordsOfLine l).foldl (fun s w => if (s.owner w).isSome then s.settle w else s) s

/-- A line written to HBM (R117): its registered words return first; it stays in the L2, clean. -/
def State.writeBackLine (s : State) (l : Nat) : State :=
  let s1 := s.settleLine l
  let x := s1.line l
  if x.dirty then
    { s1.setLine l { x with dirty := false } with
      hbm := Memory.putBytes s1.hbm (128 * l) (Memory.bytes s1.home (128 * l) 128) }
  else s1

/-- Whether a word of a line is registered (R92). -/
def State.hasOwners (s : State) (l : Nat) : Bool := (wordsOfLine l).any fun w => (s.owner w).isSome

/-- Whether a line must stay in its slice until it is written back, revoked or unpinned (R92, R107, R116). -/
def State.keptLine (s : State) (l : Nat) : Bool := (s.line l).dirty || !(s.line l).pins.isEmpty || s.hasOwners l

/-- The set of a line in its slice (R107): 1,536 sets; which lines share one is the model's choice (log 101). -/
def l2Set (l : Nat) : Nat := l / 16 % 1536

/-- The lines that a slice must keep in the set of a line (R107). -/
def State.setMates (s : State) (l : Nat) : List Nat :=
  let near (m : Nat) : Bool := l2Set m == l2Set l && bhOfDpa (128 * m) == bhOfDpa (128 * l)
    && s.homeSlice (128 * m) == s.homeSlice (128 * l) && m != l
  let a := (s.lines.filter fun e => (e.2.dirty || !e.2.pins.isEmpty) && near e.1).map fun e => e.1
  let b := ((s.owners.map fun e => e.1 / 32).filter near).eraseDups
  a ++ b.filter fun m => !a.contains m

/-- A line evicted from the L2 (R107): its registered words are revoked and its dirty data written to HBM. -/
def State.evictL2 (s : State) (l : Nat) : State :=
  let s1 := s.writeBackLine l
  { s1 with lines := Table.erase s1.lines l }

/-- Room for a line in its set of 16 ways (R107): a line that is not pinned, one without REGISTERED words where there is
one, is evicted for it; one whose grant is on its way is not (R90). Among equals the model takes the first (log 101). The
answer says whether there is room. -/
def State.makeRoom (s : State) (l : Nat) : Bool × State :=
  let mates := s.setMates l
  if s.keptLine l || mates.length < 16 then (true, s)
  else
    let loose := mates.filter fun m => (s.line m).pins.isEmpty && s.quiet (128 * m) 128
    match firstOf (loose.find? fun m => !s.hasOwners m) loose.head? with
    | some v => (true, s.evictL2 v)
    | none => (false, s)

/-- A line written at a stamp; where its set has no room for it, it goes to HBM at once (R107, R118). -/
def State.markDirty (s : State) (dpa stamp : Nat) : State :=
  let (room, s1) := s.makeRoom (dpa / 128)
  let s2 := s1.touchDirty dpa stamp
  if room then s2 else s2.writeBackLine (dpa / 128)

/-- One event of the slice: LCS gains 1 (R96). The answer holds the new stamp. -/
def State.lcsStep (s : State) (dpa : Nat) : Nat × State :=
  let b := bhOfDpa dpa
  let k := s.homeSlice dpa
  let v := min (s.lcsOf b k + 1) lcMax
  (v, s.setLcs b k v)

/-- The box of an object holds a virtual address (R97). -/
def Obj.holds (o : Obj) (va : Nat) : Bool :=
  if va < o.base then false
  else
    let off := va - o.base
    if o.rows == 1 then decide (off < o.rowBytes)
    else o.pitch != 0 && decide (off / o.pitch < o.rows) && decide (off % o.pitch < o.rowBytes)

/-- The object of a bulkhead's table that a byte belongs to, by ASID and virtual address (R97). -/
def State.objAt (s : State) (b asid va : Nat) : Option (Nat × Obj) :=
  (s.bh b).objs.find? fun e => e.2.asid == asid && e.2.holds va

/-- Who makes an access at a home slice: the ASID and the virtual address under which it was translated (R97), or
`none` for the device's own records. -/
abbrev Who := Option (Nat × Nat)

/-- The object that an access meets, homed in the bulkhead of its DPA. -/
def State.objOf (s : State) (who : Who) (dpa : Nat) : Option (Nat × Obj) :=
  match who with
  | some (asid, va) => s.objAt (bhOfDpa dpa) asid va
  | none => none

/-- Why a write is refused at its home slice: the object is STABLE or FROZEN (R100). -/
def State.writeRefusal (s : State) (who : Who) (dpa : Nat) : Option Cause :=
  match s.objOf who dpa with
  | some (_, o) => match o.st with
    | .stable => some .stableStore
    | .frozen => some .frozenStore
    | _ => none
  | none => none

/-- Whether an access meets a STANDING object (R99). -/
def State.isStanding (s : State) (who : Who) (dpa : Nat) : Bool :=
  match s.objOf who dpa with
  | some (_, o) => o.st == .standing
  | none => false

/-- The STANDING object whose writes are captured that an access meets: an unbind stops capture before its entry goes
(R101, R360). -/
def State.capturing (s : State) (who : Who) (dpa : Nat) : Option Obj :=
  match s.objOf who dpa with
  | some (_, o) =>
    if o.st == .standing && !(Table.find (s.bh (bhOfDpa dpa)).bindings o.bind).elim false (fun b => b.stopped) then some o
    else none
  | none => none

/-- The first byte offsets, in an object, of the elements that a write touches. -/
def elementsOf (off n esz : Nat) : List Nat :=
  (List.range ((off + n + esz - 1) / esz - off / esz)).map fun i => (off / esz + i) * esz

/-- A record captured at a slice (R96, R103, R104): the capture is an event of the slice with a stamp of its own. -/
def State.captureOne (s : State) (o : Obj) (dpa off e : Nat) : State :=
  let b := bhOfDpa dpa
  let k := s.homeSlice dpa
  let (stamp, s1) := s.lcsStep dpa
  let r : Delta :=
    { stamp := stamp, slice := k, bind := o.bind, opndB := o.opndB
      row := if o.rows == 1 then 0 else e / o.pitch
      col := (if o.rows == 1 then e else e % o.pitch) / o.esz
      value := BitVec.ofNat 32 (s1.loadNow (dpa + e - off) o.esz) }
  s1.modBh b fun x =>
    { x with capq := x.capq.set (k % 16) (x.capq[k % 16]'(Nat.mod_lt _ (by decide)) ++ [r]) (Nat.mod_lt _ (by decide)) }

/-- Records captured of a write just performed to a STANDING object: one per element touched, with its whole new
value (R103, R104). -/
def State.capture (s : State) (o : Obj) (va dpa n : Nat) : State :=
  (elementsOf (va - o.base) n o.esz).foldl (fun s e => s.captureOne o dpa (va - o.base) e) s

/-- How many records a write makes (R103). -/
def State.capturesOf (s : State) (who : Who) (dpa n : Nat) : Nat :=
  match who, s.capturing who dpa with
  | some (_, va), some o => (elementsOf (va - o.base) n o.esz).length
  | _, _ => 0

/-- Room for a write's records beside `more` others in the slice's capture queue of 256 (R105): writes to standing words wait
otherwise. -/
def State.captureRoomFor (s : State) (who : Who) (dpa n more : Nat) : Bool :=
  let k := s.capturesOf who dpa n
  k == 0 || decide (((s.bh (bhOfDpa dpa)).capq[s.homeSlice dpa % 16]'(Nat.mod_lt _ (by decide))).length + k + more ≤ 256)

/-- Room for a write's records (R105). -/
def State.captureRoom (s : State) (who : Who) (dpa n : Nat) : Bool := s.captureRoomFor who dpa n 0

/-- The test of a watch (R331, R364, R384) on a value of `size` bytes. -/
def WatchCond.holds (c : WatchCond) (size v w : Nat) : Bool :=
  let sv := signed (8 * size) v
  let sw := signed (8 * size) w
  match c with
  | .eq => v == w
  | .ne => v != w
  | .geS => decide (sw ≤ sv)
  | .geU => decide (w ≤ v)
  | .ltS => decide (sv < sw)
  | .ltU => decide (v < w)
  | .leZero => decide (sv ≤ 0)

/-- The condition that a watch message carries. -/
def Msg.cond (m : Msg) : WatchCond :=
  match m.kind with
  | .watch c => c
  | .watchRetry c => c
  | _ => .eq

/-- Whether two byte ranges meet. -/
def overlaps (a n b m : Nat) : Bool := decide (a < b + m) && decide (b < a + n)

/-- The watches of the slice are tested at a write (R331): one that holds is dropped, and its value returned. -/
def State.testWatches (s : State) (dpa n : Nat) : State :=
  let b := bhOfDpa dpa
  let hit := fun (m : Msg) => overlaps dpa n m.dpa m.size && m.cond.holds m.size (s.loadNow m.dpa m.size) m.cmp.toNat
  let done := (s.bh b).watches.filter hit
  if done.isEmpty then s
  else
    let s1 := s.modBh b fun x => { x with watches := x.watches.filter fun m => !hit m }
    { s1 with net := s1.net ++ done.map fun m =>
        { m with kind := .fill, data := BitVec.ofNat 64 (s.loadNow m.dpa m.size)
                 counter := s.lcsOf b (s.homeSlice m.dpa) } }

/-- Whether a word of an access is watched (R331). -/
def State.isWatched (s : State) (dpa n : Nat) : Bool :=
  (s.bh (bhOfDpa dpa)).watches.any fun m => overlaps dpa n m.dpa m.size

/-- A write performed at the home slice (R93, R95, R96, R103): refused where an object forbids it, dropped outside
populated memory, otherwise stored, stamped, captured and tested against the watches. A word written whole is no
longer poisoned (R406). -/
def State.homeWrite (s : State) (who : Who) (dpa n v : Nat) : Except Cause State :=
  if !dpaPopulated dpa then .ok (s.holeCheck dpa 0)
  else match s.writeRefusal who dpa with
    | some c => .error c
    | none =>
      let s1 := s.settleAll dpa n
      let (stamp, s2) := s1.lcsStep dpa
      let s3 : State := { s2 with home := Memory.store s2.home dpa n v }
      let s4 := (wholeWords dpa n).foldl (fun s w => s.setPoison w none) s3
      let s5 := s4.markDirty dpa stamp
      let s6 := match who, s5.capturing who dpa with
        | some (_, va), some o => s5.capture o va dpa n
        | _, _ => s5
      .ok (s6.testWatches dpa n)

/-- Whether a write or atomic can be performed now: its words are not on their way to an owner, and its records
have room. -/
def State.homeReady (s : State) (who : Who) (dpa n : Nat) : Bool := s.quiet dpa n && s.captureRoom who dpa n

/-- A write by the device for its own purposes, in a frame that no object covers. -/
def State.devWrite (s : State) (dpa n v : Nat) : State :=
  match s.homeWrite none dpa n v with
  | .ok s' => s'
  | .error _ => s

/-- A read performed at the home slice: the current value, and the poison it meets (R93). Outside populated memory it reads
poisoned data (R30), a free value of the place. -/
def State.homeRead (s : State) (dpa n : Nat) : Nat × Option PoisonLevel :=
  if dpaPopulated dpa then (s.loadNow dpa n, s.poisonOf dpa n) else ((Config.holeData dpa).toNat % 2 ^ (8 * n), some .hbm)

/-- A frame descriptor's DPA (R56). -/
def State.fdAddr (s : State) (frame : Nat) : Nat := (s.bh (bhOfFrame frame)).fdtBase.toNat * 2 ^ 16 + 8 * (frame % 2 ^ 20)

/-- A frame's descriptor (R57). Where the table leaves populated memory it is poisoned data (R30), a free value here
(log 123). -/
def State.fd (s : State) (frame : Nat) : Nat :=
  if dpaPopulated (s.fdAddr frame) then s.loadNow (s.fdAddr frame) 8 else (Config.holeData (s.fdAddr frame)).toNat

/-- The access that reads a frame's descriptor: DPA_HOLE is posted where the table leaves populated memory (R30). -/
def State.fdRead (s : State) (frame : Nat) : State := s.holeCheck (s.fdAddr frame) 0

/-- A frame's descriptor written. -/
def State.setFd (s : State) (frame v : Nat) : State := s.devWrite (s.fdAddr frame) 8 v

/-- ST of a descriptor (R57). -/
def fdSt (d : Nat) : Nat := bits d 63 61
/-- REFCNT of a descriptor. -/
def fdRef (d : Nat) : Nat := bits d 15 0
/-- PINS of a descriptor. -/
def fdPins (d : Nat) : Nat := bits d 57 48
/-- LINK of a descriptor. -/
def fdLink (d : Nat) : Nat := bits d 38 16

/-- A descriptor with bits `hi` to `lo` replaced by `v`. -/
def setBits (d hi lo v : Nat) : Nat := d - bits d hi lo * 2 ^ lo + v % 2 ^ (hi + 1 - lo) * 2 ^ lo

end Sys2Proof.Machine
end

