-- ==== Sys2Proof/Machine/Translate.lean ====
section
/-! DEFINITION. From a lane's address to the place it names: the windows (R12 to R28), the page walk and its checks
(R49 to R55), translation registers (R62, R63), the translation caches (R65) and the store filter (R100). -/

namespace Sys2Proof.Machine

/-- The access kinds of R55 and R70. -/
inductive AccessKind where
  | load | store | atomic | xlat | fetch | prefetch
deriving DecidableEq, Repr

/-- The access kind that a first-touch handler sees in z2 (R70). -/
def AccessKind.code : AccessKind → BitVec 2
  | .load => 0
  | .store => 1
  | .atomic => 2
  | .xlat => 3
  | .fetch => 0
  | .prefetch => 0

/-- Whether an access writes. -/
def AccessKind.writes (k : AccessKind) : Bool := k == .store || k == .atomic

/-- R of a leaf entry (R53). -/
def leafR (e : Nat) : Bool := bit e 60
/-- W of a leaf entry. -/
def leafW (e : Nat) : Bool := bit e 59
/-- X of a leaf entry. -/
def leafX (e : Nat) : Bool := bit e 58
/-- S of a leaf entry. -/
def leafS (e : Nat) : Bool := bit e 57
/-- PV of a leaf entry. -/
def leafPV (e : Nat) : Bool := bit e 56
/-- FZ of a leaf entry. -/
def leafFZ (e : Nat) : Bool := bit e 55
/-- CW of a leaf entry. -/
def leafCW (e : Nat) : Bool := bit e 54
/-- NC of a leaf entry. -/
def leafNC (e : Nat) : Bool := bit e 53
/-- FRAME of a leaf entry. -/
def leafFrame (e : Nat) : Nat := bits e 22 0

/-- Bytes that a leaf of a level maps (R49). -/
def leafSize (level : Nat) : Nat := 2 ^ (16 + 10 * level)

/-- Whether a valid leaf obeys R53: reserved bits, W with R, and the alignment of FRAME. -/
def leafFormat (e level : Nat) : Bool :=
  !bit e 61 && bits e 50 23 == 0 && (!leafW e || leafR e) && leafFrame e % 2 ^ (10 * level) == 0

/-- Whether a table address lies in populated HBM (R52). -/
def tableOk (addr : Nat) : Bool := decide (addr < 2 ^ 39) && dpaPopulated addr

/-- Whether a valid non-leaf entry obeys R52. -/
def nonLeafFormat (e : Nat) : Bool := bits e 61 26 == 0 && tableOk (bits e 25 0 * 2 ^ 13)

/-- What a walk finds: PT_FORMAT, or an entry with its level and DPA. -/
inductive Walk where
  | format
  | entry (e level addr : Nat)
deriving DecidableEq, Repr

/-- The translation caches with a number (R65): those of the cores are 0 to 191. -/
def State.cache (s : State) (n : Nat) : Cache := Table.findD s.caches n { leaves := [], tables := [] }

/-- The number of an engine's translation caches, by its bulkhead and the number of its network interface (R65, R115). -/
def engineCache (bh ni : Nat) : Nat := 192 + 8 * bh + ni % 8

/-- The number of the fabric export path's translation caches (R65). -/
def fabricCache : Nat := 256

/-- The number of the host path's translation caches (R65). -/
def hostCache : Nat := 257

/-- The address space that tags the cached translations of a context: CTX_PTROOT.ASID (R50). -/
def State.tagOf (s : State) (asid : Nat) : Nat := bits (s.ctx asid).ptRoot.toNat 63 48

/-- A cached non-leaf entry of a level that covers an address (R65): the table that it names. -/
def Cache.table (c : Cache) (tag level va : Nat) : Option Nat :=
  (c.tables.find? fun t => t.asid == tag && t.level == level && t.vpn == va / leafSize level).map fun t => t.table

/-- The walk of R51 from the table of level `n - 1` at `addr`, with the non-leaf entries that a cache holds (R65). -/
def State.walkFrom (s : State) (c : Cache) (tag va : Nat) : Nat → Nat → Walk
  | 0, _ => .format
  | level + 1, addr =>
    let a := addr + 8 * (va / 2 ^ (16 + 10 * level) % 1024)
    let e := s.loadNow a 8
    match c.table tag level va with
    | some t => s.walkFrom c tag va level t
    | none =>
      if !bit e 63 then .entry e level a
      else if bit e 62 then if level == 3 || !leafFormat e level then .format else .entry e level a
      else if level == 0 || !nonLeafFormat e then .format
      else s.walkFrom c tag va level (bits e 25 0 * 2 ^ 13)

/-- The non-leaf entries that a walk passes (R51, R65). -/
def State.walkTables (s : State) (c : Cache) (tag va : Nat) : Nat → Nat → List TableEntry
  | 0, _ => []
  | level + 1, addr =>
    let e := s.loadNow (addr + 8 * (va / 2 ^ (16 + 10 * level) % 1024)) 8
    let go (t : Nat) : List TableEntry :=
      { asid := tag, level := level, vpn := va / leafSize level, table := t } :: s.walkTables c tag va level t
    match c.table tag level va with
    | some t => go t
    | none => if !bit e 63 || bit e 62 || level == 0 then [] else go (bits e 25 0 * 2 ^ 13)

/-- The root table of a context (R50). -/
def Ctx.root (c : Ctx) : Nat := bits c.ptRoot.toNat 38 13 * 2 ^ 13

/-- The walk of a context's tables (R51, R52), with the non-leaf entries of a cache (R65). -/
def State.walk (s : State) (cache : Option Nat) (asid va : Nat) : Walk :=
  let r := (s.ctx asid).root
  if tableOk r then s.walkFrom (cache.elim { leaves := [], tables := [] } s.cache) (s.tagOf asid) va 4 r else .format

/-- LeafDPA of R51. -/
def leafDpa (e level va : Nat) : Nat := leafFrame e * 2 ^ 16 + va % leafSize level

/-- Who translates: the context, its privilege, the number of the translation caches that serve it (none where the device
looks without them), and whether the access is one that R22 admits to PV pages. -/
structure Via where
  asid : Nat
  sup : Bool
  cache : Option Nat
  pv : Bool
deriving DecidableEq, Repr

/-- The cause of R55, checks 3 to 8, for a leaf; `none` where all pass. -/
def leafCheck (v : Via) (k : AccessKind) (e level va : Nat) : Option Cause :=
  if leafS e && !v.sup then some .pageProt
  else if leafPV e && !v.pv then some .privateAlias
  else if match k with
    | .load | .xlat | .prefetch => !leafR e
    | .store => !leafW e
    | .atomic => !(leafR e && leafW e)
    | .fetch => !leafX e
  then some .pageProt
  else if k.writes && leafFZ e then some .frozenStore
  else if k.writes && leafCW e then some .pageCow
  else if !framePopulated (leafDpa e level va / 2 ^ 16) then some .pageHole
  else none

/-- What a translation answers: the DPA, the leaf and its level, or a cause with the level at which it arose. -/
inductive Trans where
  | ok (dpa e level : Nat)
  | fail (c : Cause) (level : Nat)
deriving DecidableEq, Repr

/-- The cause of an invalid entry (R54): bit 61 is LZ. -/
def invalidCause (e level : Nat) : Cause := if level == 0 && bit e 61 then .pageFault else .pageAbsent

/-- A cached leaf that covers an address (R65). -/
def Cache.leaf (c : Cache) (tag va : Nat) : Option TlbEntry :=
  c.leaves.find? fun t => t.asid == tag && t.vpn == va / leafSize t.level

/-- The leaf that a translation uses: a cached one, or the one that the walk finds (R51, R65). -/
def State.leafFor (s : State) (v : Via) (va : Nat) : Walk :=
  match v.cache.bind fun n => (s.cache n).leaf (s.tagOf v.asid) va with
  | some t => .entry t.entry.toNat t.level t.addr
  | none => s.walk v.cache v.asid va

/-- A cache with entries used last in front: 2,048 leaves of level 0, 64 larger ones and 256 non-leaf entries, of which those
used longest ago go (R65; the order, and these sizes for the caches outside the cores, are the model's choice, log 12). -/
def Cache.use (c : Cache) (leaf : TlbEntry) (tables : List TableEntry) : Cache :=
  let ls := leaf :: c.leaves.filter fun t => !(t.asid == leaf.asid && t.level == leaf.level && t.vpn == leaf.vpn)
  let small := (ls.filter fun t => t.level == 0).take 2048
  let large := (ls.filter fun t => t.level != 0).take 64
  { leaves := if leaf.level == 0 then small ++ large else large ++ small
    tables := (tables ++ c.tables.filter fun t =>
      !(tables.any fun u => u.asid == t.asid && u.level == t.level && u.vpn == t.vpn)).take 256 }

/-- A and D of the entry at `addr` set with an atomic OR, and the translation caches filled (R53, R65). -/
def State.fillTlb (s : State) (v : Via) (write : Bool) (e level addr va : Nat) : State :=
  let want := 2 ^ 52 + (if write then 2 ^ 51 else 0)
  let e1 := e ||| want
  let s1 := if e1 == e then s else s.devWrite addr 8 (s.loadNow addr 8 ||| want)
  match v.cache with
  | none => s1
  | some n =>
    let c := s.cache n
    let tag := s.tagOf v.asid
    let tables := if (c.leaf tag va).isSome then [] else s.walkTables c tag va 4 (s.ctx v.asid).root
    let leaf : TlbEntry := { asid := tag, level := level, vpn := va / leafSize level, entry := BitVec.ofNat 64 e1, addr := addr }
    { s1 with caches := Table.set s1.caches n (c.use leaf tables)
              leaves := leaf :: s1.leaves.filter fun x => !(x.asid == tag && x.level == level && x.vpn == leaf.vpn) }

/-- Whether a translation marks its page dirty (R53): a write, or an `xlat` of a page that can be written. -/
def AccessKind.dirties (k : AccessKind) (e : Nat) : Bool := k.writes || (k == .xlat && leafW e && !leafCW e && !leafFZ e)

/-- The translation of a global address with the checks of R55 in their order, and the state after it. -/
def State.translate (s : State) (v : Via) (k : AccessKind) (va : Nat) : Trans × State :=
  if !bit (s.ctx v.asid).ptRoot.toNat 0 then (.fail .pageAbsent 3, s)
  else match s.leafFor v va with
    | .format => (.fail .ptFormat 0, s)
    | .entry e level addr =>
      if !bit e 63 then (.fail (invalidCause e level) level, s)
      else match leafCheck v k e level va with
        | some c => (.fail c level, s)
        | none => (.ok (leafDpa e level va) e level, s.fillTlb v (k.dirties e) e level addr va)

/-- The windows of R13. -/
inductive Window where
  | global | team | cluster | priv | fabric | multicast | reserved
deriving DecidableEq, Repr

/-- Canonical form (R12). -/
def canonical (a : DWord) : Bool := bits a.toNat 63 56 == if bit a.toNat 55 then 255 else 0

/-- The window of a canonical address (R13). -/
def windowOf (a : DWord) : Window :=
  if !bit a.toNat 55 then .global
  else match bits a.toNat 54 52 with
    | 1 => .team
    | 2 => .cluster
    | 3 => .priv
    | 4 => .fabric
    | 5 => .multicast
    | _ => .reserved

/-- The must-be-zero bits of a window's addresses (R17 to R19, R27). -/
def mbzOk (w : Window) (a : DWord) : Bool :=
  match w with
  | .team => bits a.toNat 51 25 == 0
  | .cluster => bits a.toNat 51 25 == 0
  | .priv => bits a.toNat 51 16 == 0
  | .multicast => bits a.toNat 51 48 == 0
  | _ => true

/-- Which windows an instruction accepts besides R28: SC operations and `atwait` only global and fabric (R139, R331),
`cwait`, `qwait`, `xlat` and the range instructions only global. -/
inductive Reach where
  | all | globalFabric | globalOnly
deriving DecidableEq, Repr

/-- The access kinds that a window admits for a group (R28). -/
def windowAdmits (w : Window) (r : Reach) (k : AccessKind) : Bool :=
  match w with
  | .global => true
  | .fabric => r != .globalOnly
  | .team | .cluster | .priv => r == .all && k != .prefetch
  | .multicast => r == .all && k == .store
  | .reserved => false

/-- Private size P (R20). -/
def Ctx.privSize (c : Ctx) : Nat := 1024 * 2 ^ (c.privSz.toNat % 8)

/-- PrivateBacking of R21. -/
def Ctx.privBacking (c : Ctx) (off core slot lane : Nat) : Nat :=
  bits c.privBase.toNat 54 16 * 2 ^ 16 + core * (32768 * c.privSize) + (slot * 256 + lane) * c.privSize + off

/-- Scratchpad bytes of a context's region on a core (R78). -/
def Ctx.spadSize (c : Ctx) : Nat := bits c.part.toNat 23 16 * 65536

/-- Where a piece of an access goes. -/
inductive Place where
  | mem (dpa : Nat) (va : Nat) (nc priv : Bool)
  | spad (core off : Nat)
  | fabric (device off : Nat)
  | multicast (set off : Nat)
deriving DecidableEq, Repr

/-- The tenant entry whose shape holds a bulkhead (R36, R37). -/
def State.tenantOf (s : State) (b : Nat) : Option Nat :=
  (List.range 8).find? fun n =>
    let e := if h : n < 8 then s.tntShape[n].toNat else 0
    bit e 63 && decide (bits e 2 0 ≤ b) && decide (b < bits e 2 0 + 2 ^ bits e 5 4)

/-- A tenant's fabric entry (R417). -/
def State.fabEntry (s : State) (n : Nat) : Nat := if h : n < 8 then s.tntFab[n].toNat else 0

/-- Whether the fabric gate takes traffic of a bulkhead: it is enabled (R416), and refuses new traffic of a bulkhead that is
being reset (R45; the cause, FABRIC_DEVICE, is the model's choice, log 125). -/
def State.fabricOpen (s : State) (b : Nat) : Bool := bit s.fabCfg.toNat 63 && (s.bh b).rstPhase == .idle

/-- Whether a device lies in the domain of a bulkhead's tenant, with the fabric gate open to it (R26, R416, R417). -/
def State.deviceOk (s : State) (b device : Nat) : Bool :=
  s.fabricOpen b && match s.tenantOf b with
    | some n => decide (bits (s.fabEntry n) 25 16 ≤ device) && decide (device ≤ bits (s.fabEntry n) 41 32)
    | none => false

/-- A multicast set of a bulkhead's tenant (R27, R420). -/
def State.mcEntry (s : State) (b set : Nat) : Nat :=
  match s.tenantOf b with
  | some n => (Table.findD s.mcSet (64 * n + set) 0).toNat
  | none => 0

/-- The member devices of a multicast set (R420). -/
def mcMembers (e : Nat) : List Nat :=
  (List.range (bits e 20 10)).map fun i => (bits e 9 0 + i * bits e 41 32) % 1024

/-- The number of the copy engine's network interface in its bulkhead, where those of the cores are 0 to 23; the engines'
numbers are the model's choice (log 102). -/
def niCopy : Nat := 24

/-- The gather engine's (log 102). -/
def niGather : Nat := 25

/-- The collective engine's (log 102). -/
def niCollective : Nat := 26

/-- The standing-product engine's (log 102). -/
def niStanding : Nat := 27

/-- The replay-and-vote engine's (log 102). -/
def niReplay : Nat := 28

/-- Who forms an address: the group's context, privilege, core, slot, team and gang; for an engine the number of its network
interface (R115), and that of the request. -/
structure Asker where
  gid : Nat
  asid : Nat
  sup : Bool
  team : Option Team
  engine : Option Nat
  req : Option Nat := none
deriving DecidableEq, Repr

/-- The asker of a group's own instructions. -/
def State.asker (s : State) (gid : Nat) (g : Group) : Asker :=
  { gid := gid, asid := g.asid, sup := g.sup, team := s.team? g.team, engine := none }

/-- The translation view of an asker. -/
def Asker.via (a : Asker) (pv : Bool) : Via :=
  { asid := a.asid, sup := a.sup, pv := pv
    cache := some (match a.engine with
      | some ni => engineCache (bhOf a.gid) ni
      | none => coreOf a.gid) }

/-- The address checks of R15 before translation, for one byte: the cause, or the window. `align` holds the element
size where the instruction requires alignment. -/
def State.windowCheck (s : State) (q : Asker) (r : Reach) (k : AccessKind) (a : DWord) : Except Cause Window :=
  if !canonical a then .error .addrNoncanonical
  else
    let w := windowOf a
    if w == .reserved || !mbzOk w a then .error .addrWindow
    else if !windowAdmits w r k then .error .addrWindow
    else if q.engine.isSome && (w == .priv || (w == .multicast && q.engine != some niCopy)) then .error .addrWindow
    else match w with
      | .fabric => if s.deviceOk (bhOf q.gid) (bits a.toNat 51 42) then .ok w else .error .fabricDevice
      | .multicast =>
        if s.fabricOpen (bhOf q.gid) && bit (s.mcEntry (bhOf q.gid) (bits a.toNat 47 42)) 63 then .ok w
        else .error .fabricDevice
      | _ => .ok w

/-- The offset range of a window (R17 to R19). -/
def State.rangeOk (s : State) (q : Asker) (w : Window) (a : DWord) : Bool :=
  match w with
  | .team => match q.team with
    | some t => decide (bits a.toNat 24 0 < t.spad)
    | none => false
  | .cluster =>
    let c := coreOf q.gid / 4 * 4 + bits a.toNat 24 23
    decide (bits a.toNat 22 0 < (s.ctx q.asid).spadSize) && match q.team with
      | some t => (s.teamsOf t.gang).any fun e => e.2.cores.contains c
      | none => false
  | .priv => decide (bits a.toNat 15 0 < (s.ctx q.asid).privSize)
  | _ => true

/-- The naturally aligned pieces, of at most 8 bytes, of `n` bytes at `a` (R119): offset and size. -/
def pieces : Nat → Nat → Nat → Nat → List (Nat × Nat)
  | 0, _, _, _ => []
  | fuel + 1, a, off, n =>
    if n == 0 then []
    else
      let k := if (a + off) % 8 == 0 && decide (8 ≤ n) then 8
        else if (a + off) % 4 == 0 && decide (4 ≤ n) then 4
        else if (a + off) % 2 == 0 && decide (2 ≤ n) then 2 else 1
      (off, k) :: pieces fuel a (off + k) (n - k)

/-- A failing check: the cause, the address that the handler lane receives, and the level of the entry. -/
structure AddrFault where
  cause : Cause
  addr : DWord
  level : Nat
deriving DecidableEq, Repr

/-- The store filter of R100: an object of the context that is STABLE or FROZEN in the core's own bulkhead, for a
global-window write whose frame lies there. -/
def State.filterCause (s : State) (q : Asker) (k : AccessKind) (va dpa : Nat) : Option Cause :=
  if k.writes && q.engine.isNone && bhOfDpa dpa == bhOf q.gid then s.writeRefusal (some (q.asid, va)) dpa else none

/-- A global piece: private alias, translation and the store filter (R22, R55, R100). -/
def State.placeGlobal (s : State) (q : Asker) (k : AccessKind) (pv : Bool) (va : Nat) (shown : DWord) :
    Except AddrFault Place × State :=
  match s.translate (q.via pv) k va with
  | (.fail c l, s1) => (.error { cause := c, addr := shown, level := l }, s1)
  | (.ok dpa e _, s1) => match if pv then none else s1.filterCause q k va dpa with
    | some c => (.error { cause := c, addr := shown, level := 0 }, s1)
    | none => (.ok (.mem dpa va (leafNC e) pv), s1)

/-- The place of one piece that passed the window checks. -/
def State.place (s : State) (q : Asker) (k : AccessKind) (lane : Nat) (w : Window) (a : DWord) :
    Except AddrFault Place × State :=
  match w with
  | .team => match q.team with
    | some t =>
      let part := t.spad / t.cores.length
      let off := bits a.toNat 24 0
      (.ok (.spad ((t.cores[off / part]?).getD 0) (t.padAt (off / part) + off % part)), s)
    | none => (.error { cause := .windowRange, addr := a, level := 0 }, s)
  | .cluster => (.ok (.spad (coreOf q.gid / 4 * 4 + bits a.toNat 24 23) (bits a.toNat 22 0)), s)
  | .priv =>
    let va := (s.ctx q.asid).privBacking (bits a.toNat 15 0) (coreOf q.gid) (slotOf q.gid) lane
    s.placeGlobal q k true va (BitVec.ofNat 64 va)
  | .fabric => (.ok (.fabric (bits a.toNat 51 42) (bits a.toNat 41 0)), s)
  | .multicast => (.ok (.multicast (bits a.toNat 47 42) (bits a.toNat 41 0)), s)
  | _ => s.placeGlobal q k false a.toNat a

/-- The places of the pieces of an element, in ascending order, or the first failing check. -/
def State.placeAll (s : State) (q : Asker) (k : AccessKind) (lane : Nat) (w : Window) (a : DWord) :
    List (Nat × Nat) → Except AddrFault (List (Nat × Nat × Place)) × State
  | [] => (.ok [], s)
  | (off, n) :: t =>
    match s.place q k lane w (a + BitVec.ofNat 64 off) with
    | (.error f, s1) => (.error f, s1)
    | (.ok p, s1) => match s1.placeAll q k lane w a t with
      | (.error f, s2) => (.error f, s2)
      | (.ok l, s2) => (.ok ((off, n, p) :: l), s2)

/-- One lane's element of `n` bytes at `a`, with every check of R12 to R15 and R55 in their order; `align` asks for
natural alignment (ATOMIC_ALIGN). -/
def State.resolve (s : State) (q : Asker) (r : Reach) (k : AccessKind) (align : Bool) (lane : Nat) (a : DWord) (n : Nat) :
    Except AddrFault (List (Nat × Nat × Place)) × State :=
  let last := a + BitVec.ofNat 64 (n - 1)
  let bad := fun (c : Cause) => (Except.error { cause := c, addr := a, level := 0 : AddrFault }, s)
  match s.windowCheck q r k a with
  | .error c => bad c
  | .ok w => match s.windowCheck q r k last with
    | .error c => bad c
    | .ok w' =>
      if w != w' then bad .addrWindow
      else if !s.rangeOk q w a || !s.rangeOk q w last then bad .windowRange
      else if align && a.toNat % n != 0 then bad .atomicAlign
      else s.placeAll q k lane w a (pieces n a.toNat 0 n)

/-- The level of the leaf that maps an address now: a PAGE_COW of the fast path concerns that leaf (R69; log 103). -/
def State.levelOf (s : State) (q : Asker) (va : Nat) : Nat :=
  match s.leafFor (q.via false) va with
  | .entry _ level _ => level
  | .format => 0

/-- The fast path of a translation register (R63): the cause of its checks, or the DPA. -/
def transFast (t : TransReg) (sup : Bool) (k : AccessKind) (o : Nat) : Except Cause Nat :=
  if t.s && !sup then .error .pageProt
  else if k.writes && !t.w then .error .pageProt
  else if k.writes && t.fz then .error .frozenStore
  else if k.writes && t.cw then .error .pageCow
  else .ok (t.frame.toNat * 2 ^ 16 + t.va.toNat % 2 ^ 16 + o)

/-- One lane's element through a translation register (R63): the fast path inside LIMIT, else VA + o like any global
address. -/
def State.resolveT (s : State) (q : Asker) (t : TransReg) (r : Reach) (k : AccessKind) (align : Bool) (lane : Nat)
    (o : DWord) (n : Nat) : Except AddrFault (List (Nat × Nat × Place)) × State :=
  let va : DWord := t.va.setWidth 64 + o
  if t.v && !o.getLsbD 63 && decide (o.toNat + n - 1 ≤ t.limit.toNat) then
    if align && va.toNat % n != 0 then (.error { cause := .atomicAlign, addr := va, level := 0 }, s)
    else match transFast t q.sup k o.toNat with
      | .error c => (.error { cause := c, addr := va, level := s.levelOf q va.toNat }, s)
      | .ok dpa => match s.filterCause q k va.toNat dpa with
        | some c => (.error { cause := c, addr := va, level := 0 }, s)
        | none =>
          (.ok ((pieces n va.toNat 0 n).map fun p => (p.1, p.2, .mem (dpa + p.1) (va.toNat + p.1) t.nc false)), s)
  else
    match windowOf va, canonical va with
    | .global, true => s.resolve q r k align lane va n
    | _, false => (.error { cause := .addrNoncanonical, addr := va, level := 0 }, s)
    | _, true => (.error { cause := .addrWindow, addr := va, level := 0 }, s)

end Sys2Proof.Machine
end

