-- ==== Sys2Proof/Machine/Ops.lean ====
section
/-! DEFINITION. The shared operations of the instruction meanings: how a body answers, retirement, event records
(R379), suspicion and quarantine (R413, R414), taking a trap (R387 to R390), returning from one (R391), restarts
(R405), the gates between bulkheads (R39), and the fetch of instruction words (R211). -/

namespace Sys2Proof.Machine

/-- A cause with what trap entry needs (R389): the argument, the lowest failing lane and its address, the handler
lanes with their addresses and access kind, whether the first-touch handler serves it (R69), whether it is deferred
(R29), the PC of y1, the resume PC and the sweep segment where they differ from the slot's own. -/
structure TrapInfo where
  cause : Cause
  arg : DWord := 0
  lane : Nat := 0
  addr : DWord := 0
  lanes : Option Mask := none
  addrs : List (Nat × DWord) := []
  kind : BitVec 2 := 0
  first : Bool := false
  deferred : Bool := false
  pc : Option DWord := none
  resume : Option DWord := none
  segment : Option (BitVec 12) := none
deriving DecidableEq, Repr

/-- A cause with nothing else. -/
def TrapInfo.of (c : Cause) : TrapInfo := { cause := c }

/-- What the body of an instruction answers: its effect, a stall in which it has none, or a trap. -/
inductive Res where
  | ok (s : State)
  | stall (w : Wait) (s : State)
  | trap (t : TrapInfo) (s : State)
deriving DecidableEq, Repr

/-- The state in an answer. -/
def Res.state : Res → State
  | .ok s => s
  | .stall _ s => s
  | .trap _ s => s

/-- A second part of a body after a first. -/
def Res.andThen (r : Res) (f : State → Res) : Res :=
  match r with
  | .ok s => f s
  | .stall w s => .stall w s
  | .trap t s => .trap t s

/-- CYC of a core (R244): core cycles since its bulkhead's last reset. -/
def State.cyc (s : State) (core : Nat) : Nat := (s.bh (bhOfCore core)).cyc % 2 ^ 64

/-- GRP_ID of a group (R148). -/
def State.grpId (s : State) (gid : Nat) (g : Group) : DWord :=
  let (stage, gteam, team) := match s.team? g.team with
    | some t => ((match Table.find s.grids t.grid with
      | some gr => gr.launch.stage
      | none => 0), t.gteam, t.index)
    | none => (0, 0, 0)
  BitVec.ofNat 64 (stage * 2 ^ 60 + gteam % 16 * 2 ^ 56 + team % 2 ^ 24 * 2 ^ 32 + g.index % 128 * 2 ^ 18
    + bhOf gid * 2 ^ 15 + coreOf gid % 24 * 2 ^ 10 + partOf gid * 2 ^ 8 + slotOf gid)

/-- A record of 32 bytes (R379) written at a DPA, low dword first. -/
def State.putRecord (s : State) (dpa d0 d1 d2 d3 : Nat) : State :=
  (((s.devWrite dpa 8 d0).devWrite (dpa + 8) 8 d1).devWrite (dpa + 16) 8 d2).devWrite (dpa + 24) 8 d3

/-- Where the next record of a context's event queue is written (R380). -/
def State.evqNext (s : State) (asid b : Nat) : Nat := (s.inst asid b).evqFrame * 2 ^ 16 + 32 * (s.inst asid b).evqPut

/-- A record for a context's event queue (R379, R380): written whole before PUT and COUNT advance; dropped, counted
and reported as EVQ_OVERFLOW when the ring is full or not in use. -/
def State.postCtx (s : State) (asid b kind cause source tag d0 d1 : Nat) : State :=
  let i := s.inst asid b
  if !i.evqEn || i.evqCount == 4096 then
    (s.modInst asid b fun x => { x with evqLost := min (x.evqLost + 1) 0xFFFF }).postSup .evqOverflow asid b
  else
    let s1 := s.putRecord (s.evqNext asid b) (kind * 2 ^ 56 + cause * 2 ^ 48 + i.evqLost * 2 ^ 32 + source) tag d0 d1
    s1.modInst asid b fun x =>
      { x with evqPut := (x.evqPut + 1) % 4096, evqCount := x.evqCount + 1, evqLost := 0 }

/-- A tender with a core that must withdraw from it, should it win (R171, R433). -/
def Tender.losing (t : Tender) (core : Nat) : Tender :=
  if t.st == .bidding || t.st == .awarded then { t with lost := t.lost ++ [core] } else t

/-- A core is quarantined: its bids are lost (R171); it is posted to the plex and recorded in the molt record (R414, R450). -/
def State.quarantine (s : State) (core : Nat) : State :=
  if (s.core core).quarantined then s
  else
    let s0 := s.modCore core fun c => { c with quarantined := true }
    let s1 := s0.modBh (bhOfCore core) fun b => { b with tenders := b.tenders.map fun t => t.losing (core % 24) }
    let score := (s1.core core).suspScore
    (s1.postSup .quarantined core score).molt (bhOfCore core) 2 Cause.quarantined.code.toNat core 0 (s.cyc core) score

/-- A suspicion score written; where none stood, the decays count from now (R413). -/
def Core.score (c : Core) (v cyc : Nat) : Core :=
  { c with suspScore := v, decays := if c.suspScore == 0 then cyc / 2 ^ 20 else c.decays }

/-- Suspicion added to a core, saturating at 255; a core that reaches SUSP_LIMIT is quarantined (R413, R414). -/
def State.suspect (s : State) (core amount : Nat) : State :=
  let v := min 255 ((s.core core).suspScore + amount)
  let s1 := s.modCore core fun c => c.score v (s.cyc core)
  if (s.core core).suspLimit ≤ v then s1.quarantine core else s1

/-- The suspicion that a cause adds when it is raised on a core (R413). -/
def Cause.suspicion (c : Cause) : Nat :=
  match c with
  | .sigMismatch => 8
  | .uePool | .ueL1 => 16
  | _ => 0

/-- The cause of consumed poison by the level at which it was set, for a consuming core (R406). -/
def PoisonLevel.cause (p : PoisonLevel) (core : Nat) : Cause :=
  match p with
  | .pool c => if c == core then .uePool else .ueL2
  | .l1 c => if c == core then .ueL1 else .ueL2
  | .l2 => .ueL2
  | .hbm => .ueHbm
  | .remote => .ueRemote

/-- Poison that crosses a gate or the fabric counts as remote (R41, R406). -/
def PoisonLevel.across (p : Option PoisonLevel) (a b : Nat) : Option PoisonLevel :=
  if a == b then p else p.map fun _ => .remote

/-- A group that waits for the plex (R387, delivery P). -/
def State.plexWait (s : State) (gid : Nat) (c : Cause) : State :=
  s.modGroup gid fun g => { g with wait := .plex c, handoff := none, waitSince := s.cyc (coreOf gid), waitClock := s.clock, idem := false }

/-- Whether the gate entry at index `i` covers a frame of a peer and permits the needed kinds (R38, R39): `need` has
bit 0 for RD, bit 1 for WR and bit 2 for AT. -/
def gateEntryOk (w0 w1 : DWord) (peer frame need : Nat) : Bool :=
  let n := w0.toNat
  bit n 63 && !bit n 62 && bits n 61 59 == peer && decide (bits n 22 0 ≤ frame) && decide (frame ≤ bits w1.toNat 22 0)
    && (!bit need 0 || bit n 58) && (!bit need 1 || bit n 57) && (!bit need 2 || (bit n 56 && bit n 57))

/-- Whether a fenced entry stands in the way (R46). -/
def gateFenced (w0 w1 : DWord) (peer frame : Nat) : Bool :=
  let n := w0.toNat
  bit n 63 && bit n 62 && bits n 61 59 == peer && decide (bits n 22 0 ≤ frame) && decide (frame ≤ bits w1.toNat 22 0)

/-- What one gate answers to a request from bulkhead `a` for a frame of bulkhead `b` (R39, R40, R45, R46): the egress gate
of `a` or the ingress gate of `b`; `none` where it passes. -/
def State.gateSide (s : State) (egress : Bool) (a frame need : Nat) : Option Cause :=
  let b := bhOfFrame frame
  let x := s.bh (if egress then a else b)
  let peer := if egress then b else a
  let e0 (i : Nat) := (if egress then x.egr0 else x.ing0)[i % 8]'(Nat.mod_lt _ (by decide))
  let e1 (i : Nat) := (if egress then x.egr1 else x.ing1)[i % 8]'(Nat.mod_lt _ (by decide))
  if a == b then none
  else if x.rstPhase != .idle then some .windowPeerReset
  else if (List.range 8).any fun i => gateEntryOk (e0 i) (e1 i) peer frame need then none
  else if (List.range 8).any fun i => gateFenced (e0 i) (e1 i) peer frame then some .windowPeerReset
  else some .bulkheadGate

/-- What the gates answer to an access that the model makes within one step (log 19): the egress gate, then the ingress
gate. -/
def State.gateCheck (s : State) (a frame need : Nat) : Option Cause :=
  firstOf (s.gateSide true a frame need) (s.gateSide false a frame need)

/-- What a fetch answers: the words, or the trap. -/
inductive Fetched where
  | words (ws : List Word) (s : State)
  | fail (t : TrapInfo) (s : State)
deriving DecidableEq, Repr

/-- A fetch trap, with the slot's mask as its handler lanes and the PC of word 0 (R211, R389). -/
def fetchTrap (c : Cause) (a : DWord) (mask : Mask) : TrapInfo :=
  { cause := c, addr := if c.isAddress then a else 0, lanes := some mask
    addrs := if c.isAddress then (Mask.lanes mask).map fun i => (i, a) else [] }

/-- A buffered line of a core (R211), by ASID and line number. -/
def fetchKey (asid va : Nat) : Nat := asid * 2 ^ 57 + va / 128

/-- The line of an address read through its home slice, with its poisoned words (R406). -/
def State.readLine (s : State) (dpa : Nat) : FetchLine :=
  { bytes := (List.range 128).map fun i => BitVec.ofNat 8 (s.byteNow (dpa / 128 * 128 + i))
    poison := (List.range 32).filter fun i => (s.poisonOf (dpa / 128 * 128 + 4 * i) 4).isSome }

/-- The word of a line at an address. -/
def FetchLine.word (l : FetchLine) (va : Nat) : Word :=
  let b (i : Nat) : Byte := (l.bytes[va % 128 + i]?).getD 0
  b 3 ++ b 2 ++ b 1 ++ b 0

/-- Whether the word of a line at an address is poisoned. -/
def FetchLine.bad (l : FetchLine) (va : Nat) : Bool := l.poison.contains (va % 128 / 4)

/-- One word of an instruction (R211): translated with the checks of a fetch, taken from the core's buffers where they hold its line,
which is otherwise read whole and kept. A poisoned word raises UE_FETCH wherever it is taken from (R392, R406). -/
def State.fetchWord (s : State) (gid : Nat) (g : Group) (a : DWord) (mask : Mask) : Fetched :=
  let core := coreOf gid
  if !canonical a then .fail (fetchTrap .addrNoncanonical a mask) s
  else if windowOf a != .global then .fail (fetchTrap .addrWindow a mask) s
  else match s.translate { asid := g.asid, sup := g.sup, cache := some core, pv := false } .fetch a.toNat with
    | (.fail c _, s1) => .fail (fetchTrap c a mask) s1
    | (.ok dpa _ _, s1) => match s1.gateCheck (bhOf gid) (dpa / 2 ^ 16) 1 with
      | some c => .fail (fetchTrap c a mask) s1
      | none =>
        let key := fetchKey g.asid a.toNat
        let take (l : FetchLine) (s : State) : Fetched :=
          if l.bad a.toNat then .fail (fetchTrap .ueFetch a mask) s else .words [l.word a.toNat] s
        match Table.find (s1.core core).fetch key with
        | some l => take l s1
        | none =>
          if !dpaPopulated dpa then .fail (fetchTrap .ueFetch a mask) (s1.holeCheck dpa 0)
          else take (s1.readLine dpa) (s1.modCore core fun c => { c with fetch := Table.set c.fetch key (s1.readLine dpa) })

/-- `n` words from an address, or the first trap. -/
def State.fetchWords (s : State) (gid : Nat) (g : Group) (mask : Mask) : Nat → DWord → Fetched
  | 0, _ => .words [] s
  | n + 1, a => match s.fetchWord gid g a mask with
    | .fail t s1 => .fail t s1
    | .words ws s1 => match s1.fetchWords gid g mask n (a + 4) with
      | .fail t s2 => .fail t s2
      | .words vs s2 => .words (ws ++ vs) s2

/-- All the words of the instruction at a slot's PC (R211): LEN and OP of word 0 say how many. -/
def State.fetchInstr (s : State) (gid : Nat) (g : Group) (slot : Bool) : Fetched :=
  let p := g.pc slot
  match s.fetchWord gid g p.pc p.mask with
  | .fail t s1 => .fail t s1
  | .words ws s1 => match s1.fetchWords gid g p.mask (wordCount (wordAt ws 0) - 1) (p.pc + 4) with
    | .fail t s2 => .fail t s2
    | .words vs s2 => .words (ws ++ vs) s2

/-- Whether a handler's first word can be entered (R388): a global page with S = 1 and X = 1 that can be fetched. -/
def State.handlerOk (s : State) (gid : Nat) (g : Group) (vec : DWord) : Bool :=
  let via : Via := { asid := g.asid, sup := true, cache := some (coreOf gid), pv := false }
  canonical vec && windowOf vec == .global && bit (s.ctx g.asid).ptRoot.toNat 0
    && match s.leafFor via vec.toNat with
      | .entry e level _ =>
        let dpa := leafDpa e level vec.toNat
        bit e 63 && leafX e && leafS e && (leafCheck via .fetch e level vec.toNat).isNone
          && (s.gateCheck (bhOf gid) (dpa / 2 ^ 16) 1).isNone
          && (match Table.find (s.core (coreOf gid)).fetch (fetchKey g.asid vec.toNat) with
            | some l => !l.bad vec.toNat
            | none => dpaPopulated dpa && (s.poisonOf dpa 4).isNone)
      | .format => false

/-- The address that a vector register of a context names (R69, R388). -/
def vectorAddr (r : DWord) : DWord := BitVec.ofNat 64 (bits r.toNat 55 2 * 4)

/-- y0 at trap entry (R389). -/
def trapWord (t : TrapInfo) (slot : Bool) : DWord :=
  BitVec.ofNat 64 (t.cause.code.toNat + bitAt t.deferred 8 + bitAt slot 9 + bitAt t.segment.isSome 10
    + t.lane % 256 * 2 ^ 16 + (t.segment.getD 0).toNat * 2 ^ 24)

/-- z0 to z15 at trap entry (R389): address and kind in the lanes that have one, zero in every other handler lane;
lanes that are no handler lanes keep theirs. -/
def trapBank (t : TrapInfo) (lanes : Mask) (z : Vector (Lanes Word) 16) : Vector (Lanes Word) 16 :=
  Vector.ofFn fun r => Lanes.of fun i =>
    if !lanes.getLsbD i then (z[r]).lane i
    else match t.addrs.find? fun a => a.1 == i with
      | some (_, a) => if r.val == 0 then a.extractLsb' 0 32 else if r.val == 1 then a.extractLsb' 32 32
        else if r.val == 2 then t.kind.setWidth 32 else 0
      | none => 0

/-- TrapEntry of R389 for a slot, with the handler at `vec`. -/
def Group.enter (g : Group) (slot : Bool) (t : TrapInfo) (vec : DWord) : Group :=
  let p := g.pc slot
  let lanes := t.lanes.getD p.mask
  let resume := t.resume.getD p.pc
  let saved : HandlerState :=
    { resumePc := resume, mask := p.mask, sig := p.sig, slot := slot, segment := t.segment.getD 0 }
  let y := Vector.ofFn fun (i : Fin 8) =>
    match i.val with
    | 0 => trapWord t slot
    | 1 => t.pc.getD p.pc
    | 2 => t.arg
    | 3 => t.addr
    | 4 => resume
    | _ => g.y[i]
  { g.setPc slot { p with mask := lanes, sig := 0xFFFFFFFF, pc := vec, segment := none, swept := none, waiting := false } with
    saved := saved, y := y, z := trapBank t lanes g.z, zFull := BitVec.allOnes 16, hnd := true, idem := false, wait := .none
    regPoison := g.regPoison.filter fun e => decide (e.1 < 256) }

/-- A register marked full or empty, by the number of `Group.named`. -/
def Group.mark (g : Group) (n : Nat) (full : Bool) : Group := g.wrReg n { g.rdReg n with full := full }

/-- The registers that a destination names, as `Group.named` numbers them. -/
def Dest.regs (d : Dest) : List Nat :=
  match d with
  | .vec n ty => if tyPair ty.toNat then [n, n + 1] else [n]
  | _ => []

/-- The scalar registers that a destination names. -/
def Dest.scalars (d : Dest) : List Nat :=
  match d with
  | .scalar n _ => [n.toNat]
  | _ => []

/-- A trap delivered to the plex (R387): one whose saved PC lies past its instruction leaves the slot there, with its argument in
y2, so that the plex resumes it after the instruction (R239). -/
def State.toPlex (s : State) (gid : Nat) (slot : Bool) (t : TrapInfo) : State :=
  (match t.resume with
    | some a => s.modGroup gid fun g => { g.modPc slot fun p => { p with pc := a, segment := none } with y := g.y.set 2 t.arg }
    | none => s).plexWait gid t.cause

/-- The handler that a context's vector register names is entered, or TRVEC_FORM goes to the plex (R388, R389). -/
def State.vectorTo (s : State) (gid : Nat) (slot : Bool) (t : TrapInfo) (vec : DWord) : State :=
  match s.group? gid with
  | none => s
  | some g =>
    if s.handlerOk gid g vec then
      { s.setGroup gid (g.enter slot t vec) with
        pends := s.pends.map fun p =>
          if p.gid == gid && p.dest.regs.any (fun n => decide (256 ≤ n)) then { p with dest := .none } else p }
    else s.toPlex gid slot { t with cause := .trvecForm }

/-- A destination is marked full again, with the value it had (R405). -/
def Group.restoreDest (g : Group) (d : Dest) : Group :=
  let g1 := d.regs.foldl (fun g n => g.mark n true) g
  { g1 with scalarBusy := g1.scalarBusy.filter fun n => !d.scalars.contains n }

/-- A restart begins (R405): issue stops, and the data of loads issued in the region are discarded; their
destinations are full and keep their values. An instruction that waited in its slot is given up. -/
def State.beginRestart (s : State) (gid : Nat) (c : Cause) : State :=
  let mine := s.pends.filter fun p => p.gid == gid && p.idem
  let s1 := s.modGroup gid fun g =>
    { mine.foldl (fun g p => g.restoreDest p.dest) g with wait := .restart c, waitSince := s.cyc (coreOf gid), waitClock := s.clock }
  { s1 with pends := (s1.pends.filter fun p => !(p.gid == gid && p.hold)).map fun p =>
      if p.gid == gid && p.idem then { p with dest := .none } else p }

/-- An X cause (R405): a restart where a region is open, and the plex otherwise; either way its suspicion counts. -/
def State.uncorrectable (s : State) (gid : Nat) (c : Cause) : State :=
  match s.group? gid with
  | none => s
  | some g => if g.idem then s.beginRestart gid c else (s.suspect (coreOf gid) c.suspicion).plexWait gid c

/-- The end of a restart (R405). -/
def State.finishRestart (s : State) (gid : Nat) (g : Group) (c : Cause) : State :=
  let s1 := s.suspect (coreOf gid) c.suspicion
  if g.restarts == 2 then
    (s1.modGroup gid fun g => { g with y := g.y.set 1 g.idemPc }).plexWait gid .silentErrorPersistent
  else
    s1.modGroup gid fun g =>
      let back (p : PcSlot) : PcSlot :=
        if p.live then { p with pc := g.idemPc, sig := g.idemSig, segment := none, waiting := false } else p
      { g with slot0 := back g.slot0, slot1 := back g.slot1, draws := g.idemDraws, restarts := g.restarts + 1
               wait := .none }

/-- Whether a cause is a page fault that R69 sends to the plex in handler mode (R390). -/
def Cause.isPage (c : Cause) : Bool := c == .pageFault || c == .pageAbsent || c == .pageCow

/-- A trap taken by a slot of a group, delivered as R387 to R390 give. The instruction does not retire, a `trap` or `brk` whose saved
PC lies past it neither: it does not count in its team's retired instructions (log 140). -/
def State.takeTrap (s : State) (gid : Nat) (slot : Bool) (t : TrapInfo) : State :=
  match s.group? gid with
  | none => s
  | some g =>
    if g.hnd then
      if t.cause.isPage then s.plexWait gid t.cause
      else
        let s1 := s.suspect (coreOf gid) t.cause.suspicion
        (s1.modGroup gid fun g => { g with y := g.y.set 2 (t.cause.code.setWidth 64) }).plexWait gid .handlerNest
    else match t.cause.delivery with
      | .handler | .deferred =>
        let v := (s.ctx g.asid).trVec
        if v.getLsbD 63 then s.vectorTo gid slot t (vectorAddr v) else s.toPlex gid slot t
      | .firstTouch =>
        if t.first then s.vectorTo gid slot t (vectorAddr (s.ctx g.asid).ftVec) else s.plexWait gid t.cause
      | .restart => s.uncorrectable gid t.cause
      | _ => s.plexWait gid t.cause

/-- A failure known after issue (R29) becomes pending on its group; the oldest is first. -/
def State.defer (s : State) (gid : Nat) (p : Pending) : State :=
  s.modGroup gid fun g => { g with deferred := g.deferred ++ [p] }

/-- The trap of a pending deferred failure (R29, R389): y3 holds its lane's address, which for an address cause that lane
receives too. -/
def Pending.trap (p : Pending) (mask : Mask) (segment : Option (BitVec 12)) : TrapInfo :=
  { cause := p.cause, lane := p.lane, addr := p.addr, lanes := some mask
    addrs := if p.cause.isAddress then [(p.lane, p.addr)] else [], kind := p.kind, deferred := true, pc := some p.pc
    segment := segment }

/-- A consumed uncorrectable error is pending until the group's next boundary (R393, R406). -/
def State.consume (s : State) (gid : Nat) (p : Option Cause) : State :=
  match p with
  | none => s
  | some l => s.modGroup gid fun g => { g with consumed := g.consumed ++ [l] }

/-- An instruction that reads lanes of registers: a poisoned word among them is consumed (R83, R406; log 131). -/
def State.readRegs (s : State) (g : Group) (regs : List Nat) (m : Mask) (c : Cause) (r : Res) : Res :=
  if g.poisonIn (regs.map g.named) m then r.andThen fun s1 => .ok (s1.consume s.cur (some c)) else r

/-- CheckTarget of R233. -/
def targetOk (a : DWord) : Bool := a.toNat % 4 == 0 && canonical a && windowOf a == .global

/-- What every exit from handler mode does (R64): supervisor translations go. -/
def State.leaveHandler (s : State) (gid : Nat) : State :=
  s.modGroup gid fun g => { g with t := g.t.map fun t => if t.s then { t with v := false } else t, hnd := false }

/-- What an end of handler mode by `eret` does (R64, R211, R391): the core's fetch buffers are emptied too. -/
def State.endHandler (s : State) (gid : Nat) : State :=
  (s.leaveHandler gid).modCore (coreOf gid) fun c => { c with fetch := [] }

/-- The slot that `eret` resumes (R391): y0.SLOT. -/
def Group.savedSlot (g : Group) : Bool := g.y[0].getLsbD 9

/-- The sweep segment that `eret` resumes at: y0.SEGMENT when SEGV = 1 and y4 is the sweep's PC (R391). -/
def Group.resumeSegment (g : Group) : Option (BitVec 12) :=
  if g.y[0].getLsbD 10 && g.y[4] == g.saved.resumePc then some (g.y[0].extractLsb' 24 12) else none

/-- The return of R391, once y4 has passed CheckTarget. -/
def State.returnFromTrap (s : State) (gid : Nat) : State :=
  (s.modGroup gid fun g =>
    g.modPc g.savedSlot fun p =>
      { p with pc := g.y[4], mask := g.saved.mask, sig := g.saved.sig, segment := g.resumeSegment, waiting := false }).endHandler gid

/-- Whether the team of a group is in deterministic mode (R166). -/
def State.detmOf (s : State) (g : Group) : Bool :=
  match s.team? g.team with
  | some t => t.detm
  | none => false

/-- Whether a wait ends only by the plex, a restart or a release of a cut (R69, R387, R398, R405). -/
def Wait.blocks (w : Wait) : Bool :=
  match w with
  | .plex _ | .restart _ | .cutStop => true
  | _ => false

/-- One instruction counted as retired by a slot (R162, R440): its ready age restarts, its waits are over. -/
def State.retired (s : State) (gid : Nat) (slot : Bool) : State :=
  match s.group? gid with
  | none => s
  | some g =>
    let s1 := s.setGroup gid { g.modPc slot fun p => { p with age := s.tick } with
      wait := if g.wait.blocks then g.wait else .none, waitSince := s.cyc (coreOf gid), waitClock := s.clock }
    s1.modTeam g.team fun t => { t with retired := t.retired + 1 }

/-- Retirement of an instruction that moves on to the next (R222): its byte is fed, and the PC passes its words. -/
def State.retire (s : State) (gid : Nat) (slot : Bool) (op : Byte) (words : Nat) : State :=
  (s.modGroup gid fun g => g.modPc slot fun p =>
    { p.feed op with pc := p.pc + BitVec.ofNat 64 (4 * words), segment := none }).retired gid slot

/-- A slot that cannot go on keeps its PC and waits (R154, R162). -/
def State.stalled (s : State) (gid : Nat) (w : Wait) : State :=
  s.modGroup gid fun g => if g.wait == w then g else { g with wait := w, waitSince := s.cyc (coreOf gid), waitClock := s.clock }

/-- What follows the body of an instruction that is no transfer: retirement, a stall or a trap. -/
def finish (gid : Nat) (slot : Bool) (op : Byte) (words : Nat) (r : Res) : State :=
  match r with
  | .ok s => s.retire gid slot op words
  | .stall w s => s.stalled gid w
  | .trap t s => s.takeTrap gid slot t

/-- The current group and its current slot, where the slot is live (log 9). -/
def State.current (s : State) : Option Group :=
  match s.group? s.cur with
  | some g => if (g.pc s.curSlot).live && !g.ended then some g else none
  | none => none

/-- An instruction of `words` words that reads or writes the scalar registers `used` (R256): it waits for a load into
one of them, then runs its body. -/
def State.issueWith (s : State) (op : Byte) (words : Nat) (used : List Nat) (body : Group → State → Res) : Out :=
  match s.current with
  | none => .fault .noGroup
  | some g =>
    if used.any fun n => g.scalarBusy.contains n then .next (s.stalled s.cur .room)
    else .next (finish s.cur s.curSlot op words (body g s))

/-- Scalar registers that a field names. -/
def kindScalars (k : Kind) (v : Byte) : List Nat :=
  match k with
  | .scalar => [v.toNat]
  | .memBase => if v.toNat < 128 then [v.toNat] else []
  | .events => [v.toNat, v.toNat + 1, v.toNat + 2, v.toNat + 3]
  | _ => []

/-- Scalar registers that the fields of an instruction name. -/
def reqScalars (r : Req) (d a b c : Byte) : List Nat :=
  kindScalars r.d d ++ kindScalars r.a a ++ kindScalars r.b b ++ kindScalars r.c c

/-- The frame of an extended form of class A. -/
def State.execA (s : State) (op : Byte) (f : ExtA) (body : Group → State → Res) : Out :=
  s.issueWith op 3 (reqScalars (reqA op.toNat f) f.d f.a f.b f.c) body

/-- The frame of a compact form that stands for an extended form of class A (R212): the body reads the extended
form. -/
def State.execC (s : State) (op : Byte) (f : Word0) (body : ExtA → Group → State → Res) : Out :=
  let x := f.ext op.toNat
  let n := if takesN op.toNat then [f.b.toNat] else []
  s.issueWith op 1 (reqScalars (reqA op.toNat x) x.d x.a x.b x.c ++ n) (body x)

/-- The frame of an extended form of class M. -/
def State.execM (s : State) (op : Byte) (f : ExtM) (body : Group → State → Res) : Out :=
  s.issueWith op 3 (reqScalars (reqM op.toNat f) f.d f.a f.b f.c) body

/-- The frame of a compact form of class M. -/
def State.execCM (s : State) (op : Byte) (_f : Word0) (body : Group → State → Res) : Out := s.issueWith op 1 [] body

/-- A body that changes only its group, or traps. -/
def groupBody (f : Group → Except TrapInfo Group) (g : Group) (s : State) : Res :=
  match f g with
  | .ok g' => .ok (s.setGroup s.cur g')
  | .error t => .trap t s

/-- What a team held or had asked for is released (R167, R449). -/
def State.releaseLeave (s : State) (tid : Nat) : State :=
  match s.team? tid with
  | none => s
  | some t => (s.modTeam tid fun t => { t with held := [], asked := [] }).modBh t.bh fun b =>
      { b with leaveQueue := b.leaveQueue.filter fun e => e.1 != tid }

end Sys2Proof.Machine
end

