-- ==== Sys2Proof/Machine/Barrier.lean ====
section
/-! DEFINITION. The barriers of teams, gangs and partitions and the wait at `detm`, and how they go on when the last group that they
wait for arrives or ends (R236, R249, R347, R362, R363, R440). -/

namespace Sys2Proof.Machine

/-- Barrier `n` of a team. -/
def Team.barrier (t : Team) (n : Nat) : Barrier := t.barriers[n % 16]'(Nat.mod_lt _ (by decide))

/-- Barrier `n` of a team written. -/
def Team.setBarrier (t : Team) (n : Nat) (b : Barrier) : Team :=
  { t with barriers := t.barriers.set (n % 16) b (Nat.mod_lt _ (by decide)) }

/-- A barrier whose episode is complete goes on to the next (R362): every one that takes part has arrived. -/
def Barrier.settle (b : Barrier) (all : List Nat) : Barrier :=
  if !b.arrived.isEmpty && all.all fun i => b.arrived.contains i then { episode := b.episode + 1, arrived := [] } else b

/-- An arrival in a barrier's current episode. -/
def Barrier.arrive (b : Barrier) (i : Nat) : Barrier := { b with arrived := b.arrived ++ [i] }

/-- The groups of a team that have not ended, by index. -/
def State.liveIndices (s : State) (tid : Nat) : List Nat :=
  ((s.groupsOf tid).filter fun e => !e.2.ended).map fun e => e.2.index

/-- The episode in which the group last arrived at barrier `n`, where it has not waited since (R362). -/
def Group.arrivedAt (g : Group) (n : Nat) : Option Nat := g.arrived[n % 16]'(Nat.mod_lt _ (by decide))

/-- That episode written. -/
def Group.setArrived (g : Group) (n : Nat) (e : Option Nat) : Group :=
  { g with arrived := g.arrived.set (n % 16) e (Nat.mod_lt _ (by decide)) }

/-- Barrier `n` of a team brought up to date: groups that have ended are passed over (R236, R362). -/
def State.settleBarrier (s : State) (tid n : Nat) : State :=
  s.modTeam tid fun t => t.setBarrier n ((t.barrier n).settle (s.liveIndices tid))

/-- A group's number in its gang, by GTEAM and GROUP. -/
def State.gangIndex (s : State) (g : Group) : Nat := ((s.team? g.team).map fun t => t.gteam).getD 0 * 128 + g.index

/-- The gang of a group. -/
def State.gangOf (s : State) (g : Group) : Nat := ((s.team? g.team).map fun t => t.gang).getD noGrid

/-- The `gangsync` barrier of a gang brought up to date (R363). -/
def State.settleGang (s : State) (gang : Nat) : State :=
  match s.gangLead gang with
  | none => s
  | some l =>
    let all := ((s.gangGroups gang).filter fun e => !e.2.ended).map fun e => s.gangIndex e.2
    s.modTeam l.1 fun t => { t with gangSync := t.gangSync.settle all }

/-- The groups of a team on one partition that have not ended (R347). -/
def State.partGroups (s : State) (tid core part : Nat) : Table Group :=
  (s.groupsOf tid).filter fun e => !e.2.ended && coreOf e.1 == core && partOf e.1 == part

/-- The end of an episode of `mbar` (R347), where it is due: every group of the team on the partition has arrived, and
none of their operations remains. -/
def State.tryMbar (s : State) (tid core part : Nat) : State :=
  match s.team? tid with
  | none => s
  | some t =>
    let gs := s.partGroups tid core part
    let all := gs.all fun e => t.mbarArrived.any fun a => a.1 == e.2.index
    let idle := !((s.unit core part).ops.any fun o => gs.any fun e => e.1 == o.gid)
    if all && idle then
      let mine := t.mbarArrived.filter fun a => gs.any fun e => e.2.index == a.1
      { s.modTeam tid fun t => { t with mbarArrived := t.mbarArrived.filter fun a => !mine.contains a } with
        pends := s.pends.map fun p => if mine.any fun a => a.2 == p.id then { p with left := 0 } else p }
    else s

/-- Whether a group waits at a `detm`, with its operand, the slot and the words of the instruction (R249). -/
def Group.atDetm (g : Group) : Option (Bool × Bool × Nat) :=
  match g.wait with
  | .detm on slot n => some (on, slot, n)
  | _ => none

/-- What the last arrival at `detm` does to a group that waits there (R249): its `detm` retires, or traps OPERAND_RANGE. -/
def State.endDetm (s : State) (gid : Nat) (slot : Bool) (words : Nat) (ok : Bool) : State :=
  if ok then (s.retire gid slot 0x1B words).modGroup gid fun g => { g with nextSlot := false }
  else s.takeTrap gid slot (TrapInfo.of .operandRange)

/-- What every group that waits at a `detm` does once all have reached one (R249, R440): the mode changes where their operands are
the same, and the first turn is that of the lowest group that has not ended. -/
def State.endDetms (s : State) (tid : Nat) (gs : List (Nat × Group)) (on same : Bool) : State :=
  let first := (s.liveIndices tid).foldl min 127
  let s1 := gs.foldl (fun s e => match e.2.atDetm with
    | some (_, slot, n) => s.endDetm e.1 slot n same
    | none => s) s
  if same then s1.modTeam tid fun t => { t with detm := on, turnGroup := first, turnFresh := true } else s1

/-- A `detm` that every group of the team which has not ended has reached takes effect (R249). -/
def State.settleDetm (s : State) (tid : Nat) : State :=
  let gs := (s.groupsOf tid).filter fun e => !e.2.ended
  match gs.head?.bind fun e => e.2.atDetm with
  | some (on, _, _) =>
    if gs.all fun e => e.2.atDetm.isSome then
      s.endDetms tid gs on (gs.all fun e => (e.2.atDetm.map fun d => d.1) == some on)
    else s
  | none => s

/-- What a group leaves behind when it ends (R236): the barriers of its team and gang, the `mbar` of its partition and a `detm`
that waited for nobody else go on. -/
def State.groupGone (s : State) (gid : Nat) : State :=
  match s.group? gid with
  | none => s
  | some g =>
    let s1 := (List.range 16).foldl (fun s n => s.settleBarrier g.team n) s
    ((s1.settleGang (s.gangOf g)).tryMbar g.team (coreOf gid) (partOf gid)).settleDetm g.team

end Sys2Proof.Machine
end

