-- ==== Sys2Proof/Machine/Operands.lean ====
section
/-! DEFINITION. Operand forms: O and N of the scalar instructions (R229), the B selector and register spans of the
vector instructions (R264, R267), the frame of R266 that every vector instruction runs, and the sweep of R218. -/

namespace Sys2Proof.Machine

/-- Operand O of an extended form (R229). -/
def Group.opO (g : Group) (f : ExtA) : DWord := if f.mod.getLsbD 0 then f.w2.signExtend 64 else g.rdS f.b

/-- Operand N of an extended form (R229). -/
def operandN (f : ExtA) : DWord := f.w2.setWidth 64

/-- Operand N of a compact form: s[B] (R229). -/
def Group.compactN (g : Group) (f : Word0) : DWord := g.rdS (f.b.setWidth 8)

/-- The active mask of R221. -/
def activeMask (g : Group) (slot : Bool) (gn : BitVec 1) (k : BitVec 4) : Mask :=
  (g.pc slot).mask &&& (if gn == 1 then ~~~(g.rdK k.toNat) else g.rdK k.toNat)

/-- The seed of the lane generator (R184, R373): the launch record's, a tender's sequence number, or 0. -/
def State.seedOf (s : State) (g : Group) : DWord :=
  match s.team? g.team with
  | some t => match t.kind with
    | .task _ seq => BitVec.ofNat 64 seq
    | .message _ => 0
    | _ => match Table.find s.grids t.grid with
      | some gr => match gr.taskSeq with
        | some seq => BitVec.ofNat 64 seq
        | none => gr.launch.seed.setWidth 64
      | none => 0
  | none => 0

/-- The global group index of a group (R149). -/
def State.groupIndex (s : State) (g : Group) : Nat :=
  match s.team? g.team with
  | some t => t.index * t.groups + g.index
  | none => g.index

/-- The registers that a vector operand names. -/
def kindRegs (k : Kind) (v : Byte) : List Nat :=
  match k with
  | .vec => [v.toNat]
  | .pair => [v.toNat, v.toNat + 1]
  | .mult m => (List.range m).map fun i => v.toNat + i
  | _ => []

/-- Whether a span of registers passes R152 and R267: inside the block, or in handler mode inside the trap bank. -/
def Group.spanOk (g : Group) (regs : List Nat) : Bool :=
  regs.all fun n => g.regOk n && decide (n < 256) && (!g.hnd || (decide (240 ≤ n) == decide (240 ≤ regs.headD 0)))

/-- Lane `i` of a vector register. -/
def Group.lane32 (g : Group) (n i : Nat) : Word := (g.rdV n).lane.lane i

/-- A 64-bit lane value: the low half in the even register (R7, R265). -/
def Group.lane64 (g : Group) (n i : Nat) : DWord := g.lane32 (n + 1) i ++ g.lane32 n i

/-- What a vector instruction computes from: the fields, the active mask, its operands by lane, its rounding
environment and the lane generator. `b` holds an immediate or a scalar in every lane where the selector says so. -/
structure VEnv where
  f : ExtA
  g : Group
  m : Mask
  slotMask : Mask
  a : Nat → DWord
  b : Nat → DWord
  c : Nat → DWord
  bImm : Bool
  fp : FpEnv
  seed : DWord
  gli : Nat

/-- Draw number `j` that lane `i` takes in this instruction (R184). -/
def VEnv.draw (v : VEnv) (i j : Nat) : Word := rand v.seed (v.gli + i) (v.g.draws.lane i + BitVec.ofNat 64 j)

/-- The result of a vector instruction: lane values, the flags of its active lanes, the draws each lane took and the
magnitudes enqueued to ABSMAX. -/
structure VOut where
  val : Lanes DWord
  flags : Flags
  draws : Nat → Nat
  abs : List Word

/-- The flags of every lane together. -/
def flagsOf (l : Lanes (DWord × Flags)) : Flags := l.toList.foldl (fun a p => a.or p.2) .none

/-- Lane values computed independently in each active lane, ascending; `n` draws for each active lane in stochastic
mode. -/
def VEnv.each (v : VEnv) (n : Nat) (fn : Nat → DWord × Flags) : VOut :=
  let r := Lanes.of fun i => if v.m.getLsbD i then fn i else (0, .none)
  { val := Lanes.of fun i => (r.lane i).1, flags := flagsOf r
    draws := fun i => if v.m.getLsbD i && v.fp.mode == .stochastic then n else 0, abs := [] }

/-- Lane values with no flag and no draw. -/
def VEnv.map (v : VEnv) (fn : Nat → DWord) : VOut := v.each 0 fun i => (fn i, .none)

/-- A lane effect: results, or a trap. -/
abbrev VEff := VEnv → Except TrapInfo VOut

/-- The value of an operand of a kind in lane `i`. -/
def Group.laneOf (g : Group) (k : Kind) (v : Byte) (i : Nat) : DWord :=
  match k with
  | .vec => (g.lane32 v.toNat i).setWidth 64
  | .pair => g.lane64 v.toNat i
  | _ => 0

/-- The second source in lane `i` (R264): a register, a scalar, or IMM32 sign-extended. -/
def Group.secondOf (g : Group) (k : Kind) (f : ExtA) (i : Nat) : DWord :=
  match k with
  | .vec => (g.lane32 f.b.toNat i).setWidth 64
  | .pair => g.lane64 f.b.toNat i
  | .scalar => g.rdS f.b
  | _ => f.w2.signExtend 64

/-- What a source that is not full asks for (R213, R266): with its FE bit a trap, otherwise a wait. -/
inductive SrcCheck where
  | ready | wait | empty
deriving DecidableEq, Repr

/-- The full/empty check of one source. -/
def Group.srcCheck (g : Group) (regs : List Nat) (fe : Bool) : SrcCheck :=
  if regs.all fun n => (g.rdV n).full then .ready else if fe then .empty else .wait

/-- What the checks before an effect answer. -/
inductive Ready where
  | go
  | wait
  | trap (c : Cause)
deriving DecidableEq, Repr

/-- The checks of R266 before an effect, with the order of R393: register numbers, then empty sources in operand
order, then destinations that wait for an outstanding producer. -/
def Group.vecCheck (g : Group) (srcs : List (List Nat × Bool)) (dst : List Nat) : Ready :=
  if !(srcs.all fun p => g.spanOk p.1) || !g.spanOk dst then .trap .regIndexRange
  else match (srcs.map fun p => g.srcCheck p.1 p.2).find? fun c => c != .ready with
    | some .empty => .trap .regEmpty
    | some _ => .wait
    | none => if dst.all fun n => (g.rdV n).full then .go else .wait

/-- A register's active lanes written; the register is full afterwards (R266). -/
def Group.putV (g : Group) (n : Nat) (m : Mask) (new : Nat → Word) : Group :=
  let r := g.rdV n
  (g.wrV n { full := true, lane := Lanes.of fun i => if m.getLsbD i then new i else r.lane.lane i }).cleanReg (g.named n) m

/-- The destination of a vector instruction written (R266): a register, a pair, or a whole mask. -/
def Group.putDest (g : Group) (k : Kind) (d : Byte) (m : Mask) (val : Lanes DWord) : Group :=
  match k with
  | .vec => g.putV d.toNat m fun i => (val.lane i).extractLsb' 0 32
  | .pair => (g.putV d.toNat m fun i => (val.lane i).extractLsb' 0 32).putV (d.toNat + 1) m
      fun i => (val.lane i).extractLsb' 32 32
  | .mask => g.wrK d.toNat (Mask.ofFn fun i => m.getLsbD i && (val.lane i).getLsbD 0)
  | _ => g

/-- The results of a vector instruction written into its group (R266, R184, R144). -/
def Group.putOut (g : Group) (k : Kind) (d : Byte) (m : Mask) (o : VOut) : Group :=
  let g1 := (g.putDest k d m o.val).addFlags o.flags
  { g1 with draws := Lanes.of fun i => g.draws.lane i + BitVec.ofNat 64 (o.draws i), absQueue := g1.absQueue ++ o.abs }

/-- The environment of a vector instruction; a sweep takes CTX_FPCTL anew for each segment (log 116), and
another group's write of it shows at once (log 139). -/
def State.venv (s : State) (g : Group) (r : Req) (f : ExtA) : VEnv :=
  { f := f, g := g, m := activeMask g s.curSlot f.gn f.g, slotMask := (g.pc s.curSlot).mask
    a := g.laneOf r.a f.a, b := g.secondOf r.b f, c := g.laneOf r.c f.c, bImm := r.b == .none
    fp := fpEnv (s.ctx g.asid).fpCtl f.rnd, seed := s.seedOf g, gli := 256 * s.groupIndex g }

/-- The frame of R266 around a lane effect. -/
def vecBody (op : Byte) (f : ExtA) (eff : VEff) (g : Group) (s : State) : Res :=
  let r := reqA op.toNat f
  match g.vecCheck [(kindRegs r.a f.a, f.fe.getLsbD 2), (kindRegs r.b f.b, f.fe.getLsbD 1),
      (kindRegs r.c f.c, f.fe.getLsbD 0)] (kindRegs r.d f.d) with
  | .trap c => .trap (.of c) s
  | .wait => .stall .register s
  | .go =>
    let v := s.venv g r f
    match eff v with
    | .error t => .trap t s
    | .ok o => s.readRegs g (kindRegs r.a f.a ++ kindRegs r.b f.b ++ kindRegs r.c f.c) v.m .uePool
        (.ok (s.setGroup s.cur (g.putOut r.d f.d v.m o)))

/-- A vector instruction in the extended form. -/
def State.execV (s : State) (op : Byte) (f : ExtA) (eff : VEff) : Out := s.execA op f (vecBody op f eff)

/-- A vector instruction in the compact form. -/
def State.execVC (s : State) (op : Byte) (f : Word0) (eff : VEff) : Out := s.execC op f fun x => vecBody op x eff

/-- A register field advanced to a segment of a sweep (R218): `none` where the arithmetic leaves the block or, in
handler mode, crosses between the block and the trap bank, in either direction (log 114). A pair that an odd number of registers takes to an
odd register is that register and the next (log 115). -/
def Group.stepField (g : Group) (k : Kind) (v : Byte) (step : Int) (seg : Nat) : Option Byte :=
  if k.isVec then
    let n := (v.toNat : Int) + seg * step / 4
    if n < 0 || 255 < n || (g.hnd && decide (240 ≤ n) != decide (240 ≤ v.toNat)) then none
    else some (BitVec.ofInt 8 n)
  else some v

/-- Fields of segment `seg` of a vector sweep. -/
def Group.segmentFields (g : Group) (r : Req) (f : ExtA) (lit : DWord) (seg : Nat) : Option ExtA :=
  match g.stepField r.d f.d (stepD lit) seg, g.stepField r.a f.a (stepA lit) seg, g.stepField r.b f.b (stepB lit) seg with
  | some d, some a, some b => some { f with d := d, a := a, b := b, w2 := 0 }
  | _, _, _ => none

/-- A trap of segment `seg` of a sweep carries the segment (R219, R389). -/
def Res.inSegment (r : Res) (seg : Nat) : Res :=
  match r with
  | .trap t s => .trap { t with segment := some (BitVec.ofNat 12 seg) } s
  | x => x

/-- A segment of a sweep done and more to come (R219): the slot stands at a segment boundary. -/
def State.segmentDone (s : State) (gid : Nat) (slot : Bool) (seg : Nat) : State :=
  s.modGroup gid fun g =>
    { g.modPc slot fun p => { p with segment := some (BitVec.ofNat 12 (seg + 1)), age := s.tick } with
      wait := .none, waitSince := s.cyc (coreOf gid), waitClock := s.clock }

/-- The sweep of R218 and R219: one segment at each issue; with COUNT = 0 it performs none, and checks its register numbers
(R220), whose spans are `regs`. -/
def State.sweep (s : State) (op : Byte) (used : List Nat) (regs : Group → List (List Nat)) (w2 : Word) (body : Nat → Group → State → Res) : Out :=
  match s.current with
  | none => .fault .noGroup
  | some g =>
    let n := sweepCount w2
    let seg := match (g.pc s.curSlot).segment with
      | some k => k.toNat
      | none => 0
    if used.any fun r => g.scalarBusy.contains r then .next (s.stalled s.cur .room)
    else if n == 0 then
      .next (if (regs g).all g.spanOk then s.retire s.cur s.curSlot op 5 else s.takeTrap s.cur s.curSlot (.of .regIndexRange))
    else match (body seg g s).inSegment seg with
      | .ok s1 => .next (if seg + 1 < n then s1.segmentDone s.cur s.curSlot seg else s1.retire s.cur s.curSlot op 5)
      | r => .next (finish s.cur s.curSlot op 5 r)

end Sys2Proof.Machine
end

