-- ==== Sys2Proof/Machine/Coherence.lean ====
section
/-! DEFINITION. Messages between the cores and the home slices (R89 to R96, R102, R112, R139, R331): how they are sent,
when a slice may serve one, how it is served, and what its reply does in the core. -/

namespace Sys2Proof.Machine

/-- A request that its home slice has not served yet. -/
def MsgKind.request (k : MsgKind) : Bool :=
  match k with
  | .grant | .fill | .ack | .reply | .objInval _ _ | .amReply => false
  | _ => true

/-- A reply of a home slice about words of memory. -/
def MsgKind.isReply (k : MsgKind) : Bool :=
  match k with
  | .grant | .fill | .ack => true
  | _ => false

/-- A watch, on its way or told to try again (R331). -/
def MsgKind.isWatching (k : MsgKind) : Bool :=
  match k with
  | .watch _ | .watchRetry _ => true
  | _ => false

/-- A load that a redirect entry may send to a helper slice (R115). -/
def MsgKind.isLoad (k : MsgKind) : Bool :=
  match k with
  | .siLoad | .ncLoad | .ownLoad | .gatherLoad => true
  | _ => false

/-- An own request, which asks for registration (R93). -/
def MsgKind.isOwn (k : MsgKind) : Bool :=
  match k with
  | .ownLoad | .ownStore | .ownAtomic => true
  | _ => false

/-- A store whose bytes its core keeps as P until it is performed (R89). -/
def MsgKind.isPending (k : MsgKind) : Bool := k == .ownStore || k == .wtStore

/-- A message about words of memory. -/
def MsgKind.access (k : MsgKind) : Bool :=
  match k with
  | .reply | .objInval _ _ | .amReply => false
  | _ => true

/-- The gate permissions that a request needs (R38, R39): bit 0 RD, bit 1 WR, bit 2 AT. -/
def MsgKind.need (k : MsgKind) : Nat :=
  match k with
  | .ownLoad => 7
  | .ownStore | .ownAtomic | .ncAtomic | .scAtomic => 6
  | .wtStore | .ncStore | .scStore | .scatterStore => 2
  | _ => 1

/-- The access kind that a deferred trap shows (R70, R389). -/
def MsgKind.code (k : MsgKind) : BitVec 2 := if k.isStore then 1 else if k.isAtomic then 2 else 0

/-- Whether a message concerns a word of an access. -/
def Msg.meets (m : Msg) (dpa n : Nat) : Bool :=
  decide (m.dpa / 4 ≤ (dpa + n - 1) / 4) && decide (dpa / 4 ≤ (m.dpa + m.size - 1) / 4)

/-- Under whose address a message's words were translated (R97). -/
def Msg.who (m : Msg) : Who := some (m.asid, m.va.toNat)

/-- A message with nothing but its place. -/
def Msg.at (kind : MsgKind) (core asid dpa va size : Nat) : Msg :=
  { id := 0, kind := kind, origin := kind, core := core, gid := none, slot := false, pc := 0, pend := none, lane := 0
    off := 0, va := BitVec.ofNat 64 va, asid := asid, dpa := dpa, size := size, data := 0, cmp := 0, op := .xchg
    counter := 0, left := false, passed := false, target := none, gen := 0, words := [], tag := none, tagged := false, invals := [], poison := none
    due := 0 }

/-- The generation of the region of a DPA (R110). -/
def State.genOf (s : State) (dpa : Nat) : Nat := (s.bh (bhOfDpa dpa)).gen.toNat / 2 ^ (8 * regionOf dpa) % 256

/-- Whether the region of a DPA is quiesced (R111). -/
def State.quiesced (s : State) (dpa : Nat) : Bool := (s.bh (bhOfDpa dpa)).qReg.getLsbD (regionOf dpa)

/-- The redirect entries of a network interface of a bulkhead (R115). -/
def State.redirects (s : State) (bh ni : Nat) : List Redirect :=
  if ni < 24 then (s.core (24 * bh + ni)).redirects else Table.findD (s.bh bh).engineRedirects ni []

/-- The redirect entries of a network interface written. -/
def State.setRedirects (s : State) (bh ni : Nat) (rs : List Redirect) : State :=
  if ni < 24 then s.modCore (24 * bh + ni) fun c => { c with redirects := rs }
  else s.modBh bh fun b => { b with engineRedirects := Table.set b.engineRedirects ni rs }

/-- The slice to which a network interface sends a load of a line, where that is not the home slice (R115). -/
def redirectTo (ni : Nat) (rs : List Redirect) (l : Nat) : Option Nat :=
  (rs.find? fun r => r.line == l).bind fun r =>
    let k := ni % (r.helpers.length + 1)
    if k == 0 then none else r.helpers[k - 1]?

/-- The entry of a line becomes the one used last (R115). -/
def usedRedirect (rs : List Redirect) (l : Nat) : List Redirect :=
  (rs.filter fun r => r.line == l) ++ rs.filter fun r => r.line != l

/-- A load routed by the network interface of its sender (R115), which holds entries for lines of its own bulkhead. -/
def State.route (s : State) (bh ni dpa : Nat) : Option Nat × State :=
  let rs := s.redirects bh ni
  if bh != bhOfDpa dpa || !(rs.any fun r => r.line == dpa / 128) then (none, s)
  else (redirectTo ni rs (dpa / 128), s.setRedirects bh ni (usedRedirect rs (dpa / 128)))

/-- A message sent by a core to the home slice of its DPA, or to a helper slice, with the core's counter and the region's
generation. -/
def State.send (s : State) (m : Msg) : State :=
  let bh := bhOfCore m.core
  let (dest, s1) := if m.kind.isLoad then s.route bh (if m.kind == .gatherLoad then niGather else m.core % 24) m.dpa else (none, s)
  let (id, s2) := s1.fresh
  let near := m.passed || bh == bhOfDpa m.dpa
  { s2 with net := s2.net ++ [{ m with id := id, origin := m.kind, counter := (s.core m.core).lcc, left := near
                                       passed := near, target := dest, gen := s.genOf m.dpa }] }

/-- The message with a number. -/
def State.msg? (s : State) (id : Nat) : Option Msg := s.net.find? fun m => m.id == id

/-- A message taken away. -/
def State.dropMsg (s : State) (id : Nat) : State := { s with net := s.net.filter fun x => x.id != id }

/-- Whether a message of a core is in flight for a word of an access. -/
def State.inFlight (s : State) (core dpa n : Nat) : Bool :=
  s.net.any fun m => m.core == core && m.kind.access && m.meets dpa n

/-- The bytes of a word that stores in flight of a core write (R89). -/
def State.sentBytes (s : State) (core w : Nat) : BitVec 4 :=
  s.net.foldl (fun b m => if m.core == core && m.origin.isPending && m.kind.access && m.meets (4 * w) 4
    then b ||| bytesOf w m.dpa m.size else b) 0

/-- Whether a request of a group on its way to a word of an access is not performed yet, or its grant has not arrived: what the
group does next to the word must not come before it (R120). With `writes` only stores and atomics count. -/
def State.unperformed (s : State) (writes : Bool) (gid dpa n : Nat) : Bool :=
  s.net.any fun m => m.gid == some gid && (m.kind.request || m.kind == .grant) && !m.origin.isWatching && m.meets dpa n
    && (!writes || m.origin.isStore || m.origin.isAtomic)

/-- Whether an own request of a core is in flight that covers a word (R89). -/
def State.registering (s : State) (core w : Nat) : Bool :=
  s.net.any fun m => m.core == core && m.origin.isOwn && (m.kind.request || m.kind == .grant) && m.meets (4 * w) 4

/-- Whether an earlier message of the same core is in flight for a word of this one, or was told to try again and concerns its
line: one source's requests for one word keep their order, and those that are sent again keep it for a line (R112, R120). -/
def State.behind (s : State) (m : Msg) : Bool :=
  (s.net.takeWhile fun x => x.id != m.id).any fun x => x.core == m.core && x.kind.access
    && (x.meets m.dpa m.size || (x.kind.request && x.dpa / 128 == m.dpa / 128 && (x.held || x.gen != s.genOf x.dpa)))

/-- Whether a grant, a revocation or a forwarded read is on its way for a word of the message (R90, R130). -/
def State.contended (s : State) (m : Msg) : Bool :=
  s.net.any fun x => x.id != m.id && (x.kind == .grant || x.kind == .revoke || x.kind == .forward) && x.meets m.dpa m.size

/-- Whether the home slice may serve a request now (R39, R105, R110 to R112, R130): a write to standing words waits for room for
its records. -/
def State.mayServe (s : State) (m : Msg) : Bool :=
  m.passed && !s.quiesced m.dpa && m.gen == s.genOf m.dpa && !s.behind m && !s.contended m
    && (!(m.origin.isStore || m.origin.isAtomic) || s.captureRoom m.who m.dpa m.size)

/-- A request of a quiesced region, or with an old generation, is held and sent again with the generation then in force
(R111, R112). -/
def State.resend (s : State) (m : Msg) : State :=
  s.setMsg (if m.gen == s.genOf m.dpa then { m with held := true } else { m with held := true, gen := s.genOf m.dpa, target := none })

/-- An acquire turns the untagged V words of a core to I (R89, R127). Replies on their way, which were sent before it,
bring no V words any more: they are only delivered. -/
def State.dropValid (s : State) (core : Nat) : State :=
  { s.modCore core fun c => { c with l1 := Table.drop c.l1 fun _ x => x.st == .valid && x.tag.isNone } with
    net := s.net.map fun m =>
      if m.core == core && ((m.kind == .fill && !m.tagged) || m.kind == .ack) then { m with words := [] } else m
    fabWaits := s.fabWaits.map fun w => if w.msg.core == core && w.msg.kind != .ownLoad then { w with keep := false } else w }

/-- How an element of a type lies in a lane (R305), or in a scalar register (R256). -/
def loadValue (scalar : Bool) (ty raw : Nat) : DWord :=
  match ty with
  | 0 => if scalar then (BitVec.ofNat 8 raw).signExtend 64 else ((BitVec.ofNat 8 raw).signExtend 32).setWidth 64
  | 2 => if scalar then (BitVec.ofNat 16 raw).signExtend 64 else ((BitVec.ofNat 16 raw).signExtend 32).setWidth 64
  | 4 => if scalar then (BitVec.ofNat 32 raw).signExtend 64 else BitVec.ofNat 64 raw
  | _ => BitVec.ofNat 64 raw

/-- A register written in some lanes and marked full, by the number of `Group.named` (R308). -/
def Group.landReg (g : Group) (n : Nat) (m : Mask) (new : Nat → Word) : Group :=
  let r := g.rdReg n
  (g.wrReg n { full := true, lane := Lanes.of fun i => if m.getLsbD i then new i else r.lane.lane i }).cleanReg n m

/-- The destination of a finished access written (R305, R308, R256). -/
def Group.landDest (g : Group) (d : Dest) (m : Mask) (vals : Lanes DWord) : Group :=
  match d with
  | .vec n ty =>
    let v (i : Nat) : DWord := loadValue false ty.toNat (vals.lane i).toNat
    let g1 := g.landReg n m fun i => (v i).extractLsb' 0 32
    if tyPair ty.toNat then g1.landReg (n + 1) m fun i => (v i).extractLsb' 32 32 else g1
  | .scalar n ty =>
    let g1 := g.wrS n (loadValue true ty.toNat (vals.lane 0).toNat)
    { g1 with scalarBusy := g1.scalarBusy.filter fun k => k != n.toNat }
  | .none => g

/-- The pending access with a number. -/
def State.pend? (s : State) (id : Nat) : Option Pend := s.pends.find? fun p => p.id == id

/-- A pending access replaced. -/
def State.setPend (s : State) (p : Pend) : State := { s with pends := s.pends.map fun x => if x.id == p.id then p else x }

/-- An access taken away. -/
def State.dropPend (s : State) (id : Nat) : State := { s with pends := s.pends.filter fun x => x.id != id }

/-- An engine request that has done its work (R134). -/
def State.engineDone (s : State) (id : Nat) (c : Option Cause) : State :=
  { s with engines := s.engines.map fun e => if e.id == id then { e with finished := true, cause := match e.cause with
      | some d => some d
      | none => c } else e }

/-- An access all of whose replies have arrived (R29, R127, R308, R406): its destination is written, unless it
failed; its poison is consumed; its acquire takes effect. -/
def State.land (s : State) (p : Pend) : State :=
  let s1 := s.dropPend p.id
  let s2 :=
    if p.failed then
      s1.modGroup p.gid fun g => { g with scalarBusy := g.scalarBusy.filter fun k => !p.dest.scalars.contains k }
    else if p.dest == .none then s1
    else (s1.modGroup p.gid fun g => g.landDest p.dest p.lanes p.values).consume p.gid p.poison
  let s3 := if p.acq && !p.failed then s2.dropValid (coreOf p.gid) else s2
  match p.ge with
  | some id => s3.engineDone id none
  | none => s3

/-- One reply of an access arrives: `v` is a piece of the value of the message's lane. -/
def State.arrive (s : State) (m : Msg) (v : Nat) (p : Option PoisonLevel) (failed : Bool) : State :=
  match m.pend.bind s.pend? with
  | none => s
  | some q =>
    let cause := p.map fun l => if q.ge.isSome then .ueEngine else l.cause m.core
    let val := q.values.lane m.lane ||| BitVec.ofNat 64 (v * 2 ^ (8 * m.off))
    let q1 := { q with values := q.values.set (m.lane % 256) val (Nat.mod_lt _ (by decide)), left := q.left - 1
                       failed := q.failed || failed, poison := firstOf q.poison cause }
    if q1.left == 0 && !q1.hold then (s.setPend q1).land q1 else s.setPend q1

/-- A failure known after issue (R29): the lowest failing lane of one instruction and cause is kept. -/
def Group.failed (g : Group) (p : Pending) : Group :=
  if g.deferred.any fun q => q.pc == p.pc && q.cause == p.cause then
    { g with deferred := g.deferred.map fun q =>
        if q.pc == p.pc && q.cause == p.cause && decide (p.lane < q.lane) then p else q }
  else { g with deferred := g.deferred ++ [p] }

/-- A failure of an access of the group at a place. -/
def State.deferFailure (s : State) (gid : Nat) (p : Pending) : State := s.modGroup gid fun g => g.failed p

/-- A failure told to the group with a number of its own, wherever it is now (R171, R372): nobody takes it once that has ended. -/
def State.deferTo (s : State) (owner : Nat) (p : Pending) : State :=
  let tell (l : List (Nat × Group)) : List (Nat × Group) := l.map fun g => (g.1, if g.2.uid == owner then g.2.failed p else g.2)
  let away (x : Saved) : Saved := { x with groups := tell x.groups }
  { s with groups := tell s.groups
           saved := s.saved.map fun x => (x.1, away x.2)
           images := s.images.map fun x => (x.1, x.2.map away) }

/-- A V word is dropped silently (R90). -/
def State.dropV (s : State) (core w : Nat) : State :=
  match s.l1 core w with
  | some x => if x.st == .valid then s.dropL1 core w else s
  | none => s

/-- Whether a word of a core waits to be sent whole with the other half of its element of 8 bytes (R119). -/
def State.lazyPair (s : State) (core w : Nat) : Bool :=
  match s.l1 core w with
  | some x => x.unsent == 15 && match x.lazy with
    | some z => z.pair
    | none => false
  | none => false

/-- A word has nothing to send any more. -/
def State.clearLazy (s : State) (core w : Nat) : State :=
  match s.l1 core w with
  | some x => s.setL1 core w { x with lazy := none, unsent := 0 }
  | none => s

/-- The data of a word in a core's L1. -/
def State.l1Data (s : State) (core w : Nat) : Nat :=
  match s.l1 core w with
  | some x => x.data.toNat
  | none => 0

/-- The runs of set bits: the first bit and the length of each. -/
def bitRuns (b : BitVec 4) : List (Nat × Nat) :=
  (List.range 4).filterMap fun i =>
    if b.getLsbD i && (i == 0 || !b.getLsbD (i - 1)) then some (i, ((List.range (4 - i)).takeWhile fun j => b.getLsbD (i + j)).length)
    else none

/-- The bytes of a word of a core that were stored and not sent go to the home slice (R89): a message for each run of them,
or one for both halves of an element of 8 bytes; written through, or as an own store where one is among them. -/
def State.flushWord (s : State) (core w : Nat) : State :=
  match s.l1 core w with
  | none => s
  | some x => match x.lazy with
    | none => s
    | some z =>
      let msg (s : State) (dpa va n v : Nat) : State :=
        s.send { Msg.at (if z.own then .ownStore else .wtStore) core z.asid dpa va n with
          gid := some z.gid, slot := z.slot, pc := z.pc, data := BitVec.ofNat 64 v }
      let lo := w / 2 * 2
      if s.lazyPair core lo && s.lazyPair core (lo + 1) then
        msg ((s.clearLazy core lo).clearLazy core (lo + 1)) (4 * lo) (z.va - 4 * (w - lo)) 8
          (s.l1Data core lo + s.l1Data core (lo + 1) * 2 ^ 32)
      else
        (bitRuns x.unsent).foldl (fun s r => msg s (4 * w + r.1) (z.va + r.1) r.2 (x.data.toNat / 2 ^ (8 * r.1) % 2 ^ (8 * r.2)))
          (s.clearLazy core w)

/-- Own stores that waited for a registration which is over are sent (R89). -/
def State.flushOwn (s : State) (core : Nat) (words : List Nat) : State :=
  words.foldl (fun s w =>
    if ((s.l1 core w).bind fun x => x.lazy).elim false (fun z => z.own) && !s.registering core w then s.flushWord core w else s) s

/-- The set of a line in an L1 (R87): 256 sets of 16 ways; which lines share one is the model's choice (log 101). -/
def l1Set (l : Nat) : Nat := l % 256

/-- The other lines that an L1 holds in the set of a line (R87). -/
def State.l1Mates (s : State) (core l : Nat) : List Nat :=
  (((s.core core).l1.map fun e => e.1 / 32).filter fun m => l1Set m == l1Set l && m != l).eraseDups

/-- An O word leaves the L1 (R89): it returns to its home slice with its registration. One of a peer device, which holds nothing
that the peer lacks (R141), is only dropped. -/
def State.leaveWord (s : State) (core w : Nat) : State :=
  if s.owner w == some core then s.handBack core w else s.dropL1 core w

/-- A P word whose line is evicted: it goes once it is performed (R89). -/
def State.markLeaving (s : State) (core w : Nat) : State :=
  match s.l1 core w with
  | some x => if x.st == .pend then s.setL1 core w { x with leaving := true } else s
  | none => s

/-- A line of a core's L1 evicted (R89): V words are dropped silently, O words return with their registration, and P words are
sent to be performed, and then dropped. A word whose grant is on its way stays until that has arrived (R90). -/
def State.evictL1 (s : State) (core line : Nat) : State :=
  let ws := wordsOfLine line
  let s1 := ws.foldl (fun s w => s.dropV core w) s
  let s2 := ws.foldl (fun s w => if s.ownsAll core (4 * w) 4 && (s.grantFor core w).isNone then s.leaveWord core w else s) s1
  ws.foldl (fun s w => (s.flushWord core w).markLeaving core w) s2

/-- Room for a line in the 16 ways of its set in an L1 (R87): a line is evicted for it whose words are all performed. Where
every line of the set has a P word, one begins to leave, and there is no room yet. Among equals the model takes the first
(log 101). -/
def State.l1Room (s : State) (core l : Nat) : Bool × State :=
  let mates := s.l1Mates core l
  if mates.length < 16 || (s.core core).l1.any fun e => e.1 / 32 == l then (true, s)
  else
    let done (m : Nat) : Bool := !((s.core core).l1.any fun e => e.1 / 32 == m && e.2.st == .pend) && !s.inFlight core (128 * m) 128
    match mates.find? done with
    | some v => (true, s.evictL1 core v)
    | none => (false, mates.head?.elim s fun v => s.evictL1 core v)

/-- A store of a P word is over (R89): the word keeps as P the bytes that other stores in flight wrote, or that were not
sent; where there are none, it becomes V with the slice's data, or I where there are none. A V copy of the other half of
its aligned 8 bytes that is older than these data is dropped, so that no element is read in parts of two writes (R119). `poison` is
that of the word as the slice holds it: a store of some of its bytes leaves it (R406). -/
def State.endPending (s : State) (core : Nat) (words : List Nat) (data : Table Word) (poison : Option PoisonLevel) : State :=
  words.foldl (fun s w => match s.l1 core w with
    | some x =>
      let live := x.unsent ||| s.sentBytes core w
      if x.st != .pend then s
      else if live != 0 then s.setL1 core w { x with bytes := x.bytes &&& live }
      else if x.leaving then s.dropL1 core w
      else match Table.find data w with
        | some d =>
          let other := if w % 2 == 0 then w + 1 else w - 1
          let s1 := if (Table.find data other).isSome then s else s.dropV core other
          s1.setL1 core w { x with st := .valid, data := d, bytes := 15, unsent := 0, lazy := none, tag := none, poison := poison }
        | none => s.dropL1 core w
    | none => s) s

/-- A refused request (R29, R40, R46, R100): it changes nothing at the slice, and its failure reaches the group. -/
def State.refuseMsg (s : State) (m : Msg) (c : Cause) : State :=
  let ws := wordsOf m.dpa m.size
  let s1 := ((s.dropMsg m.id).endPending m.core ws [] none).flushOwn m.core ws
  let s2 := match m.gid with
    | some gid => s1.deferFailure gid
        { cause := c, pc := m.pc, lane := m.lane, addr := m.va, kind := m.origin.code : Pending }
    | none => s1
  s2.arrive m 0 none true

/-- Poison of the words of a message as it reaches the requester (R41, R406). -/
def State.poisonFor (s : State) (m : Msg) : Option PoisonLevel :=
  PoisonLevel.across (s.poisonOf m.dpa m.size) (bhOfCore m.core) (bhOfDpa m.dpa)

/-- The slice that a message goes to, or comes from. -/
def State.sliceOf (s : State) (m : Msg) : Nat := m.target.getD (s.homeSlice m.dpa)

/-- A message turned into its reply, with the slice's counter (R96); it follows the replies sent before (R90). -/
def State.answer (s : State) (m : Msg) : State :=
  { s with net := (s.net.filter fun x => x.id != m.id) ++ [{ m with counter := s.lcsOf (bhOfDpa m.dpa) (s.sliceOf m) }] }

/-- Whether a reply is the first on its way from its slice to its core: the reply network keeps their order (R90). -/
def State.firstReply (s : State) (m : Msg) : Bool :=
  !((s.net.takeWhile fun x => x.id != m.id).any fun x => x.core == m.core && x.kind.isReply
    && bhOfDpa x.dpa == bhOfDpa m.dpa && s.sliceOf x == s.sliceOf m)

/-- The words of a line that the home slice holds itself, unpoisoned: those that a fill brings along (R89). -/
def State.lineWords (s : State) (dpa : Nat) : Table Word :=
  ((List.range 32).map fun i => dpa / 128 * 32 + i).filterMap fun w =>
    if (s.owner w).isNone && (Table.find s.poison w).isNone && dpaPopulated (4 * w) then some (w, s.homeWord w) else none

/-- The slices that take replicas of a hot line (R114): those that hold fewer than 1,536. -/
def State.helpersFor (s : State) (dpa : Nat) : List Nat :=
  let k := s.homeSlice dpa
  ((List.range 3).map fun j => (k + 4 * (j + 1)) % 16).filter fun h =>
    decide ((s.lines.filter fun e => bhOfDpa (128 * e.1) == bhOfDpa dpa && e.2.helpers.contains h).length < 1536)

/-- A redirect entry installed in a network interface (R115): 64 entries, of which the least recently used goes. -/
def addRedirect (rs : List Redirect) (r : Redirect) : List Redirect := (r :: rs.filter fun x => x.line != r.line).take 64

/-- The network interfaces of a bulkhead (R115): its cores' and its five engines'. -/
def niNumbers : List Nat := List.range 29

/-- The lines that a slice counts reads of (R114), other than one. -/
def State.countedBeside (s : State) (l : Nat) : List (Nat × Line) :=
  s.lines.filter fun e => e.1 != l && !e.2.reads.isEmpty && bhOfDpa (128 * e.1) == bhOfDpa (128 * l)
    && s.homeSlice (128 * e.1) == s.homeSlice (128 * l)

/-- Room in a slice's table of 256 counted lines (R114): the line that was read least recently is counted no longer, where
the spec names none (log 51). -/
def State.countRoom (s : State) (l : Nat) : State :=
  let others := s.countedBeside l
  if others.length < 256 then s
  else
    let last (x : Line) : Nat := x.reads.foldl max 0
    match others.foldl (fun (best : Option (Nat × Line)) e => match best with
        | none => some e
        | some b => if last e.2 < last b.2 then some e else best) none with
    | some e => s.setLine e.1 { e.2 with reads := [] }
    | none => s

/-- A read of a line of a STABLE or FROZEN object counted at its home slice; the 64th within 4,096 network cycles makes the
line hot: replicas go to the helper slices and redirect entries to the network interfaces (R114, R115). -/
def State.countRead (s : State) (dpa obj version : Nat) : State :=
  let l := dpa / 128
  let s1 := s.countRoom l
  let x := s1.line l
  let recent := (x.reads.filter fun t => decide (s.clock < t + 4096)) ++ [s.clock]
  if recent.length < 64 || !x.helpers.isEmpty then
    s1.setLine l { x with reads := recent.drop (recent.length - 64) }
  else
    let hs := s1.helpersFor dpa
    let s2 := s1.setLine l { x with reads := [], helpers := hs, replicaOf := some (obj, version) }
    niNumbers.foldl (fun s ni =>
      s.setRedirects (bhOfDpa dpa) ni (addRedirect (s.redirects (bhOfDpa dpa) ni) { line := l, obj := obj, helpers := hs })) s2

/-- A read at the home slice under an address: one of a STABLE or FROZEN object is counted (R114). -/
def State.noteRead (s : State) (who : Who) (dpa : Nat) : State :=
  match s.objOf who dpa with
  | some (i, o) => if o.st == .stable || o.st == .frozen then s.countRead dpa i o.version else s
  | none => s

/-- A read sent by a network interface of a bulkhead: it is routed (R115), and counted where the home slice serves it (R114). The
answer names the slice that serves it. -/
def State.routedRead (s : State) (bh ni : Nat) (who : Who) (dpa : Nat) : Nat × State :=
  let (dest, s1) := s.route bh ni dpa
  match dest.filter fun k => (s1.line (dpa / 128)).helpers.contains k with
  | some k => (k, s1.holeCheck dpa 0)
  | none => (s1.homeSlice dpa, (s1.noteRead who dpa).holeCheck dpa 0)

/-- A load served by its home slice or a forwarded read (R93, R102): the reply carries the value, and with `keep` the
line's words that the slice holds. -/
def State.serveLoad (s : State) (m : Msg) (keep : Bool) : State :=
  let s0 := s.holeCheck m.dpa 0
  let (v, _) := s0.homeRead m.dpa m.size
  let o := s0.objOf m.who m.dpa
  let ro : Bool := match o with
    | some (_, x) => x.st == .stable || x.st == .frozen
    | none => false
  let s1 := if m.target.isNone then s0.noteRead m.who m.dpa else s0
  let own := (wordsOf m.dpa m.size).map fun w => (w, s0.wordNow w)
  let words := if keep && dpaPopulated m.dpa then
      own.foldl (fun t e => Table.set t e.1 e.2) (s0.lineWords m.dpa) else []
  s1.answer { m with kind := .fill, data := BitVec.ofNat 64 v, words := words, tag := o.map fun e => (e.1, e.2.version)
                     tagged := ro, poison := s0.poisonFor m }

/-- The bytes of an access merged into a word. -/
def mergeWord (old : Word) (w dpa n v : Nat) : Word :=
  let m0 := Memory.store [] (4 * w) 4 old.toNat
  let m1 := (List.range n).foldl (fun m i =>
    if (dpa + i) / 4 == w then Memory.put m (dpa + i) (BitVec.ofNat 8 (v / 2 ^ (8 * i))) else m) m0
  BitVec.ofNat 32 (Memory.load m1 (4 * w) 4)

/-- Bytes that an owner writes in its L1 (R89): `n` bytes at `dpa`. A word written whole loses its poison. -/
def State.writeOwned (s : State) (core dpa n v : Nat) : State :=
  (wordsOf dpa n).foldl (fun s w => match s.l1 core w with
    | some x => s.setL1 core w { x with data := mergeWord x.data w dpa n v
                                        poison := if (wholeWords dpa n).contains w then none else x.poison }
    | none => s) s

/-- What the slice keeps of an owner: a core that owns the word already keeps the stamp of its first grant (R118). -/
def State.ownerEntry (s : State) (core w stamp : Nat) : Nat × Nat :=
  match Table.find s.owners w with
  | some (c, st) => if c == core then (c, st) else (core, stamp)
  | none => (core, stamp)

/-- The requester registered as the owner of the words of a message, and the grant with their data (R92, R93, R96). A word of an
element of 8 bytes that it owns already takes the store when the grant has arrived. -/
def State.register (s : State) (m : Msg) : State :=
  let (stamp, s1) := s.lcsStep m.dpa
  let ws := wordsOf m.dpa m.size
  let data := ws.map fun w =>
    (w, if m.origin.isStore then mergeWord (s1.wordNow w) w m.dpa m.size m.data.toNat else s1.wordNow w)
  let whole := if m.origin.isStore then wholeWords m.dpa m.size else []
  let p := PoisonLevel.across ((ws.filter fun w => !whole.contains w).findSome? fun w => s1.poisonNow w)
    (bhOfCore m.core) (bhOfDpa m.dpa)
  let s2 := data.foldl (fun (s : State) e =>
    { s with home := Memory.store s.home (4 * e.1) 4 e.2.toNat
             owners := Table.set s.owners e.1 (s.ownerEntry m.core e.1 stamp) }) s1
  let s3 := whole.foldl (fun s w => s.setPoison w none) s2
  s3.answer { m with kind := .grant, words := data, poison := p }

/-- A store performed at the home slice, and its acknowledgement with the words as written (R93). -/
def State.serveStore (s : State) (m : Msg) : State :=
  match s.homeWrite m.who m.dpa m.size m.data.toNat with
  | .error c => s.refuseMsg m c
  | .ok s1 =>
    s1.answer { m with
      kind := .ack, poison := s1.poisonFor m
      words := if dpaPopulated m.dpa then (wordsOf m.dpa m.size).map (fun w => (w, s1.wordNow w)) else [] }

/-- An atomic executed at the home slice (R93, R129, R139): the reply carries the old value; one that writes nothing
is no write, and counts only as an SC operation. -/
def State.serveAtomic (s : State) (m : Msg) (sc : Bool) : State :=
  match s.writeRefusal m.who m.dpa with
  | some c => s.refuseMsg m c
  | none =>
    let s1 := s.settleAll m.dpa m.size
    let (old, _) := s1.homeRead m.dpa m.size
    let p := s1.poisonFor m
    let r := { m with kind := .fill, data := BitVec.ofNat 64 old, words := [], poison := p }
    match m.op.apply atomicSum m.size old m.data.toNat m.cmp.toNat with
    | none => (if sc then (s1.lcsStep m.dpa).2 else s1).answer r
    | some new => match s1.homeWrite m.who m.dpa m.size new with
      | .error c => s1.refuseMsg m c
      | .ok s2 => s2.answer r

/-- Whether an own request for these words is served without registering (R93, R331, R53): a standing or watched word,
or a word of a read-only object. -/
def State.unregistered (s : State) (m : Msg) : Bool := s.isStanding m.who m.dpa || s.isWatched m.dpa m.size

/-- A watch at its home slice (R331): it is tested, and stands where its test fails; where the slice holds 1,024, the
lane is told to try again after 256 network cycles. -/
def State.standWatch (s : State) (m : Msg) : State :=
  let s1 := s.settleAll m.dpa m.size
  let w := { m with kind := m.origin }
  let (v, _) := s1.homeRead m.dpa m.size
  let b := bhOfDpa m.dpa
  if w.cond.holds m.size v m.cmp.toNat then
    s1.answer { m with kind := .fill, data := BitVec.ofNat 64 v, words := [], poison := s1.poisonFor m }
  else if ((s1.bh b).watches.filter fun x => s1.homeSlice x.dpa == s1.homeSlice m.dpa).length < 1024 then
    (s1.dropMsg m.id).modBh b fun x => { x with watches := x.watches ++ [w] }
  else s1.setMsg { w with kind := .watchRetry w.cond, due := s.clock + 256 }

/-- An own request registers its sender where the line's set has room (R93, R107), and is performed otherwise as `f`
says. -/
def State.registerOr (s : State) (m : Msg) (f : State → State) : State :=
  let (room, s1) := s.makeRoom (m.dpa / 128)
  if room then s1.register m else f s1

/-- A request whose words no other core owns is performed as its kind asks (R93). -/
def State.perform (s : State) (m : Msg) : State :=
  match m.origin with
  | .siLoad => s.serveLoad m true
  | .ncLoad | .gatherLoad => s.serveLoad m false
  | .ownLoad =>
    if !dpaPopulated m.dpa || s.unregistered m || (s.writeRefusal m.who m.dpa).isSome then s.serveLoad m true
    else s.registerOr m fun s => s.serveLoad m true
  | .ownStore =>
    match s.writeRefusal m.who m.dpa with
    | some c => s.refuseMsg m c
    | none => if !dpaPopulated m.dpa || s.unregistered m then s.serveStore m else s.registerOr m fun s => s.serveStore m
  | .wtStore | .ncStore | .scatterStore | .scStore => s.serveStore m
  | .ownAtomic =>
    match s.writeRefusal m.who m.dpa with
    | some c => s.refuseMsg m c
    | none => if !dpaPopulated m.dpa || s.unregistered m then s.serveAtomic m false
      else s.registerOr m fun s => s.serveAtomic m false
  | .ncAtomic => s.serveAtomic m false
  | .scAtomic => s.serveAtomic m true
  | .scLoad => ((s.settleAll m.dpa m.size).lcsStep m.dpa).2.serveLoad m false
  | .watch _ => s.standWatch m
  | _ => s

/-- Whether a request takes the word from its owner; a plain load only reads it there (R93). -/
def State.takesOwner (s : State) (m : Msg) : Bool :=
  match m.origin with
  | .siLoad | .ncLoad | .gatherLoad => false
  | .ownLoad => !(s.unregistered m || (s.writeRefusal m.who m.dpa).isSome)
  | _ => true

/-- The owners, other than a core, of the words of an access take the slice's counter, and the slice takes theirs with what they
return (R96, R118). -/
def State.ownersMeet (s : State) (core dpa n : Nat) : State :=
  (s.foreignOwned core dpa n).foldl (fun s w => match s.owner w with
    | some c => s.meet c (4 * w)
    | none => s) s

/-- Revoked words return to the home slice, which performs the request that waited for them (R89, R93). -/
def State.revoke (s : State) (m : Msg) : State :=
  if (m.origin.isStore || m.origin.isAtomic) && !s.captureRoom m.who m.dpa m.size then s
  else ((s.foreignOwned m.core m.dpa m.size).foldl (fun s w => s.settle w) s).perform m

/-- A forwarded read: the owners return the value and keep the words (R89, R93). -/
def State.forward (s : State) (m : Msg) : State := (s.ownersMeet m.core m.dpa m.size).perform m

/-- Words granted to a core: they become O (R89). -/
def State.ownWords (s : State) (core : Nat) (words : Table Word) (p : Option PoisonLevel) : State :=
  words.foldl (fun s e => s.setL1 core e.1
    { st := .owned, data := e.2, bytes := 15, unsent := 0, lazy := none, tag := none, poison := p }) s

/-- The value of `n` bytes in the O words of a core. -/
def State.ownedValue (s : State) (core dpa : Nat) : Nat → Nat
  | 0 => 0
  | n + 1 =>
    let b := match s.l1 core (dpa / 4) with
      | some x => x.data.toNat / 2 ^ (8 * (dpa % 4)) % 256
      | none => 0
    b + 256 * s.ownedValue core (dpa + 1) n

/-- An atomic executed in the L1 of the owner (R94): the old value, and the state after it. -/
def State.atomicOwned (s : State) (core dpa n : Nat) (op : AtOp) (x cmp : Nat) : Nat × State :=
  let old := s.ownedValue core dpa n
  match op.apply atomicSum n old x cmp with
  | some new => (old, s.writeOwned core dpa n new)
  | none => (old, s)

/-- An operation performed in the L1 that owns its words (R89, R94). -/
def State.performOwned (s : State) (m : Msg) : State :=
  if m.origin.isAtomic then
    let p := s.l1Poison m.core m.dpa m.size
    let (old, s1) := s.atomicOwned m.core m.dpa m.size m.op m.data.toNat m.cmp.toNat
    s1.arrive m old p false
  else if m.origin.isStore then (s.writeOwned m.core m.dpa m.size m.data.toNat).arrive m 0 none false
  else s.arrive m (s.ownedValue m.core m.dpa m.size) (s.l1Poison m.core m.dpa m.size) false

/-- Whether the L1 can perform a request itself once it owns the words (R89): no SC operation, watch or engine's access, and no
atomic that executes at the home slice (R328). -/
def MsgKind.ownable (k : MsgKind) : Bool :=
  match k with
  | .siLoad | .ncLoad | .ownLoad | .ownStore | .wtStore | .ncStore | .ownAtomic => true
  | _ => false

/-- The requests of a core that no slice has served and whose words it now owns are performed in its L1, in the order in
which they were sent (R89, R120). -/
def State.performWaiting (s : State) (core : Nat) : State :=
  (s.net.foldl (fun (acc : List Msg × State) m =>
    if m.core != core || !(m.kind.request || m.kind == .grant) then acc
    else if m.kind == m.origin && m.kind.ownable && acc.2.ownsAll core m.dpa m.size && !(acc.1.any fun b => b.meets m.dpa m.size) then
      (acc.1, (acc.2.dropMsg m.id).performOwned m)
    else (m :: acc.1, acc.2)) ([], s)).2

/-- A request reaches its slice: it waits, is held (R111, R112), is served from a replica or forwarded to the home slice (R114), is
refused, asks the owners of its words, or is performed (R93, R96). One whose words its own core has come to own never leaves
the L1, which performs it in its turn (R89, R94). -/
def State.serve (s : State) (m : Msg) : State :=
  if m.origin.ownable && s.ownsAll m.core m.dpa m.size && !s.behind m then (s.dropMsg m.id).performOwned m
  else if m.gen != s.genOf m.dpa || s.quiesced m.dpa then s.resend m
  else if !s.mayServe m then s
  else match m.target with
  | some k =>
    if (s.line (m.dpa / 128)).helpers.contains k then
      (s.lcsTakeAt m.dpa k m.counter).serveLoad m (m.origin == .siLoad || m.origin == .ownLoad)
    else s.setMsg { m with target := none }
  | none =>
    let s1 := s.lcsTake m.dpa m.counter
    if (s1.foreignOwned m.core m.dpa m.size).isEmpty then s1.perform m
    else s1.setMsg { m with kind := if s1.takesOwner m then .revoke else .forward }

/-- A grant reaches the L1 (R89, R94): bytes stored since and not sent follow as a store, the words become O, the operation
that asked for them is performed, and then those that waited behind it. An L1 without room for the line, or from which it is
being evicted, returns the words at once (R87). -/
def State.landGrant (s : State) (m : Msg) : State :=
  let s0 := (s.lccTake m.core m.counter).dropMsg m.id
  let (room, s1) := s0.l1Room m.core (m.dpa / 128)
  let leaving := m.words.any fun e => (s1.l1 m.core e.1).elim false fun x => x.leaving
  let s2 := m.words.foldl (fun s e => s.flushWord m.core e.1) s1
  let s3 := s2.ownWords m.core (m.words.filter fun e => !s2.ownsAll m.core (4 * e.1) 4) m.poison
  let s4 := (s3.performOwned m).performWaiting m.core
  if room && !leaving then s4 else m.words.foldl (fun s e => s.leaveWord m.core e.1) s4

/-- 16-bit serial comparison: `a` is newer than `b` (R102). -/
def newer (a b : Nat) : Bool :=
  let d := (a + 65536 - b % 65536) % 65536
  d != 0 && decide (d < 32768)

/-- Whether an L1 retains a fill (R102). -/
def Msg.retained (m : Msg) : Bool :=
  match m.tag with
  | some (o, v) => m.invals.all fun e => e.1 != o || newer v e.2
  | none => true

/-- The words of a fill enter the L1 as V, and the line's other V words become I (R89); P and O words keep theirs. -/
def State.fillWords (s : State) (m : Msg) : State :=
  let own := wordsOf m.dpa m.size
  let (room, s0) := if m.words.isEmpty then (false, s) else s.l1Room m.core (m.dpa / 128)
  if !room then s0
  else
    let s1 := s0.modCore m.core fun c => { c with l1 := Table.drop c.l1 fun w x => x.st == .valid && w / 32 == m.dpa / 128 }
    m.words.foldl (fun s e =>
      let x : L1Word := { st := .valid, data := e.2, bytes := 15, unsent := 0, lazy := none
                          tag := if m.tagged then m.tag else none, poison := if own.contains e.1 then m.poison else none }
      if (s.l1 m.core e.1).isSome then s else s.setL1 m.core e.1 x) s1

/-- The V words of an access become I. -/
def State.dropVs (s : State) (core dpa n : Nat) : State := (wordsOf dpa n).foldl (fun s w => s.dropV core w) s

/-- Fill data, or the value of an operation performed at the slice, reaches the core (R89, R102). An older V copy of its words
becomes I: no later load may go back to it (R124). -/
def State.landFill (s : State) (m : Msg) : State :=
  let s1 := ((s.lccTake m.core m.counter).dropMsg m.id).dropVs m.core m.dpa m.size
  let s2 := if m.retained then s1.fillWords m else s1
  (s2.flushOwn m.core (wordsOf m.dpa m.size)).arrive m m.data.toNat m.poison false

/-- An acknowledgement reaches the core (R89): a P word becomes V, and an older V copy of what was stored becomes I (R124). -/
def State.landAck (s : State) (m : Msg) : State :=
  let ws := wordsOf m.dpa m.size
  ((((((s.lccTake m.core m.counter).dropMsg m.id).dropVs m.core m.dpa m.size).endPending m.core ws m.words m.poison)).flushOwn m.core ws).arrive
    m 0 none false

/-- A reply lands where no earlier one from its slice is still on its way (R90). -/
def State.landWhenFirst (s : State) (m : Msg) (f : State → Msg → State) : State := if s.firstReply m then f s m else s

/-- A message found by its number and kind, and what is done with it; otherwise nothing happens (log 9). -/
def State.onMsg (s : State) (id : Nat) (ok : MsgKind → Bool) (f : Msg → State) : Out :=
  match s.msg? id with
  | some m => if ok m.kind then .next (f m) else .next s
  | none => .next s

/-- Every lazy word of a core written through (R89); what an own store merged into a registration in flight goes with
that. -/
def State.flushCore (s : State) (core : Nat) : State :=
  ((s.core core).l1.filter fun e => e.2.lazy.isSome).foldl (fun s e =>
    if (e.2.lazy.elim false fun z => z.own) && s.registering core e.1 then s else s.flushWord core e.1) s

/-- Whether a P word of a core remains, or a store for which its L1 had no room is not acknowledged (R89, R126). -/
def State.hasPending (s : State) (core : Nat) : Bool :=
  ((s.core core).l1.any fun e => e.2.st == .pend)
    || s.net.any fun m => m.core == core && m.kind.access && m.origin.isPending

/-- A pending access with nothing but its instruction. -/
def Pend.of (id gid : Nat) (slot : Bool) (pc : DWord) (left : Nat) : Pend :=
  { id := id, gid := gid, slot := slot, pc := pc, dest := .none, lanes := 0, values := Lanes.all 0, left := left
    acq := false, sc := false, store := false, ge := none, failed := false, idem := false, poison := none, hold := true, why := .none, cycles := 0
    memory := true }

/-- What a slot's instruction waits for, where it has begun and not retired. -/
def State.held? (s : State) (gid : Nat) (slot : Bool) (pc : DWord) : Option Pend :=
  s.pends.find? fun p => p.hold && p.gid == gid && p.slot == slot && p.pc == pc

/-- A pending access added. -/
def State.addPend (s : State) (p : Pend) : State := { s with pends := s.pends ++ [p] }

/-- An instruction that begins once and waits for its parts: `start` begins it with the number of its pending access,
and answers how many parts it waits for; `done` is its effect when all have arrived. -/
def State.inParts (s : State) (g : Group) (w : Wait) (start : Nat → State → Nat × State) (done : Pend → State → Res) : Res :=
  let pc := (g.pc s.curSlot).pc
  match s.held? s.cur s.curSlot pc with
  | some p => if p.left == 0 then done p (s.dropPend p.id) else .stall w s
  | none =>
    let (id, s1) := s.fresh
    let (n, s2) := start id s1
    let p := { Pend.of id s.cur s.curSlot pc n with why := w }
    if n == 0 then done p s2 else .stall w (s2.addPend p)

end Sys2Proof.Machine
end

