-- ==== Sys2Proof/Machine/Paging.lean ====
section
/-! DEFINITION. Frame descriptors and frame pools (R56 to R60), L2 lines written back and dropped (R117, R118),
shootdown (R66, R67), PT_CMD (R68), and the revocation of pins and mirror windows (R73). -/

namespace Sys2Proof.Machine

/-- A line's dirty data dropped without write-back (R118): it reads as HBM holds it. Poison of dropped data goes with
it; poison of HBM stays. -/
def State.revertLine (s : State) (l : Nat) : State :=
  let s1 := s.settleLine l
  let x := s1.line l
  if x.dirty then
    { s1.setLine l { x with dirty := false } with
      home := Memory.putBytes s1.home (128 * l) (Memory.bytes s1.hbm (128 * l) 128)
      poison := s1.poison.filter fun e => e.1 / 32 != l || e.2 == .hbm }
  else s1

/-- The lines of a frame of which something is known, or whose words have owners. -/
def State.linesOfFrame (s : State) (f : Nat) : List Nat :=
  let a := (s.lines.filter fun e => e.1 / 512 == f).map fun e => e.1
  let b := (s.owners.filter fun e => e.1 / 16384 == f).map fun e => e.1 / 32
  a ++ (b.eraseDups.filter fun l => !a.contains l)

/-- PINS of a frame's descriptor set to the number of its lines that hold a pin (R116). -/
def State.syncPins (s : State) (f : Nat) : State :=
  let n := (s.lines.filter fun e => e.1 / 512 == f && !e.2.pins.isEmpty).length
  let d := s.fd f
  if fdPins d == n then s.fdRead f else (s.fdRead f).setFd f (setBits d 57 48 n)

/-- A PIN_REVOKED record (R73, R379). -/
def State.postPinRevoked (s : State) (asid b page n : Nat) : State :=
  s.postCtx asid b 0x04 Cause.pinRevoked.code.toNat 0 0 page n

/-- The words of a frame leave every L1 (R438): the registered ones return and their data is dropped with the frame's; what a grant
on its way still has to perform is performed first (R90), and no reply on its way brings words of the frame back. -/
def State.dropFrame (s : State) (f : Nat) : State :=
  let s1 := (s.owners.filter fun e => e.1 / 16384 == f).foldl (fun s e => s.settle e.1) s
  { s1 with cores := s1.cores.map fun c => (c.1, { c.2 with l1 := c.2.l1.filter fun e => e.1 / 16384 != f })
            net := s1.net.map fun m => { m with words := m.words.filter fun e => e.1 / 16384 != f } }

/-- A frame freed (R60, R438): its L1 copies and L2 lines go without write-back and its pins are dropped, with one
PIN_REVOKED for each context that pinned it; the page address of that record, which the spec does not give for a frame,
is a free value (log 2). The frame joins its bulkhead's pool. -/
def State.freeFrame (s : State) (f d : Nat) (zr : Bool) : Nat × State :=
  let b := bhOfFrame f
  let s0 := s.dropFrame f
  let s1 := (s0.linesOfFrame f).foldl (fun s l => s.revertLine l) s0
  let pins := (s1.lines.filter fun e => e.1 / 512 == f).flatMap fun e => e.2.pins
  let s2 : State := { s1 with lines := s1.lines.filter fun e => e.1 / 512 != f }
  let s3 := (pins.map fun p => p.1).eraseDups.foldl (fun s a =>
    let (v, s') := s.free
    s'.postPinRevoked a b v.toNat (pins.filter fun p => p.1 == a).length) s2
  let d1 := bitAt zr 60 + bits d 59 59 * 2 ^ 59 + (s.bh b).poolHead * 2 ^ 16
  (d1, (s3.setFd f d1).modBh b fun x => { x with poolCount := (x.poolCount + 1) % 2 ^ 20, poolHead := f })

/-- What FD_CMD answers for a refusal (R60): the STAT code, or none. -/
def fdRefusal (op frame d : Nat) : Option Nat :=
  if !framePopulated frame || 3 < op then some 5
  else match op with
    | 1 => if fdSt d != 1 then some 4 else if fdRef d == 0xFFFF then some 1 else none
    | 2 => if fdSt d != 1 then some 4 else if fdRef d == 0 then some 2 else none
    | 3 => if fdSt d != 1 || fdRef d != 0 then some 3 else none
    | _ => none

/-- FD_CMD of a group (R60). A FRAME that is not populated has no descriptor, and its bits of the result are 0 (log 120). -/
def State.fdCommand (s : State) (gid op frame : Nat) (zf : Bool) : State :=
  let d := if framePopulated frame then s.fd frame else 0
  let s0 := if framePopulated frame then s.fdRead frame else s
  let (st, d1, s1) := match fdRefusal op frame d with
    | some c => (c, d, s0)
    | none => match op with
      | 1 => (0, d + 1, s0.setFd frame (d + 1))
      | 2 =>
        if fdRef d == 1 then
          let (x, s1) := s0.freeFrame frame (d - 1) false
          (0, x, s1)
        else (0, d - 1, s0.setFd frame (d - 1))
      | 3 =>
        let (x, s1) := s0.freeFrame frame d zf
        (0, x, s1)
      | _ => (0, d, s0)
  s1.modGroup gid fun g => { g with fdResult := BitVec.ofNat 64 (setBits (setBits d1 47 39 0) 41 39 st) }

/-- A frame popped from a bulkhead's pool (R59). -/
def State.poolPop (s : State) (b : Nat) : DWord × State :=
  let x := s.bh b
  if x.poolCount == 0 || x.poolHead == 0x7FFFFF then (2 ^ 63, s)
  else
    let f := x.poolHead
    let d := s.fd f
    let n := x.poolCount - 1
    let s1 := ((s.fdRead f).setFd f (2 ^ 61 + bits d 59 59 * 2 ^ 59)).modBh b fun y => { y with poolCount := n, poolHead := fdLink d }
    let s2 := if n < x.poolLow && x.poolLow ≤ x.poolCount then s1.postSup .fpoolLow b n else s1
    (BitVec.ofNat 64 (bits d 60 60 * 2 ^ 60 + f), s2)

/-- `n` frames popped from a pool and given to an engine (R350 step 5, R403, R411). -/
def State.engineFrames (s : State) (b : Nat) : Nat → List Nat × State
  | 0 => ([], s)
  | n + 1 =>
    let (v, s1) := s.poolPop b
    let f := bits v.toNat 22 0
    let (l, s2) := ((s1.fdRead f).setFd f (setBits (s1.fd f) 63 61 3)).engineFrames b n
    (f :: l, s2)

/-- Frames given back to the pool. -/
def State.freeEngineFrames (s : State) (fs : List Nat) : State :=
  fs.foldl (fun s f => ((s.fdRead f).freeFrame f (setBits (s.fd f) 15 0 0) false).2) s

/-- The DPA of an offset into some frames, one after the other. -/
def frameDpa (frames : List Nat) (off : Nat) : Nat := (frames[off / 65536]?).getD 0 * 65536 + off % 65536

/-- Whether two ranges of pages meet. -/
def pagesMeet (a n b m : Nat) : Bool := decide (a < b + m) && decide (b < a + n) && n != 0 && m != 0

/-- Whether a cached translation maps a page of a range (R66). -/
def TlbEntry.inRange (t : TlbEntry) (asid : Option Nat) (first count : Nat) : Bool :=
  (match asid with
    | some a => t.asid == a
    | none => true) && pagesMeet (t.vpn * 2 ^ (10 * t.level)) (2 ^ (10 * t.level)) first count

/-- Whether a cached non-leaf entry maps a page of a range (R66). -/
def TableEntry.inRange (t : TableEntry) (asid : Option Nat) (first count : Nat) : Bool :=
  (match asid with
    | some a => t.asid == a
    | none => true) && pagesMeet (t.vpn * 2 ^ (10 * t.level)) (2 ^ (10 * t.level)) first count

/-- The translation caches without a range (R66). -/
def Cache.drop (c : Cache) (asid : Option Nat) (first count : Nat) : Cache :=
  { leaves := c.leaves.filter fun t => !t.inRange asid first count
    tables := c.tables.filter fun t => !t.inRange asid first count }

/-- A translation register without V where it holds a translation of the range (R66). -/
def TransReg.shoot (t : TransReg) (first count : Nat) : TransReg :=
  if t.v && count != 0 && decide (t.va.toNat / 65536 < first + count) && decide (first ≤ (t.va.toNat + t.limit.toNat) / 65536) then
    { t with v := false }
  else t

/-- Whether the translations of a context carry an address space that a shootdown names (R50, R66). -/
def State.concerns (s : State) (asid : Option Nat) (ctx : Nat) : Bool :=
  match asid with
  | some x => x == s.tagOf ctx
  | none => true

/-- No shootdown but its range. -/
def Shoot.of (asid : Option Nat) (first count : Nat) : Shoot :=
  { id := 0, asid := asid, first := first, count := count, revoke := false, frames := [], cmd := false, holds := [], barrier := []
    gid := none, pend := none }

/-- A range leaves every translation cache and translation register (R66). -/
def State.purge (s : State) (asid : Option Nat) (first count : Nat) : State :=
  { s with
    caches := s.caches.map fun c => (c.1, c.2.drop asid first count)
    groups := s.groups.map fun g =>
      (g.1, if s.concerns asid g.2.asid then { g.2 with t := g.2.t.map fun t => t.shoot first count } else g.2) }

/-- Of the `n` frames from `frame`, which back the pages from `page`, those that hold pins, each with its page. -/
def State.pagesOfPinned (s : State) (page n frame : Nat) : List (Nat × Nat) :=
  ((s.lines.filter fun e => !e.2.pins.isEmpty).map fun e => e.1 / 512).eraseDups.filterMap fun f =>
    if frame ≤ f && decide (f < frame + n) then some (page + f - frame, f) else none

/-- The frames that pages of a range backed for what a shootdown names, as far as the device knows them, each with its page
(R73): those of leaves that some walk has read, and those on which a pin was made at a page of the range (log 43). -/
def State.knownFrames (s : State) (asid : Option Nat) (first count : Nat) : List (Nat × Nat) :=
  let a := (s.leaves.filter fun t => t.inRange asid first count).flatMap fun t =>
    (s.pagesOfPinned (t.vpn * 2 ^ (10 * t.level)) (2 ^ (10 * t.level)) (leafFrame t.entry.toNat)).filter fun p =>
      decide (first ≤ p.1) && decide (p.1 < first + count)
  let b := s.lines.flatMap fun e => (e.2.pins.filter fun p =>
    s.concerns asid p.1 && decide (first ≤ p.2) && decide (p.2 < first + count)).map fun p => (p.2, e.1 / 512)
  (a ++ b).eraseDups

/-- A shootdown begins (R66): the range leaves every translation cache and translation register, lazy words are sent,
and the requests now in flight are those that it waits for. -/
def State.startShoot (s : State) (x : Shoot) : State :=
  let s1 := (s.cores.foldl (fun s c => s.flushCore c.1) s).purge x.asid x.first x.count
  let (id, s2) := s1.fresh
  { s2 with shoots := s2.shoots ++
      [{ x with id := id, barrier := (s2.net.filter fun m => m.kind.request && s.concerns x.asid m.asid).map fun m => m.id }] }

/-- The teams that are written out (R163, R399). -/
def State.savedTeams (s : State) : List (Nat × Team) :=
  (s.saved.flatMap fun x => x.2.teams) ++ s.images.flatMap fun x => x.2.flatMap fun y => y.teams

/-- The teams of a gang that is written out changed. -/
def Saved.mapTeams (x : Saved) (f : Team → Team) : Saved := { x with teams := x.teams.map fun t => (t.1, f t.2) }

/-- Every team changed, resident or written out. -/
def State.mapTeams (s : State) (f : Team → Team) : State :=
  { s with teams := s.teams.map fun t => (t.1, f t.2)
           saved := s.saved.map fun x => (x.1, x.2.mapTeams f)
           images := s.images.map fun x => (x.1, x.2.map fun y => y.mapTeams f) }

/-- MW of a frame set to whether some mirror window covers it (R57, R325). -/
def State.syncMirror (s : State) (f : Nat) : State :=
  let on := (s.teams ++ s.savedTeams).any fun t => t.2.windows.any fun w => w.2.frames.any fun p => p.2 == f
  let d := s.fd f
  if bit d 58 == on then s.fdRead f else (s.fdRead f).setFd f (setBits d 58 58 (if on then 1 else 0))

/-- The pins of what a shootdown names on frames that pages backed are dropped, whatever the address at which they were made,
each dirty line written back, with one PIN_REVOKED for each page (R73). -/
def State.revokePins (s : State) (asid : Option Nat) (frames : List (Nat × Nat)) : State :=
  let mine := fun (p : Nat × Nat) => s.concerns asid p.1
  let hit := s.lines.filter fun e => (frames.any fun f => f.2 == e.1 / 512) && e.2.pins.any mine
  let s1 := hit.foldl (fun s e =>
    let s' := s.writeBackLine e.1
    s'.setLine e.1 { s'.line e.1 with pins := e.2.pins.filter fun p => !mine p }) s
  let who := hit.flatMap fun e => (e.2.pins.filter mine).map fun p =>
    (p.1, ((frames.find? fun f => f.2 == e.1 / 512).map fun f => f.1).getD p.2, bhOfDpa (128 * e.1))
  let s2 := who.eraseDups.foldl (fun s k => s.postPinRevoked k.1 k.2.2 (65536 * k.2.1) (who.filter fun x => x == k).length) s1
  (hit.map fun e => e.1 / 512).eraseDups.foldl (fun s f => s.syncPins f) s2

/-- The mirror windows that cover a page of a range are revoked (R73); a copy to the range that is in flight writes no more,
and ends with WINDOW_REVOKED (R325). -/
def State.revokeMirrors (s : State) (asid : Option Nat) (first count : Nat) : State :=
  let inside := fun (p : Nat × Nat) => decide (first ≤ p.1) && decide (p.1 < first + count)
  let meets := fun (va : DWord) (units : Nat) => pagesMeet (va.toNat / 65536) ((va.toNat % 65536 + 512 * units + 65535) / 65536) first count
  let covers := fun (w : Mirror) => meets w.va w.units
  let frames := ((s.teams ++ s.savedTeams).filter fun t => s.concerns asid t.2.asid).flatMap fun t =>
    t.2.windows.flatMap fun w => if covers w.2 then (w.2.frames.filter inside).map fun p => p.2 else []
  let s1 := s.mapTeams fun t =>
    if s.concerns asid t.asid then
      { t with windows := t.windows.map fun w =>
          (w.1, if covers w.2 then { w.2 with revoked := true, frames := w.2.frames.filter fun p => !inside p } else w.2) }
    else t
  let cut := s1.engines.filter fun r => s.concerns asid r.asid && !r.finished && match r.kind with
    | .mirror va _ units toSpad _ => !toSpad && meets va units
    | _ => false
  frames.eraseDups.foldl (fun s f => s.syncMirror f) (cut.foldl (fun s r => s.engineDone r.id (some .windowRevoked)) s1)

/-- Whether everything that a shootdown waits for has been performed (R66), and no grant is on its way that a write-back of a
pinned line would overtake (R90). -/
def State.shootReady (s : State) (x : Shoot) : Bool :=
  (s.net.all fun m => !(m.kind.request && x.barrier.contains m.id))
    && (!x.revoke || x.frames.all fun f => s.quiet (65536 * f.2) 65536)

/-- The end of a shootdown (R66, R67, R73). -/
def State.finishShoot (s : State) (x : Shoot) : State :=
  let s1 : State := { s.purge x.asid x.first x.count with
    shoots := s.shoots.filter (fun y => y.id != x.id)
    shootGo := if x.cmd then false else s.shootGo
    pends := s.pends.map fun p => if some p.id == x.pend then { p with left := 0 } else p }
  if x.revoke then
    let s2 : State := { s1 with leaves := s1.leaves.filter fun t => !t.inRange x.asid x.first x.count }
    (s2.revokePins x.asid x.frames).revokeMirrors x.asid x.first x.count
  else s1

/-- The DPA of the entry of a level that covers an address, or none where some level above holds no table (R68). -/
def State.entryAt (s : State) (va target : Nat) : Nat → Nat → Option Nat
  | 0, _ => none
  | level + 1, addr =>
    let a := addr + 8 * (va / 2 ^ (16 + 10 * level) % 1024)
    if level == target then some a
    else
      let e := s.loadNow a 8
      if !bit e 63 || bit e 62 || !nonLeafFormat e then none else s.entryAt va target level (bits e 25 0 * 2 ^ 13)

/-- The leaves under a table whose entries stand below a level: the first page, the level and the frame of each (R68, R73). -/
def State.leavesUnder (s : State) : Nat → Nat → Nat → List (Nat × Nat × Nat)
  | 0, _, _ => []
  | level + 1, table, first => (List.range 1024).flatMap fun i =>
    let e := s.loadNow (table + 8 * i) 8
    let page := first + i * 2 ^ (10 * level)
    if !bit e 63 then []
    else if bit e 62 then (if leafFormat e level then [(page, level, leafFrame e)] else [])
    else if nonLeafFormat e then s.leavesUnder level (bits e 25 0 * 2 ^ 13) page
    else []

/-- The frames under an entry that held pins of a context, each with its page (R68, R73). -/
def State.framesUnder (s : State) (asid : Nat) (cur : DWord) (level first : Nat) : List (Nat × Nat) :=
  if !(s.lines.any fun e => e.2.pins.any fun p => s.concerns (some asid) p.1) then []
  else if cur.getLsbD 62 then s.pagesOfPinned first (2 ^ (10 * level)) (leafFrame cur.toNat)
  else (s.leavesUnder level (bits cur.toNat 25 0 * 2 ^ 13) first).flatMap fun x => s.pagesOfPinned x.1 (2 ^ (10 * x.2.1)) x.2.2

/-- Whether PT_NEW may stand at a level (R68). -/
def State.entryOk (s : State) (e level : Nat) : Bool :=
  if !bit e 63 then true
  else if bit e 62 then leafFormat e level && framePopulated (leafFrame e) && fdSt (s.fd (leafFrame e)) == 1
  else level != 0 && nonLeafFormat e

/-- The read of the descriptor of the frame that a new leaf names (R68). -/
def State.entryRead (s : State) (e level : Nat) : State :=
  if bit e 63 && bit e 62 && leafFormat e level && framePopulated (leafFrame e) then s.fdRead (leafFrame e) else s

/-- Whether PT_OLD names the entry in place: A and D are not compared while both are valid (R68). -/
def sameEntry (cur old : DWord) : Bool :=
  let m : DWord := if cur.getLsbD 63 && old.getLsbD 63 then ~~~0x0018000000000000 else BitVec.allOnes 64
  (cur ^^^ old) &&& m == 0

/-- STAT of PT_CMD set. -/
def Group.ptStatus (g : Group) (n : Nat) : Group := { g with ptStat := BitVec.ofNat 3 n }

/-- PT_CMD of a group (R68): the compare and replace, with the shootdown that it starts where the entry was valid; `pend` is what
the end of that shootdown completes, and the group issues nothing until then (R436). Where the root lies outside populated HBM, STAT is NOTABLE, and CTX_PTROOT.EN is not
looked at: both are the model's choice (log 104). -/
def State.ptCommand (s : State) (gid : Nat) (v : DWord) (pend : Option Nat) : State :=
  match s.group? gid with
  | none => s
  | some g =>
    let level := bits v.toNat 1 0
    let va := g.ptVa.toNat
    let root := (s.ctx g.asid).root
    let s0 := s.entryRead g.ptNew.toNat level
    let stat (n : Nat) : State := s.modGroup gid fun g => g.ptStatus n
    if level == 3 then stat 3
    else if bits va 63 55 != 0 then stat 4
    else match if tableOk root then s.entryAt va level 4 root else none with
      | none => stat 2
      | some a =>
        if !s.entryOk g.ptNew.toNat level then s0.modGroup gid fun g => g.ptStatus 3
        else
          let cur := BitVec.ofNat 64 (s.loadNow a 8)
          if !sameEntry cur g.ptOld then s0.modGroup gid fun g => { g.ptStatus 1 with ptOld := cur }
          else
            let s1 := (s0.devWrite a 8 g.ptNew.toNat).modGroup gid fun g => g.ptStatus 0
            if !cur.getLsbD 63 then s1
            else
              let n := 2 ^ (10 * level)
              let gone := !g.ptNew.getLsbD 63 || leafFrame g.ptNew.toNat != leafFrame cur.toNat
                || g.ptNew.getLsbD 62 != cur.getLsbD 62
              let first := va / 65536 / n * n
              s1.startShoot { Shoot.of (some (s.tagOf g.asid)) first n with
                revoke := gone, frames := s1.framesUnder (s.tagOf g.asid) cur level first, holds := [gid], gid := some gid, pend := pend }

/-- The current group's own step of a device-step row that an `mtsys` or `mfsys` makes. -/
def State.onCurrent (s : State) (f : Nat → State) : Out :=
  match s.current with
  | none => .fault .noGroup
  | some _ => .next (f s.cur)

/-- PT_CMD (R68): Compare-and-replace of a page-table entry by mtsys PT_CMD. -/
def execPtCmd (v : DWord) (s : State) : Out := s.onCurrent fun gid => s.ptCommand gid v none

/-- FD_READ (R60): FD_CMD READ returns a frame descriptor. -/
def execFdRead (frame : BitVec 23) (s : State) : Out := s.onCurrent fun gid => s.fdCommand gid 0 frame.toNat false

/-- FD_INC (R60): FD_CMD INC raises a frame's REFCNT. -/
def execFdInc (frame : BitVec 23) (s : State) : Out := s.onCurrent fun gid => s.fdCommand gid 1 frame.toNat false

/-- FD_DEC (R60): FD_CMD DEC lowers REFCNT, freeing the frame at 0. -/
def execFdDec (frame : BitVec 23) (s : State) : Out := s.onCurrent fun gid => s.fdCommand gid 2 frame.toNat false

/-- FD_FREE (R60): FD_CMD FREE frees an unreferenced frame to the pool. -/
def execFdFree (frame : BitVec 23) (zf : Bool) (s : State) : Out :=
  s.onCurrent fun gid => s.fdCommand gid 3 frame.toNat zf

/-- FP_POP (R59): A read of FP_POP pops a frame from the bulkhead's pool into s[D]. -/
def execFpPop (d : BitVec 8) (s : State) : Out :=
  s.onCurrent fun gid =>
    let (v, s1) := s.poolPop (bhOf gid)
    s1.modGroup gid fun g => g.wrS d v

/-- TLB_SHOOT (R67): a write of word 1 keeps COUNT; a write of word 0 with GO = 1 starts a device-wide shootdown. A
GO that finds one in progress is ignored (log 9), and so is a write of word 0 without GO while one runs (log 118). -/
def execTlbShoot (word : Nat) (v : DWord) (s : State) : Out :=
  if word == 1 then .next { s with shoot1 := v &&& 0xFFFFFFFF }
  else
    let v0 : DWord := v &&& 0x60FFFFFFFFFFFFFF
    if s.shootGo then .next s
    else if !v.getLsbD 63 then .next { s with shoot0 := v0 }
    else
      let s1 : State := { s with shoot0 := v0, shootGo := true }
      let asid := if v.getLsbD 61 then none else some (bits v.toNat 55 40)
      let first := bits v.toNat 39 0
      let n := s.shoot1.toNat % 2 ^ 32
      .next (s1.startShoot { Shoot.of asid first n with
        revoke := v.getLsbD 62, frames := s.knownFrames asid first n, cmd := true })

/-- SHOOTDOWN_COMPLETE (R66): The shootdown completes once no cache holds the range and earlier accesses are
performed. -/
def execShootdownComplete (id : Nat) (s : State) : Out :=
  match s.shoots.find? fun x => x.id == id with
  | some x => .next (if s.shootReady x then s.finishShoot x else s)
  | none => .next s

end Sys2Proof.Machine
end

