-- ==== Sys2Proof/Machine/LaneAccess.lean ====
section
/-! DEFINITION. The accesses of one instruction resolved lane by lane (R14, R15, R55, R69, R389), the scratchpads of the
cores (R77, R78, R146), and the accesses that the model performs within one step (log 19). -/

namespace Sys2Proof.Machine

/-- Whether a fault is one of those that the first-touch handler serves (R69). -/
def Cause.isTouch (c : Cause) : Bool := c == .pageFault || c == .pageCow

/-- The trap of the lanes that fail (R15, R69, R389), the lowest first in the list. -/
def laneTrap (kind : BitVec 2) (faults : List (Nat × AddrFault)) : TrapInfo :=
  match faults with
  | [] => TrapInfo.of .addrWindow
  | (l, f) :: _ =>
    let first := f.cause.isTouch && f.level == 0
    let mine := faults.filter fun x => if first then x.2.cause.isTouch else x.2.cause == f.cause
    { cause := f.cause, lane := l, addr := if f.cause.isAddress then f.addr else 0
      lanes := some (Mask.ofFn fun i => mine.any fun x => x.1 == i)
      addrs := if f.cause.isAddress then mine.map fun x => (x.1, x.2.addr) else [], kind := kind, first := first }

/-- The pieces of one lane's element: byte offset, size and place. -/
abbrev Pieces := List (Nat × Nat × Place)

/-- What the lanes of an instruction resolve to: their pieces, or the faults, lowest lane first. -/
structure Resolved where
  ok : List (Nat × Pieces)
  bad : List (Nat × AddrFault)

/-- The lanes of an instruction resolved in ascending order (R15): `go` resolves one lane in a state. -/
def State.resolveLanes (s : State) (go : State → Nat → Except AddrFault Pieces × State) : List Nat → Resolved × State
  | [] => ({ ok := [], bad := [] }, s)
  | i :: t =>
    let (r, s1) := go s i
    let (rest, s2) := s1.resolveLanes go t
    match r with
    | .ok p => ({ rest with ok := (i, p) :: rest.ok }, s2)
    | .error f => ({ rest with bad := (i, f) :: rest.bad }, s2)

/-- The trap of a scalar-pipe access: lane 0 is the only handler lane (R69). -/
def pipeTrap (kind : BitVec 2) (f : AddrFault) : TrapInfo := laneTrap kind [(0, f)]

/-- The scratchpad region of a context on a core (R78). -/
def State.spad (s : State) (core asid : Nat) : Memory := Table.findD (s.core core).spad asid []

/-- The scratchpad region of a context written. -/
def State.setSpad (s : State) (core asid : Nat) (m : Memory) : State :=
  s.modCore core fun c => { c with spad := Table.set c.spad asid m }

/-- The number of a scratchpad word in a core's pool, for its poison (R83). -/
def poolKey (asid off : Nat) : Nat := asid * 2 ^ 24 + off / 4

/-- Bytes read from a scratchpad, and their poison. -/
def State.spadLoad (s : State) (core asid off n : Nat) : Nat × Option PoisonLevel :=
  (Memory.load (s.spad core asid) off n,
    (wordsOf off n).findSome? fun w => Table.find (s.core core).poolPoison (asid * 2 ^ 24 + w))

/-- Bytes written to a scratchpad: a word written whole loses its poison (R406). -/
def State.spadStore (s : State) (core asid off n v : Nat) : State :=
  let s1 := s.setSpad core asid (Memory.store (s.spad core asid) off n v)
  (wholeWords off n).foldl (fun s w =>
    s.modCore core fun c => { c with poolPoison := Table.erase c.poolPoison (asid * 2 ^ 24 + w) }) s1

/-- Whether an access performed within one step can be made now: no message is on its way for its words. -/
def State.nowReady (s : State) (core dpa n : Nat) : Bool :=
  !s.inFlight core dpa n && s.quiet dpa n && !s.quiesced dpa

/-- A byte as the scalar pipe of a core reads it: from its own L1 where that holds it, else the current value. -/
def State.coreByte (s : State) (core dpa : Nat) : Nat :=
  match s.l1 core (dpa / 4) with
  | some x => if x.bytes.getLsbD (dpa % 4) then x.data.toNat / 2 ^ (8 * (dpa % 4)) % 256 else s.byteNow dpa
  | none => s.byteNow dpa

/-- `n` bytes as the scalar pipe of a core reads them. -/
def State.coreLoad (s : State) (core dpa : Nat) : Nat → Nat
  | 0 => 0
  | n + 1 => s.coreByte core dpa + 256 * s.coreLoad core (dpa + 1) n

/-- Whether a core's L1 holds every byte of an access. -/
def State.l1Holds (s : State) (core dpa n : Nat) : Bool :=
  (List.range n).all fun i => (s.l1 core ((dpa + i) / 4)).elim false fun x => x.bytes.getLsbD ((dpa + i) % 4)

/-- A read of the scalar pipe of a core within one step (log 19): from its L1, or at the slice to which its network interface
routes it, whose counter it takes (R89, R96, R114, R115). `via` marks one that reaches the device through its export (R26), which
goes to the home slice. -/
def State.pipeRead (s : State) (core asid dpa va n : Nat) (via : Bool) : Nat × Option Cause × State :=
  let v := s.coreLoad core dpa n
  if s.l1Holds core dpa n then (v, (s.l1Poison core dpa n).map fun l => l.cause core, s)
  else
    let s1 := s.ownersMeet core dpa n
    let (k, s2) := if via then (s1.homeSlice dpa, (s1.noteRead (some (asid, va)) dpa).holeCheck dpa 0)
      else s1.routedRead (bhOfCore core) (core % 24) (some (asid, va)) dpa
    (v, (PoisonLevel.across (s.poisonOf dpa n) (bhOfCore core) (bhOfDpa dpa)).map fun l => l.cause core, s2.meetAt core dpa k)

/-- A global or scratchpad address of a group resolved for the scalar pipe; the private window traps ADDR_WINDOW,
because the scalar pipe is no lane (R256). -/
def State.resolvePipe (s : State) (gid : Nat) (g : Group) (r : Reach) (k : AccessKind) (align : Bool) (a : DWord) (n : Nat) :
    Except AddrFault Pieces × State :=
  if canonical a && windowOf a == .priv then (.error { cause := .addrWindow, addr := a, level := 0 }, s)
  else s.resolve (s.asker gid g) r k align 0 a n


/-- Who translates for an access from outside: the context, without supervisor privilege, through the caches of the fabric
export path or of the host path (R65, R75, R417). -/
def outsideVia (host : Bool) (asid : Nat) : Via :=
  { asid := asid, sup := false, cache := some (if host then hostCache else fabricCache), pv := false }

/-- This device's number in the domain (R416). -/
def State.devId (s : State) : Nat := bits s.fabCfg.toNat 9 0

/-- The port to which the supervisor has assigned a peer (R418, log 8). -/
def State.portOf (s : State) (device : Nat) : Nat := Table.findD s.peerPort device device % 16

/-- The link state of a peer (R418); the device reaches itself without a link (R26). -/
def State.linkOf (s : State) (device : Nat) : PortState :=
  if device == s.devId then .up else s.ports[s.portOf device]'(Nat.mod_lt _ (by decide))

/-- Whether the fabric carries traffic to and from a peer: the gate is enabled (R416), and the link is up (R418). -/
def State.linkUp (s : State) (device : Nat) : Bool := bit s.fabCfg.toNat 63 && s.linkOf device == .up

/-- Who waits for a link (R419): a slot of a group whose instruction reads a record. -/
def pipeKey (gid : Nat) (slot : Bool) : Nat := 2 * (2 * gid + slot.toNat)

/-- Who waits for a link (R419): an engine request. -/
def engineKey (id : Nat) : Nat := 2 * id + 1

/-- Whether the budget of a read that waits for a link has expired (R419). -/
def State.linkLost (s : State) (key : Nat) (pc : DWord) : Bool := s.linkWaits.any fun x => x.key == key && x.pc == pc && x.lost

/-- A read waits for no link any more. -/
def State.linkDone (s : State) (key : Nat) : State := { s with linkWaits := s.linkWaits.filter fun x => x.key != key }

/-- The peer of a piece whose link retrains (R419). -/
def State.retrains (s : State) (p : Pieces) : Option Nat :=
  p.findSome? fun x => match x.2.2 with
    | .fabric d _ => if s.linkOf d == .retraining then some d else none
    | _ => none

/-- A read that cannot be performed now: where a link retrains, its wait for it begins (R419). -/
def State.linkHold (s : State) (key : Nat) (pc : DWord) (p : Pieces) : State :=
  match s.retrains p with
  | none => s
  | some d =>
    if s.linkWaits.any fun x => x.key == key && x.pc == pc && x.device == d then s
    else { s with linkWaits := (s.linkWaits.filter fun x => x.key != key) ++
        [{ key := key, pc := pc, device := d, since := s.clock, lost := false }] }

/-- The context that a tenant exports (R417). -/
def State.exportAsid (s : State) (n : Nat) : Nat := bits (s.fabEntry n) 63 48

/-- The context that the device exports to the tenant of a bulkhead of its own (R26, R416). -/
def State.ownExport (s : State) (bh : Nat) : Option Nat :=
  (s.tenantOf bh).bind fun n => if bit s.fabCfg.toNat 63 && bit (s.fabEntry n) 47 then some (s.exportAsid n) else none

/-- What the export translation of the device answers to an access of its own (R26): the exported context with the DPA and
NC, or a cause. -/
inductive Exported where
  | place (asid dpa : Nat) (nc : Bool) (s : State)
  | refused (c : Cause) (s : State)

/-- An access of a bulkhead to the device itself through the fabric window, translated as a peer's would be (R26, R417). -/
def State.exported (s : State) (bh : Nat) (k : AccessKind) (off : Nat) : Exported :=
  match s.ownExport bh with
  | none => .refused .fabricDevice s
  | some asid => match s.translate (outsideVia false asid) k off with
    | (.fail c _, s1) => .refused c s1
    | (.ok dpa e _, s1) =>
      if (s1.bh (bhOfDpa dpa)).rstPhase != .idle then .refused .windowPeerReset s1 else .place asid dpa (leafNC e) s1

/-- Whether an own access of a core through the fabric window is not performed yet for some byte of a range (R124, R141). -/
def State.fabricBusy (s : State) (core device off n : Nat) : Bool :=
  (s.posted.any fun p => coreOf p.gid == core && p.device == device && !p.lost && overlaps p.offset p.size off n)
    || s.fabWaits.any fun w => w.msg.core == core && w.device == device && overlaps w.msg.dpa w.msg.size off n

/-- Whether every piece of an access can be read within one step: nothing of the core is on its way for it, no page fault
waits for the plex at the export (R75), and no link retrains (R419). -/
def State.piecesReady (s : State) (core : Nat) (p : Pieces) : Bool :=
  p.all fun x => match x.2.2 with
    | .mem dpa _ _ _ => s.nowReady core dpa x.2.1
    | .fabric d off => !s.fabricBusy core d off x.2.1 && (if d == s.devId then
        match s.exported (bhOfCore core) .load off with
        | .place _ dpa _ s1 => s1.nowReady core dpa x.2.1
        | .refused c _ => !c.isPage
      else s.linkOf d != .training && s.linkOf d != .retraining)
    | _ => true

/-- Where an L1 keeps a byte of a peer device that it has loaded (R141): beyond the device's own addresses. -/
def fabricKey (device off : Nat) : Nat := 2 ^ 48 * (device + 1) + off

/-- What a peer answers to a read of a record or of an engine: its data, and whether they are poisoned (R41), or the cause with which
it refuses (R417). All are free values (log 8). -/
def State.peerRead (s : State) (n : Nat) : Except Cause (Nat × Bool) × State :=
  let (v, s1) := s.free
  let (o, s2) := s1.free
  match Cause.ofCode (o.extractLsb' 1 7) with
  | some c => (.error c, s2)
  | none => (.ok (v.toNat % 2 ^ (8 * n), o.getLsbD 0), s2)

/-- What the scalar pipe of a core reads within one step: the value, its poison, the cause of a refusal by a peer (R417), and the state
after it. -/
structure PipeRead where
  value : Nat
  poison : Option Cause
  refused : Option Cause
  after : State

/-- A value read, which nothing refuses. -/
def PipeRead.of (r : Nat × Option Cause × State) : PipeRead := { value := r.1, poison := r.2.1, refused := none, after := r.2.2 }

/-- A piece that the scalar pipe of a core reads within one step. What another device holds is a free value (log 8), where the L1
does not keep it (R141). -/
def State.readPiece (s : State) (core asid : Nat) (x : Nat × Nat × Place) : PipeRead :=
  match x.2.2 with
  | .mem dpa va _ _ => .of (s.pipeRead core asid dpa va x.2.1 false)
  | .spad c off =>
    let (v, l) := s.spadLoad c asid off x.2.1
    .of (v, l.map fun l => l.cause core, s.relay core c)
  | .fabric d off =>
    if d == s.devId then
      match s.exported (bhOfCore core) .load off with
      | .place a dpa _ s1 => .of (s1.pipeRead core a dpa off x.2.1 true)
      | .refused _ s1 => .of (0, none, s1)
    else if s.l1Holds core (fabricKey d off) x.2.1 then
      .of (s.coreLoad core (fabricKey d off) x.2.1, (s.l1Poison core (fabricKey d off) x.2.1).map fun l => l.cause core, s)
    else match s.peerRead x.2.1 with
      | (.ok (v, p), s1) => .of (v, if p then some (PoisonLevel.remote.cause core) else none, s1)
      | (.error c, s1) => { value := 0, poison := none, refused := some c, after := s1 }
  | .multicast _ _ => .of (0, none, s)

/-- The value of an access that the scalar pipe of a core reads within one step. -/
def State.readPieces (s : State) (core asid : Nat) (p : Pieces) : PipeRead :=
  p.foldl (fun acc x =>
    let r := acc.after.readPiece core asid x
    { value := acc.value + r.value * 2 ^ (8 * x.1), poison := firstOf acc.poison r.poison
      refused := firstOf acc.refused r.refused, after := r.after }) (.of (0, none, s))

/-- The refusal of a piece by a gate of another bulkhead's frame (R39, R40), by the device's own export (R26, R417), or by a
link that is down (R419). -/
def State.gateRefusal (s : State) (gid need : Nat) (p : Pieces) : Option Cause :=
  p.findSome? fun x => match x.2.2 with
    | .mem dpa _ _ _ => s.gateCheck (bhOf gid) (dpa / 2 ^ 16) need
    | .fabric d off =>
      if d == s.devId then
        match s.exported (bhOf gid) (if need == 1 then .load else .store) off with
        | .place _ _ _ _ => none
        | .refused c _ => if c.isPage then none else some c
      else if need == 1 && s.linkOf d == .down then some .fabricReadLost else none
    | _ => none

/-- What the reads of a record answer: its dwords, a stall while a message of the core for it is in flight, a trap, or
a refusal by a gate, which is pending as a deferred memory trap (R29): the instruction then has no further effect. -/
inductive Rec where
  | dwords (ds : List Nat) (poison : Option Cause) (s : State)
  | stall (s : State)
  | trap (t : TrapInfo) (s : State)
  | refused (s : State)

/-- A read of a group's record that is refused after issue (R29): a deferred memory trap. -/
def State.recordRefused (s : State) (gid : Nat) (pc a : DWord) (c : Cause) : Rec :=
  .refused ((s.deferFailure gid { cause := c, pc := pc, lane := 0, addr := a, kind := 0 }).linkDone (pipeKey gid s.curSlot))

/-- A record of `n` dwords from address `a`, read by the scalar pipe of a group as one load for each (R259, R321, R350,
R372, R375, R377). -/
def State.readRecord (s : State) (gid : Nat) (g : Group) (pc : DWord) : Nat → DWord → Rec
  | 0, _ => .dwords [] none s
  | n + 1, a => match s.resolvePipe gid g .all .load false a 8 with
    | (.error f, s1) => .trap (pipeTrap 0 f) s1
    | (.ok p, s1) =>
      let key := pipeKey gid s.curSlot
      match if s1.linkLost key pc then some .fabricReadLost else s1.gateRefusal gid 1 p with
      | some c => s1.recordRefused gid pc a c
      | none =>
        if !s1.piecesReady (coreOf gid) p then .stall (s1.linkHold key pc p)
        else
          let r := s1.readPieces (coreOf gid) g.asid p
          match r.refused with
          | some c => r.after.recordRefused gid pc a c
          | none => match (r.after.linkDone key).readRecord gid g pc n (a + 8) with
            | .dwords ds c' s3 => .dwords (r.value :: ds) (firstOf r.poison c') s3
            | .stall s3 => .stall s3
            | .trap t s3 => .trap t s3
            | .refused s3 => .refused s3

/-- The address causes of a record of `n` dwords (R393, step 8), or the state once they are looked for. -/
def State.recordFault (s : State) (gid : Nat) (g : Group) : Nat → DWord → Except (TrapInfo × State) State
  | 0, _ => .ok s
  | n + 1, a => match s.resolvePipe gid g .all .load false a 8 with
    | (.error f, s1) => .error (pipeTrap 0 f, s1)
    | (.ok _, s1) => s1.recordFault gid g n (a + 8)

end Sys2Proof.Machine
end

