-- ==== Sys2Proof/Machine/MemAccess.lean ====
section
/-! DEFINITION. Accesses of a group's lanes to memory: their addresses (R14, R306, R309, R311, R314), what a core does
with each piece in its L1 (R89, R91, R94), when an instruction must wait (R126, R127, R139), the digest of its
stores (R408), and how a load, a store or an atomic of many lanes begins (R308, R328). -/

namespace Sys2Proof.Machine

/-- The request types of R91. -/
inductive ReqType where
  | own | wt | si | nc
deriving DecidableEq, Repr

/-- The request type of a piece (R28, R53, R91): the RQ field, the default of the access, and what an NC page or the
private window makes of it. -/
def reqTypeOf (rq : Nat) (load nc priv : Bool) : ReqType :=
  if nc then .nc
  else if priv then (if load then .si else .own)
  else match rq with
    | 1 => .own
    | 2 => if load then .si else .wt
    | 3 => .si
    | 4 => .nc
    | _ => if load then .si else .own

/-- The instruction that makes an access; `viaExport` marks one that reaches its own device through the fabric window, whose
request passes the gates as one of the bulkhead that homes the frame (R26, R417), `req` and `piece` one that an engine request
makes for its group (R134, R367). -/
structure Acc where
  gid : Nat
  slot : Bool
  pc : DWord
  asid : Nat
  viaExport : Bool := false
  req : Option Nat := none
  piece : Nat := 0
deriving DecidableEq, Repr

/-- The core of an access. -/
def Acc.core (c : Acc) : Nat := coreOf c.gid

/-- The current slot's instruction. -/
def State.acc (s : State) (g : Group) : Acc := { gid := s.cur, slot := s.curSlot, pc := (g.pc s.curSlot).pc, asid := g.asid }

/-- A message of an instruction for a piece of a lane's element. -/
def Acc.msg (c : Acc) (kind : MsgKind) (pend : Option Nat) (lane off dpa va n : Nat) : Msg :=
  { Msg.at kind c.core c.asid dpa va n with gid := some c.gid, slot := c.slot, pc := c.pc, pend := pend, lane := lane
                                            off := off, passed := c.viaExport }

/-- The address of a lane: a generic address, an offset through a translation register, backing of private memory
(R314), or a check of the instruction that failed. -/
inductive LaneAt where
  | addr (a : DWord)
  | trans (t : TransReg) (o : DWord)
  | backing (va : Nat)
  | fault (f : AddrFault)

/-- The lane's 64-bit address before translation. -/
def LaneAt.shown (x : LaneAt) : DWord :=
  match x with
  | .addr a => a
  | .trans t o => t.va.setWidth 64 + o
  | .backing va => BitVec.ofNat 64 va
  | .fault f => f.addr

/-- A lane's element resolved, with the checks of R12 to R15, R28, R55, R63 and R100. -/
def State.resolveAt (s : State) (q : Asker) (r : Reach) (k : AccessKind) (align : Bool) (lane : Nat) (x : LaneAt) (n : Nat) :
    Except AddrFault Pieces × State :=
  match x with
  | .addr a => s.resolve q r k align lane a n
  | .trans t o => s.resolveT q t r k align lane o n
  | .backing va =>
    (pieces n va 0 n).foldl (fun acc p => match acc.1 with
      | .error _ => acc
      | .ok l => match acc.2.placeGlobal q k true (va + p.1) (BitVec.ofNat 64 va) with
        | (.error f, s1) => (.error f, s1)
        | (.ok pl, s1) => (.ok (l ++ [(p.1, p.2, pl)]), s1)) (Except.ok [], s)
  | .fault f => (.error f, s)

/-- The byte offset o of R306 for lane `i`. -/
def Group.laneOff (g : Group) (f : ExtM) (imm : DWord) (i : Nat) : DWord :=
  (if f.lo == 1 then (g.lane32 f.b.toNat i).signExtend 64 * BitVec.ofNat 64 (tySize f.ty.toNat) else 0) + imm

/-- The address of a lane through the memory base (R306). -/
def Group.laneAt (g : Group) (f : ExtM) (imm : DWord) (i : Nat) : LaneAt :=
  if f.a.toNat < 128 then .addr (g.rdS f.a + g.laneOff f imm i)
  else .trans (g.rdT (f.a.toNat - 128)) (g.laneOff f imm i)

/-- IMM32 as an address displacement. -/
def dispOf (f : ExtM) : DWord := f.w2.signExtend 64

/-- A window-relative address (R309, R313): w below its bound, placed in the window at `base`. -/
def windowAt (base : DWord) (bound : Nat) (w : DWord) : LaneAt :=
  if w.toNat < bound then .addr (base ||| w) else .fault { cause := .windowRange, addr := w, level := 0 }

/-- The address of a lane of a gather or a scatter (R311). -/
def Group.gatherAt (g : Group) (f : ExtM) (i : Nat) : LaneAt := .addr (g.rdS f.a + g.lane64 f.b.toNat i + dispOf f)

/-- The lane-qualified address of R314: the reserved bits and CORE. -/
def qualifiedOk (a : DWord) : Bool :=
  bits a.toNat 63 40 == 0 && bits a.toNat 31 31 == 0 && decide (bits a.toNat 39 32 ≤ 191)

/-- The target of lane `i` of `ldx` and `stx` (R314). -/
def Ctx.qualifiedAt (c : Ctx) (a o : DWord) (n i : Nat) : LaneAt :=
  let q := BitVec.ofNat 64 (bits a.toNat 15 0) + o
  if decide (q.toNat + n ≤ c.privSize) then
    .backing (c.privBacking q.toNat (bits a.toNat 39 32) (bits a.toNat 30 24) ((bits a.toNat 23 16 + i) % 256))
  else .fault { cause := .windowRange, addr := q, level := 0 }

/-- The state of a word in a core's L1 (R88): none is I. -/
def State.l1State (s : State) (core w : Nat) : Option L1State := (s.l1 core w).map fun x => x.st

/-- Whether a word of a core is P and holds every byte of an access. -/
def State.pendHolds (s : State) (core w dpa n : Nat) : Bool :=
  match s.l1 core w with
  | some x => x.st == .pend && bytesOf w dpa n &&& ~~~x.bytes == 0
  | none => false

/-- Whether a load hits in the L1 (R89, R91): O words; for an si load that is no acquire also V words, or P words that
hold its bytes. An element of two words hits only where both are in one state, so that no part of another write is
seen (R119). What the group has on its way for the words must not come after what the load would return: no store or
atomic for O words, none but P stores for P words, nothing for V words (R120, R124). -/
def State.loadHits (s : State) (c : Acc) (dpa n : Nat) (acq : Bool) (rq : ReqType) : Bool :=
  let ws := wordsOf dpa n
  let mine := s.net.filter fun m => m.gid == some c.gid && m.kind.access && m.meets dpa n
  let foreign := mine.any fun m => (m.kind.request || m.kind == .grant)
    && (m.origin.isAtomic || (m.origin.isStore && !m.origin.isPending))
  (s.ownsAll c.core dpa n && !s.unperformed true c.gid dpa n)
    || (rq != .own && rq != .nc && !acq
      && (((ws.all fun w => s.pendHolds c.core w dpa n) && !foreign)
        || ((ws.all fun w => s.l1State c.core w == some .valid) && mine.isEmpty)))

/-- Whether an nc access finds a P or O word, and is served as own (R89). -/
def State.asOwn (s : State) (core dpa n : Nat) : Bool :=
  (wordsOf dpa n).any fun w => s.l1State core w == some .pend || s.l1State core w == some .owned

/-- The lazy words of an access are sent. -/
def State.flushWords (s : State) (core dpa n : Nat) : State := (wordsOf dpa n).foldl (fun s w => s.flushWord core w) s

/-- A piece of a load in memory (R89, R93): its value where the L1 holds it, else a message to the home slice. -/
def State.loadMem (s : State) (c : Acc) (pend lane : Nat) (rq : ReqType) (acq : Bool) (off n dpa va : Nat) :
    Option (Nat × Option Cause) × State :=
  let own := rq == .own || (rq == .nc && s.asOwn c.core dpa n)
  if s.loadHits c dpa n acq (if own then .own else rq) then
    (some (s.coreLoad c.core dpa n, (s.l1Poison c.core dpa n).map fun l => l.cause c.core), s)
  else
    let s1 := s.flushWords c.core dpa n
    let s2 := if rq == .nc && !own then s1.dropVs c.core dpa n else s1
    let kind := if own then MsgKind.ownLoad else if rq == .nc then .ncLoad else .siLoad
    (none, s2.send (c.msg kind (some pend) lane off dpa va n))

/-- How the lanes of a load are performed: by the core as R308 gives, as SC operations (R312), or by the gather engine
(R311). -/
inductive LoadMode where
  | plain (rq : Nat) (acq : Bool)
  | sc
  | gather (acq : Bool)
deriving DecidableEq, Repr

/-- Whether the loads act as an acquire. -/
def LoadMode.acq (m : LoadMode) : Bool :=
  match m with
  | .plain _ a => a
  | .sc => true
  | .gather a => a

/-- A value of a piece that is known at issue enters the pending access. -/
def Pend.put (q : Pend) (lane off v : Nat) (c : Option Cause) : Pend :=
  { q with values := q.values.set (lane % 256) (q.values.lane lane ||| BitVec.ofNat 64 (v * 2 ^ (8 * off)))
             (Nat.mod_lt _ (by decide))
           poison := firstOf q.poison c }

/-- One more reply to wait for. -/
def Pend.more (q : Pend) : Pend := { q with left := q.left + 1 }

/-- A fabric access that waits for its reply (R141, R419). -/
def State.askFabric (s : State) (m : Msg) (device off : Nat) : State :=
  let (id, s1) := s.fresh
  let m1 := { m with dpa := off, origin := m.kind, counter := (s.core m.core).lcc }
  { s1 with fabWaits := s1.fabWaits ++
      [{ id := id, msg := m1, device := device, since := s.clock, keep := m.kind == .siLoad || m.kind == .ownLoad }] }

/-- An access of a group to its own device through the fabric window that can be made like one to memory (R26): translated,
with nothing of the core on its way there. -/
def State.localFabric (s : State) (c : Acc) (k : AccessKind) (device off n : Nat) : Option (Acc × Nat × Bool × State) :=
  if device != s.devId || s.fabricBusy c.core device off n then none
  else match s.exported (bhOf c.gid) k off with
    | .place asid dpa nc s1 => some ({ c with asid := asid, viaExport := true }, dpa, nc, s1)
    | .refused _ _ => none

/-- A load of a peer device's memory (R89, R141): from the O or V words that the L1 keeps of it, or asked for. -/
def State.loadFabric (s : State) (c : Acc) (q : Pend) (rq : ReqType) (acq : Bool) (lane off n device target : Nat) :
    Pend × State :=
  let key := fabricKey device target
  if !s.fabricBusy c.core device target n && (s.ownsAll c.core key n
      || (rq != .own && rq != .nc && !acq && (wordsOf key n).all fun w => s.l1State c.core w == some .valid)) then
    (q.put lane off (s.coreLoad c.core key n) ((s.l1Poison c.core key n).map fun l => l.cause c.core), s)
  else
    let own := rq == .own || (rq == .nc && s.asOwn c.core key n)
    let s1 := if rq == .nc then s.dropVs c.core key n else s
    let kind := if own then MsgKind.ownLoad else if rq == .nc then .ncLoad else .siLoad
    (q.more, s1.askFabric (c.msg kind (some q.id) lane off 0 0 n) device target)

/-- One piece of a lane's load in memory. -/
def State.loadAt (s : State) (c : Acc) (q : Pend) (mode : LoadMode) (lane off n dpa va : Nat) (nc priv : Bool) : Pend × State :=
  match mode with
  | .plain rq acq =>
    match s.loadMem c q.id lane (reqTypeOf rq true nc priv) acq off n dpa va with
    | (some (v, x), s1) => (q.put lane off v x, s1)
    | (none, s1) => (q.more, s1)
  | .sc => (q.more, (s.flushWords c.core dpa n).send (c.msg .scLoad (some q.id) lane off dpa va n))
  | .gather _ => (q.more, (s.flushWords c.core dpa n).send (c.msg .gatherLoad (some q.id) lane off dpa va n))

/-- One piece of a lane's load. -/
def State.loadPiece (s : State) (c : Acc) (q : Pend) (mode : LoadMode) (lane : Nat) (p : Nat × Nat × Place) : Pend × State :=
  match p.2.2 with
  | .mem dpa va nc priv => s.loadAt c q mode lane p.1 p.2.1 dpa va nc priv
  | .spad core off =>
    let (v, l) := s.spadLoad core c.asid off p.2.1
    (q.put lane p.1 v (l.map fun l => l.cause c.core), s.relay c.core core)
  | .fabric d off => match s.localFabric c .load d off p.2.1 with
    | some (c1, dpa, nc, s1) => s1.loadAt c1 q mode lane p.1 p.2.1 dpa off nc false
    | none => match mode with
      | .plain rq acq => s.loadFabric c q (reqTypeOf rq true false false) acq lane p.1 p.2.1 d off
      | .sc => (q.more, s.askFabric (c.msg .scLoad (some q.id) lane p.1 0 0 p.2.1) d off)
      | .gather _ => (q.more, s.askFabric (c.msg .gatherLoad (some q.id) lane p.1 0 0 p.2.1) d off)
  | .multicast _ _ => (q, s)

/-- The lanes of a load performed in ascending order. -/
def State.loadLanes (s : State) (c : Acc) (mode : LoadMode) (q : Pend) (lanes : List (Nat × Pieces)) : Pend × State :=
  lanes.foldl (fun acc l => l.2.foldl (fun a p => a.2.loadPiece c a.1 mode l.1 p) acc) (q, s)

/-- A destination marked empty (R308), or busy for a scalar register (R256). -/
def Group.emptyDest (g : Group) (d : Dest) : Group :=
  let g1 := d.regs.foldl (fun g n => g.mark n false) g
  { g1 with scalarBusy := g1.scalarBusy ++ d.scalars }

/-- An access with its messages sent: it lands at once where it waits for nothing, and otherwise its destination is
empty until its replies have arrived (R308). -/
def State.begin (s : State) (q : Pend) : State :=
  if q.left == 0 then s.land q else (s.modGroup q.gid fun g => g.emptyDest q.dest).addPend q

/-- A pending access of an instruction. -/
def Acc.pend (c : Acc) (id : Nat) (g : Group) (dest : Dest) (m : Mask) (acq : Bool) : Pend :=
  { Pend.of id c.gid c.slot c.pc 0 with dest := dest, lanes := m, acq := acq, idem := g.idem, hold := false }

/-- A load of many lanes begins (R308). -/
def State.beginLoad (s : State) (c : Acc) (g : Group) (dest : Dest) (m : Mask) (mode : LoadMode) (lanes : List (Nat × Pieces)) :
    State :=
  let (id, s1) := s.fresh
  let (q, s2) := s1.loadLanes c mode { c.pend id g dest m mode.acq with sc := mode == .sc } lanes
  s2.begin q

/-- Bytes written into a P word of a core (R89): it holds those bytes, and those that it held as P before. Bytes that are
not sent are marked, with what `lazy` says of them. -/
def State.overlayWord (s : State) (core w dpa n v : Nat) (lazy : Option Lazy) : State :=
  let old : Option L1Word := match s.l1 core w with
    | some x => if x.st == .valid then none else some x
    | none => none
  let b := bytesOf w dpa n
  let base := old.getD { st := .pend, data := 0, bytes := 0, unsent := 0, lazy := none, tag := none, poison := none }
  if base.st == .owned then s
  else s.setL1 core w { base with
    data := mergeWord base.data w dpa n v, bytes := base.bytes ||| b
    unsent := if lazy.isSome then base.unsent ||| b else base.unsent, lazy := firstOf lazy base.lazy
    poison := if b == 15 then none else base.poison }

/-- The words of a store that was sent become P (R89). -/
def State.overlay (s : State) (core dpa n v : Nat) : State :=
  (wordsOf dpa n).foldl (fun s w => s.overlayWord core w dpa n v none) s

/-- The address of a word's first byte, from that of an access. -/
def wordVa (w dpa va : Nat) : Nat := va + 4 * w - dpa

/-- Whether bytes of a word that were not sent were stored under another address or context than an access. -/
def State.otherLazy (s : State) (c : Acc) (w dpa va : Nat) : Bool :=
  match (s.l1 c.core w).bind fun x => x.lazy with
  | some z => z.asid != c.asid || z.va != wordVa w dpa va
  | none => false

/-- A store of a core sent to the home slice: its words become P first, where the L1 has room for the line (R87, R89). -/
def State.sendStore (s : State) (c : Acc) (kind : MsgKind) (lane off n dpa va v : Nat) : State :=
  let (room, s1) := (s.flushWords c.core dpa n).l1Room c.core (dpa / 128)
  (if room then s1.overlay c.core dpa n v else s1).send { c.msg kind none lane off dpa va n with data := BitVec.ofNat 64 v }

/-- A store that is not sent (R89): an si store, or with `own` one that goes with a registration in flight. Bytes stored
before under another address go first; an L1 without room for the line sends the store at once (R87). -/
def State.keepStore (s : State) (c : Acc) (own : Bool) (lane off n dpa va v : Nat) : State :=
  let s1 := if (wordsOf dpa n).any fun w => s.otherLazy c w dpa va then s.flushWords c.core dpa n else s
  let (room, s2) := s1.l1Room c.core (dpa / 128)
  if !room then s2.send { c.msg .wtStore none lane off dpa va n with data := BitVec.ofNat 64 v }
  else (wordsOf dpa n).foldl (fun s w =>
    let before := (s.l1 c.core w).bind fun x => x.lazy
    s.overlayWord c.core w dpa n v (some
      { asid := c.asid, va := wordVa w dpa va, gid := c.gid, slot := c.slot, pc := c.pc
        pair := n == 8 || before.elim false fun z => z.pair, own := own || before.elim false fun z => z.own })) s2

/-- A piece of a store in memory (R89, R91). Where its words are O it is performed in the L1; where only one of two is, or a
request of the group is still on its way to them, it follows as an own store. An own store to P words whose registration
is in flight sends nothing. -/
def State.storeMem (s : State) (c : Acc) (rq : ReqType) (lane off n dpa va v : Nat) : State :=
  let ws := wordsOf dpa n
  let own (s : State) : State :=
    if ws.all fun w => s.l1State c.core w == some .pend && s.registering c.core w then s.keepStore c true lane off n dpa va v
    else s.sendStore c .ownStore lane off n dpa va v
  if s.ownsAll c.core dpa n && !s.unperformed false c.gid dpa n then s.writeOwned c.core dpa n v
  else if ws.any fun w => s.l1State c.core w == some .owned then s.sendStore c .ownStore lane off n dpa va v
  else match rq with
    | .own => own s
    | .wt => s.sendStore c .wtStore lane off n dpa va v
    | .nc =>
      if s.asOwn c.core dpa n then own s
      else (s.dropVs c.core dpa n).send { c.msg .ncStore none lane off dpa va n with data := BitVec.ofNat 64 v }
    | .si => s.keepStore c false lane off n dpa va v

/-- How the lanes of a store are performed: by the core as R308 gives, as SC operations, or by the gather engine. -/
inductive StoreMode where
  | plain (rq : Nat) (rel : Bool)
  | sc (pend : Nat)
  | scatter (pend : Nat)
deriving DecidableEq, Repr

/-- The request type of a store: a release store is issued as own or nc (R126). -/
def storeType (rq : Nat) (rel nc priv : Bool) : ReqType :=
  match reqTypeOf rq false nc priv with
  | .nc => .nc
  | t => if rel then .own else t

/-- The low bytes of a piece of an element's value. -/
def pieceOf (v off n : Nat) : Nat := v / 2 ^ (8 * off) % 2 ^ (8 * n)

/-- The words of a peer device that a core keeps become I (R141). -/
def State.dropFabric (s : State) (core device off n : Nat) : State :=
  (wordsOf (fabricKey device off) n).foldl (fun s w => s.dropL1 core w) s

/-- A posted write (R141): it is performed at its target, and what the core keeps of the place becomes I. -/
def State.post (s : State) (c : Acc) (lane off n v device target : Nat) (a : DWord) : State :=
  let (id, s1) := s.fresh
  let s2 := s1.dropFabric c.core device target n
  { s2 with
    fabWaits := s2.fabWaits.map fun w =>
      if w.msg.core == c.core && w.device == device && overlaps w.msg.dpa w.msg.size target n then { w with keep := false } else w
    posted := s2.posted ++
      [{ id := id, gid := c.gid, slot := c.slot, pc := c.pc, lane := lane, va := a + BitVec.ofNat 64 off, device := device
         offset := target, size := n, data := BitVec.ofNat 64 v, poison := false, lost := false, req := c.req, piece := c.piece }] }

/-- A store to a set of devices, posted to each member that lies in the domain of the issuer's tenant (R141, R417, R421). A member
that does not is refused with FABRIC_DEVICE, and the others are not: `refuse` says what the refusal does. -/
def State.postEach (s : State) (c : Acc) (members : List Nat) (put : State → Nat → State) (refuse : State → State) : State :=
  let (ok, bad) := members.partition fun d => s.deviceOk (bhOf c.gid) d
  let s1 := ok.foldl put s
  if bad.isEmpty then s1 else refuse s1

/-- One piece of a lane's store of `v`; the answer counts the replies that an SC store or a scatter waits for. -/
def State.storePiece (s : State) (c : Acc) (mode : StoreMode) (lane v : Nat) (a : DWord) (p : Nat × Nat × Place) : Nat × State :=
  let x := pieceOf v p.1 p.2.1
  match p.2.2 with
  | .mem dpa va nc priv =>
    let home (kind : MsgKind) (id : Nat) : Nat × State :=
      (1, ((s.flushWords c.core dpa p.2.1).dropVs c.core dpa p.2.1).send
        { c.msg kind (some id) lane p.1 dpa va p.2.1 with data := BitVec.ofNat 64 x })
    match mode with
    | .plain rq rel => (0, s.storeMem c (storeType rq rel nc priv) lane p.1 p.2.1 dpa va x)
    | .sc id => home .scStore id
    | .scatter id => home .scatterStore id
  | .spad core off => (0, (s.spadStore core c.asid off p.2.1 x).relay c.core core)
  | .fabric d off => match mode with
    | .sc id => (1, s.askFabric { c.msg .scStore (some id) lane p.1 0 0 p.2.1 with data := BitVec.ofNat 64 x } d off)
    | _ => (0, s.post c lane p.1 p.2.1 x d off a)
  | .multicast set off =>
    (0, s.postEach c (mcMembers (s.mcEntry (bhOf c.gid) set)) (fun s d => s.post c lane p.1 p.2.1 x d off a) fun s =>
      s.deferFailure c.gid { cause := .fabricDevice, pc := c.pc, lane := lane, addr := a + BitVec.ofNat 64 p.1, kind := 1 })

/-- Rotation left by 17 bits. -/
def rotL17 (d : DWord) : DWord := (d <<< 17) ||| (d >>> 47)

/-- The term that a stored element adds to the digest (R408). -/
def digestTerm (a d : DWord) : DWord := mix64 (a ^^^ rotL17 d)

/-- Whether a window's stores feed the digest and, in a replay or arbiter run, are not performed (R408, R410). -/
def LaneAt.digested (x : LaneAt) : Bool :=
  match x with
  | .addr a => windowOf a == .global || windowOf a == .fabric || windowOf a == .multicast
  | .trans _ _ => true
  | .backing _ => false
  | .fault _ => false

/-- The stores of an arbiter run that a frame of the log holds, 32 bytes each (log 94). -/
def logPerFrame : Nat := 2048

/-- A logged store of an arbiter run: the group, the address, the number of bytes and their value (R411). -/
abbrev LogEntry := Nat × DWord × Nat × DWord

/-- A store of an arbiter run logged (R411), in an ENGINE frame that the log takes from the pool when its own are full; while the
pool is empty the RVE keeps the stores itself (log 94). -/
def State.logStore (s : State) (j : RveJob) (x : LogEntry) : RveJob × State :=
  let full := j.logCount == logPerFrame * j.logFrames.length
  if !j.log.isEmpty || (full && (s.bh j.bh).poolCount == 0) then ({ j with log := j.log ++ [x] }, s)
  else
    let (fs, s1) := if full then s.engineFrames j.bh 1 else ([], s)
    let frames := j.logFrames ++ fs
    let at_ (i : Nat) : Nat := frameDpa frames (32 * j.logCount + 8 * i)
    ({ j with logFrames := frames, logCount := j.logCount + 1 },
     (((s1.devWrite (at_ 0) 8 x.1).devWrite (at_ 1) 8 x.2.1.toNat).devWrite (at_ 2) 8 x.2.2.1).devWrite (at_ 3) 8 x.2.2.2.toNat)

/-- The stores that an arbiter run has logged (R411): those in the frames, then those that the RVE keeps. -/
def State.logged (s : State) (j : RveJob) : List LogEntry :=
  (List.range j.logCount).map (fun k =>
    let at_ (i : Nat) : Nat := s.loadNow (frameDpa j.logFrames (32 * k + 8 * i)) 8
    (at_ 0, BitVec.ofNat 64 (at_ 1), at_ 2, BitVec.ofNat 64 (at_ 3))) ++ j.log

/-- A store of a group's run fed into its digest, and logged in an arbiter run (R408, R411). -/
def State.noteStore (s : State) (gid : Nat) (g : Group) (a : DWord) (n v : Nat) : State :=
  let s1 := s.modGroup gid fun g => { g with digest := g.digest + digestTerm a (BitVec.ofNat 64 v) }
  match g.run, (s.team? g.team).map (fun t => t.kind) with
  | .arbiter, some (TeamKind.replay job) => match (s1.bh (bhOf gid)).jobs.find? fun j => j.id == job with
    | some j =>
      let (k, s2) := s1.logStore j (g.index, a, n, BitVec.ofNat 64 v)
      s2.modBh (bhOf gid) fun b => { b with jobs := b.jobs.map fun x => if x.id == job then k else x }
    | none => s1
  | _, _ => s1

/-- The lanes of a store performed in ascending order (R120, R308), each with its address and its element's value. -/
def State.storeLanes (s : State) (c : Acc) (g : Group) (mode : StoreMode) (n : Nat) (at_ : Nat → LaneAt) (val : Nat → Nat)
    (lanes : List (Nat × Pieces)) : Nat × State :=
  lanes.foldl (fun acc l =>
    let x := at_ l.1
    let v := val l.1 % 2 ^ (8 * n)
    let s1 := if x.digested then acc.2.noteStore c.gid g x.shown n v else acc.2
    if x.digested && g.run != .original then (acc.1, s1)
    else l.2.foldl (fun a p =>
      let (k, s2) := a.2.storePiece c mode l.1 v x.shown p
      (a.1 + k, s2)) (acc.1, s1)) (0, s)

/-- Whether an acquire of a group has not taken effect: its later memory operations wait (R127). -/
def State.acquiring (s : State) (c : Acc) : Bool :=
  s.pends.any fun p => p.gid == c.gid && p.acq && !p.hold

/-- Whether an SC operation of a group has not returned (R139). -/
def State.scBusy (s : State) (c : Acc) : Bool := s.pends.any fun p => p.gid == c.gid && p.sc

/-- Whether a group that restarts has received every memory reply and its counters are 0 (R405): also the replies to its stores,
grants among them, and the acknowledgements of the writes that it posted to peers. -/
def State.restartReady (s : State) (gid : Nat) (g : Group) : Bool :=
  !(s.pends.any fun p => p.gid == gid) && (List.range 4).all (fun k => g.rdE k == 0)
    && !(s.net.any fun m => m.gid == some gid && m.kind.access && !m.origin.isWatching)
    && !(s.posted.any fun p => p.gid == gid && p.req.isNone && !p.lost)

/-- Whether a release of a group may complete (R124, R126): its earlier loads are performed, the replies to its stores and atomics
have reached its core's counter (R96, R118), and no P word of its core remains. -/
def State.releaseReady (s : State) (gid : Nat) : Bool :=
  !(s.net.any fun m => m.gid == some gid && !m.origin.isWatching
      && (m.kind.request || (m.kind.access && (m.origin.isStore || m.origin.isAtomic))))
    && !(s.fabWaits.any fun w => w.msg.gid == some gid && w.msg.kind != .reply && !w.msg.kind.isWatching)
    && !s.hasPending (coreOf gid)

/-- A posted write of an instruction of a group. Those of its engine requests are the requests' own, which their retirement waits
for (R134; log 133). -/
def Posted.ofGroup (p : Posted) (gid : Nat) : Bool := p.gid == gid && p.req.isNone

/-- Whether the posted writes that a `.sys` operation covers are over (R141 to R143): acknowledged, or lost; and the
device writes to host memory are flushed. -/
def State.sysReady (s : State) (gid : Nat) (g : Group) : Bool :=
  (s.posted.all fun p => !p.ofGroup gid || p.lost) && (s.hostWrites == 0 || g.zeroRead)

/-- The lost write that FABRIC_WRITE_LOST reports (R29, R142): of the instruction that was issued first, the one of the lowest lane
(log 134). -/
def State.lostWrite (s : State) (gid : Nat) : Option Posted :=
  match s.posted.filter fun p => p.ofGroup gid with
  | [] => none
  | x :: t => some (t.foldl (fun b p => if p.pc == b.pc && p.slot == b.slot && decide (p.lane < b.lane) then p else b) x)

/-- A `.sys` operation completes: with lost writes it sets FENCE_LOSS and may trap (R29, R142). -/
def State.sysDone (s : State) (c : Acc) : State :=
  let lost := s.lostWrite c.gid
  let s1 : State := { s with posted := s.posted.filter fun p => !p.ofGroup c.gid }
  let s2 := s1.modGroup c.gid fun g => { g with zeroRead := false, fenceLoss := g.fenceLoss || lost.isSome }
  match lost with
  | some p => if (s.ctx c.asid).fabCtl.getLsbD 0 then
      s2.deferFailure c.gid { cause := .fabricWriteLost, pc := p.pc, lane := p.lane, addr := p.va, kind := 1 }
    else s2
  | none => s2

/-- The time since which a slot waits at a `.sys` operation (R142). -/
def Group.sysWait (g : Group) (slot : Bool) (since : Option Nat) : Group := g.modPc slot fun p => { p with sysSince := since }

/-- A release, with what follows once it may complete (R126, R131): what the group has acquired before it takes effect
first, and a lazy word of the core is sent (R89). -/
def State.release (s : State) (c : Acc) (sys : Bool) (go : State → Res) : Res :=
  let s1 := s.flushCore c.core
  match s1.group? c.gid with
  | none => .ok s1
  | some g =>
    if s1.acquiring c || !s1.releaseReady c.gid then .stall .room s1
    else if !sys then go s1
    else if !s1.sysReady c.gid g then
      .stall .sysRelease (s1.modGroup c.gid fun g => g.sysWait c.slot (firstOf (g.pc c.slot).sysSince (some s1.clock)))
    else go ((s1.modGroup c.gid fun g => g.sysWait c.slot none).sysDone c)

/-- A release where the instruction is one. -/
def State.releaseIf (s : State) (c : Acc) (rel sys : Bool) (go : State → Res) : Res :=
  if rel then s.release c sys go else go s

/-- A fence (R126, R138, R323): every earlier load has returned, every earlier store is performed or registered, and every
reply has reached the core's counter (R118); then it acquires, and the stamp of R118 is taken. -/
def State.fence (s : State) (c : Acc) (sys : Bool) (go : State → Res) : Res :=
  s.release c sys fun s1 =>
    if (s1.pends.any fun p => p.gid == c.gid && !p.hold && p.memory)
        || s1.net.any fun m => m.gid == some c.gid && m.kind.access && !m.origin.isWatching then .stall .room s1
    else
      let s2 := s1.dropValid c.core
      go (s2.modGroup c.gid fun g => { g with fenceStamp := (s2.core c.core).lcc })

/-- The checks of R266 and the wait for an acquire before the memory operation of a vector instruction. -/
def State.memGo (s : State) (g : Group) (srcs : List (List Nat × Bool)) (dst : List Nat) (go : State → Res) : Res :=
  match g.vecCheck srcs dst with
  | .trap c => .trap (.of c) s
  | .wait => .stall .register s
  | .go =>
    if s.acquiring (s.acc g) then .stall .room s
    else s.readRegs g (srcs.flatMap fun p => p.1) (g.pc s.curSlot).mask .uePool (go s)

/-- The lanes of an instruction resolved, or its trap (R15). -/
def State.withLanes (s : State) (g : Group) (r : Reach) (k : AccessKind) (align : Bool) (m : Mask) (n : Nat) (at_ : Nat → LaneAt)
    (go : List (Nat × Pieces) → State → Res) : Res :=
  let (x, s1) := s.resolveLanes (fun s i => s.resolveAt (s.asker s.cur g) r k align i (at_ i) n) (Mask.lanes m)
  if x.bad.isEmpty then go x.ok s1 else .trap (laneTrap k.code x.bad) s1

/-- The element's value that lane `i` stores: a register, or a pair for 8 bytes. -/
def Group.storeVal (g : Group) (f : ExtM) (d i : Nat) : Nat :=
  if tyPair f.ty.toNat then (g.lane64 d i).toNat else (g.lane32 d i).toNat

/-- The registers of a data field with a type. -/
def dataRegs (ty d : Nat) : List Nat := if tyPair ty then [d, d + 1] else [d]

/-- The offset register with its FE bit (R304). -/
def offSrc (f : ExtM) : List (List Nat × Bool) := if f.lo == 1 then [([f.b.toNat], f.fe.getLsbD 1)] else []

/-- The active mask of a memory instruction. -/
def State.maskOf (s : State) (g : Group) (f : ExtM) : Mask := activeMask g s.curSlot f.gn f.g

end Sys2Proof.Machine
end

