-- ==== Sys2Proof/Machine/Control.lean ====
section
/-! DEFINITION. Control and system instructions (0x00 to 0x1F, 0xFF; R229 to R252): block ends and their check (R223),
divergence and its stack (R150, R151, R234 to R236), regions, steps, traps and return, system registers (R241 to R245),
timers, modes and fault injection. -/

namespace Sys2Proof.Machine

/-- An instruction that is no transfer, with an effect `after` that follows its retirement. -/
def State.issueAfter (s : State) (op : Byte) (words : Nat) (used : List Nat) (body : Group → State → Res)
    (after : State → State) : Out :=
  match s.current with
  | none => .fault .noGroup
  | some g =>
    if used.any fun n => g.scalarBusy.contains n then .next (s.stalled s.cur .room)
    else match body g s with
      | .ok s1 => .next (after (s1.retire s.cur s.curSlot op words))
      | r => .next (finish s.cur s.curSlot op words r)

/-- NOP (R226): Compact no-operation; it only feeds SIG. -/
def execNop (_f : Word0) (s : State) : Out := s.issueWith 0x01 1 [] fun _ s => .ok s

/-- NOP_EXT (R226): Extended form of the no-operation. -/
def execNopExt (_f : ExtA) (s : State) : Out := s.issueWith 0x01 3 [] fun _ s => .ok s

/-- A trap with which an instruction always ends; nothing is fed. -/
def State.onlyTrap (s : State) (c : Cause) : Out :=
  match s.current with
  | none => .fault .noGroup
  | some _ => .next (s.takeTrap s.cur s.curSlot (TrapInfo.of c))

/-- TRAP0 (R227): The all-zero word is never executed and traps ZERO_WORD. -/
def execTrap0 (s : State) : Out := s.onlyTrap .zeroWord

/-- ILL (R227): A word 0 with OP 0xFF is never executed and traps ILLEGAL_INSTR. -/
def execIll (_w : Word) (s : State) : Out := s.onlyTrap .illegalInstr

/-- A slot whose own byte has been fed and whose SIG is back at its start (R222, R223). -/
def PcSlot.checked (p : PcSlot) : PcSlot := { p with sig := 0xFFFFFFFF, flip := false }

/-- Whether a trap of a block end comes before its signature check (R223, R228), or leaves it to be made when the instruction
issues again after a fault of its accesses to the divergence stack (R151; log 15). -/
def Cause.beforeCheck (c : Cause) : Bool := c == .privilege || c.isAddress

/-- The frame of a block end (R223): its byte is fed, SIG bits 13:0 are compared with SIGX, SIG restarts, and the
body, which moves the PC itself, runs. -/
def State.execE (s : State) (op : Byte) (f : ExtE) (used : List Nat) (body : Group → State → Res) : Out :=
  match s.current with
  | none => .fault .noGroup
  | some g =>
    let p := g.pc s.curSlot
    let q := p.feed op
    if used.any fun n => g.scalarBusy.contains n then .next (s.stalled s.cur .room)
    else
      let g1 := g.setPc s.curSlot q.checked
      let s1 := s.setGroup s.cur g1
      if q.sig.extractLsb' 0 14 != f.sigx then .next (s1.takeTrap s.cur s.curSlot (TrapInfo.of .sigMismatch))
      else match body g1 s1 with
      | .ok s2 => .next (s2.retired s.cur s.curSlot)
      | .stall w s2 => .next ((s2.modGroup s.cur fun g => g.modPc s.curSlot fun r => { r with sig := p.sig, flip := p.flip }).stalled s.cur w)
      | .trap t s2 =>
        .next ((if t.cause.beforeCheck then s2.modGroup s.cur fun g => g.modPc s.curSlot fun r => { r with sig := p.sig, flip := p.flip }
          else s2).takeTrap s.cur s.curSlot t)

/-- The PC of the current slot. -/
def State.pcNow (s : State) (g : Group) : DWord := (g.pc s.curSlot).pc

/-- The current slot's PC set. -/
def State.goto (s : State) (a : DWord) : State :=
  s.modGroup s.cur fun g => g.modPc s.curSlot fun p => { p with pc := a, segment := none }

/-- A transfer to a computed target, with CheckTarget (R233). -/
def State.transfer (s : State) (a : DWord) : Res := if targetOk a then .ok (s.goto a) else .trap (TrapInfo.of .targetForm) s

/-- The target of a word offset (R231). -/
def relTarget (pc : DWord) (w2 : Word) : DWord := pc + 4 * (w2.extractLsb' 0 24).signExtend 64

/-- A branch with its condition (R231). -/
def branchBody (w2 : Word) (taken : Bool) (g : Group) (s : State) : Res :=
  if taken then s.transfer (relTarget (s.pcNow g) w2) else .ok (s.goto (s.pcNow g + 12))

/-- BR (R231): Unconditional branch to a word offset, with a signature check. -/
def execBr (f : ExtE) (s : State) : Out := s.execE 0x02 f [] fun g s => branchBody f.w2 true g s

/-- A branch on two scalars (R230). -/
def State.execBc (s : State) (op : Byte) (f : ExtE) (cond : DWord → DWord → Bool) : Out :=
  s.execE op f [f.a.toNat, f.b.toNat] fun g s => branchBody f.w2 (cond (g.rdS f.a) (g.rdS f.b)) g s

/-- BC_EQ (R230): Branch when two scalars are equal. -/
def execBcEq (f : ExtE) (s : State) : Out := s.execBc 0x03 f fun x y => x == y

/-- BC_NE (R230): Branch when two scalars differ. -/
def execBcNe (f : ExtE) (s : State) : Out := s.execBc 0x04 f fun x y => x != y

/-- BC_LT (R230): Branch when s[A] < s[B] as i64. -/
def execBcLt (f : ExtE) (s : State) : Out := s.execBc 0x05 f fun x y => decide (x.toInt < y.toInt)

/-- BC_GE (R230): Branch when s[A] >= s[B] as i64. -/
def execBcGe (f : ExtE) (s : State) : Out := s.execBc 0x06 f fun x y => decide (y.toInt ≤ x.toInt)

/-- BC_LTN (R230): Branch when s[A] < s[B] as n64. -/
def execBcLtn (f : ExtE) (s : State) : Out := s.execBc 0x07 f fun x y => decide (x.toNat < y.toNat)

/-- BC_GEN (R230): Branch when s[A] >= s[B] as n64. -/
def execBcGen (f : ExtE) (s : State) : Out := s.execBc 0x08 f fun x y => decide (y.toNat ≤ x.toNat)

/-- A branch on a mask under the slot's mask (R230). -/
def State.execBmask (s : State) (op : Byte) (f : ExtE) (cond : Mask → Mask → Bool) : Out :=
  s.execE op f [] fun g s => branchBody f.w2 (cond (g.pc s.curSlot).mask (g.rdK f.a.toNat)) g s

/-- BANY (R230): Branch when any active lane is set in k[A]. -/
def execBany (f : ExtE) (s : State) : Out := s.execBmask 0x09 f fun m k => m &&& k != 0

/-- BALL (R230): Branch when every active lane is set in k[A]. -/
def execBall (f : ExtE) (s : State) : Out := s.execBmask 0x0A f fun m k => m &&& ~~~k == 0

/-- BNONE (R230): Branch when no active lane is set in k[A]. -/
def execBnone (f : ExtE) (s : State) : Out := s.execBmask 0x0B f fun m k => m &&& k == 0

/-- The private address of a level of the divergence stack (R151). -/
def stackAddr (c : Ctx) (level : Nat) : DWord := BitVec.ofNat 64 (0xFFB0000000000000 + (c.privSize - 4 * level))

/-- The words of an entry, lane by lane (R151). -/
def PcSlot.entry (p : PcSlot) (slot : Bool) : List Nat :=
  ((List.range 8).map fun i => p.mask.toNat / 2 ^ (32 * i) % 2 ^ 32)
    ++ [p.pc.toNat % 2 ^ 32, p.pc.toNat / 2 ^ 32, p.joinPc.toNat % 2 ^ 32, p.joinPc.toNat / 2 ^ 32, p.sig.toNat,
        bitAt slot 0 + bitAt p.waiting 1, 0, 0]

/-- A slot from the words of an entry (R151), with the sweep segment at which it stopped (R219) and the pending alteration of its
next byte (R252). -/
def PcSlot.ofEntry (ws : List Nat) (segment : Option (BitVec 12)) (flip : Bool) (clock : Nat) : PcSlot :=
  let w (i : Nat) : Nat := (ws[i]?).getD 0
  { live := true, waiting := bit (w 13) 1, flip := flip, pc := BitVec.ofNat 64 (w 8 + w 9 * 2 ^ 32)
    mask := BitVec.ofNat 256 ((List.range 8).foldl (fun m i => m + w i * 2 ^ (32 * i)) 0)
    sig := BitVec.ofNat 32 (w 12), joinPc := BitVec.ofNat 64 (w 10 + w 11 * 2 ^ 32), age := clock, segment := segment
    sysSince := none }

/-- The slot that the top level of a group's divergence stack holds, from its words. -/
def Group.popped (g : Group) (ws : List Nat) (clock : Nat) : PcSlot :=
  PcSlot.ofEntry ws (Table.find g.pushed g.depth) (g.flips.contains g.depth) clock

/-- Whether a popped entry is well formed (STACK_FORM): lanes 13 to 15 hold nothing but lane 13's two bits, and the saved
PC passes CheckTarget. -/
def stackOk (ws : List Nat) : Bool :=
  let w (i : Nat) : Nat := (ws[i]?).getD 0
  decide (w 13 < 4) && w 14 == 0 && w 15 == 0 && targetOk (BitVec.ofNat 64 (w 8 + w 9 * 2 ^ 32))

/-- An answer that is no effect leaves the group as it stood. -/
def Res.orKeep (r : Res) (gid : Nat) (g : Group) : Res :=
  match r with
  | .ok s => .ok s
  | .stall w s => .stall w (s.setGroup gid g)
  | .trap t s => .trap t (s.setGroup gid g)

/-- The accesses of a level of the divergence stack, lane by lane, or the trap (R151). -/
def State.stackPieces (s : State) (gid : Nat) (g : Group) (k : AccessKind) (level : Nat) : Except TrapInfo (List Pieces) × State :=
  let a := stackAddr (s.ctx g.asid) level
  let (r, s1) := s.resolveLanes (fun s i => s.resolve (s.asker gid g) .all k false i a 4) (List.range 16)
  if r.bad.isEmpty then (.ok (r.ok.map fun x => x.2), s1) else (.error (laneTrap k.code r.bad), s1)

/-- The entry of a level read from private memory. -/
def State.readStack (s : State) (gid : Nat) (g : Group) (level : Nat) (f : List Nat → State → Res) : Res :=
  match s.stackPieces gid g .load level with
  | (.error t, s1) => .trap t s1
  | (.ok ps, s1) =>
    if !(ps.all fun p => s1.piecesReady (coreOf gid) p) then .stall .room s1
    else
      let r := ps.foldl (fun (acc : List Nat × Option Cause × State) p =>
        let x := acc.2.2.readPieces (coreOf gid) g.asid p
        (acc.1 ++ [x.value], firstOf acc.2.1 x.poison, x.after)) ([], none, s1)
      f r.1 (r.2.2.consume gid r.2.1)

/-- An entry written at a level of private memory, as lanes 0 to 15 store it (R151): a store that waits for an acquire before it
(R127). -/
def State.writeStack (s : State) (gid : Nat) (g : Group) (level : Nat) (ws : List Nat) : Res :=
  let c : Acc := { gid := gid, slot := s.curSlot, pc := s.pcNow g, asid := g.asid }
  match s.stackPieces gid g .store level with
  | (.error t, s1) => .trap t s1
  | (.ok ps, s1) =>
    if s1.acquiring c then .stall .room s1
    else
      let a := stackAddr (s.ctx g.asid) level
      .ok ((((List.range 16).zip ps).zip ws).foldl (fun s x =>
        x.1.2.foldl (fun s p => (s.storePiece c (.plain 0 false) x.1.1 x.2 a p).2) s) s1)

/-- The region that an instruction ends (R237). -/
def State.endRegion (s : State) (gid : Nat) : State := s.modGroup gid fun g => { g with idem := false }

/-- Splitting a slot (R150, R234): the fall-through lanes stay, the branching lanes take the other slot. -/
def Group.split (g : Group) (slot : Bool) (take fall : Mask) (tgt next join : DWord) (clock : Nat) : Group :=
  let p := g.pc slot
  ({ g with nextSlot := false }.setPc slot { p with mask := fall, pc := next, joinPc := join, sig := 0xFFFFFFFF }).setPc (!slot)
    { PcSlot.empty with live := true, pc := tgt, mask := take, joinPc := join, age := clock }

/-- `bdiv` (R234, R150, R151). Where its target and its push both fail, the target's cause is taken (log 113). A slot that is
pushed within a sweep goes on at its segment when it is popped (R219; log 30). -/
def bdivBody (f : ExtE) (g : Group) (s : State) : Res :=
  let p := g.pc s.curSlot
  let k := g.rdK f.a.toNat
  let take := p.mask &&& k
  let fall := p.mask &&& ~~~k
  let tgt := relTarget p.pc f.w2
  let s0 := s.endRegion s.cur
  if take == 0 then .ok (s0.goto (p.pc + 12))
  else if !targetOk tgt then .trap (TrapInfo.of .targetForm) s
  else if fall == 0 then .ok (s0.goto tgt)
  else
    let join := p.pc + 4 * ((f.d ++ f.c : BitVec 16).signExtend 64)
    let doSplit (s : State) : State := s.modGroup s.cur fun g => g.split s.curSlot take fall tgt (p.pc + 12) join s.tick
    let other := g.pc (!s.curSlot)
    if !other.live then .ok (doSplit s0)
    else if g.depth == 64 then .trap (TrapInfo.of .divOverflow) s
    else (s.writeStack s.cur g (g.depth + 1) (other.entry (!s.curSlot))).andThen fun s1 =>
      .ok (doSplit ((s1.endRegion s.cur).modGroup s.cur fun g => { g with
        depth := g.depth + 1
        flips := (g.flips.filter fun k => decide (k ≤ g.depth)) ++ (if other.flip then [g.depth + 1] else [])
        pushed := match other.segment with
          | some k => Table.set g.pushed (g.depth + 1) k
          | none => Table.erase g.pushed (g.depth + 1) }))

/-- BDIV (R234): Splits the slot's lanes into branching and fall-through sides, pushing the divergence stack if
needed. -/
def execBdiv (f : ExtE) (s : State) : Out := s.execE 0x0C f [] (bdivBody f)

/-- Slot 0 goes on after a `join` with a mask and a join PC (R235); slot 1 is empty. -/
def Group.rejoin (g : Group) (pc : DWord) (m : Mask) (join : DWord) (clock : Nat) : Group :=
  { g with slot0 := { PcSlot.empty with live := true, pc := pc, mask := m, joinPc := join, age := clock }
           slot1 := PcSlot.empty }

/-- The table of R235 for a slot that stands at a `join`; the entry popped with its waiting bit set applies it
anew. -/
def State.joinTable (s : State) (gid : Nat) (slot : Bool) : Nat → Res
  | 0 => .ok s
  | fuel + 1 =>
    match s.group? gid with
    | none => .ok s
    | some g =>
      let p := g.pc slot
      let q := g.pc (!slot)
      let wait (s : State) : State := s.modGroup gid fun g => g.modPc slot fun p => { p with waiting := true }
      let goOn (m : Mask) : Res :=
        if g.depth == 0 then .ok (s.modGroup gid fun g => g.rejoin (p.pc + 12) m 0 s.tick)
        else s.readStack gid g g.depth fun ws s1 =>
          .ok (s1.modGroup gid fun g => g.rejoin (p.pc + 12) m (g.popped ws s.tick).joinPc s.tick)
      if q.live then
        if !q.waiting then .ok (wait s)
        else if q.pc == p.pc then goOn (p.mask ||| q.mask)
        else .trap { TrapInfo.of .joinMismatch with pc := some (g.pc false).pc } (wait s)
      else if g.depth == 0 then goOn p.mask
      else s.readStack gid g g.depth fun ws s1 =>
        let e := g.popped ws s.tick
        if e.joinPc == p.pc && !stackOk ws then .trap (TrapInfo.of .stackForm) s1
        else if e.joinPc == p.pc then
          let s2 := s1.modGroup gid fun g =>
            { (g.setPc (!slot) e).modPc slot fun p => { p with waiting := true } with depth := g.depth - 1 }
          if e.waiting then s2.joinTable gid slot fuel else .ok s2
        else .ok (s1.modGroup gid fun g => g.rejoin (p.pc + 12) p.mask e.joinPc s.tick)

/-- JOIN (R235): Reconverges two PC slots or pops a divergence-stack entry. JOIN_MISMATCH is taken in slot 0. -/
def execJoin (f : ExtE) (s : State) : Out :=
  s.execE 0x0D f [] fun g s =>
    match s.joinTable s.cur s.curSlot 66 with
    | .trap t s1 => if t.cause == .joinMismatch then .ok (s1.takeTrap s.cur false t) else Res.orKeep (.trap t s1) s.cur g
    | r => r.orKeep s.cur g

/-- What happens when a slot's lanes have ended and the slot is empty (R236). -/
def State.afterExit (s : State) (gid : Nat) (slot : Bool) : Res :=
  match s.group? gid with
  | none => .ok s
  | some g =>
    if (g.pc (!slot)).live then
      let s1 := if g.hnd then s.leaveHandler gid else s
      if (g.pc (!slot)).waiting then s1.joinTable gid (!slot) 66 else .ok s1
    else if g.depth != 0 then
      s.readStack gid g g.depth fun ws s1 =>
        let e := g.popped ws s.tick
        let s2 := s1.modGroup gid fun g => { g.setPc slot e with depth := g.depth - 1 }
        if !stackOk ws then .trap (TrapInfo.of .stackForm) s1 else
        let s3 := if g.hnd then s2.leaveHandler gid else s2
        if e.waiting then s3.joinTable gid slot 66 else .ok s3
    else .ok (((s.modGroup gid fun g => { g with ended := true, hnd := false }).groupGone gid).flushCore (coreOf gid))

/-- EXIT (R236): Ends the issuing slot's lanes, and the group when no slot or stack entry remains. -/
def execExit (f : ExtE) (s : State) : Out :=
  s.execE 0x11 f [] fun g s =>
    match ((s.endRegion s.cur).modGroup s.cur fun g => g.setPc s.curSlot PcSlot.empty).afterExit s.cur s.curSlot with
    | .trap t s1 => if t.cause == .joinMismatch then .ok (s1.takeTrap s.cur false t) else Res.orKeep (.trap t s1) s.cur g
    | r => r.orKeep s.cur g

/-- A call (R232): the link is written when the target passes CheckTarget, and the region ends. -/
def callBody (d : Byte) (link tgt : DWord) (s : State) : Res :=
  if targetOk tgt then .ok (((s.modGroup s.cur fun g => g.wrS d link).endRegion s.cur).goto tgt)
  else .trap (TrapInfo.of .targetForm) s

/-- CALL (R232): Writes the link and transfers to a relative target. -/
def execCall (f : ExtE) (s : State) : Out :=
  s.execE 0x0E f [f.d.toNat] fun g s => callBody f.d (s.pcNow g + 12) (relTarget (s.pcNow g) f.w2) s

/-- CALL_ABSOLUTE (R232): LEN 11 call to a literal absolute target. -/
def execCallAbsolute (f : ExtE) (lit : DWord) (s : State) : Out :=
  s.execE 0x0E f [f.d.toNat] fun g s => callBody f.d (s.pcNow g + 20) lit s

/-- RET (R232): Transfers to the address in s[A]. -/
def execRet (f : ExtE) (s : State) : Out := s.execE 0x0F f [f.a.toNat] fun g s => s.transfer (g.rdS f.a)

/-- JMP (R232): Transfers to s[A] plus a word displacement. -/
def execJmp (f : ExtE) (s : State) : Out :=
  s.execE 0x10 f [f.a.toNat] fun g s => s.transfer (relTarget (g.rdS f.a) f.w2)

/-- JMP_ABSOLUTE (R232): LEN 11 jump to a literal absolute target. -/
def execJmpAbsolute (f : ExtE) (lit : DWord) (s : State) : Out := s.execE 0x10 f [] fun _ s => s.transfer lit

/-- `idem` (R237): the region entry is the next instruction, with SIG as it then stands and the draw counters. -/
def idemBody (words : Nat) (g : Group) (s : State) : Res :=
  if g.two || g.depth != 0 then .trap (TrapInfo.of .idemDiverged) s
  else
    let p := g.pc s.curSlot
    .ok (s.setGroup s.cur { g with
      idem := true, restarts := 0, idemPc := p.pc + BitVec.ofNat 64 (4 * words), idemSig := (p.feed 0x12).sig
      idemDraws := g.draws })

/-- IDEM (R237): Compact form; opens an idempotent region, recording entry PC, SIG and draw counters. -/
def execIdem (_f : Word0) (s : State) : Out := s.issueWith 0x12 1 [] (idemBody 1)

/-- IDEM_EXT (R237): Extended form of idem. -/
def execIdemExt (_f : ExtA) (s : State) : Out := s.issueWith 0x12 3 [] (idemBody 3)

/-- `step n` (R238). -/
def stepBody (n : DWord) (g : Group) (s : State) : Res :=
  if bits n.toNat 63 32 != 0 then .trap (TrapInfo.of .operandRange) s
  else .ok (s.setGroup s.cur { g with stepCount := g.stepCount + 1, stepLast := n.extractLsb' 0 32, idem := false })

/-- A group whose count has reached a pending cut stops after its `step` (R398). -/
def State.stopAtCut (s : State) (gid : Nat) : State :=
  match s.group? gid with
  | none => s
  | some g =>
    let i := s.inst g.asid (bhOf gid)
    if i.cutPending && g.stepCount == i.cutTarget then s.modGroup gid fun g => { g with wait := .cutStop } else s

/-- STEP (R238): Compact form; counts a compiler step boundary, stopping at a pending cut. -/
def execStep (f : Word0) (s : State) : Out :=
  s.issueAfter 0x13 1 [f.b.toNat] (fun g s => stepBody (g.compactN f) g s) fun s => s.stopAtCut s.cur

/-- STEP_EXT (R238): Extended form of step with an immediate step number. -/
def execStepExt (f : ExtA) (s : State) : Out :=
  s.issueAfter 0x13 3 [] (stepBody (operandN f)) fun s => s.stopAtCut s.cur

/-- TRAP (R239): Takes SOFT_TRAP with argument n after the signature check. -/
def execTrap (f : ExtE) (s : State) : Out :=
  s.execE 0x14 f [] fun g s =>
    .trap { TrapInfo.of .softTrap with arg := f.w2.setWidth 64, resume := some (s.pcNow g + 12) } s

/-- `brk n` (R239): with CTX_DBG.BRK, BREAKPOINT, whose saved PC follows the instruction, whose byte is fed (R222). -/
def brkBody (n : DWord) (g : Group) (s : State) (words : Nat) : Res :=
  if 255 < n.toNat then .trap (TrapInfo.of .operandRange) s
  else if (s.ctx g.asid).dbg.getLsbD 0 then
    .trap { TrapInfo.of .breakpoint with arg := n, resume := some (s.pcNow g + BitVec.ofNat 64 (4 * words)) }
      (s.modGroup s.cur fun g => g.modPc s.curSlot fun p => p.feed 0x1F)
  else .ok s

/-- BRK (R239): Compact form; takes BREAKPOINT when CTX_DBG.BRK is set. -/
def execBrk (f : Word0) (s : State) : Out := s.issueWith 0x1F 1 [f.b.toNat] fun g s => brkBody (g.compactN f) g s 1

/-- BRK_EXT (R239): Extended form of brk with an immediate argument. -/
def execBrkExt (f : ExtA) (s : State) : Out := s.issueWith 0x1F 3 [] fun g s => brkBody (operandN f) g s 3

/-- ERET (R391): Returns from handler mode to the saved PC, mask and SIG. -/
def execEret (f : ExtE) (s : State) : Out :=
  s.execE 0x15 f [] fun g s =>
    if !g.hnd then .trap (TrapInfo.of .privilege) s
    else if !targetOk g.y[4] then .trap (TrapInfo.of .targetForm) s
    else .ok (s.returnFromTrap s.cur)

/-- CTX_EVQ as it reads (R380). -/
def CtxBh.evq (i : CtxBh) : DWord :=
  BitVec.ofNat 64 (bitAt i.evqEn 63 + i.evqGet * 2 ^ 48 + i.evqPut * 2 ^ 36 + i.evqCount * 2 ^ 23 + i.evqFrame)

/-- What a system register reads (R242), for those whose read changes nothing. -/
def State.sysRead (s : State) (gid : Nat) (g : Group) (n : Nat) : DWord :=
  let c := s.ctx g.asid
  match n with
  | 0x000 => g.gst (s.detmOf g) s.curSlot
  | 0x001 => s.grpId gid g
  | 0x002 => g.stepLast ++ g.stepCount
  | 0x003 => BitVec.ofNat 64 (bitAt g.tmrArmed 63 + g.tmrRemain.toNat)
  | 0x008 => g.ptVa
  | 0x009 => g.ptOld
  | 0x00A => g.ptNew
  | 0x00B => BitVec.ofNat 64 (g.ptStat.toNat * 4)
  | 0x00C => g.fdResult
  | 0x100 => c.part
  | 0x101 => c.privBase
  | 0x102 => c.privSz
  | 0x103 => c.ptRoot
  | 0x104 => c.ftVec
  | 0x105 => c.bankKey
  | 0x106 => c.qPrio
  | 0x107 => c.waitSwap
  | 0x108 => c.fpCtl
  | 0x109 => c.fabCtl
  | 0x10A => c.dbg
  | 0x10B => c.trVec
  | 0x10C => (s.inst g.asid (bhOf gid)).evq
  | 0x200 => BitVec.ofNat 64 (s.cyc (coreOf gid))
  | 0x201 => BitVec.ofNat 64 (s.core (coreOf gid)).suspScore
  | 0x202 => BitVec.ofNat 64 (s.core (coreOf gid)).suspLimit
  | _ => 0

/-- `mfsys` (R241). -/
def mfsysBody (f : ExtA) (g : Group) (s : State) : Res :=
  let n := bits f.w2.toNat 11 0
  if !sysPriv g.mode false n then .trap (TrapInfo.of .privilege) s
  else if n == 0x00E then .trap (TrapInfo.of .sysregValue) s
  else if n == 0x00D then
    let (v, s1) := s.poolPop (bhOf s.cur)
    .ok (s1.modGroup s.cur fun g => g.wrS f.d v)
  else .ok (s.setGroup s.cur (g.wrS f.d (s.sysRead s.cur g n)))

/-- MFSYS (R241): Reads a system register into s[D]. -/
def execMfsys (f : ExtA) (s : State) : Out := s.execA 0x16 f (mfsysBody f)

/-- Whether any group of a context is resident on any core (R20, R79, R85). -/
def State.anyResident (s : State) (asid : Nat) : Bool := s.groups.any fun g => g.2.asid == asid

/-- Whether a CTX_PART word is legal (R79). -/
def partOk (v : DWord) : Bool :=
  let n := v.toNat
  let vrf := bits n 4 0
  let spad := bits n 23 16
  let acct := bits n 39 32
  bits n 63 40 == 0 && bits n 31 24 == 0 && bits n 15 5 == 0 && decide (4 ≤ vrf) && decide (vrf ≤ 24)
    && decide (spad ≤ 112) && decide (acct ≤ 64) && decide (vrf * 256 + spad * 64 + acct * 32 ≤ 8192)

/-- A context register written with a value, or refused (R241, R242 and the rules it names). -/
def Ctx.write (c : Ctx) (resident : Bool) (n : Nat) (v : DWord) : Option Ctx :=
  let b := v.toNat
  match n with
  | 0x100 => if partOk v && !resident then some { c with part := v } else none
  | 0x101 => if bits b 63 55 == 0 && bits b 15 0 == 0 && !resident then some { c with privBase := v } else none
  | 0x102 => if decide (b ≤ 6) && !resident then some { c with privSz := v } else none
  | 0x103 => if bits b 47 39 == 0 && bits b 12 1 == 0 then some { c with ptRoot := v } else none
  | 0x104 => if bits b 63 56 == 0 && bits b 1 0 == 0 then some { c with ftVec := v } else none
  | 0x105 => if decide (b < 128) && b % 2 == 1 && !resident then some { c with bankKey := v } else none
  | 0x106 => if decide (b < 2 ^ 32) then some { c with qPrio := v } else none
  | 0x107 => if decide (b < 2 ^ 32) then some { c with waitSwap := v } else none
  | 0x108 => if decide (b < 32) && decide (b % 8 < 6) then some { c with fpCtl := v } else none
  | 0x109 => if decide (b < 2) then some { c with fabCtl := v } else none
  | 0x10A => if decide (b < 2) then some { c with dbg := v } else none
  | 0x10B => if bits b 62 56 == 0 && bits b 1 0 == 0 then some { c with trVec := v } else none
  | _ => none

/-- The reads of the descriptors of the two frames that a write of CTX_EVQ names (R380). -/
def State.evqReads (s : State) (b : Nat) (v : DWord) : State :=
  let f := bits v.toNat 22 0
  let here := [f, f + 1].filter fun k => bhOfFrame k == b && framePopulated k
  if bits v.toNat 62 60 == 0 && v.getLsbD 63 then here.foldl (fun s k => s.fdRead k) s else s

/-- CTX_EVQ of an instance written (R380): with EN = 1 the ring starts empty, in two ENGINE frames of the bulkhead. -/
def State.writeEvq (s : State) (asid b : Nat) (v : DWord) : Option State :=
  let f := bits v.toNat 22 0
  let good := fun k => bhOfFrame k == b && framePopulated k && fdSt (s.fd k) == 3
  if bits v.toNat 62 60 != 0 then none
  else if v.getLsbD 63 then
    if good f && good (f + 1) then
      some (s.modInst asid b fun i => { i with evqEn := true, evqGet := 0, evqPut := 0, evqCount := 0, evqFrame := f })
    else none
  else some (s.modInst asid b fun i => { i with evqEn := false, evqFrame := f })

/-- SUSP_SCORE written (R244, R414): a score at or above the limit quarantines the core, one below ends quarantine. -/
def State.writeScore (s : State) (core v : Nat) : State :=
  let s1 := s.modCore core fun c => c.score v (s.cyc core)
  if (s.core core).suspLimit ≤ v then s1.quarantine core
  else
    let s2 := s1.modCore core fun c => { c with quarantined := false }
    { s2 with teams := s2.teams.map fun t =>
        (t.1, if t.2.cores.contains core then { t.2 with migrateSince := none, migratePosted := false } else t.2) }

/-- SUSP_LIMIT written (R244, R414): a limit at or below the score quarantines the core. -/
def State.writeLimit (s : State) (core v : Nat) : State :=
  let s1 := s.modCore core fun c => { c with suspLimit := v }
  if v ≤ (s.core core).suspScore then s1.quarantine core else s1

/-- FT_HANDOFF written in handler mode (R72): handler mode ends as at `eret`, and the trapped slot waits for the plex at
its instruction, whose PC y1 gives, with the mask of the trap entry. The plex receives y0.CAUSE and bits 6:0 of the value. -/
def State.handOff (s : State) (gid : Nat) (v : DWord) : State :=
  match s.group? gid with
  | none => s
  | some g =>
    let c := (Cause.ofCode (g.y[0].extractLsb' 0 7)).getD .handlerNest
    let slot := g.savedSlot
    let seg := g.resumeSegment
    (((s.modGroup gid fun g => g.modPc slot fun p =>
      { p with pc := g.y[1], mask := g.saved.mask, sig := g.saved.sig, segment := seg, waiting := false }).endHandler
      gid).plexWait gid c).modGroup gid fun g => { g with handoff := some (v.extractLsb' 0 7) }

/-- What a write of a system register answers. -/
inductive SysWrite where
  | done (s : State)
  | refused (s : State)
  | handOff (s : State)
  | command (s : State)

/-- A write of a system register (R241 to R244). CTX_FPCTL shows its new value to every group of the context at once (R179; log
139). -/
def State.sysWrite (s : State) (gid : Nat) (g : Group) (n : Nat) (v : DWord) : SysWrite :=
  let b := v.toNat
  let mod (f : Group → Group) : SysWrite := .done (s.modGroup gid f)
  match n with
  | 0x000 => if b < 2 ^ 16 then mod fun g => { g with fenceLoss := g.fenceLoss && v.getLsbD 7 } else .refused s
  | 0x008 => mod fun g => { g with ptVa := v }
  | 0x009 => mod fun g => { g with ptOld := v }
  | 0x00A => mod fun g => { g with ptNew := v }
  | 0x00B => if b < 32 then .command s else .refused s
  | 0x00C => if bits b 59 23 == 0 then .done (s.fdCommand gid (bits b 63 61) (bits b 22 0) (v.getLsbD 60)) else .refused s
  | 0x00E => if g.hnd then (.handOff (s.handOff gid v)) else .refused s
  | 0x10C =>
    let s0 := s.evqReads (bhOf gid) v
    match s0.writeEvq g.asid (bhOf gid) v with
    | some s1 => .done s1
    | none => .refused s0
  | 0x201 => if b < 256 then .done (s.writeScore (coreOf gid) b) else .refused s
  | 0x202 => if b < 256 then .done (s.writeLimit (coreOf gid) b) else .refused s
  | _ => match (s.ctx g.asid).write (s.anyResident g.asid) n v with
    | some c => .done (s.modCtx g.asid fun _ => c)
    | none => .refused s

/-- PT_CMD by `mtsys` (R68, R436): the group issues nothing until the command, with its shootdown, has completed. -/
def ptCmdBody (v : DWord) (g : Group) (s : State) : Res :=
  s.inParts g .room (fun id s =>
    let s1 := s.ptCommand s.cur v (some id)
    (if s1.shoots.any fun x => x.pend == some id then 1 else 0, s1)) fun _ s => .ok s

/-- MTSYS (R241): Writes s[A] to a system register after privilege and value checks. -/
def execMtsys (f : ExtA) (s : State) : Out :=
  match s.current with
  | none => .fault .noGroup
  | some g =>
    let n := bits f.w2.toNat 11 0
    if g.scalarBusy.contains f.a.toNat then .next (s.stalled s.cur .room)
    else if !sysPriv g.mode true n then .next (s.takeTrap s.cur s.curSlot (TrapInfo.of .privilege))
    else match s.sysWrite s.cur g n (g.rdS f.a) with
      | .done s1 => .next (s1.retire s.cur s.curSlot 0x17 3)
      | .refused s1 => .next (s1.takeTrap s.cur s.curSlot (TrapInfo.of .sysregValue))
      | .handOff s1 => .next s1
      | .command s1 => .next (finish s.cur s.curSlot 0x17 3 (ptCmdBody (g.rdS f.a) g s1))

/-- FT_HANDOFF (R72): Hands the current trap from the handler to the plex. -/
def execFtHandoff (v : DWord) (s : State) : Out :=
  match s.current with
  | none => .fault .noGroup
  | some g => .next (if g.hnd then s.handOff s.cur v else s.takeTrap s.cur s.curSlot (TrapInfo.of .sysregValue))

/-- YIELD (R248): Compact form; restarts the slot's ready age. -/
def execYield (_f : Word0) (s : State) : Out := s.issueWith 0x18 1 [] fun _ s => .ok s

/-- YIELD_EXT (R248): Extended form of yield. -/
def execYieldExt (_f : ExtA) (s : State) : Out := s.issueWith 0x18 3 [] fun _ s => .ok s

/-- `tmset v` (R246). -/
def tmsetBody (v : DWord) (g : Group) (s : State) : Res :=
  if bits v.toNat 63 48 != 0 then .trap (TrapInfo.of .operandRange) s
  else .ok (s.setGroup s.cur { g with tmrRemain := v.extractLsb' 0 48, tmrArmed := v != 0 })

/-- TMSET (R246): Compact form; arms the group timer from s[B]. -/
def execTmset (f : Word0) (s : State) : Out := s.issueWith 0x19 1 [f.b.toNat] fun g s => tmsetBody (g.compactN f) g s

/-- TMSET_EXT (R246): Extended form of tmset with an immediate count. -/
def execTmsetExt (f : ExtA) (s : State) : Out := s.issueWith 0x19 3 [] (tmsetBody (operandN f))

/-- `rdcyc` (R247, R440): CYC, or in deterministic mode the number of the team's instructions that issued before it, once they have
retired. One that waits in its slot, a barrier's among them, or at a `detm` has issued (log 107). -/
def rdcycBody (d : Byte) (g : Group) (s : State) : Res :=
  let n := s.cyc (coreOf s.cur)
  match s.team? g.team with
  | none => .ok (s.setGroup s.cur (g.wrS d (BitVec.ofNat 64 n)))
  | some t =>
    let gs := s.groupsOf g.team
    if !t.detm then .ok (s.setGroup s.cur (g.wrS d (BitVec.ofNat 64 n)))
    else if s.pends.any (fun p => p.hold && gs.any fun e => e.1 == p.gid) || gs.any (fun e => !e.2.ended && e.2.atDetm.isSome) then
      .stall .room s
    else .ok (s.setGroup s.cur (g.wrS d (BitVec.ofNat 64 t.retired)))

/-- RDCYC (R247): Compact form; returns CYC, or the retired-instruction count in deterministic mode. -/
def execRdcyc (f : Word0) (s : State) : Out := s.issueWith 0x1A 1 [f.d.toNat] (rdcycBody f.d)

/-- RDCYC_EXT (R247): Extended form of rdcyc. -/
def execRdcycExt (f : ExtA) (s : State) : Out := s.issueWith 0x1A 3 [f.d.toNat] (rdcycBody f.d)

/-- `detm m` of some words (R249, R166, R440): every group of the team that has not ended must reach a `detm`; then the mode
changes and all of them retire, or every group traps OPERAND_RANGE where the operands differ. -/
def detmBody (words : Nat) (m : DWord) (g : Group) (s : State) : Res :=
  if 1 < m.toNat then .trap (TrapInfo.of .operandRange) s
  else match s.team? g.team with
    | none => .ok s
    | some t =>
      let on := m == 1
      let others := (s.groupsOf g.team).filter fun e => !e.2.ended && e.1 != s.cur
      if on && 1 < t.cores.length then .trap (TrapInfo.of .detmSpan) s
      else if !(others.all fun e => e.2.atDetm.isSome) then .stall (.detm on s.curSlot words) s
      else
        let same := others.all fun e => (e.2.atDetm.map fun d => d.1) == some on
        let s1 := s.endDetms g.team others on same
        if same then .ok (s1.modGroup s.cur fun g => { g with nextSlot := false })
        else .trap (TrapInfo.of .operandRange) s1

/-- DETM (R249): Compact form; turns the team's deterministic mode on or off once all groups arrive. -/
def execDetm (f : Word0) (s : State) : Out := s.issueWith 0x1B 1 [f.b.toNat] fun g s => detmBody 1 (g.compactN f) g s

/-- DETM_EXT (R249): Extended form of detm with an immediate operand. -/
def execDetmExt (f : ExtA) (s : State) : Out := s.issueWith 0x1B 3 [] (detmBody 3 (operandN f))

/-- SIGCK (R250): Checks SIG against SIGX and resets it. -/
def execSigck (f : ExtE) (s : State) : Out := s.execE 0x1C f [] fun g s => .ok (s.goto (s.pcNow g + 12))

/-- The cores of the gangs that occupy one of some cores, and these (R164). -/
def State.gangCores (s : State) (cores : List Nat) : List Nat :=
  let here := s.teams.filter fun t => t.2.cores.any fun c => cores.contains c
  (cores ++ (s.teams.filter fun t => here.any fun u => u.2.gang == t.2.gang).flatMap fun t => t.2.cores).eraseDups

/-- The cores that switch with some cores (R164): gangs lie in one cluster of 4 cores, so that 4 rounds reach all of them. -/
def State.switchedWith (s : State) (cores : List Nat) : List Nat :=
  (List.range 4).foldl (fun cs _ => s.gangCores cs) cores

/-- Whether a core cannot switch (R251): it is quarantined, or a context on it is being evicted or restored. -/
def State.switchBarred (s : State) (core : Nat) : Bool :=
  (s.core core).quarantined || s.teams.any fun t => t.2.cores.contains core && (s.bh (bhOfCore core)).preEvicting.contains t.2.gang

/-- Whether `ctxsw` switches a core that it names (R164, R251): the core holds a frozen context, and none of the cores that must
switch with it is barred. -/
def State.switchable (s : State) (core : Nat) : Bool :=
  let c := s.core core
  (c.resident.length == 2 || (c.resident.length == 1 && c.switchedIn.isNone))
    && !(s.switchedWith [core]).any fun k => s.switchBarred k

/-- The switch of R164 on one core: the frozen context issues. A core that switches only because a gang on it does, and holds no other
context, then issues nothing, until it switches again (log 135). -/
def Core.switch (c : Core) : Core :=
  match c.switchedIn with
  | some a => { c with switchedIn := c.resident.find? fun r => r != a }
  | none => { c with switchedIn := c.resident.head? }

/-- A tender's record of the cores on which the context of its class, as the broadcast found that, was switched out since
(R171). -/
def Tender.switchedOut (t : Tender) (core asid : Nat) : Tender :=
  let mine : Bool := t.work.elim false fun c => c.asid == asid
  if mine then t.losing (core % 24) else t

/-- The switch of a core: the context that is switched out loses its leave (R167), and its bids are lost (R171). -/
def State.switchCore (s : State) (core : Nat) : State :=
  let out := (s.core core).switchedIn
  let s1 := s.modCore core Core.switch
  let ts := s.teams.filter fun t => t.2.cores.contains core && some t.2.asid == out
  (ts.foldl (fun s t => s.releaseLeave t.1) s1).modBh (bhOfCore core) fun b =>
    { b with tenders := b.tenders.map fun t => t.switchedOut core (out.getD 65536) }

/-- The cores of the bulkhead, by their numbers in it, that `ctxsw` of a mask switches (R164, R251): those that it names and can
switch, and all on which a gang of theirs lies. -/
def State.switches (s : State) (v : DWord) : List Nat :=
  let base := 24 * bhOf s.cur
  let named := ((List.range 24).filter fun i => v.getLsbD i && s.switchable (base + i)).map fun i => base + i
  let with_ := s.switchedWith named
  (List.range 24).filter fun i => with_.contains (base + i)

/-- CTXSW (R251): Switches twin contexts on the named cores of the bulkhead. -/
def execCtxsw (f : ExtA) (s : State) : Out :=
  s.execA 0x1D f fun g s =>
    let v := g.rdS f.a
    if !g.sup then .trap (TrapInfo.of .privilege) s
    else if bits v.toNat 63 24 != 0 then .trap (TrapInfo.of .operandRange) s
    else
      let base := 24 * bhOf s.cur
      let is := s.switches v
      let m := is.foldl (fun m i => m ||| (1#64 <<< i)) (0 : DWord)
      .ok (is.foldl (fun s i => s.switchCore (base + i)) (s.setGroup s.cur (g.wrS f.d m)))

/-- A word marked poisoned at its home slice, and its L1 copies invalidated (R252). -/
def State.poisonWord (s : State) (w : Nat) : State :=
  let s1 := s.settle w
  { s1.setPoison w (some .l2) with
    cores := s1.cores.map fun c => (c.1, { c.2 with l1 := Table.erase c.2.l1 w }) }

/-- `finj sA, n` (R252). -/
def finjBody (f : ExtA) (g : Group) (s : State) : Res :=
  let v := g.rdS f.a
  if !g.sup then .trap (TrapInfo.of .privilege) s
  else match f.w2.toNat with
    | 1 =>
      if canonical v && windowOf v != .global then .trap (pipeTrap 1 { cause := .addrWindow, addr := v, level := 0 }) s
      else match s.resolvePipe s.cur g .globalOnly .store false v 1 with
        | (.error e, s1) => .trap (pipeTrap 1 e) s1
        | (.ok p, s1) => match p with
          | (_, _, .mem dpa _ _ _) :: _ => match s1.gateCheck (bhOf s.cur) (dpa / 2 ^ 16) 2 with
            | some c => .ok (s1.deferFailure s.cur { cause := c, pc := s.pcNow g, lane := 0, addr := v, kind := 1 })
            | none => .ok (s1.poisonWord (dpa / 4))
          | _ => .ok s1
    | 2 => .ok (s.suspect (coreOf s.cur) (v.toNat % 256))
    | _ => .ok s

/-- FINJ (R252): Injects a signature, poison or suspicion fault for testing. -/
def execFinj (f : ExtA) (s : State) : Out :=
  s.issueAfter 0x1E 3 [f.a.toNat] (finjBody f) fun s =>
    if f.w2 == 0 then s.modGroup s.cur fun g => g.modPc s.curSlot fun p => { p with flip := true } else s

end Sys2Proof.Machine
end

