-- ==== Sys2Proof/Machine/Engine.lean ====
section
/-! DEFINITION. What the engines share: their reads, writes and atomics (R39, R55, R100, R133, R141), the elements of a
shape (R178, R258), requests with their counters and their retirement (R134), and the heavy classes (R167). -/

namespace Sys2Proof.Machine

/-- The asker of an engine's access: it has no lane, no core's translation cache and no private window. A request
without a group stands in its bulkhead. -/
def State.engineAsker (s : State) (ni bh asid : Nat) (sup : Bool) (gid : Option Nat) : Asker :=
  { gid := gid.getD (bh * 24 * 128), asid := asid, sup := sup
    team := gid.bind fun i => (s.group? i).bind fun g => s.team? g.team, engine := some ni }

/-- The network interface of the engine that performs a kind of request (R115); a matrix unit's and an advance's accesses go through
the copy engine's (log 102). -/
def EngKind.ni (k : EngKind) : Nat :=
  match k with
  | .copy _ _ _ _ _ | .mirror _ _ _ _ _ | .matrix | .signal _ _ => niCopy
  | .coll _ _ _ => niCollective
  | .gather _ => niGather
  | .snap _ _ _ => niStanding

/-- The asker of an engine request. -/
def State.reqAsker (s : State) (r : EngReq) : Asker :=
  { s.engineAsker r.kind.ni r.bh r.asid r.supervisor r.gid with req := some r.id }

/-- Whether a bulkhead may run the work of a group or launch (R37): tenant work needs a valid tenant entry, and the
supervisor's own is no tenant's (log 108). -/
def State.tenantRuns (s : State) (bh : Nat) (supervisor : Bool) : Bool := supervisor || (s.tenantOf bh).isSome

/-- Whether a request goes on: it has not finished and does not wait for the plex. -/
def EngReq.running (r : EngReq) : Bool := !r.finished && r.wait.isNone

/-- Whether an engine works at a request now: it is the supervisor's, or its bulkhead runs tenant work (R37). -/
def State.works (s : State) (r : EngReq) : Bool := r.running && s.tenantRuns r.bh r.supervisor

/-- Whether an engine works for a group, by its number (R37): a group that is away is no supervisor's. -/
def State.worksFor (s : State) (bh gid : Nat) : Bool := s.tenantRuns bh ((s.group? gid).elim false fun g => g.supervisor)

/-- What an engine's access answers: it was performed, it cannot be performed yet, or a check failed. -/
inductive EngAns (α : Type) where
  | done (a : α) (s : State)
  | wait (s : State)
  | fail (c : Cause) (a : DWord) (s : State)

/-- The pieces of an engine's access, with the gate's check (R12 to R15, R28, R39, R55). -/
def State.enginePieces (s : State) (q : Asker) (k : AccessKind) (need : Nat) (a : DWord) (n : Nat) : EngAns Pieces :=
  match s.resolve q .all k false 0 a n with
  | (.error f, s1) => .fail f.cause f.addr s1
  | (.ok p, s1) => match s1.gateRefusal q.gid need p with
    | some c => .fail c a s1
    | none => .done p s1

/-- A read of memory by an engine at the home slice or at a helper slice, where its network interface has an entry for the line;
one at the home slice is counted (R114, R115). -/
def State.engineRead (s : State) (q : Asker) (dpa va n : Nat) : Nat × Option PoisonLevel × State :=
  let (v, l) := s.homeRead dpa n
  let ni := q.engine.getD niCopy
  let (k, s1) := s.routedRead (bhOf q.gid) ni (some (q.asid, va)) dpa
  (v, l, s1.engMeet (bhOf q.gid) ni dpa k)

/-- An engine exchanges counters with the home slice of a DPA (R96). -/
def State.engHome (s : State) (q : Asker) (dpa : Nat) : State := s.engMeet (bhOf q.gid) (q.engine.getD niCopy) dpa (s.homeSlice dpa)

/-- A read of a peer device, or of the device itself through its export (R26), by an engine: its value, and whether it is
poisoned, or the refusal of a peer. What a peer answers is a free value (log 8). -/
def State.engineFabric (s : State) (q : Asker) (device off n : Nat) : Except Cause (Nat × Bool) × State :=
  if device == s.devId then
    match s.exported (bhOf q.gid) .load off with
    | .place asid dpa _ s1 =>
      let (v, l) := s1.homeRead dpa n
      (.ok (v, l.isSome), ((s1.noteRead (some (asid, off)) dpa).holeCheck dpa 0).engHome q dpa)
    | .refused c s1 => (.error c, s1)
  else s.peerRead n

/-- Whether an engine's read can be performed now: its region is not quiesced (R111), no grant is on its way for its words (R90), no
page fault waits for the plex at the export (R75), no link to a peer retrains (R419). -/
def State.engineReadReady (s : State) (q : Asker) (p : Pieces) : Bool :=
  p.all fun x => match x.2.2 with
    | .mem dpa _ _ _ => !s.quiesced dpa && s.quiet dpa x.2.1
    | .fabric d off =>
      if d == s.devId then
        match s.exported (bhOf q.gid) .load off with
        | .place _ dpa _ s1 => !s1.quiesced dpa
        | .refused c _ => !c.isPage
      else s.linkOf d != .training && s.linkOf d != .retraining
    | _ => true

/-- Who an engine's access waits for a link as (R419). -/
def Asker.linkKey (q : Asker) : Nat := (q.req.elim 0 engineKey)

/-- A piece read by an engine: its value, and whether it is poisoned, or the refusal of a peer. -/
def State.enginePiece (s : State) (q : Asker) (x : Nat × Nat × Place) : Except Cause (Nat × Bool) × State :=
  match x.2.2 with
  | .mem dpa va _ _ =>
    let (v, l, s1) := s.engineRead q dpa va x.2.1
    (.ok (v, l.isSome), s1)
  | .spad c off =>
    let (v, l) := s.spadLoad c q.asid off x.2.1
    (.ok (v, l.isSome), s)
  | .fabric d off => s.engineFabric q d off x.2.1
  | .multicast _ _ => (.ok (0, false), s)

/-- Bytes read by an engine, and whether they are poisoned (R406). One whose link retrains waits for the budget at most (R419). -/
def State.engineLoad (s : State) (q : Asker) (a : DWord) (n : Nat) : EngAns (Nat × Bool) :=
  match s.enginePieces q .load 1 a n with
  | .wait s1 => .wait s1
  | .fail c b s1 => .fail c b s1
  | .done p s1 =>
    if s1.linkLost q.linkKey 0 then .fail .fabricReadLost a (s1.linkDone q.linkKey)
    else if !s1.engineReadReady q p then .wait (if q.req.isSome then s1.linkHold q.linkKey 0 p else s1)
    else
      let r := p.foldl (fun (acc : Except Cause (Nat × Bool) × State) x => match acc.1 with
        | .error _ => acc
        | .ok (v, l) => match acc.2.enginePiece q x with
          | (.ok (v', l'), s2) => (.ok (v + v' * 2 ^ (8 * x.1), l || l'), s2)
          | (.error c, s2) => (.error c, s2)) (.ok (0, false), s1.linkDone q.linkKey)
      match r with
      | (.ok v, s2) => .done v s2
      | (.error c, s2) => .fail c a s2

/-- How many records the pieces of an engine's write make (R103). -/
def State.engineCaptures (s : State) (q : Asker) (p : Pieces) : Nat :=
  p.foldl (fun n x => match x.2.2 with
    | .mem dpa va _ _ => n + s.capturesOf (some (q.asid, va)) dpa x.2.1
    | _ => n) 0

/-- Whether the pieces of an engine's write can be performed at their home slices now: the records of all of them have room
(R105). -/
def State.engineReady (s : State) (q : Asker) (p : Pieces) : Bool :=
  let all := s.engineCaptures q p
  p.all fun x => match x.2.2 with
    | .mem dpa va _ _ => !s.quiesced dpa && s.quiet dpa x.2.1
        && s.captureRoomFor (some (q.asid, va)) dpa x.2.1 (all - s.capturesOf (some (q.asid, va)) dpa x.2.1)
    | _ => true

/-- Who a write posted by an engine belongs to (R141): the request's group, slot and PC. -/
def EngReq.acc (r : EngReq) : Acc := { gid := r.gid.getD (r.bh * 24 * 128), slot := r.slot, pc := r.pc, asid := r.asid, req := some r.id }

/-- The parts, by offset and size, of `n` bytes from an offset that lie in one word each. -/
def wordParts (off n : Nat) : List (Nat × Nat) :=
  (wordsOf off n).map fun w => (max (4 * w) off, min (4 * w + 4) (off + n) - max (4 * w) off)

/-- A piece of an engine's write posted to a device, word by word (R141). -/
def State.postWords (s : State) (c : Acc) (a : DWord) (at_ n v device off : Nat) : State :=
  (wordParts off n).foldl (fun s p => s.post c 0 (at_ + p.1 - off) p.2 (pieceOf v (p.1 - off) p.2) device p.1 a) s

/-- One piece of an engine's write performed, with the cause for which it is refused (R100, R141, R417). -/
def State.enginePut (s : State) (q : Asker) (c : Acc) (a : DWord) (x : Nat × Nat × Place) (v : Nat) : Option Cause × State :=
  match x.2.2 with
  | .mem dpa va _ _ => match (s.engHome q dpa).homeWrite (some (q.asid, va)) dpa x.2.1 v with
    | .ok t => (none, t.engHome q dpa)
    | .error e => (some e, s)
  | .spad core off => (none, s.spadStore core q.asid off x.2.1 v)
  | .fabric d off => (none, s.postWords c a x.1 x.2.1 v d off)
  | .multicast set off =>
    let ds := mcMembers (s.mcEntry (bhOf q.gid) set)
    (if ds.all fun d => s.deviceOk (bhOf c.gid) d then none else some .fabricDevice,
      s.postEach c ds (fun s d => s.postWords c a x.1 x.2.1 v d off) fun s => s)

/-- Bytes written by an engine. -/
def State.engineStore (s : State) (q : Asker) (c : Acc) (a : DWord) (n v : Nat) : EngAns Unit :=
  match s.enginePieces q .store 2 a n with
  | .wait s1 => .wait s1
  | .fail c b s1 => .fail c b s1
  | .done p s1 =>
    if !s1.engineReady q p then .wait s1
    else match p.foldl (fun (acc : Option Cause × State) x =>
        if acc.1.isSome then acc else acc.2.enginePut q c a x (pieceOf v x.1 x.2.1)) (none, s1) with
      | (some e, s2) => .fail e a s2
      | (none, s2) => .done () s2

/-- A value added to an aligned 8-byte word by an atomic at its home slice (R158, R364). -/
def State.engineAdd (s : State) (q : Asker) (a x : DWord) : EngAns Unit :=
  match s.enginePieces q .atomic 6 a 8 with
  | .wait s1 => .wait s1
  | .fail c b s1 => .fail c b s1
  | .done p s1 =>
    if !s1.engineReady q p then .wait s1
    else match p with
      | (_, _, .mem dpa va _ _) :: _ =>
        let s2 := (s1.engHome q dpa).settleAll dpa 8
        match s2.homeWrite (some (q.asid, va)) dpa 8 ((BitVec.ofNat 64 (s2.loadNow dpa 8) + x).toNat) with
        | .ok s3 => .done () (s3.engHome q dpa)
        | .error c => .fail c a s2
      | _ => .fail .addrWindow a s1

/-- A request added at the end of the engines' list (R134), with its group's counter (R96, R133); its engine counter rises. -/
def State.issueRequest (s : State) (g : Group) (cls : Nat) (kind : EngKind) : Nat × State :=
  let (id, s0) := s.fresh
  let s1 := s0.engTake (bhOf s.cur) kind.ni (s.core (coreOf s.cur)).lcc
  (id, { s1.modGroup s.cur fun g => g.wrE cls (g.rdE cls + 1) with
    engines := s1.engines ++
      [{ id := id, cls := cls, bh := bhOf s.cur, asid := g.asid, gid := some s.cur, slot := s.curSlot
         pc := (g.pc s.curSlot).pc, supervisor := g.sup, kind := kind, finished := false, cause := none, addr := 0
         access := 0, wait := none }] })

/-- The request with a number. -/
def State.request? (s : State) (id : Nat) : Option EngReq := s.engines.find? fun r => r.id == id

/-- A request replaced. -/
def State.setRequest (s : State) (r : EngReq) : State :=
  { s with engines := s.engines.map fun x => if x.id == r.id then r else x }

/-- A step that cannot be made keeps only what a read began to wait for (R419). -/
def State.waited (s t : State) : State := { s with linkWaits := t.linkWaits }

/-- A request that waits for the plex (R69). -/
def State.requestWaits (s : State) (id : Nat) (c : Cause) : State :=
  match s.request? id with
  | some r => s.setRequest { r with wait := some c }
  | none => s

/-- A failing check of a request: a page fault waits for the plex, any other cause fails the request (R69, R368). -/
def State.requestFails (s : State) (id : Nat) (c : Cause) (a : DWord) (k : BitVec 2) : State :=
  match s.request? id with
  | some r =>
    let s1 := s.setRequest { r with addr := a, access := k }
    if c.isPage then s1.requestWaits id c else s1.engineDone id (some c)
  | none => s

/-- A device-made advance of a completion object (R158), as a request of its own; `task` is the sequence number of the
task that has ended. -/
def State.signalFor (s : State) (bh asid : Nat) (sup : Bool) (addr : DWord) (task : Option Nat) : State :=
  let (id, s1) := s.fresh
  { s1 with engines := s1.engines ++
      [{ id := id, cls := 4, bh := bh, asid := asid, gid := none, slot := false, pc := 0, supervisor := sup
         kind := .signal addr task, finished := false, cause := none, addr := addr, access := 2, wait := none }] }

/-- A device-made advance where the address is not 0 (R158). -/
def State.signal (s : State) (bh asid : Nat) (sup : Bool) (addr : DWord) : State :=
  if addr == 0 then s else s.signalFor bh asid sup addr none

/-- The tender with a sequence number in a bulkhead changed. -/
def State.modTender (s : State) (bh seq : Nat) (f : Tender → Tender) : State :=
  s.modBh bh fun b => { b with tenders := b.tenders.map fun t => if t.seq == seq then f t else t }

/-- A request removed from the list. -/
def State.dropRequest (s : State) (id : Nat) : State := { s with engines := s.engines.filter fun r => r.id != id }

/-- The end of an advance: the task that it reports shows as done (R434). -/
def State.endSignal (s : State) (r : EngReq) (task : Option Nat) : State :=
  match task with
  | some n => (s.dropRequest r.id).modTender r.bh n fun t => { t with st := .done }
  | none => s.dropRequest r.id

/-- An advance that is dropped: SIGNAL_LOST (R158, R381). -/
def State.signalLost (s : State) (r : EngReq) (addr : DWord) (task : Option Nat) : State :=
  (s.postSup .signalLost addr.toNat r.asid).endSignal r task

/-- One attempt at an advance (R158). -/
def State.trySignal (s : State) (r : EngReq) (addr : DWord) (task : Option Nat) : State :=
  if addr.toNat % 8 != 0 then s.signalLost r addr task
  else match s.engineAdd (s.reqAsker r) addr 1 with
    | .done _ s1 => s1.endSignal r task
    | .wait s1 => s1
    | .fail c _ s1 => if c.isPage then s1.requestWaits r.id c else s1.signalLost r addr task

/-- Bits of an element of a format (R173, R174, R177, R178). -/
def fcBits (fc : Nat) : Nat :=
  match fc with
  | 14 => 4
  | 16 | 17 => 6
  | 18 => 2
  | 19 => 8
  | 20 => 4
  | n => 8 * tySize n

/-- Bytes of a row of a shape (R258). -/
def Shape.rowBytes (h : Shape) : Nat := (h.cols.toNat * fcBits h.fc.toNat + 7) / 8

/-- An address from its bits 55:0: canonical (R12). -/
def address (b : BitVec 56) : DWord := b.signExtend 64

/-- The address of row `r` of a shape. -/
def Shape.rowAddr (h : Shape) (r : Nat) : DWord := address h.base + BitVec.ofNat 64 (r * h.pitch.toNat)

/-- Whether a shape has an element (r, c). -/
def Shape.has (h : Shape) (r c : Nat) : Bool := decide (r < h.rows.toNat) && decide (c < h.cols.toNat)

/-- What the reads of many elements gather: codes by number, poison, the first failing check, and whether one must wait. -/
structure Codes where
  codes : Table Nat
  poison : Bool
  fail : Option (Cause × DWord)
  waits : Bool

/-- `n` elements of a row of a shape from column `c0`, of which those outside it are left out (R178): a key for each
element is `key + step` times its number. -/
def State.rowCodes (s : State) (q : Asker) (h : Shape) (r c0 n key step : Nat) (acc : Codes) : Codes × State :=
  if acc.fail.isSome || acc.waits || h.rows.toNat ≤ r || h.cols.toNat ≤ c0 then (acc, s)
  else
    let w := fcBits h.fc.toNat
    let m := min n (h.cols.toNat - c0)
    let first := c0 * w / 8
    let last := ((c0 + m) * w + 7) / 8
    match s.engineLoad q (h.rowAddr r + BitVec.ofNat 64 first) (last - first) with
    | .done (v, p) s1 =>
      ({ acc with codes := (List.range m).foldl (fun t i =>
           Table.set t (key + step * i) (v / 2 ^ ((c0 + i) * w - 8 * first) % 2 ^ w)) acc.codes
                  poison := acc.poison || p }, s1)
    | .wait s1 => ({ acc with waits := true }, s1)
    | .fail c a s1 => ({ acc with fail := some (c, a) }, s1)

/-- The class of an operation with formats in two classes: the one with the larger increment, which for the classes 0
to 2 is the higher (R167, R449). -/
def heavyOf (a b : Option Nat) : Option Nat :=
  match a, b with
  | some x, some y => some (max x y)
  | some x, none => some x
  | none, y => y

/-- Whether a team holds leave for a class; where it does not and has not asked, it asks (R167, R378). -/
def State.askLeave (s : State) (tid cls : Nat) : State :=
  match s.team? tid with
  | none => s
  | some t =>
    if t.held.contains cls || t.asked.contains cls then s
    else (s.modTeam tid fun t => { t with asked := t.asked ++ [cls] }).modBh t.bh fun b =>
      { b with leaveQueue := b.leaveQueue ++ [(tid, cls)] }

/-- An instruction of a heavy class (R167): it stalls until its team holds leave. -/
def State.withLeave (s : State) (g : Group) (cls : Option Nat) (go : State → Res) : Res :=
  match cls, s.team? g.team with
  | some c, some t => if t.held.contains c then go s else .stall .leave (s.askLeave g.team c)
  | _, _ => go s

end Sys2Proof.Machine
end

