-- ==== Sys2Proof/Machine/VecLane.lean ====
section
/-! DEFINITION. The lane effects of the integer, logic, move, mask and lane instructions (R270 to R284): what each
active lane receives. The meanings of VecInt.lean and the sweeps use them. -/

namespace Sys2Proof.Machine

/-- A lane's low 32 bits as i32. -/
def sx32 (x : DWord) : Int := (x.extractLsb' 0 32).toInt

/-- A lane's low 32 bits as n32. -/
def zx32 (x : DWord) : Int := ((x.extractLsb' 0 32).toNat : Int)

/-- An integer result of a type, clamped with SAT and wrapped without (R186); the destination keeps its low bits. -/
def intResult (ty : Nat) (sat : Bool) (x : Int) : DWord × Flags :=
  if sat then
    let (c, fl) := clampInt ty x
    (BitVec.ofInt 64 c, fl)
  else (BitVec.ofInt 64 x, .none)

/-- SAT of the fields. -/
def VEnv.sat (v : VEnv) : Bool := v.f.sat == 1

/-- A MOD bit of the fields. -/
def VEnv.modBit (v : VEnv) (i : Nat) : Bool := v.f.mod.getLsbD i

/-- `vadd.i32` (R270). -/
def effAdd32 : VEff := fun v => .ok (v.each 0 fun i => intResult 4 v.sat (sx32 (v.a i) + sx32 (v.b i)))
/-- `vsub.i32` (R270). -/
def effSub32 : VEff := fun v => .ok (v.each 0 fun i => intResult 4 v.sat (sx32 (v.a i) - sx32 (v.b i)))
/-- `vmul.i32` (R270). -/
def effMul32 : VEff := fun v => .ok (v.each 0 fun i => intResult 4 v.sat (sx32 (v.a i) * sx32 (v.b i)))
/-- `vmulh.i32` (R270): bits 63:32 of the product, as n32 with MOD bit 2. -/
def effMulh32 : VEff := fun v => .ok (v.map fun i =>
  if v.modBit 2 then BitVec.ofInt 64 (zx32 (v.a i) * zx32 (v.b i)) >>> 32
  else BitVec.ofInt 64 (sx32 (v.a i) * sx32 (v.b i)) >>> 32)
/-- `vmad.i32` (R270): the sum formed exactly, then wrapped or clamped. -/
def effMad32 : VEff := fun v => .ok (v.each 0 fun i =>
  intResult 4 v.sat (sx32 (v.a i) * sx32 (v.b i) + sx32 (v.c i)))
/-- `vadd.i64` (R270). -/
def effAdd64 : VEff := fun v => .ok (v.each 0 fun i => intResult 6 v.sat ((v.a i).toInt + (v.b i).toInt))
/-- `vsub.i64` (R270). -/
def effSub64 : VEff := fun v => .ok (v.each 0 fun i => intResult 6 v.sat ((v.a i).toInt - (v.b i).toInt))
/-- `vabs.i32` (R270). -/
def effAbs32 : VEff := fun v => .ok (v.each 0 fun i => intResult 4 v.sat (sx32 (v.a i)).natAbs)

/-- Byte `k` of a lane as i8, or as n8. -/
def byteOf (n : Bool) (x : DWord) (k : Nat) : Int := intOf (if n then 1 else 0) (x.toNat / 2 ^ (8 * k))

/-- `vdot4.i8` (R270). -/
def effDot4 : VEff := fun v => .ok (v.each 0 fun i =>
  let dot := (List.range 4).foldl (fun s k => s + byteOf (v.modBit 2) (v.a i) k * byteOf (v.modBit 3) (v.b i) k) 0
  intResult 4 v.sat (sx32 (v.c i) + dot))
/-- `vmulw` (R270). -/
def effMulw : VEff := fun v => .ok (v.map fun i =>
  if v.modBit 2 then BitVec.ofInt 64 (zx32 (v.a i) * zx32 (v.b i)) else BitVec.ofInt 64 (sx32 (v.a i) * sx32 (v.b i)))

/-- Bits of an element of a type in a lane (R265). -/
def elemBits (ty : Nat) : Nat := 8 * tySize ty

/-- Elements of a type in a lane or pair (R265). -/
def elemCount (ty : Nat) : Nat := if elemBits ty < 32 then 32 / elemBits ty else 1

/-- Element `p` of a lane. -/
def elemOf (ty : Nat) (x : DWord) (p : Nat) : Nat := x.toNat / 2 ^ (elemBits ty * p) % 2 ^ elemBits ty

/-- A lane from its elements. -/
def ofElems (ty : Nat) (fn : Nat → Nat) : DWord :=
  BitVec.ofNat 64 ((List.range (elemCount ty)).foldl (fun s p => s + fn p % 2 ^ elemBits ty * 2 ^ (elemBits ty * p)) 0)

/-- The pattern of an integer as an element. -/
def elemPat (ty : Nat) (x : Int) : Nat := unsigned (elemBits ty) x

/-- An element-wise integer operation on two operands. -/
def elemWise (ty : Nat) (op : Int → Int → Int) (a b : DWord) : DWord :=
  ofElems ty fun p => elemPat ty (op (intOf ty (elemOf ty a p)) (intOf ty (elemOf ty b p)))

/-- TY of the fields. -/
def VEnv.ty (v : VEnv) : Nat := v.f.ty.toNat

/-- `vmin` (R271). -/
def effMin : VEff := fun v => .ok (v.map fun i => elemWise v.ty min (v.a i) (v.b i))
/-- `vmax` (R271). -/
def effMax : VEff := fun v => .ok (v.map fun i => elemWise v.ty max (v.a i) (v.b i))
/-- `vclamp` (R271): min(max(A, B), C). -/
def effClamp : VEff := fun v => .ok (v.map fun i =>
  elemWise v.ty min (elemWise v.ty max (v.a i) (v.b i)) (v.c i))
/-- `vsat` (R271): A read as i32, n32, i64 or n64, clamped to the type and extended to 32 bits. -/
def effSat : VEff := fun v => .ok (v.each 0 fun i =>
  let src := (if v.modBit 2 then 6 else 4) + (if v.modBit 3 then 1 else 0)
  let (c, fl) := clampInt v.ty (intOf src (v.a i).toNat)
  (BitVec.ofInt 64 c, fl))

/-- `vand` (R272). -/
def effAnd : VEff := fun v => .ok (v.map fun i => v.a i &&& v.b i)
/-- `vor` (R272). -/
def effOr : VEff := fun v => .ok (v.map fun i => v.a i ||| v.b i)
/-- `vxor` (R272). -/
def effXor : VEff := fun v => .ok (v.map fun i => v.a i ^^^ v.b i)
/-- `vandn` (R272). -/
def effAndn : VEff := fun v => .ok (v.map fun i => v.a i &&& ~~~(v.b i))

/-- The count of a shift: B bits 4:0 (R272); of a 6-bit immediate of 32 or more the model takes bits 4:0 too (log 117). -/
def VEnv.count (v : VEnv) (i : Nat) : Nat := (v.b i).toNat % 32

/-- The low 32 bits of a lane. -/
def VEnv.a32 (v : VEnv) (i : Nat) : Word := (v.a i).extractLsb' 0 32

/-- `vshl` (R272). -/
def effShl : VEff := fun v => .ok (v.map fun i => (v.a32 i <<< v.count i).setWidth 64)
/-- `vshr` (R272). -/
def effShr : VEff := fun v => .ok (v.map fun i => (v.a32 i >>> v.count i).setWidth 64)
/-- `vsra` (R272). -/
def effSra : VEff := fun v => .ok (v.map fun i => ((v.a32 i).sshiftRight (v.count i)).setWidth 64)
/-- `vrot` (R272). -/
def effRot : VEff := fun v => .ok (v.map fun i => ((v.a32 i).rotateLeft (v.count i)).setWidth 64)

/-- pos of a bit field (R273). -/
def VEnv.pos (v : VEnv) (i : Nat) : Nat := (v.b i).toNat % 32
/-- len of a bit field (R273): above 32 counts as 32. -/
def VEnv.len (v : VEnv) (i : Nat) : Nat := min 32 ((v.b i).toNat / 256 % 64)

/-- `vbfe` (R273). -/
def effBfe : VEff := fun v => .ok (v.map fun i =>
  let x := (v.a32 i).toNat / 2 ^ v.pos i % 2 ^ v.len i
  if v.modBit 2 && decide (0 < v.len i) then BitVec.ofInt 64 (signed (v.len i) x) else BitVec.ofNat 64 x)
/-- `vbfi` (R273). -/
def effBfi : VEff := fun v => .ok (v.map fun i =>
  let m : DWord := BitVec.ofNat 64 ((2 ^ v.len i - 1) * 2 ^ v.pos i)
  (v.c i &&& ~~~m) ||| (((v.a i) <<< v.pos i) &&& m))

/-- Set bits of a word. -/
def popcount {w : Nat} (x : BitVec w) : Nat := (List.range w).foldl (fun n i => if x.getLsbD i then n + 1 else n) 0

/-- `vpopc` (R273). -/
def effPopc : VEff := fun v => .ok (v.map fun i => BitVec.ofNat 64 (popcount (v.a32 i)))
/-- `vclz` (R273): 32 for 0. -/
def effClz : VEff := fun v => .ok (v.map fun i => BitVec.ofNat 64 (32 - bitLength (v.a32 i).toNat))

/-- `vmov` (R274), also of pairs. -/
def effMov : VEff := fun v => .ok (v.map v.a)
/-- `vli` (R274): IMM32. -/
def effLi : VEff := fun v => .ok (v.map fun _ => v.f.w2.setWidth 64)
/-- `vid` (R274): the lane's index, or its global lane index with MOD bit 2. -/
def effId : VEff := fun v => .ok (v.map fun i => BitVec.ofNat 64 (if v.modBit 2 then v.gli + i else i))

/-- The integer conditions of R275, by code. -/
def intCond (cc : Nat) (x y : Int) : Bool :=
  match cc with
  | 0 => x == y
  | 1 => x != y
  | 2 => decide (x < y)
  | 3 => decide (x ≤ y)
  | 4 => decide (y < x)
  | _ => decide (y ≤ x)

/-- A truth value as a lane value. -/
def boolLane (b : Bool) : DWord := if b then 1 else 0

/-- `vcmp` (R275). -/
def effCmp : VEff := fun v => .ok (v.map fun i =>
  boolLane (intCond (v.f.mod.toNat / 4) (intOf v.ty (v.a i).toNat) (intOf v.ty (v.b i).toNat)))
/-- `vsel` (R276): A where k[C] is set, B otherwise. -/
def effSel : VEff := fun v => .ok (v.map fun i => if (v.g.rdK v.f.c.toNat).getLsbD i then v.a i else v.b i)

/-- The active lanes, ascending. -/
def VEnv.lanes (v : VEnv) : List Nat := Mask.lanes v.m

/-- `vmatch` (R278): the lowest active lane with the same value. -/
def effMatch : VEff := fun v =>
  let l := v.lanes
  .ok (v.map fun i => BitVec.ofNat 64 ((l.find? fun j => v.a j == v.a i).getD 0))
/-- `vmrank` (R278): active lanes below with the same value, or all of them with MOD bit 3. -/
def effMrank : VEff := fun v =>
  let l := v.lanes
  .ok (v.map fun i => BitVec.ofNat 64 (l.countP fun j => v.a j == v.a i && (v.modBit 3 || decide (j < i))))
/-- `vbfly` (R279): the partner at distance 2^s supplies its A whether or not it is active. An s from a scalar is all 64 bits
of it, as are the j of `vbcast` and the m of `vtern.get` (log 143). -/
def effBfly : VEff := fun v =>
  let s := (v.b 0).toNat
  if 7 < s then .error (.of .operandRange) else .ok (v.map fun i => v.a (i ^^^ 2 ^ s))
/-- `vshfl` (R280). -/
def effShfl : VEff := fun v => .ok (v.map fun i => v.a ((v.b i).toNat % 256))
/-- `vbcast` (R280; log 143 for a j from a scalar). -/
def effBcast : VEff := fun v =>
  let j := (v.b 0).toNat
  if 255 < j then .error (.of .operandRange) else .ok (v.map fun _ => v.a j)
/-- `vhash` (R283). -/
def effHash : VEff := fun v => .ok (v.map fun i =>
  ((mix64 ((if v.modBit 2 then v.a i else (v.a32 i).setWidth 64) ^^^ v.b i)) >>> 32))

/-- Floating minimum and maximum of two codes of a format, without rounding (R288): the other operand where exactly
one is NaN; −0 is below +0. -/
def fMinMax (fm : Fmt) (mx : Bool) (a b : Nat) : Nat × Flags :=
  let x := fm.value a
  let y := fm.value b
  let fl : Flags := { nv := fm.signalling a || fm.signalling b }
  if x.isNan && y.isNan then (fm.nanCode, fl)
  else if x.isNan then (b, fl)
  else if y.isNan then (a, fl)
  else
    let less := x.lt y || (!y.lt x && x.neg && !y.neg)
    (if less == mx then b else a, fl)

/-- The accumulator of a scan or reduction column before the first lane (R281): the identity. -/
def scanIdentity (op ty : Nat) : Int :=
  if ty == 10 then match op with
    | 0 => 0
    | 1 => 0x7F800000
    | _ => 0xFF800000
  else match op with
    | 0 => 0
    | 1 => intMax ty
    | _ => intMin ty

/-- One step of a scan in one column (R281): the new accumulator and the flags. -/
def VEnv.scanStep (v : VEnv) (op i : Nat) (acc : Int) (e : Nat) : Int × Flags :=
  if v.ty == 10 then
    if op == 0 then
      let (x, fx) := v.fp.read .f32 acc.toNat
      let (y, fy) := v.fp.read .f32 e
      let (z, fz) := Exact.add v.fp.mode x y
      let (c, fc) := Fmt.f32.code v.fp (v.draw i 0) z
      ((c : Int), ((fx.or fy).or fz).or fc)
    else
      let (c, fl) := fMinMax .f32 (op == 2) acc.toNat e
      ((c : Int), fl)
  else
    let x := intOf v.ty e
    match op with
    | 0 =>
      if v.sat then clampInt v.ty (acc + x)
      else (intOf v.ty (elemPat v.ty (acc + x)), .none)
    | 1 => (min acc x, .none)
    | _ => (max acc x, .none)

/-- One column of a scan over the active lanes: what each lane receives, with the flags of the column. -/
def VEnv.scanColumn (v : VEnv) (op : Nat) (ex : Bool) (p : Nat) : List (Nat × Int) × Flags :=
  let r := v.lanes.foldl (fun (st : Int × List (Nat × Int) × Flags) i =>
    let (acc, fl) := v.scanStep op i st.1 (elemOf v.ty (v.a i) p)
    (acc, (i, if ex then st.1 else acc) :: st.2.1, st.2.2.or fl)) (scanIdentity op v.ty, [], .none)
  (r.2.1, r.2.2)

/-- The entry of a lane in a list. -/
def laneIn (l : List (Nat × Int)) (i : Nat) : Int :=
  match l.find? fun p => p.1 == i with
  | some p => p.2
  | none => 0

/-- `vscan` (R281). -/
def effScan : VEff := fun v =>
  let op := v.f.mod.toNat / 4 % 4
  let cols := (List.range (elemCount v.ty)).map fun p => v.scanColumn op (v.modBit 4) p
  let fl := cols.foldl (fun f c => f.or c.2) Flags.none
  .ok { val := Lanes.of fun i => ofElems v.ty fun p => elemPat v.ty (laneIn ((cols[p]?).getD ([], .none)).1 i)
        flags := fl
        draws := fun i => if v.m.getLsbD i && v.ty == 10 && op == 0 && v.fp.mode == .stochastic then 1 else 0
        abs := [] }

/-- One column of an integer reduction (R282): the exact fold of the active lanes. -/
def VEnv.redColumn (v : VEnv) (op p : Nat) : Nat × Flags :=
  let es := v.lanes.map fun i => elemOf v.ty (v.a i) p
  let xs := es.map fun e => intOf v.ty e
  match op with
  | 0 =>
    let (x, fl) := if v.sat then clampInt v.ty (xs.foldl (· + ·) 0) else (xs.foldl (· + ·) 0, .none)
    (elemPat v.ty x, fl)
  | 1 => (elemPat v.ty (xs.foldl min (intMax v.ty)), .none)
  | 2 => (elemPat v.ty (xs.foldl max (intMin v.ty)), .none)
  | 3 => (es.foldl (fun x y => x &&& y) (2 ^ elemBits v.ty - 1), .none)
  | 4 => (es.foldl (fun x y => x ||| y) 0, .none)
  | _ => (es.foldl (fun x y => x ^^^ y) 0, .none)

/-- The floating reductions of R282, from the first active lane. -/
def VEnv.redFloat (v : VEnv) (mx : Bool) : Nat × Flags :=
  match v.lanes with
  | [] => (0, .none)
  | i :: _ => v.lanes.foldl (fun (st : Nat × Flags) j =>
      let (c, fl) := fMinMax .f32 mx st.1 (v.a32 j).toNat
      (c, st.2.or fl)) ((v.a32 i).toNat, .none)

/-- `vred` (R282). -/
def effRed : VEff := fun v =>
  let op := v.f.mod.toNat / 4
  let r := if v.ty == 10 then
      let (c, fl) := v.redFloat (op == 2)
      (BitVec.ofNat 64 c, fl)
    else
      let cols := (List.range (elemCount v.ty)).map fun p => v.redColumn op p
      (ofElems v.ty fun p => ((cols[p]?).getD (0, .none)).1, cols.foldl (fun f c => f.or c.2) Flags.none)
  .ok { val := Lanes.all r.1, flags := if v.m == 0 then .none else r.2, draws := fun _ => 0, abs := [] }

end Sys2Proof.Machine
end

