-- ==== Sys2Proof/Machine/Scalar.lean ====
section
/-! DEFINITION. The meanings of the scalar instructions (0x20 to 0x3F; R253 to R263) but for those that access
memory. -/

namespace Sys2Proof.Machine

/-- A scalar result s[D] := f(s[A], O), with no flag (R253). -/
def scalarOp (op : DWord → DWord → DWord) (f : ExtA) : Group → State → Res :=
  groupBody fun g => .ok (g.wrS f.d (op (g.rdS f.a) (g.opO f)))

/-- A scalar sum or difference, clamped to i64 with SAT (R253). -/
def scalarSat (op : Int → Int → Int) (f : ExtA) : Group → State → Res :=
  groupBody fun g =>
    let (r, fl) := intResult 6 (f.sat == 1) (op (g.rdS f.a).toInt (g.opO f).toInt)
    .ok ((g.wrS f.d r).addFlags fl)

/-- Bits 127:64 of a product, as i64 or as n64 (R253). -/
def mulHigh (n : Bool) (x y : DWord) : DWord :=
  if n then BitVec.ofNat 64 (x.toNat * y.toNat / 2 ^ 64) else ((BitVec.ofInt 128 (x.toInt * y.toInt)).extractLsb' 64 64)

/-- Signed order. -/
def ltS (x y : DWord) : Bool := decide (x.toInt < y.toInt)
/-- Unsigned order. -/
def ltN (x y : DWord) : Bool := decide (x.toNat < y.toNat)

/-- Quotient and remainder of R254: truncating toward zero; by zero all ones and the dividend. -/
def divide (n : Bool) (x y : DWord) : DWord × DWord :=
  if y == 0 then (BitVec.allOnes 64, x)
  else if n then (BitVec.ofNat 64 (x.toNat / y.toNat), BitVec.ofNat 64 (x.toNat % y.toNat))
  else (BitVec.ofInt 64 (x.toInt.tdiv y.toInt), BitVec.ofInt 64 (x.toInt.tmod y.toInt))

/-- The conditions of `sset` (R255), by code. -/
def scalarCond (cc : Nat) (x y : DWord) : Bool :=
  match cc with
  | 0 => x == y
  | 1 => x != y
  | 2 => ltS x y
  | 3 => !ltS x y
  | 4 => ltN x y
  | _ => !ltN x y

/-- SADD (R253): Compact scalar add. -/
def execSadd (f : Word0) (s : State) : Out := s.execC 0x20 f (scalarSat fun x y => x + y)

/-- SADD_EXT (R253): Extended scalar add, optionally saturating or with an immediate. -/
def execSaddExt (f : ExtA) (s : State) : Out := s.execA 0x20 f ((scalarSat fun x y => x + y) f)

/-- SSUB (R253): Compact scalar subtract. -/
def execSsub (f : Word0) (s : State) : Out := s.execC 0x21 f (scalarSat fun x y => x - y)

/-- SSUB_EXT (R253): Extended scalar subtract. -/
def execSsubExt (f : ExtA) (s : State) : Out := s.execA 0x21 f ((scalarSat fun x y => x - y) f)

/-- SMUL (R253): Compact scalar multiply, low 64 bits. -/
def execSmul (f : Word0) (s : State) : Out := s.execC 0x22 f (scalarOp fun x y => x * y)

/-- SMUL_EXT (R253): Extended scalar multiply. -/
def execSmulExt (f : ExtA) (s : State) : Out := s.execA 0x22 f ((scalarOp fun x y => x * y) f)

/-- `smulh` (R253). -/
def smulhBody (f : ExtA) : Group → State → Res := scalarOp (mulHigh (f.mod.getLsbD 1)) f

/-- SMULH (R253): Compact scalar multiply, high 64 bits as i64. -/
def execSmulh (f : Word0) (s : State) : Out := s.execC 0x23 f smulhBody

/-- SMULH_EXT (R253): Extended scalar multiply high, signed or unsigned. -/
def execSmulhExt (f : ExtA) (s : State) : Out := s.execA 0x23 f (smulhBody f)

/-- SAND (R253): Compact scalar AND. -/
def execSand (f : Word0) (s : State) : Out := s.execC 0x24 f (scalarOp fun x y => x &&& y)

/-- SAND_EXT (R253): Extended scalar AND. -/
def execSandExt (f : ExtA) (s : State) : Out := s.execA 0x24 f ((scalarOp fun x y => x &&& y) f)

/-- SOR (R253): Compact scalar OR. -/
def execSor (f : Word0) (s : State) : Out := s.execC 0x25 f (scalarOp fun x y => x ||| y)

/-- SOR_EXT (R253): Extended scalar OR. -/
def execSorExt (f : ExtA) (s : State) : Out := s.execA 0x25 f ((scalarOp fun x y => x ||| y) f)

/-- SXOR (R253): Compact scalar XOR. -/
def execSxor (f : Word0) (s : State) : Out := s.execC 0x26 f (scalarOp fun x y => x ^^^ y)

/-- SXOR_EXT (R253): Extended scalar XOR. -/
def execSxorExt (f : ExtA) (s : State) : Out := s.execA 0x26 f ((scalarOp fun x y => x ^^^ y) f)

/-- SSHL (R253): Compact scalar shift left by an immediate. -/
def execSshl (f : Word0) (s : State) : Out := s.execC 0x27 f (scalarOp fun x y => x <<< (y.toNat % 64))

/-- SSHL_EXT (R253): Extended scalar shift left. -/
def execSshlExt (f : ExtA) (s : State) : Out := s.execA 0x27 f ((scalarOp fun x y => x <<< (y.toNat % 64)) f)

/-- SSHR (R253): Compact scalar logical shift right by an immediate. -/
def execSshr (f : Word0) (s : State) : Out := s.execC 0x28 f (scalarOp fun x y => x >>> (y.toNat % 64))

/-- SSHR_EXT (R253): Extended scalar logical shift right. -/
def execSshrExt (f : ExtA) (s : State) : Out := s.execA 0x28 f ((scalarOp fun x y => x >>> (y.toNat % 64)) f)

/-- SSRA (R253): Compact scalar arithmetic shift right by an immediate. -/
def execSsra (f : Word0) (s : State) : Out := s.execC 0x29 f (scalarOp fun x y => x.sshiftRight (y.toNat % 64))

/-- SSRA_EXT (R253): Extended scalar arithmetic shift right. -/
def execSsraExt (f : ExtA) (s : State) : Out := s.execA 0x29 f ((scalarOp fun x y => x.sshiftRight (y.toNat % 64)) f)

/-- SMIN (R253): Compact scalar signed minimum. -/
def execSmin (f : Word0) (s : State) : Out := s.execC 0x2A f (scalarOp fun x y => if ltS y x then y else x)

/-- SMIN_EXT (R253): Extended scalar signed minimum. -/
def execSminExt (f : ExtA) (s : State) : Out := s.execA 0x2A f ((scalarOp fun x y => if ltS y x then y else x) f)

/-- SMAX (R253): Compact scalar signed maximum. -/
def execSmax (f : Word0) (s : State) : Out := s.execC 0x2B f (scalarOp fun x y => if ltS x y then y else x)

/-- SMAX_EXT (R253): Extended scalar signed maximum. -/
def execSmaxExt (f : ExtA) (s : State) : Out := s.execA 0x2B f ((scalarOp fun x y => if ltS x y then y else x) f)

/-- SMINN (R253): Compact scalar unsigned minimum. -/
def execSminn (f : Word0) (s : State) : Out := s.execC 0x2C f (scalarOp fun x y => if ltN y x then y else x)

/-- SMINN_EXT (R253): Extended scalar unsigned minimum. -/
def execSminnExt (f : ExtA) (s : State) : Out := s.execA 0x2C f ((scalarOp fun x y => if ltN y x then y else x) f)

/-- SMAXN (R253): Compact scalar unsigned maximum. -/
def execSmaxn (f : Word0) (s : State) : Out := s.execC 0x2D f (scalarOp fun x y => if ltN x y then y else x)

/-- SMAXN_EXT (R253): Extended scalar unsigned maximum. -/
def execSmaxnExt (f : ExtA) (s : State) : Out := s.execA 0x2D f ((scalarOp fun x y => if ltN x y then y else x) f)

/-- `smov` (R255). -/
def smovBody (f : ExtA) : Group → State → Res := groupBody fun g => .ok (g.wrS f.d (g.rdS f.a))

/-- `sli` (R255): the immediate, sign-extended. -/
def sliBody (f : ExtA) : Group → State → Res := groupBody fun g => .ok (g.wrS f.d (g.opO f))

/-- `sset` (R255). -/
def ssetBody (f : ExtA) : Group → State → Res :=
  scalarOp (fun x y => boolLane (scalarCond (f.mod.toNat / 2) x y)) f

/-- `ssel` (R255): s[A] when the old s[D] is not 0, O otherwise. -/
def sselBody (f : ExtA) : Group → State → Res :=
  groupBody fun g => .ok (g.wrS f.d (if g.rdS f.d != 0 then g.rdS f.a else g.opO f))

/-- `sdiv` (R254): MOD bit 1 the remainder, MOD bit 2 as n64. -/
def sdivBody (f : ExtA) : Group → State → Res :=
  scalarOp (fun x y =>
    let (q, r) := divide (f.mod.getLsbD 2) x y
    if f.mod.getLsbD 1 then r else q) f

/-- SMOV (R255): Compact scalar move. -/
def execSmov (f : Word0) (s : State) : Out := s.execC 0x2E f smovBody

/-- SMOV_EXT (R255): Extended scalar move. -/
def execSmovExt (f : ExtA) (s : State) : Out := s.execA 0x2E f (smovBody f)

/-- SLI (R255): Compact scalar load of a sign-extended 6-bit immediate. -/
def execSli (f : Word0) (s : State) : Out := s.execC 0x2F f sliBody

/-- SLI_EXT (R255): Extended scalar load of a 32-bit immediate. -/
def execSliExt (f : ExtA) (s : State) : Out := s.execA 0x2F f (sliBody f)

/-- SLI_LITERAL (R255): LEN 10 scalar load of a 64-bit literal. -/
def execSliLiteral (f : Word0) (lit : DWord) (s : State) : Out :=
  s.issueWith 0x2F 3 [f.d.toNat] (groupBody fun g => .ok (g.wrS f.d lit))

/-- SSET (R255): Compact scalar set on equal. -/
def execSset (f : Word0) (s : State) : Out := s.execC 0x30 f ssetBody

/-- SSET_EXT (R255): Extended scalar set on a coded condition. -/
def execSsetExt (f : ExtA) (s : State) : Out := s.execA 0x30 f (ssetBody f)

/-- SSEL (R255): Compact scalar select on the old s[D]. -/
def execSsel (f : Word0) (s : State) : Out := s.execC 0x31 f sselBody

/-- SSEL_EXT (R255): Extended scalar select. -/
def execSselExt (f : ExtA) (s : State) : Out := s.execA 0x31 f (sselBody f)

/-- SDIV (R254): Compact scalar signed division. -/
def execSdiv (f : Word0) (s : State) : Out := s.execC 0x3F f sdivBody

/-- SDIV_EXT (R254): Extended scalar division with remainder and unsigned options. -/
def execSdivExt (f : ExtA) (s : State) : Out := s.execA 0x3F f (sdivBody f)

/-- Whether a format code is one of R173. -/
def fcOk (n : Nat) : Bool := decide (n ≤ 20) && n != 15

/-- `shset` (R259): a value outside the field's width or range is refused. -/
def Shape.setField (h : Shape) (k : Nat) (v : Nat) : Option Shape :=
  match k with
  | 0 => if v < 2 ^ 56 then some { h with base := BitVec.ofNat 56 v } else none
  | 1 => if 1 ≤ v && v < 2 ^ 24 then some { h with rows := BitVec.ofNat 24 v } else none
  | 2 => if 1 ≤ v && v < 2 ^ 24 then some { h with cols := BitVec.ofNat 24 v } else none
  | 3 => if v < 2 ^ 40 then some { h with pitch := BitVec.ofNat 40 v } else none
  | _ => if fcOk v then some { h with fc := BitVec.ofNat 5 v } else none

/-- A field of a shape register (R259). -/
def Shape.field (h : Shape) (k : Nat) : DWord :=
  match k with
  | 0 => h.base.setWidth 64
  | 1 => h.rows.setWidth 64
  | 2 => h.cols.setWidth 64
  | 3 => h.pitch.setWidth 64
  | _ => h.fc.setWidth 64

/-- `shset` (R259). -/
def shsetBody (f : ExtA) : Group → State → Res :=
  groupBody fun g =>
    match (g.rdH f.d.toNat).setField f.w2.toNat (g.rdS f.a).toNat with
    | some h => .ok (g.wrH f.d.toNat h)
    | none => .error (.of .shapeForm)

/-- `shget` (R259). -/
def shgetBody (f : ExtA) : Group → State → Res :=
  groupBody fun g => .ok (g.wrS f.d ((g.rdH f.a.toNat).field f.w2.toNat))

/-- Whether a value is a loss scale (R260): a positive normal power of two. -/
def lossScaleOk (v : DWord) : Bool :=
  v.toNat / 2 ^ 31 == 0 && decide (1 ≤ bits v.toNat 30 23) && decide (bits v.toNat 30 23 ≤ 254) && bits v.toNat 22 0 == 0

/-- `lsset` (R260): a value, or with MOD 000010 twice the scale and with 000100 half of it, inside its range. -/
def lssetBody (f : ExtA) : Group → State → Res :=
  groupBody fun g =>
    let e := bits g.ls.toNat 30 23
    if f.mod == 2 then .ok { g with ls := BitVec.ofNat 32 (min (e + 1) 254 * 2 ^ 23) }
    else if f.mod == 4 then .ok { g with ls := BitVec.ofNat 32 (max (e - 1) 1 * 2 ^ 23) }
    else if lossScaleOk (g.rdS f.a) then .ok { g with ls := (g.rdS f.a).extractLsb' 0 32 }
    else .error (.of .operandRange)

/-- `lsget` (R260). -/
def lsgetBody (f : ExtA) : Group → State → Res := groupBody fun g => .ok (g.wrS f.d (g.ls.setWidth 64))

/-- `ovfrd` (R261): OVF, and with MOD bit 0 the bits of s[A] cleared in the same step. -/
def ovfrdBody (f : ExtA) : Group → State → Res :=
  groupBody fun g =>
    let clear : BitVec 8 := if f.mod.getLsbD 0 then (g.rdS f.a).extractLsb' 0 8 else 0
    .ok ({ g with ovf := g.ovf &&& ~~~clear }.wrS f.d (g.ovf.setWidth 64))

/-- `kpop` (R262): set bits of k[A], with MOD bit 0 among the issuing slot's lanes. -/
def kpopBody (f : ExtA) (g : Group) (s : State) : Res :=
  let m := g.rdK f.a.toNat &&& (if f.mod.getLsbD 0 then (g.pc s.curSlot).mask else BitVec.allOnes 256)
  .ok (s.setGroup s.cur (g.wrS f.d (BitVec.ofNat 64 (popcount m))))

/-- `kffs` (R262): the lowest set bit of k[A], or 256. -/
def kffsBody (f : ExtA) : Group → State → Res :=
  groupBody fun g => .ok (g.wrS f.d (BitVec.ofNat 64 ((Mask.lanes (g.rdK f.a.toNat)).headD 256)))

/-- `vtos` (R263): lane s[B] bits 7:0 of v[A], whether active or not. -/
def vtosBody (f : ExtA) (g : Group) (s : State) : Res :=
  let regs := kindRegs (vecOf f.ty.toNat) f.a
  match g.vecCheck [(regs, f.fe.getLsbD 2)] [] with
  | .trap c => .trap (.of c) s
  | .wait => .stall .register s
  | .go =>
    let i := (g.rdS f.b).toNat % 256
    let v : DWord := if tyPair f.ty.toNat then g.lane64 f.a.toNat i
      else if f.ty == 4 then (g.lane32 f.a.toNat i).signExtend 64 else (g.lane32 f.a.toNat i).setWidth 64
    s.readRegs g regs (BitVec.twoPow 256 i) .uePool (.ok (s.setGroup s.cur (g.wrS f.d v)))

/-- `stov` (R263): s[A] in every lane of the issuing slot's mask. -/
def stovBody (f : ExtA) (g : Group) (s : State) : Res :=
  let k := vecOf f.ty.toNat
  match g.vecCheck [] (kindRegs k f.d) with
  | .trap c => .trap (.of c) s
  | .wait => .stall .register s
  | .go => .ok (s.setGroup s.cur (g.putDest k f.d (g.pc s.curSlot).mask (Lanes.all (g.rdS f.a))))

/-- SHSET (R259): Sets one field of a shape register. -/
def execShset (f : ExtA) (s : State) : Out := s.execA 0x36 f (shsetBody f)

/-- SHGET (R259): Reads one field of a shape register. -/
def execShget (f : ExtA) (s : State) : Out := s.execA 0x37 f (shgetBody f)

/-- LSSET (R260): Compact form; sets the loss scale from s[A]. -/
def execLsset (f : Word0) (s : State) : Out := s.execC 0x38 f lssetBody

/-- LSSET_EXT (R260): Extended lsset, including the .up and .dn forms that double or halve LS. -/
def execLssetExt (f : ExtA) (s : State) : Out := s.execA 0x38 f (lssetBody f)

/-- LSGET (R260): Compact form; reads the loss scale. -/
def execLsget (f : Word0) (s : State) : Out := s.execC 0x39 f lsgetBody

/-- LSGET_EXT (R260): Extended form of lsget. -/
def execLsgetExt (f : ExtA) (s : State) : Out := s.execA 0x39 f (lsgetBody f)

/-- OVFRD (R261): Compact form; reads OVF after pending merges. -/
def execOvfrd (f : Word0) (s : State) : Out := s.execC 0x3A f ovfrdBody

/-- OVFRD_EXT (R261): Extended ovfrd, with .clr clearing selected flags in one step. -/
def execOvfrdExt (f : ExtA) (s : State) : Out := s.execA 0x3A f (ovfrdBody f)

/-- KPOP (R262): Compact form; counts set bits of a mask. -/
def execKpop (f : Word0) (s : State) : Out := s.execC 0x3B f kpopBody

/-- KPOP_EXT (R262): Extended kpop, optionally ANDed with the slot mask. -/
def execKpopExt (f : ExtA) (s : State) : Out := s.execA 0x3B f (kpopBody f)

/-- KFFS (R262): Compact form; finds the lowest set bit of a mask. -/
def execKffs (f : Word0) (s : State) : Out := s.execC 0x3C f kffsBody

/-- KFFS_EXT (R262): Extended form of kffs. -/
def execKffsExt (f : ExtA) (s : State) : Out := s.execA 0x3C f (kffsBody f)

/-- VTOS (R263): Compact form; moves one lane of a vector register to a scalar. -/
def execVtos (f : Word0) (s : State) : Out := s.execC 0x3D f vtosBody

/-- VTOS_EXT (R263): Extended vtos with a type selector. -/
def execVtosExt (f : ExtA) (s : State) : Out := s.execA 0x3D f (vtosBody f)

/-- STOV (R263): Compact form; broadcasts a scalar into the active lanes of v[D]. -/
def execStov (f : Word0) (s : State) : Out := s.execC 0x3E f stovBody

/-- STOV_EXT (R263): Extended stov, including the 64-bit pair form. -/
def execStovExt (f : ExtA) (s : State) : Out := s.execA 0x3E f (stovBody f)

end Sys2Proof.Machine
end

