-- ==== Sys2Proof/Machine/MemInstr.lean ====
section
/-! DEFINITION. Loads, stores, sweeps, gathers, prefetches and fences (R256, R257, R259, R304 to R315, R323). -/

namespace Sys2Proof.Machine

/-- What follows the reads of a record: its dwords, a wait, a trap, or no further effect after a refusal (R29). -/
def Rec.run (r : Rec) (gid : Nat) (go : List Nat → State → Res) : Res :=
  match r with
  | .dwords ds c s => go ds (s.consume gid c)
  | .stall s => .stall .room s
  | .trap t s => .trap t s
  | .refused s => .ok s

/-- A record read by an instruction of the scalar pipe. Another cause `other` of the instruction comes after the address causes
(R393, steps 8 and 9), and nothing is read then. -/
def State.withRecord (s : State) (g : Group) (n : Nat) (a : DWord) (other : Option Cause) (go : List Nat → State → Res) : Res :=
  match other with
  | some c => match s.recordFault s.cur g n a with
    | .error (t, s1) => .trap t s1
    | .ok s1 => .trap (.of c) s1
  | none =>
    if s.acquiring (s.acc g) then .stall .room s
    else (s.readRecord s.cur g (s.pcNow g) n a).run s.cur go

/-- A cause where a condition holds. -/
def Cause.when (c : Cause) (b : Bool) : Option Cause := if b then some c else none

/-- A shape record from its dwords (R258, R259): none where a reserved bit is set, ROWS or COLS is 0, or FC is
reserved. -/
def shapeOf (ds : List Nat) : Option Shape :=
  let d (i : Nat) : Nat := (ds[i]?).getD 0
  if bits (d 0) 63 56 != 0 || bits (d 1) 63 56 != 0 || bits (d 1) 31 24 != 0 || bits (d 2) 63 40 != 0
    || bits (d 3) 63 5 != 0 || bits (d 1) 55 32 == 0 || bits (d 1) 23 0 == 0 || !fcOk (bits (d 3) 4 0) then none
  else some
    { base := BitVec.ofNat 56 (d 0), rows := BitVec.ofNat 24 (bits (d 1) 55 32), cols := BitVec.ofNat 24 (d 1)
      pitch := BitVec.ofNat 40 (d 2), fc := BitVec.ofNat 5 (d 3) }

/-- SHLD (R259): Reads a shape record into h[D]; a misaligned address traps SHAPE_FORM. -/
def execShld (f : ExtA) (s : State) : Out :=
  s.execA 0x35 f fun g s =>
    let a := g.rdS f.a + f.w2.signExtend 64
    s.withRecord g 4 a (Cause.shapeForm.when (a.toNat % 32 != 0)) fun ds s1 => match shapeOf ds with
      | some h => .ok (s1.modGroup s.cur fun g => g.wrH f.d.toNat h)
      | none => .trap (.of .shapeForm) s1

/-- `sld` (R256). -/
def sldBody (f : ExtM) (g : Group) (s : State) : Res :=
  if s.acquiring (s.acc g) then .stall .room s
  else match s.resolvePipe s.cur g .all .load false (g.rdS f.a + dispOf f) (tySize f.ty.toNat) with
    | (.error e, s1) => .trap (pipeTrap 0 e) s1
    | (.ok p, s1) => .ok (s1.beginLoad (s1.acc g) g (.scalar f.d f.ty) 1 (.plain f.rq.toNat (f.ord == 1)) [(0, p)])

/-- SLD (R256): Scalar load into s[D], sign- or zero-extended by TY. -/
def execSld (f : ExtM) (s : State) : Out := s.execM 0x32 f (sldBody f)

/-- `sst` (R256). -/
def sstBody (f : ExtM) (g : Group) (s : State) : Res :=
  let a := g.rdS f.a + dispOf f
  let n := tySize f.ty.toNat
  if s.acquiring (s.acc g) then .stall .room s
  else match s.resolvePipe s.cur g .all .store false a n with
    | (.error e, s1) => .trap (pipeTrap 1 e) s1
    | (.ok p, s1) => s1.releaseIf (s1.acc g) (f.ord == 2) (f.sys == 1) fun s2 =>
        .ok (s2.storeLanes (s2.acc g) g (.plain f.rq.toNat (f.ord == 2)) n (fun _ => .addr a) (fun _ => (g.rdS f.d).toNat)
          [(0, p)]).2

/-- SST (R256): Scalar store of the low bytes of s[D]. -/
def execSst (f : ExtM) (s : State) : Out := s.execM 0x33 f (sstBody f)

/-- The largest offset from an address that lies in its leaf and in a populated frame (R62). -/
def leafLimit (e level va : Nat) : Nat :=
  let size := leafSize level
  let base := va - va % size
  let frames := (List.range (size / 65536)).filter fun i => framePopulated (leafFrame e + i)
  let lastPop := base + 65536 * ((frames.getLast?).getD 0) + 65535
  min (base + size - 1) lastPop - va

/-- The translation register that `xlat` fills (R62). -/
def transOf (e level va : Nat) : TransReg :=
  { v := true, w := leafW e, cw := leafCW e, fz := leafFZ e, nc := leafNC e, s := leafS e
    frame := BitVec.ofNat 23 (leafDpa e level va / 2 ^ 16), limit := BitVec.ofNat 36 (leafLimit e level va)
    va := BitVec.ofNat 56 va }

/-- `xlat` (R257, R62). -/
def xlatBody (f : ExtM) (g : Group) (s : State) : Res :=
  let a := g.rdS f.a + dispOf f
  let bad (c : Cause) (l : Nat) (s : State) : Res := .trap (pipeTrap 3 { cause := c, addr := a, level := l }) s
  if s.acquiring (s.acc g) then .stall .room s
  else match s.windowCheck (s.asker s.cur g) .globalOnly .xlat a with
    | .error c => bad c 0 s
    | .ok w =>
      if w != .global then bad .addrWindow 0 s
      else match s.translate ((s.asker s.cur g).via false) .xlat a.toNat with
        | (.fail c l, s1) => bad c l s1
        | (.ok _ e l, s1) => .ok (s1.modGroup s.cur fun g => g.wrT f.d.toNat (transOf e l a.toNat))

/-- XLAT (R257, R62): Translates an address and fills a translation register. -/
def execXlat (f : ExtM) (s : State) : Out := s.execM 0x34 f (xlatBody f)

/-- What follows the address checks of an instruction: its other cause, or its effect (R393, steps 8 and 9). -/
def Res.unless (other : Option Cause) (s : State) (r : Res) : Res :=
  match other with
  | some c => .trap (.of c) s
  | none => r

/-- A vector load (R308): `at_` gives each lane's address, `other` what the instruction traps besides. -/
def loadBody (f : ExtM) (r : Reach) (align : Bool) (mode : LoadMode) (other : Option Cause) (at_ : Group → Nat → LaneAt) (g : Group)
    (s : State) : Res :=
  s.memGo g (offSrc f) (dataRegs f.ty.toNat f.d.toNat) fun s =>
    let m := s.maskOf g f
    s.withLanes g r .load align m (tySize f.ty.toNat) (at_ g) fun ps s1 => Res.unless other s1
      (.ok (s1.beginLoad (s1.acc g) g (.vec (g.named f.d.toNat) f.ty) m mode ps))

/-- A vector store (R308), performed as a release where ORD says so. -/
def storeBody (f : ExtM) (r : Reach) (other : Option Cause) (at_ : Group → Nat → LaneAt) (g : Group) (s : State) : Res :=
  s.memGo g (offSrc f ++ [(dataRegs f.ty.toNat f.d.toNat, f.fe.getLsbD 0)]) [] fun s =>
    let n := tySize f.ty.toNat
    s.withLanes g r .store false (s.maskOf g f) n (at_ g) fun ps s1 => Res.unless other s1
      (s1.releaseIf (s1.acc g) (f.ord == 2) (f.sys == 1) fun s2 =>
        .ok (s2.storeLanes (s2.acc g) g (.plain f.rq.toNat (f.ord == 2)) n (at_ g) (g.storeVal f f.d.toNat) ps).2)

/-- The address of a lane of `ld` and `st`. -/
def plainAt (f : ExtM) (g : Group) (i : Nat) : LaneAt := g.laneAt f (dispOf f) i

/-- The address of a lane of a window-relative form (R309). -/
def winAt (f : ExtM) (base : DWord) (bound : Nat) (g : Group) (i : Nat) : LaneAt :=
  windowAt base bound (g.rdS f.a + g.laneOff f (dispOf f) i)

/-- LD (R308): Lane load of a typed element, emptying then filling vD. -/
def execLd (f : ExtM) (s : State) : Out :=
  s.execM 0xA0 f (loadBody f .all false (.plain f.rq.toNat (f.ord == 1)) none (plainAt f))

/-- ST (R308): Lane store of vD's low bytes, optionally a release. -/
def execSt (f : ExtM) (s : State) : Out := s.execM 0xA1 f (storeBody f .all none (plainAt f))

/-- LDS (R309): Load at a team-scratchpad window offset. -/
def execLds (f : ExtM) (s : State) : Out :=
  s.execM 0xA6 f (loadBody f .all false (.plain f.rq.toNat (f.ord == 1)) none (winAt f 0xFF90000000000000 (2 ^ 25)))

/-- STS (R309): Store at a team-scratchpad window offset. -/
def execSts (f : ExtM) (s : State) : Out := s.execM 0xA7 f (storeBody f .all none (winAt f 0xFF90000000000000 (2 ^ 25)))

/-- LDC (R309): Load at a cluster-scratchpad window offset. -/
def execLdc (f : ExtM) (s : State) : Out :=
  s.execM 0xA8 f (loadBody f .all false (.plain f.rq.toNat (f.ord == 1)) none (winAt f 0xFFA0000000000000 (2 ^ 25)))

/-- STC (R309): Store at a cluster-scratchpad window offset. -/
def execStc (f : ExtM) (s : State) : Out := s.execM 0xA9 f (storeBody f .all none (winAt f 0xFFA0000000000000 (2 ^ 25)))

/-- LDP (R309): Load at a private window offset. -/
def execLdp (f : ExtM) (s : State) : Out :=
  s.execM 0xAA f (loadBody f .all false (.plain f.rq.toNat (f.ord == 1)) none (winAt f 0xFFB0000000000000 (2 ^ 16)))

/-- STP (R309): Store at a private window offset. -/
def execStp (f : ExtM) (s : State) : Out := s.execM 0xAB f (storeBody f .all none (winAt f 0xFFB0000000000000 (2 ^ 16)))

/-- STMC (R313): Store into a multicast set chosen by s[C]. -/
def execStmc (f : ExtM) (s : State) : Out :=
  s.execM 0xB9 f fun g s =>
    let set := g.rdS f.c
    storeBody f .all (Cause.operandRange.when (set.toNat / 64 != 0)) (winAt f (0xFFD0000000000000 ||| ((set &&& 63) <<< 42)) (2 ^ 42)) g s

/-- The address of a lane of `ldx` and `stx` (R314). -/
def qualAt (f : ExtM) (c : Ctx) (g : Group) (i : Nat) : LaneAt :=
  c.qualifiedAt (g.rdS f.a) (g.laneOff f (dispOf f) i) (tySize f.ty.toNat) i

/-- The frame of `ldx` and `stx` (R314): supervisor privilege, and the form of s[A]. -/
def qualBody (f : ExtM) (body : Option Cause → Group → State → Res) (g : Group) (s : State) : Res :=
  if !g.sup then .trap (.of .privilege) s else body (Cause.operandRange.when (!qualifiedOk (g.rdS f.a))) g s

/-- LDX (R314): Supervisor load from another lane's private memory. -/
def execLdx (f : ExtM) (s : State) : Out :=
  s.execM 0xBA f (qualBody f fun x g s => loadBody f .all false (.plain 3 false) x (qualAt f (s.ctx g.asid)) g s)

/-- STX (R314): Supervisor store to another lane's private memory. -/
def execStx (f : ExtM) (s : State) : Out :=
  s.execM 0xBB f (qualBody f fun x g s => storeBody f .all x (qualAt f (s.ctx g.asid)) g s)

/-- A register of a sweep, as an integer, where segment arithmetic keeps it in the block (R218). -/
def Group.sweepReg (g : Group) (v : Byte) (n : Int) : Option Nat :=
  if n < 0 || 255 < n || (g.hnd && decide (240 ≤ n) != decide (240 ≤ v.toNat)) || !g.regOk n.toNat then none
  else some n.toNat

/-- The elements of a segment of `ldsw` or `stsw` (R310): their number in a lane. -/
def segElems (w2 : Word) : Nat := 2 ^ sweepSeg w2

/-- The data register of element `k` of a segment (R310). -/
def Group.elemReg (g : Group) (f : ExtM) (lit : DWord) (seg k : Nat) : Option Nat :=
  let w := if tyPair f.ty.toNat then 2 else 1
  let n := (f.d.toNat : Int) + seg * stepD lit / 4 + w * k
  match g.sweepReg f.d n, g.sweepReg f.d (n + w - 1) with
  | some a, some _ => some a
  | _, _ => none

/-- The data registers of every element of a segment. -/
def Group.elemRegs (g : Group) (f : ExtM) (lit : DWord) (seg : Nat) : Option (List Nat) :=
  (List.range (segElems f.w2)).foldr (fun k acc => match g.elemReg f lit seg k, acc with
    | some r, some l => some (r :: l)
    | _, _ => none) (some [])

/-- The fields of a segment: its offset register advanced by STEPB. -/
def Group.segFields (g : Group) (f : ExtM) (lit : DWord) (seg : Nat) : Option ExtM :=
  if f.lo == 1 then
    match g.sweepReg f.b ((f.b.toNat : Int) + seg * stepB lit / 4) with
    | some b => some { f with b := BitVec.ofNat 8 b }
    | none => none
  else some f

/-- The address of element `k` of a lane in a segment (R310). -/
def elemAt (f : ExtM) (lit : DWord) (seg k : Nat) (g : Group) (i : Nat) : LaneAt :=
  let imm := (sweepImm f.w2).signExtend 64 + BitVec.ofInt 64 (seg * stepA lit) + BitVec.ofNat 64 (k * tySize f.ty.toNat)
  g.laneAt f imm i

/-- Every element of a segment resolved before one is performed (R15, R219), in ascending order of elements. -/
def State.segLanes (s : State) (g : Group) (k : AccessKind) (m : Mask) (n count : Nat) (at_ : Nat → Nat → LaneAt)
    (go : List (List (Nat × Pieces)) → State → Res) : Res :=
  let r := (List.range count).foldl (fun (acc : List (List (Nat × Pieces)) × List (Nat × AddrFault) × State) j =>
    let (x, s1) := acc.2.2.resolveLanes (fun s i => s.resolveAt (s.asker s.cur g) .all k false i (at_ j i) n) (Mask.lanes m)
    (acc.1 ++ [x.ok], acc.2.1 ++ x.bad.filter (fun b => !acc.2.1.any fun c => c.1 == b.1), s1)) ([], [], s)
  let bad := (List.range 256).filterMap fun i => r.2.1.find? fun b => b.1 == i
  if bad.isEmpty then go r.1 r.2.2 else .trap (laneTrap k.code bad) r.2.2

/-- Loads of several elements in each lane begin (R310): lane by lane in ascending order, and in each lane its elements in ascending
order (R120). -/
def State.beginLoads (s : State) (c : Acc) (g : Group) (dests : List Dest) (m : Mask) (mode : LoadMode)
    (elems : List (List (Nat × Pieces))) : State :=
  let (qs, s1) := dests.foldl (fun (acc : List Pend × State) d =>
    let (id, s) := acc.2.fresh
    (acc.1 ++ [{ c.pend id g d m mode.acq with sc := mode == .sc }], s)) ([], s)
  let (ls, s2) := (Mask.lanes m).foldl (fun (acc : List Pend × State) i =>
    (acc.1.zip elems).foldl (fun (a : List Pend × State) e =>
      let (q, s) := a.2.loadLanes c mode e.1 (e.2.filter fun l => l.1 == i)
      (a.1 ++ [q], s)) ([], acc.2)) (qs, s1)
  ls.foldl (fun s q => s.begin q) s2

/-- A segment of `ldsw` (R310). -/
def ldswSegment (f : ExtM) (lit : DWord) (seg : Nat) (g : Group) (s : State) : Res :=
  match g.segFields f lit seg, g.elemRegs f lit seg with
  | some x, some ds =>
    s.memGo g (offSrc x) (ds.flatMap fun d => dataRegs f.ty.toNat d) fun s =>
      let m := s.maskOf g x
      s.segLanes g .load m (tySize f.ty.toNat) ds.length (fun k i => elemAt x lit seg k g i) fun ps s1 =>
        .ok (s1.beginLoads (s1.acc g) g (ds.map fun d => .vec (g.named d) f.ty) m (.plain f.rq.toNat (f.ord == 1)) ps)
  | _, _ => .trap (.of .regIndexRange) s

/-- A segment of `stsw` (R310): lane by lane in ascending order, and in each lane its elements in ascending order (R120). -/
def stswSegment (f : ExtM) (lit : DWord) (seg : Nat) (g : Group) (s : State) : Res :=
  match g.segFields f lit seg, g.elemRegs f lit seg with
  | some x, some ds =>
    s.memGo g (offSrc x ++ [(ds.flatMap fun d => dataRegs f.ty.toNat d, f.fe.getLsbD 0)]) [] fun s =>
      let m := s.maskOf g x
      let n := tySize f.ty.toNat
      s.segLanes g .store m n ds.length (fun k i => elemAt x lit seg k g i) fun ps s1 =>
        s1.releaseIf (s1.acc g) (f.ord == 2) (f.sys == 1) fun s2 =>
          .ok ((Mask.lanes m).foldl (fun s i => (ds.zipIdx.zip ps).foldl (fun s e =>
            (s.storeLanes (s.acc g) g (.plain f.rq.toNat (f.ord == 2)) n (elemAt x lit seg e.1.2 g) (g.storeVal f e.1.1)
              (e.2.filter fun l => l.1 == i)).2) s) s2)
  | _, _ => .trap (.of .regIndexRange) s

/-- The register spans that a memory sweep names (R220, R310). -/
def sweepSpans (f : ExtM) (_g : Group) : List (List Nat) :=
  ((offSrc f).map fun p => p.1) ++ [(List.range (segElems f.w2)).flatMap fun k =>
    (dataRegs f.ty.toNat f.d.toNat).map fun n => n + k * (if tyPair f.ty.toNat then 2 else 1)]

/-- LDSW (R310): LEN 11 sweep load of N elements per lane per segment. -/
def execLdsw (f : ExtM) (lit : DWord) (s : State) : Out :=
  s.sweep 0xA2 (reqScalars (reqM 0xA2 f) f.d f.a f.b f.c) (sweepSpans f) f.w2 (ldswSegment f lit)

/-- STSW (R310): LEN 11 sweep store of N elements per lane per segment. -/
def execStsw (f : ExtM) (lit : DWord) (s : State) : Out :=
  s.sweep 0xA3 (reqScalars (reqM 0xA3 f) f.d f.a f.b f.c) (sweepSpans f) f.w2 (stswSegment f lit)

/-- `gather` (R311). -/
def gatherBody (f : ExtM) (g : Group) (s : State) : Res :=
  s.memGo g [([f.b.toNat, f.b.toNat + 1], f.fe.getLsbD 1)] (dataRegs f.ty.toNat f.d.toNat) fun s =>
    let m := s.maskOf g f
    if 255 ≤ g.rdE 2 then .stall .room s
    else s.withLanes g .all .load false m (tySize f.ty.toNat) (g.gatherAt f) fun ps s1 =>
      s1.release (s1.acc g) false fun s2 =>
        let c := s2.acc g
        let (id, s3) := s2.fresh
        let (ge, s4) := s3.issueRequest g 2 (.gather (some id))
        let (q, s5) := s4.loadLanes c (.gather (f.ord == 1))
          { c.pend id g (.vec (g.named f.d.toNat) f.ty) m (f.ord == 1) with ge := some ge } ps
        .ok (s5.begin q)

/-- GATHER (R311): The gather engine loads each lane from its own 64-bit address. -/
def execGather (f : ExtM) (s : State) : Out := s.execM 0xA4 f (gatherBody f)

/-- `scatter` (R311). -/
def scatterBody (f : ExtM) (g : Group) (s : State) : Res :=
  s.memGo g [([f.b.toNat, f.b.toNat + 1], f.fe.getLsbD 1), (dataRegs f.ty.toNat f.d.toNat, f.fe.getLsbD 0)] [] fun s =>
    let n := tySize f.ty.toNat
    if 255 ≤ g.rdE 2 then .stall .room s
    else s.withLanes g .all .store false (s.maskOf g f) n (g.gatherAt f) fun ps s1 =>
      s1.release (s1.acc g) (f.sys == 1) fun s2 =>
        let c := s2.acc g
        let (id, s3) := s2.fresh
        let (ge, s4) := s3.issueRequest g 2 (.gather (some id))
        let (left, s5) := s4.storeLanes c g (.scatter id) n (g.gatherAt f) (g.storeVal f f.d.toNat) ps
        .ok (s5.begin { c.pend id g .none 0 false with left := left, store := true, ge := some ge })

/-- SCATTER (R311): The gather engine stores each lane to its own 64-bit address. -/
def execScatter (f : ExtM) (s : State) : Out := s.execM 0xA5 f (scatterBody f)

/-- `ldsc` (R312, R139, R140): issued when the group's earlier SC operations have returned. -/
def ldscBody (f : ExtM) (g : Group) (s : State) : Res :=
  if s.scBusy (s.acc g) then .stall .room s
  else s.memGo g (offSrc f) (dataRegs f.ty.toNat f.d.toNat) fun s =>
    let m := s.maskOf g f
    s.withLanes g .globalFabric .load true m (tySize f.ty.toNat) (plainAt f g) fun ps s1 =>
      s1.release (s1.acc g) false fun s2 => .ok (s2.beginLoad (s2.acc g) g (.vec (g.named f.d.toNat) f.ty) m .sc ps)

/-- LDSC (R312): Sequentially consistent lane load. -/
def execLdsc (f : ExtM) (s : State) : Out := s.execM 0xB7 f (ldscBody f)

/-- `stsc` (R312, R139, R140). -/
def stscBody (f : ExtM) (g : Group) (s : State) : Res :=
  if s.scBusy (s.acc g) then .stall .room s
  else s.memGo g (offSrc f ++ [(dataRegs f.ty.toNat f.d.toNat, f.fe.getLsbD 0)]) [] fun s =>
    let n := tySize f.ty.toNat
    s.withLanes g .globalFabric .store true (s.maskOf g f) n (plainAt f g) fun ps s1 =>
      s1.release (s1.acc g) (f.sys == 1) fun s2 =>
        let c := s2.acc g
        let (id, s3) := s2.fresh
        let (left, s4) := s3.storeLanes c g (.sc id) n (plainAt f g) (g.storeVal f f.d.toNat) ps
        .ok (s4.begin { c.pend id g .none 0 true with left := left, store := true, sc := true })

/-- STSC (R312): Sequentially consistent lane store. -/
def execStsc (f : ExtM) (s : State) : Out := s.execM 0xB8 f (stscBody f)

/-- Whether a failing check is one of the window checks, which a prefetch does not drop (R55, R315). -/
def Cause.isWindowCheck (c : Cause) : Bool :=
  c == .addrNoncanonical || c == .addrWindow || c == .fabricDevice || c == .windowRange

/-- A prefetch of words of memory (R315): nothing where the request would be nc, is under way, or would hit. -/
def State.prefetchMem (s : State) (c : Acc) (rq : ReqType) (dpa va n : Nat) : State :=
  let own := rq == .own
  if rq == .nc || s.inFlight c.core dpa n || (if own then s.ownsAll c.core dpa n else s.asOwn c.core dpa n) then s
  else s.send { Msg.at (if own then .ownLoad else .siLoad) c.core c.asid dpa va n with passed := c.viaExport }

/-- A piece of a prefetch (R315, R28, R141): a request that returns nothing to the group. -/
def State.prefetch (s : State) (c : Acc) (rq : Nat) (p : Nat × Nat × Place) : State :=
  match p.2.2 with
  | .mem dpa va nc priv => s.prefetchMem c (reqTypeOf rq true nc priv) dpa va p.2.1
  | .fabric d off => match s.localFabric c .load d off p.2.1 with
    | some (c1, dpa, nc, s1) => s1.prefetchMem c1 (reqTypeOf rq true nc false) dpa off p.2.1
    | none =>
      let m := Msg.at (if reqTypeOf rq true false false == .own then .ownLoad else .siLoad) c.core c.asid 0 0 p.2.1
      if rq == 4 || d == s.devId || s.fabricBusy c.core d off p.2.1 then s else s.askFabric m d off
  | _ => s

/-- `pref` (R315). -/
def prefBody (f : ExtM) (g : Group) (s : State) : Res :=
  s.memGo g (offSrc f) [] fun s =>
    let (x, s1) := s.resolveLanes (fun s i => s.resolveAt (s.asker s.cur g) .all .prefetch false i (plainAt f g i) (tySize f.ty.toNat))
      (Mask.lanes (s.maskOf g f))
    let bad := x.bad.filter fun b => b.2.cause.isWindowCheck
    if !bad.isEmpty then .trap (laneTrap 0 bad) s1
    else if f.modm == 1 then .ok s1
    else .ok (x.ok.foldl (fun s l => l.2.foldl (fun s p => s.prefetch (s.acc g) f.rq.toNat p) s) s1)

/-- PREF (R315): Requests a prefetch; translation faults drop it silently. -/
def execPref (f : ExtM) (s : State) : Out := s.execM 0xAC f (prefBody f)

/-- `fence` (R323, R126, R127). -/
def fenceBody (sys : Bool) (g : Group) (s : State) : Res := s.fence (s.acc g) sys fun s => .ok s

/-- `acq` (R323, R127): it follows every earlier load of the group. -/
def acqBody (g : Group) (s : State) : Res :=
  let c := s.acc g
  if s.pends.any fun p => p.gid == c.gid && !p.store && !p.hold then .stall .room s
  else .ok (s.dropValid c.core)

/-- `rel` (R323, R126). -/
def relBody (sys : Bool) (g : Group) (s : State) : Res := s.release (s.acc g) sys fun s => .ok s

/-- FENCE (R323): Compact full fence for the group. -/
def execFence (f : Word0) (s : State) : Out := s.execCM 0xB4 f (fenceBody false)

/-- FENCE_EXT (R323): Extended fence, optionally .sys. -/
def execFenceExt (f : ExtM) (s : State) : Out := s.execM 0xB4 f (fenceBody (f.sys == 1))

/-- ACQ (R323): Compact acquire. -/
def execAcq (f : Word0) (s : State) : Out := s.execCM 0xB5 f acqBody

/-- ACQ_EXT (R323): Extended acquire. -/
def execAcqExt (f : ExtM) (s : State) : Out := s.execM 0xB5 f acqBody

/-- REL (R323): Compact release. -/
def execRel (f : Word0) (s : State) : Out := s.execCM 0xB6 f (relBody false)

/-- REL_EXT (R323): Extended release, optionally .sys. -/
def execRelExt (f : ExtM) (s : State) : Out := s.execM 0xB6 f (relBody (f.sys == 1))

end Sys2Proof.Machine
end

