-- ==== Sys2Proof/Machine/Atomics.lean ====
section
/-! DEFINITION. Atomics (R328 to R330) and the wait on a word (R331). -/

namespace Sys2Proof.Machine

/-- What an atomic does: its operation, the size of its element, whether it compares and swaps, and whether it is an SC
operation. -/
structure AtKind where
  op : AtOp
  wide : Bool
  cas : Bool
  sc : Bool
deriving DecidableEq, Repr

/-- The element's size in bytes. -/
def AtKind.size (k : AtKind) : Nat := if k.wide then 8 else 4

/-- A value of `size` bytes in the registers from `n`. -/
def Group.atValue (g : Group) (wide : Bool) (n i : Nat) : Nat :=
  if wide then (g.lane64 n i).toNat else (g.lane32 n i).toNat

/-- The operand of lane `i`, or the swap value (R330). -/
def Group.atOperand (g : Group) (k : AtKind) (c i : Nat) : Nat :=
  g.atValue k.wide (if k.cas then (if k.wide then c + 2 else c + 1) else c) i

/-- The compare value of lane `i` (R330). -/
def Group.atCompare (g : Group) (k : AtKind) (c i : Nat) : Nat := if k.cas then g.atValue k.wide c i else 0

/-- The registers of the operand. -/
def AtKind.regs (k : AtKind) (c : Nat) : List Nat :=
  (List.range ((if k.wide then 2 else 1) * (if k.cas then 2 else 1))).map fun i => c + i

/-- The destination of an atomic: none with `.nr` (R328). -/
def AtKind.dest (k : AtKind) (g : Group) (f : ExtM) : Dest :=
  if f.modm == 1 then .none else .vec (g.named f.d.toNat) (if k.wide then 7 else 5)

/-- One lane of an atomic in memory (R94, R328): in the L1 where it owns the word, or by a message. In the private window
every atomic is own (R28). -/
def State.atMem (s : State) (c : Acc) (q : Pend) (k : AtKind) (rq lane x cmp off n dpa va : Nat) (nc priv : Bool) : Pend × State :=
  let own := !k.sc && !nc && (priv || rq != 4)
  if own && s.ownsAll c.core dpa n && !s.unperformed false c.gid dpa n then
    let l := s.l1Poison c.core dpa n
    let (old, s1) := s.atomicOwned c.core dpa n k.op x cmp
    (q.put lane off old (l.map fun l => l.cause c.core), s1)
  else
    let s1 := s.flushWords c.core dpa n
    let s2 := if own then s1 else s1.dropVs c.core dpa n
    let kind := if k.sc then MsgKind.scAtomic else if own then .ownAtomic else .ncAtomic
    (q.more, s2.send { c.msg kind (some q.id) lane off dpa va n with
      data := BitVec.ofNat 64 x, cmp := BitVec.ofNat 64 cmp, op := k.op })

/-- One lane of an atomic (R328): in memory, at a scratchpad bank, or at the home slice of the device that the fabric window
names. -/
def State.atPiece (s : State) (c : Acc) (q : Pend) (k : AtKind) (rq lane x cmp : Nat) (p : Nat × Nat × Place) : Pend × State :=
  match p.2.2 with
  | .mem dpa va nc priv => s.atMem c q k rq lane x cmp p.1 p.2.1 dpa va nc priv
  | .spad core off =>
    let (old, l) := s.spadLoad core c.asid off p.2.1
    let s1 := match k.op.apply atomicSum p.2.1 old x cmp with
      | some v => s.spadStore core c.asid off p.2.1 v
      | none => s
    (q.put lane p.1 old (l.map fun l => l.cause c.core), s1.relay c.core core)
  | .fabric d off => match s.localFabric c .atomic d off p.2.1 with
    | some (c1, dpa, _, s1) => s1.atMem c1 q k rq lane x cmp p.1 p.2.1 dpa off true false
    | none =>
      let s1 := s.dropFabric c.core d off p.2.1
      (q.more, s1.askFabric { c.msg (if k.sc then .scAtomic else .ncAtomic) (some q.id) lane p.1 0 0 p.2.1 with
        data := BitVec.ofNat 64 x, cmp := BitVec.ofNat 64 cmp, op := k.op } d off)
  | .multicast _ _ => (q, s)

/-- The lanes of an atomic in ascending order (R120, R129). -/
def State.atLanes (s : State) (c : Acc) (g : Group) (k : AtKind) (f : ExtM) (q : Pend) (lanes : List (Nat × Pieces)) :
    Pend × State :=
  lanes.foldl (fun acc l => l.2.foldl (fun a p =>
    a.2.atPiece c a.1 k f.rq.toNat l.1 (g.atOperand k f.c.toNat l.1) (g.atCompare k f.c.toNat l.1) p) acc) (q, s)

/-- Whether the atomic is a release (R121, R330). -/
def AtKind.rel (k : AtKind) (f : ExtM) : Bool := k.sc || f.ord.getLsbD 1

/-- Whether the atomic is an acquire (R121, R330). -/
def AtKind.acq (k : AtKind) (f : ExtM) : Bool := k.sc || f.ord.getLsbD 0

/-- An atomic (R328). -/
def atomicBody (k : AtKind) (f : ExtM) (g : Group) (s : State) : Res :=
  if k.sc && s.scBusy (s.acc g) then .stall .room s
  else s.memGo g (offSrc f ++ [(k.regs f.c.toNat, f.fe.getLsbD 0)])
      (if f.modm == 1 then [] else if k.wide then [f.d.toNat, f.d.toNat + 1] else [f.d.toNat]) fun s =>
    let m := s.maskOf g f
    let at_ (i : Nat) : LaneAt :=
      let o := (if f.lo == 1 then (g.lane32 f.b.toNat i).signExtend 64 * BitVec.ofNat 64 k.size else 0) + dispOf f
      if f.a.toNat < 128 then .addr (g.rdS f.a + o) else .trans (g.rdT (f.a.toNat - 128)) o
    s.withLanes g (if k.sc then .globalFabric else .all) .atomic true m k.size at_ fun ps s1 =>
      s1.releaseIf (s1.acc g) (k.rel f) (f.sys == 1) fun s2 =>
        let c := s2.acc g
        let (id, s3) := s2.fresh
        let (q, s4) := s3.atLanes c g k f { c.pend id g (k.dest g f) m (k.acq f) with sc := k.sc } ps
        .ok (s4.begin q)

/-- The operations of the typed atomics by signedness (R329). -/
def signedTy (f : ExtM) : Bool := f.ty == 4 || f.ty == 6

/-- Whether TY names an element of 8 bytes. -/
def wideTy (f : ExtM) : Bool := tyPair f.ty.toNat

/-- ATADD_I32 (R329): Atomic 32-bit add. -/
def execAtaddI32 (f : ExtM) (s : State) : Out := s.execM 0xC0 f (atomicBody { op := .add, wide := false, cas := false, sc := false } f)

/-- ATADD_I64 (R329): Atomic 64-bit add. -/
def execAtaddI64 (f : ExtM) (s : State) : Out := s.execM 0xC1 f (atomicBody { op := .add, wide := true, cas := false, sc := false } f)

/-- ATADDF_F32 (R329): Atomic binary32 add rounded to nearest even. -/
def execAtaddfF32 (f : ExtM) (s : State) : Out := s.execM 0xC2 f (atomicBody { op := .addF, wide := false, cas := false, sc := false } f)

/-- ATMIN (R329): Atomic minimum by the type's order. -/
def execAtmin (f : ExtM) (s : State) : Out :=
  s.execM 0xC3 f (atomicBody { op := if signedTy f then .minS else .minU, wide := wideTy f, cas := false, sc := false } f)

/-- ATMAX (R329): Atomic maximum by the type's order. -/
def execAtmax (f : ExtM) (s : State) : Out :=
  s.execM 0xC4 f (atomicBody { op := if signedTy f then .maxS else .maxU, wide := wideTy f, cas := false, sc := false } f)

/-- ATAND (R329): Atomic bitwise AND. -/
def execAtand (f : ExtM) (s : State) : Out := s.execM 0xC5 f (atomicBody { op := .and, wide := wideTy f, cas := false, sc := false } f)

/-- ATOR (R329): Atomic bitwise OR. -/
def execAtor (f : ExtM) (s : State) : Out := s.execM 0xC6 f (atomicBody { op := .or, wide := wideTy f, cas := false, sc := false } f)

/-- ATXOR (R329): Atomic bitwise XOR. -/
def execAtxor (f : ExtM) (s : State) : Out := s.execM 0xC7 f (atomicBody { op := .xor, wide := wideTy f, cas := false, sc := false } f)

/-- ATXCHG (R329): Atomic exchange. -/
def execAtxchg (f : ExtM) (s : State) : Out := s.execM 0xC8 f (atomicBody { op := .xchg, wide := wideTy f, cas := false, sc := false } f)

/-- ATCAS_I32 (R330): Atomic 32-bit compare and swap. -/
def execAtcasI32 (f : ExtM) (s : State) : Out := s.execM 0xC9 f (atomicBody { op := .cas, wide := false, cas := true, sc := false } f)

/-- ATCAS_I64 (R330): Atomic 64-bit compare and swap. -/
def execAtcasI64 (f : ExtM) (s : State) : Out := s.execM 0xCA f (atomicBody { op := .cas, wide := true, cas := true, sc := false } f)

/-- ATINC (R329): Atomic increment that wraps to 0 at the operand. -/
def execAtinc (f : ExtM) (s : State) : Out := s.execM 0xCB f (atomicBody { op := .inc, wide := wideTy f, cas := false, sc := false } f)

/-- ATDEC (R329): Atomic decrement that wraps to the operand. -/
def execAtdec (f : ExtM) (s : State) : Out := s.execM 0xCC f (atomicBody { op := .dec, wide := wideTy f, cas := false, sc := false } f)

/-- ATADDSC (R329, R330): Atomic add as an SC operation. -/
def execAtaddsc (f : ExtM) (s : State) : Out := s.execM 0xCD f (atomicBody { op := .add, wide := wideTy f, cas := false, sc := true } f)

/-- ATCASSC (R330): Atomic compare and swap as an SC operation. -/
def execAtcassc (f : ExtM) (s : State) : Out := s.execM 0xCE f (atomicBody { op := .cas, wide := wideTy f, cas := true, sc := true } f)

/-- The condition of `atwait` (R331). -/
def atCond (f : ExtM) : WatchCond :=
  match f.modm.toNat with
  | 0 => .eq
  | 1 => .ne
  | 2 => if signedTy f then .geS else .geU
  | _ => if signedTy f then .ltS else .ltU

/-- A lane's watch sent (R331). -/
def State.watchPiece (s : State) (c : Acc) (q : Pend) (cond : WatchCond) (lane w : Nat) (p : Nat × Nat × Place) : Pend × State :=
  match p.2.2 with
  | .mem dpa va _ _ =>
    (q.more, (s.flushWords c.core dpa p.2.1).send { c.msg (.watch cond) (some q.id) lane p.1 dpa va p.2.1 with
      cmp := BitVec.ofNat 64 w })
  | .fabric d off =>
    match s.localFabric c .load d off p.2.1 with
    | some (c1, dpa, _, s1) =>
      (q.more, (s1.flushWords c.core dpa p.2.1).send { c1.msg (.watch cond) (some q.id) lane p.1 dpa off p.2.1 with
        cmp := BitVec.ofNat 64 w })
    | none =>
    (q.more, s.askFabric { c.msg (.watch cond) (some q.id) lane p.1 0 0 p.2.1 with cmp := BitVec.ofNat 64 w } d off)
  | _ => (q, s)

/-- `atwait` begins: a watch for each active lane; the destination is empty until all have returned (R328, R331). -/
def State.beginWait (s : State) (g : Group) (f : ExtM) (m : Mask) (ps : List (Nat × Pieces)) : Res :=
  let c := s.acc g
  let (id, s1) := s.fresh
  let q0 := { c.pend id g (.vec (g.named f.d.toNat) f.ty) m true with hold := true, why := .atwait }
  let (q, s2) := ps.foldl (fun acc l => l.2.foldl (fun a p =>
    a.2.watchPiece c a.1 (atCond f) l.1 (g.atValue (wideTy f) f.c.toNat l.1) p) acc) (q0, s1)
  if q.left == 0 then .ok (s2.land q)
  else .stall .atwait ((s2.modGroup c.gid fun g => g.emptyDest q.dest).addPend q)

/-- `atwait` (R331): the slot stalls until every active lane's element has satisfied the condition. -/
def atwaitBody (f : ExtM) (g : Group) (s : State) : Res :=
  match s.held? s.cur s.curSlot (g.pc s.curSlot).pc with
  | some p =>
    if p.left != 0 then .stall .atwait s
    else if p.failed then .stall .atwait (s.dropPend p.id)
    else .ok (s.land p)
  | none =>
    s.memGo g (offSrc f ++ [(if wideTy f then [f.c.toNat, f.c.toNat + 1] else [f.c.toNat], f.fe.getLsbD 0)])
        (dataRegs f.ty.toNat f.d.toNat) fun s =>
      let m := s.maskOf g f
      s.withLanes g .globalFabric .load true m (tySize f.ty.toNat) (plainAt f g) fun ps s1 => s1.beginWait g f m ps

/-- ATWAIT (R331): Stalls the slot until each active lane's element satisfies the condition, watched at its home slice. -/
def execAtwait (f : ExtM) (s : State) : Out := s.execM 0xCF f (atwaitBody f)

end Sys2Proof.Machine
end

