-- ==== Sys2Proof/Machine/Matrix.lean ====
section
/-! DEFINITION. The matrix unit: tiles and their versions, weight slots and their claims, streams, and the issue and
performance of its operations (0xD0 to 0xDB, 0xE4 to 0xE7; R192, R333 to R347). -/

namespace Sys2Proof.Machine

/-- The core of the current group. -/
def State.here (s : State) : Nat := coreOf s.cur

/-- The partition of the current group. -/
def State.herePart (s : State) : Nat := partOf s.cur

/-- The key of a tile in its team (R334): the core, the partition and the name. -/
def tileKey (core part n : Nat) : Nat := (4 * core + part) * 32 + n

/-- A tile at team start: +0 in every element, version 0 (R334). -/
def Tile.zero : Tile := { version := 0, data := [] }

/-- A tile of a team. -/
def Team.tile (t : Team) (core part n : Nat) : Tile := Table.findD t.tiles (tileKey core part n) Tile.zero

/-- A tile written. -/
def State.setTile (s : State) (tid core part n : Nat) (x : Tile) : State :=
  s.modTeam tid fun t => { t with tiles := Table.set t.tiles (tileKey core part n) x }

/-- Element (m, n) of a tile. -/
def Tile.at (x : Tile) (m n : Nat) : Word := Table.findD x.data (64 * m + n) 0

/-- A tile from its elements. -/
def Tile.build (version : BitVec 16) (f : Nat → Nat → Word) : Tile :=
  { version := version, data := (List.range 2048).map fun i => (i, f (i / 64) (i % 64)) }

/-- The accumulator names that an operation acts on. -/
def MatKind.tiles (k : MatKind) : List Nat :=
  match k with
  | .load _ _ _ _ _ _ => []
  | .mac _ t _ _ _ _ _ _ _ => [t]
  | .fill t _ => [t]
  | .scale t _ => [t]
  | .accAdd t a _ => [t, a]
  | .read t _ _ _ => [t]
  | .write t _ => [t]
  | .peek t _ _ _ => [t]

/-- The weight slot that an operation loads or reads. -/
def MatKind.slot? (k : MatKind) : Option Nat :=
  match k with
  | .load w _ _ _ _ _ => some w
  | .mac _ _ w _ _ _ _ _ _ => some w
  | _ => none

/-- Whether an operation loads a slot. -/
def MatKind.isLoad (k : MatKind) : Bool :=
  match k with
  | .load _ _ _ _ _ _ => true
  | _ => false

/-- K depth of a slot by its format (R339). -/
def depthOf (fc : Nat) : Nat :=
  match fc with
  | 14 => 64
  | 18 | 1 => 128
  | _ => 32

/-- The formats that a slot accepts, with the lookup width and `.sc` (R339). -/
def slotAccepts (w fc lut : Nat) (sc : Bool) : Bool :=
  if w < 2 then
    lut == 0 && (if fc == 8 || fc == 9 then !sc else fc == 0 || fc == 12 || fc == 13 || fc == 14 || fc == 16 || fc == 17)
  else (fc == 18 && lut == 0) || (fc == 1 && lut != 0)

/-- Whether a shape's BASE lies in the global or the team-scratchpad window (R339). -/
def Shape.baseOk (h : Shape) : Bool :=
  let a := address h.base
  canonical a && (windowOf a == .global || windowOf a == .team)

/-- The K-block of a format (R192). -/
def blockOf (fc : Nat) : Nat := if fc == 8 || fc == 9 then 16 else 32

/-- The claim of a pair: 0 the multiplier slots, 1 the plane slots (R338). -/
def MatUnit.claim (u : MatUnit) (pair : Nat) : Option Nat := if pair == 0 then u.claim0 else u.claim1

/-- A pair claimed or freed; a freed pair's slots hold nothing. -/
def MatUnit.setClaim (u : MatUnit) (pair : Nat) (c : Option Nat) : MatUnit :=
  let u1 := if pair == 0 then { u with claim0 := c, freeing0 := none } else { u with claim1 := c, freeing1 := none }
  if c.isNone then { u1 with slots := u1.slots.filter fun e => e.1 / 2 != pair } else u1

/-- Where the holder of a pair has released it (R340), the bound of the operations that it issued before. -/
def MatUnit.freeing (u : MatUnit) (pair : Nat) : Option Nat := if pair == 0 then u.freeing0 else u.freeing1

/-- What a team finds latched in a slot of a pair that it claims and has not released (R338 to R340; log 122): the format, the
lookup width and the scale flag; `ops` are the loads that are still to come, of which the last issued counts. -/
def MatUnit.latched (u : MatUnit) (s : State) (tid w : Nat) : Option (Nat × Nat × Bool) :=
  let now := (Table.find u.slots w).bind fun x => if x.team == tid then some (x.fc.toNat, x.lut, x.sc) else none
  if u.claim (w / 2) != some tid || (u.freeing (w / 2)).isSome then none
  else u.ops.foldl (fun acc o => match o.kind with
    | .load v h sc lut _ _ =>
      if v == w && (s.group? o.gid).elim false (fun g => g.team == tid) then some (h.fc.toNat, lut, sc.isSome) else acc
    | _ => acc) now

/-- The team of an operation. -/
def State.opTeam (s : State) (o : MatOp) : Option Nat := (s.group? o.gid).map fun g => g.team

/-- Whether a name lies beyond the team's tiles (R334). -/
def State.badTile (s : State) (g : Group) (n : Nat) : Bool :=
  match s.team? g.team with
  | some t => decide (t.acct ≤ n)
  | none => true

/-- A matrix operation issued (R336): e1 rises, and it reaches its unit. `reads` marks one that reads memory, which is a
release towards it (R133). -/
def State.issueMatrix (s : State) (g : Group) (reads : Bool) (ver : Option (BitVec 16)) (kind : MatKind) (done : Nat → State → Res) :
    Res :=
  if 255 ≤ g.rdE 1 then .stall .room s
  else if reads && s.acquiring (s.acc g) then .stall .room s
  else s.releaseIf (s.acc g) reads false fun s1 =>
    let (id, s2) := s1.issueRequest g 1 .matrix
    let p := g.pc s.curSlot
    done id (s2.modUnit s.here s.herePart fun u => { u with ops := u.ops ++
      [{ id := id, gid := s.cur, slot := s.curSlot, pc := p.pc, mask := p.mask, kind := kind, ver := ver, started := false }] })

/-- The version field of an instruction. -/
def verOf (f : ExtA) : BitVec 16 := f.w2.extractLsb' 0 16

/-- The origins in s[C] of `mwld` and the multiply-accumulate instructions (R339, R342). -/
def originsOk (v : DWord) (kbase : Nat) : Bool := bits v.toNat 63 48 == 0 && kbase % 32 == 0

/-- `mwld` (R339). -/
def mwldBody (f : ExtA) (g : Group) (s : State) : Res :=
  let w := f.d.toNat
  let v := (g.rdS f.c).toNat
  let h := g.rdH f.a.toNat
  let sc := f.mod.getLsbD 0
  let lut := f.mod.toNat / 2 % 4
  let hs := g.rdH f.b.toNat
  let u := s.unit s.here s.herePart
  let pair := w / 2
  if !originsOk (g.rdS f.c) (bits v 23 0) then .trap (.of .operandRange) s
  else if !slotAccepts w h.fc.toNat lut sc || !h.baseOk || (sc && !(hs.fc == 19 && hs.baseOk)) then .trap (.of .matrixForm) s
  else
    let other := (u.claim pair).elim false fun c => c != g.team
    if other && u.claim (1 - pair) == some g.team then .trap (.of .muHeld) s
    else s.issueMatrix g true none (.load w h (if sc then some hs else none) lut (bits v 23 0) (bits v 47 24)) fun _ s1 =>
      .ok (if (u.claim pair).isNone then s1.modUnit s.here s.herePart fun u => u.setClaim pair (some g.team) else s1)

/-- MWLD (R339): Loads a weight slot from a shape region, claiming its pair. -/
def execMwld (f : ExtA) (s : State) : Out := s.execA 0xD0 f (mwldBody f)

/-- Whether a slot's latched format and a stream's go together (R342). -/
def pairOk (op fc lut stream : Nat) : Bool :=
  if op == 0xD3 then fc == 1 && lut != 0 && stream == 0
  else if op == 0xD4 then fc == 18 && stream == 0
  else blockOf fc == blockOf stream

/-- The class of a format (R167). -/
def classOfFc (fc : Nat) : Option Nat :=
  if fc == 12 || fc == 13 then some 0 else if fc == 14 || fc == 16 || fc == 17 then some 1 else none

/-- A multiply-accumulate instruction (R342, R343). -/
def macBody (op : Byte) (f : ExtA) (g : Group) (s : State) : Res :=
  let w := f.b.toNat
  let v := (g.rdS f.c).toNat
  if s.badTile g f.d.toNat then .trap (.of .accRange) s
  else if !originsOk (g.rdS f.c) (bits v 47 24) then .trap (.of .operandRange) s
  else match g.streams[f.a.toNat % 4]'(Nat.mod_lt _ (by decide)), (s.unit s.here s.herePart).latched s g.team w with
    | some st, some (fc, lut, _) =>
      if !pairOk op.toNat fc lut st.shape.fc.toNat then .trap (.of .matrixForm) s
      else
        let cls := if op == 0xD3 || op == 0xD4 then some 2 else heavyOf (classOfFc fc) (classOfFc st.shape.fc.toNat)
        s.withLeave g cls fun s1 => s1.issueMatrix g true (some (verOf f))
          (.mac op f.d.toNat w st (f.mod.getLsbD 0) (bits v 23 0) (bits v 47 24) (f.mod.toNat / 2 % 4)
            (signed 16 (bits f.w2.toNat 31 16))) fun _ s2 => .ok s2
    | _, _ => .trap (.of .matrixForm) s

/-- MMAC (R342): Accumulates 32 stream rows against a weight slot into a tile. -/
def execMmac (f : ExtA) (s : State) : Out := s.execA 0xD1 f (macBody 0xD1 f)

/-- MTRI (R342, R343): mmac with a triangular mask and fill constant. -/
def execMtri (f : ExtA) (s : State) : Out := s.execA 0xD2 f (macBody 0xD2 f)

/-- MLUT (R342): Accumulates i8 activations against a lookup slot. -/
def execMlut (f : ExtA) (s : State) : Out := s.execA 0xD3 f (macBody 0xD3 f)

/-- MTERN (R342): Accumulates i8 activations against a ternary slot. -/
def execMtern (f : ExtA) (s : State) : Out := s.execA 0xD4 f (macBody 0xD4 f)

/-- MZERO (R344): Sets every tile element to +0, or to the value of s[B] with `.c`. -/
def execMzero (f : ExtA) (s : State) : Out :=
  s.execA 0xD5 f fun g s =>
    if s.badTile g f.d.toNat then .trap (.of .accRange) s
    else s.issueMatrix g false (some (verOf f))
      (.fill f.d.toNat (if f.mod.getLsbD 0 then (g.rdS f.b).extractLsb' 0 32 else 0)) fun _ s1 => .ok s1

/-- MSCALE (R344): Multiplies every tile element by the binary32 value of s[B]. -/
def execMscale (f : ExtA) (s : State) : Out :=
  s.execA 0xD9 f fun g s =>
    if s.badTile g f.d.toNat then .trap (.of .accRange) s
    else s.issueMatrix g false (some (verOf f)) (.scale f.d.toNat ((g.rdS f.b).extractLsb' 0 32)) fun _ s1 => .ok s1

/-- MACCADD (R344): Adds one tile to another, advancing both versions. -/
def execMaccadd (f : ExtA) (s : State) : Out :=
  s.execA 0xE5 f fun g s =>
    if s.badTile g f.d.toNat || s.badTile g f.a.toNat then .trap (.of .accRange) s
    else s.issueMatrix g false (some (verOf f)) (.accAdd f.d.toNat f.a.toNat (f.w2.extractLsb' 16 16)) fun _ s1 => .ok s1

/-- Registers that `mrd` and `mwr` span (R345). -/
def spanRegs (ty d : Nat) : List Nat := (List.range (if ty == 10 then 8 else 4)).map fun i => d + i

/-- The pending registers of an `mrd`: each is empty until the operation completes (R345). -/
def State.awaitRegs (s : State) (g : Group) (id : Nat) (regs : List Nat) : State :=
  regs.foldl (fun s n =>
    let (pid, s1) := s.fresh
    let d : Dest := .vec (g.named n) 5
    (s1.modGroup s1.cur fun g => g.emptyDest d).addPend
      { (s1.acc g).pend pid g d (g.pc s1.curSlot).mask false with left := 1, ge := some id, memory := false }) s

/-- `n` draws taken by each active lane of a slot (R184). -/
def Group.takeDraws (g : Group) (slot : Bool) (n : Nat) : Group :=
  { g with draws := Lanes.of fun i => g.draws.lane i + (if (g.pc slot).mask.getLsbD i then BitVec.ofNat 64 n else 0) }

/-- `mrd` (R345). -/
def mrdBody (f : ExtA) (g : Group) (s : State) : Res :=
  let regs := spanRegs f.ty.toNat f.d.toNat
  match g.vecCheck [] regs with
  | .trap c => .trap (.of c) s
  | .wait => .stall .register s
  | .go =>
    if s.badTile g f.a.toNat then .trap (.of .accRange) s
    else
      let rnd := if f.rnd == 6 then (s.ctx g.asid).fpCtl.extractLsb' 0 3 else f.rnd
      s.issueMatrix g false (some (verOf f)) (.read f.a.toNat f.ty rnd g.draws) fun id s1 =>
        .ok ((s1.awaitRegs g id regs).modGroup s.cur fun g => if rnd == 5 && f.ty != 10 then g.takeDraws s.curSlot 8 else g)

/-- MRD (R345): Copies a tile into vector registers with rounding. -/
def execMrd (f : ExtA) (s : State) : Out := s.execA 0xD6 f (mrdBody f)

/-- `mwr` (R345). -/
def mwrBody (f : ExtA) (g : Group) (s : State) : Res :=
  let regs := spanRegs 10 f.a.toNat
  match g.vecCheck [(regs, f.fe.getLsbD 2)] [] with
  | .trap c => .trap (.of c) s
  | .wait => .stall .register s
  | .go =>
    if s.badTile g f.d.toNat then .trap (.of .accRange) s
    else s.readRegs g regs (BitVec.allOnes 256) .ueEngine
      (s.issueMatrix g false (some (verOf f)) (.write f.d.toNat (regs.map fun n => (g.rdV n).lane)) fun _ s1 => .ok s1)

/-- MWR (R345): Copies vector registers into a tile. -/
def execMwr (f : ExtA) (s : State) : Out := s.execA 0xD7 f (mwrBody f)

/-- MVER (R346): Returns a tile's version. -/
def execMver (f : ExtA) (s : State) : Out :=
  s.execA 0xD8 f fun g s =>
    if s.badTile g f.a.toNat then .trap (.of .accRange) s
    else match s.team? g.team with
      | some t => .ok (s.modGroup s.cur fun g =>
          g.wrS f.d ((t.tile s.here s.herePart f.a.toNat).version.setWidth 64))
      | none => .ok s

/-- Whether an operation of a team on a tile waits or runs. -/
def State.tileBusy (s : State) (core part tid n : Nat) : Bool :=
  (s.unit core part).ops.any fun o => s.opTeam o == some tid && o.kind.tiles.contains n

/-- MVER_SET (R346): Sets a tile's version once no operation on it is pending. -/
def execMverSet (f : ExtA) (s : State) : Out :=
  s.execA 0xD8 f fun g s =>
    if s.badTile g f.a.toNat then .trap (.of .accRange) s
    else if s.tileBusy s.here s.herePart g.team f.a.toNat then .stall .register s
    else match s.team? g.team with
      | some t => .ok (s.setTile g.team s.here s.herePart f.a.toNat
          { t.tile s.here s.herePart f.a.toNat with version := (g.rdS f.b).extractLsb' 0 16 })
      | none => .ok s

/-- The formats that a stream accepts, with `.sc` (R341). -/
def streamAccepts (fc : Nat) (sc : Bool) : Bool :=
  if fc == 8 || fc == 9 then !sc else fc == 0 || fc == 12 || fc == 13 || fc == 14 || fc == 16 || fc == 17

/-- MSTREAM (R341): Sets an activation stream to a copy of a shape. -/
def execMstream (f : ExtA) (s : State) : Out :=
  s.execA 0xDA f fun g s =>
    let h := g.rdH f.a.toNat
    let hs := g.rdH f.b.toNat
    let sc := f.mod.getLsbD 0
    if !streamAccepts h.fc.toNat sc || (sc && hs.fc != 19) then .trap (.of .matrixForm) s
    else
      let x : Stream := { shape := h, scales := if sc then some hs else none }
      .ok (s.setGroup s.cur { g with streams := g.streams.set (f.d.toNat % 4) (some x) (Nat.mod_lt _ (by decide)) })

/-- Whether an operation of a team with a number below a bound uses a pair. -/
def State.pairBusy (s : State) (u : MatUnit) (tid pair bound : Nat) : Bool :=
  u.ops.any fun o => decide (o.id < bound) && s.opTeam o == some tid && (o.kind.slot?.elim false fun w => w / 2 == pair)

/-- A released pair freed once its holder has no operation on it (R340). -/
def State.freePair (s : State) (core part pair : Nat) : State :=
  let u := s.unit core part
  match u.claim pair, u.freeing pair with
  | some tid, some n => if s.pairBusy u tid pair n then s else s.modUnit core part fun u => u.setClaim pair none
  | _, _ => s

/-- MWREL (R340): Releases the team's claim on a slot pair once its operations have completed. -/
def execMwrel (f : ExtA) (s : State) : Out :=
  s.execA 0xDB f fun g s =>
    let pair := f.w2.toNat % 2
    if (s.unit s.here s.herePart).claim pair == some g.team then
      let s1 := s.modUnit s.here s.herePart fun u =>
        if pair == 0 then { u with freeing0 := firstOf u.freeing0 (some s.nextId) }
        else { u with freeing1 := firstOf u.freeing1 (some s.nextId) }
      .ok (s1.freePair s.here s.herePart pair)
    else .ok s

/-- Whether a slot of a group is held at an `mbar` (R347). -/
def State.inMbar (s : State) (gid : Nat) (slot : Bool) : Bool :=
  s.pends.any fun p => p.hold && p.gid == gid && p.slot == slot && p.why == .mbar

/-- `mbar` (R347): the whole group stalls, so that its other slot waits too. -/
def mbarBody (g : Group) (s : State) : Res :=
  let s1 := s.tryMbar g.team s.here s.herePart
  if s1.inMbar s.cur (!s.curSlot) then .stall .mbar s1
  else s1.inParts g .mbar (fun id s =>
    let s2 := s.modTeam g.team fun t => { t with mbarArrived := Table.set t.mbarArrived g.index id }
    (1, s2)) fun _ s => .ok s

/-- MBAR (R347): Matrix barrier of the team's groups on the partition. -/
def execMbar (f : ExtA) (s : State) : Out := s.execA 0xE4 f mbarBody

/-- `mpeek` (R346): the slot waits until the operation has retired. -/
def mpeekBody (f : ExtA) (g : Group) (s : State) : Res :=
  let v := (g.rdS f.b).toNat
  match s.held? s.cur s.curSlot (g.pc s.curSlot).pc with
  | some p =>
    if p.left != 0 then .stall .register s
    else
      let s1 := s.dropPend p.id
      .ok (if p.failed then s1 else s1.modGroup s.cur fun g => g.wrS f.d ((p.values.lane 0) &&& 0xFFFFFFFF))
  | none =>
    if s.badTile g f.a.toNat then .trap (.of .accRange) s
    else if bits v 63 14 != 0 || bits v 7 5 != 0 then .trap (.of .operandRange) s
    else s.issueMatrix g false (some (verOf f)) (.peek f.a.toNat f.d (bits v 4 0) (bits v 13 8)) fun id s1 =>
      let (pid, s2) := s1.fresh
      .stall .register (s2.addPend { Pend.of pid s.cur s.curSlot (g.pc s.curSlot).pc 1 with ge := some id, memory := false })

/-- MPEEK (R346): Returns one tile element. -/
def execMpeek (f : ExtA) (s : State) : Out := s.execA 0xE6 f (mpeekBody f)

/-- `mfmt` (R340). -/
def mfmtBody (f : ExtA) (g : Group) (s : State) : Res :=
  let w := f.w2.toNat % 4
  let u := s.unit s.here s.herePart
  if u.ops.any fun o => o.gid == s.cur && o.kind.isLoad && o.kind.slot? == some w then .stall .register s
  else
    let claim := u.claim (w / 2)
    let mine := claim == some g.team
    let v := match Table.find u.slots w with
      | some x =>
        if mine && x.team == g.team then
          2 ^ 61 + x.fc.toNat * 2 ^ 16 + x.lut * 2 ^ 14 + bitAt x.sc 13 + x.kw
        else 0
      | none => 0
    .ok (s.modGroup s.cur fun g => g.wrS f.d (BitVec.ofNat 64 (bitAt claim.isSome 63 + bitAt mine 62 + v)))

/-- MFMT (R340): Reports a weight slot's claim and latched format. -/
def execMfmt (f : ExtA) (s : State) : Out := s.execA 0xE7 f (mfmtBody f)

end Sys2Proof.Machine
end

