-- ==== Sys2Proof/Machine/Range.lean ====
section
/-! DEFINITION. Range instructions, coherence objects, mirror windows and translation control (R101, R102, R116 to R118,
R316 to R322, R324 to R327). -/

namespace Sys2Proof.Machine

/-- The pages of a byte range: the address at which each is checked. -/
def pagesOf (a n : Nat) : List Nat :=
  (List.range ((a + n - 1) / 65536 + 1 - a / 65536)).map fun i => if i == 0 then a else (a / 65536 + i) * 65536

/-- Whether a byte range lies wholly in the global window (R316). -/
def rangeGlobal (a : DWord) (n : Nat) : Bool := decide (a.toNat + n ≤ 2 ^ 55)

/-- The pages of a range translated in ascending order by the scalar pipe (R316): the DPA of each page. The store filter of
R100 does not look at them: a discard leaves lines of STABLE and FROZEN objects unchanged (R118). -/
def State.rangePages (s : State) (g : Group) (k : AccessKind) : List Nat → Except AddrFault (List (Nat × Nat)) × State
  | [] => (.ok [], s)
  | va :: t => match s.translate ((s.asker s.cur g).via false) k va with
    | (.fail c l, s1) => (.error { cause := c, addr := BitVec.ofNat 64 va, level := l }, s1)
    | (.ok dpa _ _, s1) => match s1.rangePages g k t with
      | (.error f, s2) => (.error f, s2)
      | (.ok l, s2) => (.ok ((va / 65536, dpa / 65536 * 65536) :: l), s2)

/-- The range of R316 with its pages: what follows takes each page's number and DPA, the address and the length. -/
def State.withRange (s : State) (g : Group) (k : AccessKind) (a : DWord) (n : Nat)
    (go : List (Nat × Nat) → State → Res) : Res :=
  let bad (c : Cause) (s : State) : Res := .trap (pipeTrap k.code { cause := c, addr := a, level := 0 }) s
  if !canonical a then bad .addrNoncanonical s
  else if !rangeGlobal a n then bad .addrWindow s
  else match s.rangePages g k (pagesOf a.toNat n) with
    | (.error f, s1) => .trap (pipeTrap k.code f) s1
    | (.ok ps, s1) => go ps s1

/-- The checks of s[C] of a range instruction (R316). -/
def State.withBytes (s : State) (f : ExtM) (g : Group) (k : AccessKind)
    (go : Nat → Nat → List (Nat × Nat) → State → Res) : Res :=
  let a := g.rdS f.a + dispOf f
  let n := (g.rdS f.c).toNat
  if n == 0 then .ok s
  else if s.acquiring (s.acc g) && n ≤ 2 ^ 32 then .stall .room s
  else s.withRange g k a n fun ps s1 => if 2 ^ 32 < n then .trap (.of .operandRange) s1 else go a.toNat n ps s1

/-- The lines of a page that a range covers, wholly or partly (R316), by number. -/
def pageLines (a n : Nat) (p : Nat × Nat) : List Nat :=
  ((List.range 512).filter fun i =>
    decide (a / 128 ≤ (p.1 * 65536 + 128 * i) / 128) && decide ((p.1 * 65536 + 128 * i) / 128 ≤ (a + n - 1) / 128)).map
    fun i => p.2 / 128 + i

/-- The lines of the pages that a gate lets through (R39); a refused page is a deferred memory trap (R29). -/
def State.gatedLines (s : State) (g : Group) (need a n : Nat) (kind : BitVec 2) (ps : List (Nat × Nat)) :
    List (Nat × Nat) × State :=
  ps.foldl (fun acc p => match acc.2.gateCheck (bhOf acc.2.cur) (p.2 / 65536) need with
    | some c => (acc.1, acc.2.deferFailure acc.2.cur
        { cause := c, pc := acc.2.pcNow g, lane := 0, addr := BitVec.ofNat 64 (p.1 * 65536), kind := kind })
    | none => (acc.1 ++ (pageLines a n p).map (fun l => (p.1, l)), acc.2)) ([], s)

/-- Pinned lines of the slice of a line (R116). -/
def State.pinnedIn (s : State) (l : Nat) : Nat :=
  (s.lines.filter fun e => !e.2.pins.isEmpty && bhOfDpa (128 * e.1) == bhOfDpa (128 * l)
    && s.homeSlice (128 * e.1) == s.homeSlice (128 * l)).length

/-- Whether a line can take the pin of a context (R116, R317): none where it cannot, or where its set has no room (R107). -/
def State.pin (s : State) (asid page l : Nat) : Option State :=
  let x := s.line l
  if x.pins.any fun p => p.1 == asid then some s
  else if 4 ≤ x.pins.length || decide ((s.bh (bhOfDpa (128 * l))).pinMax ≤ s.pinnedIn l) then none
  else
    let (room, s1) := s.makeRoom l
    if room then some (s1.setLine l { s1.line l with pins := x.pins ++ [(asid, page)] }) else none

/-- Lines pinned in order until one cannot be (R317): how many are pinned, and whether it stopped early. -/
def State.pinAll (s : State) (asid : Nat) : List (Nat × Nat) → Nat → Nat × Bool × State
  | [], n => (n, false, s)
  | (page, l) :: t, n => match s.pin asid page l with
    | none => (n, true, s)
    | some s1 => s1.pinAll asid t (n + 1)

/-- The frames of a list of lines. -/
def framesOf (ls : List (Nat × Nat)) : List Nat := (ls.map fun l => l.2 / 512).eraseDups

/-- L2PIN (R317): Pins each line of a range at its home slice. -/
def execL2pin (f : ExtM) (s : State) : Out :=
  s.execM 0xAD f fun g s => s.withBytes f g .load fun a n ps s1 =>
    let (ls, s2) := s1.gatedLines g 1 a n 0 ps
    let (count, early, s3) := s2.pinAll g.asid ls 0
    let s4 := (framesOf ls).foldl (fun s f => s.syncPins f) s3
    .ok (s4.modGroup s.cur fun g => g.wrS f.d (BitVec.ofNat 64 (bitAt early 63 + count % 2 ^ 32)))

/-- L2UNPIN (R317): Drops the context's pin from each line of a range. -/
def execL2unpin (f : ExtM) (s : State) : Out :=
  s.execM 0xAE f fun g s => s.withBytes f g .load fun a n ps s1 =>
    let (ls, s2) := s1.gatedLines g 1 a n 0 ps
    let mine := ls.filter fun l => (s2.line l.2).pins.any fun p => p.1 == g.asid
    let s3 := mine.foldl (fun s l => s.setLine l.2 { s.line l.2 with pins := (s.line l.2).pins.filter fun p => p.1 != g.asid }) s2
    let s4 := (framesOf ls).foldl (fun s f => s.syncPins f) s3
    .ok (s4.modGroup s.cur fun g => g.wrS f.d (BitVec.ofNat 64 mine.length))

/-- Whether a core still has a store to perform in some line of a list: a P word, or a message in flight. -/
def State.lineBusy (s : State) (core : Nat) (ls : List (Nat × Nat)) : Bool :=
  ls.any fun l => s.inFlight core (128 * l.2) 128 || (s.core core).l1.any fun e => e.1 / 32 == l.2 && e.2.st == .pend

/-- Whether a grant of some core is on its way for a word of the lines, which no revocation may overtake (R90). -/
def State.granted (s : State) (ls : List (Nat × Nat)) : Bool := ls.any fun l => !s.quiet (128 * l.2) 128

/-- WBACK (R318): Writes a range back to HBM. -/
def execWback (f : ExtM) (s : State) : Out :=
  s.execM 0xB0 f fun g s => s.withBytes f g .load fun a n ps s1 =>
    let (ls, s2) := s1.gatedLines g 1 a n 0 ps
    let s3 := s2.flushCore (coreOf s.cur)
    if s3.lineBusy (coreOf s.cur) ls || s3.granted ls then .stall .room s3
    else .ok (ls.foldl (fun s l => s.writeBackLine l.2) s3)

/-- Whether a line belongs to an object that a discard leaves alone (R118). -/
def State.discardSpared (s : State) (asid page l : Nat) : Bool :=
  !(s.line l).pins.isEmpty || match s.objAt (bhOfDpa (128 * l)) asid (page * 65536 + 128 * l % 65536) with
    | some (_, o) => o.st != .shared
    | none => false

/-- A line discarded by a core with stamp F (R118, R145): its V and P words go, its registered words return, and it is
dropped where its first write is later than F. -/
def State.discardLine (s : State) (core asid stamp : Nat) (l : Nat × Nat) : State :=
  if s.discardSpared asid l.1 l.2 then s
  else
    let s1 := s.modCore core fun c => { c with l1 := Table.drop c.l1 fun w x => w / 32 == l.2 && x.st != .owned }
    let s2 := s1.settleLine l.2
    if (s2.line l.2).dirty && decide (stamp < (s2.line l.2).firstStamp) then s2.revertLine l.2 else s2

/-- DISCARD (R319): Drops or keeps each line of a range, by the group's fence stamp. -/
def execDiscard (f : ExtM) (s : State) : Out :=
  s.execM 0xAF f fun g s => s.withBytes f g .store fun a n ps s1 =>
    let (ls, s2) := s1.gatedLines g 2 a n 1 ps
    if s2.granted ls || ls.any fun l => s2.inFlight (coreOf s.cur) (128 * l.2) 128 then .stall .room s2
    else .ok (ls.foldl (fun s l => s.discardLine (coreOf s.cur) g.asid g.fenceStamp l) s2)

/-- No object. -/
def Obj.empty : Obj :=
  { st := .shared, held := false, opndB := false, bind := 0, asid := 0, version := 0, grid := 0, owner := noGrid, base := 0
    pitch := 0, rowBytes := 0, esz := 1, rows := 0 }

/-- Whether two boxes of objects share a byte in a row of the first (R321). -/
def Obj.meets (o : Obj) (x n : Nat) : Bool :=
  if o.rows == 1 then overlaps o.base o.rowBytes x n
  else
    let r := (if o.base < x then x - o.base else 0) / (max o.pitch 1)
    (List.range 2).any fun i => decide (r + i < o.rows) && overlaps (o.base + (r + i) * o.pitch) o.rowBytes x n

/-- Whether two objects share a byte (R321). -/
def Obj.overlap (o p : Obj) : Bool := (List.range p.rows).any fun i => o.meets (p.base + i * p.pitch) p.rowBytes

/-- A declaration record (R320) in a context: the object and the state it asks for, or none where the record has a form
that R321 refuses. A PITCH that its 32 bits of R98 do not hold is refused likewise (log 20). VERSION of a new entry starts at 0, in a
reused place too (log 119). -/
def objOfRecord (ds : List Nat) (asid grid : Nat) : Option (Obj × ObjState) :=
  let d (i : Nat) : Nat := (ds[i]?).getD 0
  match shapeOf ds with
  | none => none
  | some h =>
    let row := (h.cols.toNat * fcBits h.fc.toNat + 7) / 8
    let many := 1 < h.rows.toNat
    if bits (d 4) 63 3 != 0 || bits (d 4) 1 0 == 3 || d 5 != 0 || d 6 != 0 || d 7 != 0 || h.base.toNat % 128 != 0
      || row % 128 != 0 || (many && (h.pitch.toNat % 128 != 0 || decide (h.pitch.toNat < row) || decide (2 ^ 32 ≤ h.pitch.toNat)))
    then none
    else some
      ({ st := .shared, held := bit (d 4) 2, opndB := false, bind := 0, asid := asid, version := 0, grid := grid % 65536
         owner := noGrid, base := h.base.toNat, pitch := h.pitch.toNat % 2 ^ 32, rowBytes := row, esz := 1, rows := h.rows.toNat },
        if bits (d 4) 1 0 == 1 then .stable else if bits (d 4) 1 0 == 2 then .frozen else .shared)

/-- Whether an object's box stays in the global window. -/
def Obj.global (o : Obj) : Bool := decide (o.base + (o.rows - 1) * o.pitch + o.rowBytes ≤ 2 ^ 55)

/-- Whether an object is STABLE or FROZEN. -/
def Obj.readOnly (o : Obj) : Bool := o.st == .stable || o.st == .frozen

/-- How many objects of a context are STABLE or FROZEN in a bulkhead (R100). -/
def State.filterCount (s : State) (b asid : Nat) : Nat :=
  ((s.bh b).objs.filter fun e => e.2.asid == asid && e.2.readOnly).length

/-- The launch number of the grid that a group belongs to (R98). -/
def State.gridNumber (s : State) (g : Group) : Nat :=
  match (s.team? g.team).bind fun t => Table.find s.grids t.grid with
  | some gr => gr.number
  | none => 0

/-- The grid in which a group declares objects, by its number in the model. -/
def State.gridOwner (s : State) (g : Group) : Nat := ((s.team? g.team).map fun t => t.grid).getD noGrid

/-- An object entry written. -/
def State.setObj (s : State) (b i : Nat) (o : Obj) : State := s.modBh b fun x => { x with objs := Table.set x.objs i o }

/-- An object entry removed. -/
def State.dropObj (s : State) (b i : Nat) : State := s.modBh b fun x => { x with objs := Table.erase x.objs i }

/-- The cores of a bulkhead (R21). -/
def coresOf (b : Nat) : List Nat := (List.range 24).map fun i => 24 * b + i

/-- Every registered word that a bulkhead homes is taken back. It includes those of an object that enters STABLE, FROZEN
or STANDING (R101); taking back more changes no value (log 21). -/
def State.settleBh (s : State) (b : Nat) : State :=
  (s.owners.filter fun e => bhOfDpa (4 * e.1) == b).foldl (fun s e => s.settle e.1) s

/-- Whether a grant of a word that a bulkhead homes is on its way. -/
def State.granting (s : State) (b : Nat) : Bool := s.net.any fun m => m.kind == .grant && bhOfDpa m.dpa == b

/-- The lazy words of the cores of a bulkhead are sent, and whether every L1 of it has performed its P words and every
store that passed a filter has been performed (R101). -/
def State.storesDone (s : State) (b : Nat) : Bool × State :=
  let s1 := (coresOf b).foldl (fun s c => s.flushCore c) s
  (!((coresOf b).any fun c => s1.hasPending c)
    && !(s1.net.any fun m => bhOfCore m.core == b && m.kind.request && (m.origin.isStore || m.origin.isAtomic))
    && !s1.granting b, s1)

/-- An object enters STABLE or FROZEN from SHARED (R101), or waits. -/
def State.makeReadOnly (s : State) (b i : Nat) (o : Obj) (st : ObjState) (go : State → Res) : Res :=
  let (done, s1) := s.storesDone b
  if !done then .stall .room s1 else go ((s1.settleBh b).setObj b i { o with st := st })

/-- An object leaves STABLE or FROZEN (R101, R102): VERSION rises, its replicas go, and an object invalidation is sent
to every L1 and network interface of the bulkhead; those of the engines have no L1, and lose their entries at once. -/
def State.leaveReadOnly (s : State) (b i : Nat) (o : Obj) (pend : Option Nat) : State :=
  let v := (o.version + 1) % 65536
  let s1 := s.setObj b i { o with st := .shared, version := v }
  let mine := s1.lines.filter fun e => bhOfDpa (128 * e.1) == b && (e.2.replicaOf.elim false fun p => p.1 == i)
  let s2 := mine.foldl (fun s e => s.setLine e.1 { e.2 with helpers := [], replicaOf := none, reads := [] }) s1
  let s3 := s2.modBh b fun x =>
    { x with engineRedirects := x.engineRedirects.map fun t => (t.1, t.2.filter fun r => r.obj != i) }
  (coresOf b).foldl (fun s c =>
    let (id, s') := s.fresh
    { s' with net := s'.net ++ [{ Msg.at (.objInval i v) c o.asid 0 0 0 with id := id, pend := pend }] }) s3

/-- The result of a refused `objdecl` (R321). -/
def objFail (code : Nat) : DWord := BitVec.ofNat 64 (2 ^ 63 + code * 2 ^ 12)

/-- Why `objdecl` makes no entry (R321), in the order FORM, WINDOW, OVERLAP, FULL, FILTER. -/
def State.objRefusal (s : State) (b : Nat) (x : Option (Obj × ObjState)) : Option Nat :=
  match x with
  | none => some 3
  | some (o, st) =>
    if !o.global then some 4
    else if (s.bh b).objs.any fun e => e.2.asid == o.asid && e.2.overlap o then some 2
    else if decide (4096 ≤ (s.bh b).objs.length) then some 1
    else if st != .shared && decide (64 ≤ s.filterCount b o.asid) then some 5
    else none

/-- `objdecl` (R321). The entry is the lowest free one (log 22). -/
def objdeclBody (f : ExtM) (g : Group) (s : State) : Res :=
  let a := g.rdS f.a + dispOf f
  let b := bhOf s.cur
  let fail (s : State) (code : Nat) : Res := .ok (s.modGroup s.cur fun g => g.wrS f.d (objFail code))
  if a.toNat % 64 != 0 then fail s 3
  else s.withRecord g 8 a none fun ds s1 =>
    let x := (objOfRecord ds g.asid (s1.gridNumber g)).map fun x => ({ x.1 with owner := s1.gridOwner g }, x.2)
    match s1.objRefusal b x, x with
    | some c, _ => fail s1 c
    | none, none => fail s1 3
    | none, some (o, st) =>
      let i := Table.freeFrom (s1.bh b).objs 4096 0
      let done (s : State) : Res := .ok (s.modGroup s.cur fun g => g.wrS f.d (BitVec.ofNat 64 i))
      if st == .shared then done (s1.setObj b i o)
      else s1.fence (s1.acc g) false fun s2 => s2.makeReadOnly b i o st done

/-- OBJDECL (R321): Declares a coherence object from a record. -/
def execObjdecl (f : ExtM) (s : State) : Out := s.execM 0xB1 f (objdeclBody f)

/-- The object that `objset` or `objrel` names (R322): none where it traps OBJ_STATE. -/
def State.namedObj (s : State) (g : Group) (v : Nat) : Option Obj :=
  match Table.find (s.bh (bhOf s.cur)).objs v with
  | some o => if o.asid == g.asid && o.st != .standing then some o else none
  | none => none

/-- An object's departure from STABLE or FROZEN by an instruction, which is complete when every invalidation has
arrived (R101). -/
def State.departObj (s : State) (g : Group) (b i : Nat) (o : Obj) (done : State → State) : Res :=
  s.inParts g .room (fun id s => ((coresOf b).length, s.leaveReadOnly b i o (some id))) fun _ s => .ok (done s)

/-- A fence before the first part of an instruction that has parts (R138). -/
def State.fenceOnce (s : State) (g : Group) (go : State → Res) : Res :=
  match s.held? s.cur s.curSlot (s.pcNow g) with
  | some _ => go s
  | none => s.fence (s.acc g) false go

/-- The state that MODM of `objset` names (R322). -/
def objTarget (f : ExtM) : ObjState :=
  match f.modm.toNat with
  | 0 => .shared
  | 1 => .stable
  | _ => .frozen

/-- `objset` (R322). -/
def objsetBody (f : ExtM) (g : Group) (s : State) : Res :=
  let v := (g.rdS f.a).toNat
  let b := bhOf s.cur
  let st := objTarget f
  if 4096 ≤ v then .trap (.of .operandRange) s
  else if (s.held? s.cur s.curSlot (s.pcNow g)).isSome then s.departObj g b v Obj.empty (fun s => s)
  else match s.namedObj g v with
    | none => .trap (.of .objState) s
    | some o =>
      if !o.readOnly && st != .shared && decide (64 ≤ s.filterCount b g.asid) then .trap (.of .objState) s
      else s.fenceOnce g fun s1 =>
        if o.st == st then .ok s1
        else if st == .shared then s1.departObj g b v o (fun s => s)
        else if o.readOnly then .ok (s1.setObj b v { o with st := st })
        else s1.makeReadOnly b v o st fun s2 => .ok s2

/-- OBJSET (R322): Changes an object's state. -/
def execObjset (f : ExtM) (s : State) : Out := s.execM 0xB2 f (objsetBody f)

/-- `objrel` (R322). -/
def objrelBody (f : ExtM) (g : Group) (s : State) : Res :=
  let v := (g.rdS f.a).toNat
  let b := bhOf s.cur
  if 4096 ≤ v then .trap (.of .operandRange) s
  else if (s.held? s.cur s.curSlot (s.pcNow g)).isSome then s.departObj g b v Obj.empty fun s => s.dropObj b v
  else match s.namedObj g v with
    | none => .trap (.of .objState) s
    | some o => s.fenceOnce g fun s1 =>
        if o.readOnly then s1.departObj g b v o fun s => s.dropObj b v else .ok (s1.dropObj b v)

/-- OBJREL (R322): Removes an object entry. -/
def execObjrel (f : ExtM) (s : State) : Out := s.execM 0xB3 f (objrelBody f)

/-- A copy between a mirror window and its global range issued (R324, R325): e0 rises. It goes on when the window is closed. -/
def State.issueMirror (s : State) (g : Group) (w : Mirror) (toSpad : Bool) : State :=
  (s.issueRequest g 0 (.mirror w.va w.offset w.units toSpad 0)).2

/-- The scratchpad range of a mirror window meets another (R324); offsets are in bytes. -/
def Team.windowMeets (t : Team) (off n : Nat) : Bool := t.windows.any fun w => overlaps w.2.offset (512 * w.2.units) off n

/-- `winmap` (R324): the lowest free window is taken (log 144). -/
def winmapBody (f : ExtM) (g : Group) (s : State) : Res :=
  let a := g.rdS f.a + dispOf f
  let c := (g.rdS f.c).toNat
  let off := bits c 24 0
  let len := bits c 47 32
  match s.team? g.team with
  | none => .ok s
  | some t =>
    s.withRange g .load a (512 * len) fun ps s1 =>
      let i := Table.freeFrom t.windows 16 0
      if bits c 63 48 != 0 || bits c 31 25 != 0 || len == 0 || a.toNat % 128 != 0 || off % 512 != 0 then
        .trap (.of .operandRange) s1
      else if t.spad < off + 512 * len || t.windowMeets off (512 * len) then .trap (.of .windowRange) s1
      else if s1.acquiring (s1.acc g) then .stall .room s1
      else if 16 ≤ i then .ok (s1.modGroup s.cur fun g => g.wrS f.d (2 ^ 63))
      else if 255 ≤ g.rdE 0 then .stall .room s1
      else s1.release (s1.acc g) false fun s2 =>
        let frames := ps.map fun p => (p.1, p.2 / 65536)
        let w : Mirror := { va := a, offset := off, units := len, revoked := false, frames := frames }
        let s3 := s2.modTeam g.team fun t => { t with windows := Table.set t.windows i w }
        let s4 := (frames.map fun p => p.2).eraseDups.foldl (fun s k => s.syncMirror k) s3
        .ok ((s4.issueMirror g w true).modGroup s.cur fun g => g.wrS f.d (BitVec.ofNat 64 i))

/-- WINMAP (R324): Opens a mirror window and copies its range into the scratchpad. -/
def execWinmap (f : ExtM) (s : State) : Out := s.execM 0xBC f (winmapBody f)

/-- A mirror window closed (R325): it copies nothing, and MW falls in every frame that no other window covers. -/
def State.closeWindow (s : State) (tid i : Nat) : State :=
  match (s.team? tid).bind fun t => Table.find t.windows i with
  | none => s
  | some w =>
    (w.frames.map fun p => p.2).eraseDups.foldl (fun s k => s.syncMirror k)
      (s.modTeam tid fun t => { t with windows := Table.erase t.windows i })

/-- The frame of `winsync` (R325): the operand and the open window. -/
def winsyncBody (f : ExtM) (go : Nat → Mirror → Group → State → Res) (g : Group) (s : State) : Res :=
  let v := (g.rdS f.a).toNat
  match (s.team? g.team).bind fun t => Table.find t.windows v with
  | some w => if 16 ≤ v then .trap (.of .operandRange) s else go v w g s
  | none => .trap (.of .operandRange) s

/-- `winsync.wb` and `winsync.fill` (R325): a revoked window traps, which closes it. -/
def winsyncCopy (toSpad : Bool) (i : Nat) (w : Mirror) (g : Group) (s : State) : Res :=
  if w.revoked then .trap (.of .windowRevoked) (s.closeWindow g.team i)
  else if 255 ≤ g.rdE 0 then .stall .room s
  else if s.acquiring (s.acc g) then .stall .room s
  else s.withRange g (if toSpad then .load else .store) w.va (512 * w.units) fun _ s1 =>
    s1.release (s1.acc g) false fun s2 => .ok (s2.issueMirror g w toSpad)

/-- WINSYNC_WB (R325): Copies the scratchpad range of a mirror window to its global range. -/
def execWinsyncWb (f : ExtM) (s : State) : Out := s.execM 0xBD f (winsyncBody f (winsyncCopy false))

/-- WINSYNC_FILL (R325): Copies the global range of a mirror window into the scratchpad again. -/
def execWinsyncFill (f : ExtM) (s : State) : Out := s.execM 0xBD f (winsyncBody f (winsyncCopy true))

/-- WINSYNC_CLOSE (R325): Closes a mirror window without copying. -/
def execWinsyncClose (f : ExtM) (s : State) : Out :=
  s.execM 0xBD f (winsyncBody f fun i _ g s => .ok (s.closeWindow g.team i))

/-- `tlbinv` (R326): complete when its shootdown is. -/
def tlbinvBody (f : ExtM) (g : Group) (s : State) : Res :=
  let a := g.rdS f.a + dispOf f
  let n := (g.rdS f.c).toNat
  if !g.sup then .trap (.of .privilege) s
  else if !canonical a then .trap (pipeTrap 0 { cause := .addrNoncanonical, addr := a, level := 0 }) s
  else if 2 ^ 32 ≤ n then .trap (.of .operandRange) s
  else s.inParts g .room (fun id s =>
    let tag := some (s.tagOf g.asid)
    let first := bits a.toNat 55 16
    (1, s.startShoot { Shoot.of tag first n with
      revoke := f.modm == 1, frames := s.knownFrames tag first n, gid := some s.cur, pend := some id })) fun _ s => .ok s

/-- TLBINV (R326): Shoots down pages of the context. -/
def execTlbinv (f : ExtM) (s : State) : Out := s.execM 0xBE f (tlbinvBody f)

/-- CHECK of `xlatq` for a failing check of a load (R327). -/
def checkCode (c : Option Cause) : Nat :=
  match c with
  | some .pageProt => 3
  | some .privateAlias => 4
  | some .pageHole => 5
  | _ => 0

/-- The result of `xlatq` (R327). -/
def State.xlatq (s : State) (g : Group) (va : Nat) : Nat :=
  let via := (s.asker s.cur g).via false
  if !bit (s.ctx g.asid).ptRoot.toNat 0 then 6 * 2 ^ 60
  else match s.leafFor via va with
    | .format => 1 * 2 ^ 60
    | .entry e level _ =>
      if !bit e 63 then 2 * 2 ^ 60
      else
        let perm := [leafR e, leafW e, leafX e, leafS e, leafPV e, leafFZ e, leafCW e, leafNC e].foldl (fun n b => 2 * n + bitAt b 0) 0
        2 ^ 63 + checkCode (leafCheck via .load e level va) * 2 ^ 60 + level * 2 ^ 58 + perm * 2 ^ 50
          + if g.sup then leafDpa e level va % 2 ^ 48 else 0

/-- `xlatq` (R327). -/
def xlatqBody (f : ExtM) (g : Group) (s : State) : Res :=
  let a := g.rdS f.a + dispOf f
  let bad (c : Cause) : Res := .trap (pipeTrap 0 { cause := c, addr := a, level := 0 }) s
  match s.windowCheck (s.asker s.cur g) .globalOnly .xlat a with
  | .error c => bad c
  | .ok w => if w != .global then bad .addrWindow
    else .ok (s.modGroup s.cur fun g => g.wrS f.d (BitVec.ofNat 64 (s.xlatq g a.toNat)))

/-- XLATQ (R327): Reports a translation without faulting. -/
def execXlatq (f : ExtM) (s : State) : Out := s.execM 0xBF f (xlatqBody f)

end Sys2Proof.Machine
end

