-- ==== Sys2Proof/Machine/DevCoh.lean ====
section
/-! DEFINITION. Steps of the memory system: requests at the home slices, replies at the cores, evictions, watches,
interleave domains, write-backs and gates (R38 to R41, R83, R89 to R93, R102, R107 to R112, R117, R139, R144, R311, R331). -/

namespace Sys2Proof.Machine

/-- SI_LOAD_REQUEST (R93): A home slice serves an si or nc load. -/
def execSiLoadRequest (m : Nat) (s : State) : Out := s.onMsg m (fun k => k == .siLoad || k == .ncLoad) s.serve

/-- OWN_LOAD_REQUEST (R93): A home slice registers the requester and returns the value. -/
def execOwnLoadRequest (m : Nat) (s : State) : Out := s.onMsg m (fun k => k == .ownLoad) s.serve

/-- REGISTRATION (R93): A home slice takes an own store or atomic, registering the requester. -/
def execRegistration (m : Nat) (s : State) : Out := s.onMsg m (fun k => k == .ownStore || k == .ownAtomic) s.serve

/-- WRITE_THROUGH (R93): A home slice performs a wt, nc or written-through store. -/
def execWriteThrough (m : Nat) (s : State) : Out := s.onMsg m (fun k => k == .wtStore || k == .ncStore) s.serve

/-- NC_ATOMIC (R93): A home slice executes an atomic itself. -/
def execNcAtomic (m : Nat) (s : State) : Out := s.onMsg m (fun k => k == .ncAtomic) s.serve

/-- SC_OPERATION (R139): A home slice performs and stamps an SC operation. -/
def execScOperation (m : Nat) (s : State) : Out :=
  s.onMsg m (fun k => k == .scLoad || k == .scStore || k == .scAtomic) s.serve

/-- GATHER_LANE (R311): The GE performs one lane access of a gather or scatter. -/
def execGatherLane (m : Nat) (s : State) : Out :=
  s.onMsg m (fun k => k == .gatherLoad || k == .scatterStore) fun x =>
    if s.worksFor (bhOfCore x.core) (x.gid.getD 0) then s.serve x else s

/-- GRANT (R89): A grant reaches the L1 and the word becomes O. -/
def execGrant (m : Nat) (s : State) : Out := s.onMsg m (fun k => k == .grant) fun x => s.landWhenFirst x State.landGrant

/-- REVOCATION (R89): An owner returns a revoked word's value and turns it I. -/
def execRevocation (m : Nat) (s : State) : Out := s.onMsg m (fun k => k == .revoke) s.revoke

/-- FORWARDED_READ (R89): An owner returns a word's value and keeps ownership. -/
def execForwardedRead (m : Nat) (s : State) : Out := s.onMsg m (fun k => k == .forward) s.forward

/-- FILL (R102): Fill data reaches the L1 and is retained or only delivered. -/
def execFill (m : Nat) (s : State) : Out := s.onMsg m (fun k => k == .fill) fun x => s.landWhenFirst x State.landFill

/-- WRITE_THROUGH_ACK (R89): An acknowledgement turns a P word V. -/
def execWriteThroughAck (m : Nat) (s : State) : Out := s.onMsg m (fun k => k == .ack) fun x => s.landWhenFirst x State.landAck

/-- Whether a kind is a watch on its way to its slice. -/
def MsgKind.isWatch (k : MsgKind) : Bool :=
  match k with
  | .watch _ => true
  | _ => false

/-- Whether a kind is a watch that was told to try again. -/
def MsgKind.isRetry (k : MsgKind) : Bool :=
  match k with
  | .watchRetry _ => true
  | _ => false

/-- WATCH_ARRIVAL (R331): An atwait or wait watch registers at a home slice and tests the word. -/
def execWatchArrival (m : Nat) (s : State) : Out := s.onMsg m MsgKind.isWatch s.serve

/-- WATCH_RETRY (R331): A lane refused a watch resends after 256 network cycles. -/
def execWatchRetry (m : Nat) (s : State) : Out :=
  s.onMsg m MsgKind.isRetry fun x => if x.due ≤ s.clock then s.setMsg { x with kind := x.origin } else s

/-- GATE_REQUEST (R39, R40): A cross-bulkhead request is checked and passed or refused at a gate: first at the egress gate of
its own bulkhead, then at the ingress gate of the other. -/
def execGateRequest (m : Nat) (s : State) : Out :=
  s.onMsg m MsgKind.request fun x =>
    if x.passed then s
    else
      let egress := !x.left
      match s.gateSide egress (bhOfCore x.core) (x.dpa / 2 ^ 16) x.origin.need with
      | none => s.setMsg (if egress then { x with left := true } else { x with passed := true })
      | some c => s.refuseMsg x c

/-- L1_LINE_EVICTION (R89): An L1 line is evicted to make room. -/
def execL1LineEviction (core line : Nat) (s : State) : Out := .next (s.evictL1 core line)

/-- L2_LINE_EVICTION (R107): An L2 line is evicted, revoking its registered words first. A pinned line is not evicted, nor
one of which a grant is on its way (R90). -/
def execL2LineEviction (line : Nat) (s : State) : Out :=
  .next (if (s.line line).pins.isEmpty && s.quiet (128 * line) 128 then s.evictL2 line else s)

/-- A replica is evicted silently from a helper slice (R114). -/
def State.evictReplica (s : State) (l slice : Nat) : State :=
  let x := s.line l
  s.setLine l { x with helpers := x.helpers.filter fun h => h != slice }

/-- An object invalidation reaches a core (R102): its tagged V words of the object become I, its redirect entries go, and
fills that are still outstanding remember it. -/
def State.invalidateObj (s : State) (m : Msg) (obj version : Nat) : State :=
  let s1 := (s.dropMsg m.id).modCore m.core fun c =>
    { c with l1 := Table.drop c.l1 fun _ x => x.st == .valid && x.tag.elim false fun t => t.1 == obj
             redirects := c.redirects.filter fun r => r.obj != obj }
  let s2 : State := { s1 with net := s1.net.map fun x =>
    if x.core == m.core && x.kind.access then { x with invals := x.invals ++ [(obj, version)] } else x }
  s2.arrive m 0 none false

/-- OBJECT_INVALIDATION (R102): An object invalidation arrives and drops tagged words, replicas and redirects. -/
def execObjectInvalidation (m : Nat) (s : State) : Out :=
  match s.msg? m with
  | some x => match x.kind with
    | .objInval obj version => .next (s.invalidateObj x obj version)
    | _ => .next s
  | none => .next s

/-- The larger of two binary32 magnitudes. -/
def maxMagnitude (a b : Word) : Word := if a.toNat < b.toNat then b else a

/-- ABSMAX_DRAIN (R144): A queued magnitude is applied to ABSMAX. -/
def execAbsmaxDrain (g : Nat) (s : State) : Out :=
  .next (s.modGroup g fun x => match x.absQueue with
    | [] => x
    | m :: t => { x with absmax := maxMagnitude x.absmax m, absQueue := t })

/-- Whether a selector is valid (R109): BASE a multiple of the domain size, SIZE at most 16 slices, bit 0 zero. -/
def selectorOk (sel : Nat) : Bool :=
  let size := sel / 2 % 8
  decide (size ≤ 4) && sel % 2 == 0 && sel / 16 % 2 ^ size == 0

/-- The slices of a selector's domain (R108). -/
def domainOf (sel : Nat) : List Nat := (List.range (2 ^ (sel / 2 % 8))).map fun i => sel / 16 + i

/-- The regions whose selectors differ between two HMASK values. -/
def changedRegions (a b : DWord) : List Nat := (List.range 8).filter fun r => selector a r != selector b r

/-- L2_GEN with the generations of some regions incremented (R110). -/
def bumpGen (gen : DWord) (rs : List Nat) : DWord :=
  rs.foldl (fun g r =>
    let old := g.toNat / 2 ^ (8 * r) % 256
    BitVec.ofNat 64 (g.toNat - old * 2 ^ (8 * r) + (old + 1) % 256 * 2 ^ (8 * r))) gen

/-- The counters of the slices of a region's new domain raised to the largest of its old one (R111). -/
def State.raiseLcs (s : State) (b : Nat) (old new : Nat) : State :=
  let top := (domainOf old).foldl (fun n k => max n (s.lcsOf b k)) 0
  (domainOf new).foldl (fun s k => s.setLcs b k (max top (s.lcsOf b k))) s

/-- HMASK_WRITE (R109, R111): Switches interleave selectors of quiesced regions and moves pins. -/
def execHmaskWrite (bh : Nat) (v : DWord) (s : State) : Out :=
  let b := s.bh bh
  let rs := changedRegions b.hmask v
  if rs.all fun r => selectorOk (selector v r) && b.qReg.getLsbD r then
    let s1 := rs.foldl (fun s r => s.raiseLcs bh (selector b.hmask r) (selector v r)) s
    .next (s1.modBh bh fun x => { x with hmask := v, gen := bumpGen x.gen rs, qBusy := x.qBusy || !rs.isEmpty })
  else .next (s.modBh bh fun x => { x with qRefused := true })

/-- L2_QUIESCE_WRITE (R110, R111): Setting or clearing QREG quiesces or releases regions. -/
def execL2QuiesceWrite (bh : Nat) (v : DWord) (s : State) : Out :=
  let q : Byte := v.extractLsb' 0 8
  .next (s.modBh bh fun x => { x with qRefused := false, qBusy := x.qBusy || (q &&& ~~~x.qReg) != 0, qReg := q })

/-- Whether a line lies in a quiesced region of a bulkhead. -/
def State.lineQuiesced (s : State) (bh l : Nat) : Bool := bhOfDpa (128 * l) == bh && s.quiesced (128 * l)

/-- The lines of a bulkhead of which something is known, or whose words have owners. -/
def State.linesOfBh (s : State) (bh : Nat) : List Nat :=
  let a := (s.lines.filter fun e => bhOfDpa (128 * e.1) == bh).map fun e => e.1
  let b := (s.owners.filter fun e => bhOfDpa (4 * e.1) == bh).map fun e => e.1 / 32
  a ++ (b.eraseDups.filter fun l => !a.contains l)

/-- Whether a bulkhead's captured records have all gone to its SPE. -/
def Bulkhead.capturesSent (b : Bulkhead) : Bool := b.capq.toList.all fun q => q.isEmpty

/-- Whether accepted requests to a bulkhead's quiesced regions are complete (R111). -/
def State.acceptedDone (s : State) (bh : Nat) : Bool :=
  !(s.net.any fun m => bhOfDpa m.dpa == bh && s.quiesced m.dpa && (m.kind == .revoke || m.kind == .forward || m.kind == .grant))

/-- QUIESCE_COMPLETE (R111): The quiesce work or pin transfer finishes and BUSY clears. -/
def execQuiesceComplete (bh : Nat) (s : State) : Out :=
  if !(s.bh bh).qBusy || !(s.bh bh).capturesSent || !s.acceptedDone bh then .next s
  else
    let ls := (s.linesOfBh bh).filter fun l => s.lineQuiesced bh l
    let s1 := ls.foldl (fun s l =>
      let s' := s.writeBackLine l
      s'.setLine l { s'.line l with helpers := [], replicaOf := none, reads := [] }) s
    let s2 := niNumbers.foldl (fun s ni => s.setRedirects bh ni ((s.redirects bh ni).filter fun r => !ls.contains r.line)) s1
    .next (s2.modBh bh fun x => { x with qBusy := false })

/-- L2_WBCMD (R117): Starts a supervisor ranged write-back, optionally dropping lines. A write while one runs is
ignored (log 53). -/
def execL2Wbcmd (bh : Nat) (word : Nat) (v : DWord) (s : State) : Out :=
  let n := v.toNat
  let b := s.bh bh
  if b.wbGo then .next s
  else if word == 1 then .next (s.modBh bh fun x => { x with wbCount := bits n 19 0 })
  else if !v.getLsbD 63 then .next (s.modBh bh fun x => { x with wbDrop := v.getLsbD 62, wbFrame := bits n 22 0 })
  else
    let f := bits n 22 0
    let ok := bhOfFrame f == bh && b.wbCount != 0 && decide (f % 2 ^ 20 + b.wbCount ≤ Config.hbmFrames)
    .next (s.modBh bh fun x => { x with wbDrop := v.getLsbD 62, wbFrame := f, wbErr := !ok, wbGo := ok })

/-- WRITEBACK_COMPLETE (R117): The memory controllers accept every write of a ranged write-back. A line that DROP then drops is clean:
it reads as before, and its replicas and redirect entries stay (R115). -/
def execWritebackComplete (bh : Nat) (s : State) : Out :=
  let b := s.bh bh
  let mine := fun (l : Nat) => decide (b.wbFrame ≤ l / 512) && decide (l / 512 < b.wbFrame + b.wbCount)
  if !b.wbGo || s.net.any (fun m => m.kind == .grant && mine (m.dpa / 128)) then .next s
  else
    let ls := (s.linesOfBh bh).filter mine
    let s1 := ls.foldl (fun s l => s.writeBackLine l) s
    .next (s1.modBh bh fun x => { x with wbGo := false })

/-- Whether a gate entry with VALID = 1 obeys R38. -/
def gateEntryForm (bh : Nat) (ingress : Bool) (w0 w1 : DWord) : Bool :=
  let peer := bits w0.toNat 61 59
  let home := if ingress then bh else peer
  let base := bits w0.toNat 22 0
  let lim := bits w1.toNat 22 0
  decide (base ≤ lim) && bhOfFrame base == home && bhOfFrame lim == home && (ingress || peer != bh)

/-- The bits of word 0 of a gate entry that a write sets (R38). -/
def gateMask0 : DWord := 0xBF000000007FFFFF

/-- The bits of word 1 of a gate entry that a write sets (R38). -/
def gateMask1 : DWord := 0x7FFFFF

/-- A word of a list of gate entries written. -/
def putEntry (v : Vector DWord 8) (n : Nat) (x : DWord) : Vector DWord 8 := v.set (n % 8) x (Nat.mod_lt _ (by decide))

/-- GATE_ENTRY_WRITE (R38): Writes a gate egress or ingress entry with range checks. -/
def execGateEntryWrite (bh : Nat) (ingress : Bool) (n : Nat) (word : Nat) (v : DWord) (s : State) : Out :=
  let b := s.bh bh
  let old0 := (if ingress then b.ing0 else b.egr0)[n % 8]'(Nat.mod_lt _ (by decide))
  let old1 := (if ingress then b.ing1 else b.egr1)[n % 8]'(Nat.mod_lt _ (by decide))
  let new0 := if word == 0 then v &&& gateMask0 else old0
  let new1 := if word == 0 then old1 else v &&& gateMask1
  if new0.getLsbD 63 && !gateEntryForm bh ingress new0 new1 then .next (s.modBh bh fun x => { x with gateErr := true })
  else .next (s.modBh bh fun x =>
    if ingress then { x with ing0 := putEntry x.ing0 n new0, ing1 := putEntry x.ing1 n new1 }
    else { x with egr0 := putEntry x.egr0 n new0, egr1 := putEntry x.egr1 n new1 })

/-- A counter of corrected errors raised. -/
def State.countEcc (s : State) (site : ErrorSite) : State :=
  match site with
  | .pool core _ _ | .tile _ core _ _ _ => s.modCore core fun c => { c with eccPool := c.eccPool + 1 }
  | .reg g _ _ => s.modCore (coreOf g) fun c => { c with eccPool := c.eccPool + 1 }
  | .l1 core _ => s.modCore core fun c => { c with eccL1 := c.eccL1 + 1 }
  | .l2 w => s.modBh (bhOfDpa (4 * w)) fun b => { b with eccL2 := b.eccL2 + 1 }
  | .hbm w => s.modBh (bhOfDpa (4 * w)) fun b => { b with eccHbm := b.eccHbm + 1 }
  | .control _ => s

/-- A word poisoned where an error struck, with the level of the error (R83, R406). An error in HBM strikes a line that
the L2 does not hold dirty. -/
def State.strike (s : State) (site : ErrorSite) : State :=
  match site with
  | .pool core asid off => s.modCore core fun c => { c with poolPoison := Table.set c.poolPoison (poolKey asid off) (.pool core) }
  | .l1 core w => s.modCore core fun c => { c with l1 := Table.modify c.l1 w fun x => { x with poison := some (.l1 core) } }
  | .l2 w => if (s.owner w).isNone then s.setPoison w (some .l2) else s
  | .hbm w => if (s.owner w).isNone && !(s.line (w / 32)).dirty then s.setPoison w (some .hbm) else s
  | .reg g n lane => s.modGroup g fun x => x.strikeReg n lane
  | .tile team core part n elem => s.modTeam team fun t =>
    let x := t.tile core part n
    { t with tiles := Table.set t.tiles (tileKey core part n) { x with poison := x.poison ++ [elem] } }
  | .control g => s.modGroup g fun x => { x with slot0 := { x.slot0 with flip := true } }

/-- SOFT_ERROR (R83): A soft error strikes a word of the core pool (a scratchpad's, a register's or a tile's), an L1, an L2 slice or HBM, to be corrected or to
poison the word; one in a group's control changes the next byte fed into its SIG (R222, R252). -/
def execSoftError (site : ErrorSite) (correctable : Bool) (s : State) : Out :=
  .next (if correctable then s.countEcc site else s.strike site)

end Sys2Proof.Machine
end

