-- ==== Sys2Proof/Machine/DevTable.lean ====
section
/-! DEFINITION. Writes of the device registers by the supervisor plex: tenant shapes, fabric entries and multicast sets
(R36, R37, R417, R420), registers without a behaviour of their own (R37, R38, R44, R56, R59, R116, R142, R172, R242,
R416, R422), suspicion (R414), event queues (R380, R381) and the watchdog's kick (R44). -/

namespace Sys2Proof.Machine

/-- The bits of TNT_SHAPEn that a write sets (R36). -/
def shapeMask : DWord := 0x8000FFFF00000037

/-- The bulkheads of a shape (R36). -/
def shapeBulkheads (v : DWord) : List Nat :=
  (List.range (2 ^ bits v.toNat 5 4)).map fun i => bits v.toNat 2 0 + i

/-- Whether a valid shape may stand beside the other entries (R37). -/
def State.shapeOk (s : State) (n : Nat) (v : DWord) : Bool :=
  let size := 2 ^ bits v.toNat 5 4
  bits v.toNat 2 0 % size == 0 && decide (bits v.toNat 2 0 + size ≤ 8) && (List.range 8).all fun m =>
    let e := if h : m < 8 then s.tntShape[m] else 0
    m == n || !e.getLsbD 63
      || (bits e.toNat 47 32 != bits v.toNat 47 32 && !(shapeBulkheads e).any fun b => (shapeBulkheads v).contains b)

/-- TNT_SHAPEn written with a value whose reserved bits are 0. -/
def State.putShape (s : State) (n : Nat) (v : DWord) : State :=
  if v.getLsbD 63 && !s.shapeOk (n % 8) v then { s with tntErr := s.tntErr ||| 1 }
  else { s with tntShape := putEntry s.tntShape n v }

/-- TNT_SHAPE_WRITE (R37): a valid shape that breaks the rules leaves the entry unchanged and sets TNT_ERR.SHAPE. -/
def execTntShapeWrite (n : Nat) (v : DWord) (s : State) : Out := .next (s.putShape n (v &&& shapeMask))

/-- The bits of TNT_FABn that a write sets (R417). -/
def fabMask : DWord := 0xFFFF83FF03FF0000

/-- TNT_FABn written with a value whose reserved bits are 0. -/
def State.putFab (s : State) (n : Nat) (v : DWord) : State :=
  if bits v.toNat 41 32 < bits v.toNat 25 16 then { s with tntErr := s.tntErr ||| 1 }
  else { s with tntFab := putEntry s.tntFab n v }

/-- TNT_FAB_WRITE (R417): DOMBASE > DOMLIM leaves the entry unchanged and sets TNT_ERR.SHAPE. -/
def execTntFabWrite (n : Nat) (v : DWord) (s : State) : Out := .next (s.putFab n (v &&& fabMask))

/-- The bits of MC_SETn_m that a write sets (R420). -/
def mcMask : DWord := 0x800003FF001FFFFF

/-- Whether a valid multicast set obeys R420 in its tenant's domain. -/
def State.mcOk (s : State) (n : Nat) (v : DWord) : Bool :=
  let count := bits v.toNat 20 10
  let ms := mcMembers v.toNat
  decide (1 ≤ count) && decide (count ≤ 1024) && (bits v.toNat 41 32 != 0 || count == 1)
    && ms.all (fun d => decide (bits (s.fabEntry n) 25 16 ≤ d) && decide (d ≤ bits (s.fabEntry n) 41 32))
    && ms.eraseDups.length == ms.length

/-- MC_SET_WRITE (R420): a valid set that breaks the rules leaves the entry unchanged and sets TNT_ERR.MCAST. -/
def execMcSetWrite (n : Nat) (m : Nat) (v : DWord) (s : State) : Out :=
  let x := v &&& mcMask
  if x.getLsbD 63 && !s.mcOk (n % 8) x then .next { s with tntErr := s.tntErr ||| 2 }
  else .next { s with mcSet := Table.set s.mcSet (64 * (n % 8) + m % 64) x }

/-- Network cycles of a number of microseconds (R77). -/
def micros (n : Nat) : Nat := 2000 * n

/-- BH_WDOG written (R44): a period outside its range is the nearer bound; the count starts with a kick or with the write
that sets EN. -/
def State.writeWdog (s : State) (b : Nat) (v : DWord) : State :=
  s.modBh b fun x =>
    { x with wdogEn := v.getLsbD 63, wdogPeriod := clampNat 1000 60000000 (bits v.toNat 31 0)
             wdogSince := if (v.getLsbD 62 && !x.down) || (v.getLsbD 63 && !x.wdogEn) then s.clock else x.wdogSince }

/-- A context register written through the context's save area (R242); a refused value leaves it. -/
def State.writeCtx (s : State) (asid : Nat) (n : Nat) (v : DWord) : State :=
  match (s.ctx asid).write (s.anyResident asid) n v with
  | some c => { s with ctxs := Table.set s.ctxs asid c }
  | none => s

/-- The bits of FAB_CFG that a write sets (R416). -/
def fabCfgMask : DWord := 0x80000000000003FF

/-- The bits of TNT_QRATEn that a write sets (R422). -/
def qrateMask : DWord := 0xFFFF0000FFFFFFFF

/-- A device register written by the plex. A write of BH_FPOOL or BH_FPLOW that leaves COUNT below the mark posts no FPOOL_LOW
(log 121). -/
def State.writeReg (s : State) (r : DevReg) (v : DWord) : State :=
  let n := v.toNat
  match r with
  | .bhWdog b => s.writeWdog b v
  | .bhFdtbase b => s.modBh b fun x => { x with fdtBase := BitVec.ofNat 64 (bits n 22 0) }
  | .bhFpool b => s.modBh b fun x => { x with poolCount := bits n 43 24, poolHead := bits n 22 0 }
  | .bhFplow b => s.modBh b fun x => { x with poolLow := bits n 19 0 }
  | .l2Pinmax b => s.modBh b fun x => { x with pinMax := min (bits n 14 0) 20480 }
  | .chorusWin b => s.modBh b fun x => { x with chorusWin := clampNat 16 1024 (bits n 10 0) }
  | .chorusWdlim b => s.modBh b fun x => { x with chorusWdlim := clampNat 1 15 (bits n 3 0) }
  | .chorusHop b c => s.modBh b fun x => { x with hops := x.hops.set (c % 24) v (Nat.mod_lt _ (by decide)) }
  | .gateErr b => s.modBh b fun x => { x with gateErr := x.gateErr && !v.getLsbD 0 }
  | .tntErr => { s with tntErr := s.tntErr &&& ~~~(v.extractLsb' 0 2) }
  | .tntShape k => s.putShape k (v &&& shapeMask)
  | .tntFab k => s.putFab k (v &&& fabMask)
  | .tntQrate k => { s with tntQrate := putEntry s.tntQrate k (v &&& qrateMask) }
  | .fabCfg => if s.bootStage == .tadpole then s else { s with fabCfg := v &&& fabCfgMask }
  | .fabRetrainBudget => { s with retrainBudget := clampNat 10 1000000 (bits n 31 0) }
  | .ctx asid k => s.writeCtx asid k.toNat v

/-- REGISTER_WRITE: the plex writes a device register, or a context register through the context's save area (R242). -/
def execRegisterWrite (r : DevReg) (v : DWord) (s : State) : Out := .next (s.writeReg r v)

/-- WATCHDOG_KICK (R44): a kick restarts the count; it goes through slice 0 and the governor, which do not pass it on while
a reset has stopped them. A kick that failed logic swallows is one that does not happen (log 124). -/
def execWatchdogKick (bh : Nat) (s : State) : Out :=
  .next (if (s.bh bh).down then s else s.modBh bh fun x => { x with wdogSince := s.clock })

/-- CTX_EVQ_WRITE (R380): the plex writes a context's instance in a bulkhead. -/
def execCtxEvqWrite (bh : Nat) (asid : Nat) (v : DWord) (s : State) : Out :=
  let w := v &&& 0x80000000007FFFFF
  .next (((s.evqReads bh w).writeEvq asid bh w).getD (s.evqReads bh w))

/-- SEVQ_GET_WRITE (R381): GET moves past the records taken, COUNT falls and LOST clears; a slot outside the records held
leaves the register. -/
def execSevqGetWrite (v : DWord) (s : State) : Out :=
  let k := (bits v.toNat 11 0 + 4096 - s.sevqGet) % 4096
  if k ≤ s.sevqCount then
    .next { s with sevqGet := bits v.toNat 11 0, sevqCount := s.sevqCount - k, sevqLost := 0 }
  else .next s

/-- SUSP_SCORE_WRITE (R414): the supervisor writes a core's score. -/
def execSuspScoreWrite (core : Nat) (v : DWord) (s : State) : Out := .next (s.writeScore core (bits v.toNat 7 0))

/-- SUSP_LIMIT_WRITE (R414): the supervisor writes a core's limit. -/
def execSuspLimitWrite (core : Nat) (v : DWord) (s : State) : Out := .next (s.writeLimit core (bits v.toNat 7 0))

end Sys2Proof.Machine
end

