-- ==== Sys2Proof/Machine/DevBoot.lean ====
section
/-! DEFINITION. Starts of the device (R443, R444), tadpole mode and its mailbox (R445, R446), TADREQ (R447) and SPDM
(R448). -/

namespace Sys2Proof.Machine

/-- NVMe namespace 1, which holds the boot image: the bytes below 2^32 (R446). -/
def State.image (s : State) : List (Nat × Byte) := s.nvme.filter fun e => decide (e.1 < 2 ^ 32)

/-- NVMe does not answer now (R444, R446; log 81). -/
def State.nvmeFails (s : State) : Bool := Config.nvmeFails s.tick s.clock

/-- The REASON for which the boot image is refused (R443, R444); what NVMe and the checks answer is open (log 11, log 81). -/
def State.verify (s : State) : Option Byte :=
  if s.nvmeFails then some 0x01
  else if !Config.imageFormatOk s.image then some 0x02
  else if !Config.ecdsaOk s.image then some 0x03
  else if !Config.lmsOk s.image then some 0x04
  else if !Config.securityVersionOk s.image then some 0x05
  else none

/-- BOOT_STAT (R444). -/
def State.bootStat (s : State) : Nat :=
  (if s.bootStage == .tadpole then 2 ^ 63 else 0) + (if s.bootOk then 2 ^ 62 else 0) + Config.bootLimit * 2 ^ 12
    + s.bootFails % 16 * 2 ^ 8 + s.bootReason.toNat

/-- The device after a device reset: the reset state, with the nonvolatile cells, NVMe, the plex SRAM with the molt
record, and the schedule, which is no part of the device, kept (R444, R450; log 32). -/
def State.deviceReset (s : State) : State :=
  { State.reset with
    home := s.home.filter fun e => decide (0x020000000000 ≤ e.1) && decide (e.1 < 0x020000800000)
    moltNext := s.moltNext, nvme := s.nvme, bootFails := s.bootFails, bootReason := s.bootReason, tadReq := s.tadReq
    agenda := s.agenda, tick := s.tick }

/-- The ROM enters tadpole mode (R445): it copies the molt record, and no bulkhead is powered. -/
def State.tadpole (s : State) : State :=
  { s.copyMolt with bootStage := .tadpole, bootOk := false, endpointUp := false, fabCfg := 0, mbxOpen := false, tadDone := false }

/-- Whether a reset re-enters tadpole mode (R445): the device runs in it, and no COMMIT has verified. -/
def State.recovering (s : State) : Bool := s.bootStage == .tadpole && !s.tadDone

/-- The start from the ROM (R443, R444, R445, R447): it reads the boot image; tadpole mode follows where the host asked for it, too
many starts failed or, `again`, it was not left, and else stage 2. -/
def State.start (s : State) (again : Bool) : State :=
  let s0 : State := { s with bootImage := if s.nvmeFails then [] else s.image }
  if s.tadReq then { s0.tadpole with tadReq := false, bootReason := 0x08 }
  else if again || decide (Config.bootLimit ≤ s.bootFails) then s0.tadpole
  else { s0 with bootStage := .verify }

/-- POWER_ON (R443, R444): the ROM adds 1 to FAILS. -/
def execPowerOn (s : State) : Out :=
  .next (({ s.deviceReset with bootFails := min (s.bootFails + 1) 15 } : State).start s.recovering)

/-- A start that has failed (R444, R450). -/
def State.failStart (s : State) (reason : Byte) : State :=
  let s1 : State := { s with bootReason := reason, bootStage := .off }
  s1.molt 8 5 reason.toNat 0xFF 0 (s.clock / 2) s1.bootStat

/-- IMAGE_VERIFY (R443): stage 2. -/
def execImageVerify (s : State) : Out :=
  if s.bootStage != .verify then .next s
  else match s.verify with
    | some r => .next (s.failStart r)
    | none => .next { s with bootStage := .ronuri }

/-- RONURI_START (R443, R450): stage 3; Ronuri copies the molt record, and writes FAB_CFG and the tenant tables. -/
def execRonuriStart (writes : List (DevReg × DWord)) (s : State) : Out :=
  if s.bootStage != .ronuri then .next s
  else .next { writes.foldl (fun s w => s.writeReg w.1 w.2) s.copyMolt with bootStage := .bulkheads }

/-- The free pool of a bulkhead as Ronuri builds it (R59, R443): of frames that it chooses (log 11). -/
def State.buildPool (s : State) (b : Nat) : State :=
  (((Config.bootPool b).filter fun f => bhOfFrame f == b && framePopulated f).eraseDups).foldl (fun s f => (s.freeFrame f 0 false).2) s

/-- BULKHEAD_BRINGUP (R443, R45): stage 4. Which cores fail their self-test is a free value (log 2); they are left
quarantined, and the start fails where no core of any bulkhead passes. Ronuri builds each free pool. -/
def execBulkheadBringup (s : State) : Out :=
  if s.bootStage != .bulkheads then .next s
  else
    let r := (List.range 8).foldl (fun (acc : Nat × State) b =>
      let (v, s1) := acc.2.free
      let bad := (List.range 24).filter fun i => v.getLsbD i
      (if bad.length == 24 then acc.1 + 1 else acc.1,
        ((bad.foldl (fun s i => s.quarantine (24 * b + i)) s1).modBh b fun x => { x with opp := 0 }).buildPool b)) (0, s)
    if r.1 == 8 then .next (r.2.failStart 0x07) else .next { r.2 with bootStage := .host }

/-- HOST_STAGE (R443): stage 5; the endpoint exposes its functions. -/
def execHostStage (s : State) : Out :=
  .next (if s.bootStage == .host then { s with endpointUp := true, bootStage := .running } else s)

/-- Whether a start is under way or complete. -/
def BootStage.started (b : BootStage) : Bool := b != .off && b != .tadpole

/-- BOOT_OK_WRITE (R443, R444): in stage 5, setting OK sets FAILS to 0. -/
def execBootOkWrite (v : DWord) (s : State) : Out :=
  .next (if v.getLsbD 62 && s.bootStage == .running then { s with bootOk := true, bootFails := 0 } else s)

/-- BOOT_TIMEOUT (R444): a start that has not set OK within 5 s of power-on ends with REASON 0x06 and a device reset. -/
def execBootTimeout (s : State) : Out :=
  .next (if s.bootStage.started && !s.bootOk && decide (micros 5000000 ≤ s.clock) then (s.failStart 0x06).deviceReset else s)

/-- FUNCTION_LEVEL_RESET (R445, R447): a function-level reset of the physical function starts the device again. -/
def execFunctionLevelReset (s : State) : Out := .next (s.deviceReset.start s.recovering)

/-- The OP of MBX_CMD (R446). -/
def mbxOp (v : DWord) : Nat := bits v.toNat 63 56

/-- MBX_STAT (R446). -/
def State.mbxStat (s : State) : Nat := bitAt s.mbxBusy 63 + bitAt s.mbxOpen 62 + s.mbxCode.toNat * 2 ^ 8 + s.mbxReason.toNat

/-- What a command of the recovery mailbox gives (R446). -/
def State.mbxEnd (s : State) (code reason : Byte) : State := { s with mbxCode := code, mbxReason := reason }

/-- A command of the recovery mailbox with OP `op`, in tadpole mode (R446): a reserved OP or a reserved field that is not
zero is refused; `ok` says whether the session allows the command. While one runs, a write of MBX_CMD is ignored; what a command
does is done at once, and BUSY reads 1 until a step of its own ends it (log 81). -/
def State.mbx (s : State) (v : DWord) (op : Nat) (ok : Bool) (go : State) : State :=
  let refused : State := { s.mbxEnd 0x01 0 with mbxBusy := true }
  if s.bootStage != .tadpole || s.mbxBusy then s
  else if mbxOp v == 0 || 4 < mbxOp v then refused
  else if mbxOp v != op then s
  else if bits v.toNat 55 32 != 0 || bits v.toNat 11 0 != 0 || !ok then refused
  else { go with mbxBusy := true }

/-- MBX_BEGIN (R446): opens a session. -/
def execMbxBegin (v : DWord) (s : State) : Out :=
  .next (s.mbx v 1 (!s.mbxOpen) { s.mbxEnd 0 0 with mbxOpen := true })

/-- MBX_WRITE (R446): the data window, as the host filled it, is stored in a block of namespace 1, or NVMe gives an error. -/
def execMbxWrite (v : DWord) (data : List Byte) (s : State) : Out :=
  let d := (data ++ List.replicate 4096 0).take 4096
  let s1 : State := if s.bootStage == .tadpole then { s with mbxData := d } else s
  .next (s1.mbx v 2 s.mbxOpen
    (if s.nvmeFails then s1.mbxEnd 0x02 0
    else { s1.mbxEnd 0 0 with nvme := Memory.putBytes s.nvme (4096 * bits v.toNat 31 12) d }))

/-- MBX_COMMIT (R446): verifies the image and, on success, clears FAILS and REASON; an image that NVMe does not give ends the
session with an NVMe error. -/
def execMbxCommit (v : DWord) (s : State) : Out :=
  let shut : State := { s with mbxOpen := false }
  .next (s.mbx v 3 s.mbxOpen (match s.verify with
    | none => { shut.mbxEnd 0 0 with bootFails := 0, bootReason := 0, tadDone := true }
    | some 0x01 => shut.mbxEnd 0x02 0
    | some r => { shut.mbxEnd 0x03 r with bootReason := r, bootImage := s.image }))

/-- MBX_ABORT (R446): ends the session; namespace 1 keeps what was written. -/
def execMbxAbort (v : DWord) (s : State) : Out := .next (s.mbx v 4 true { s.mbxEnd 0 0 with mbxOpen := false })

/-- TADREQ (R447): in normal operation, the host asks for tadpole mode at the next power-on or function-level reset. -/
def execTadreq (v : DWord) (s : State) : Out :=
  .next (if v.getLsbD 0 && s.bootStage != .tadpole then { s with tadReq := true, bootReason := 0x08 } else s)

/-- The bytes of some dwords, by their places. -/
def dwordBytes (ds : List DWord) : List (Nat × Byte) :=
  ((List.range ds.length).zip ds).flatMap fun e => (List.range 8).map fun i => (8 * e.1 + i, e.2.extractLsb' (8 * i) 8)

/-- What an SPDM measurement measures (R448): the ROM, which is fixed, the image as read, which in tadpole mode is the one that failed, Ronuri's configuration and BOOT_STAT. -/
def State.measured (s : State) (index : Nat) : List (Nat × Byte) :=
  match index with
  | 2 => s.bootImage
  | 3 => dwordBytes (s.fabCfg :: (s.tntShape.toList ++ s.tntFab.toList ++ s.tntQrate.toList ++ s.mcSet.map fun e => e.2))
  | 4 => dwordBytes [BitVec.ofNat 64 s.bootStat]
  | _ => []

/-- SPDM_REQUEST (R448): the physical function answers; what it answers is open (log 11). -/
def execSpdmRequest (index : BitVec 8) (s : State) : Out :=
  .next { s with spdmLast := Config.spdmAnswer index (s.measured index.toNat) }

end Sys2Proof.Machine
end

