-- ==== Sys2Proof/Machine/Schedule.lean ====
section
/-! DEFINITION. Which slot may issue (R154, R162, R164, R166), what is taken at an instruction boundary before the next
instruction (R393), the fetch and decoding of that instruction (R211, R228), the passage of time (R246, R244), and the
rotation of deterministic mode (R166). -/

namespace Sys2Proof.Machine

/-- Whether a group is held in an episode of one of its team's barriers that is not complete, or at a `detm` that some group of
the team has not reached (R166, R249, R362, R363). -/
def State.barHeld (s : State) (g : Group) : Bool :=
  match s.team? g.team with
  | none => false
  | some t => match g.wait with
    | .bar n => (g.arrived[n % 16]'(Nat.mod_lt _ (by decide))) == some (t.barriers[n % 16]'(Nat.mod_lt _ (by decide))).episode
    | .gangsync => match s.gangLead t.gang with
      | some e => g.gangArrived == some e.2.gangSync.episode
      | none => false
    | .mbar => t.mbarArrived.any fun e => e.1 == g.index
    | .detm _ _ _ => true
    | _ => false

/-- A slot that holds a next instruction: live, and not waiting at a `join`. -/
def PcSlot.ready (p : PcSlot) : Bool := p.live && !p.waiting

/-- The slot of a group whose turn it is in deterministic mode (R166): the slots alternate while both are live. -/
def Group.turnOf (g : Group) : Bool :=
  if g.slot0.ready && g.slot1.ready then g.nextSlot else !g.slot0.ready

/-- The group and slot whose turn it is in a team in deterministic mode (R166): groups that have ended, or are held in
a barrier, are passed over. -/
def State.detmTurn (s : State) (tid : Nat) (t : Team) : Option (Nat × Bool) :=
  let gs := (s.groupsOf tid).filter fun e => !e.2.ended && !s.barHeld e.2
  let order := (List.range 128).map fun i => (t.turnGroup + i) % 128
  (order.findSome? fun i => gs.find? fun e => e.2.index == i).map fun e => (e.1, e.2.turnOf)

/-- Whether deterministic mode lets a slot issue. -/
def State.turnOk (s : State) (gid : Nat) (slot : Bool) (g : Group) : Bool :=
  match s.team? g.team with
  | some t => !t.detm || s.detmTurn g.team t == some (gid, slot)
  | none => true

/-- Whether a gang has a team on a quarantined core: it stands at a team boundary until it has migrated (R414). -/
def State.migrating (s : State) (gang : Nat) : Bool :=
  (s.teamsOf gang).any fun t => t.2.cores.any fun c => (s.core c).quarantined

/-- Whether a group stands still: its gang is being evicted (R399) or migrated (R414), its bulkhead is being reset (R45) or
runs no tenant work (R37), or pages of its private memory are being exchanged (R24). -/
def State.stopped (s : State) (gid : Nat) (g : Group) : Bool :=
  (s.bh (bhOf gid)).rstPhase != .idle || !s.tenantRuns (bhOf gid) g.supervisor || s.shoots.any (fun x => x.holds.contains gid)
    || match s.team? g.team with
    | some t => (s.bh (bhOf gid)).preEvicting.contains t.gang || s.migrating t.gang
    | none => false

/-- Whether a slot may issue as soon as its group is active (R162, R164, R166, R347, R387, R389). -/
def State.slotOpen (s : State) (gid : Nat) (slot : Bool) : Bool :=
  match s.group? gid with
  | none => false
  | some g =>
    !g.ended && (g.pc slot).ready && !g.wait.blocks && s.isSwitchedIn (coreOf gid) g.asid
      && (!g.hnd || g.savedSlot == slot) && !s.stopped gid g && !s.inMbar gid (!slot) && s.turnOk gid slot g

/-- Whether a slot may issue now: only active groups issue (R154). -/
def State.mayIssue (s : State) (gid : Nat) (slot : Bool) : Bool :=
  ((s.group? gid).elim false fun g => g.active) && s.slotOpen gid slot

/-- The oldest pending deferred failure taken by a slot (R29, R393). -/
def State.takeDeferred (s : State) (gid : Nat) (slot : Bool) : State :=
  match s.group? gid with
  | none => s
  | some g => match g.deferred with
    | [] => s
    | p :: rest =>
      (s.setGroup gid { g with deferred := rest }).takeTrap gid slot (p.trap (g.pc slot).mask (g.pc slot).segment)

/-- TIMER_EXPIRED taken by a slot (R246, R393). -/
def State.takeTimer (s : State) (gid : Nat) (slot : Bool) : State :=
  match s.group? gid with
  | none => s
  | some g =>
    (s.setGroup gid { g with timerDue := false }).takeTrap gid slot { TrapInfo.of .timerExpired with segment := (g.pc slot).segment }

/-- A group that has stopped for good (R415): it holds no slot. -/
def Group.stop (g : Group) : Group :=
  { g with ended := true, gangAbort := false, hnd := false, wait := .none, slot0 := PcSlot.empty, slot1 := PcSlot.empty }

/-- A group stopped for good at its boundary (R415), with its record in the molt record (R450). What it waited for in its
slots is given up, and its watches go. -/
def State.stopGroup (s : State) (gid : Nat) (c : Cause) (pc : DWord) : State :=
  match s.group? gid with
  | none => s
  | some g =>
    let held := (s.pends.filter fun p => p.gid == gid && p.hold).map fun p => p.id
    let away (m : Msg) : Bool := match m.pend with
      | some p => held.contains p
      | none => false
    let s1 : State := { s with
      pends := s.pends.filter fun p => !held.contains p.id
      net := s.net.filter fun m => !away m
      bhs := s.bhs.map fun b => (b.1, { b.2 with watches := b.2.watches.filter fun m => !away m }) }
    ((s1.setGroup gid g.stop).groupGone gid).molt (bhOf gid) 3 c.code.toNat (coreOf gid) g.asid (s.cyc (coreOf gid)) pc.toNat

/-- Whether a slot's instruction has issued and waits to retire: the slot stands at no boundary (R29, R246). -/
def State.holding (s : State) (gid : Nat) (slot : Bool) : Bool :=
  s.pends.any fun p => p.hold && p.gid == gid && p.slot == slot

/-- What is taken at the boundary before a slot's next instruction, in the order of R393; `none` where nothing is. In
handler mode the deferred causes stay pending (R390). The timer is taken when the next instruction issues (R246):
`State.issue` looks for it. -/
def State.boundary (s : State) (gid : Nat) (slot : Bool) : Option State :=
  match s.group? gid with
  | none => none
  | some g =>
    if g.gangAbort then some (s.stopGroup gid .gangAbort (g.pc slot).pc)
    else if s.holding gid slot then none
    else match g.consumed with
      | c :: rest => some ((s.setGroup gid { g with consumed := rest }).takeTrap gid slot (TrapInfo.of c))
      | [] => if !g.hnd && !g.deferred.isEmpty then some (s.takeDeferred gid slot) else none

/-- Whether TIMER_EXPIRED is taken before a slot's next instruction (R246, R390, R393). -/
def State.timerReady (s : State) (gid : Nat) (slot : Bool) : Bool :=
  match s.group? gid with
  | some g => g.timerDue && !g.hnd && !s.holding gid slot
  | none => false

/-- Whether an instruction is a sweep (R218). -/
def isSweep (i : Instr) : Bool :=
  match i with
  | .ldsw .. | .stsw .. | .vectorSweep .. => true
  | _ => false

/-- The words of the sweep inside which a slot stands, which it has fetched once (R219). -/
def PcSlot.sweepWords (p : PcSlot) : Option (List Word) :=
  match p.segment, p.swept with
  | some _, some (pc, ws) => if pc == p.pc then some ws else none
  | _, _ => none

/-- The words of a slot's next instruction (R211); a sweep is fetched once for all its segments (R219). -/
def State.nextWords (s : State) (gid : Nat) (g : Group) (slot : Bool) : Fetched :=
  match (g.pc slot).sweepWords with
  | some ws => .words ws s
  | none => s.fetchInstr gid g slot

/-- What a slot's issue begins with: an instruction, or a trap that was taken instead (R211, R228, R393). A trap before a segment
of a sweep carries the segment (R219). -/
noncomputable def State.fetchNext (s : State) (gid : Nat) (slot : Bool) : Option Instr × State :=
  let s0 : State := { s with cur := gid, curSlot := slot }
  match s0.boundary gid slot with
  | some s1 => (none, s1)
  | none => match s0.group? gid with
    | none => (none, s0)
    | some g =>
      let seg := (g.pc slot).segment
      match s0.nextWords gid g slot with
      | .fail t s1 => (none, s1.takeTrap gid slot { t with segment := seg })
      | .words ws s1 => match decode g.mode ws with
        | .error c => (none, s1.takeTrap gid slot { TrapInfo.of c with segment := seg })
        | .ok i => (some i, if isSweep i then s1.modGroup gid fun g => g.modPc slot fun p => { p with swept := some (p.pc, ws) } else s1)

/-- A group's timer after `n` core cycles (R246). -/
def Group.tickTimer (g : Group) (n : Nat) : Group :=
  if g.tmrArmed then
    if g.tmrRemain.toNat ≤ n then { g with tmrArmed := false, tmrRemain := 0, timerDue := true }
    else { g with tmrRemain := g.tmrRemain - BitVec.ofNat 48 n }
  else g

/-- Time passes before a step (log 4): the network's clock, the core cycles of each bulkhead, and the timers and
`park` counts of the groups whose context is switched in. -/
def State.passTime (s : State) : State :=
  { s with
    clock := s.clock + Config.stepCycles s.tick
    tick := s.tick + 1
    bhs := s.bhs.map fun b => (b.1, { b.2 with cyc := b.2.cyc + Config.coreCycles b.1 s.tick })
    pends := s.pends.map fun p => match s.group? p.gid with
      | some g => if s.isSwitchedIn (coreOf p.gid) g.asid then
          { p with cycles := p.cycles - Config.coreCycles (bhOf p.gid) s.tick } else p
      | none => p
    groups := s.groups.map fun g =>
      (g.1, if s.isSwitchedIn (coreOf g.1) g.2.asid then g.2.tickTimer (Config.coreCycles (bhOf g.1) s.tick) else g.2) }

/-- Whether a slot has issued, or trapped, between two states. -/
def Group.moved (g h : Group) (slot : Bool) : Bool :=
  (g.pc slot).pc != (h.pc slot).pc || (g.pc slot).segment != (h.pc slot).segment || (g.pc slot).age != (h.pc slot).age
    || g.hnd != h.hnd || g.ended != h.ended

/-- Whether a slot of a group has issued, or trapped, between two states: one whose instruction now waits to retire, or waits at
its `detm`, has (R246). -/
def State.issued (before after : State) (gid : Nat) (slot : Bool) : Bool :=
  match before.group? gid, after.group? gid with
  | some g, some h => g.moved h slot || (after.holding gid slot && !before.holding gid slot) || (h.atDetm.isSome && g.atDetm.isNone)
    || (match h.wait with
      | .plex _ | .restart _ => true
      | _ => false)
  | _, _ => true

/-- The rotation of deterministic mode after an issue (R166): it moves on, but for a `detm` that has just set it (R440). -/
def State.rotate (before after : State) (g : Group) (slot : Bool) (gid : Nat) : State :=
  let fresh := (after.team? g.team).elim false fun t => t.turnFresh
  if fresh then after.modTeam g.team fun t => { t with turnFresh := false }
  else if before.detmOf g then
    (after.modTeam g.team fun t => { t with turnGroup := (g.index + 1) % 128 }).modGroup gid fun x =>
      { x with nextSlot := g.slot0.ready && g.slot1.ready && !slot }
  else after

/-- What follows the turn of a slot to issue, whether or not it did. -/
def State.afterIssue (before after : State) (gid : Nat) (slot : Bool) : State :=
  match before.group? gid, after.group? gid with
  | some g, some h =>
    let s1 := after.modGroup gid fun g => g.modPc slot fun p => { p with tried := after.tick }
    if g.moved h slot then before.rotate s1 g slot gid else s1
  | _, _ => after

/-- The slots that may issue. -/
def State.candidates (s : State) : List (Nat × Bool) :=
  s.groups.flatMap fun e => [(e.1, false), (e.1, true)].filter fun c => s.mayIssue c.1 c.2

/-- A slot, where its group is present. -/
def State.slot? (s : State) (c : Nat × Bool) : PcSlot := (s.group? c.1).elim PcSlot.empty fun g => g.pc c.2

/-- Since when a slot has been ready without issuing (R162). -/
def State.readySince (s : State) (c : Nat × Bool) : Nat := (s.slot? c).age

/-- The place of a slot after the pointer of its partition, which advances one resident slot each core cycle (R162); the two
PC slots of a group stand at one place, slot 0 first (log 109). -/
def State.tieRank (s : State) (c : Nat × Bool) : Nat :=
  2 * ((slotOf c.1 % 32 + 32 - s.cyc (coreOf c.1) % 32) % 32) + bitAt c.2 0

/-- Whether a slot goes before another (R162): it has been ready longer, or it comes first after the pointer. -/
def State.goesBefore (s : State) (a b : Nat × Bool) : Bool :=
  a != b && (decide (s.readySince a < s.readySince b) || (s.readySince a == s.readySince b && decide (s.tieRank a < s.tieRank b)))

/-- Whether a partition chooses another of its slots, whose next instruction is ready, before this one (R162). -/
def State.outranked (s : State) (gid : Nat) (slot : Bool) : Bool :=
  s.candidates.any fun c =>
    c != (gid, slot) && coreOf c.1 == coreOf gid && partOf c.1 == partOf gid && !(s.slot? c).unready && s.goesBefore c (gid, slot)

/-- The slot that is asked next for its instruction (log 3): of those that are not ready, or that their partition chooses, the one
that was asked longest ago. -/
def State.choose (s : State) : Option (Nat × Bool) :=
  (s.candidates.filter fun c => (s.slot? c).unready || !s.outranked c.1 c.2).foldl (fun best c => match best with
    | none => some c
    | some b => if (s.slot? c).tried < (s.slot? b).tried then some c else some b) none

/-- Where an instruction is placed to be run next (log 6): frame 1 of the bulkhead of a group's core, mapped at page 1. -/
def placedFrame (gid : Nat) : Nat := bhOf gid * 2 ^ 20 + 1

/-- The virtual address at which an instruction is placed (log 6). -/
def placedVa : Nat := 0x10000

/-- The translation under which it is fetched: a readable and executable page (R53). -/
def placedLeaf (gid : Nat) : TlbEntry :=
  { asid := 0, level := 0, vpn := 1, entry := BitVec.ofNat 64 (0xD410000000000000 + placedFrame gid), addr := 0 }

/-- The group that runs it: the current one where it is present, else one at its start, in handler mode, which reaches
every instruction (R390). -/
def State.placedGroup (s : State) : Group :=
  let g := (s.group? s.cur).getD { Group.start 0 0 0 true 256 0 0 s.tick with hnd := true }
  let slot := g.savedSlot
  { (g.modPc slot fun p => { p with live := true, waiting := false, pc := BitVec.ofNat 64 placedVa, segment := none, age := 0, unready := false }) with
    supervisor := true, hnd := true, active := true, ended := false, wait := .none, gangAbort := false, consumed := [] }

/-- Every slot ready since one step later than it was, in the same order. -/
def State.older (s : State) : State :=
  { s with groups := s.groups.map fun g =>
      (g.1, { g.2 with slot0 := { g.2.slot0 with age := g.2.slot0.age + 1 }, slot1 := { g.2.slot1 with age := g.2.slot1.age + 1 } }) }

/-- The state in which the bytes of an instruction lie where the next step fetches (log 6): they are in memory, mapped
for the current group, whose context is switched in, whose turn it is, and which has been ready longest. -/
def State.placeInstr (s : State) (bs : List Byte) : State :=
  let g := s.placedGroup
  let gid := s.cur
  let dpa := placedFrame gid * 2 ^ 16
  let s1 := (wordsOf dpa bs.length).foldl (fun s w => (s.settle w).setPoison w none) (s.older.setGroup gid g)
  let s2 : State := { s1 with home := Memory.putBytes s1.home dpa bs, agenda := [.issue gid g.savedSlot] }
  let s3 := s2.modCore (coreOf gid) fun c => { c with switchedIn := some g.asid, fetch := [] }
  let leaf : TlbEntry := { placedLeaf gid with asid := s3.tagOf g.asid }
  let s4 : State := { s3 with caches := Table.set s3.caches (coreOf gid) { leaves := [leaf], tables := [] },
                                 shoots := s3.shoots.map fun x => { x with holds := x.holds.filter fun k => k != gid } }
  (s4.modCtx g.asid fun c => { c with ptRoot := c.ptRoot ||| 1 }).modBh (bhOf gid) fun b =>
    { b with rstPhase := .idle, preEvicting := [] }

/-- The bytes of the five words of an instruction with bits `w` (R210): word 0 at the lowest address, little-endian. -/
def tableBytes (nbits w : Nat) : List Byte :=
  (List.range 20).map fun i => BitVec.ofNat 8 (w % 2 ^ nbits / 2 ^ (8 * i))

end Sys2Proof.Machine
end

