-- ==== Sys2Proof/Machine/StandingProduct.lean ====
section
/-! DEFINITION. The standing-product engine: bindings, the application of deltas, refreshes and snapshots, and the
instructions on bindings (0xDC to 0xE3; R105, R136, R137, R349 to R360). -/

namespace Sys2Proof.Machine

/-- A binding of a bulkhead's SPE. -/
def State.binding? (s : State) (bh b : Nat) : Option Binding := Table.find (s.bh bh).bindings b

/-- A binding written. -/
def State.setBinding (s : State) (bh b : Nat) (x : Binding) : State :=
  s.modBh bh fun y => { y with bindings := Table.set y.bindings b x }

/-- M of a binding. -/
def Binding.m (b : Binding) : Nat := b.shc.rows.toNat
/-- K of a binding. -/
def Binding.k (b : Binding) : Nat := b.sha.cols.toNat
/-- N of a binding. -/
def Binding.n (b : Binding) : Nat := b.shc.cols.toNat

/-- The binary32 code of an operand's raw value (R352): exact, a NaN becomes the canonical NaN. -/
def widen32 (fc raw : Nat) : Word :=
  let x := if fc ≤ 3 then Exact.ofInt (intOf fc raw) else (fmtOf fc).value raw
  BitVec.ofNat 32 (roundNE32 x).1

/-- C_s as C stores it: RNE in C's format (R352). -/
def Binding.out (b : Binding) (x : Word) : Nat :=
  if b.shc.fc == 10 then x.toNat
  else ((fmtOf b.shc.fc.toNat).code { mode := .rne, ftz := false, ofns := true } 0 (Fmt.f32.value x.toNat)).1

/-- Correct (R352): the new code, and the flags NV and OF. -/
def correct (c new old other : Word) : Word × Bool × Bool :=
  let v (w : Word) : Exact := Fmt.f32.value w.toNat
  let t := (Exact.add .rne (Exact.mul (v new) (v other)).1 (Exact.mul (v old) (v other)).1.negate).1
  match (Exact.add .rne (v c) t).1 with
  | .nan => (BitVec.ofNat 32 Fmt.f32.nanCode, true, false)
  | .zero _ => (0, false, false)
  | .inf neg => (BitVec.ofNat 32 (Fmt.f32.infCode + Fmt.f32.signBit neg), false, false)
  | y =>
    let (code, fl) := roundNE32 y
    (BitVec.ofNat 32 code, false, fl.of_)

/-- Refresh (R357) of one element from the shadows. -/
def Binding.refreshAt (b : Binding) (i j : Nat) : Word :=
  (List.range ((b.k + 31) / 32)).foldl (fun acc blk =>
    let ks := (List.range 32).map fun x => 32 * blk + x
    let sum := ks.foldl (fun st k =>
      if k < b.k then
        (Exact.add .rne st (Exact.mul (Fmt.f32.value (Table.findD b.aS (i * b.k + k) 0).toNat)
          (Fmt.f32.value (Table.findD b.bS (k * b.n + j) 0).toNat)).1).1
      else st) (Exact.zero true)
    BitVec.ofNat 32 (roundNE32 (Exact.add .rne (Fmt.f32.value acc.toNat) sum).1).1) 0

/-- C_s with every element refreshed. -/
def Binding.refreshAll (b : Binding) : Table Word :=
  (List.range (b.m * b.n)).map fun e => (e, b.refreshAt (e / b.n) (e % b.n))

/-- Ord of R357. -/
def ordOf (fm : Fmt) (c : Nat) : Int :=
  let mag : Nat := c % 2 ^ (fm.eb + fm.mb)
  if bit c (fm.eb + fm.mb) then -(mag : Int) else mag

/-- UlpDiff of R357. -/
def ulpDiff (fc x y : Nat) : Nat :=
  let fm := fmtOf fc
  if (fm.value x).isNan || (fm.value y).isNan then 0xFFFFFFFF else (ordOf fm x - ordOf fm y).natAbs

/-- Every element of C by number. -/
def Binding.cells (b : Binding) : List Nat := List.range (b.m * b.n)

/-- The address of element `e` of a region of C's form. -/
def cellAddr (h : Shape) (n e : Nat) : DWord :=
  h.rowAddr (e / n) + BitVec.ofNat 64 (e % n * (fcBits h.fc.toNat / 8))

/-- Elements written to a region of C's form, each as one engine write (R137, R352): the first cause among the writes that
are dropped. A page fault waits for the plex, unless it has refused. -/
def State.writeCells (s : State) (q : Asker) (c : Acc) (h : Shape) (n : Nat) (refused : Bool) (val : Nat → Nat) :
    List Nat → Option Cause → EngAns (Option Cause)
  | [], e => .done e s
  | x :: t, e => match s.engineStore q c (cellAddr h n x) (fcBits h.fc.toNat / 8) (val x) with
    | .done _ s1 => s1.writeCells q c h n refused val t e
    | .wait s1 => .wait s1
    | .fail k a s1 => if k.isPage && !refused then .fail k a s1 else s1.writeCells q c h n refused val t (firstOf e (some k))

/-- The SPE's writes stand in its bulkhead and in the binding's context. -/
def Binding.acc (b : Binding) (bh : Nat) : Acc := { gid := bh * 24 * 128, slot := false, pc := 0, asid := b.asid }

/-- Elements of C written from a binding's C_s. -/
def State.writeC (s : State) (bh : Nat) (b : Binding) (cells : List Nat) : EngAns (Option Cause) :=
  s.writeCells (s.engineAsker niStanding bh b.asid b.supervisor none) (b.acc bh) b.shc b.n b.refused
    (fun e => b.out (Table.findD b.cS e 0)) cells none

/-- An SP record for the context's event queue (R379). -/
def State.postSp (s : State) (bh : Nat) (b : Binding) (c : Cause) (data1 : Nat) : State :=
  s.postCtx b.asid bh 0x06 c.code.toNat 0 0 b.id data1

/-- A binding marked broken by a failed write of C (R352). -/
def State.breakBinding (s : State) (bh num : Nat) (c : Cause) : State :=
  match s.binding? bh num with
  | some b => (s.setBinding bh num { b with broken := true }).postSp bh b .spBroken c.code.toNat
  | none => s

/-- What follows an attempt to write C: the binding `b` holds the values written. Where a write failed, what is in
progress is finished, and the binding is marked broken (R352). -/
def State.afterWrite (s : State) (bh num : Nat) (b : Binding) (r : EngAns (Option Cause)) (go : State → State) : State :=
  match r with
  | .done none s1 => go (s1.setBinding bh num { b with refused := false })
  | .done (some c) s1 => (go (s1.setBinding bh num { b with refused := false })).breakBinding bh num c
  | .wait _ => s
  | .fail c _ _ => match s.binding? bh num with
    | some old => s.setBinding bh num { old with wait := some c }
    | none => s

/-- A refresh of a binding (R357): every element recomputed and written, every count and flag zero. -/
def Binding.refreshed (b : Binding) : Binding :=
  { b with cS := b.refreshAll, cnt := [], applied := 0, nv := false, ofl := false, budgetHit := false
           refreshDue := false, leaveAsked := false, leaveHeld := false }

/-- A refresh performed by the SPE, and what follows it. -/
def State.refresh (s : State) (bh num : Nat) (b : Binding) (go : State → State) : State :=
  let b1 := b.refreshed
  s.afterWrite bh num b1 (s.writeC bh b1 b1.cells) go

/-- The records of a binding that are captured and not applied (R136). -/
def State.captured (s : State) (bh num : Nat) : List Delta :=
  let x := s.bh bh
  (((x.capq.toList.flatMap fun q => q) ++ x.speIn).filter fun r => r.bind == num)
    ++ ((x.bindings.filter fun e => e.1 == num).flatMap fun e => e.2.log)

/-- The largest stamp among the captured records of a binding. -/
def State.lastStamp (s : State) (bh num : Nat) : Nat := (s.captured bh num).foldl (fun n r => max n r.stamp) 0

/-- Whether every record of a binding up to a stamp is applied and written, and no refresh at its point is due. -/
def State.settledTo (s : State) (bh num stamp : Nat) (b : Binding) : Bool :=
  (s.captured bh num).all (fun r => decide (stamp < r.stamp)) && !(b.refreshDue && b.policy == 1)

/-- A record before another in stamp order (R96, R105). -/
def Delta.before (a b : Delta) : Bool := decide (a.stamp < b.stamp) || (a.stamp == b.stamp && decide (a.slice < b.slice))

/-- Whether the SPE can take a binding's records: nothing holds their application back (R105, R354, R355). -/
def Binding.takes (b : Binding) : Bool := !b.paused && !b.broken && b.wait.isNone && !(b.refreshDue && b.policy == 1)

/-- The records that an SPE holds for bindings that run. -/
def Bulkhead.speRecords (x : Bulkhead) : List Delta :=
  (x.speIn ++ x.bindings.flatMap fun e => e.2.log).filter fun r =>
    (Table.find x.bindings r.bind).elim false Binding.takes

/-- Whether no smaller stamp can follow from any slice (R105). -/
def Bulkhead.inOrder (x : Bulkhead) (r : Delta) : Bool := x.speKnown.toList.all fun k => decide (r.stamp ≤ k)

/-- The record to apply next. -/
def Bulkhead.nextDelta (x : Bulkhead) : Option Delta :=
  (x.speRecords.foldl (fun best r => match best with
    | none => some r
    | some b => if r.before b then some r else some b) none).bind fun r => if x.inOrder r then some r else none

/-- A record removed from the SPE. -/
def Bulkhead.dropDelta (x : Bulkhead) (r : Delta) : Bulkhead :=
  { x with speIn := x.speIn.filter fun d => d != r
           bindings := x.bindings.map fun e => (e.1, { e.2 with log := e.2.log.filter fun d => d != r
                                                                logFullPosted := e.2.logFullPosted && e.2.log.all fun d => d != r }) }

/-- ApplyDelta (R352): the binding after a record, and the elements of C that it touches. -/
def Binding.applyDelta (b : Binding) (r : Delta) : Binding × List Nat :=
  let n := b.n
  let k := b.k
  let x := widen32 (if r.opndB then b.shb.fc.toNat else b.sha.fc.toNat) r.value.toNat
  let old := if r.opndB then Table.findD b.bS (r.row * n + r.col) 0 else Table.findD b.aS (r.row * k + r.col) 0
  let cells := if r.opndB then (List.range b.m).map fun i => i * n + r.col else (List.range n).map fun j => r.row * n + j
  let other (e : Nat) : Word :=
    if r.opndB then Table.findD b.aS (e / n * k + r.row) 0 else Table.findD b.bS (r.col * n + e % n) 0
  let b1 := cells.foldl (fun b e =>
    let (c, nv, ofl) := correct (Table.findD b.cS e 0) x old (other e)
    { b with cS := Table.set b.cS e c, cnt := Table.set b.cnt e (min (Table.findD b.cnt e 0 + 1) 0xFFFF)
             nv := b.nv || nv, ofl := b.ofl || ofl }) b
  let hit := b.budget != 0 && cells.any fun e => Table.findD b.cnt e 0 + 1 == b.budget
  ({ b1 with aS := if r.opndB then b1.aS else Table.set b1.aS (r.row * k + r.col) x
             bS := if r.opndB then Table.set b1.bS (r.row * n + r.col) x else b1.bS
             applied := min (b1.applied + 1) (2 ^ 24 - 1), budgetHit := b1.budgetHit || hit
             refreshDue := b1.refreshDue || (hit && b1.policy != 0) }, cells)

/-- The records that an application posts (R354, R392): the first of each since the last refresh. -/
def State.postApplied (s : State) (bh : Nat) (old new : Binding) : State :=
  let s1 := if new.budgetHit && !old.budgetHit && new.policy == 0 then s.postSp bh new .spBudget 0 else s
  let s2 := if new.nv && !old.nv then s1.postSp bh new .spNv 0 else s1
  if new.ofl && !old.ofl then s2.postSp bh new .spOf 0 else s2

/-- Whether a word of a binding's frames is poisoned (SP_POISON, R392). -/
def State.bindingPoisoned (s : State) (b : Binding) : Bool := s.poison.any fun e => b.frames.contains (e.1 / 16384)

/-- One record applied (R352). -/
def State.applyNext (s : State) (bh : Nat) (r : Delta) : State :=
  match s.binding? bh r.bind with
  | none => s.modBh bh fun x => x.dropDelta r
  | some b =>
    if s.bindingPoisoned b then (s.setBinding bh r.bind { b with broken := true }).postSp bh b .spPoison 0
    else
      let (b1, cells) := b.applyDelta r
      s.afterWrite bh r.bind b1 (s.writeC bh b1 cells) fun s1 =>
        (s1.modBh bh fun x => x.dropDelta r).postApplied bh b b1

/-- A snapshot request that can be taken (R359). -/
def State.nextSnap (s : State) (bh : Nat) : Option (EngReq × Shape × Binding) :=
  s.engines.findSome? fun r => match r.kind with
    | .snap num dst stamp =>
      if r.bh != bh || r.finished || r.wait.isSome then none
      else match s.binding? bh num with
        | some b => if b.broken || s.settledTo bh num stamp b then some (r, dst, b) else none
        | none => none
    | _ => none

/-- A snapshot taken at one point of stamp order (R359). -/
def State.takeSnap (s : State) (r : EngReq) (dst : Shape) (b : Binding) : State :=
  if b.broken then s.engineDone r.id (some .spBroken)
  else match s.writeCells (s.reqAsker r) r.acc dst b.n false (fun e => b.out (Table.findD b.cS e 0)) b.cells none with
    | .done c s1 => s1.engineDone r.id c
    | .wait s1 => s1
    | .fail c a s1 => s1.requestFails r.id c a 1

/-- A binding of policy 01 whose refresh is due (R354). -/
def Bulkhead.nextRefresh (x : Bulkhead) : Option (Nat × Binding) :=
  x.bindings.find? fun e => e.2.refreshDue && e.2.policy == 1 && !e.2.broken && e.2.wait.isNone && !e.2.paused

/-- The number under which a binding asks the governor for leave (R354). -/
def spLeaveKey (bh num : Nat) : Nat := 2 ^ 40 + 256 * bh + num

/-- A refresh that the SPE owes (R354): it asks leave for class 4 first. -/
def State.dueRefresh (s : State) (bh num : Nat) (b : Binding) : State :=
  if b.leaveHeld then s.refresh bh num b id
  else if b.leaveAsked then s
  else (s.setBinding bh num { b with leaveAsked := true }).modBh bh fun x =>
    { x with leaveQueue := x.leaveQueue ++ [(spLeaveKey bh num, 4)] }

/-- Whether the SPE of a bulkhead works (R37): it runs tenant work, or all of its bindings are the supervisor's. -/
def State.speWorks (s : State) (bh : Nat) : Bool := s.tenantRuns bh ((s.bh bh).bindings.all fun e => e.2.supervisor)

/-- DELTA_APPLY (R352): The SPE applies one delta record to the shadows and writes C; a refresh or a snapshot that is due
goes first (R354, R359). -/
def execDeltaApply (bh : Nat) (s : State) : Out :=
  if !s.speWorks bh then .next s
  else match (s.bh bh).nextRefresh with
  | some (num, b) => .next (s.dueRefresh bh num b)
  | none => match s.nextSnap bh with
    | some (r, dst, b) => .next (s.takeSnap r dst b)
    | none => match (s.bh bh).nextDelta with
      | some r => .next (s.applyNext bh r)
      | none => .next s

/-- The capture queue of a slice. -/
def Bulkhead.queue (x : Bulkhead) (slice : Nat) : List Delta := x.capq[slice % 16]'(Nat.mod_lt _ (by decide))

/-- A capture queue written. -/
def Bulkhead.setQueue (x : Bulkhead) (slice : Nat) (q : List Delta) : Bulkhead :=
  { x with capq := x.capq.set (slice % 16) q (Nat.mod_lt _ (by decide)) }

/-- What the SPE knows of a slice's stamps. -/
def Bulkhead.hear (x : Bulkhead) (slice v : Nat) : Bulkhead :=
  { x with speKnown := x.speKnown.set (slice % 16) (max v (x.speKnown[slice % 16]'(Nat.mod_lt _ (by decide)))) (Nat.mod_lt _ (by decide)) }

/-- CAPTURE_QUEUE_SEND (R105): A slice sends its next capture record to the SPE. Where the SPE cannot take it, it spills
to the binding's overflow log, and where that is full it stays (SP_LOG_FULL): no record is dropped. -/
def execCaptureQueueSend (bh slice : Nat) (s : State) : Out :=
  let x := s.bh bh
  match x.queue slice with
  | [] => .next s
  | r :: rest =>
    let sent (y : Bulkhead) : Bulkhead := (y.setQueue slice rest).hear slice r.stamp
    match Table.find x.bindings r.bind with
    | none => .next (s.modBh bh sent)
    | some b =>
      if b.takes then .next (s.modBh bh fun y => { sent y with speIn := y.speIn ++ [r] })
      else if b.log.length < b.logCap then .next ((s.modBh bh sent).setBinding bh r.bind { b with log := b.log ++ [r] })
      else if b.logFullPosted then .next s
      else .next ((s.setBinding bh r.bind { b with logFullPosted := true }).postSp bh b .spLogFull 0)

/-- LCS_HEARTBEAT (R105): An idle slice sends its LCS to the SPE every 64 network cycles. DESIGN CHOICE (log 62): the
SPE's acknowledgement carries the largest count that it knows, which the slice takes as R96 has a receiver do; without
it a record would wait for slices that no request reaches. -/
def execLcsHeartbeat (bh slice : Nat) (s : State) : Out :=
  let x := s.bh bh
  if !(x.queue slice).isEmpty then .next s
  else
    let top := x.speKnown.toList.foldl max 0
    let v := max top (s.lcsOf bh slice)
    .next ((s.setLcs bh slice v).modBh bh fun y => y.hear slice v)

/-- The box of an operand or of C (R349): as R320 builds it. -/
def boxOf (h : Shape) (asid : Nat) : Obj :=
  { Obj.empty with asid := asid, base := h.base.toNat, pitch := h.pitch.toNat, rowBytes := h.rowBytes
                   esz := fcBits h.fc.toNat / 8, rows := h.rows.toNat }

/-- Whether an operand's box meets R97 and R98. -/
def Obj.lineOk (o : Obj) : Bool :=
  o.base % 128 == 0 && o.rowBytes % 128 == 0 && decide (128 ≤ o.rowBytes)
    && (o.rows == 1 || (o.pitch % 128 == 0 && decide (o.rowBytes ≤ o.pitch) && decide (o.pitch < 2 ^ 32)))

/-- What a binding record asks for (R349). -/
structure BindRec where
  a : Shape
  b : Shape
  c : Shape
  logFrames : Nat
  policy : Nat
  budget : Nat
deriving DecidableEq, Repr

/-- Whether an operand format is accepted (R349). -/
def operandFc (fc : Nat) : Bool :=
  fc ≤ 3 || fc == 8 || fc == 9 || fc == 10 || fc == 12 || fc == 13

/-- The conditions of R349. -/
def BindRec.ok (r : BindRec) : Bool :=
  let a := boxOf r.a 0
  let b := boxOf r.b 0
  let c := boxOf r.c 0
  operandFc r.a.fc.toNat && operandFc r.b.fc.toNat && (r.c.fc == 8 || r.c.fc == 9 || r.c.fc == 10)
    && decide (r.a.rows.toNat ≤ 65536) && decide (r.a.cols.toNat ≤ 65536) && decide (r.b.cols.toNat ≤ 65536)
    && r.a.cols == r.b.rows && r.a.rows == r.c.rows && r.b.cols == r.c.cols
    && a.lineOk && b.lineOk && (c.rows == 1 || decide (c.rowBytes ≤ c.pitch))
    && a.global && b.global && c.global && !c.overlap a && !c.overlap b
    && r.logFrames != 0 && r.policy != 3

/-- A binding record from its 16 dwords (R349): none where a condition fails. -/
def bindRec (ds : List Nat) : Option BindRec :=
  let d (i : Nat) : Nat := (ds[i]?).getD 0
  match shapeOf (ds.take 4), shapeOf ((ds.drop 4).take 4), shapeOf ((ds.drop 8).take 4) with
  | some a, some b, some c =>
    let w := d 12
    let r : BindRec := { a := a, b := b, c := c, logFrames := bits w 31 24, policy := bits w 17 16, budget := bits w 15 0 }
    if bits w 63 32 == 0 && bits w 23 18 == 0 && d 13 == 0 && d 14 == 0 && d 15 == 0 && r.ok then some r else none
  | _, _, _ => none

/-- The pages that a box covers, in ascending order. -/
def Obj.pages (o : Obj) : List Nat :=
  ((List.range o.rows).flatMap fun r =>
    let a := o.base + r * o.pitch
    (List.range ((a + o.rowBytes - 1) / 65536 + 1 - a / 65536)).map fun i => a / 65536 + i).eraseDups

/-- The pages of step 2 of R350 with their access kinds, in ascending order. -/
def BindRec.pages (r : BindRec) : List (Nat × AccessKind) :=
  let ab := ((boxOf r.a 0).pages ++ (boxOf r.b 0).pages).eraseDups
  let c := (boxOf r.c 0).pages
  let all := ((ab ++ c).eraseDups.map fun p => (p, ())).foldl (fun (t : Table Unit) e => Table.set t e.1 ()) []
  all.flatMap fun e =>
    (if ab.contains e.1 then [(e.1, AccessKind.load)] else []) ++ (if c.contains e.1 then [(e.1, AccessKind.store)] else [])

/-- Pages translated in order as lane 0 of the group: the frame of each, or the trap. -/
def State.bindPages (s : State) (gid : Nat) (g : Group) : List (Nat × AccessKind) → Except TrapInfo (List (Nat × Nat)) × State
  | [] => (.ok [], s)
  | (p, k) :: t =>
    let a := BitVec.ofNat 64 (p * 65536)
    match s.translate ((s.asker gid g).via false) k (p * 65536) with
    | (.fail c l, s1) => (.error (pipeTrap k.code { cause := c, addr := a, level := l }), s1)
    | (.ok dpa _ _, s1) => match s1.bindPages gid g t with
      | (.error e, s2) => (.error e, s2)
      | (.ok l, s2) => (.ok ((p, dpa / 65536) :: l), s2)

/-- An operand read into its shadow through the pages of the binding: the values and whether a word was poisoned. -/
def State.readShadow (s : State) (h : Shape) (frames : List (Nat × Nat)) : Table Word × Bool :=
  let esz := fcBits h.fc.toNat / 8
  let cols := h.cols.toNat
  let es := (List.range (h.rows.toNat * cols)).map fun e =>
    let va := h.base.toNat + e / cols * h.pitch.toNat + e % cols * esz
    let dpa := match frames.find? fun p => p.1 == va / 65536 with
      | some p => p.2 * 65536 + va % 65536
      | none => 0
    (widen32 h.fc.toNat (s.loadNow dpa esz), (s.poisonOf dpa esz).isSome)
  ((List.range es.length).zip (es.map fun e => e.1), es.any fun e => e.2)

/-- The result of a failed `spbind` (R350). -/
def spFail (code : Nat) : DWord := BitVec.ofNat 64 (2 ^ 63 + code * 2 ^ 12)

/-- Frames that a binding takes (R350 step 5). -/
def BindRec.frames (r : BindRec) : Nat :=
  let m := r.a.rows.toNat
  let k := r.a.cols.toNat
  let n := r.c.cols.toNat
  (4 * (m * k + k * n + m * n) + 65535) / 65536 + r.logFrames

/-- Delta records of 24 bytes that the log frames hold (R104, R349). -/
def BindRec.logCap (r : BindRec) : Nat := r.logFrames * 65536 / 24

/-- Why a binding is not made, in the order of steps 2 to 5 of R350: the code of the step. -/
def State.bindRefusal (s : State) (bh asid : Nat) (r : BindRec) (frames : List (Nat × Nat)) : Option Nat :=
  let a := boxOf r.a asid
  let b := boxOf r.b asid
  let c := boxOf r.c asid
  let objs := (s.bh bh).objs.filter fun e => e.2.asid == asid
  if frames.any fun p => bhOfFrame p.2 != bh then some 4
  else if decide (64 ≤ (s.ctx asid).spIds.length) || decide (256 ≤ (s.bh bh).bindings.length) then some 1
  else if objs.any (fun e => e.2.overlap a || e.2.overlap b) || a.overlap b
      || objs.any (fun e => e.2.st != .shared && e.2.overlap c) then some 2
  else if 4094 < (s.bh bh).objs.length then some 6
  else if (s.bh bh).poolCount < r.frames then some 5
  else none

/-- The binding that steps 5 to 7 of R350 make. -/
def BindRec.binding (r : BindRec) (asid id objA objB : Nat) (frames : List Nat) (sup : Bool) (aS bS : Table Word) : Binding :=
  { asid := asid, id := id, sha := r.a, shb := r.b, shc := r.c, policy := r.policy, budget := r.budget, logCap := r.logCap
    objA := objA, objB := objB, frames := frames, aS := aS, bS := bS, cS := [], cnt := [], paused := false
    refreshDue := false, nv := false, ofl := false, budgetHit := false, broken := false, applied := 0, log := []
    logFullPosted := false, supervisor := sup, wait := none, refused := false, leaveAsked := false, leaveHeld := false, stopped := false }

/-- Steps 5 to 7 of R350, taken at one point: the binding's number, or none where a write of C cannot be performed yet. -/
def State.makeBinding (s : State) (g : Group) (r : BindRec) (frames : List (Nat × Nat)) : Option (Nat × Nat × State) :=
  let bh := bhOf s.cur
  let id := Table.freeFrom (s.ctx g.asid).spIds 64 0
  let num := Table.freeFrom (s.bh bh).bindings 256 0
  let objA := Table.freeFrom (s.bh bh).objs 4096 0
  let s1 := s.settleBh bh
  let stand (h : Shape) (opndB : Bool) : Obj :=
    { boxOf h g.asid with st := .standing, held := true, opndB := opndB, bind := num, grid := s.gridNumber g % 65536 }
  let s2 := s1.setObj bh objA (stand r.a false)
  let objB := Table.freeFrom (s2.bh bh).objs 4096 0
  let s3 := s2.setObj bh objB (stand r.b true)
  let (fs, s4) := s3.engineFrames bh r.frames
  let (aS, pa) := s4.readShadow r.a frames
  let (bS, pb) := s4.readShadow r.b frames
  let b0 := r.binding g.asid id objA objB fs g.sup aS bS
  let s5 := s4.modCtx g.asid fun c => { c with spIds := Table.set c.spIds id (bh, num) }
  if pa || pb then
    some (id, num, (s5.setBinding bh num { b0 with broken := true }).postSp bh b0 .spPoison 0)
  else
    let b1 : Binding := { b0 with cS := b0.refreshAll }
    match s5.writeC bh b1 b1.cells with
    | .done none s6 => some (id, num, s6.setBinding bh num b1)
    | .done (some c) s6 => some (id, num, (s6.setBinding bh num b1).breakBinding bh num c)
    | .wait _ => none
    | .fail c _ s6 => some (id, num, (s6.setBinding bh num b1).breakBinding bh num c)

/-- `spbind` (R349, R350). -/
def spbindBody (f : ExtA) (g : Group) (s : State) : Res :=
  let a := g.rdS f.a + f.w2.signExtend 64
  let put (v : DWord) (s : State) : Res := .ok (s.modGroup s.cur fun g => g.wrS f.d v)
  if a.toNat % 128 != 0 then put (spFail 3) s
  else s.withRecord g 16 a none fun ds s1 => match bindRec ds with
    | none => put (spFail 3) s1
    | some r => match s1.bindPages s.cur g r.pages with
      | (.error t, s2) => .trap t s2
      | (.ok frames, s2) => match s2.bindRefusal (bhOf s.cur) g.asid r frames with
        | some c => put (spFail c) s2
        | none => s2.release (s2.acc g) false fun s3 =>
          if s3.granting (bhOf s.cur) then .stall .room s3
          else match s3.makeBinding g r frames with
            | none => .stall .room s3
            | some (id, num, s4) =>
              let broken := (s4.binding? (bhOf s.cur) num).elim false fun b => b.broken
              put (BitVec.ofNat 64 (bitAt broken 62 + id)) (s4.dropValid (coreOf s.cur))

/-- SPBIND (R350): Makes a standing-product binding from a record. -/
def execSpbind (f : ExtA) (s : State) : Out := s.execA 0xDC f (spbindBody f)

/-- The binding that an instruction names (R351), or its trap. -/
def State.withBinding (s : State) (g : Group) (v : DWord) (unbind : Bool) (go : Nat → Binding → Res) : Res :=
  if bits v.toNat 63 6 != 0 then .trap (.of .operandRange) s
  else match Table.find (s.ctx g.asid).spIds v.toNat with
    | none => .trap (.of .spId) s
    | some (bh, num) =>
      if bh != bhOf s.cur then .trap (.of .bulkheadGate) s
      else match s.binding? bh num with
        | none => .trap (.of .spId) s
        | some b => if b.broken && !unbind then .trap (.of .spBroken) s else go num b

/-- The wait of an instruction on a binding: it counts for swapping only while the binding is paused (R136, R163). -/
def Binding.waitKind (b : Binding) (num : Nat) : Wait := if b.paused then .spPaused num else .room

/-- What an instruction waits for as `spsettle` does (R136, R355): `done` follows when every record captured so far is
applied; the stamp up to which is kept while it waits. -/
def State.settling (s : State) (g : Group) (num : Nat) (b : Binding) (done : State → Res) : Res :=
  let pc := (g.pc s.curSlot).pc
  let bh := bhOf s.cur
  match s.held? s.cur s.curSlot pc with
  | some p =>
    if b.paused || !s.settledTo bh num (p.values.lane 0).toNat b then .stall (b.waitKind num) s
    else match done s with
      | .ok s1 => .ok (s1.dropPend p.id)
      | r => r
  | none => s.release (s.acc g) false fun s1 =>
    let t := s1.lastStamp bh num
    if !b.paused && s1.settledTo bh num t b then done s1
    else
      let (id, s2) := s1.fresh
      .stall (b.waitKind num) (s2.addPend { Pend.of id s.cur s.curSlot pc 1 with
        values := (Lanes.all 0).set 0 (BitVec.ofNat 64 t), why := .spPaused num, memory := false })

/-- A refresh that an instruction performs itself (R354, R357), then what follows; it waits while C cannot be written. -/
def State.refreshNow (s : State) (bh num : Nat) (b : Binding) (go : State → Res) : Res :=
  let b1 := b.refreshed
  match s.writeC bh b1 b1.cells with
  | .done none s1 => go (s1.setBinding bh num { b1 with refused := false })
  | .done (some c) s1 => go ((s1.setBinding bh num { b1 with refused := false }).breakBinding bh num c)
  | .wait _ => .stall .room s
  | .fail c _ _ => .stall .room (s.setBinding bh num { b with wait := some c })

/-- What an instruction does after a refresh of policy 10 that is due: it performs that first (R354). -/
def State.dueFirst (s : State) (num : Nat) (b : Binding) (go : State → Binding → Res) : Res :=
  if b.refreshDue && b.policy == 2 then
    if b.wait.isSome then .stall .room s
    else s.refreshNow (bhOf s.cur) num b fun s1 => go s1 ((s1.binding? (bhOf s.cur) num).getD b)
  else go s b

/-- The same for an instruction that a broken binding stops (R351): the refresh may have broken it. -/
def State.dueUnbroken (s : State) (num : Nat) (b : Binding) (go : State → Binding → Res) : Res :=
  s.dueFirst num b fun s1 b1 => if b1.broken then .trap (.of .spBroken) s1 else go s1 b1

/-- SPSETTLE (R355): Waits until captured deltas are applied and written; its return is an acquire of C. A refresh of
policy 10 that is due goes first (R354). -/
def execSpsettle (f : ExtA) (s : State) : Out :=
  s.execA 0xDE f fun g s => s.withBinding g (g.rdS f.a) false fun num b =>
    let wait (s : State) (b : Binding) : Res := s.settling g num b fun s1 =>
      if b.wait.isSome then .stall .room s1 else .ok (s1.dropValid (coreOf s.cur))
    if (s.held? s.cur s.curSlot (g.pc s.curSlot).pc).isSome then wait s b else s.dueUnbroken num b wait

/-- The largest UlpDiff between C before a refresh and after it (R357). -/
def Binding.drift (b : Binding) : Nat :=
  b.cells.foldl (fun n e => max n (ulpDiff b.shc.fc.toNat (b.out (Table.findD b.cS e 0)) (b.out (b.refreshAt (e / b.n) (e % b.n))))) 0

/-- SPREFRESH (R357): Recomputes C and returns the largest drift. -/
def execSprefresh (f : ExtA) (s : State) : Out :=
  s.execA 0xE0 f fun g s => s.withBinding g (g.rdS f.a) false fun num b => s.withLeave g (some 4) fun s1 =>
    s1.settling g num b fun s2 =>
      if b.wait.isSome then .stall .room s2
      else s2.refreshNow (bhOf s.cur) num b fun s3 =>
        .ok ((s3.modGroup s.cur fun g => g.wrS f.d (BitVec.ofNat 64 b.drift)).dropValid (coreOf s.cur))

/-- The result of `spquery` (R356). -/
def State.spState (s : State) (bh num : Nat) (b : Binding) : DWord :=
  let top := b.cnt.foldl (fun n e => max n e.2) 0
  BitVec.ofNat 64 (bitAt b.paused 63 + bitAt b.refreshDue 62 + bitAt b.nv 61 + bitAt b.ofl 60 + bitAt b.budgetHit 59
    + bitAt (!b.log.isEmpty) 58 + min (s.captured bh num).length 262143 * 2 ^ 40 + b.applied * 2 ^ 16 + top)

/-- SPQUERY (R356): Returns the binding's state word. -/
def execSpquery (f : ExtA) (s : State) : Out :=
  s.execA 0xDF f fun g s => s.withBinding g (g.rdS f.a) false fun num b =>
    .ok (s.modGroup s.cur fun g => g.wrS f.d (s.spState (bhOf s.cur) num b))

/-- SPPAUSE (R355): Stops application of deltas. -/
def execSppause (f : ExtA) (s : State) : Out :=
  s.execA 0xE1 f fun g s => s.withBinding g (g.rdS f.a) false fun num b =>
    .ok (s.setBinding (bhOf s.cur) num { b with paused := true })

/-- SPRESUME (R355): Restarts application in stamp order. -/
def execSpresume (f : ExtA) (s : State) : Out :=
  s.execA 0xE2 f fun g s => s.withBinding g (g.rdS f.a) false fun num b =>
    .ok (s.setBinding (bhOf s.cur) num { b with paused := false })

/-- Whether a row of a shape, of whatever PITCH, meets an operand or C of a binding: the row may run past the last
address. -/
def Shape.meetsBox (h o : Shape) : Bool :=
  (List.range h.rows.toNat).any fun i =>
    let x := (h.rowAddr i).toNat
    (boxOf o 0).meets x h.rowBytes || (boxOf o 0).meets 0 (x + h.rowBytes - 2 ^ 64)

/-- Whether a shape can take a snapshot of a binding (R359). -/
def Binding.snapOk (b : Binding) (h : Shape) : Bool :=
  h.rows == b.shc.rows && h.cols == b.shc.cols && h.fc == b.shc.fc && decide (h.base.toNat < 2 ^ 55)
    && !h.meetsBox b.sha && !h.meetsBox b.shb && !h.meetsBox b.shc

/-- SPSNAP (R359): Copies C at one stamp-order point to a shape region, after a refresh of policy 10 that is due
(R354). -/
def execSpsnap (f : ExtA) (s : State) : Out :=
  s.execA 0xE3 f fun g s => s.withBinding g (g.rdS f.a) false fun num b =>
    let h := g.rdH f.b.toNat
    if !b.snapOk h then .trap (.of .matrixForm) s
    else if 255 ≤ g.rdE 1 then .stall .room s
    else s.dueUnbroken num b fun s1 _ => s1.release (s1.acc g) false fun s2 =>
      .ok (s2.issueRequest g 1 (.snap num h (s2.lastStamp (bhOf s.cur) num))).2

/-- Whether a number names a standing object of a binding. -/
def Bulkhead.standsFor (x : Bulkhead) (i num : Nat) : Bool :=
  match Table.find x.objs i with
  | some o => o.st == .standing && o.bind == num
  | none => false

/-- Capture to a binding stops (R101, R360); its object entries stay until it ends. -/
def State.stopCapture (s : State) (bh num : Nat) : State :=
  match s.binding? bh num with
  | some b => s.setBinding bh num { b with stopped := true }
  | none => s

/-- The snapshots of a binding that are still to be taken end with SP_BROKEN when it is removed: one of a binding that is not broken
has none (R359, R360). -/
def State.endSnaps (s : State) (bh num : Nat) : State :=
  (s.engines.filter fun r => r.bh == bh && !r.finished && match r.kind with
    | .snap n _ _ => n == num
    | _ => false).foldl (fun s r => (s.setRequest { r with wait := none }).engineDone r.id (some .spBroken)) s

/-- A binding removed (R360): its records, objects, frames and id. -/
def State.endBinding (s : State) (bh num : Nat) (b : Binding) : State :=
  let clear (q : List Delta) : List Delta := q.filter fun r => r.bind != num
  let s1 := (s.endSnaps bh num).modBh bh fun x =>
    let drop (o : Table Obj) (i : Nat) : Table Obj := if x.standsFor i num then Table.erase o i else o
    { x with bindings := Table.erase x.bindings num, objs := drop (drop x.objs b.objA) b.objB
             speIn := clear x.speIn, capq := x.capq.map clear
             leaveQueue := x.leaveQueue.filter fun e => e.1 != spLeaveKey bh num }
  (s1.modCtx b.asid fun c => { c with spIds := Table.erase c.spIds b.id }).freeEngineFrames b.frames

/-- Whether a snapshot of a binding is still to be taken. -/
def State.snapping (s : State) (bh num : Nat) : Bool :=
  s.engines.any fun r => r.bh == bh && !r.finished && match r.kind with
    | .snap n _ _ => n == num
    | _ => false

/-- `spunbind` once capture has stopped (R360): it ends when every record is applied and C is written. -/
def State.unbinding (s : State) (num : Nat) (finish : State → Res) : Res :=
  let bh := bhOf s.cur
  match s.binding? bh num with
  | none => finish s
  | some b =>
    if !(s.captured bh num).isEmpty || s.snapping bh num || b.wait.isSome || (b.refreshDue && b.policy == 1) then
      .stall .room s
    else finish s

/-- `spunbind` (R360): a refresh of policy 10 that is due is performed first (R354). -/
def spunbindBody (f : ExtA) (g : Group) (s : State) : Res :=
  s.withBinding g (g.rdS f.a) true fun num b =>
    let bh := bhOf s.cur
    let finish (s : State) : Res := .ok ((s.endBinding bh num ((s.binding? bh num).getD b)).dropValid (coreOf s.cur))
    if b.broken then finish s
    else if b.paused then .stall (.spPaused num) s
    else if b.stopped then s.unbinding num finish
    else s.dueFirst num b fun s1 b1 =>
      if b1.broken then finish s1
      else s1.release (s1.acc g) false fun s2 => (s2.stopCapture bh num).unbinding num finish

/-- SPUNBIND (R360): Ends a binding after applying captured records. -/
def execSpunbind (f : ExtA) (s : State) : Out := s.execA 0xDD f (spunbindBody f)

end Sys2Proof.Machine
end

