-- ==== Sys2Proof/Machine/Launch.lean ====
section
/-! DEFINITION. Launch records and their checks (R155, R156), launch queues (R157), room on the cores and the placement
of teams and gangs (R80, R152, R160, R161, R165), how a team starts (R148, R428), and the end of groups, teams and
grids (R158, R236, R321, R412, R415). -/

namespace Sys2Proof.Machine

/-- Registers per lane by their code (R155). -/
def regsOf (code : Nat) : Nat := 8 * 2 ^ code

/-- A launch record from its dwords (R155): none where a reserved field or value is nonzero, a value lies outside its
range, DONE or WAIT is misaligned, or TEAMS is no multiple of GANG + 1 (R156). The scratchpad is in bytes. -/
def launchRec (ds : List Nat) : Option LaunchRec :=
  let w (i : Nat) : Nat := (ds[i]?).getD 0
  let teams := bits (w 1) 63 40
  let gang := bits (w 1) 39 36 + 1
  let groups := bits (w 1) 23 16
  let acct := bits (w 2) 31 26
  let spad := bits (w 2) 14 0
  if bits (w 0) 63 56 != 0 || bits (w 0) 1 0 != 0 || bits (w 1) 31 24 != 0 || bits (w 1) 3 0 != 0
      || bits (w 2) 25 15 != 0 || w 7 != 0 || teams == 0 || groups == 0 || decide (128 < groups)
      || decide (5 < bits (w 1) 15 13) || decide (16 < bits (w 1) 12 8) || decide (32 < acct)
      || decide (14336 < spad) || w 4 % 8 != 0 || w 5 % 8 != 0 || teams % gang != 0 then none
  else some
    { entry := BitVec.ofNat 64 (bits (w 0) 55 2 * 4), teams := teams, gang := gang, stage := bits (w 1) 35 32
      groups := groups, regsCode := bits (w 1) 15 13, replay := bits (w 1) 12 8, vbc := bit (w 1) 7
      opp := bits (w 1) 6 4, seed := BitVec.ofNat 32 (bits (w 2) 63 32), acct := acct, spad := 512 * spad
      args := BitVec.ofNat 64 (w 3), done := BitVec.ofNat 64 (w 4), wait := BitVec.ofNat 64 (w 5)
      wval := BitVec.ofNat 64 (w 6) }

/-- What a context has free on a core: resident slots, its register region with the blocks in use, its scratchpad
region with the parts in use, and the free tiles of each partition (R78, R80). -/
structure Room where
  slots : List Nat
  units : Nat
  blocks : List (Nat × Nat)
  spad : Nat
  parts : List (Nat × Nat)
  tiles : List Nat
deriving DecidableEq, Repr

/-- The groups of a context on a core in order of the size of their blocks, the largest first: packed from the base, each is aligned. -/
def packOrder (gs : List (Nat × Group)) : List (Nat × Group) :=
  [256, 128, 64, 32, 16, 8].flatMap fun n => gs.filter fun g => g.2.regs == n

/-- An empty core for a context with a CTX_PART word (R78, R80). -/
def Room.empty (part : DWord) : Room :=
  { slots := List.range 128, units := 256 * bits part.toNat 4 0 - 512, blocks := [], spad := 65536 * bits part.toNat 23 16
    parts := [], tiles := List.replicate 4 (bits part.toNat 39 32) }

/-- The lowest free base for `n` units of a region: a multiple of `step` that meets no range in use. -/
def freeBase (used : List (Nat × Nat)) (size step n : Nat) : Option Nat :=
  if size < n then none
  else ((List.range ((size - n) / step + 1)).map fun i => i * step).find? fun a => !used.any fun u => overlaps a n u.1 u.2

/-- KiB of a CTX_PART word (R79). -/
def partKib (v : DWord) : Nat := 256 * bits v.toNat 4 0 + 64 * bits v.toNat 23 16 + 32 * bits v.toNat 39 32

/-- Whether a core holds a context or can take it in, with the words that CTX_PART of its contexts hold now (R77, R79, R164,
R414): where these exceed 8 MiB together, the core takes no further team of either (log 137). -/
def State.admits (s : State) (core asid : Nat) : Bool :=
  let c := s.core core
  let rs := if c.resident.contains asid then c.resident else c.resident ++ [asid]
  !c.quarantined && (s.bh (bhOfCore core)).rstPhase == .idle && decide (rs.length ≤ 2)
    && decide ((rs.map fun a => partKib (s.ctx a).part).sum ≤ 8192)

/-- Whether a team has a group on a partition of a core. -/
def State.teamOn (s : State) (tid core part : Nat) : Bool :=
  s.groups.any fun g => g.2.team == tid && coreOf g.1 == core && partOf g.1 == part

/-- What a context has free on a core, where the core can take it. -/
def State.room (s : State) (core asid : Nat) : Option Room :=
  if !s.admits core asid then none
  else
    let r := Room.empty (s.ctx asid).part
    let gs := s.groups.filter fun g => coreOf g.1 == core
    let ts := s.teams.filter fun t => t.2.asid == asid && t.2.cores.contains core
    some { r with
      slots := r.slots.filter fun k => !gs.any fun g => slotOf g.1 == k
      blocks := (gs.filter fun g => g.2.asid == asid).map fun g => (g.2.base, g.2.regs)
      parts := (ts.filter fun t => t.2.spad != 0).map fun t => (t.2.padBase core, t.2.spad / t.2.cores.length)
      tiles := (List.range 4).map fun p =>
        (r.tiles[p]?).getD 0 - ((ts.filter fun t => s.teamOn t.1 core p).map fun t => t.2.acct).sum }

/-- What a team needs (R160): the groups still to be placed, the size of the team, and registers, scratchpad bytes and
tiles. -/
structure Need where
  indices : List Nat
  groups : Nat
  regs : Nat
  spad : Nat
  acct : Nat
deriving DecidableEq, Repr

/-- What the record of a launch needs for each team. -/
def LaunchRec.need (r : LaunchRec) : Need :=
  { indices := List.range r.groups, groups := r.groups, regs := regsOf r.regsCode, spad := r.spad, acct := r.acct }

/-- One more group on a core: its partition is one with the fewest groups of the team so far, so that none holds more
than one above any other (R160). The counts are of the team's groups by partition. -/
def Room.seat (r : Room) (cnt : List Nat) (regs acct : Nat) : Option ((Nat × Nat) × Room × List Nat) :=
  let c (p : Nat) : Nat := (cnt[p]?).getD 0
  let low := cnt.foldl min 256
  let ok := (List.range 4).filter fun p =>
    c p == low && r.slots.any (fun k => k / 32 == p) && (c p != 0 || decide (acct ≤ (r.tiles[p]?).getD 0))
  match ok.head? with
  | none => none
  | some p => match r.slots.find? (fun k => k / 32 == p), freeBase r.blocks r.units regs regs with
    | some slot, some base =>
      some ((slot, base),
        { r with slots := r.slots.filter fun k => k != slot
                 blocks := r.blocks ++ [(base, regs)]
                 tiles := if c p == 0 then r.tiles.set p ((r.tiles[p]?).getD 0 - acct) else r.tiles },
        cnt.set p (c p + 1))
    | _, _ => none

/-- `n` groups on a core. -/
def Room.seats (r : Room) (cnt : List Nat) (regs acct : Nat) : Nat → Option (List (Nat × Nat) × Room)
  | 0 => some ([], r)
  | n + 1 => match r.seat cnt regs acct with
    | none => none
    | some (x, r1, c1) => match r1.seats c1 regs acct n with
      | some (l, r2) => some (x :: l, r2)
      | none => none

/-- Where a team goes: its cores, the bases of its scratchpad parts on them, and for each group its index, core, slot and block. -/
structure Fit where
  cores : List Nat
  spadBases : List Nat
  seats : List (Nat × Nat × Nat × Nat)
deriving DecidableEq, Repr

/-- A base for a part of a team's scratchpad on a core (R17, R160). -/
def Room.padBase (r : Room) (n : Nat) : Option Nat := if n == 0 then some 0 else freeBase r.parts r.spad 512 n

/-- The part of a team on one of its cores: the seats of its groups, its scratchpad base, and the room that is left. -/
def Room.host (r : Room) (x : Need) (most n pad : Nat) : Option (List (Nat × Nat) × Nat × Room) :=
  match r.padBase pad, r.seats [0, 0, 0, 0] x.regs x.acct most, r.seats [0, 0, 0, 0] x.regs x.acct n with
  | some base, some _, some p => some (p.1, base, { p.2 with parts := if pad == 0 then p.2.parts else p.2.parts ++ [(base, pad)] })
  | _, _, _ => none

/-- A team on `m` cores of a cluster from the core at `st` (R160). Rooms are by the core's place in the cluster. -/
def fitAt (rooms : List (Option Room)) (first st m : Nat) (x : Need) : Option (Fit × List (Option Room)) :=
  let idx (j : Nat) : List Nat := x.indices.filter fun i => i % m == j
  let most := (x.groups + m - 1) / m
  let plan := (List.range m).map fun j =>
    ((rooms[st + j]?).getD none).bind fun r => (r.host x most (idx j).length (x.spad / m)).map fun p => (j, p)
  if x.spad % m != 0 || x.spad / m % 512 != 0 || plan.any fun p => p.isNone then none
  else
    let ps := plan.filterMap id
    some ({ cores := (List.range m).map fun j => first + st + j, spadBases := ps.map fun p => p.2.2.1
            seats := ps.flatMap fun p => ((idx p.1).zip p.2.1).map fun e => (e.1, first + st + p.1, e.2.1, e.2.2) },
      ps.foldl (fun l p => l.set (st + p.1) (some p.2.2.2)) rooms)

/-- A team on the smallest number of cores for which it fits, among the cores from `lo` to `hi` of a cluster (R160). -/
def fitTeam (rooms : List (Option Room)) (first lo hi : Nat) (x : Need) : Option (Fit × List (Option Room)) :=
  ([1, 2, 3, 4].flatMap fun m => ((List.range 4).filter fun st => decide (lo ≤ st) && decide (st + m ≤ hi + 1)).map fun st =>
    (m, st)).findSome? fun e => fitAt rooms first e.2 e.1 x

/-- The teams of a gang, one after the other, among the cores from `lo` to `hi`. -/
def fitWithin (rooms : List (Option Room)) (first lo hi : Nat) : List Need → Option (List Fit)
  | [] => some []
  | x :: t => match fitTeam rooms first lo hi x with
    | none => none
    | some (f, r1) => (fitWithin r1 first lo hi t).map fun l => f :: l

/-- The runs of consecutive cores of a cluster. -/
def coreRuns : List (Nat × Nat) := (List.range 4).flatMap fun a => ((List.range 4).filter fun b => decide (a ≤ b)).map fun b => (a, b)

/-- The numbers of cores of a gang's teams, the first team's most significant. -/
def spanKey (fs : List Fit) : Nat := fs.foldl (fun n f => 5 * n + f.cores.length) 0

/-- A gang in a cluster (R160, R161): of the placements that fill a run of consecutive cores, the one with the smallest m for the
first team, then for the second and so on, and among those the lowest run. -/
def fitGang (rooms : List (Option Room)) (first : Nat) (xs : List Need) : Option (List Fit) :=
  let ok (e : Nat × Nat) : Option (List Fit) := (fitWithin rooms first e.1 e.2 xs).bind fun fs =>
    if (List.range 4).all fun j => (decide (e.1 ≤ j) && decide (j ≤ e.2)) == (fs.any fun f => f.cores.contains (first + j)) then some fs
    else none
  (coreRuns.filterMap ok).foldl (fun best fs => match best with
    | none => some fs
    | some b => if spanKey fs < spanKey b then some fs else some b) none

/-- The rooms of a cluster of a bulkhead; a core that is not allowed has none. -/
def State.clusterRooms (s : State) (bh cl asid : Nat) (allow : Nat → Bool) : List (Option Room) :=
  (List.range 4).map fun j => if allow (24 * bh + 4 * cl + j) then s.room (24 * bh + 4 * cl + j) asid else none

/-- The clusters in the order in which a stage tries them (R161). -/
def clusterOrder (stage : Nat) : List Nat := (List.range 6).map fun i => (6 * stage / 16 + i) % 6

/-- The placement of a gang in a bulkhead: the first cluster that fits (R161). -/
def State.placeGang (s : State) (bh asid stage : Nat) (allow : Nat → Bool) (needs : List Need) : Option (List Fit) :=
  (clusterOrder stage).findSome? fun cl => fitGang (s.clusterRooms bh cl asid allow) (24 * bh + 4 * cl) needs

/-- Whether a gang fits in a cluster whose cores are empty of other work (R156). -/
def LaunchRec.fits (r : LaunchRec) (part : DWord) : Bool :=
  (fitGang (List.replicate 4 (some (Room.empty part))) 0 (List.replicate r.gang r.need)).isSome

/-- A context admitted to a core (R165): alone, it is switched in, and beside another it is frozen. Scratchpad bytes of
contexts that are no longer resident are lost to the newcomer (R82); a word of theirs that was poisoned stays so (log 110). -/
def State.takeIn (s : State) (core asid : Nat) : State :=
  if s.isResident core asid then s
  else s.modCore core fun c =>
    let rs := c.resident ++ [asid]
    { c with resident := rs
             switchedIn := if c.resident.isEmpty then some asid else c.switchedIn
             spad := c.spad.filter fun e => rs.contains e.1 }

/-- Whether replay selects a group by its launch's rate and seed and its global group index (R407). -/
def selectedBy (rate : Nat) (seed : DWord) (index : Nat) : Bool :=
  rate != 0 && (mix64 (seed + BitVec.ofNat 64 index * 0x9E3779B97F4A7C15)).toNat % 2 ^ (rate - 1) == 0

/-- A team with nothing but its place (R362, R334). -/
def Team.at (kind : TeamKind) (grid gang asid bh : Nat) (cores : List Nat) (index gteam : Nat) (x : Need) (spadBases : List Nat) :
    Team :=
  let b : Barrier := { episode := 0, arrived := [] }
  { kind := kind, grid := grid, gang := gang, asid := asid, bh := bh, cores := cores, ran := cores, index := index, gteam := gteam
    groups := x.groups, acct := x.acct, spad := x.spad, spadBases := spadBases, barriers := Vector.replicate 16 b
    gangSync := b, mbarArrived := [], windows := [], held := [], asked := [], detm := false, turnGroup := 0
    retired := 0, exited := false, tiles := [] }

/-- The state of a group's start (R428): scalar registers as given. -/
def Group.withArgs (g : Group) (args : List (Nat × DWord)) : Group :=
  args.foldl (fun g a => g.wrS (BitVec.ofNat 8 a.1) a.2) g

/-- Whether a context has a place among the active groups of a partition (R154): twins have their own (R164). -/
def State.activeRoom (s : State) (core part asid : Nat) : Bool :=
  decide ((s.groups.filter fun g =>
    coreOf g.1 == core && partOf g.1 == part && g.2.asid == asid && g.2.active && !g.2.ended).length < 8)

/-- A group placed: it is active where its partition has room (R154). -/
def State.seatGroup (s : State) (gid : Nat) (g : Group) : State :=
  s.setGroup gid { g with active := s.activeRoom (coreOf gid) (partOf gid) g.asid }

/-- The cores of a team admitted, and their fetch buffers emptied where the first team of a grid starts (R165, R211). -/
def State.openCores (s : State) (grid asid : Nat) (cores : List Nat) : State :=
  cores.foldl (fun s c =>
    let s1 := s.takeIn c asid
    match Table.find s1.grids grid with
    | none => s1
    | some gr =>
      if gr.started.contains c then s1
      else { s1.modCore c fun x => { x with fetch := [] } with
        grids := Table.set s1.grids grid { gr with started := gr.started ++ [c] } }) s

/-- A team placed and started (R148, R160, R428): its number and the state. Its start acquires what the launch released (R122,
R143), and the stamp of a group's last fence is its core's counter (R118). -/
def State.startTeam (s : State) (t : Team) (f : Fit) (sup : Bool) (regs rate : Nat) (seed entry : DWord) (run : RunKind)
    (args : List (Nat × DWord)) : Nat × State :=
  let (tid, s0) := s.fresh
  let s1 := f.cores.foldl (fun s c => s.lccTake c (s.engCounter t.bh niCopy)) s0
  let s2 : State := { s1 with teams := Table.set s1.teams tid t }
  let s3 := f.cores.foldl (fun s c => s.dropValid c) (s2.openCores t.grid t.asid f.cores)
  (tid, f.seats.foldl (fun s e =>
    let gid := 128 * e.2.1 + e.2.2.1
    let (uid, s) := s.fresh
    let g := (Group.start t.asid tid e.1 sup regs e.2.2.2 entry s.tick).withArgs args
    s.seatGroup gid { g with uid := uid, fenceStamp := (s.core (coreOf gid)).lcc, run := run, selected := selectedBy rate seed (t.index * t.groups + e.1) }) s3)

/-- A grid's DONE advanced and its completion record posted (R158, R379, R415). -/
def State.reportGrid (s : State) (asid bh number : Nat) (sup : Bool) (done : DWord) (c : Option Cause) : State :=
  (s.signal bh asid sup done).postCtx asid bh 0x03 (c.elim 0 fun c => c.code.toNat) 0 0 number 0

/-- A launch whose record has been read (R156, R377): its number, or the cause of its refusal, which DONE and a completion
record report too. -/
def State.acceptLaunch (s : State) (asid bh q : Nat) (sup : Bool) (ds : List Nat) : Except Cause Nat × State :=
  match (launchRec ds).bind fun r => if r.fits (s.ctx asid).part then some r else none with
  | none => (.error .launchForm, s.reportGrid asid bh 0 sup (BitVec.ofNat 64 ((ds[4]?).getD 0)) (some .launchForm))
  | some r =>
    let n := (s.inst asid bh).launches + 1
    let (id, s1) := s.fresh
    let gr : Grid :=
      { asid := asid, bh := bh, queue := q, number := n, supervisor := sup, launch := r, ready := r.wait == 0, placed := 0
        retired := 0, cause := none, taskSeq := none, reported := false, started := [] }
    let s2 : State := { s1 with grids := Table.set s1.grids id gr }
    (.ok n, s2.modInst asid bh fun i =>
      { i with launches := n
               queues := i.queues.set (q % 16) (i.queues[q % 16]'(Nat.mod_lt _ (by decide)) ++ [id]) (Nat.mod_lt _ (by decide)) })

/-- The grids that wait in a launch queue, the head first. -/
def State.queueOf (s : State) (asid bh q : Nat) : List Nat := (s.inst asid bh).queues[q % 16]'(Nat.mod_lt _ (by decide))

/-- A grid taken out of its launch queue. -/
def State.unqueue (s : State) (id : Nat) : State :=
  match Table.find s.grids id with
  | none => s
  | some gr => s.modInst gr.asid gr.bh fun i => { i with queues := i.queues.map fun l => l.filter fun x => x != id }

/-- The state with a grid changed, where it is present. -/
def State.modGrid (s : State) (id : Nat) (f : Grid → Grid) : State := { s with grids := Table.modify s.grids id f }

/-- A grid fails (R415): its first fatal cause is kept, and no further gang of it is placed. -/
def State.failGrid (s : State) (id : Nat) (c : Cause) : State :=
  (s.modGrid id fun g => { g with cause := match g.cause with
    | some d => some d
    | none => some c }).unqueue id

/-- LAUNCH_READY (R157): the head launch of a queue becomes ready once its WAIT object holds at least WVAL; an object
that cannot be read fails the launch (LAUNCH_ABORT). -/
def execLaunchReady (bh asid q : Nat) (s : State) : Out :=
  match (s.queueOf asid bh q).head?.bind fun id => (Table.find s.grids id).map fun g => (id, g) with
  | none => .next s
  | some (id, gr) =>
    if gr.ready then .next s
    else match s.engineLoad (s.engineAsker niCopy bh asid gr.supervisor none) gr.launch.wait 8 with
      | .wait s1 => .next s1
      | .fail _ _ s1 => .next (s1.failGrid id .launchAbort)
      | .done (v, p) s1 =>
        if p then .next (s1.failGrid id .launchAbort)
        else if gr.launch.wval.toNat ≤ v then .next (s1.modGrid id fun g => { g with ready := true })
        else .next s1

/-- PRIO of a queue (R157). -/
def State.prioOf (s : State) (asid q : Nat) : Nat := bits (s.ctx asid).qPrio.toNat (2 * q + 1) (2 * q)

/-- The head launches of a bulkhead that are ready, with their queues; a drained context places nothing (R396). -/
def State.heads (s : State) (bh : Nat) : List (Nat × Nat × Nat × Grid) :=
  s.ctxs.flatMap fun c => (List.range 16).filterMap fun q =>
    match (s.queueOf c.1 bh q).head?.bind fun id => (Table.find s.grids id).map fun g => (id, g) with
    | some (id, g) => if g.ready && !(s.inst c.1 bh).drained then some (c.1, q, id, g) else none
    | none => none

/-- Watts that a grant of a class adds to the governor's model (R449). -/
def leaveWatts (cls : Nat) : Nat :=
  match cls with
  | 0 => 40
  | 1 => 50
  | 2 => 60
  | 3 => 30
  | _ => 20

/-- The classes of the grants that a bulkhead's governor holds (R167, R449): those of its teams, and class 4 for each
binding that refreshes. -/
def State.grants (s : State) (bh : Nat) : List Nat :=
  ((s.teams.filter fun t => t.2.bh == bh).flatMap fun t => t.2.held)
    ++ ((s.bh bh).bindings.filter fun b => b.2.leaveHeld).map fun _ => 4

/-- Whether a grant that fitted under no set of grants when it was given still stands (R449). -/
def State.overGrant (s : State) (bh : Nat) : Bool :=
  match (s.bh bh).overKey with
  | none => false
  | some (key, cls) =>
    if 2 ^ 40 ≤ key then (s.bh bh).bindings.any fun b => spLeaveKey bh b.1 == key && b.2.leaveHeld
    else s.teams.any fun t => t.1 == key && t.2.bh == bh && t.2.held.contains cls

/-- The highest operating code that the governor allows now (R449). -/
def State.oppCap (s : State) (bh : Nat) : Nat := if s.overGrant bh then 0 else (s.bh bh).pwrHeld

/-- Whether a launch may place its first team at the operating point in force (R159). -/
def State.oppReady (s : State) (bh : Nat) (gr : Grid) : Bool :=
  gr.placed != 0 || decide (min gr.launch.opp (s.oppCap bh) ≤ (s.bh bh).opp)

/-- The placement of the next gang of a grid, in a bulkhead that runs its work (R37, R45). -/
def State.headFit (s : State) (bh : Nat) (gr : Grid) : Option (List Fit) :=
  if (s.bh bh).rstPhase != .idle || !s.tenantRuns bh gr.supervisor then none
  else s.placeGang bh gr.asid gr.launch.stage (fun _ => true) (List.replicate gr.launch.gang gr.launch.need)

/-- What the teams of a gang that was written out need (R160, R163). -/
def Saved.needs (x : Saved) : List Need :=
  x.teams.map fun t =>
    let gs := x.groups.filter fun g => g.2.team == t.1
    { indices := List.range t.2.groups, groups := t.2.groups, regs := (gs.head?.map fun g => g.2.regs).getD 8
      spad := t.2.spad, acct := t.2.acct }

/-- The rank of a queue for the scheduler (R157): priority first, then ascending queue number after the queue of that priority
that was served last. Lower goes first. -/
def State.rankOf (s : State) (bh asid q : Nat) : Nat :=
  let k := 16 * asid + q + 1
  let p := s.prioOf asid q
  (3 - p) * 2 ^ 22 + (if k ≤ Table.findD (s.bh bh).served p 0 then 2 ^ 21 else 0) + k

/-- The head launch that the scheduler of a bulkhead serves among those of a priority of at least `least` (R157): the first in
its order whose gang fits, `atOpp` only among those that may be placed at the operating point in force (R159). -/
def State.nextHeadAs (s : State) (atOpp : Bool) (bh least : Nat) : Option (Nat × Nat × Nat × Grid × List Fit) :=
  let c := (s.heads bh).filterMap fun h =>
    if decide (least ≤ s.prioOf h.1 h.2.1) && (!atOpp || s.oppReady bh h.2.2.2) then
      (s.headFit bh h.2.2.2).map fun f => (h.1, h.2.1, h.2.2.1, h.2.2.2, f) else none
  c.foldl (fun best h => match best with
    | none => some h
    | some b => if s.rankOf bh h.1 h.2.1 < s.rankOf bh b.1 b.2.1 then some h else some b) none

/-- The head launch that is placed next. -/
def State.nextHead (s : State) (bh least : Nat) : Option (Nat × Nat × Nat × Grid × List Fit) := s.nextHeadAs true bh least

/-- The operating code that a bulkhead's running grids and the launch about to place its first team ask for, within what the
governor allows (R159, R449). -/
def State.oppWanted (s : State) (bh : Nat) : Nat :=
  let running := (s.grids.filter fun g => g.2.bh == bh && g.2.placed != 0 && !g.2.reported).map fun g => g.2.launch.opp
  let next := match s.nextHeadAs false bh 0 with
    | some h => if h.2.2.2.1.placed == 0 then [h.2.2.2.1.launch.opp] else []
    | none => []
  min (s.oppCap bh) ((running ++ next).foldl max 0)

/-- OPERATING_POINT_CHANGE (R159): the bulkhead runs at the code that is asked for. -/
def execOperatingPointChange (bh : Nat) (s : State) : Out := .next (s.modBh bh fun b => { b with opp := s.oppWanted bh })

/-- A gang of a grid placed and started (R161). -/
def State.startGang (s : State) (bh q id : Nat) (gr : Grid) (fits : List Fit) : State :=
  let (gang, s1) := s.fresh
  let x := gr.launch.need
  let r := gr.launch
  let s2 := ((List.range fits.length).zip fits).foldl (fun s e =>
    (s.startTeam (Team.at .grid id gang gr.asid bh e.2.cores (gr.placed + e.1) e.1 x e.2.spadBases) e.2 gr.supervisor x.regs
      r.replay (r.seed.setWidth 64) r.entry .original [(1, r.args)]).2) s1
  let s3 := s2.modGrid id fun g => { g with placed := g.placed + fits.length }
  let s4 := s3.modBh bh fun b => { b with served := Table.set b.served (s.prioOf gr.asid q) (16 * gr.asid + q + 1) }
  if r.teams ≤ gr.placed + fits.length then s4.unqueue id else s4

/-- Whether a wait counts under R154 (R154, R332, R335, R347, R362 to R365, R377, R382, R384). -/
def Wait.leavesActive (w : Wait) : Bool :=
  match w with
  | .bar _ | .qwait | .park | .ecwait | .gangsync | .atwait | .cwait | .evget | .mbar | .fabricLaunch | .register => true
  | _ => false

/-- Whether a group's wait counts under R154: one for the plex does after FT_HANDOFF (R72). -/
def Group.leavesActive (g : Group) : Bool :=
  match g.wait with
  | .plex _ => g.handoff.isSome
  | w => w.leavesActive

/-- Whether a slot's next instruction is ready, as the step found it (R162). -/
def PcSlot.prepared (p : PcSlot) : Bool := p.ready && !p.unready

/-- Whether a group is ready: its wait, if it has one, is over (R154, R162). -/
def Group.runnable (g : Group) : Bool := !g.ended && (g.slot0.prepared || g.slot1.prepared) && !g.wait.blocks

/-- Since when a group has been ready (R154, R162): the earliest of its ready slots. -/
def Group.readySince (g : Group) : Nat :=
  if !g.slot0.prepared then g.slot1.age else if !g.slot1.prepared then g.slot0.age else min g.slot0.age g.slot1.age

/-- Whether a group waits for a place in its partition (R154). -/
def State.wantsPlace (s : State) (gid : Nat) (g : Group) : Bool :=
  !g.active && g.runnable && s.isSwitchedIn (coreOf gid) g.asid

/-- Whether a group is the one that has waited longest for a place in its partition (R154). -/
def State.nextActive (s : State) (gid : Nat) (g : Group) : Bool :=
  s.wantsPlace gid g && s.groups.all fun e =>
    !(coreOf e.1 == coreOf gid && partOf e.1 == partOf gid && s.wantsPlace e.1 e.2) || decide (g.readySince ≤ e.2.readySince)

/-- ACTIVE_SET_EXCHANGE (R154): the ready resident group that has waited longest takes a place that is free, or that of a group
which has issued nothing for 64 core cycles because it waits. A group in handler mode keeps its place (R80). -/
def execActiveSetExchange (out into : Nat) (s : State) : Out :=
  match s.group? into with
  | none => .next s
  | some h =>
    let enter (s : State) : State := s.modGroup into fun h => { h with active := true }
    if !s.nextActive into h then .next s
    else if s.activeRoom (coreOf into) (partOf into) h.asid then .next (enter s)
    else match s.group? out with
      | none => .next s
      | some g =>
        if g.active && coreOf out == coreOf into && partOf out == partOf into && g.asid == h.asid && !g.hnd
            && g.leavesActive && !g.runnable && decide (g.waitSince + 64 ≤ s.cyc (coreOf out)) then
          .next (enter (s.modGroup out fun g => { g with active := false }))
        else .next s

/-- Every claim of a team on a matrix unit's slots released (R338). -/
def State.releaseClaims (s : State) (tid : Nat) : State :=
  { s with units := s.units.map fun e => (e.1,
      let u := e.2
      let drop (c : Option Nat) : Option Nat := if c == some tid then none else c
      { u with claim0 := drop u.claim0, claim1 := drop u.claim1
               freeing0 := if u.claim0 == some tid then none else u.freeing0
               freeing1 := if u.claim1 == some tid then none else u.freeing1
               slots := u.slots.filter fun w => w.2.team != tid }) }

/-- Whether a group that has ended may free what it holds (R236): its exit is a release, its counters are 0 and every
reply has arrived; the drain of its ABSMAX is over. -/
def State.groupDone (s : State) (gid : Nat) (g : Group) : Bool :=
  g.ended && (List.range 4).all (fun k => g.rdE k == 0) && !(s.pends.any fun p => p.gid == gid) && s.releaseReady gid
    && !(s.net.any fun m => m.gid == some gid) && !(s.engines.any fun r => r.gid == some gid) && g.absQueue.isEmpty

/-- The replay jobs of a bulkhead changed. -/
def State.modJobs (s : State) (bh : Nat) (f : RveJob → RveJob) : State := s.modBh bh fun b => { b with jobs := b.jobs.map f }

/-- A replay job opened for the team of a selected group at its end, with the group's digest (R410, R411). -/
def State.noteRun (s : State) (t : Team) (g : Group) : State :=
  if g.run != .original || !g.selected then s
  else
    let mine (j : RveJob) : Bool := j.grid == t.grid && j.team.index == t.index && j.phase == 0
    let add (j : RveJob) : RveJob :=
      if mine j then { j with selected := j.selected ++ [g.index], original := j.original ++ [(g.index, g.digest)] } else j
    if (s.bh t.bh).jobs.any mine then s.modJobs t.bh add
    else
      let (id, s1) := s.fresh
      let j : RveJob :=
        { id := id, grid := t.grid, bh := t.bh, team := { t with tiles := [], windows := [] }, selected := [g.index]
          original := [(g.index, g.digest)], cores0 := t.cores, replayed := [], cores1 := [], arbitrated := [], cores2 := []
          log := [], phase := 0 }
      s1.modBh t.bh fun b => { b with jobs := b.jobs ++ [j] }

/-- The digest of a group of a replay or an arbiter run kept at its end (R411). -/
def State.noteReplay (s : State) (t : Team) (g : Group) : State :=
  match t.kind with
  | .replay id => s.modJobs t.bh fun j =>
      if j.id != id then j
      else if g.run == .replay then { j with replayed := j.replayed ++ [(g.index, g.digest)] }
      else { j with arbitrated := j.arbitrated ++ [(g.index, g.digest)] }
  | _ => s

/-- A value replied to the sender of an active message (R373): a message on its way to the sender's core. -/
def State.sendReply (s : State) (token : Nat) (v : DWord) : State :=
  match Table.find s.messages token with
  | none => s
  | some m =>
    if m.answered then s
    else
      let (id, s1) := s.fresh
      let done : State := { s1 with messages := Table.set s1.messages token { m with answered := true } }
      match m.pend with
      | none => done
      | some p => { done with net := done.net ++
          [{ Msg.at .amReply (coreOf m.sender) m.asid 0 0 8 with
               id := id, counter := (s.core m.core).lcc, gid := some m.sender, slot := m.slot, pc := m.pc, pend := some p, data := v }] }

/-- PRE_CMD of a bulkhead ends with a status, and GO reads 0 (R395). -/
def State.endCommand (s : State) (bh status : Nat) : State :=
  s.modBh bh fun b =>
    { b with pre0 := BitVec.ofNat 64 (setBits (setBits b.pre0.toNat 47 40 status) 63 63 0), preGo := false, preEnd := none, preEvicting := [] }

/-- The teams of a context in a bulkhead, resident or swapped (R396). -/
def State.anyTeam (s : State) (asid bh : Nat) : Bool :=
  s.teams.any (fun t => t.2.asid == asid && t.2.bh == bh) || s.saved.any fun x => x.2.asid == asid && x.2.bh == bh

/-- A drain ends when no team of the context remains (R396). -/
def State.drainCheck (s : State) (bh : Nat) : State :=
  let b := s.bh bh
  let w := b.preCur0.toNat
  if b.preGo && bits w 62 60 == 1 && !s.anyTeam (bits w 15 0) bh then s.endCommand bh 0 else s

/-- A gang retires when its last team has exited (R4, R161): its teams go together, and with them their scratchpads. -/
def State.retireGang (s : State) (gang bh : Nat) : State :=
  let ts := s.teamsOf gang
  if !ts.all fun t => t.2.exited then s
  else
    let s1 := ts.foldl (fun s t => match t.2.kind with
      | .grid | .task _ _ => s.modGrid t.2.grid fun g => { g with retired := g.retired + 1 }
      | _ => s) s
    ({ s1 with teams := s1.teams.filter fun t => t.2.gang != gang } : State).drainCheck bh

/-- A team exits with its last group (R236, R323, R167, R338, R373, R374, R410): its windows close without write-back, its leave
and its claims are released; a handler that has not replied replies all ones; the job of a replay goes on. -/
def State.endTeam (s : State) (tid : Nat) (t : Team) : State :=
  let s1 := (t.windows.map fun w => w.1).foldl (fun s i => s.closeWindow tid i) s
  let s2 := (s1.releaseLeave tid).releaseClaims tid
  let s3 := s2.modTeam tid fun t => { t with exited := true }
  let s4 : State := match t.kind with
    | .grid | .task _ _ => s3.modJobs t.bh fun j =>
        if j.grid == t.grid && j.team.index == t.index && j.phase == 0 then
          { j with phase := 1, team := { j.team with ran := t.ran } } else j
    | .message token =>
      let s4 := s3.sendReply token (BitVec.allOnes 64)
      { s4 with messages := Table.erase s4.messages token }
    | .replay id => s3.modJobs t.bh fun j => 
        if j.id == id then { j with phase := j.phase + 1, team := { j.team with ran := j.team.ran ++ t.ran } } else j
  s4.retireGang t.gang t.bh

/-- GROUP_END (R236): a group that has ended frees its slot, its registers and its tiles; with the last group the team
ends. -/
def execGroupEnd (gid : Nat) (s : State) : Out :=
  match s.group? gid with
  | none => .next s
  | some g =>
    if !s.groupDone gid g then .next s
    else match s.team? g.team with
      | none => .next { s with groups := Table.erase s.groups gid }
      | some t =>
        let s1 := (s.noteRun t g).noteReplay t g
        let s2 : State := { s1 with groups := Table.erase s1.groups gid }
        if (s2.groupsOf g.team).isEmpty then .next (s2.endTeam g.team t) else .next s2

/-- Whether a grid's replays are finished (R410, R412). -/
def State.replaysDone (s : State) (id bh : Nat) : Bool := !((s.bh bh).jobs.any fun j => j.grid == id)

/-- Whether every team of a grid that was placed, or will be, has retired (R158, R415). -/
def Grid.ended (g : Grid) : Bool := g.retired == g.placed && (g.placed == g.launch.teams || g.cause.isSome)

/-- The objects that a grid declared with SCOPE 0, which go at its end (R98, R101, R321). -/
def State.objsOf (s : State) (id : Nat) (gr : Grid) : Table Obj :=
  (s.bh gr.bh).objs.filter fun e => !e.2.held && e.2.owner == id && e.2.st != .standing

/-- The objects of a grid that has ended leave STABLE or FROZEN (R101, R138). -/
def State.closeObjects (s : State) (id : Nat) (gr : Grid) : State :=
  ((s.objsOf id gr).filter fun e => e.2.readOnly).foldl (fun s e => s.leaveReadOnly gr.bh e.1 e.2 none) s

/-- Whether an invalidation of an object of a grid is on its way (R101, R102). -/
def State.objsClosing (s : State) (id : Nat) (gr : Grid) : Bool :=
  s.net.any fun m => match m.kind with
    | .objInval i _ => bhOfCore m.core == gr.bh && (s.objsOf id gr).any fun e => e.1 == i
    | _ => false

/-- The entries of a grid's objects removed. -/
def State.releaseObjects (s : State) (id : Nat) (gr : Grid) : State :=
  (s.objsOf id gr).foldl (fun s e => s.dropObj gr.bh e.1) s

/-- A task that has ended (R374, R434): a fatal cause is reported as TASK_ABORT, and the completion object advances. -/
def State.reportTask (s : State) (seq : Nat) (gr : Grid) : State :=
  let s1 := match gr.cause with
    | some c => s.postCtx gr.asid gr.bh 0x07 Cause.taskAbort.code.toNat 0 0 seq c.code.toNat
    | none => s
  if gr.launch.done == 0 then s1.modTender gr.bh seq fun t => { t with st := .done }
  else s1.signalFor gr.bh gr.asid false gr.launch.done (some seq)

/-- The completion of a grid reported once (R158, R374). -/
def State.reportEnd (s : State) (id : Nat) (gr : Grid) : State :=
  if gr.reported then s
  else
    let s1 := match gr.taskSeq with
      | some seq => s.reportTask seq gr
      | none => s.reportGrid gr.asid gr.bh gr.number gr.supervisor gr.launch.done gr.cause
    s1.modGrid id fun g => { g with reported := true }

/-- GRID_COMPLETION (R158, R412, R415): when its last team has retired, and with VBC = 1 its replays are finished, a grid
advances DONE and posts its record. Its objects go once its replays are finished (R410); where that is at its completion, no
tagged copy of them is left when DONE advances (R101, R138). -/
def execGridCompletion (id : Nat) (s : State) : Out :=
  match Table.find s.grids id with
  | none => .next s
  | some gr =>
    let quiet := s.replaysDone id gr.bh
    if !gr.ended || (gr.launch.vbc && !quiet) then .next s
    else if !quiet then .next (s.reportEnd id gr)
    else if (s.objsOf id gr).any fun e => e.2.readOnly then .next (s.closeObjects id gr)
    else if s.objsClosing id gr then .next s
    else
      let s1 := (s.reportEnd id gr).releaseObjects id gr
      .next { s1 with grids := Table.erase s1.grids id }

end Sys2Proof.Machine
end

