-- ==== Sys2Proof/Machine/External.lean ====
section
/-! DEFINITION. Accesses from outside the device, by the fabric (R26, R417) and by the host (R75, R424, R425): they are
translated in a context's tables and performed at the home slices. -/

namespace Sys2Proof.Machine

/-- What an access from outside answers: it was performed, it cannot be performed yet, it meets a page fault and waits for the
plex (R69, R75), or it was refused. -/
inductive ExtAns (α : Type) where
  | done (a : α) (s : State)
  | wait
  | fault (c : Cause)
  | refused (c : Cause)

/-- The pieces of an access from outside, with their DPAs. A bulkhead in reset answers WINDOW_PEER_RESET (R46, R417); a
page fault waits for the plex (R75). -/
def State.outsidePieces (s : State) (host : Bool) (asid : Nat) (k : AccessKind) (va : Nat) : List (Nat × Nat) → ExtAns (List (Nat × Nat × Nat))
  | [] => .done [] s
  | (off, n) :: t => match s.translate (outsideVia host asid) k (va + off) with
    | (.fail c _, _) => if c.isPage then .fault c else .refused c
    | (.ok dpa _ _, s1) =>
      if (s1.bh (bhOfDpa dpa)).rstPhase != .idle then .refused .windowPeerReset
      else match s1.outsidePieces host asid k va t with
        | .done l s2 => .done ((off, n, dpa) :: l) s2
        | r => r

/-- DPA_HOLE for the pieces of an access that lie outside populated memory (R30, R381): DATA1 names the host path or the
fabric. -/
def State.outsideHoles (s : State) (host : Bool) (ps : List (Nat × Nat × Nat)) : State :=
  ps.foldl (fun s p => s.holeCheck p.2.2 (if host then 1 else 2)) s

/-- The pieces of `n` bytes at `va`. -/
def State.reach (s : State) (host : Bool) (asid : Nat) (k : AccessKind) (va n : Nat) : ExtAns (List (Nat × Nat × Nat)) :=
  s.outsidePieces host asid k va (pieces n va 0 n)

/-- Whether the pieces can be performed now (R90, R111): those of a write find room for the records of all of them (R105). -/
def State.outsideReady (s : State) (write : Bool) (asid va : Nat) (ps : List (Nat × Nat × Nat)) : Bool :=
  let made (p : Nat × Nat × Nat) : Nat := s.capturesOf (some (asid, va + p.1)) p.2.2 p.2.1
  let all := ps.foldl (fun n p => n + made p) 0
  ps.all fun p => !s.quiesced p.2.2 && s.quiet p.2.2 p.2.1
    && (!write || s.captureRoomFor (some (asid, va + p.1)) p.2.2 p.2.1 (all - made p))

/-- The reads of an access from outside counted at their home slices (R114). -/
def State.outsideNotes (s : State) (asid va : Nat) (ps : List (Nat × Nat × Nat)) : State :=
  ps.foldl (fun s p => s.noteRead (some (asid, va + p.1)) p.2.2) s

/-- A read from outside: the value, and whether it is poisoned (R41). -/
def State.outsideRead (s : State) (host : Bool) (asid va n : Nat) : ExtAns (Nat × Bool) :=
  match s.reach host asid .load va n with
  | .done ps s1 =>
    if !s1.outsideReady false asid va ps then .wait
    else .done (ps.foldl (fun acc p =>
      let (v, l) := s1.homeRead p.2.2 p.2.1
      (acc.1 + v * 2 ^ (8 * p.1), acc.2 || l.isSome)) (0, false)) ((s1.outsideHoles host ps).outsideNotes asid va ps)
  | .wait => .wait
  | .fault c => .fault c
  | .refused c => .refused c

/-- Words of an access that were written with poisoned data (R41). -/
def State.poisonWords (s : State) (poison : Bool) (dpa n : Nat) : State :=
  if poison then (wordsOf dpa n).foldl (fun s w => s.setPoison w (some .remote)) s else s

/-- A write from outside (R141, R143): the pieces in ascending order. A piece that the home slice refuses changes nothing
there (R100). Poisoned data stay poisoned (R41). -/
def State.outsideWrite (s : State) (host : Bool) (asid va n v : Nat) (poison : Bool) : ExtAns (Option Cause) :=
  match s.reach host asid .store va n with
  | .done ps s1 =>
    if !s1.outsideReady true asid va ps then .wait
    else
      let r := (ps.filter fun p => dpaPopulated p.2.2).foldl (fun (acc : Option Cause × State) p =>
        match acc.2.homeWrite (some (asid, va + p.1)) p.2.2 p.2.1 (pieceOf v p.1 p.2.1) with
        | .ok s2 => (acc.1, s2.poisonWords poison p.2.2 p.2.1)
        | .error c => (firstOf acc.1 (some c), acc.2)) (none, s1.outsideHoles host ps)
      .done r.1 r.2
  | .wait => .wait
  | .fault c => .fault c
  | .refused c => .refused c

/-- An SC load from outside (R139): it takes the word from its owner and is stamped. -/
def State.outsideScRead (s : State) (host : Bool) (asid va n : Nat) : ExtAns (Nat × Bool) :=
  match s.reach host asid .load va n with
  | .done ps s1 =>
    if !s1.outsideReady false asid va ps then .wait
    else ((ps.filter fun p => dpaPopulated p.2.2).foldl (fun s p => ((s.settleAll p.2.2 p.2.1).lcsStep p.2.2).2) s1).outsideRead
      host asid va n
  | .wait => .wait
  | .fault c => .fault c
  | .refused c => .refused c

/-- An atomic from outside (R139, R329, R417): the old value, and whether it is poisoned (R41). One that writes nothing is stamped as
an SC operation only. -/
def State.outsideAtomic (s : State) (host : Bool) (asid va n : Nat) (op : AtOp) (sc : Bool) (x cmp : Nat) : ExtAns (Nat × Bool) :=
  match s.reach host asid .atomic va n with
  | .done ps s1 =>
    if !s1.outsideReady true asid va ps then .wait
    else match ps with
      | [(_, _, dpa)] =>
        if !dpaPopulated dpa then .done ((s1.homeRead dpa n).1, true) (s1.outsideHoles host ps) else
        let s2 := s1.settleAll dpa n
        let (old, l) := s2.homeRead dpa n
        match op.apply atomicSum n old x cmp with
        | none => .done (old, l.isSome) (if sc then (s2.lcsStep dpa).2 else s2)
        | some new => match s2.homeWrite (some (asid, va)) dpa n new with
          | .ok s3 => .done (old, l.isSome) s3
          | .error c => .refused c
      | _ => .refused .atomicAlign
  | .wait => .wait
  | .fault c => .fault c
  | .refused c => .refused c

/-- An access from outside kept, behind those that came before it (R69, R75). -/
def State.keepOutside (s : State) (vf : Option Nat) (asid va size : Nat) (kind : OutKind) (cause : Option Cause) : State :=
  let (id, s1) := s.fresh
  { s1 with outside := s1.outside ++
      [{ id := id, vf := vf, asid := asid, va := va, size := size, kind := kind, cause := cause }] }

/-- A kept access taken away. -/
def State.dropOutside (s : State) (id : Nat) : State := { s with outside := s.outside.filter fun r => r.id != id }

/-- A kept access waits for the plex with a cause, or no longer. -/
def State.outsideWaits (s : State) (id : Nat) (c : Option Cause) : State :=
  { s with outside := s.outside.map fun r => if r.id == id then { r with cause := c } else r }

/-- The dwords of a value of `n` dwords. -/
def dwordsOf (v n : Nat) : List Nat := (List.range n).map fun i => v / 2 ^ (64 * i) % 2 ^ 64

/-- The record of a launch from outside, read in the context's global window (R12, R13, R155, R156, R423, R427), and the launch.
A record that is not aligned fails with LAUNCH_FORM (log 105). -/
def State.launchOutside (s : State) (host : Bool) (asid bh q : Nat) (record : DWord) : ExtAns (Except Cause Nat) :=
  if !canonical record then .refused .addrNoncanonical
  else if windowOf record != .global then .refused .addrWindow
  else if record.toNat % 64 != 0 then .refused .launchForm
  else match s.outsideRead host asid record.toNat 64 with
  | .done (v, p) s1 =>
    if p then .refused .ueEngine
    else
      let (r, s2) := s1.acceptLaunch asid bh q false (dwordsOf v 8)
      .done r s2
  | .wait => .wait
  | .fault c => .fault c
  | .refused c => .refused c

end Sys2Proof.Machine
end

