-- ==== Sys2Proof/Machine/Sync.lean ====
section
/-! DEFINITION. Barriers, waits, engine requests, active messages, launches, leave, events, completion objects and the
status reads (0xE8 to 0xF0 and 0xF4 to 0xFE; R361 to R367, R369, R372, R373, R377 to R386). -/

namespace Sys2Proof.Machine

/-- The frame of an instruction with operand N in a compact form (R229). -/
def State.execN (s : State) (op : Byte) (f : Word0) (body : DWord → Group → State → Res) : Out :=
  s.execC op f fun _ g => body (g.compactN f) g

/-- The frame of an instruction with operand N in an extended form (R229). -/
def State.execNExt (s : State) (op : Byte) (f : ExtA) (body : DWord → Group → State → Res) : Out :=
  s.execA op f (body (operandN f))

/-- The cores of a group's team. -/
def State.teamCores (s : State) (g : Group) : List Nat := ((s.team? g.team).map fun t => t.cores).getD []

/-- A group's arrival at barrier `n` (R362), which the cores of its team learn through their forwarding slices (R113, R132). -/
def State.arriveBar (s : State) (g : Group) (n : Nat) : State :=
  let s1 := (s.settleBarrier g.team n).announce (coreOf s.cur) (s.teamCores g)
  let e := ((s1.team? g.team).map fun t => (t.barrier n).episode).getD 0
  ((s1.modTeam g.team fun t => t.setBarrier n ((t.barrier n).arrive g.index)).modGroup s.cur fun g =>
    g.setArrived n (some e)).settleBarrier g.team n

/-- Whether the episode of a group's last arrival at barrier `n` is complete. -/
def State.barDone (s : State) (g : Group) (n : Nat) : Bool :=
  match s.team? g.team, g.arrivedAt n with
  | some t, some e => decide (e < (t.barrier n).episode)
  | _, _ => true

/-- The wait at barrier `n` (R362): its return is an acquire (R132). -/
def State.waitBar (s : State) (g : Group) (n : Nat) (done : State → State) : Res :=
  let s1 := s.settleBarrier g.team n
  match s1.group? s.cur with
  | none => .ok s1
  | some h =>
    if s1.barDone h n then
      .ok ((((done s1).modGroup s.cur fun g => g.setArrived n none).hear (coreOf s.cur) (s.teamCores g)).dropValid (coreOf s.cur))
    else .stall (.bar n) s1

/-- `barar` (R362): a release (R132), then the arrival. -/
def bararBody (v : DWord) (g : Group) (s : State) : Res :=
  let n := v.toNat
  if 15 < n then .trap (.of .operandRange) s
  else if g.two || (g.arrivedAt n).isSome then .trap (.of .barState) s
  else s.release (s.acc g) false fun s1 => .ok (s1.arriveBar g n)

/-- `barwt` (R362). -/
def barwtBody (v : DWord) (g : Group) (s : State) : Res :=
  let n := v.toNat
  if 15 < n then .trap (.of .operandRange) s
  else if g.two || (g.arrivedAt n).isNone then .trap (.of .barState) s
  else s.waitBar g n fun s => s

/-- `bar` (R362): it arrives once, and then waits in its slot. -/
def barBody (v : DWord) (g : Group) (s : State) : Res :=
  let n := v.toNat
  match s.held? s.cur s.curSlot (s.pcNow g) with
  | some p => s.waitBar g n fun s => s.dropPend p.id
  | none =>
    if 15 < n then .trap (.of .operandRange) s
    else if g.two || (g.arrivedAt n).isSome then .trap (.of .barState) s
    else s.release (s.acc g) false fun s1 =>
      let (id, s2) := s1.fresh
      let s3 := s2.arriveBar g n
      (s3.addPend { Pend.of id s.cur s.curSlot (s.pcNow g) 0 with why := .bar n }).waitBar g n fun s => s.dropPend id

/-- BAR (R362): Compact form of bar n with the barrier number in s[B]. -/
def execBar (f : Word0) (s : State) : Out := s.execN 0xE8 f barBody

/-- BAR_EXT (R362): Arrives at team barrier n and waits until every group of the team has arrived. -/
def execBarExt (f : ExtA) (s : State) : Out := s.execNExt 0xE8 f barBody

/-- BARAR (R362): Compact form of barar n. -/
def execBarar (f : Word0) (s : State) : Out := s.execN 0xE9 f bararBody

/-- BARAR_EXT (R362): Records the group's arrival at a team barrier without waiting. -/
def execBararExt (f : ExtA) (s : State) : Out := s.execNExt 0xE9 f bararBody

/-- BARWT (R362): Compact form of barwt n. -/
def execBarwt (f : Word0) (s : State) : Out := s.execN 0xEA f barwtBody

/-- BARWT_EXT (R362): Waits until every group of the team has arrived in the group's episode. -/
def execBarwtExt (f : ExtA) (s : State) : Out := s.execNExt 0xEA f barwtBody

/-- The cores of a group's gang. -/
def State.coresWithGang (s : State) (g : Group) : List Nat := (s.teamsOf (s.gangOf g)).flatMap fun e => e.2.cores

/-- The wait at `gangsync`: its return is an acquire (R132). -/
def State.waitGang (s : State) (g : Group) (done : State → State) : Res :=
  let s1 := s.settleGang (s.gangOf g)
  match s1.group? s.cur, s1.gangLead (s.gangOf g) with
  | some h, some l =>
    if h.gangArrived.elim true fun e => decide (e < l.2.gangSync.episode) then
      .ok ((((done s1).modGroup s.cur fun g => { g with gangArrived := none }).hear (coreOf s.cur) (s.coresWithGang g)).dropValid
        (coreOf s.cur))
    else .stall .gangsync s1
  | _, _ => .ok (done s1)

/-- `gangsync` (R363). -/
def gangsyncBody (g : Group) (s : State) : Res :=
  match s.held? s.cur s.curSlot (s.pcNow g) with
  | some p => s.waitGang g fun s => s.dropPend p.id
  | none =>
    if g.two then .trap (.of .barState) s
    else s.release (s.acc g) false fun s1 =>
      let s2 := s1.settleGang (s.gangOf g)
      match s2.gangLead (s.gangOf g) with
      | none => .ok s2
      | some l =>
        let (id, s3) := (s2.announce (coreOf s.cur) (s.coresWithGang g)).fresh
        let s4 := (s3.modTeam l.1 fun t => { t with gangSync := t.gangSync.arrive (s.gangIndex g) }).modGroup s.cur fun g =>
          { g with gangArrived := some l.2.gangSync.episode }
        (s4.addPend { Pend.of id s.cur s.curSlot (s.pcNow g) 0 with why := .gangsync }).waitGang g fun s => s.dropPend id

/-- GANGSYNC (R363): Barrier over every group of every team of the gang. -/
def execGangsync (f : ExtA) (s : State) : Out := s.execA 0xFA f gangsyncBody

/-- A watch of an aligned 8-byte word of the global window (R364, R331), whose return is an acquire; a watch that its
home slice refused is sent again. -/
def State.watchBody (s : State) (g : Group) (why : Wait) (cond : WatchCond) (a cmp : DWord) : Res :=
  match s.held? s.cur s.curSlot (s.pcNow g) with
  | some p =>
    if p.left != 0 then .stall why s
    else if p.failed then .stall why (s.dropPend p.id)
    else .ok (s.land p)
  | none =>
    if s.acquiring (s.acc g) then .stall .room s
    else match s.resolvePipe s.cur g .globalOnly .load true a 8 with
      | (.error e, s1) => .trap (pipeTrap 0 e) s1
      | (.ok ps, s1) =>
        let c := s1.acc g
        let (id, s2) := s1.fresh
        let q0 := { c.pend id g .none 1 true with hold := true, why := why }
        let (q, s3) := ps.foldl (fun acc p => acc.2.watchPiece c acc.1 cond 0 cmp.toNat p) (q0, s2)
        .stall why (s3.addPend q)

/-- CWAIT (R364): Waits until a byte-countdown object is 0 or less. -/
def execCwait (f : ExtA) (s : State) : Out :=
  s.execA 0xEB f fun g s => s.watchBody g .cwait .leZero (g.rdS f.a + f.w2.signExtend 64) 0

/-- QWAIT (R384): Waits until a completion object holds at least s[B]. -/
def execQwait (f : ExtA) (s : State) : Out :=
  s.execA 0xF8 f fun g s => s.watchBody g .qwait .geU (g.rdS f.a) (g.rdS f.b)

/-- `ecwait` (R134, R365): its return is an acquire. -/
def ecwaitBody (e : Nat) (v : DWord) (g : Group) (s : State) : Res :=
  if 255 < v.toNat then .trap (.of .operandRange) s
  else if g.rdE e ≤ v.toNat then .ok (s.dropValid (coreOf s.cur))
  else .stall .ecwait s

/-- ECWAIT (R365): Compact form of ecwait. -/
def execEcwait (f : Word0) (s : State) : Out := s.execN 0xEC f (ecwaitBody f.a.toNat)

/-- ECWAIT_EXT (R365): Waits until an engine counter is at or below a threshold. -/
def execEcwaitExt (f : ExtA) (s : State) : Out := s.execNExt 0xEC f (ecwaitBody f.a.toNat)

/-- `n` copy requests from consecutive records (R367). -/
def State.kickAll (s : State) (g : Group) (a : DWord) (n : Nat) : State :=
  (List.range n).foldl (fun s i => (s.issueRequest g 0 (.copy (a + BitVec.ofNat 64 (64 * i)) none 0 0 0)).2) s

/-- KICK (R367): Hands n copy request records to the copy engine. -/
def execKick (f : ExtA) (s : State) : Out :=
  s.execA 0xED f fun g s =>
    let a := g.rdS f.a
    let n := f.w2.toNat
    if a.toNat % 64 != 0 then .trap (.of .operandRange) s
    else if 255 < g.rdE 0 + n then .stall .room s
    else s.release (s.acc g) false fun s1 => .ok (s1.kickAll g a n)

/-- Whether a collective request record asks for full rate (R369), as it reads now. -/
def State.fullRate (s : State) (g : Group) (a : DWord) : Bool :=
  match s.readRecord s.cur g (s.pcNow g) 1 (a + 16) with
  | .dwords ds _ _ => bit (ds.headD 0) 45
  | _ => false

/-- COLL (R369): Hands a collective request to the collective engine. -/
def execColl (f : ExtA) (s : State) : Out :=
  s.execA 0xEE f fun g s =>
    let a := g.rdS f.a
    if a.toNat % 64 != 0 then .trap (.of .operandRange) s
    else if 255 < g.rdE 3 + 1 then .stall .room s
    else s.withLeave g (if s.fullRate g a then some 3 else none) fun s0 =>
      s0.release (s0.acc g) false fun s1 => .ok (s1.issueRequest g 3 (.coll a none [])).2

/-- A message record from its dwords (R372): entry, REGS code, core and arguments. -/
def messageRec (ds : List Nat) : Option (DWord × Nat × Nat × List DWord) :=
  let w (i : Nat) : Nat := (ds[i]?).getD 0
  if bits (w 0) 63 56 != 0 || bits (w 0) 1 0 != 0 || bits (w 1) 63 16 != 0 || bits (w 1) 12 5 != 0
      || decide (5 < bits (w 1) 15 13) || decide (23 < bits (w 1) 4 0) then none
  else some (BitVec.ofNat 64 (bits (w 0) 55 2 * 4), bits (w 1) 15 13, bits (w 1) 4 0, (ds.drop 2).map fun d => BitVec.ofNat 64 d)

/-- A reply token (R373): a free value (log 2), but neither 0 nor one in use. -/
def State.freshToken (s : State) (id : Nat) : DWord × State :=
  let (v, s1) := s.free
  (if v == 0 || s.messages.any fun m => m.2.token == v then BitVec.ofNat 64 (id + 1) else v, s1)

/-- A message sent to a core's dispatcher (R372). -/
def State.sendMessage (s : State) (g : Group) (d : Option Nat) (m : DWord × Nat × Nat × List DWord) : State :=
  let (id, s1) := s.fresh
  let (tok, s2) := if d.isSome then s1.freshToken id else (0, s1)
  let core := 24 * bhOf s.cur + m.2.2.1
  let x : ActiveMsg :=
    { token := tok, sender := s.cur, owner := g.uid, slot := s.curSlot, pc := s.pcNow g, pend := d.map fun _ => id, core := core, asid := g.asid
      entry := m.1, regsCode := m.2.1, args := m.2.2.2, answered := false }
  let s3 := (({ s2 with messages := Table.set s2.messages id x } : State).relay (coreOf s.cur) core).modCore core fun c => { c with inbox := c.inbox ++ [id] }
  match d with
  | none => s3
  | some n =>
    let q := { (s.acc g).pend id g (.vec (g.named n) 7) (g.pc s.curSlot).mask false with left := 1 }
    ((s3.modGroup s.cur fun g => { g.emptyDest q.dest with messages := g.messages + 1 })).addPend q

/-- `amsg` (R372): a release; a record that is refused fails with AM_TARGET, and the reply register stays empty. -/
def amsgBody (f : ExtA) (g : Group) (s : State) : Res :=
  let a := g.rdS f.a
  let nr := f.mod.getLsbD 0
  match g.vecCheck [] (if nr then [] else [f.d.toNat, f.d.toNat + 1]) with
  | .trap c => .trap (.of c) s
  | .wait => .stall .register s
  | .go =>
    let other := Cause.operandRange.when (a.toNat % 64 != 0)
    if other.isNone && !nr && 8 ≤ g.messages then .stall .room s
    else s.withRecord g 8 a other fun ds s1 =>
      s1.release (s1.acc g) false fun s2 => match messageRec ds with
        | some m => .ok (s2.sendMessage g (if nr then none else some f.d.toNat) m)
        | none =>
          let s3 := s2.deferFailure s.cur { cause := .amTarget, pc := s.pcNow g, lane := 0, addr := 0, kind := 0 }
          .ok (if nr then s3 else s3.modGroup s.cur fun g => g.emptyDest (.vec (g.named f.d.toNat) 7))

/-- AMSG (R372): Sends an active message to another core of the bulkhead. -/
def execAmsg (f : ExtA) (s : State) : Out := s.execA 0xEF f (amsgBody f)

/-- AMREPLY (R373): Replies to the message that a token names; a token that is 0, forged or answered changes nothing. The
reply is a release. -/
def execAmreply (f : ExtA) (s : State) : Out :=
  s.execA 0xF0 f fun g s =>
    s.release (s.acc g) false fun s1 =>
      let v := g.rdS f.a
      match s1.messages.find? fun m => v != 0 && m.2.token == v with
      | some m => .ok (s1.sendReply m.1 (g.rdS f.b))
      | none => .ok s1

/-- s[D] of `launch` (R377). -/
def launchResult (r : Except Cause Nat) : DWord :=
  match r with
  | .ok n => BitVec.ofNat 64 (n % 2 ^ 48)
  | .error c => BitVec.ofNat 64 (2 ^ 63 + c.code.toNat * 2 ^ 48)

/-- LAUNCH (R377): Enqueues a grid from a launch record on a queue of the issuing context. -/
def execLaunch (f : ExtA) (s : State) : Out :=
  s.execA 0xF4 f fun g s =>
    let a := g.rdS f.a
    s.withRecord g 8 a (Cause.operandRange.when (a.toNat % 64 != 0)) fun ds s1 =>
      s1.release (s1.acc g) false fun s2 =>
        let (r, s3) := (s2.engTake (bhOf s.cur) niCopy (s2.core (coreOf s.cur)).lcc).acceptLaunch g.asid (bhOf s.cur) f.w2.toNat false ds
        .ok (s3.modGroup s.cur fun g => g.wrS f.d (launchResult r))

/-- LEAVE (R378): Requests a leave grant of class n without stalling. -/
def execLeave (f : ExtA) (s : State) : Out := s.execA 0xF5 f fun g s => .ok (s.askLeave g.team f.w2.toNat)

/-- LEAVE_Q (R378): s[D] := whether the team holds the grant. -/
def execLeaveQ (f : ExtA) (s : State) : Out :=
  s.execA 0xF5 f fun g s =>
    let held : Bool := match s.team? g.team with
      | some t => t.held.contains f.w2.toNat
      | none => false
    .ok (s.setGroup s.cur (g.wrS f.d (if held then 1 else 0)))

/-- EVPOST (R382): Posts a software record to the context's event queue; s[D] := whether nothing was posted. -/
def execEvpost (f : ExtA) (s : State) : Out :=
  s.execA 0xF6 f fun g s =>
    s.release (s.acc g) false fun s1 =>
      let b := bhOf s.cur
      let i := s1.inst g.asid b
      let s1 := s1.lcsTake (s1.evqNext g.asid b) (s1.core (coreOf s.cur)).lcc
      if !i.evqEn || i.evqCount == 4096 then
        .ok ((s1.postSup .evqOverflow g.asid b).modGroup s.cur fun g => g.wrS f.d 1)
      else
        .ok ((s1.postCtx g.asid b 0 0 ((s1.grpId s.cur g).toNat % 2 ^ 32) (g.rdS f.a).toNat (g.rdS f.b).toNat
          (g.rdS f.c).toNat).modGroup s.cur fun g => g.wrS f.d 0)

/-- Where the oldest record of a context's event queue stands (R380). -/
def State.evqOldest (s : State) (asid b : Nat) : Nat := (s.inst asid b).evqFrame * 2 ^ 16 + 32 * (s.inst asid b).evqGet

/-- The four dwords of the oldest record of a ring taken (R380): GET passes it. -/
def State.takeEvent (s : State) (asid b : Nat) : List Nat × Option PoisonLevel × State :=
  let a := s.evqOldest asid b
  ((List.range 4).map (fun k => (s.homeRead (a + 8 * k) 8).1), s.poisonOf a 32,
    s.modInst asid b fun i => { i with evqGet := (i.evqGet + 1) % 4096, evqCount := i.evqCount - 1 })

/-- Four scalar registers written (R382). -/
def Group.wrS4 (g : Group) (d : Byte) (ds : List Nat) : Group :=
  (List.range 4).foldl (fun g i => g.wrS (d + BitVec.ofNat 8 i) (BitVec.ofNat 64 ((ds[i]?).getD 0))) g

/-- EVGET (R382): Takes the oldest record of the event queue; an empty ring gives KIND 0xFF, or with `.wait` a wait. Taking
a record is an acquire. -/
def execEvget (f : ExtA) (s : State) : Out :=
  s.execA 0xF7 f fun g s =>
    let b := bhOf s.cur
    if (s.inst g.asid b).evqCount == 0 then
      if f.mod.getLsbD 0 then .stall .evget s
      else .ok (s.setGroup s.cur (g.wrS4 f.d [0xFF * 2 ^ 56, 0, 0, 0]))
    else
      let core := coreOf s.cur
      let (ds, p, s1) := (s.meet core (s.evqOldest g.asid b)).takeEvent g.asid b
      .ok (((s1.modGroup s.cur fun g => g.wrS4 f.d ds).consume s.cur (p.map fun l => l.cause core)).dropValid core)

/-- QSIG (R384): Adds to a completion object, or with `.set` writes it, with an nc atomic at its home slice, as a
release. -/
def execQsig (f : ExtA) (s : State) : Out :=
  s.execA 0xF9 f fun g s =>
    if s.acquiring (s.acc g) then .stall .room s
    else match s.resolvePipe s.cur g .globalOnly .atomic true (g.rdS f.a) 8 with
      | (.error e, s1) => .trap (pipeTrap 2 e) s1
      | (.ok ps, s1) => s1.release (s1.acc g) false fun s2 =>
        let c := s2.acc g
        let k : AtKind := { op := if f.mod.getLsbD 0 then .xchg else .add, wide := true, cas := false, sc := false }
        let (id, s3) := s2.fresh
        let (q, s4) := ps.foldl (fun a p => a.2.atPiece c a.1 k 4 0 (g.rdS f.b).toNat 0 p) (c.pend id g .none 1 false, s3)
        .ok (s4.begin q)

/-- `park` (R383): it waits in its slot, with the core cycles left, or without limit where N is 0. -/
def parkBody (v : DWord) (g : Group) (s : State) : Res :=
  let full : Bool := (s.inst g.asid (bhOf s.cur)).evqCount != 0
  match s.held? s.cur s.curSlot (s.pcNow g) with
  | some p => if full || p.left == 0 then .ok (s.dropPend p.id) else .stall .park s
  | none =>
    if bits v.toNat 63 48 != 0 then .trap (.of .operandRange) s
    else if full then .ok s
    else
      let (id, s1) := s.fresh
      .stall .park (s1.addPend { Pend.of id s.cur s.curSlot (s.pcNow g) (if v == 0 then 2 else 1) with
        why := .park, cycles := v.toNat })

/-- PARK (R383): Compact form of park. -/
def execPark (f : Word0) (s : State) : Out := s.execN 0xFD f parkBody

/-- PARK_EXT (R383): Waits for the event queue to be nonempty or for N resident core cycles. -/
def execParkExt (f : ExtA) (s : State) : Out := s.execNExt 0xFD f parkBody

/-- PARK_EXPIRY (R383): the cycles of a group's `park` have passed. -/
def execParkExpiry (gid : Nat) (s : State) : Out :=
  .next { s with pends := s.pends.map fun p =>
    if p.gid == gid && p.why == .park && p.hold && p.left == 1 && p.cycles == 0 then { p with left := 0 } else p }

/-- The replay rate of a group's launch or task (R385). -/
def State.replayRate (s : State) (g : Group) : Nat :=
  match (s.team? g.team).bind fun t => Table.find s.grids t.grid with
  | some gr => gr.launch.replay
  | none => 0

/-- RUN (R385). -/
def RunKind.code (r : RunKind) : Nat :=
  match r with
  | .original => 0
  | .replay => 1
  | .arbiter => 2

/-- REPLAY (R385): s[D] := the group's verification status. -/
def execReplay (f : ExtA) (s : State) : Out :=
  s.execA 0xFB f fun g s =>
    .ok (s.setGroup s.cur (g.wrS f.d (BitVec.ofNat 64 (8 * s.replayRate g + bitAt g.selected 2 + g.run.code))))

/-- DIGEST (R385): s[D] := the group's running digest. -/
def execDigest (f : ExtA) (s : State) : Out := s.execA 0xFC f (groupBody fun g => .ok (g.wrS f.d g.digest))

/-- CUTQ (R386): s[D] := the step-count cut of the group's job. -/
def execCutq (f : ExtA) (s : State) : Out :=
  s.execA 0xFE f fun g s =>
    let i := s.inst g.asid (bhOf s.cur)
    .ok (s.setGroup s.cur (g.wrS f.d (BitVec.ofNat 64 (bitAt i.cutPending 63 + bitAt i.cutDone 62 + i.cutTarget.toNat))))

end Sys2Proof.Machine
end

