-- ==== Sys2Proof/Machine/DevFabric.lean ====
section
/-! DEFINITION. The fabric (R26, R141, R142, R377, R416 to R423): requests of peers, acknowledgements and replies, links,
and launch packets. -/

namespace Sys2Proof.Machine

/-- The tenant entry that a request from outside names, where it is accepted (R417): valid, with the TID, the source in
its domain, and EXPEN = 1. -/
def State.exporter (s : State) (tid : BitVec 16) (device : Nat) : Option Nat :=
  if !bit s.fabCfg.toNat 63 then none
  else (List.range 8).find? fun n =>
    let e := if h : n < 8 then s.tntShape[n].toNat else 0
    let x := s.fabEntry n
    bit e 63 && bits e 47 32 == tid.toNat && decide (bits x 25 16 ≤ device) && decide (device ≤ bits x 41 32) && bit x 47

/-- A reply sent to a peer. -/
def State.toPeer (s : State) (r : PeerReply) : State := { s with peerReplies := s.peerReplies ++ [r] }

/-- The answer to a peer's request whose bytes lie at `dpas`: it carries the counters of their slices (R96). -/
def State.answerPeer (s : State) (r : FabReq) (dpas : List Nat) (cause : Option Cause) (v : Nat) (poison : Bool) : State :=
  s.toPeer { device := r.device, tag := BitVec.ofNat 64 r.offset, cause := cause, value := BitVec.ofNat 64 v, poison := poison
             counter := dpas.foldl (fun n d => max n (s.lcsOf (bhOfDpa d) (s.homeSlice d))) 0 }

/-- An accepted request of a peer performed in the export aperture and answered (R96, R139, R417): the home slices take its
counter. `keep` says what becomes of one that meets a page fault, `wait` of one that cannot be performed yet. -/
def State.serveFabric (s : State) (r : FabReq) (asid : Nat) (keep : Cause → State) (wait : State) : State :=
  let dpas := match s.reach false asid .load r.offset r.size with
    | .done ps _ => ps.map fun (p : Nat × Nat × Nat) => p.2.2
    | _ => []
  let s1 := dpas.foldl (fun s d => s.lcsTake d r.counter) s
  match r.kind with
  | .load sc => match if sc then s1.outsideScRead false asid r.offset r.size else s1.outsideRead false asid r.offset r.size with
    | .done (v, p) s2 => s2.answerPeer r dpas none v p
    | .refused c => s1.answerPeer r [] (some c) 0 false
    | .fault c => keep c
    | .wait => wait
  | .store _ => match s1.outsideWrite false asid r.offset r.size r.data.toNat r.poison with
    | .done c s2 => s2.answerPeer r dpas c 0 false
    | .refused c => s1.answerPeer r [] (some c) 0 false
    | .fault c => keep c
    | .wait => wait
  | .atomic op sc => match s1.outsideAtomic false asid r.offset r.size op sc r.data.toNat r.cmp.toNat with
    | .done (v, p) s2 => s2.answerPeer r dpas none v p
    | .refused c => s1.answerPeer r [] (some c) 0 false
    | .fault c => keep c
    | .wait => wait

/-- FABRIC_REQUEST (R417): a peer's request is refused, which changes nothing here but sends the answer, or performed in the
export aperture; one that meets a page fault waits for the plex (R69). -/
def execFabricRequest (r : FabReq) (s : State) : Out :=
  match s.exporter r.tid r.device with
  | none => .next (s.answerPeer r [] (some .fabricDevice) 0 false)
  | some n =>
    let asid := s.exportAsid n
    let keep (c : Option Cause) : State := s.keepOutside none asid r.offset r.size (.fabric r) c
    .next (if 2 ^ 42 < r.offset + r.size then s else s.serveFabric r asid (fun c => keep (some c)) (keep none))

/-- A posted write that its target refused (R417): a deferred trap of its group (R29), or the cause of its engine request. -/
def State.postedRefused (s : State) (p : Posted) (c : Cause) : State :=
  match p.req with
  | none => s.deferFailure p.gid { cause := c, pc := p.pc, lane := p.lane, addr := p.va, kind := 1 }
  | some id => match s.request? id with
    | some r => (s.setRequest { r with
        addr := if r.cause.isNone then p.va else r.addr
        access := if r.cause.isNone then 1 else r.access
        owed := r.owed.filter fun w => w.1 != p.piece }).engineDone id (some c)
    | none => s

/-- A posted write taken away. -/
def State.dropPosted (s : State) (id : Nat) : State := { s with posted := s.posted.filter fun p => p.id != id }

/-- Whether a posted write to the device itself must wait: an earlier access of its core to the same place is not performed
(R120, R124). -/
def State.postedBehind (s : State) (p : Posted) : Bool :=
  let core := coreOf p.gid
  (s.posted.any fun q => decide (q.id < p.id) && coreOf q.gid == core && q.device == p.device && overlaps q.offset q.size p.offset p.size)
    || (s.fabWaits.any fun w => decide (w.id < p.id) && w.msg.core == core && w.device == p.device
      && overlaps w.msg.dpa w.msg.size p.offset p.size)
    || match s.exported (bhOf p.gid) .store p.offset with
      | .place _ dpa _ _ => s.unperformed false p.gid dpa p.size
      | .refused _ _ => false

/-- A posted write to the device itself performed (R26, R141). -/
def State.performPosted (s : State) (p : Posted) : State :=
  match s.ownExport (bhOf p.gid) with
  | none => (s.dropPosted p.id).postedRefused p .fabricDevice
  | some asid =>
    let core := coreOf p.gid
    let ds := match s.reach false asid .store p.offset p.size with
      | .done ps _ => ps.map fun (x : Nat × Nat × Nat) => x.2.2
      | _ => []
    if s.postedBehind p then s
    else match (ds.foldl (fun s d => s.lcsTake d (s.core core).lcc) s).outsideWrite false asid p.offset p.size p.data.toNat p.poison with
    | .done none s1 => ds.foldl (fun s d => match p.req.bind s.request? with
        | some r => s.engMeet r.bh r.kind.ni d (s.homeSlice d)
        | none => s.meet core d) (s1.dropPosted p.id)
    | .done (some c) s1 => (s1.dropPosted p.id).postedRefused p c
    | .wait | .fault _ => s
    | .refused c => (s.dropPosted p.id).postedRefused p c

/-- FABRIC_ACK (R26, R96, R141): a posted write is acknowledged as performed, with the counter of the peer's slice, which is a free
value (log 8); one to the device itself is performed now. A lost write is never acknowledged (R142). -/
def execFabricAck (id : Nat) (s : State) : Out :=
  match s.posted.find? fun p => p.id == id && !p.lost with
  | none => .next s
  | some p =>
    if p.device == s.devId then .next (s.performPosted p)
    else if s.linkUp p.device then
      let (lcs, s1) := (s.dropPosted id).free
      match p.req.bind s.request? with
      | some r => .next (s1.engTake r.bh r.kind.ni (lcs.toNat % 2 ^ 60))
      | none => .next (s1.lccTake (coreOf p.gid) (lcs.toNat % 2 ^ 60))
    else .next s

/-- A wait for the fabric taken away. -/
def State.dropFabWait (s : State) (id : Nat) : State := { s with fabWaits := s.fabWaits.filter fun w => w.id != id }

/-- What a `launch.fab` writes (R377) becomes known. -/
def State.packetDone (s : State) (w : FabWait) (v : DWord) : State :=
  let s1 := s.dropFabWait w.id
  match w.msg.pend.bind s1.pend? with
  | some p => s1.setPend { p with left := 0, values := p.values.set 0 v (by decide) }
  | none => s1

/-- A fabric access that fails (R29, R419). -/
def State.failFabric (s : State) (w : FabWait) (c : Cause) : State :=
  if w.msg.kind == .reply then s.packetDone w (launchResult (.error c))
  else
    let s1 := s.dropFabWait w.id
    let s2 := match w.msg.gid with
      | some gid => s1.deferFailure gid { cause := c, pc := w.msg.pc, lane := w.msg.lane, addr := w.msg.va, kind := w.msg.kind.code }
      | none => s1
    s2.arrive w.msg 0 none true

/-- What a message asks of a translation. -/
def MsgKind.translates (k : MsgKind) : AccessKind := if k.isAtomic then .atomic else if k.isStore then .store else .load

/-- An access to the device itself that could not be made at issue goes to its home slice (R26), behind the core's earlier
writes to the same place. -/
def State.serveOwnFabric (s : State) (w : FabWait) : State :=
  if s.posted.any fun p => decide (p.id < w.id) && coreOf p.gid == w.msg.core && p.device == w.device
      && overlaps p.offset p.size w.msg.dpa w.msg.size then s
  else match s.exported (bhOfCore w.msg.core) w.msg.kind.translates w.msg.dpa with
    | .refused c _ => if c.isPage then s else s.failFabric w c
    | .place asid dpa _ s1 =>
      (s1.dropFabWait w.id).send { w.msg with dpa := dpa, asid := asid, va := BitVec.ofNat 64 w.msg.dpa, passed := true }

/-- The value that a peer returned kept in the L1 (R89, R141): the words of an own load become O, with the peer's other bytes of them,
which are free values (log 8); of another load the words that it covers whole become V. -/
def State.keepFabric (s : State) (w : FabWait) (v : Nat) (poison : Option PoisonLevel) : State :=
  let key := fabricKey w.device w.msg.dpa
  if !w.keep then s
  else if w.msg.kind == .ownLoad then
    let (room, s1) := s.l1Room w.msg.core (key / 128)
    let (x, s2) := s1.free
    if !room then s1
    else s2.ownWords w.msg.core ((wordsOf key w.msg.size).map fun k =>
      (k, mergeWord (BitVec.ofNat 32 (x.toNat / 2 ^ (32 * (k % 2)))) k key w.msg.size v)) poison
  else s.fillWords { w.msg with
    dpa := key, tagged := false, poison := poison
    words := (wholeWords key w.msg.size).map fun x => (x, BitVec.ofNat 32 (v / 2 ^ (8 * (4 * x - key)))) }

/-- What a peer answers to a load, store or atomic (R26, R96, R139, R141): a value and a counter, which are free values
(log 8); a watch is answered with a value that meets its condition (R331). -/
def State.peerReply (s : State) (w : FabWait) (poison : Bool) : State :=
  let (x, s1) := s.free
  let (lcs, s2) := s1.free
  let v := if w.msg.kind.isStore then 0 else x.toNat % 2 ^ (8 * w.msg.size)
  let p := if poison then some PoisonLevel.remote else none
  if w.msg.kind.isWatching && !w.msg.cond.holds w.msg.size v w.msg.cmp.toNat then s2
  else (((s2.dropFabWait w.id).lccTake w.msg.core (lcs.toNat % 2 ^ 60)).keepFabric w v p).arrive w.msg v p false

/-- The reply of a fabric load or atomic. -/
def State.fabReply (s : State) (w : FabWait) (poison : Bool) : State :=
  if w.msg.kind == .reply then s
  else if w.device == s.devId then s.serveOwnFabric w
  else if s.linkUp w.device then s.peerReply w poison
  else s

/-- Whether a refusal of an access to a peer may arrive (R416, R417): its own over a link, or FABRIC_DEVICE of this device's gate, which
is closed. -/
def State.refusalComes (s : State) (device : Nat) (c : Cause) : Bool :=
  device != s.devId && (s.linkUp device || (!bit s.fabCfg.toNat 63 && c == .fabricDevice))

/-- A peer's gate or home slice refuses an access of this device with a cause (R26, R29, R100, R417), or this device's own gate does,
which is closed (R416): an input (log 8). -/
def State.fabRefused (s : State) (id : Nat) (c : Cause) : State :=
  match s.posted.find? fun p => p.id == id && !p.lost, s.fabWaits.find? fun w => w.id == id with
  | some p, _ => if s.refusalComes p.device c then (s.dropPosted id).postedRefused p c else s
  | none, some w => if s.refusalComes w.device c && w.msg.kind != .reply then s.failFabric w c else s
  | none, none => s

/-- Every write to the peers of which `p` holds is dropped and counted as lost (R142), and their loads and atomics fail
(R419). `loads` says which of these. -/
def State.loseLink (s : State) (p : Nat → Bool) (loads : FabWait → Bool) : State :=
  let hit := s.posted.filter fun x => p x.device && !x.lost
  let s1 : State := { s with
    posted := s.posted.map fun x => if p x.device then { x with lost := true } else x
    lostWrites := s.lostWrites + hit.length }
  (s1.fabWaits.filter fun w => p w.device && loads w).foldl (fun s w => s.failFabric w .fabricReadLost) s1

/-- RETRAIN_BUDGET_EXPIRY (R142, R419): for a peer whose link retrains, the budget has elapsed since a `.sys` operation
began to wait, or since a load or atomic asked, or a read of a record or of an engine began to wait. -/
def execRetrainBudgetExpiry (device : Nat) (s : State) : Out :=
  let due (since : Nat) : Bool := decide (since + micros s.retrainBudget ≤ s.clock)
  let waits (p : Posted) : Bool := p.device == device && p.req.isNone && match s.group? p.gid with
    | some g => [false, true].any fun k => (g.pc k).live && (g.pc k).waiting && (g.pc k).sysSince.elim false due
    | none => false
  let s1 : State := { s with linkWaits := s.linkWaits.map fun x =>
    if x.device == device && due x.since then { x with lost := true } else x }
  if s.linkOf device != .retraining then .next s
  else if s.posted.any waits then .next (s1.loseLink (fun d => d == device) fun w => due w.since)
  else .next ((s.fabWaits.filter fun w => w.device == device && due w.since).foldl (fun s w => s.failFabric w .fabricReadLost) s1)

/-- The state of a port set. -/
def State.setPort (s : State) (port : Nat) (st : PortState) : State :=
  { s with ports := s.ports.set (port % 16) st (Nat.mod_lt _ (by decide)) }

/-- The state of a port. -/
def State.portState (s : State) (port : Nat) : PortState := s.ports[port % 16]'(Nat.mod_lt _ (by decide))

/-- A port declared down (R142, R418, R419): what is held for its peers is lost. -/
def State.downPort (s : State) (port : Nat) : State :=
  (s.setPort port .down).loseLink (fun d => d != s.devId && s.portOf d == port % 16) fun _ => true

/-- A port that is down begins to train (R418). -/
def State.trainPort (s : State) (port : Nat) : State := if s.portState port == .down then s.setPort port .training else s

/-- The supervisor assigns a peer to a port (R418). -/
def State.assignPeer (s : State) (device port : Nat) : State :=
  if device < 1024 then { s with peerPort := Table.set s.peerPort device (port % 16) } else s

/-- PORT_RETRAINING (R418): a port's retry fails repeatedly. -/
def execPortRetraining (port : Nat) (s : State) : Out :=
  .next (if s.portState port == .up then s.setPort port .retraining else s)

/-- PORT_UP (R418): a port's training succeeds. -/
def execPortUp (port : Nat) (s : State) : Out := .next (s.setPort port .up)

/-- PORT_DOWN (R418): a port's training fails. -/
def execPortDown (port : Nat) (s : State) : Out :=
  .next (if s.portState port == .up then s else s.downPort port)

/-- FORCEDN (R418): the ports named are declared down at once. -/
def execForcedn (ports : BitVec 16) (s : State) : Out :=
  .next (((List.range 16).filter fun p => ports.getLsbD p).foldl (fun s p => s.downPort p) s)

/-- The tokens of a tenant's bucket in a bulkhead (R422): it starts full, and holds at most BURST. -/
def State.bucket (s : State) (n bh : Nat) : Nat :=
  let burst := bits (s.tntQrate[n % 8]'(Nat.mod_lt _ (by decide))).toNat 15 0
  min burst (Table.findD s.tokens (8 * (n % 8) + bh % 8) burst)

/-- A tenant's buckets gain RATE tokens for each millisecond that has begun since the last refill, and hold at most BURST (R422). One
that nothing was taken from stays as it started, full. -/
def State.refill (s : State) (n : Nat) : State :=
  let ms := s.clock / micros 1000
  let r := (s.tntQrate[n % 8]'(Nat.mod_lt _ (by decide))).toNat
  let last := Table.findD s.tokens (64 + n % 8) 0
  if ms ≤ last then s
  else
    let t := (List.range 8).foldl (fun t b =>
        if (Table.find t (8 * (n % 8) + b)).isNone then t
        else Table.set t (8 * (n % 8) + b) (min (bits r 15 0) (s.bucket n b + (ms - last) * bits r 31 16)))
      s.tokens
    { s with tokens := Table.set t (64 + n % 8) ms }

/-- TOKEN_REFILL (R422). -/
def execTokenRefill (n : Nat) (s : State) : Out := .next (s.refill n)

/-- A token taken from a bucket, as the refills so far have left it (R422). -/
def State.takeToken (s : State) (n bh : Nat) : State :=
  let s1 := s.refill n
  { s1 with tokens := Table.set s1.tokens (8 * (n % 8) + bh) (s1.bucket n bh - 1) }

/-- Dword `i` of a launch packet. -/
def packetDword (ds : List Nat) (i : Nat) : Nat := (ds[i]?).getD 0

/-- A launch packet from a device (R156, R423): the cause of its refusal, or the launch number; or it waits for the plex. -/
def State.launchPacket (s : State) (device : Nat) (ds : List Nat) : ExtAns (Except Cause Nat) :=
  let w1 := packetDword ds 1
  let bh := bits w1 22 20
  let q := bits w1 19 16
  if bits w1 63 23 != 0 || (List.range 5).any fun i => packetDword ds (i + 3) != 0 then .done (.error .fabricDevice) s
  else match s.exporter (BitVec.ofNat 16 w1) device with
    | none => .done (.error .fabricDevice) s
    | some n =>
      let rate := (s.tntQrate[n % 8]'(Nat.mod_lt _ (by decide))).toNat
      if !(shapeBulkheads (s.tntShape[n % 8]'(Nat.mod_lt _ (by decide)))).contains bh || !bit rate (48 + q) then
        .done (.error .fabricDevice) s
      else if (s.bh bh).rstPhase != .idle then .done (.error .windowPeerReset) s
      else if bits rate 31 16 == 0 || (s.refill n).bucket n bh == 0 then .done (.error .fabricRate) s
      else match s.launchOutside false (s.exportAsid n) bh q (BitVec.ofNat 64 (packetDword ds 0)) with
        | .done (.ok k) s1 => .done (.ok k) (s1.takeToken n bh)
        | .refused c => .done (.error c) s
        | r => r

/-- The dwords of a packet's bytes. -/
def packetOf (bs : List Byte) : List Nat :=
  (List.range 8).map fun i => (List.range 8).foldl (fun n j => n + ((bs[8 * i + j]?).getD 0).toNat * 2 ^ (8 * j)) 0

/-- The reply to a launch packet (R423): TAG, the cause or none, and the launch number. -/
def State.packetReply (s : State) (device : Nat) (ds : List Nat) (r : Except Cause Nat) : State :=
  s.toPeer { device := device, tag := BitVec.ofNat 64 (packetDword ds 2), poison := false, counter := 0
             cause := match r with | .error c => some c | .ok _ => none
             value := match r with | .error _ => 0 | .ok n => BitVec.ofNat 64 n }

/-- A launch packet of a peer checked, launched where it passes, and answered. -/
def State.takePacket (s : State) (device : Nat) (ds : List Nat) (keep : Cause → State) (wait : State) : State :=
  match s.launchPacket device ds with
  | .done r s1 => s1.packetReply device ds r
  | .refused c => s.packetReply device ds (.error c)
  | .fault c => keep c
  | .wait => wait

/-- FABRIC_LAUNCH_PACKET (R423): a whole packet of 64 bytes from a peer is checked and, where it passes, launches. -/
def execFabricLaunchPacket (device : Nat) (packet : List Byte) (s : State) : Out :=
  if packet.length != 64 then .next s
  else
    let keep (c : Option Cause) : State := s.keepOutside none 0 0 64 (.packet device (packetOf packet)) c
    .next (s.takePacket device (packetOf packet) (fun c => keep (some c)) (keep none))

/-- The packet of a group's `launch.fab` that waits for its reply. -/
def State.packetOfGroup (s : State) (gid : Nat) : Option FabWait :=
  s.fabWaits.find? fun w => w.msg.kind == .reply && w.msg.gid == some gid

/-- FABRIC_LAUNCH_REPLY (R377, R423): the reply of a peer reaches the sending group. -/
def execFabricLaunchReply (g : Nat) (cause : BitVec 7) (number : BitVec 48) (s : State) : Out :=
  match s.packetOfGroup g with
  | none => .next s
  | some w =>
    if w.device == s.devId || !s.linkUp w.device then .next s
    else .next (s.packetDone w
      (if cause == 0 then number.setWidth 64 else BitVec.ofNat 64 (2 ^ 63 + cause.toNat * 2 ^ 48)))

/-- The packet of a `launch.fab` sent (R377). One to the device itself is checked there at once (R26); where its record waits
for the plex, so does the instruction. -/
def State.sendPacket (s : State) (g : Group) (d : Byte) (device : Nat) (ds : List Nat) : Res :=
  if device == s.devId then
    match s.launchPacket device ds with
    | .done r s1 => .ok (s1.modGroup s.cur fun g => g.wrS d (launchResult r))
    | .wait | .fault _ => .stall .fabricLaunch s
    | .refused c => .ok (s.modGroup s.cur fun g => g.wrS d (launchResult (.error c)))
  else
    let (id, s1) := s.fresh
    let c := s1.acc g
    let s2 := s1.addPend { Pend.of id s.cur s.curSlot c.pc 1 with why := .fabricLaunch }
    .stall .fabricLaunch (s2.askFabric (c.msg .reply (some id) 0 0 0 0 8) device 0)

/-- `launch.fab` (R377). -/
def launchFabBody (f : ExtA) (g : Group) (s : State) : Res :=
  match s.held? s.cur s.curSlot (s.pcNow g) with
  | some p =>
    if p.left == 0 then .ok ((s.dropPend p.id).modGroup s.cur fun g => g.wrS f.d (p.values.lane 0))
    else .stall .fabricLaunch s
  | none =>
    let device := (g.rdS f.c).toNat
    let a := g.rdS f.a
    s.withRecord g 8 a (Cause.operandRange.when (decide (1024 ≤ device) || a.toNat % 64 != 0)) fun ds s1 =>
      s1.release (s1.acc g) true fun s2 =>
        if !s2.deviceOk (bhOf s.cur) device then .trap (.of .fabricDevice) s2
        else s2.sendPacket g f.d device ds

/-- LAUNCH_FAB (R377): Sends a fabric launch packet and waits for the reply. -/
def execLaunchFab (f : ExtA) (s : State) : Out := s.execA 0xF4 f (launchFabBody f)

end Sys2Proof.Machine
end

