-- ==== Sys2Proof/Machine/VecFloatLane.lean ====
section
/-! DEFINITION. The lane effects of the floating-point, conversion and block instructions (R287 to R303): what each
active lane receives. The meanings of VecFloat.lean and the sweeps use them. -/

namespace Sys2Proof.Machine

/-- Elements of a floating type in a lane value, computed one by one in ascending order (R265, R287). -/
def elemsFloat (n w : Nat) (fn : Nat → Nat × Flags) : DWord × Flags :=
  (List.range n).foldl (fun (st : DWord × Flags) p =>
    let (c, fl) := fn p
    (st.1 ||| BitVec.ofNat 64 (c % 2 ^ w * 2 ^ (w * p)), st.2.or fl)) (0, .none)

/-- Element `p` of width `w` in a lane value. -/
def part (w : Nat) (x : DWord) (p : Nat) : Nat := x.toNat / 2 ^ (w * p) % 2 ^ w

/-- A binary32 code widened exactly to binary64 (R264); a NaN keeps its sign and stays quiet or signalling. -/
def widen64 (c : Nat) : Nat :=
  match Fmt.f32.value c with
  | .nan => bits c 31 31 * 2 ^ 63 + 0x7FF0000000000000 + bits c 22 0 * 2 ^ 29
  | x => (Fmt.f64.code { mode := .rne, ftz := false, ofns := true } 0 x).1

/-- The second source as codes of a format: a binary64 operation widens an immediate (R264). -/
def VEnv.bCode (v : VEnv) (fm : Fmt) (i : Nat) : DWord :=
  if v.bImm && fm == .f64 then BitVec.ofNat 64 (widen64 ((v.b i).toNat % 2 ^ 32)) else v.b i

/-- `.negb` and `.negc` (R287). -/
def negIf (b : Bool) (x : Exact) : Exact := if b then x.negate else x

/-- An arithmetic effect of two sources on each element of a format (R287, R290). -/
def effArith2 (fm : Fmt) (op : RMode → Exact → Exact → Exact × Flags) : VEff := fun v =>
  let w := fm.width
  let n := if w < 32 then 2 else 1
  .ok (v.each n fun i => elemsFloat n w fun p =>
    let (x, fx) := v.fp.read fm (part w (v.a i) p)
    let (y, fy) := v.fp.read fm (part w (v.bCode fm i) p)
    let (z, fz) := op v.fp.mode x (negIf (v.modBit 2) y)
    let (c, fc) := fm.code v.fp (v.draw i p) z
    (c, ((fx.or fy).or fz).or fc))

/-- A fused effect of three sources on each element of a format (R287). -/
def effFused (fm : Fmt) : VEff := fun v =>
  let w := fm.width
  let n := if w < 32 then 2 else 1
  .ok (v.each n fun i => elemsFloat n w fun p =>
    let (x, fx) := v.fp.read fm (part w (v.a i) p)
    let (y, fy) := v.fp.read fm (part w (v.bCode fm i) p)
    let (z, fz) := v.fp.read fm (part w (v.c i) p)
    let (r, fr) := Exact.fma v.fp.mode x (negIf (v.modBit 2) y) (negIf (v.modBit 3) z)
    let (c, fc) := fm.code v.fp (v.draw i p) r
    (c, (((fx.or fy).or fz).or fr).or fc))

/-- A rounded effect of one source on each element of the format that TY names (R290). -/
def effArith1 (fm : Fmt) (op : Exact → Exact × Flags) : VEff := fun v =>
  let w := fm.width
  let n := if w < 32 then 2 else 1
  .ok (v.each n fun i => elemsFloat n w fun p =>
    let (x, fx) := v.fp.read fm (part w (v.a i) p)
    let (z, fz) := op x
    let (c, fc) := fm.code v.fp (v.draw i p) z
    (c, (fx.or fz).or fc))

/-- The format of TY. -/
def VEnv.fm (v : VEnv) : Fmt := fmtOf v.ty

/-- `vfadd.f32` (R287). -/
def effFadd32 : VEff := effArith2 .f32 Exact.add
/-- `vfsub.f32` (R287). -/
def effFsub32 : VEff := effArith2 .f32 fun m x y => Exact.add m x y.negate
/-- `vfmul.f32` (R287). -/
def effFmul32 : VEff := effArith2 .f32 fun _ => Exact.mul
/-- `vffma.f32` (R287). -/
def effFfma32 : VEff := effFused .f32
/-- `vfadd.f64` (R287). -/
def effFadd64 : VEff := effArith2 .f64 Exact.add
/-- `vfmul.f64` (R287). -/
def effFmul64 : VEff := effArith2 .f64 fun _ => Exact.mul
/-- `vffma.f64` (R287). -/
def effFfma64 : VEff := effFused .f64
/-- `vfadd.f16x2` (R287). -/
def effFaddF16 : VEff := effArith2 .f16 Exact.add
/-- `vffma.f16x2` (R287). -/
def effFfmaF16 : VEff := effFused .f16
/-- `vfadd.b16x2` (R287). -/
def effFaddB16 : VEff := effArith2 .b16 Exact.add
/-- `vffma.b16x2` (R287). -/
def effFfmaB16 : VEff := effFused .b16
/-- `vfdiv.f32` (R290). -/
def effFdiv : VEff := effArith2 .f32 fun _ => Exact.div
/-- `vfsqrt.f32` (R290). -/
def effFsqrt : VEff := effArith1 .f32 Exact.sqrt
/-- `vfrcp` (R290). -/
def effFrcp : VEff := fun v => effArith1 v.fm (fun x => Exact.div (.fin false 1 0 false) x) v
/-- `vfrsqrt` (R290). -/
def effFrsqrt : VEff := fun v => effArith1 v.fm Exact.rsqrt v
/-- `vfexp2` (R290). -/
def effFexp2 : VEff := fun v => effArith1 v.fm Exact.exp2 v
/-- `vflog2` (R290). -/
def effFlog2 : VEff := fun v => effArith1 v.fm Exact.log2 v

/-- An effect on codes that rounds nothing, element by element (R288). -/
def effCodes (op : Fmt → Nat → Nat → Nat × Flags) : VEff := fun v =>
  let fm := v.fm
  let w := fm.width
  .ok (v.each 0 fun i => elemsFloat (if w < 32 then 2 else 1) w fun p =>
    op fm (part w (v.a i) p) (part w (v.bCode fm i) p))

/-- A code without its sign. -/
def Fmt.magnitude (fm : Fmt) (c : Nat) : Nat := c % 2 ^ (fm.width - 1)

/-- A sign operation on one code: a NaN A gives the canonical NaN, with NV when it is signalling (R288). -/
def signOp (fm : Fmt) (a : Nat) (neg : Bool) : Nat × Flags :=
  if (fm.value a).isNan then (fm.nanCode, { nv := fm.signalling a }) else (fm.magnitude a + fm.signBit neg, .none)

/-- Whether a code's sign bit is set. -/
def Fmt.negative (fm : Fmt) (c : Nat) : Bool := bit c (fm.width - 1)

/-- `vfmin` (R288). -/
def effFmin : VEff := effCodes fun fm a b => fMinMax fm false a b
/-- `vfmax` (R288). -/
def effFmax : VEff := effCodes fun fm a b => fMinMax fm true a b
/-- `vfmaxabs` (R288). -/
def effFmaxabs : VEff := effCodes fun fm a b => fMinMax fm true (fm.magnitude a) (fm.magnitude b)
/-- `vfabs` (R288). -/
def effFabs : VEff := effCodes fun fm a _ => signOp fm a false
/-- `vfneg` (R288). -/
def effFneg : VEff := effCodes fun fm a _ => signOp fm a (!fm.negative a)
/-- `vfcopysign` (R288). -/
def effFcopysign : VEff := effCodes fun fm a b => signOp fm a (fm.negative b)

/-- `vfrint` (R288): rounded to an integral value of its own format; FTZ and NX do not apply. -/
def effFrint : VEff := fun v =>
  let fm := v.fm
  let w := fm.width
  let n := if w < 32 then 2 else 1
  .ok (v.each n fun i => elemsFloat n w fun p =>
    let a := part w (v.a i) p
    match fm.value a with
    | .nan => (fm.nanCode, { nv := fm.signalling a })
    | .fin neg m e s =>
      let r := (Exact.fin neg m e s).toInt v.fp.mode (v.draw i p)
      if r.1 == 0 then (fm.signBit neg, .none)
      else ((fm.code { mode := .rne, ftz := false, ofns := true } 0 (Exact.ofInt r.1)).1, .none)
    | _ => (a, .none))

/-- A floating condition by code (R289): whether it holds, and whether a quiet NaN sets NV. -/
def floatCond (cc : Nat) (x y : Exact) : Bool × Bool :=
  let un := x.isNan || y.isNan
  match cc with
  | 0 => (x.eqv y, false)
  | 1 => (!x.eqv y, false)
  | 2 => (x.lt y, true)
  | 3 => (!un && !y.lt x, true)
  | 4 => (y.lt x, true)
  | 5 => (!un && !x.lt y, true)
  | 6 => (un, false)
  | _ => (!un, false)

/-- `vfcmp` (R289). -/
def effFcmp : VEff := fun v =>
  let fm := v.fm
  .ok (v.each 0 fun i =>
    let a := part fm.width (v.a i) 0
    let b := part fm.width (v.bCode fm i) 0
    let (r, loud) := floatCond (v.f.mod.toNat / 4) (fm.value a) (fm.value b)
    let nan := (fm.value a).isNan || (fm.value b).isNan
    (boolLane r, { nv := fm.signalling a || fm.signalling b || (loud && nan) }))

/-- The class mask of a code (R291). -/
def Fmt.classOf (fm : Fmt) (c : Nat) : Nat :=
  let n := fm.negative c
  match fm.value c with
  | .nan => if fm.signalling c then 2 ^ 8 else 2 ^ 9
  | .inf _ => if n then 1 else 2 ^ 7
  | .zero _ => if n then 2 ^ 3 else 2 ^ 4
  | .fin _ _ _ _ => if fm.subnormal c then (if n then 2 ^ 2 else 2 ^ 5) else if n then 2 else 2 ^ 6

/-- `vfclass` (R291). -/
def effFclass : VEff := effCodes fun fm a _ => (fm.classOf a, .none)

/-- `vfscale` (R292): A × 2^n, n being B as i32. -/
def effFscale : VEff := fun v =>
  let fm := v.fm
  .ok (v.each 1 fun i =>
    let (x, fx) := v.fp.read fm (part fm.width (v.a i) 0)
    let (c, fc) := fm.code v.fp (v.draw i 0) (x.scale (sx32 (v.b i)))
    (BitVec.ofNat 64 c, fx.or fc))

/-- `vlscale` (R292): A × LS, or A / LS with MOD bit 2. -/
def effLscale : VEff := fun v =>
  let k : Int := (bits v.g.ls.toNat 30 23 : Nat) - 127
  effArith1 v.fm (fun x => (x.scale (if v.modBit 2 then -k else k), .none)) v

/-- `vfchk` (R292): whether an element is infinite or NaN; with MOD bit 2, OF when any lane is marked. -/
def effFchk : VEff := fun v =>
  let fm := v.fm
  let w := fm.width
  .ok (v.each 0 fun i =>
    let bad := (List.range (if w < 32 then 2 else 1)).any fun p =>
      let x := fm.value (part w (v.a i) p)
      x.isNan || x.isInf
    (boolLane bad, { of_ := bad && v.modBit 2 }))

/-- One level of the tree of R193: neighbours added and rounded, draws counted from `k` of lane 0's counter. -/
def VEnv.treeLevel (v : VEnv) : List Nat → Nat → List Nat × Nat × Flags
  | x :: y :: t, k =>
    let (a, fa) := v.fp.read .f32 x
    let (b, fb) := v.fp.read .f32 y
    let (z, fz) := Exact.add v.fp.mode a b
    let (c, fc) := Fmt.f32.code v.fp (v.draw 0 k) z
    let (r, n, fl) := v.treeLevel t (k + 1)
    (c :: r, n, (((fa.or fb).or fz).or fc).or fl)
  | l, k => (l, k, .none)

/-- `n` levels of the tree. -/
def VEnv.tree (v : VEnv) : Nat → List Nat → Nat → List Nat × Nat × Flags
  | 0, l, k => (l, k, .none)
  | n + 1, l, k =>
    let (l1, k1, f1) := v.treeLevel l k
    let (l2, k2, f2) := v.tree n l1 k1
    (l2, k2, f1.or f2)

/-- The leaves of `vnorm2` (R193): Round(x²) in the active lanes, +0 elsewhere, with their draws. -/
def VEnv.squares (v : VEnv) : List Nat → Nat → List Nat × Nat × Flags
  | [], k => ([], k, .none)
  | i :: t, k =>
    if v.m.getLsbD i then
      let (x, fx) := v.fp.read .f32 (v.a32 i).toNat
      let (z, fz) := Exact.mul x x
      let (c, fc) := Fmt.f32.code v.fp (v.draw 0 k) z
      let (r, n, fl) := v.squares t (k + 1)
      (c :: r, n, ((fx.or fz).or fc).or fl)
    else
      let (r, n, fl) := v.squares t k
      (0 :: r, n, fl)

/-- A reduction through the tree of R193 from its leaves: every draw comes from lane 0's counter. -/
def VEnv.reduce (v : VEnv) (leaves : List Nat × Nat × Flags) : VOut :=
  let (r, n, fl) := v.tree 8 leaves.1 leaves.2.1
  { val := Lanes.all (BitVec.ofNat 64 (r.headD 0)), flags := if v.m == 0 then .none else leaves.2.2.or fl
    draws := fun i => if i == 0 && v.m != 0 && v.fp.mode == .stochastic then n else 0, abs := [] }

/-- `vfsum` (R293): an inactive lane contributes −0. -/
def effFsum : VEff := fun v =>
  .ok (v.reduce ((List.range 256).map (fun i => if v.m.getLsbD i then (v.a32 i).toNat else 0x80000000), 0, .none))
/-- `vnorm2` (R293). -/
def effNorm2 : VEff := fun v => .ok (v.reduce (v.squares (List.range 256) 0))

/-- `vfdot2` (R294): C + A.lo × B.lo + A.hi × B.hi, exact, rounded once to binary32. -/
def effDot2 (fm : Fmt) : VEff := fun v =>
  .ok (v.each 1 fun i =>
    let term (p : Nat) : Exact × Flags :=
      let (x, fx) := v.fp.read fm (part 16 (v.a i) p)
      let (y, fy) := v.fp.read fm (part 16 (v.b i) p)
      let (z, fz) := Exact.mul x y
      (z, (fx.or fy).or fz)
    let (c, fc) := v.fp.read .f32 (part 32 (v.c i) 0)
    let (s1, f1) := Exact.add v.fp.mode (term 0).1 (term 1).1
    let (s2, f2) := Exact.add v.fp.mode s1 c
    let (r, fr) := Fmt.f32.code v.fp (v.draw i 0) s2
    (BitVec.ofNat 64 r, (((((term 0).2.or (term 1).2).or fc).or f1).or f2).or fr))

/-- `vfpack` (R295). -/
def effFpack : VEff := fun v =>
  let fm := v.fm
  .ok (v.each 2 fun i => elemsFloat 2 16 fun p =>
    let (x, fx) := v.fp.read .f32 (part 32 (if p == 0 then v.a i else v.b i) 0)
    let (c, fc) := fm.code v.fp (v.draw i p) x
    (c, fx.or fc))

/-- `vfunpk` (R295): the exact binary32 value of one half. -/
def effFunpk : VEff := fun v =>
  let fm := v.fm
  .ok (v.each 0 fun i =>
    let c := part 16 (v.a i) (if v.modBit 2 then 1 else 0)
    let (r, _) := Fmt.f32.code { mode := .rne, ftz := false, ofns := true } 0 (fm.value c)
    (BitVec.ofNat 64 r, { nv := fm.signalling c }))

/-- The source of a conversion (R296): TY-coded source in MOD bits 5:2, `.hi` the high half. -/
def VEnv.convSource (v : VEnv) (i : Nat) : Nat :=
  let src := v.f.mod.toNat / 4
  let x := (v.a i).toNat
  if v.modBit 1 then x / 2 ^ 16 % 2 ^ 16
  else match src with
    | 14 => x % 16
    | 12 | 13 => x % 256
    | 8 | 9 => x % 2 ^ 16
    | 11 => x
    | 6 | 7 => x
    | _ => x % 2 ^ 32

/-- The rounding environment of a conversion from a format: FTZ applies to conversions from binary32, binary16 and
bfloat16 (R182). -/
def VEnv.convEnv (v : VEnv) (src : Fmt) : FpEnv := { v.fp with ftz := v.fp.ftz && src.flushes }

/-- `vcvt.f` (R296). -/
def effCvtF : VEff := fun v =>
  let src := fmtOf (v.f.mod.toNat / 4)
  let env := v.convEnv src
  let env' : FpEnv := if v.sat then { env with ofns := false } else env
  .ok (v.each 1 fun i =>
    let c := v.convSource i
    let (x, _) := env.read src c
    let (r, fl) := x.convFloat (src.signalling c) v.fm env' (v.draw i 0)
    (BitVec.ofNat 64 r, fl))

/-- `vcvt.fi` (R296). -/
def effCvtFi : VEff := fun v =>
  let src := fmtOf (v.f.mod.toNat / 4)
  let env := v.convEnv src
  .ok (v.each 1 fun i =>
    let (x, _) := env.read src (v.convSource i)
    let (r, fl) := x.convInt v.fp.mode (v.draw i 0) v.ty
    (BitVec.ofInt 64 r, fl))

/-- `vcvt.if` (R296). -/
def effCvtIf : VEff := fun v =>
  .ok (v.each 1 fun i =>
    let x := Exact.ofInt (intOf (v.f.mod.toNat / 4) (v.convSource i))
    let (r, fl) := v.fm.code { v.fp with ftz := false } (v.draw i 0) x
    (BitVec.ofNat 64 r, fl))

/-- The element format of a block instruction (R297): `none` for i8. -/
def blkFmt (f : ExtA) : Option Fmt :=
  match f.mod.toNat / 16 with
  | 1 => some .e3m2
  | 2 => some .e2m3
  | _ => if f.ty == 0 then none else some (fmtOf f.ty.toNat)

/-- Fmax of R190 and R297. -/
def blkFmax (fm : Option Fmt) : Int :=
  match fm with
  | none => 6
  | some g => if g == .e4m3 then 8 else if g == .e5m2 then 15 else if g == .e3m2 then 4 else 2

/-- Sign of element (i, j) of a Hadamard matrix (R191). -/
def hadNeg (i j : Nat) : Bool := popcount (BitVec.ofNat 8 (i &&& j)) % 2 == 1

/-- Element `i` of H_n · x for the sub-block of `n` lanes that holds lane `i`, exact (R191). -/
def hadElem (mode : RMode) (n : Nat) (x : Nat → Exact) (i : Nat) : Exact × Flags :=
  let base := i / n * n
  (List.range n).foldl (fun (st : Exact × Flags) j =>
    let y := negIf (hadNeg (i % n) j) (x (base + j))
    if j == 0 then (y, .none)
    else
      let (z, fz) := Exact.add mode st.1 y
      (z, st.2.or fz)) (.zero false, .none)

/-- The larger of two magnitudes that are no NaN; NaNs count as absent (R190). -/
def maxMag (x y : Exact) : Exact :=
  if y.isNan then x else if x.isNan then y.abs else if x.lt y.abs then y.abs else x

/-- floor(log2 x) − Fmax with its clamp (R190): X and whether it was clamped. -/
def blkScale (amax : Exact) (fmax : Int) : Int × Bool :=
  match amax with
  | .inf _ => (127, true)
  | .fin _ m e _ =>
    let x := e + bitLength m - 1 - fmax
    if 127 < x then (127, true) else if x < -127 then (-127, true) else (x, false)
  | _ => (0, false)

/-- A block maximum as a binary32 magnitude for ABSMAX (R144, R190; log 18 where binary32 does not represent it). -/
def absCode (x : Exact) : Word :=
  match x with
  | .fin _ m e _ =>
    let (c, fl) := Fmt.f32.code { mode := .rne, ftz := false, ofns := true } 0 x.abs
    if fl.nx then Config.wideMagnitude m e else BitVec.ofNat 32 c
  | .inf _ => 0x7F800000
  | _ => 0

/-- One element of a block quantised (R190, R297). -/
def quantElem (fm : Option Fmt) (env : FpEnv) (d : Word) (x : Exact) (signalling : Bool) : Nat × Flags :=
  match fm with
  | none =>
    match x with
    | .nan => (0, { nv := true })
    | .inf neg => (if neg then 0x81 else 0x7F, { sat := true })
    | y =>
      let (n, inexact) := y.toInt env.mode d
      if 127 < n then (0x7F, { sat := true }) else if n < -127 then (0x81, { sat := true })
      else (unsigned 8 n, { nx := inexact })
  | some g =>
    match x with
    | .inf neg => (g.maxCode + g.signBit neg, { sat := true })
    | y =>
      let (c, fl) := y.convFloat signalling g { env with ofns := false } d
      if fl.of_ then (g.maxCode + g.signBit y.neg, { fl with of_ := false, sat := true }) else (c, fl)

/-- What a block of 32 lanes gives: its scale byte, its element codes by position, flags by position, the block's own
flags, and its maximum. -/
structure Block where
  s : Nat
  elem : List (Nat × Flags)
  flags : Flags
  amax : Exact

/-- QuantBlock of R190 on the lanes of block `j`, with the Hadamard option and the fold of R191 and R297. -/
def VEnv.quantBlock (v : VEnv) (j : Nat) : Block :=
  let fm := blkFmt v.f
  let had := v.f.mod.toNat / 4 % 4
  let n := if had == 1 then 16 else 32
  let code (i : Nat) : Nat := if v.m.getLsbD i then (v.a32 i).toNat else 0
  let x (i : Nat) : Exact := (v.fp.read .f32 (code i)).1
  let y (k : Nat) : Exact × Flags :=
    let i := 32 * j + k
    if had == 0 then (x i, .none) else hadElem v.fp.mode n x i
  let ys := (List.range 32).map y
  let amax := ys.foldl (fun a p => maxMag a p.1) (.zero false)
  let (bx, clamped) := blkScale amax (blkFmax fm)
  let s := bx + 127
  let low : Int := if v.modBit 1 then (if had == 1 then 4 else 5) else 0
  let elem := (List.range 32).map fun k =>
    let i := 32 * j + k
    if v.m.getLsbD i then
      let (z, fz) := (ys[k]?).getD (.zero false, .none)
      let sig := Fmt.f32.signalling (code i)
      let (c, fl) := quantElem fm { v.fp with ftz := false } (v.draw i 0) (z.scale (-bx)) sig
      (c, (fz.or fl).or { nv := sig })
    else (0, .none)
  { s := (max (s - low) 0).toNat, elem := elem, flags := { scl := clamped || decide (s - low < 0) }, amax := amax }

/-- `vqblk` (R297). -/
def effQblk : VEff := fun v =>
  let used := (List.range 8).filter fun j => (List.range 32).any fun k => v.m.getLsbD (32 * j + k)
  let blocks := (List.range 8).map fun j => if used.contains j then some (v.quantBlock j) else none
  let at_ (i : Nat) : DWord × Flags :=
    match (blocks[i / 32]?).join with
    | some b =>
      let (c, fl) := (b.elem[i % 32]?).getD (0, .none)
      (BitVec.ofNat 64 (c % 256 + b.s * 256), fl.or b.flags)
    | none => (0, .none)
  .ok { v.each 1 at_ with abs := blocks.filterMap fun b => b.map fun x => absCode x.amax }

/-- `vdqblk` (R298). Of A 7:0 the bits of the format's width are read, and S = 0xFF sets no flag (log 142). -/
def effDqblk : VEff := fun v =>
  .ok (v.each 1 fun i =>
    let a := (v.a i).toNat
    let s := if v.modBit 2 then (v.b i).toNat % 256 else a / 256 % 256
    let env : FpEnv := { v.fp with ftz := false }
    match blkFmt v.f with
    | none =>
      if s == 255 then (BitVec.ofNat 64 Fmt.f32.nanCode, .none)
      else
        let (r, fl) := Fmt.f32.code env (v.draw i 0) ((Exact.ofInt (intOf 0 a)).scale ((s : Int) - 127))
        (BitVec.ofNat 64 r, fl)
    | some g =>
      let c := a % 2 ^ g.width
      if s == 255 then (BitVec.ofNat 64 Fmt.f32.nanCode, .none)
      else
        let (r, fl) := Fmt.f32.code env (v.draw i 0) ((g.value c).scale ((s : Int) - 127))
        (BitVec.ofNat 64 r, fl.or { nv := g.signalling c }))

/-- `vhad` (R300): H_n · x formed exactly, with `.norm` divided by n, rounded once. -/
def effHad : VEff := fun v =>
  let n := if v.f.mod.toNat / 4 == 1 then 16 else 32
  let k : Int := if v.modBit 1 then (if n == 16 then -4 else -5) else 0
  let reads := Lanes.of fun i => v.fp.read .f32 (v.a32 i).toNat
  .ok (v.each 1 fun i =>
    let (z, fz) := hadElem v.fp.mode n (fun j => (reads.lane j).1) i
    let nv := (List.range n).any fun j => (reads.lane (i / n * n + j)).2.nv
    let (c, fc) := Fmt.f32.code v.fp (v.draw i 0) (z.scale k)
    (BitVec.ofNat 64 c, (fz.or fc).or { nv := nv }))

/-- `vcvt.e8` and `vcvt.e4` (R299): `n` registers packed with `w` bits each; with `.cvt` each source is converted from
binary32 first, and its magnitude enqueued: the source's after FTZ, and none for a NaN (log 141). -/
def effPack (n w : Nat) (conv : Bool) : VEff := fun v =>
  let src (i m : Nat) : Nat := (v.g.lane32 (v.f.a.toNat + m) i).toNat
  let lane (i : Nat) : DWord × Flags := elemsFloat n w fun m =>
    if conv then
      let c := src i m
      let (x, _) := v.fp.read .f32 c
      x.convFloat (Fmt.f32.signalling c) v.fm v.fp (v.draw i m)
    else (src i m % 2 ^ w, .none)
  let mags := if conv then
      v.lanes.flatMap fun i => (List.range n).filterMap fun m =>
        let x := (v.fp.read .f32 (src i m)).1
        if x.isNan then none else some (absCode x)
    else []
  .ok { v.each (if conv then n else 0) lane with abs := mags }

/-- `vcvt.e8` (R299): MOD bit 3 packs 6-bit codes, MOD bit 2 converts. -/
def effCvtE8 : VEff := fun v => effPack 4 (if v.modBit 3 then 6 else 8) (v.modBit 2) v
/-- `vcvt.e4` (R299). -/
def effCvtE4 : VEff := fun v => effPack 8 4 (v.modBit 2) v

/-- The ternary code of an integer (R301). -/
def ternCode (x : Int) : Nat := if 0 < x then 1 else if x < 0 then 3 else 0

/-- `vtern` (R301): pack of 16 integer or binary32 registers, or one element of a packed word. -/
def effTern : VEff := fun v =>
  if v.modBit 2 then
    let m := (v.b 0).toNat
    if 15 < m then .error (.of .operandRange)
    else .ok (v.each 0 fun i =>
      match (v.a i).toNat / 4 ^ m % 4 with
      | 1 => (1, .none)
      | 3 => (0xFFFFFFFF, .none)
      | 2 => (0, { tern := true })
      | _ => (0, .none))
  else
    let t := Fmt.f32.value ((v.b 0).toNat % 2 ^ 32)
    .ok (v.each 0 fun i => elemsFloat 16 2 fun m =>
      let x := v.g.lane32 (v.f.a.toNat + m) i
      if v.modBit 3 then
        let y := Fmt.f32.value x.toNat
        if y.isNan then (0, { nv := true })
        else if t.lt y then (1, .none) else if y.lt t.negate then (3, .none) else (0, .none)
      else (ternCode x.toInt, .none))

/-- `vrand` (R302): one draw per active lane, with `.f` its high 24 bits as a binary32 fraction. -/
def effRand : VEff := fun v =>
  let fraction (r : Nat) : Nat :=
    (Fmt.f32.code { mode := .rne, ftz := false, ofns := true } 0 (Exact.mk false (r / 256) (-24))).1
  let o := v.map fun i =>
    let r := (v.draw i 0).toNat
    BitVec.ofNat 64 (if v.modBit 2 then fraction r else r)
  .ok { o with draws := fun i => if v.m.getLsbD i then 1 else 0 }

/-- `absupd` (R303): |A[i]| of each active lane that is no NaN, ascending. -/
def effAbsupd : VEff := fun v =>
  let mags := v.lanes.map fun i => (v.a32 i).toNat % 2 ^ 31
  let o := v.map fun _ => 0
  .ok { o with abs := (mags.filter fun m => decide (m ≤ 0x7F800000)).map fun m => BitVec.ofNat 32 m }

end Sys2Proof.Machine
end

