-- ==== Sys2Proof/Machine/DevEngine.lean ====
section
/-! DEFINITION. The copy engine with the mirror windows (R324, R325, R366 to R368), the collective engine (R369 to R371),
and the retirement of engine requests (R134, R158). -/

namespace Sys2Proof.Machine

/-- A copy record from its dwords (R366): none where R368 refuses it. -/
def copyRec (ds : List Nat) : Option CopyRec :=
  let w (i : Nat) : Nat := (ds[i]?).getD 0
  let rows := bits (w 2) 55 32
  let rowBytes := bits (w 2) 31 0
  if bits (w 2) 63 56 != 0 || bits (w 3) 63 40 != 0 || bits (w 4) 63 40 != 0 || bits (w 7) 23 10 != 0 || bits (w 7) 6 2 != 0
      || decide (2 ≤ bits (w 7) 1 0) || rows == 0 || w 5 % 8 != 0 || w 6 % 8 != 0
      || (decide (1 < rows) && (decide (bits (w 3) 39 0 < rowBytes) || decide (bits (w 4) 39 0 < rowBytes))) then none
  else some
    { src := BitVec.ofNat 64 (w 0), dst := BitVec.ofNat 64 (w 1), rows := rows, rowBytes := rowBytes
      spitch := bits (w 3) 39 0, dpitch := bits (w 4) 39 0, cntdn := BitVec.ofNat 64 (w 5), done := BitVec.ofNat 64 (w 6)
      tag := BitVec.ofNat 32 (bits (w 7) 63 32), fillB := BitVec.ofNat 8 (bits (w 7) 31 24), post := bit (w 7) 9
      fill := bit (w 7) 8, quiet := bit (w 7) 7, drq := bits (w 7) 1 0 }

/-- A copy record whatever it holds, for what its retirement reports (R368). -/
def copyReport (ds : List Nat) : CopyRec :=
  let w (i : Nat) : Nat := (ds[i]?).getD 0
  { src := 0, dst := BitVec.ofNat 64 (w 1), rows := 0, rowBytes := 0, spitch := 0, dpitch := 0, cntdn := 0
    done := BitVec.ofNat 64 (if w 6 % 8 == 0 then w 6 else 0), tag := BitVec.ofNat 32 (bits (w 7) 63 32), fillB := 0
    post := bit (w 7) 9, fill := false, quiet := bit (w 7) 7, drq := 0 }

/-- COPY_REQUEST (R367, R368): the CE reads a copy record; one that is refused fails before any piece. -/
def execCopyRequest (id : Nat) (s : State) : Out :=
  match s.request? id with
  | none => .next s
  | some r => match r.kind with
    | .copy addr none _ _ _ =>
      if !s.works r then .next s
      else match s.engineLoad (s.reqAsker r) addr 64 with
        | .wait s1 => .next s1
        | .fail c a s1 => .next (s1.requestFails id c a 0)
        | .done (v, p) s1 =>
          let ds := dwordsOf v 8
          if p then .next (s1.engineDone id (some .ueEngine))
          else match copyRec ds with
            | some x =>
              let s2 := s1.setRequest { r with kind := .copy addr (some x) 0 0 0 }
              .next (if x.rowBytes == 0 then s2.engineDone id none else s2)
            | none => .next ((s1.setRequest { r with kind := .copy addr (some (copyReport ds)) 0 0 0 }).engineDone id
                (some .copyForm))
    | _ => .next s

/-- The poison of some bytes of an engine's access, by their place in it (R41, R406): `bh` is where they go. -/
def State.piecesPoison (s : State) (bh asid : Nat) (ps : Pieces) (off n : Nat) : Option PoisonLevel :=
  (ps.filter fun p => overlaps p.1 p.2.1 off n).findSome? fun p => match p.2.2 with
    | .mem dpa _ _ _ => PoisonLevel.across (s.poisonOf dpa p.2.1) bh (bhOfDpa dpa)
    | .spad c o => (s.spadLoad c asid o p.2.1).2
    | _ => none

/-- The write last posted to some bytes of a device carries poison (R41). -/
def State.poisonPosted (s : State) (device off n : Nat) : State :=
  match (s.posted.filter fun p => p.device == device && p.offset == off && p.size == n).getLast? with
  | some x => { s with posted := s.posted.map fun p => if p.id == x.id then { p with poison := true } else p }
  | none => s

/-- The writes posted for a piece carry the poison of the bytes that they hold. -/
def State.poisonPosts (s : State) (at_ n off device : Nat) (poison : Nat → Nat → Option PoisonLevel) : State :=
  (wordParts off n).foldl (fun s p =>
    if (poison (at_ + p.1 - off) p.2).isSome then s.poisonPosted device p.1 p.2 else s) s

/-- The words of a destination marked poisoned where the bytes that reached them were; `bh` is where the writes come from. -/
def State.spreadPoison (s : State) (bh asid : Nat) (ps : Pieces) (at_ : Nat → Nat → Option PoisonLevel) : State :=
  ps.foldl (fun s p => match p.2.2 with
    | .mem dpa _ _ _ => (wordsOf dpa p.2.1).foldl (fun s w =>
        let lo := max (4 * w) dpa
        match at_ (p.1 + lo - dpa) (min (4 * w + 4) (dpa + p.2.1) - lo) with
        | some l => s.setPoison w (some l)
        | none => s) s
    | .spad c o => (wordsOf o p.2.1).foldl (fun s w =>
        let lo := max (4 * w) o
        match at_ (p.1 + lo - o) (min (4 * w + 4) (o + p.2.1) - lo) with
        | some l => s.modCore c fun x => { x with poolPoison := Table.set x.poolPoison (poolKey asid (4 * w)) l }
        | none => s) s
    | .fabric d off => s.poisonPosts p.1 p.2.1 off d at_
    | .multicast set off => (mcMembers (s.mcEntry bh set)).foldl (fun s d => s.poisonPosts p.1 p.2.1 off d at_) s) s

/-- Bytes copied by an engine: poison travels with them and is not consumed (R41, R406). -/
def State.engineCopy (s : State) (r : EngReq) (acc : Acc) (src dst : DWord) (n : Nat) : EngAns Unit :=
  let q := s.reqAsker r
  match s.enginePieces q .load 1 src n with
  | .wait s1 => .wait s1
  | .fail c a s1 => .fail c a s1
  | .done ps s1 => match s1.engineLoad q src n with
    | .wait s2 => .wait s2
    | .fail c a s2 => .fail c a s2
    | .done (v, p) s2 =>
      let at_ (off n : Nat) : Option PoisonLevel := s1.piecesPoison r.bh r.asid ps off n
      match s2.engineStore q acc dst n v with
      | .done _ s3 => if p then
          match s3.enginePieces q .store 2 dst n with
          | .done ds s4 => .done () (s4.spreadPoison r.bh r.asid ds at_)
          | _ => .done () s3
        else .done () s3
      | x => x

/-- A copy of which every piece is written and subtracted is done (R367). -/
def State.copyEnd (s : State) (id : Nat) : State :=
  match s.request? id with
  | some r => match r.kind with
    | .copy _ (some x) row _ _ => if x.rows ≤ row && r.owed.isEmpty then s.engineDone id none else s
    | _ => s
  | none => s

/-- The request goes on to the next piece of a copy (R367); `owe` says that its byte count is subtracted when it is performed. -/
def State.pieceDone (s : State) (r : EngReq) (addr : DWord) (x : CopyRec) (row pos written n : Nat) (owe : Bool) : State :=
  let fin := x.rowBytes ≤ pos + n
  let kind : EngKind := .copy addr (some x) (if fin then row + 1 else row) (if fin then 0 else pos + n) (written + n)
  (s.setRequest { r with kind := kind, owed := if owe then r.owed ++ [(written, n)] else r.owed }).copyEnd r.id

/-- The writes of a piece of a copy that were posted and are not acknowledged; lost ones stand among them (R141, R142). -/
def State.piecePosts (s : State) (r : EngReq) (piece : Nat) : List Posted :=
  s.posted.filter fun p => p.req == some r.id && p.piece == piece

/-- A piece whose posted writes are acknowledged (R364). -/
def State.owedPiece (s : State) (r : EngReq) : Option (Nat × Nat) :=
  r.owed.find? fun w => (s.piecePosts r w.1).all fun p => p.lost

/-- An acknowledged piece subtracted at the countdown object (R364); one with a lost write subtracts nothing. A check of the object
that fails fails the request, once (R368). -/
def State.payPiece (s : State) (r : EngReq) (cntdn : DWord) (w : Nat × Nat) : State :=
  let r1 : EngReq := { r with owed := r.owed.filter fun v => v.1 != w.1 }
  let paid (s : State) : State := (s.setRequest r1).copyEnd r.id
  if !(s.piecePosts r w.1).isEmpty then paid s
  else match s.engineAdd (s.reqAsker r) cntdn (-(BitVec.ofNat 64 w.2)) with
    | .wait _ => s
    | .done _ s1 => paid s1
    | .fail c a s1 =>
      if r.finished then paid s1
      else if c.isPage then s.requestFails r.id c a 2
      else (s1.setRequest { r1 with addr := a, access := 2 }).engineDone r.id (some c)

/-- The next piece of a copy (R367): up to the next multiple of 128 bytes of the destination row. -/
def State.copyStep (s : State) (r : EngReq) (addr : DWord) (x : CopyRec) (row pos written : Nat) : State :=
  let dst := x.dst + BitVec.ofNat 64 (row * x.dpitch + pos)
  let src := x.src + BitVec.ofNat 64 (row * x.spitch + pos)
  let n := min (128 - dst.toNat % 128) (x.rowBytes - pos)
  let c : Acc := { r.acc with piece := written }
  let r1 := if x.fill then s.engineStore (s.reqAsker r) c dst n ((List.range n).foldl (fun v _ => v * 256 + x.fillB.toNat) 0)
    else s.engineCopy r c src dst n
  match r1 with
  | .wait s1 => s.waited s1
  | .fail c a s1 => s1.requestFails r.id c a 1
  | .done _ s1 =>
    if x.cntdn == 0 then s1.pieceDone r addr x row pos written n false
    else if !(s1.piecePosts r written).isEmpty then s1.pieceDone r addr x row pos written n true
    else match s1.engineAdd (s.reqAsker r) x.cntdn (-(BitVec.ofNat 64 n)) with
      | .wait _ => s
      | .done _ s2 => s2.pieceDone r addr x row pos written n false
      | .fail f b s2 => (if f.isPage then s else s2).requestFails r.id f b 2

/-- The next piece of a copy between a mirror window and its global range (R324, R325). -/
def State.mirrorStep (s : State) (r : EngReq) (va : DWord) (offset units : Nat) (toSpad : Bool) (pos : Nat) : State :=
  match (r.gid.bind s.group?).bind fun g => s.team? g.team with
  | none => s.engineDone r.id none
  | some t =>
      let part := t.spad / t.cores.length
      let off := offset + pos
      let pad : Pieces := (List.range 16).map fun i =>
        (8 * i, 8, Place.spad ((t.cores[off / part]?).getD 0) (t.padAt (off / part) + off % part + 8 * i))
      let q := s.reqAsker r
      let a := va + BitVec.ofNat 64 pos
      let next (s : State) : State :=
        let s1 := s.setRequest { r with kind := .mirror va offset units toSpad (pos + 128) }
        if 512 * units ≤ pos + 128 then s1.engineDone r.id none else s1
      if toSpad then
        match s.enginePieces q .load 1 a 128, s.engineLoad q a 128 with
        | .done ps _, .done (v, p) s1 =>
          let s2 := pad.foldl (fun s x => match x.2.2 with
            | .spad c o => s.spadStore c r.asid o 8 (pieceOf v x.1 8)
            | _ => s) s1
          next (if p then s2.spreadPoison r.bh r.asid pad fun o n => s1.piecesPoison r.bh r.asid ps o n else s2)
        | .fail c b s1, _ => s1.requestFails r.id c b 0
        | _, .fail c b s1 => s1.requestFails r.id c b 0
        | _, .wait s1 => s.waited s1
        | _, _ => s
      else
        let v := pad.foldl (fun n x => match x.2.2 with
          | .spad c o => n + (s.spadLoad c r.asid o 8).1 * 2 ^ (8 * x.1)
          | _ => n) 0
        match s.engineStore q r.acc a 128 v with
        | .wait _ => s
        | .fail c b s1 => s1.requestFails r.id c b 1
        | .done _ s1 => match s1.enginePieces q .store 2 a 128 with
          | .done ds s2 => next (s2.spreadPoison r.bh r.asid ds fun o n => s.piecesPoison r.bh r.asid pad o n)
          | _ => next s1

/-- COPY_PIECE (R367, R325): the next piece of a copy is written, and the countdown falls. -/
def execCopyPiece (id : Nat) (s : State) : Out :=
  match s.request? id with
  | none => .next s
  | some r =>
    if r.wait.isSome || !s.tenantRuns r.bh r.supervisor then .next s
    else match r.kind with
      | .copy addr (some x) row pos written => match s.owedPiece r with
        | some w => .next (s.payPiece r x.cntdn w)
        | none => .next (if r.finished || x.rows ≤ row then s else s.copyStep r addr x row pos written)
      | .mirror va off units toSpad pos => .next (if r.finished then s else s.mirrorStep r va off units toSpad pos)
      | _ => .next s

/-- A collective record from its dwords (R369): none where a reserved field or value is nonzero. -/
def collRec (ds : List Nat) : Option CollRec :=
  let w (i : Nat) : Nat := (ds[i]?).getD 0
  let op := bits (w 2) 63 56
  let red := bits (w 2) 55 52
  let fc := bits (w 2) 51 47
  let norm := bit (w 2) 46
  let parts := bits (w 3) 11 0 + 1
  if decide (3 < op) || (decide (op < 2) && decide (2 < red)) || !(fc == 4 || fc == 8 || fc == 9 || fc == 10)
      || bits (w 2) 42 40 != 0 || bits (w 2) 39 0 == 0 || bits (w 3) 63 44 != 0 || bits (w 3) 31 28 != 0
      || bits (w 3) 15 12 != 0 || bits (w 7) 31 0 != 0 || (norm && (op != 1 || fc == 4 || w 6 == 0))
      || decide (parts ≤ bits (w 3) 43 32) || (op == 3 && decide (parts ≤ bits (w 3) 27 16)) then none
  else some
    { src := BitVec.ofNat 64 (w 0), dst := BitVec.ofNat 64 (w 1), op := op, red := red, fc := fc, norm := norm
      full := bit (w 2) 45, post := bit (w 2) 44, quiet := bit (w 2) 43, count := bits (w 2) 39 0
      rank := bits (w 3) 43 32, root := bits (w 3) 27 16, parts := parts, table := BitVec.ofNat 64 (w 4)
      done := BitVec.ofNat 64 (w 5), normDst := BitVec.ofNat 64 (w 6), tag := BitVec.ofNat 32 (bits (w 7) 63 32) }

/-- A collective record whatever it holds, for what its retirement reports (R368, R369). -/
def collReport (ds : List Nat) : CollRec :=
  let w (i : Nat) : Nat := (ds[i]?).getD 0
  { src := 0, dst := BitVec.ofNat 64 (w 1), op := 0, red := 0, fc := 4, norm := false, full := false, post := bit (w 2) 44
    quiet := bit (w 2) 43, count := 0, rank := bits (w 3) 43 32, root := 0, parts := bits (w 3) 11 0 + 1
    table := BitVec.ofNat 64 (w 4)
    done := BitVec.ofNat 64 (w 5), normDst := 0, tag := BitVec.ofNat 32 (bits (w 7) 63 32) }

/-- Bytes of an element of a collective. -/
def CollRec.size (x : CollRec) : Nat := if x.fc == 8 || x.fc == 9 then 2 else 4

/-- Bytes that a rank contributes (R369): the SRC of all but a broadcast, whose root alone contributes. -/
def CollRec.given (x : CollRec) (rank : Nat) : Nat :=
  match x.op with
  | 1 => x.parts * x.count * x.size
  | 3 => if rank == x.root then x.count * x.size else 0
  | _ => x.count * x.size

/-- Whether two records agree on what every participant must share (R369). -/
def CollRec.agrees (x y : CollRec) : Bool :=
  x.op == y.op && x.red == y.red && x.fc == y.fc && x.norm == y.norm && x.count == y.count && x.root == y.root
    && x.parts == y.parts && x.tag == y.tag

/-- The entries of a TABLE (R369): device and bulkhead by rank, and whether reserved bits are set. -/
def State.collEntries (s : State) (r : EngReq) (table : DWord) (parts : Nat) : EngAns (List (Nat × Nat) × Bool) :=
  match s.engineLoad (s.reqAsker r) table (2 * parts) with
  | .wait s1 => .wait s1
  | .fail c a s1 => .fail c a s1
  | .done (v, p) s1 =>
    let es := (List.range parts).map fun i => v / 2 ^ (16 * i) % 2 ^ 16
    if p then .fail .ueEngine table s1
    else .done (es.map fun e => (bits e 12 3, bits e 2 0), es.any fun e => bits e 15 13 != 0) s1

/-- The entries of a request's TABLE, or none where reserved bits are set (R369). -/
def State.collTable (s : State) (r : EngReq) (x : CollRec) : EngAns (Option (List (Nat × Nat))) :=
  match s.collEntries r x.table x.parts with
  | .wait s1 => .wait s1
  | .fail c a s1 => .fail c a s1
  | .done (es, reserved) s1 => .done (if reserved then none else some es) s1

/-- A collective request with its record. -/
def EngReq.collOf (r : EngReq) : Option (DWord × CollRec × Table Nat) :=
  match r.kind with
  | .coll a (some x) d => some (a, x, d)
  | _ => none

/-- The request of a participant on this device (R369): by its bulkhead, its rank and the match key. -/
def State.collPeer (s : State) (bh rank : Nat) (tag : Word) : Option EngReq :=
  s.engines.find? fun r => r.bh == bh && !r.finished && match r.collOf with
    | some (_, x, _) => x.rank == rank && x.tag == tag
    | none => false

/-- The data of a rank kept in a request. -/
def State.collKeep (s : State) (id rank v : Nat) : State :=
  match s.request? id with
  | some r => match r.kind with
    | .coll a x d => s.setRequest { r with kind := .coll a x (Table.set d rank v) }
    | _ => s
  | none => s

/-- The participants of this device among entries, by bulkhead and rank, without a request's own. -/
def State.collOthers (s : State) (r : EngReq) (rank : Nat) (es : List (Nat × Nat)) : List (Nat × Nat) :=
  ((List.range es.length).zip es).filterMap fun e =>
    if e.2.1 != s.devId || (e.2.2 == r.bh && e.1 == rank) then none else some (e.2.2, e.1)

/-- A request fails with COLL_FORM, and with it every participant (R369): one of this device that has not issued yet fails
when it does, and `collOwed` keeps that (log 89). -/
def State.collFail (s : State) (r : EngReq) (tag : Word) (others : List (Nat × Nat)) : State :=
  others.foldl (fun s o => match s.collPeer o.1 o.2 tag with
    | some p => (s.setRequest { p with wait := none }).engineDone p.id (some .collForm)
    | none => s.modBh o.1 fun b => { b with collOwed := b.collOwed ++ [(o.2, tag)] })
    (s.engineDone r.id (some .collForm))

/-- A record refused with COLL_FORM (R369): its participants are those of its TABLE, where that can be read. -/
def State.collRefuse (s : State) (r : EngReq) (x : CollRec) : State :=
  s.collFail r x.tag (match s.collEntries r x.table x.parts with
    | .done (es, _) _ => s.collOthers r x.rank es
    | _ => [])

/-- A collective request's first step: its record and its place in TABLE are checked (R369). -/
def State.collBegin (s : State) (r : EngReq) (addr : DWord) : State :=
  match s.engineLoad (s.reqAsker r) addr 64 with
  | .wait s1 => s1
  | .fail c a s1 => s1.requestFails r.id c a 0
  | .done (v, p) s1 =>
    let ds := dwordsOf v 8
    let y := collReport ds
    let r1 : EngReq := { r with kind := .coll addr (some y) [] }
    let refuse (s : State) (c : Cause) : State := (s.setRequest r1).engineDone r.id (some c)
    let mine := (y.rank, y.tag)
    if p then refuse s1 .ueEngine
    else if (s1.bh r.bh).collOwed.contains mine then
      refuse (s1.modBh r.bh fun b => { b with collOwed := b.collOwed.erase mine }) .collForm
    else match collRec ds with
      | none => (s1.setRequest r1).collRefuse r1 y
      | some x => match s1.collTable r x with
        | .wait s2 => s2
        | .fail c a s2 => if c.isPage then s2.requestFails r.id c a 0 else refuse s2 c
        | .done none s2 => (s2.setRequest r1).collRefuse r1 y
        | .done (some es) s2 =>
          if es[x.rank]? != some (s2.devId, r.bh) then (s2.setRequest r1).collRefuse r1 y
          else if es.any fun e => e.1 != s2.devId && !s2.deviceOk r.bh e.1 then refuse s2 .fabricDevice
          else s2.setRequest { r with kind := .coll addr (some x) [] }

/-- What a rank contributes: its own SRC, or that of another participant of this device. -/
def State.collSource (s : State) (r : EngReq) (x : CollRec) (rank : Nat) : State :=
  match s.engineLoad (s.reqAsker r) x.src (x.given rank) with
  | .wait s1 => s1
  | .fail c a s1 => s1.requestFails r.id c a 0
  | .done (v, p) s1 => if p then s1.engineDone r.id (some .ueEngine) else s1.collKeep r.id rank v

/-- Element `i` of what a rank contributes. -/
def CollRec.elem (x : CollRec) (d : Table Nat) (rank i : Nat) : Nat :=
  Table.findD d rank 0 / 2 ^ (8 * x.size * i) % 2 ^ (8 * x.size)

/-- One step of the fold of R370 on codes of FC. -/
def CollRec.fold (x : CollRec) (a b : Nat) : Nat :=
  let env : FpEnv := { mode := .rne, ftz := false, ofns := false }
  let fm := fmtOf x.fc
  match x.fc == 4, x.red with
  | true, 0 => (a + b) % 2 ^ 32
  | true, 1 => if signed 32 a < signed 32 b then b else a
  | true, _ => if signed 32 b < signed 32 a then b else a
  | false, 0 => (fm.code env 0 (Exact.add .rne (fm.value a) (fm.value b)).1).1
  | false, 1 => (fMinMax fm true a b).1
  | false, _ => (fMinMax fm false a b).1

/-- Element `i` reduced over the ranks in ascending order (R370). -/
def CollRec.reduced (x : CollRec) (d : Table Nat) (i : Nat) : Nat :=
  (List.range (x.parts - 1)).foldl (fun acc k => x.fold acc (x.elem d (k + 1) i)) (x.elem d 0 i)

/-- The result elements of a rank (R369). -/
def CollRec.result (x : CollRec) (d : Table Nat) (rank : Nat) : List Nat :=
  match x.op with
  | 0 => (List.range x.count).map fun i => x.reduced d i
  | 1 => (List.range x.count).map fun i => x.reduced d (rank * x.count + i)
  | 2 => (List.range x.parts).flatMap fun k => (List.range x.count).map fun i => x.elem d k i
  | _ => (List.range x.count).map fun i => x.elem d x.root i

/-- The partial of a rank: the sum of the squares of its result elements, rounded once (R371). -/
def CollRec.partialOf (x : CollRec) (d : Table Nat) (rank : Nat) : Nat :=
  let env : FpEnv := { mode := .rne, ftz := false, ofns := false }
  let fm := fmtOf x.fc
  let sum := (x.result d rank).foldl (fun acc c => (Exact.add .rne acc (Exact.mul (fm.value c) (fm.value c)).1).1) (Exact.zero false)
  (Fmt.f32.code env 0 sum).1

/-- The norm of R371: the partials folded as R370 folds. -/
def CollRec.normOf (x : CollRec) (d : Table Nat) : Nat :=
  let y : CollRec := { x with fc := 10, red := 0 }
  (List.range (x.parts - 1)).foldl (fun acc k => y.fold acc (x.partialOf d (k + 1))) (x.partialOf d 0)

/-- Numbers of `w` bits packed, the first lowest. -/
def packAll (w : Nat) (xs : List Nat) : Nat := xs.foldr (fun x n => x % 2 ^ w + 2 ^ w * n) 0

/-- Whether every rank's data has arrived. -/
def CollRec.full? (x : CollRec) (d : Table Nat) : Bool := (List.range x.parts).all fun k => (Table.find d k).isSome

/-- The other participants of this device take what a finishing request holds. -/
def State.collShare (s : State) (x : CollRec) (d : Table Nat) : State :=
  { s with engines := s.engines.map fun r => match r.kind with
      | .coll a (some y) _ => if !r.finished && y.tag == x.tag && y.agrees x then { r with kind := .coll a (some y) d } else r
      | _ => r }

/-- A collective whose data has all arrived is written (R369 to R371). -/
def State.collFinish (s : State) (r : EngReq) (x : CollRec) (d : Table Nat) : State :=
  let q := s.reqAsker r
  let out := x.result d x.rank
  match s.engineStore q r.acc x.dst (out.length * x.size) (packAll (8 * x.size) out) with
  | .wait _ => s
  | .fail c a s1 => s1.requestFails r.id c a 1
  | .done _ s1 =>
    if !x.norm then (s1.collShare x d).engineDone r.id none
    else match s1.engineStore q r.acc x.normDst 4 (x.normOf d) with
      | .wait _ => s
      | .fail c a s2 => s2.requestFails r.id c a 1
      | .done _ s2 => (s2.collShare x d).engineDone r.id none

/-- Two requests that do not match fail, and with them the participants of both (R369). -/
def State.collMismatch (s : State) (r p : EngReq) (x y : CollRec) (es fs : List (Nat × Nat)) : State :=
  let others := (s.collOthers r x.rank es ++ s.collOthers r x.rank fs).eraseDups
  (s.collFail r x.tag (others.filter fun o => o != (p.bh, y.rank))).engineDone p.id (some .collForm)

/-- The data of one rank taken, or asked of its participant. -/
def State.collTake (s : State) (r : EngReq) (x : CollRec) (rank : Nat) (data : List DWord) : State :=
  if rank == x.rank then s.collSource r x rank
  else match s.collTable r x with
  | .wait s1 => s1
  | .fail c a s1 => s1.requestFails r.id c a 0
  | .done none s1 => s1.collRefuse r x
  | .done (some es) s1 => match es[rank]? with
    | none => s1
    | some (device, bh) =>
      if device == s1.devId then
        match s1.collPeer bh rank x.tag with
        | none => s1
        | some p => match p.collOf with
          | none => s1
          | some (_, y, _) => match s1.collTable p y with
            | .done (some fs) _ =>
              if !x.agrees y || es != fs then s1.collMismatch r p x y es fs
              else match s1.engineLoad (s1.reqAsker p) y.src (x.given rank) with
                | .done (v, poison) s2 => if poison then s2.engineDone r.id (some .ueEngine) else s2.collKeep r.id rank v
                | _ => s1
            | _ => s1
      else if !s1.linkUp device then s1
      else if data.length != (x.given rank + 7) / 8 then s1.collRefuse r x
      else s1.collKeep r.id rank (packAll 64 (data.map fun d => d.toNat) % 2 ^ (8 * x.given rank))

/-- COLLECTIVE_STEP (R369 to R371): the CLE reads the request, receives the data of a rank, or, once all have arrived,
writes the result. What a participant of another device sends is an input (log 8); a wrong length is a mismatch. -/
def execCollectiveStep (id : Nat) (rank : Nat) (data : List DWord) (s : State) : Out :=
  match s.request? id with
  | none => .next s
  | some r =>
    if !s.works r then .next s
    else match r.kind with
      | .coll addr none _ => .next (s.collBegin r addr)
      | .coll _ (some x) d =>
        if x.full? d then .next (s.collFinish r x d)
        else if (Table.find d rank).isSome || (s.collPeer r.bh x.rank x.tag).map (fun p => p.id) != some id then .next s
        else .next (s.collTake r x rank data)
      | _ => .next s

/-- COLL_CANCEL (R369, R392): the supervisor cancels a waiting collective. -/
def execCollCancel (id : Nat) (s : State) : Out :=
  match s.request? id with
  | some r => match r.kind with
    | .coll _ _ _ => .next (if r.finished then s else (s.setRequest { r with wait := none }).engineDone id (some .collCancel))
    | _ => .next s
  | none => .next s

/-- The collectives of other requests in which a bulkhead of a device takes part fail with a cause (R369, R397). -/
def State.failCollOf (s : State) (mine : EngReq → Bool) (device bh : Nat) (c : Cause) : State :=
  let hit := s.engines.filter fun r => !mine r && !r.finished && match r.collOf with
    | some (_, x, _) => match s.collTable r x with
      | .done (some es) _ => es.contains (device, bh)
      | _ => false
    | none => false
  hit.foldl (fun s r => (s.setRequest { r with wait := none }).engineDone r.id (some c)) s

/-- The collectives of other requests in which a bulkhead of this device takes part fail with a cause (R369, R397). -/
def State.failCollPeers (s : State) (mine : EngReq → Bool) (bh : Nat) (c : Cause) : State := s.failCollOf mine s.devId bh c

/-- A participant on another device fails the collectives of this one: its bulkhead resets, its context is destroyed, or it has
found a mismatch (R369, R397). It is an input (log 8). -/
def State.peerFailed (s : State) (device bh : Nat) (c : Cause) : State :=
  if device == s.devId || !s.linkUp device || !(c == .windowPeerReset || c == .collPeer || c == .collForm || c == .fabricWriteLost) then s
  else s.failCollOf (fun _ => false) device bh c

/-- Whether a request is the oldest of its class and group (R134). -/
def State.oldest (s : State) (r : EngReq) : Bool :=
  r.gid.isNone || !((s.engines.takeWhile fun x => x.id != r.id).any fun x => x.cls == r.cls && x.gid == r.gid)

/-- Whether the fabric writes of a request are acknowledged or lost (R134, R141), and the counts that it owes subtracted (R364). -/
def State.fabricDone (s : State) (r : EngReq) : Bool := (s.posted.all fun p => p.lost || p.req != some r.id) && r.owed.isEmpty

/-- A fabric write of a request that was lost (R369; log 133). -/
def State.fabricLost (s : State) (r : EngReq) : Option Posted := s.posted.find? fun p => p.lost && p.req == some r.id

/-- The failure of a request (R134, R369): its cause, the address and the kind of the access; one with lost writes fails with
FABRIC_WRITE_LOST (log 133). -/
def State.failureOf (s : State) (r : EngReq) : Option (Cause × DWord × BitVec 2) :=
  match r.cause, s.fabricLost r with
  | some c, _ => some (c, r.addr, r.access)
  | none, some p => some (.fabricWriteLost, p.va, 1)
  | none, none => none

/-- What a retirement reports (R366 to R369): DONE, POST with its KIND, TAG, DST and bytes, and QUIET. -/
def EngKind.report (k : EngKind) : Option (DWord × Bool × Nat × Word × DWord × Nat × Bool) :=
  match k with
  | .copy _ (some x) _ _ w => some (x.done, x.post, 1, x.tag, x.dst, w, x.quiet)
  | .coll _ (some x) _ => some (x.done, x.post, 2, x.tag, x.dst, 0, x.quiet)
  | _ => none

/-- A request retires (R134, R158, R367, R368): its counter falls, its failure reaches the group, DONE advances and its
record is posted. -/
def State.retireRequest (s : State) (r : EngReq) : State :=
  let failure := s.failureOf r
  let c := failure.map fun f => f.1
  let n := s.engCounter r.bh r.kind.ni
  let s0 := r.gid.elim s fun gid => s.lccTake (coreOf gid) n
  let s1 := ({ (s0.engTake r.bh niCopy n).lcsTake (s.evqNext r.asid r.bh) n with
    posted := s0.posted.filter fun p => p.req != some r.id } : State).dropRequest r.id
  let s2 : State := { s1 with pends := s1.pends.map fun p => if p.ge == some r.id && p.hold then { p with left := 0 } else p }
  let s3 := match r.gid with
    | some gid => s2.modGroup gid fun g => g.wrE r.cls (g.rdE r.cls - 1)
    | none => s2
  let quiet : Bool := match r.kind.report with
    | some x => x.2.2.2.2.2.2
    | none => false
  let s4 := match r.gid, failure with
    | some gid, some e => if quiet then s3 else
        s3.deferFailure gid { cause := e.1, pc := r.pc, lane := 0, addr := e.2.1, kind := e.2.2 }
    | _, _ => s3
  match r.kind.report with
  | some (done, post, kind, tag, dst, bytes, _) =>
    let s5 := s4.signal r.bh r.asid r.supervisor done
    if post then s5.postCtx r.asid r.bh kind (c.elim 0 fun c => c.code.toNat) 0 tag.toNat dst.toNat bytes else s5
  | none => s4

/-- An advance of a completion object. -/
def EngReq.isSignal (r : EngReq) : Bool :=
  match r.kind with
  | .signal _ _ => true
  | _ => false

/-- ENGINE_RETIREMENT (R134, R158): the oldest request of its class and group retires once it has finished; an advance of
a completion object is made, by an engine that is in no reset (R45). -/
def execEngineRetirement (id : Nat) (s : State) : Out :=
  match s.request? id with
  | none => .next s
  | some r => match r.kind with
    | .signal addr task => .next (if r.wait.isSome || (s.bh r.bh).down then s else s.trySignal r addr task)
    | _ => .next (if r.finished && s.oldest r && s.fabricDone r then s.retireRequest r else s)

end Sys2Proof.Machine
end

