-- ==== Sys2Proof/Machine/DevHost.lean ====
section
/-! DEFINITION. The host port (R75, R143, R424, R425, R427): BAR2 accesses, doorbells, Hexben's launches, and the zero-length
read of R143. -/

namespace Sys2Proof.Machine

/-- The mapping of a virtual function's aperture that covers `n` bytes at an offset (R425): context and address. -/
def State.mapped (s : State) (vf offset n : Nat) : Option (Nat × Nat) :=
  (s.aperture.find? fun e => e.1 / 2 ^ 36 == vf && decide (e.1 % 2 ^ 36 ≤ offset)
    && decide (offset + n ≤ e.1 % 2 ^ 36 + e.2.1)).map fun e => (e.2.2.1, e.2.2.2.toNat + offset - e.1 % 2 ^ 36)

/-- The bytes of a number. -/
def bytesFrom (v n : Nat) : List Byte := (List.range n).map fun i => BitVec.ofNat 8 (v / 2 ^ (8 * i))

/-- A number from its bytes, the lowest first (R7). -/
def fromBytes (bs : List Byte) : Nat := bs.foldr (fun b n => b.toNat + 256 * n) 0

/-- Whether a virtual function's tenant has a valid shape (R36): without one it reaches nothing of the device. -/
def State.vfShape (s : State) (vf : Nat) : Bool := (s.tntShape[vf % 8]'(Nat.mod_lt _ (by decide))).getLsbD 63

/-- Data that a host receives. -/
def State.toHost (s : State) (vf : Nat) (bs : List Byte) : State := { s with hostData := s.hostData ++ [(vf, bs)] }

/-- A host's access to memory or to a doorbell, which keeps the order in which the endpoint received it (R143). -/
def OutReq.inOrder (r : OutReq) : Bool :=
  r.vf.isSome && match r.kind with
    | .launch _ _ => false
    | _ => true

/-- Whether a host's access must follow one that is kept (R143). -/
def State.hostBehind (s : State) : Bool := s.outside.any OutReq.inOrder

/-- HOST_READ (R143, R425): a read through BAR2 returns what was performed at the home slices; an unmapped one reads all
ones and posts DPA_HOLE, and so does one of a function without a tenant (log 106). A page fault waits for the plex (R75). -/
def execHostRead (vf : Nat) (offset : Nat) (bytes : Nat) (s : State) : Out :=
  if !s.endpointUp then .next s
  else match if s.vfShape vf then s.mapped vf offset bytes else none with
    | none => .next ((s.postSup .dpaHole offset 1).toHost vf (List.replicate bytes 0xFF))
    | some (asid, va) =>
      if s.hostBehind then .next (s.keepOutside (some vf) asid va bytes .read none)
      else match s.outsideRead true asid va bytes with
        | .done (v, _) s1 => .next (s1.toHost vf (bytesFrom v bytes))
        | .fault c => .next (s.keepOutside (some vf) asid va bytes .read (some c))
        | .wait => .next (s.keepOutside (some vf) asid va bytes .read none)
        | .refused _ => .next (s.toHost vf (List.replicate bytes 0xFF))

/-- HOST_WRITE (R143, R425): a write through BAR2 is performed at its home slices; an unmapped one is dropped and posts
DPA_HOLE, and so does one of a function without a tenant (log 106). A page fault waits for the plex (R75), and later accesses
of the host follow it. -/
def execHostWrite (vf : Nat) (offset : Nat) (data : List Byte) (s : State) : Out :=
  if !s.endpointUp then .next s
  else match if s.vfShape vf then s.mapped vf offset data.length else none with
    | none => .next (s.postSup .dpaHole offset 1)
    | some (asid, va) =>
      if s.hostBehind then .next (s.keepOutside (some vf) asid va data.length (.write data) none)
      else match s.outsideWrite true asid va data.length (fromBytes data) false with
        | .done _ s1 => .next s1
        | .fault c => .next (s.keepOutside (some vf) asid va data.length (.write data) (some c))
        | .wait => .next (s.keepOutside (some vf) asid va data.length (.write data) none)
        | .refused _ => .next s

/-- The key of a virtual function's queue among the doorbells, and of the entries that the dispatcher has taken. -/
def bellKey (vf q : Nat) (taken : Bool) : Nat := (if taken then 256 else 0) + 16 * (vf % 8) + q % 16

/-- A doorbell rung: the host has filled the queue up to an index. -/
def State.ring (s : State) (vf q index : Nat) : State := { s with doorbells := Table.set s.doorbells (bellKey vf q false) index }

/-- DOORBELL (R143, R425): the host has filled a queue up to an index; a function without a tenant has no queues (R36). It is a
release: it follows every write of the host that is kept. -/
def execDoorbell (vf : Nat) (q : Nat) (index : Nat) (s : State) : Out :=
  .next (if !(s.endpointUp && s.vfShape vf) then s
    else if s.hostBehind then s.keepOutside (some vf) 0 0 0 (.doorbell q index) none
    else s.ring vf q index)

/-- What the host is told of a launch that was refused: a posted write to its memory (R143, R427). -/
def State.tellHost (s : State) (vf : Nat) (c : Cause) : State :=
  { s with hostData := s.hostData ++ [(vf, [c.code.setWidth 8])], hostWrites := s.hostWrites + 1 }

/-- HOST_LAUNCH (R427, R156): the dispatcher takes the next entry that a doorbell has released; one to a bulkhead outside
the tenant's shape or to a queue outside QMASK is refused. -/
def execHostLaunch (vf : Nat) (q : Nat) (record : DWord) (bh : Nat) (s : State) : Out :=
  let taken := Table.findD s.doorbells (bellKey vf q true) 0
  let kept := s.outside.any fun r => r.vf == some vf && match r.kind with
    | .launch _ k => k == q
    | _ => false
  if !s.endpointUp || kept || taken == Table.findD s.doorbells (bellKey vf q false) 0 then .next s
  else
    let s0 : State := { s with doorbells := Table.set s.doorbells (bellKey vf q true) (taken + 1) }
    let shape := s.tntShape[vf % 8]'(Nat.mod_lt _ (by decide))
    let rate := s.tntQrate[vf % 8]'(Nat.mod_lt _ (by decide))
    if !shape.getLsbD 63 || !(shapeBulkheads shape).contains bh || !rate.getLsbD (48 + q % 16) then
      .next (s0.tellHost vf .launchRefused)
    else
      let asid := bits (s.fabEntry (vf % 8)) 63 48
      match s0.launchOutside true asid bh q record with
      | .done (.ok _) s1 => .next s1
      | .done (.error c) s1 => .next (s1.tellHost vf c)
      | .wait => .next s
      | .fault c => .next (s0.keepOutside (some vf) asid record.toNat 64 (.launch bh q) (some c))
      | .refused c => .next (s0.tellHost vf c)

/-- Ronuri maps a range of a context's global window into a virtual function's aperture of 64 GiB (R75, R425): one that meets no other,
of the context that its tenant exports. -/
def State.mapAperture (s : State) (vf offset bytes asid : Nat) (va : DWord) : State :=
  let other (e : Nat × Nat × Nat × DWord) : Bool := e.1 / 2 ^ 36 == vf % 8 && overlaps (e.1 % 2 ^ 36) e.2.1 offset bytes
  if !s.endpointUp || bytes == 0 || decide (2 ^ 36 < offset + bytes) || windowOf va != .global || !s.vfShape vf
      || asid != s.exportAsid (vf % 8) || s.aperture.any other then s
  else { s with aperture := Table.set s.aperture (2 ^ 36 * (vf % 8) + offset) (bytes, asid, va) }

/-- Ronuri ends the mapping at an offset of a virtual function's aperture (R75, R425). -/
def State.unmapAperture (s : State) (vf offset : Nat) : State :=
  { s with aperture := Table.erase s.aperture (2 ^ 36 * (vf % 8) + offset) }

/-- A MSI-X vector: each of the nine functions has 64 (R424; log 132). -/
def State.msixOf (s : State) (function vector : Nat) : Msix :=
  Table.findD s.msix (64 * (function % 9) + vector % 64) { addr := 0, data := 0, masked := true, pending := false }

/-- A MSI-X vector set. -/
def State.setMsix (s : State) (function vector : Nat) (m : Msix) : State :=
  { s with msix := Table.set s.msix (64 * (function % 9) + vector % 64) m }

/-- A vector's message sent to the host; a masked one stays pending (R424; log 132). -/
def State.msixSend (s : State) (function vector : Nat) : State :=
  let m := s.msixOf function vector
  if !s.endpointUp then s
  else if m.masked then s.setMsix function vector { m with pending := true }
  else { s with hostIrqs := s.hostIrqs ++ [(function % 9, vector % 64)] }

/-- The host writes a vector; one that was pending is sent when it is no longer masked (R424; log 132). -/
def State.msixWrite (s : State) (function vector : Nat) (addr : DWord) (data : Word) (masked : Bool) : State :=
  let m := s.msixOf function vector
  let s1 := s.setMsix function vector { addr := addr, data := data, masked := masked, pending := m.pending && masked }
  if !s.endpointUp then s else if m.pending && !masked then s1.msixSend function vector else s1

/-- An ATS or peer-to-peer request is answered with Unsupported Request (R424). -/
def State.answerUnsupported (s : State) (function : Nat) (ats : Bool) : State :=
  if s.endpointUp then { s with urSent := s.urSent ++ [(function % 9, ats)] } else s

/-- ZERO_LENGTH_READ_COMPLETION (R143): the posted device writes to host memory are flushed for a group that waits at a
`.sys` operation. -/
def execZeroLengthReadCompletion (g : Nat) (s : State) : Out :=
  let s1 : State := { s with hostWrites := 0 }
  .next (s1.modGroup g fun x => if x.wait == .sysRelease then { x with zeroRead := true } else x)

end Sys2Proof.Machine
end

