-- ==== Sys2Proof/Machine/DevPower.lean ====
section
/-! DEFINITION. The power governor of a bulkhead (R167, R449): leave, throttling and the budget. -/

namespace Sys2Proof.Machine

/-- A grant given to a team, or to a binding that refreshes (R167, R354). -/
def State.give (s : State) (bh key cls : Nat) : State :=
  if 2 ^ 40 ≤ key then
    let num := key - spLeaveKey bh 0
    match s.binding? bh num with
    | some b => s.setBinding bh num { b with leaveHeld := true }
    | none => s
  else s.modTeam key fun t => { t with held := t.held ++ [cls], asked := t.asked.filter fun c => c != cls }

/-- LEAVE_GRANT (R449): the oldest request is granted where the model stays within BUDGET, or, where it fits under no set of
grants, when no other is held, with the operating code at 0. -/
def execLeaveGrant (bh : Nat) (s : State) : Out :=
  let b := s.bh bh
  match b.leaveQueue with
  | [] => .next s
  | (key, cls) :: rest =>
    let held := s.grants bh
    let fits := 120 + (held.map leaveWatts).sum + leaveWatts cls ≤ b.pwrBudget
    let alone := b.pwrBudget < 120 + leaveWatts cls && held.isEmpty
    if fits || alone then
      .next ((s.give bh key cls).modBh bh fun x => { x with
        leaveQueue := rest, opp := if alone then 0 else x.opp
        overKey := if alone then some (key, cls) else if x.overKey == some (key, cls) then none else x.overKey })
    else .next s

/-- BH_PWR as it reads (R449). -/
def State.bhPwr (s : State) (bh : Nat) : Nat :=
  let b := s.bh bh
  s.oppCap bh * 2 ^ 40 + (s.grants bh).length % 256 * 2 ^ 32 + b.pwrDraw.toNat * 2 ^ 16 + b.pwrBudget

/-- GOVERNOR_THROTTLE (R449): the draw was above BUDGET for 100 µs, and the operating code falls by one step. -/
def execGovernorThrottle (bh : Nat) (draw : BitVec 16) (s : State) : Out :=
  let s1 := s.modBh bh fun b => { b with pwrDraw := draw }
  let b := s1.bh bh
  let code := min b.pwrHeld b.opp
  if draw.toNat ≤ b.pwrBudget || code == 0 || s1.overGrant bh then .next s1
  else
    let s2 := s1.modBh bh fun b => { b with pwrHeld := code - 1, opp := code - 1 }
    .next ((s2.postSup .governorThrottle bh (code - 1)).molt bh 4 Cause.governorThrottle.code.toNat 0xFF 0 (s2.cyc (24 * bh))
      (s2.bhPwr bh))

/-- GOVERNOR_RECOVER (R449): the draw has stayed below 90 % of BUDGET for 1 ms; what it is then is a free value (log 2). -/
def execGovernorRecover (bh : Nat) (s : State) : Out :=
  let (v, s1) := s.free
  .next (s1.modBh bh fun b =>
    { b with pwrHeld := min 7 (b.pwrHeld + 1), pwrDraw := BitVec.ofNat 16 (v.toNat % max 1 (b.pwrBudget * 9 / 10)) })

/-- BH_PWR_WRITE (R449): BUDGET takes the nearer bound of its range and of the sum over all bulkheads. -/
def execBhPwrWrite (bh : Nat) (v : DWord) (s : State) : Out :=
  let others := ((s.bhs.filter fun b => b.1 != bh).map fun b => b.2.pwrBudget).sum
  .next (s.modBh bh fun b => { b with pwrBudget := min (2400 - others) (clampNat 100 300 (bits v.toNat 15 0)) })

end Sys2Proof.Machine
end

