-- ==== Sys2Proof/Machine/Tender.lean ====
section
/-! DEFINITION. Tendered tasks: task classes (R168, R375), the cost formula (R169), tenders and their broadcasts, bids,
awards and withdrawals (R170 to R172, R374, R376, R433), and the start of a task (R171, R434); active messages at their
dispatchers (R372, R373). -/

namespace Sys2Proof.Machine

/-- A step of a cost formula is well formed (R169): no reserved opcode, and zero in the fields that it does not use. -/
def stepOk (x : BitVec 16) : Bool :=
  let n := x.toNat
  let sr := bits n 11 10
  let imm := bits n 7 0
  bits n 9 8 == 0 && match bits n 15 12 with
    | 0 => sr == 0 && decide (imm < 4)
    | 1 | 4 => sr == 0
    | 2 | 3 | 5 | 6 | 9 => imm == 0
    | 7 => sr == 0 && decide (imm < 16)
    | 8 => true
    | _ => false

/-- A class record from its dwords (R168): only the steps that are used are kept and checked. -/
def classRec (ds : List Nat) : Option ClassRec :=
  let w (i : Nat) : Nat := (ds[i]?).getD 0
  let n := bits (w 3) 2 0 + 1
  let steps := (List.range n).map fun i => BitVec.ofNat 16 (w (i / 4) / 2 ^ (16 * (i % 4)))
  let groups := bits (w 3) 23 16
  if bits (w 2) 63 56 != 0 || bits (w 2) 1 0 != 0 || bits (w 3) 47 32 != 0 || bits (w 3) 6 3 != 0 || groups == 0
      || decide (128 < groups) || decide (5 < bits (w 3) 15 13) || decide (16 < bits (w 3) 12 8) || !steps.all stepOk then none
  else some
    { steps := steps, entry := BitVec.ofNat 64 (bits (w 2) 55 2 * 4), asid := bits (w 3) 63 48, spad := 512 * bits (w 3) 31 24
      groups := groups, regsCode := bits (w 3) 15 13, replay := bits (w 3) 12 8, vbc := bit (w 3) 7 }

/-- BIDLD (R168, R375): Loads a task class from a class record. -/
def execBidld (f : ExtA) (s : State) : Out :=
  s.execA 0xF2 f fun g s =>
    let a := g.rdS f.a
    if !g.sup then .trap (.of .privilege) s
    else s.withRecord g 4 a (Cause.operandRange.when (a.toNat % 32 != 0)) fun ds s1 => match classRec ds with
      | none => .trap (.of .chorusForm) s1
      | some c => .ok (s1.modBh (bhOf s.cur) fun b => { b with classes := Table.set b.classes f.w2.toNat c })

/-- The inputs of a cost formula (R169). -/
structure Inputs where
  res : Nat
  qd : Nat
  dist : Nat
  load : Nat
deriving DecidableEq, Repr

/-- The accumulator and the scratch values S0 to S3 of a cost formula. -/
structure Cost where
  acc : Nat
  sr : Vector Nat 4
deriving DecidableEq, Repr

/-- One step of a cost formula (R169). -/
def Cost.step (c : Cost) (x : Inputs) (w : BitVec 16) : Cost :=
  let n := w.toNat
  let i := bits n 11 10
  let v := c.sr[i % 4]'(Nat.mod_lt _ (by decide))
  let imm := bits n 7 0
  match bits n 15 12 with
  | 0 => { c with acc := match imm % 4 with
      | 0 => x.res
      | 1 => x.qd
      | 2 => x.dist
      | _ => x.load }
  | 1 => { c with acc := imm }
  | 2 => { c with acc := min (c.acc + v) 0xFFFE }
  | 3 => { c with acc := c.acc - v }
  | 4 => { c with acc := min (c.acc * imm) 0xFFFE }
  | 5 => { c with acc := min c.acc v }
  | 6 => { c with acc := max c.acc v }
  | 7 => { c with acc := c.acc / 2 ^ (imm % 16) }
  | 8 => if v == 0 then { c with acc := if imm == 0xFF then 0xFFFF else imm } else c
  | _ => { c with sr := c.sr.set (i % 4) c.acc (Nat.mod_lt _ (by decide)) }

/-- The cost of a class for given inputs (R169). -/
def costOf (steps : List (BitVec 16)) (x : Inputs) : Nat :=
  (steps.foldl (fun (c : Cost) w => c.step x w) ({ acc := 0, sr := Vector.replicate 4 0 } : Cost)).acc

/-- The leaf and its level that map an address of the global window for a context, where a valid one does (R13, R54,
R169): nothing is filled, and no fault is taken. -/
def State.quietLeaf (s : State) (asid va : Nat) : Option (Nat × Nat) :=
  if 2 ^ 55 ≤ va then none
  else match s.leafFor { asid := asid, sup := false, cache := none, pv := false } va with
    | .entry e level _ => if bit e 63 && bit e 62 then some (e, level) else none
    | .format => none

/-- Whether a page of an object counts in RES for a core (R169): a line of it is valid in the core's L1, or a mirror window
of the class's context covers a part of it there. -/
def State.pageHeld (s : State) (core asid lo n page : Nat) : Bool :=
  let a := max lo (65536 * page)
  let b := min (lo + n) (65536 * page + 65536)
  let cached : Bool := match s.quietLeaf asid (65536 * page) with
    | some (e, level) => (s.core core).l1.any fun x =>
      x.1 / 16384 == leafDpa e level (65536 * page) / 65536 && overlaps (65536 * page + 4 * x.1 % 65536 / 128 * 128) 128 a (b - a)
    | none => false
  cached || s.teams.any fun t => t.2.asid == asid && t.2.cores.contains core && t.2.windows.any fun w =>
    !w.2.revoked && overlaps w.2.va.toNat (512 * w.2.units) a (b - a)

/-- DIST of a core (R169). -/
def State.distOf (s : State) (core asid va : Nat) : Nat :=
  match s.quietLeaf asid va with
  | none => 15
  | some (e, level) =>
    let b := bhOfCore core
    let d := leafDpa e level va
    if (leafCheck { asid := asid, sup := false, cache := none, pv := false } .load e level va).isSome || bhOfDpa d != b then 15
    else (((s.bh b).hops[core % 24]'(Nat.mod_lt _ (by decide))).toNat / 2 ^ (4 * s.homeSlice d)) % 16

/-- The inputs of a core, sampled at a broadcast (R169, R433). -/
def State.inputsOf (s : State) (core asid lo n : Nat) : Inputs :=
  let pages := if n == 0 then 0 else (lo + n - 1) / 65536 + 1 - lo / 65536
  let held := ((List.range pages).filter fun i => s.pageHeld core asid lo n (lo / 65536 + i)).length
  { res := min held 255, qd := min (s.core core).tasks.length 63, dist := s.distOf core asid lo
    load := min (s.groups.filter fun g => coreOf g.1 == core).length 127 }

/-- Whether a core bids in a run of a tender (R170, R433). -/
def State.mayBid (s : State) (bh : Nat) (t : Tender) (c : ClassRec) (i : Nat) : Bool :=
  let core := 24 * bh + i
  (t.mask == 0 || t.mask.getLsbD i) && !t.excluded.contains i && !(s.core core).quarantined && s.isSwitchedIn core c.asid
    && !(s.inst c.asid bh).drained && !(s.inst t.asid bh).drained

/-- A broadcast of a tender (R169, R170, R172): the argument record and the inputs are sampled, and every core that bids
sends its cost. -/
def State.broadcast (s : State) (bh : Nat) (t : Tender) : State :=
  let b := s.bh bh
  let q := s.engineAsker niCopy bh t.asid false none
  let word (s : State) (i : Nat) : Nat × State := match s.engineLoad q (t.args + BitVec.ofNat 64 (8 * i)) 8 with
    | .done (v, _) s1 => (v, s1)
    | .wait s1 => (0, s1)
    | .fail _ _ s1 => (0, s1)
  let (lo, s1) := word s 0
  let (n, s2) := word s1 1
  let (done, s3) := word s2 2
  let c := Table.find b.classes t.cls
  let bids := match c with
    | none => []
    | some c => (List.range 24).filterMap fun i =>
      if s3.mayBid bh t c i then
        let v := costOf c.steps (s3.inputsOf (24 * bh + i) c.asid lo n)
        if v == 0xFFFF then none else some (i, v)
      else none
  s3.modTender bh t.seq fun t =>
    { t with st := .bidding, work := c, done := BitVec.ofNat 64 done, since := s.clock, win := b.chorusWin
             lim := b.chorusWdlim, bids := bids, lost := [] }

/-- Whether a tender stands with the chorus network, which serves one at a time (R170). -/
def Tender.inService (t : Tender) : Bool := t.st == .bidding || t.st == .awarded

/-- The tender that a bulkhead's chorus serves. -/
def Bulkhead.served? (b : Bulkhead) : Option Tender := b.tenders.find? fun t => t.inService

/-- TENDER_BROADCAST (R169, R170): the oldest waiting tender is broadcast when none is in service. -/
def execTenderBroadcast (bh : Nat) (s : State) : Out :=
  let b := s.bh bh
  if b.served?.isSome then .next s
  else match b.tenders.find? fun t => t.st == .waiting with
    | some t => .next (s.broadcast bh t)
    | none => .next s

/-- A tender without a bid (R171): its group takes TENDER_UNPLACED. -/
def State.unplace (s : State) (bh : Nat) (t : Tender) (c : Cause) : State :=
  (s.modTender bh t.seq fun t => { t with st := .unplaced }).deferTo t.owner
    { cause := c, pc := t.pc, lane := 0, addr := 0, kind := 0 }

/-- The winner among bids (R171): the lowest cost, and among ties the first in cyclic order from seq mod 24. -/
def winnerOf (seq : Nat) (bids : List (Nat × Nat)) : Option (Nat × Nat) :=
  let key (b : Nat × Nat) : Nat := b.2 * 24 + (b.1 + 24 - seq % 24) % 24
  bids.foldl (fun best b => match best with
    | none => some b
    | some x => if key b < key x then some b else some x) none

/-- BID_WINDOW_END (R170, R171): after the window the lowest bid wins the award. -/
def execBidWindowEnd (bh : Nat) (s : State) : Out :=
  match (s.bh bh).served? with
  | some t =>
    if t.st != .bidding || s.clock < t.since + t.win then .next s
    else match winnerOf t.seq t.bids with
      | some (w, c) => .next (s.modTender bh t.seq fun t => { t with st := .awarded, winner := w, cost := c })
      | none => .next (s.unplace bh t .tenderUnplaced)
  | none => .next s

/-- Whether the winner of a tender must withdraw (R171). -/
def State.mustWithdraw (s : State) (bh : Nat) (t : Tender) (c : ClassRec) : Bool :=
  let core := 24 * bh + t.winner
  decide (63 ≤ (s.core core).tasks.length) || (s.core core).quarantined || t.lost.contains t.winner
    || !s.isSwitchedIn core c.asid

/-- The tender whose award is out, with the class of its broadcast. -/
def State.award? (s : State) (bh : Nat) : Option (Tender × ClassRec) :=
  match (s.bh bh).served? with
  | some t => if t.st == .awarded then t.work.map fun c => (t, c) else none
  | none => none

/-- AWARD_ACCEPT (R171): the winner takes the task into its queue, as an acquire; its withdrawals are counted anew. -/
def execAwardAccept (bh : Nat) (s : State) : Out :=
  match s.award? bh with
  | none => .next s
  | some (t, c) =>
    if s.mustWithdraw bh t c then .next s
    else
      let core := 24 * bh + t.winner
      let x : Task := { bh := bh, seq := t.seq, work := c, args := t.args, done := t.done, tenderer := t.core }
      .next (((s.modCore core fun k => { k with tasks := k.tasks ++ [x], withdrawals := 0 }).dropValid core).modTender bh t.seq
        fun t => { t with st := .accepted })

/-- A core's withdrawal counted (R171, R381, R413). -/
def State.countWithdrawal (s : State) (core lim : Nat) : State :=
  let n := (s.core core).withdrawals + 1
  if lim ≤ n then
    ((s.modCore core fun k => { k with withdrawals := 0 }).postSup .withdrawnBid core n).suspect core 8
  else s.modCore core fun k => { k with withdrawals := n }

/-- BID_WITHDRAWAL (R171): the winner withdraws, and the tender runs again without it. -/
def execBidWithdrawal (bh : Nat) (s : State) : Out :=
  match s.award? bh with
  | none => .next s
  | some (t, c) =>
    if !s.mustWithdraw bh t c then .next s
    else
      let s1 := s.countWithdrawal (24 * bh + t.winner) t.lim
      let t1 := { t with excluded := t.excluded ++ [t.winner], wdrawn := min (t.wdrawn + 1) 15 }
      .next ((s1.modTender bh t.seq fun _ => t1).broadcast bh t1)

/-- CHORUS_FAULT (R392, 0x4E): an uncorrectable error in the chorus network; waiting tenders take TENDER_UNPLACED. -/
def execChorusFault (bh : Nat) (s : State) : Out :=
  let ts := (s.bh bh).tenders.filter fun t => t.st == .waiting || t.inService
  .next (ts.foldl (fun s t => s.unplace bh t .tenderUnplaced) (s.postSup .chorusFault bh 0))

/-- `tender` (R374, R170): the argument record is checked, and the tender is a release towards its task. -/
def tenderBody (f : ExtA) (g : Group) (s : State) : Res :=
  let a := g.rdS f.a
  let m := g.rdS f.b
  let b := bhOf s.cur
  let other := Cause.operandRange.when (bits m.toNat 63 24 != 0 || a.toNat % 32 != 0)
  if other.isNone && decide (64 ≤ ((s.bh b).tenders.filter fun t => t.st == .waiting).length) then .stall .room s
  else s.withRecord g 4 a other fun _ s1 =>
    s1.release (s1.acc g) false fun s2 =>
      let n := (s2.bh b).chorusSeq
      let t : Tender :=
        { seq := n, cls := f.w2.toNat, args := a, mask := m.setWidth 24, owner := g.uid, core := coreOf s.cur, pc := s.pcNow g
          asid := g.asid, st := .waiting, work := none, done := 0, since := 0, win := 0, lim := 0, excluded := [], bids := []
          lost := [], winner := 0, cost := 0, wdrawn := 0 }
      let old (t : Tender) : Bool := (n + 1 + 2 ^ 32 - t.seq) % 2 ^ 32 ≤ 256 || !(t.st == .done || t.st == .unplaced)
      .ok ((s2.modBh b fun x =>
        { x with chorusSeq := (n + 1) % 2 ^ 32, tenders := (x.tenders.filter old) ++ [t] }).modGroup s.cur fun g =>
          g.wrS f.d (BitVec.ofNat 64 n))

/-- TENDER (R374): Tenders a task class to the bulkhead's cores. -/
def execTender (f : ExtA) (s : State) : Out := s.execA 0xF1 f (tenderBody f)

/-- STATE of a tender (R376). -/
def TenderState.code (t : TenderState) : Nat :=
  match t with
  | .waiting => 0
  | .bidding => 1
  | .awarded => 2
  | .accepted => 3
  | .running => 4
  | .done => 5
  | .unplaced => 6

/-- Whether a core, cost or later state has been reached once (R376). -/
def Tender.word (t : Tender) : DWord :=
  BitVec.ofNat 64 (t.st.code * 2 ^ 61 + t.winner * 2 ^ 48 + t.cost * 2 ^ 32 + t.wdrawn * 2 ^ 28)

/-- TQUERY (R376): Reports the state of a tender; the bulkhead keeps the last 256. -/
def execTquery (f : ExtA) (s : State) : Out :=
  s.execA 0xF3 f fun g s =>
    let v := (g.rdS f.a).toNat
    let b := s.bh (bhOf s.cur)
    if 2 ^ 32 ≤ v then .trap (.of .operandRange) s
    else
      let age := (b.chorusSeq + 2 ^ 32 - v) % 2 ^ 32
      let w := match b.tenders.find? fun t => t.seq == v with
        | some t => if t.asid == g.asid && age != 0 && decide (age ≤ 256) then t.word else 7 <<< 61
        | none => 7 <<< 61
      .ok (s.setGroup s.cur (g.wrS f.d w))

/-- A team of one core placed there, where it fits (R160, R168). -/
def State.fitOn (s : State) (core asid : Nat) (x : Need) : Option Fit := (fitAt [s.room core asid] core 0 1 x).map fun e => e.1

/-- The grid of one team that a task counts as (R184, R434). -/
def Task.grid (t : Task) : Grid :=
  let c := t.work
  { asid := c.asid, bh := t.bh, queue := 0, number := 0, supervisor := false
    launch := { entry := c.entry, teams := 1, gang := 1, stage := 0, groups := c.groups, regsCode := c.regsCode
                replay := c.replay, vbc := c.vbc, opp := 0, seed := 0, acct := 0, spad := c.spad, args := t.args, done := t.done
                wait := 0, wval := 0 }
    ready := true, placed := 1, retired := 0, cause := none, taskSeq := some t.seq, taskCore := t.tenderer, reported := false, started := [] }

/-- TASK_START (R171, R374, R434): the dispatcher of a core starts its oldest task when its team has room. -/
def execTaskStart (core : Nat) (s : State) : Out :=
  match (s.core core).tasks with
  | [] => .next s
  | t :: rest =>
    let gr := t.grid
    match if s.isResident core t.work.asid then s.fitOn core t.work.asid gr.launch.need else none with
    | none => .next s
    | some f =>
      let (id, s1) := s.fresh
      let (gang, s2) := s1.fresh
      let s3 := ({ s2 with grids := Table.set s2.grids id gr } : State).modCore core fun k => { k with tasks := rest }
      let tm := Team.at (.task t.bh t.seq) id gang t.work.asid t.bh f.cores 0 0 gr.launch.need f.spadBases
      let args : List (Nat × DWord) := [(1, t.args), (2, BitVec.ofNat 64 t.seq), (3, BitVec.ofNat 64 t.tenderer)]
      let (_, s4) := s3.startTeam tm f false gr.launch.need.regs t.work.replay (BitVec.ofNat 64 t.seq) t.work.entry .original args
      .next (s4.modTender t.bh t.seq fun t => { t with st := .running })

/-- A message refused at its target (R372): the sender takes AM_TARGET, and its reply register stays empty. -/
def State.refuseMessage (s : State) (id : Nat) (m : ActiveMsg) (c : Cause) : State :=
  let s1 : State := { s with messages := Table.erase s.messages id }
  let s2 := s1.deferTo m.owner { cause := c, pc := m.pc, lane := 0, addr := 0, kind := 0 }
  match m.pend with
  | some p => if m.answered then s2 else (s2.dropPend p).modGroup m.sender fun g => { g with messages := g.messages - 1 }
  | none => s2

/-- What a handler's one-group team needs (R373). -/
def ActiveMsg.need (m : ActiveMsg) : Need := { indices := [0], groups := 1, regs := regsOf m.regsCode, spad := 0, acct := 0 }

/-- s1 to s7 of a handler (R373). -/
def ActiveMsg.regs (m : ActiveMsg) : List (Nat × DWord) :=
  ((List.range 6).map fun i => (i + 1, (m.args[i]?).getD 0)) ++ [(7, m.token)]

/-- A handler started (R373): its start is an acquire. -/
def State.startHandler (s : State) (core id : Nat) (m : ActiveMsg) (f : Fit) : State :=
  let (gang, s1) := s.fresh
  let tm := Team.at (.message id) noGrid gang m.asid (bhOfCore core) f.cores 16777215 0 m.need f.spadBases
  (s1.startTeam tm f false m.need.regs 0 0 m.entry .original m.regs).2.dropValid core

/-- What the dispatcher of a core can do with a message now (R372): refuse it, start its handler, or nothing. -/
def State.dispatchOne (s : State) (core id : Nat) : Option State :=
  let taken (s : State) : State := s.modCore core fun k => { k with inbox := k.inbox.filter fun i => i != id }
  match Table.find s.messages id with
  | none => some (taken s)
  | some m =>
    if (s.core core).quarantined || !s.isResident core m.asid then some ((taken s).refuseMessage id m .amTarget)
    else if !s.isSwitchedIn core m.asid then none
    else (s.fitOn core m.asid m.need).map fun f => (taken s).startHandler core id m f

/-- AM_DISPATCH (R372, R373): the first of the dispatcher's 64 messages that need not wait. -/
def execAmDispatch (core : Nat) (s : State) : Out :=
  .next ((((s.core core).inbox.take 64).findSome? fun id => s.dispatchOne core id).getD s)

/-- AM_REPLY_LANDING (R373): a reply lands in the lanes marked empty, and marks them full. -/
def execAmReplyLanding (id : Nat) (s : State) : Out :=
  s.onMsg id (fun k => k == .amReply) fun m =>
    let s1 := (s.dropMsg m.id).lccTake m.core m.counter
    match m.pend.bind s.pend? with
    | none => s1
    | some q =>
      let q1 := { q with values := Lanes.all m.data, left := 0 }
      ((s1.setPend q1).land q1).modGroup q.gid fun g => { g with messages := g.messages - 1 }

end Sys2Proof.Machine
end

