-- ==== Sys2Proof/Machine/Image.lean ====
section
/-! DEFINITION. Context images: their bytes (R400 to R402), the gangs that they hold (R163, R332, R348, R399), and the
return of a gang from its image (R24, R147, R160, R161, R399). What an image's fields hold is read back from its bytes. What they
do not name is kept beside the image that the device wrote, and stands as at a start in an image that it did not write (log 33). -/

namespace Sys2Proof.Machine

/-- Fields stored one after the other: each a number of bytes and a value. -/
def putFields (m : Memory) (off : Nat) : List (Nat × Nat) → Memory
  | [] => m
  | (n, v) :: t => putFields (Memory.store m off n v) (off + n) t

/-- Dwords stored one after the other. -/
def putDwords (m : Memory) (off : Nat) (ds : List Nat) : Memory := putFields m off (ds.map fun d => (8, d))

/-- A shape record (R258). -/
def Shape.words (h : Shape) : List Nat := [h.base.toNat, h.rows.toNat * 2 ^ 32 + h.cols.toNat, h.pitch.toNat, h.fc.toNat]

/-- A translation register (R61). -/
def TransReg.words (t : TransReg) : List Nat :=
  [t.limit.toNat % 2 ^ 8 * 2 ^ 56 + t.va.toNat,
   bitAt t.v 63 + bitAt t.w 62 + bitAt t.cw 61 + bitAt t.fz 60 + bitAt t.nc 59 + bitAt t.s 58 + t.frame.toNat * 2 ^ 32
     + t.limit.toNat / 2 ^ 8]

/-- A PC slot of a group record (R402). -/
def PcSlot.fields (p : PcSlot) : List (Nat × Nat) :=
  [(8, p.pc.toNat), (4, p.sig.toNat), (4, bitAt p.live 0 + bitAt p.waiting 1), (32, p.mask.toNat), (8, p.joinPc.toNat), (8, p.age)]

/-- The handler state of a group record (R389, R402). -/
def HandlerState.fields (h : HandlerState) : List (Nat × Nat) :=
  [(8, h.resumePc.toNat), (32, h.mask.toNat), (4, h.sig.toNat), (4, bitAt h.slot 31 + h.segment.toNat)]

/-- Words of the lanes of a register. -/
def laneFields (l : Lanes Word) : List (Nat × Nat) := (List.range 256).map fun i => (4, (l.lane i).toNat)

/-- A group record at an offset (R402). -/
def Group.image (g : Group) (detm : Bool) (rate : Nat) (m : Memory) (o : Nat) : Memory :=
  let m1 := putDwords m o (g.s.toList.map fun x => x.toNat)
  let m2 := putFields m1 (o + 0x200) ((List.range 16).map fun n => (32, (g.rdK n).toNat))
  let m3 := putDwords m2 (o + 0x400) (g.h.toList.flatMap Shape.words)
  let m4 := putDwords m3 (o + 0x600) (g.t.toList.flatMap TransReg.words)
  let m5 := putDwords m4 (o + 0x680) (g.y.toList.map fun x => x.toNat)
  let m6 := putDwords m5 (o + 0x6C0)
    [g.ls.toNat, g.ovf.toNat, (g.gst detm false).toNat, g.absmax.toNat, bitAt g.tmrArmed 63 + g.tmrRemain.toNat,
     (g.stepLast ++ g.stepCount).toNat, g.digest.toNat, 8 * rate + bitAt g.selected 2 + g.run.code]
  let m7 := putDwords m6 (o + 0x700) [g.ptVa.toNat, g.ptOld.toNat, g.ptNew.toNat, g.ptStat.toNat * 4, g.fdResult.toNat]
  let m8 := putFields m7 (o + 0x728) (g.x.toList.flatMap fun x => [(1, x.lo.toNat), (1, x.hi.toNat)])
  let m9 := putFields (putFields m8 (o + 0x780) g.slot0.fields) (o + 0x7C0) g.slot1.fields
  let m10 := putFields m9 (o + 0x800) g.saved.fields
  let m11 := putFields m10 (o + 0x840) [(8, g.idemPc.toNat), (4, g.idemSig.toNat)]
  let m12 := putDwords m11 (o + 0x880) (g.streams.toList.flatMap fun x => match x with
    | some y => y.shape.words
    | none => [0, 0, 0, 0])
  let m13 := putDwords m12 (o + 0x900) ((List.range 256).map fun i => (g.idemDraws.lane i).toNat)
  let m14 := putDwords m13 (o + 0x1100) ((List.range 256).map fun i => (g.draws.lane i).toNat)
  let m15 := putFields m14 (o + 0x1900) (g.x.toList.flatMap fun x => (List.range 256).map fun i => (2, (x.lane.lane i).toNat))
  let full : Mask := Mask.ofFn fun n => (g.block n).full
  let m16 := putFields m15 (o + 0x2900) [(32, full.toNat)]
  let m17 := putFields m16 (o + 0x3000) (g.z.toList.flatMap laneFields)
  putFields m17 (o + 0x7000) ((List.range g.regs).flatMap fun n => laneFields (g.block n).lane)

/-- The least multiple of 4 KiB at or above a number. -/
def page4 (n : Nat) : Nat := (n + 4095) / 4096 * 4096

/-- A mask of 128 bits: those of a list below 128. -/
def maskNat (l : List Nat) : Nat := (List.range 128).foldl (fun n i => if l.contains i then n + 2 ^ i else n) 0

/-- A barrier's 32 bytes (R401). -/
def Barrier.fields (b : Barrier) : List (Nat × Nat) := [(8, b.episode), (16, maskNat b.arrived), (8, 0)]

/-- The groups of a team in a saved gang, in GROUP order. -/
def Saved.groupsOf (x : Saved) (tid : Nat) : List (Nat × Group) :=
  (List.range 128).filterMap fun i => x.groups.find? fun g => g.2.team == tid && g.2.index == i

/-- The partitions that the groups of a team use, by 4 times the core plus the partition, rising. -/
def Saved.partsOf (x : Saved) (tid : Nat) : List Nat :=
  let ps := (x.groupsOf tid).map fun g => 4 * coreOf g.1 + partOf g.1
  (List.range 768).filter fun p => ps.contains p

/-- The `mfmt` fields 20:0 of a slot (R340). -/
def WeightSlot.format (w : WeightSlot) : Nat := w.fc.toNat * 2 ^ 16 + w.lut * 2 ^ 14 + bitAt w.sc 13 + w.kw

/-- The code of REGS in a launch record (R155). -/
def regsCode (n : Nat) : Nat := ((List.range 6).find? fun c => regsOf c == n).getD 0

/-- The registers of each group of a team (R155, R401). -/
def Saved.regsOfTeam (x : Saved) (tid : Nat) : Nat := ((x.groupsOf tid).head?.map fun g => g.2.regs).getD 8

/-- The matrix units of which a team holds a claim. -/
def Saved.unitsOf (x : Saved) (tid : Nat) : List (Nat × MatUnit) :=
  x.units.filter fun u => u.2.claim0 == some tid || u.2.claim1 == some tid

/-- The weight slots of the pairs of a unit that a team claims (R338). -/
def MatUnit.slotsOf (u : MatUnit) (tid : Nat) : List Nat :=
  (if u.claim0 == some tid then [0, 1] else []) ++ (if u.claim1 == some tid then [2, 3] else [])

/-- The weight slots that a team record holds, in their order: the unit and the slot (R401). -/
def Saved.slotKeys (x : Saved) (tid : Nat) : List (Nat × Nat) :=
  (x.unitsOf tid).flatMap fun u => (u.2.slotsOf tid).map fun w => (u.1, w)

/-- The tiles of a team record (R401) by key 32p + n, in their order. -/
def Saved.tileKeys (x : Saved) (tid : Nat) (t : Team) : List Nat :=
  (x.partsOf tid).flatMap fun p => (List.range t.acct).map fun n => 32 * p + n

/-- Where the weight slots of a team record at an offset begin (R401). -/
def Saved.slotsAt (x : Saved) (tid : Nat) (t : Team) (o : Nat) : Nat := o + 0x800 + 8192 * (x.tileKeys tid t).length

/-- Where the scratchpad of a team record at an offset begins (R401). -/
def Saved.padAt (x : Saved) (tid : Nat) (t : Team) (o : Nat) : Nat := x.slotsAt tid t o + 8192 * (x.slotKeys tid).length

/-- Where the record of group `i` of a team record at an offset begins (R401): each has its place, one that has ended stays
zero. -/
def Saved.groupAt (x : Saved) (tid : Nat) (t : Team) (o i : Nat) : Nat :=
  page4 (x.padAt tid t o + t.spad) + i * page4 (0x7000 + 1024 * x.regsOfTeam tid)

/-- The group records of a team record at an offset, with theirs (R401). -/
def Saved.groupsAt (x : Saved) (tid : Nat) (t : Team) (o : Nat) : List (Nat × Group × Nat) :=
  (x.groupsOf tid).map fun g => (g.1, g.2, x.groupAt tid t o g.2.index)

/-- A team record at an offset (R401): the memory, the offset after it, and the state after the free values of the weight
slots, whose internal order is open (log 33). -/
def Saved.teamImage (x : Saved) (stage rate : Nat) (tid : Nat) (t : Team) (m : Memory) (o : Nat) (s : State) : Memory × Nat × State :=
  let gs := x.groupsOf tid
  let parts := x.partsOf tid
  let us := x.unitsOf tid
  let claims := us.foldl (fun n u =>
    n ||| (bitAt (u.2.claim0 == some tid) (2 * (u.1 % 4)) + bitAt (u.2.claim1 == some tid) (2 * (u.1 % 4) + 1))) 0
  let turn := gs.find? fun g => g.2.index == t.turnGroup
  let used := (List.range 4).foldl (fun n p => n + bitAt (parts.any fun k => k % 4 == p) (32 + p)) 0
  let m1 := putDwords m o
    [t.index % 2 ^ 24 + t.gteam * 2 ^ 24 + stage * 2 ^ 28 + (t.groups - 1) * 2 ^ 32
       + regsCode (x.regsOfTeam tid) * 2 ^ 40 + t.acct * 2 ^ 48,
     t.spad / 512 + used, bitAt t.detm 0 + t.turnGroup * 2 ^ 8 + bitAt ((turn.map fun g => g.2.nextSlot).getD false) 16, claims]
  let m2 := putFields m1 (o + 0x40) ((t.barriers.toList ++ [if t.gteam == 0 then t.gangSync else { episode := 0, arrived := [] }]).flatMap
    Barrier.fields)
  let m3 := putFields m2 (o + 0x260) ((List.range 4).map fun p =>
    (16, maskNat ((gs.filter fun g => partOf g.1 == p && t.mbarArrived.any fun a => a.1 == g.2.index).map fun g => g.2.index)))
  let m4 := t.windows.foldl (fun m w => putDwords m (o + 0x400 + 32 * w.1)
    [w.2.va.toNat, w.2.offset + w.2.units * 2 ^ 32, 1 + bitAt w.2.revoked 1, 0]) m3
  let m5 := parts.foldl (fun m p => putFields m (o + 0x600 + 64 * (p % 4))
    ((List.range 32).map fun n => (2, (Table.findD t.tiles (32 * p + n) Tile.zero).version.toNat))) m4
  let m6 := us.foldl (fun m u => u.2.slots.foldl (fun m w =>
    putDwords m (o + 0x700 + 32 * (u.1 % 4) + 8 * w.1) [w.2.format]) m) m5
  let tiles := (x.tileKeys tid t).map fun k => Table.findD t.tiles k Tile.zero
  let m7 := ((List.range tiles.length).zip tiles).foldl (fun m e =>
    e.2.data.foldl (fun m d => Memory.store m (o + 0x800 + 8192 * e.1 + 4 * d.1) 4 d.2.toNat) m) m6
  let slots := (x.slotKeys tid).length
  let m8 := (List.range (1024 * slots)).foldl (fun m i =>
    Memory.store m (x.slotsAt tid t o + 8 * i) 8 (Config.freeValue (s.tick + i)).toNat) m7
  let s1 : State := { s with tick := s.tick + 1024 * slots }
  let pad := ((x.spads.find? fun p => p.1 == tid).map fun p => p.2.1).getD []
  let m9 := pad.foldl (fun m b => Memory.put m (x.padAt tid t o + b.1) b.2) m8
  ((x.groupsAt tid t o).foldl (fun m g => g.2.1.image t.detm rate m g.2.2) m9, x.groupAt tid t o t.groups, s1)

/-- The STAGE and the replay rate of a team's grid (R155). -/
def State.launchOf (s : State) (t : Team) : Nat × Nat :=
  match Table.find s.grids t.grid with
  | some gr => (gr.launch.stage, gr.launch.replay)
  | none => (0, 0)

/-- The teams of a saved gang in GTEAM order. -/
def Saved.inOrder (x : Saved) : List (Nat × Team) :=
  (List.range 16).flatMap fun k => x.teams.filter fun t => t.2.gteam == k

/-- The team records of a gang whose first one stands at an offset (R400), and the offset after them. -/
def Saved.recordsAt (x : Saved) (first : Nat) : List (Nat × Team × Nat) × Nat :=
  x.inOrder.foldl (fun acc t => (acc.1 ++ [(t.1, t.2, page4 acc.2)], x.groupAt t.1 t.2 (page4 acc.2) t.2.groups)) ([], first)

/-- The gangs of an image with the offset of the first team record of each (R400). -/
def gangPlaces (xs : List Saved) : List (Saved × Nat) :=
  (xs.foldl (fun acc x => (acc.1 ++ [(x, acc.2)], page4 (x.recordsAt acc.2).2)) (([] : List (Saved × Nat)), 0x1000 + page4 (16 * xs.length))).1

/-- The poison of the registers of a group in a record at an offset, by offset (R83, R402). -/
def Group.imagePoison (g : Group) (core o : Nat) : List (Nat × PoisonLevel) :=
  g.regPoison.flatMap fun e => ((List.range 256).filter fun i => e.2.getLsbD i).map fun i =>
    (o + (if e.1 < 256 then 0x7000 + 1024 * e.1 else 0x3000 + 1024 * (e.1 - 256)) + 4 * i, PoisonLevel.pool core)

/-- The poison that some gangs bring into their image, by offset: that of their scratchpads, tiles and registers (R41, R83, R406). -/
def imagePoison (xs : List Saved) : List (Nat × PoisonLevel) :=
  (gangPlaces xs).flatMap fun g => (g.1.recordsAt g.2).1.flatMap fun t =>
    let keys := g.1.tileKeys t.1 t.2.1
    (((g.1.spads.find? fun p => p.1 == t.1).elim [] fun p => p.2.2).map fun e => (g.1.padAt t.1 t.2.1 t.2.2 + e.1, e.2))
      ++ (((List.range keys.length).zip keys).flatMap fun k =>
        (Table.findD t.2.1.tiles k.2 Tile.zero).poison.map fun i => (t.2.2 + 0x800 + 8192 * k.1 + 4 * i, PoisonLevel.pool (k.2 / 128)))
      ++ (g.1.groupsAt t.1 t.2.1 t.2.2).flatMap fun e => e.2.1.imagePoison (coreOf e.1) e.2.2

/-- The gangs of an image, each with the number of the first free value that its weight slots take there (log 33). -/
def stampGangs (tick : Nat) (xs : List Saved) : List Saved :=
  (xs.foldl (fun acc x => (acc.1 ++ [{ x with tick := some acc.2 }],
    acc.2 + 1024 * (x.inOrder.map fun t => (x.slotKeys t.1).length).sum)) (([] : List Saved), tick)).1

/-- Cores of a bulkhead as WHERE of an image names them (R400): those on which the gangs lay (log 33). -/
def coreBits (cores : List Nat) : Nat := (cores.map fun c => c % 24).eraseDups.foldl (fun n i => n + 2 ^ i) 0

/-- The bytes of an image of some gangs (R400), its length, and the state after its free values; STATE and IMGCRC are still
0. -/
def State.imageOf (s : State) (asid bh : Nat) (xs : List Saved) : Memory × Nat × State :=
  let dir := page4 (16 * xs.length)
  let r := xs.foldl (fun (acc : List (Nat × Nat) × Memory × Nat × State) x =>
    let first := acc.2.2.1
    let u := x.inOrder.foldl (fun (a : Memory × Nat × State) t =>
      let (stage, rate) := s.launchOf t.2
      x.teamImage stage rate t.1 t.2 a.1 (page4 a.2.1) a.2.2) (acc.2.1, first, acc.2.2.2)
    (acc.1 ++ [(first, x.teams.length)], u.1, page4 u.2.1, u.2.2)) ([], [], 0x1000 + dir, s)
  let m := putDwords r.2.1 0x1000 (r.1.flatMap fun e => [e.1, e.2])
  (putDwords m 0 [1, asid, (s.ctx asid).part.toNat, bh * 2 ^ 24 + coreBits (xs.flatMap fun x => x.teams.flatMap fun t => t.2.cores), r.2.2.1,
    (xs.map fun x => x.teams.length).sum + xs.length * 2 ^ 32], r.2.2.1, r.2.2.2)

/-- IMGCRC of an image (R400). -/
def imageCrc (m : Memory) (len : Nat) : Word := crcBytes 0xFFFFFFFF (Memory.bytes m 0x40 (len - 0x40))

/-- An image of some gangs written in its frames (R400): poison travels with the words that carry it (R41), and COMPLETE is set
last. -/
def State.writeImage (s : State) (frames : List Nat) (xs : List Saved) (m : Memory) (len : Nat) : State :=
  let m1 := Memory.store m 0x38 4 (imageCrc m len).toNat
  let s1 := (List.range (len / 8)).foldl (fun s i => s.devWrite (frameDpa frames (8 * i)) 8 (Memory.load m1 (8 * i) 8)) s
  let s2 := (imagePoison xs).foldl (fun s e => s.setPoison (frameDpa frames e.1 / 4) (some e.2)) s1
  s2.devWrite (frameDpa frames 0x30) 8 1

/-- What reads an image: the value of a number of bytes at an offset. -/
abbrev ImageReader := Nat → Nat → Nat

/-- The reader of an image in some frames. -/
def State.imageReader (s : State) (frames : List Nat) : ImageReader := fun off n => s.loadNow (frameDpa frames off) n

/-- Dword `i` of those at an offset. -/
def ImageReader.dword (r : ImageReader) (o i : Nat) : DWord := BitVec.ofNat 64 (r (o + 8 * i) 8)

/-- A shape record read (R258). -/
def ImageReader.shape (r : ImageReader) (o : Nat) : Shape :=
  { base := BitVec.ofNat 56 (r o 8), rows := BitVec.ofNat 24 (r (o + 12) 4), cols := BitVec.ofNat 24 (r (o + 8) 4)
    pitch := BitVec.ofNat 40 (r (o + 16) 8), fc := BitVec.ofNat 5 (r (o + 24) 8) }

/-- A translation register read, V cleared (R61, R402). -/
def ImageReader.trans (r : ImageReader) (o : Nat) : TransReg :=
  let hi := r (o + 8) 8
  { v := false, w := bit hi 62, cw := bit hi 61, fz := bit hi 60, nc := bit hi 59, s := bit hi 58
    frame := BitVec.ofNat 23 (bits hi 54 32), limit := BitVec.ofNat 36 (bits hi 27 0 * 2 ^ 8 + r (o + 7) 1)
    va := BitVec.ofNat 56 (r o 8) }

/-- A PC slot read (R402): one whose PC was changed stands inside no sweep. -/
def ImageReader.slot (r : ImageReader) (o : Nat) (p : PcSlot) : PcSlot :=
  let flags := r (o + 12) 4
  { p with pc := r.dword o 0, sig := BitVec.ofNat 32 (r (o + 8) 4), live := bit flags 0, waiting := bit flags 1
           mask := BitVec.ofNat 256 (r (o + 16) 32), joinPc := r.dword o 6, age := r (o + 56) 8
           segment := if r.dword o 0 == p.pc then p.segment else none }

/-- The handler state read (R389, R402). -/
def ImageReader.handler (r : ImageReader) (o : Nat) : HandlerState :=
  let w := r (o + 44) 4
  { resumePc := r.dword o 0, mask := BitVec.ofNat 256 (r (o + 8) 32), sig := BitVec.ofNat 32 (r (o + 40) 4), slot := bit w 31
    segment := BitVec.ofNat 12 (bits w 11 0) }

/-- Words of 4 bytes of the lanes of a register read. -/
def ImageReader.lanes (r : ImageReader) (o : Nat) : Lanes Word := Vector.ofFn fun i => BitVec.ofNat 32 (r (o + 4 * i.val) 4)

/-- A stream read (R402): none where its fields are 0; a scale shape stays as it was. -/
def ImageReader.stream (r : ImageReader) (o : Nat) (old : Option Stream) : Option Stream :=
  if r o 32 == 0 then none else some { shape := r.shape o, scales := old.bind fun x => x.scales }

/-- A group with what its record in an image holds (R402); one without a live slot has ended; what the record does not name stays as it was. A group that an edit
sends to another instruction waits for nothing. -/
def ImageReader.group (r : ImageReader) (o : Nat) (g : Group) : Group :=
  let gst := r (o + 0x6D0) 8
  let tmr := r (o + 0x6E0) 8
  let step := r (o + 0x6E8) 8
  let rep := r (o + 0x6F8) 8
  let draws (o : Nat) : Lanes DWord := Vector.ofFn fun i => BitVec.ofNat 64 (r (o + 8 * i.val) 8)
  let reg (n : Nat) : VReg := { full := bit (r (o + 0x2900 + n / 8) 1) (n % 8), lane := r.lanes (o + 0x7000 + 1024 * n) }
  let s0 := r.slot (o + 0x780) g.slot0
  let s1 := r.slot (o + 0x7C0) g.slot1
  { g with
    s := Vector.ofFn fun i => r.dword o i.val
    k := Vector.ofFn fun i => BitVec.ofNat 256 (r (o + 0x200 + 32 * i.val) 32)
    h := Vector.ofFn fun i => r.shape (o + 0x400 + 32 * i.val)
    t := Vector.ofFn fun i => r.trans (o + 0x600 + 16 * i.val)
    y := Vector.ofFn fun i => r.dword (o + 0x680) i.val
    ls := BitVec.ofNat 32 (r (o + 0x6C0) 8), ovf := BitVec.ofNat 8 (r (o + 0x6C8) 8)
    depth := bits gst 14 8, fenceLoss := bit gst 7, restarts := BitVec.ofNat 2 (bits gst 6 5), idem := bit gst 4, hnd := bit gst 0
    absmax := BitVec.ofNat 32 (r (o + 0x6D8) 8), tmrArmed := bit tmr 63, tmrRemain := BitVec.ofNat 48 tmr
    stepLast := BitVec.ofNat 32 (bits step 63 32), stepCount := BitVec.ofNat 32 step, digest := r.dword (o + 0x6F0) 0
    selected := bit rep 2, run := if bits rep 1 0 == 0 then .original else if bits rep 1 0 == 1 then .replay else .arbiter
    ptVa := r.dword (o + 0x700) 0, ptOld := r.dword (o + 0x700) 1, ptNew := r.dword (o + 0x700) 2
    ptStat := BitVec.ofNat 3 (bits (r (o + 0x718) 8) 4 2), fdResult := r.dword (o + 0x720) 0
    x := Vector.ofFn fun i =>
      { lane := Vector.ofFn fun j => BitVec.ofNat 16 (r (o + 0x1900 + 512 * i.val + 2 * j.val) 2)
        lo := BitVec.ofNat 8 (r (o + 0x728 + 2 * i.val) 1), hi := BitVec.ofNat 8 (r (o + 0x729 + 2 * i.val) 1) }
    slot0 := s0, slot1 := s1, saved := r.handler (o + 0x800), idemPc := r.dword (o + 0x840) 0
    idemSig := BitVec.ofNat 32 (r (o + 0x848) 4)
    streams := Vector.ofFn fun i => r.stream (o + 0x880 + 32 * i.val) g.streams[i]
    idemDraws := draws (o + 0x900), draws := draws (o + 0x1100)
    z := Vector.ofFn fun i => r.lanes (o + 0x3000 + 1024 * i.val)
    v := (List.range g.regs).foldl (fun t n => if reg n == VReg.zero then t else Table.set t n (reg n)) []
    ended := !s0.live && !s1.live
    wait := if s0.pc == g.slot0.pc && s1.pc == g.slot1.pc then g.wait else .none }

/-- The numbers below 128 whose bits are set. -/
def maskList (n : Nat) : List Nat := (List.range 128).filter fun i => bit n i

/-- A barrier read (R401). -/
def ImageReader.barrier (r : ImageReader) (o : Nat) : Barrier := { episode := r o 8, arrived := maskList (r (o + 8) 16) }

/-- A mirror window read (R401); the frames that it marked are those that it marked. -/
def ImageReader.mirror (r : ImageReader) (o : Nat) (old : Option Mirror) : Option Mirror :=
  let flags := r (o + 16) 8
  if bit flags 0 then
    some { va := r.dword o 0, offset := bits (r (o + 8) 8) 31 0, units := bits (r (o + 8) 8) 63 32, revoked := bit flags 1
           frames := old.elim [] fun w => w.frames }
  else none

/-- A tile read (R401): an element that is 0 is not listed. -/
def ImageReader.tile (r : ImageReader) (version data : Nat) : Tile :=
  { version := BitVec.ofNat 16 (r version 2)
    data := (List.range 2048).foldl (fun t i =>
      let w := r (data + 4 * i) 4
      if w == 0 then t else Table.set t i (BitVec.ofNat 32 w)) [] }

/-- A team with what its record in an image holds (R401); GANGSYNC holds the arrivals of GTEAM 0. -/
def Saved.readTeam (x : Saved) (r : ImageReader) (o tid : Nat) (t : Team) : Team :=
  let keys := x.tileKeys tid t
  let detm := r (o + 0x10) 8
  let sync := r.barrier (o + 0x240)
  { t with
    detm := bit detm 0, turnGroup := bits detm 14 8
    barriers := Vector.ofFn fun i => r.barrier (o + 0x40 + 32 * i.val)
    gangSync := if t.gteam == 0 then { sync with arrived := sync.arrived ++ t.gangSync.arrived.filter fun i => decide (128 ≤ i) }
      else t.gangSync
    mbarArrived := (List.range 128).foldl (fun l i =>
      if (List.range 4).any fun p => bit (r (o + 0x260 + 16 * p) 16) i then Table.set l i (Table.findD t.mbarArrived i 0) else l) []
    windows := (List.range 16).foldl (fun ws i => match r.mirror (o + 0x400 + 32 * i) (Table.find t.windows i) with
      | some w => Table.set ws i w
      | none => ws) []
    tiles := ((List.range keys.length).zip keys).foldl (fun ts k =>
      Table.set ts k.2 { r.tile (o + 0x600 + 64 * (k.2 / 32 % 4) + 2 * (k.2 % 32)) (o + 0x800 + 8192 * k.1) with
        poison := (Table.findD t.tiles k.2 Tile.zero).poison }) [] }

/-- A weight slot of a team read from an image (R401): its `mfmt` fields from the header, and its codes and scales from its 8 KiB.
Where those are what the device wrote there, the first of them free value number `first`, they stand for what the slot then held;
else they are free values of the bytes, since their order is open (log 33). -/
def ImageReader.weightSlot (r : ImageReader) (format area tid : Nat) (first : Option Nat) (old : Option WeightSlot) : Option WeightSlot :=
  let f := r format 8
  let x : WeightSlot := { team := tid, fc := BitVec.ofNat 5 (bits f 20 16), lut := bits f 15 14, sc := bit f 13, kw := bits f 7 0, codes := [], scales := [] }
  let same := first.elim false fun n => (List.range 1024).all fun i => r (area + 8 * i) 8 == (Config.freeValue (n + i)).toNat
  if x.kw == 0 then none
  else match if same then old else none with
    | some y => some { x with codes := y.codes, scales := y.scales }
    | none =>
      let d := r area 8192
      let width := if x.lut == 0 then fcBits x.fc.toNat else 2 ^ (x.lut - 1)
      some { x with
        codes := (List.range (64 * x.kw)).map fun i => (i, Config.slotCode d f i % 2 ^ width)
        scales := if x.sc then (List.range (2 * x.kw)).map fun i => (i, Config.slotCode d f (64 * x.kw + i) % 256) else [] }

/-- What a team holds of the matrix units with what its record in an image holds (R348, R401). -/
def Saved.readUnits (x : Saved) (r : ImageReader) (o tid : Nat) (t : Team) : List (Nat × MatUnit) :=
  let keys := x.slotKeys tid
  let before := ((x.inOrder.takeWhile fun u => u.1 != tid).map fun u => (x.slotKeys u.1).length).sum
  (x.unitsOf tid).map fun u => (u.1, { u.2 with
    slots := ((List.range keys.length).zip keys).foldl (fun l k =>
      if k.2.1 != u.1 then l
      else match r.weightSlot (o + 0x700 + 32 * (u.1 % 4) + 8 * k.2.2) (x.slotsAt tid t o + 8192 * k.1) tid
          (x.tick.map fun n => n + 1024 * (before + k.1)) (Table.find u.2.slots k.2.2) with
        | some w => Table.set l k.2.2 w
        | none => l) [] })

/-- A gang with what its records in an image hold, the first of them at an offset. -/
def Saved.readBack (x : Saved) (r : ImageReader) (first : Nat) : Saved :=
  let ts := (x.recordsAt first).1
  let gs := ts.flatMap fun t =>
    let detm := r (t.2.2 + 0x10) 8
    (x.groupsAt t.1 t.2.1 t.2.2).map fun g =>
      let y := r.group g.2.2 g.2.1
      (g.1, if bit detm 0 && y.index == bits detm 14 8 then { y with nextSlot := bit detm 16 } else y)
  let pad (t : Nat × Team × Nat) : Memory :=
    (List.range t.2.1.spad).foldl (fun m i => Memory.put m i (BitVec.ofNat 8 (r (x.padAt t.1 t.2.1 t.2.2 + i) 1))) []
  { x with
    teams := ts.map fun t => (t.1, x.readTeam r t.2.2 t.1 t.2.1)
    groups := gs
    spads := ts.map fun t => (t.1, pad t, (x.spads.find? fun p => p.1 == t.1).elim [] fun p => p.2.2)
    units := ts.flatMap fun t => x.readUnits r t.2.2 t.1 t.2.1
    pends := x.pends.filter fun p => gs.any fun g => g.1 == p.gid && g.2.wait != .none && (g.2.pc p.slot).pc == p.pc }

/-- Whether an image at a reader is one of some gangs that were written out (R400): its counts, and the team numbers of the
first record of each gang. -/
def imageMatches (r : ImageReader) (xs : List Saved) : Bool :=
  r 0x28 8 == (xs.map fun x => x.teams.length).sum + xs.length * 2 ^ 32
    && ((List.range xs.length).zip xs).all fun e => e.2.inOrder.head?.elim false fun t =>
      bits (r (r (0x1000 + 16 * e.1) 8) 8) 27 0 == t.2.index % 2 ^ 24 + t.2.gteam * 2 ^ 24

/-- What the header of a team record at an offset names of a team (R401), in a gang of its own: the team with its groups and claims
before their fields are read. Of the team's cores it says nothing, so its partitions stand for those of one core, whose number
here is the team's own: a name in the image, not a place (log 33). -/
def ImageReader.namedTeam (r : ImageReader) (asid bh grid tid o : Nat) : Saved :=
  let h := r o 8
  let sp := r (o + 8) 8
  let claims := r (o + 0x18) 8
  let groups := bits h 38 32 + 1
  let used := (List.range 4).filter fun p => bit sp (32 + p)
  let parts := if used.isEmpty then [0] else used
  let need : Need :=
    { indices := List.range groups, groups := groups, regs := regsOf (bits h 42 40), spad := bits sp 31 0 * 512, acct := bits h 53 48 }
  let seat (i : Nat) : Nat := 128 * tid + 32 * (parts[i % parts.length]?).getD 0 + i / parts.length % 32
  let claim (n : Nat) : Option Nat := if bit claims n then some tid else none
  { bh := bh, asid := asid, gang := 0, teams := [(tid, Team.at .grid grid 0 asid bh [] (bits h 23 0) (bits h 27 24) need [])]
    groups := (List.range groups).map fun i => (seat i, Group.start asid tid i false need.regs 0 0 0)
    spads := []
    units := ((List.range 4).filter fun p => bit claims (2 * p) || bit claims (2 * p + 1)).map fun p =>
      (4 * tid + p, { MatUnit.reset with claim0 := claim (2 * p), claim1 := claim (2 * p + 1) })
    frames := [], pends := [], watch := [], stage := some (bits h 31 28) }

/-- The teams of a gang of an image that the device did not write, from an offset, under numbers from `tid` (R400, R401). -/
def ImageReader.namedTeams (r : ImageReader) (asid bh grid : Nat) : Nat → Nat → Nat → List Saved
  | _, _, 0 => []
  | tid, o, n + 1 =>
    let x := r.namedTeam asid bh grid tid o
    x :: r.namedTeams asid bh grid (tid + 1) (page4 (x.recordsAt o).2) n

/-- The gangs of an image that the device did not write, from its bytes alone (R399, R400): they belong to no grid, whose number
is that of none (log 33). -/
def ImageReader.namedGangs (r : ImageReader) (asid bh grid : Nat) : List Saved :=
  (List.range (bits (r 0x28 8) 47 32)).map fun i =>
    let first := r (0x1000 + 16 * i) 8
    let us := r.namedTeams asid bh grid 1 first (min 16 (r (0x1008 + 16 * i) 8))
    let x : Saved :=
      { bh := bh, asid := asid, gang := i, teams := us.flatMap fun u => u.teams, groups := us.flatMap fun u => u.groups, spads := []
        units := us.flatMap fun u => u.units, frames := [], pends := [], watch := [], stage := us.head?.bind fun u => u.stage }
    x.readBack r first

/-- The gangs of an image in the frames from IMGF, with what the image holds: those written there or, where the image was moved,
those of which it is one, and else those that its bytes name (log 33). -/
def State.gangsOfImage (s : State) (imgf asid bh : Nat) (frames : List Nat) : List Saved :=
  let r := s.imageReader frames
  let known := (Table.find s.images imgf).toList ++ s.images.map fun e => e.2
  match known.find? fun xs => xs.all (fun x => x.asid == asid) && imageMatches r xs with
  | some xs => ((List.range xs.length).zip xs).map fun e => e.2.readBack r (r (0x1000 + 16 * e.1) 8)
  | none => r.namedGangs asid bh s.nextId

/-- The scratchpad of a team by offset, with its poison (R17, R401). -/
def State.saveSpad (s : State) (t : Team) : Memory × Table PoisonLevel :=
  let part := t.spad / t.cores.length
  let js := (List.range t.cores.length).zip t.cores
  (js.flatMap fun j =>
      let base := t.padAt j.1
      ((s.spad j.2 t.asid).filter fun b => decide (base ≤ b.1) && decide (b.1 < base + part)).map
        fun b => (j.1 * part + (b.1 - base), b.2),
   js.flatMap fun j =>
      let base := t.padAt j.1
      ((s.core j.2).poolPoison.filter fun e =>
        decide (poolKey t.asid base ≤ e.1) && decide (e.1 < poolKey t.asid (base + part))).map
          fun e => (j.1 * part + 4 * (e.1 - poolKey t.asid base), e.2))

/-- What a team holds of the matrix units of its cores (R348). -/
def State.saveUnits (s : State) (tid : Nat) (t : Team) : List (Nat × MatUnit) :=
  (s.units.filter fun u => t.cores.contains (u.1 / 4) && (u.2.claim0 == some tid || u.2.claim1 == some tid)).map fun u =>
    (u.1, { MatUnit.reset with
      claim0 := if u.2.claim0 == some tid then some tid else none
      claim1 := if u.2.claim1 == some tid then some tid else none
      freeing0 := if u.2.claim0 == some tid then u.2.freeing0 else none
      freeing1 := if u.2.claim1 == some tid then u.2.freeing1 else none
      slots := u.2.slots.filter fun w => w.2.team == tid })

/-- Whether a wait in a slot is kept by an image: its instruction has done what it does before it waits. -/
def Wait.kept (w : Wait) : Bool :=
  match w with
  | .bar _ | .gangsync | .mbar | .park | .spPaused _ => true
  | _ => false

/-- Whether a wait in a slot is given up: its instruction is issued again after the return (R332). -/
def Wait.givenUp (w : Wait) : Bool :=
  match w with
  | .qwait | .cwait | .atwait => true
  | _ => false

/-- Whether the groups of a gang have nothing on its way (R147, R399): their releases are done, their counters are 0, and every
reply has arrived. -/
def State.gangReleased (s : State) (gang : Nat) : Bool :=
  (s.gangGroups gang).all fun g =>
    s.releaseReady g.1 && (List.range 4).all (fun k => g.2.rdE k == 0)
      && s.pends.all (fun p => p.gid != g.1 || (p.hold && (p.why.kept || p.why.givenUp)))
      && !(s.net.any fun m => m.gid == some g.1 && (m.pend.bind s.pend?).isNone)
      && !(s.engines.any fun r => r.gid == some g.1) && s.posted.all fun p => p.gid != g.1 || p.lost

/-- Whether nothing of a gang is on its way and its drains of ABSMAX are over (R144, R147, R399). -/
def State.gangQuiet (s : State) (gang : Nat) : Bool :=
  s.gangReleased gang && (s.gangGroups gang).all fun g => g.2.absQueue.isEmpty

/-- The completion object that a `qwait` of a group watches, and its threshold. -/
def State.watchOf (s : State) (gid : Nat) : List (Nat × DWord) :=
  let mine := s.pends.filter fun p => p.gid == gid && p.hold && p.why == .qwait && p.left != 0
  ((s.net ++ s.bhs.flatMap fun b => b.2.watches).filter fun m => mine.any fun p => m.pend == some p.id).map fun m => (m.dpa, m.cmp)

/-- A group as an image keeps it: the destination of an `atwait` that is given up is full again. -/
def State.savedGroup (s : State) (gid : Nat) (g : Group) : Group :=
  let g1 := (s.pends.filter fun p => p.gid == gid && p.why.givenUp).foldl (fun g p => g.restoreDest p.dest) g
  { g1 with fenceLoss := g1.fenceLoss || s.posted.any fun p => p.gid == gid }

/-- A gang as an image keeps it. -/
def State.savedOf (s : State) (gang bh asid : Nat) (frames : List Nat) : Saved :=
  let ts := s.teamsOf gang
  let gs := s.gangGroups gang
  { bh := bh, asid := asid, gang := gang, teams := ts, groups := gs.map fun g => (g.1, s.savedGroup g.1 g.2)
    spads := ts.map fun t => (t.1, s.saveSpad t.2), units := ts.flatMap fun t => s.saveUnits t.1 t.2, frames := frames
    pends := s.pends.filter fun p => gs.any (fun g => g.1 == p.gid) && p.why.kept
    watch := gs.flatMap fun g => s.watchOf g.1 }

/-- A gang taken off its cores (R163, R399): its slots, blocks, tiles, scratchpad, claims and leave are free, and its watches
are cancelled. -/
def State.removeGang (s : State) (x : Saved) : State :=
  let gone (gid : Nat) : Bool := x.groups.any fun g => g.1 == gid
  let ids := (s.pends.filter fun p => gone p.gid).map fun p => p.id
  let watching (m : Msg) : Bool := match m.pend with
    | some p => ids.contains p
    | none => false
  let s1 := x.teams.foldl (fun s t => (s.releaseLeave t.1).releaseClaims t.1) s
  { s1 with groups := s1.groups.filter fun g => !gone g.1
            teams := s1.teams.filter fun t => !(x.teams.any fun u => u.1 == t.1)
            pends := s1.pends.filter fun p => !gone p.gid
            posted := s1.posted.filter fun p => !gone p.gid
            net := s1.net.filter fun m => !watching m
            bhs := s1.bhs.map fun b => (b.1, { b.2 with watches := b.2.watches.filter fun m => !watching m }) }

/-- A page of private backing exchanged (R24) for a group: the level-0 entries that map two addresses change places, and both
pages are shot down before the group issues; `false` where a table above level 0 is missing. -/
def State.exchangePage (s : State) (asid gid a b : Nat) : Bool × State :=
  let root := (s.ctx asid).root
  match s.entryAt a 0 4 root, s.entryAt b 0 4 root with
  | some x, some y =>
    let ex := s.loadNow x 8
    let ey := s.loadNow y 8
    let s1 := (s.devWrite x 8 ey).devWrite y 8 ex
    let shoot (s : State) (v : Nat) : State := s.startShoot { Shoot.of (some (s.tagOf asid)) (v / 65536) 1 with holds := [gid] }
    (true, shoot (shoot s1 a) b)
  | _, _ => (false, s)

/-- The private backing of two places exchanged (R24). -/
def State.exchange (s : State) (asid old new : Nat) : Bool × State :=
  let c := s.ctx asid
  let base (gid : Nat) : Nat := c.privBacking 0 (coreOf gid) (slotOf gid) 0
  if old == new then (true, s)
  else (List.range (256 * c.privSize / 65536)).foldl (fun acc i =>
    let (ok, s1) := acc.2.exchangePage asid new (base old + 65536 * i) (base new + 65536 * i)
    (acc.1 && ok, s1)) (true, s)

/-- Where each group of a returning gang stood, and where it is placed. -/
def Saved.moves (x : Saved) (fits : List Fit) : List (Nat × Nat) :=
  (x.teams.zip fits).flatMap fun e => (x.groupsOf e.1.1).filterMap fun g =>
    (e.2.seats.find? fun p => p.1 == g.2.index).map fun p => (g.1, 128 * p.2.1 + p.2.2.1)

/-- The block base of a seat. -/
def baseOf (fits : List Fit) (gid : Nat) : Nat :=
  (((fits.flatMap fun f => f.seats).find? fun p => 128 * p.2.1 + p.2.2.1 == gid).map fun p => p.2.2.2).getD 0

/-- Where a partition of a team has moved: to that of its first group. -/
def Saved.movedPart (x : Saved) (moves : List (Nat × Nat)) (tid key : Nat) : Option Nat :=
  ((x.groupsOf tid).find? fun g => 4 * coreOf g.1 + partOf g.1 == key).bind fun g =>
    (moves.find? fun p => p.1 == g.1).map fun p => 4 * coreOf p.2 + partOf p.2

/-- The tiles of a team moved with its partitions. -/
def Saved.movedTiles (x : Saved) (moves : List (Nat × Nat)) (tid : Nat) (t : Team) : Table Tile :=
  t.tiles.foldl (fun r e => match x.movedPart moves tid (e.1 / 32) with
    | some k => Table.set r (32 * k + e.1 % 32) e.2
    | none => r) []

/-- Whether the pairs that a gang held are free where it returns (R348). -/
def State.claimsFree (s : State) (x : Saved) (fits : List Fit) : Bool :=
  x.units.all fun u =>
    let tid := (firstOf u.2.claim0 u.2.claim1).getD 0
    match x.movedPart (x.moves fits) tid u.1 with
    | none => true
    | some k =>
      let v := s.unit (k / 4) (k % 4)
      (u.2.claim0.isNone || v.claim0.isNone) && (u.2.claim1.isNone || v.claim1.isNone)

/-- What a team held of a matrix unit reloaded (R348). -/
def MatUnit.reload (v u : MatUnit) (tid : Nat) : MatUnit :=
  let w := u.slots.map fun e => (e.1, { e.2 with team := tid })
  { v with claim0 := if u.claim0.isSome then some tid else v.claim0
           claim1 := if u.claim1.isSome then some tid else v.claim1
           freeing0 := firstOf v.freeing0 u.freeing0, freeing1 := firstOf v.freeing1 u.freeing1
           slots := w.foldl (fun t e => Table.set t e.1 e.2) v.slots }

/-- The scratchpad of a team written back on its cores. -/
def State.loadSpad (s : State) (t : Team) (m : Memory) (p : Table PoisonLevel) : State :=
  let part := t.spad / t.cores.length
  let s1 := ((List.range t.cores.length).zip t.cores).foldl (fun s j =>
    let base := t.padAt j.1
    let old := (s.spad j.2 t.asid).filter fun b => !(decide (base ≤ b.1) && decide (b.1 < base + part))
    let new := (m.filter fun b => b.1 / part == j.1).foldl (fun r b => Memory.put r (base + b.1 % part) b.2) old
    s.setSpad j.2 t.asid new) s
  p.foldl (fun s e => s.modCore ((t.cores[e.1 / part]?).getD 0) fun c =>
    { c with poolPoison := Table.set c.poolPoison (poolKey t.asid (t.padAt (e.1 / part) + e.1 % part)) e.2 }) s1

/-- A team of a gang returned: its new number, and the state. -/
def State.returnTeam (s : State) (x : Saved) (fits : List Fit) (gang tid : Nat) (t : Team) (f : Fit) : State :=
  let moves := x.moves fits
  let (new, s1) := s.fresh
  let t1 : Team := { t with gang := gang, bh := x.bh, cores := f.cores, ran := (t.ran ++ f.cores).eraseDups, spadBases := f.spadBases, held := [], asked := [], migrateSince := none, migratePosted := false
                            tiles := x.movedTiles moves tid t }
  let s2 : State := { s1 with teams := Table.set s1.teams new t1 }
  let s3 := s2.openCores t.grid t.asid f.cores
  let s4 := (x.groupsOf tid).foldl (fun s g => match moves.find? fun p => p.1 == g.1 with
    | none => s
    | some (_, gid) => s.seatGroup gid
        { g.2 with team := new, base := baseOf fits gid, t := g.2.t.map fun r => { r with v := false }
                   wait := if g.2.wait == .cutStop then .none else g.2.wait, waitSince := s.cyc (coreOf gid), waitClock := s.clock }) s3
  let s5 := (x.units.filter fun u => u.2.claim0 == some tid || u.2.claim1 == some tid).foldl (fun s u =>
    match x.movedPart moves tid u.1 with
    | some k => s.modUnit (k / 4) (k % 4) fun v => v.reload u.2 new
    | none => s) s4
  match x.spads.find? fun p => p.1 == tid with
  | some (_, m, p) => if t.spad == 0 then s5 else s5.loadSpad t1 m p
  | none => s5

/-- The private backing of the groups of a returning gang exchanged, one after the other, each with the place where its
pages then stand (R24). A group whose tables are missing waits for the plex, which completes its exchange; the rule names no cause
for that, and the model shows PAGE_ABSENT (log 111). -/
def State.movePrivate (s : State) (asid : Nat) (moves : List (Nat × Nat)) : State :=
  (moves.foldl (fun (acc : (Nat → Nat) × State) p =>
    let here := acc.1 p.1
    let (ok, s1) := acc.2.exchange asid here p.2
    let s2 := if ok then s1 else s1.plexWait p.2 .pageAbsent
    (fun k => if acc.1 k == p.2 then here else if k == p.1 then p.2 else acc.1 k, s2)) (fun k => k, s)).2

/-- A gang returned from its image (R24, R147, R163, R399): each group acquires before its first instruction. -/
def State.returnGang (s : State) (x : Saved) (fits : List Fit) : State :=
  let moves := x.moves fits
  let at_ (gid : Nat) : Nat := ((moves.find? fun p => p.1 == gid).map fun p => p.2).getD gid
  let (gang, s1) := s.fresh
  let s2 := (x.teams.zip fits).foldl (fun s e => s.returnTeam x fits gang e.1.1 e.1.2 e.2) s1
  let s3 : State := { s2 with
    pends := s2.pends ++ x.pends.map fun p => { p with gid := at_ p.gid } }
  let s5 := ((fits.flatMap fun f => f.cores).eraseDups).foldl (fun s c => s.dropValid c) s3
  s5.movePrivate x.asid moves

/-- The placement of a gang that was written out (R160, R161, R163). -/
def State.savedFit (s : State) (x : Saved) (allow : Nat → Bool) : Option (List Fit) :=
  let stage := ((x.teams.head?).map fun t => (s.launchOf t.2).1).getD 0
  match s.placeGang x.bh x.asid (x.stage.getD stage) allow x.needs with
  | some fits => if s.claimsFree x fits then some fits else none
  | none => none

/-- Whether one of the waits of a swapped gang is satisfied (R163). -/
def State.savedSatisfied (s : State) (x : Saved) : Bool :=
  x.watch.any (fun w => w.2.toNat ≤ s.loadNow w.1 8) || x.groups.any fun g => match g.2.wait with
    | .park => (s.inst x.asid x.bh).evqCount != 0
    | .spPaused n => match s.binding? x.bh n with
      | some b => !b.paused
      | none => true
    | _ => false

/-- Whether a swapped gang can return to its bulkhead now (R163), as far as its waits and the bulkhead go. -/
def State.returnDue (s : State) (x : Saved) : Bool := s.savedSatisfied x && (s.bh x.bh).rstPhase == .idle

/-- The priority of the queue from which a gang came (R157, R163); the gang of a task or of a handler counts as of queue 0 of its
context (log 112). -/
def State.savedPrio (s : State) (x : Saved) : Nat :=
  let q := ((x.teams.head?).bind fun t => Table.find s.grids t.2.grid).elim 0 fun gr => gr.queue
  s.prioOf x.asid q

/-- The swapped gangs that return to a bulkhead as soon as their turn comes, with their placements. -/
def State.returning (s : State) (bh : Nat) : List (Nat × Saved × List Fit) :=
  s.saved.filterMap fun e =>
    if e.2.bh == bh && s.returnDue e.2 then (s.savedFit e.2 fun _ => true).map fun fs => (e.1, e.2, fs) else none

/-- The head launch to be placed next in a bulkhead: a swapped gang that can return goes before new teams of its queue's
priority (R157, R163). -/
def State.nextToPlace (s : State) (bh : Nat) : Option (Nat × Nat × Nat × Grid × List Fit) :=
  s.nextHead bh (((s.returning bh).map fun e => s.savedPrio e.2.1 + 1).foldl max 0)

/-- GANG_PLACEMENT (R157, R160, R161, R165): the scheduler places the next gang of a queue, where that queue's turn it is
and its gang fits. -/
def execGangPlacement (bh asid q : Nat) (s : State) : Out :=
  match s.nextToPlace bh with
  | some (a, k, id, gr, fits) => if a == asid && k == q then .next (s.startGang bh q id gr fits) else .next s
  | none => .next s

end Sys2Proof.Machine
end

