-- ==== Sys2Proof/Machine/Preempt.lean ====
section
/-! DEFINITION. Swaps of waiting gangs (R163, R403), and PRE_CMD with its grades (R395 to R399): drain, cut, evict,
restore, forced reset and release cut. -/

namespace Sys2Proof.Machine

/-- Whether a wait is one of those for which a gang is swapped (R163). -/
def Wait.swaps (w : Wait) : Bool :=
  match w with
  | .bar _ | .qwait | .park | .spPaused _ => true
  | _ => false

/-- Whether what a group waits for has come: a completed barrier episode, a value that a watch has returned, an event in the
queue, or a binding that runs again (R163). -/
def State.groupSatisfied (s : State) (gid : Nat) (g : Group) : Bool :=
  match g.wait with
  | .bar _ => !s.barHeld g
  | .qwait => (s.watchOf gid).isEmpty
  | .park => (s.inst g.asid (bhOf gid)).evqCount != 0
  | .spPaused n => match s.binding? (bhOf gid) n with
    | some b => !b.paused
    | none => true
  | _ => true

/-- Whether every group of a gang has waited longer than CTX_WAITSWAP and still waits (R163). The cycles in which its
context is frozen count, and a frozen gang is swapped as any other (log 138). -/
def State.swapDue (s : State) (gang : Nat) : Bool :=
  let gs := s.gangGroups gang
  !gs.isEmpty && gs.all fun g =>
    let limit := (s.ctx g.2.asid).waitSwap.toNat
    limit != 0 && !g.2.ended && g.2.wait.swaps && decide (g.2.waitSince + limit < s.cyc (coreOf g.1))
      && !s.groupSatisfied g.1 g.2

/-- Frames that an image of a length takes. -/
def framesFor (len : Nat) : Nat := (len + 65535) / 65536

/-- The gang's other groups after a fatal fault (R415): each stops at its next boundary; one that waits for the plex, a
restart or a cut, or that is not active, stands at it. -/
def State.abortPeers (s : State) (gang gid : Nat) : State :=
  ((s.gangGroups gang).filter fun g => g.1 != gid && !g.2.ended).foldl (fun s g =>
    if g.2.wait.blocks || !g.2.active then s.stopGroup g.1 .gangAbort (g.2.pc g.2.slot1.live).pc
    else s.modGroup g.1 fun x => { x with gangAbort := true }) s

/-- What a fatal fault fails (R373, R415): the grid or the task; of a handler, the sender takes AM_ABORT; a replay fails
nothing, its digests differ. -/
def State.failWork (s : State) (t : Team) (c : Cause) : State :=
  match t.kind with
  | .grid | .task _ _ => s.failGrid t.grid c
  | .message token => match Table.find s.messages token with
    | some m => s.refuseMessage token m .amAbort
    | none => s
  | .replay _ => s

/-- A fatal fault of a group (R415): it stops at once, its gang is aborted, its grid fails, and the molt record takes it. -/
def State.fatal (s : State) (gid : Nat) (c : Cause) : State :=
  match s.group? gid with
  | none => s
  | some g =>
    let s1 := s.stopGroup gid c (g.pc (!g.slot0.live)).pc
    match s.team? g.team with
    | none => s1
    | some t => (s1.abortPeers t.gang gid).failWork t c

/-- Whether the write of an image in some frames fails (R403): one of them lies where no memory is (R30; log 93). -/
def imageFails (frames : List Nat) : Bool := frames.any fun f => !dpaPopulated (65536 * f)

/-- The state of a group poisoned (R403): every lane of its registers. -/
def Group.poisonAll (g : Group) : Group :=
  { g with regPoison := (List.range g.regs ++ (List.range 16).map fun n => 256 + n).foldl (fun t n => Table.set t n (BitVec.allOnes 256)) [] }

/-- The write of a gang's image failed (R403): its groups' registers, its tiles and its scratchpads are poisoned, it stops, and its
grid fails with SWAP_FAIL. -/
def State.swapFailed (s : State) (gang : Nat) : State :=
  let s1 : State := { s with
    groups := s.groups.map fun g => (g.1, if (s.gangGroups gang).any fun e => e.1 == g.1 then g.2.poisonAll else g.2)
    teams := s.teams.map fun t => (t.1, if t.2.gang == gang then
      { t.2 with tiles := t.2.tiles.map fun x => (x.1, { x.2 with poison := List.range 2048 }) } else t.2) }
  let s2 := (s.teamsOf gang).foldl (fun s t =>
    let part := t.2.spad / t.2.cores.length
    ((List.range t.2.cores.length).zip t.2.cores).foldl (fun s j => s.modCore j.2 fun c => { c with
      poolPoison := (List.range (part / 4)).foldl (fun p i => Table.set p (poolKey t.2.asid (t.2.padAt j.1 + 4 * i)) (.pool j.2)) c.poolPoison }) s) s1
  match ((s2.gangGroups gang).filter fun g => !g.2.ended).head? with
  | some g => s2.fatal g.1 .swapFail
  | none => s2

/-- GANG_SWAP_OUT (R163, R147, R403): a gang that waits is written to an image in frames of the pool, and its place is
freed. With too few frames in the pool it stays. -/
def execGangSwapOut (gang : Nat) (s : State) : Out :=
  match s.gangLead gang with
  | none => .next s
  | some (_, t) =>
    let s0 := t.cores.foldl (fun s c => s.flushCore c) s
    if !s.swapDue gang || !s0.gangQuiet gang || (s.bh t.bh).preEvicting.contains gang then .next s
    else
      let x := s0.savedOf gang t.bh t.asid []
      let (m, len, s1) := s0.imageOf t.asid t.bh [x]
      if (s1.bh t.bh).poolCount < framesFor len then .next s
      else
        let (fs, s2) := s1.engineFrames t.bh (framesFor len)
        let y : Saved := { x with frames := fs, tick := some s0.tick }
        if imageFails fs then .next (((s2.writeImage fs [y] m len).freeEngineFrames fs).swapFailed gang)
        else
        let s3 := (s2.writeImage fs [y] m len).removeGang y
        .next { s3 with saved := Table.set s3.saved gang y }

/-- GANG_SWAP_IN (R163, R403): a swapped gang returns once one of its waits is satisfied and it finds a place, before new teams of
its queue's priority and after those of a higher one; its frames go back to the pool. -/
def execGangSwapIn (gang : Nat) (s : State) : Out :=
  match Table.find s.saved gang with
  | none => .next s
  | some x =>
    if !s.returnDue x || (s.nextHead x.bh (s.savedPrio x + 1)).isSome then .next s
    else match s.savedFit x fun _ => true with
      | none => .next s
      | some fits =>
        let s1 := s.freeEngineFrames x.frames
        let y := (gangPlaces [x]).foldl (fun _ p => x.readBack (s.imageReader x.frames) p.2) x
        .next (({ s1 with saved := Table.erase s1.saved gang } : State).returnGang y fits)

/-- The bits of PRE_CMD word 0 that a write sets (R395). -/
def preMask0 : DWord := 0x700000FFFFFFFFFF

/-- The grade of PRE_CMD word 0. -/
def gradeOf (w0 : DWord) : Nat := bits w0.toNat 62 60

/-- GO and STATUS of PRE_CMD word 0, which a write does not set (R395). -/
def preStatus : DWord := 0x8000FF0000000000

/-- The three words of PRE_CMD written, word 0 last (R395): while a command runs, a GO write is ignored, and a write without GO
changes what the registers hold, not the command that runs (log 127). -/
def State.preWrite (s : State) (bh : Nat) (w0 w1 w2 : DWord) : State :=
  s.modBh bh fun b =>
    { b with pre0 := if b.preGo && w0.getLsbD 63 then b.pre0 else (w0 &&& preMask0) ||| (b.pre0 &&& preStatus), pre1 := w1, pre2 := w2 &&& 0x7FFFFF }

/-- A command of PRE_CMD starts (R395): its words 0 and 2 are those of its start until it ends. -/
def State.preStart (s : State) (bh : Nat) (w0 w2 : DWord) : State :=
  s.modBh bh fun b =>
    { b with pre0 := b.pre0 ||| BitVec.ofNat 64 (2 ^ 63), preGo := true, preCur0 := w0, preCur2 := w2 &&& 0x7FFFFF, preEnd := none, preEvicting := [] }

/-- Whether a bulkhead holds a context (R395): an event queue, a launch or a team of it is there (log 127). -/
def State.holdsCtx (s : State) (asid bh : Nat) : Bool := (Table.find (s.ctx asid).inst bh).isSome || s.anyTeam asid bh

/-- A command of PRE_CMD (R395): a GO write while one runs is ignored; a reserved GRADE, or an ASID that holds no context in the
bulkhead, ends with OPERAND_RANGE. `grade` is the one that `go` carries out. -/
def State.preCommand (s : State) (bh : Nat) (w0 w1 w2 : DWord) (grade : Nat) (go : Nat → State → State) : State :=
  let s1 := s.preWrite bh w0 w1 w2
  let asid := bits w0.toNat 15 0
  if (s.bh bh).preGo || !w0.getLsbD 63 then s1
  else if gradeOf w0 == 0 || gradeOf w0 == 7 || !s.holdsCtx asid bh then s1.endCommand bh Cause.operandRange.code.toNat
  else if gradeOf w0 != grade then s
  else go asid (s1.preStart bh w0 w2)

/-- DEADLINE of a command, in network cycles from now; none where it is 0 (R395). -/
def State.deadline (s : State) (w1 : DWord) : Option Nat :=
  if bits w1.toNat 63 32 == 0 then none else some (s.clock + micros (bits w1.toNat 63 32))

/-- Whether the time of the command that runs is over. -/
def State.preLate (s : State) (bh : Nat) : Bool :=
  match (s.bh bh).preEnd with
  | some t => decide (t ≤ s.clock)
  | none => false

/-- Whether a command of a grade runs in a bulkhead. -/
def State.preRuns (s : State) (bh grade : Nat) : Bool := (s.bh bh).preGo && gradeOf (s.bh bh).preCur0 == grade

/-- The ASID of the command that runs. -/
def State.preAsid (s : State) (bh : Nat) : Nat := bits (s.bh bh).preCur0.toNat 15 0

/-- The waiting tenders of a context that is drained or reset take TASK_CANCEL (R392, R396). -/
def State.cancelTenders (s : State) (asid bh : Nat) : State :=
  ((s.bh bh).tenders.filter fun t => t.st == .waiting && t.asid == asid).foldl (fun s t => s.unplace bh t .taskCancel) s

/-- PRE_DRAIN (R396): no further team of the context's queues is placed, and its waiting tenders take TASK_CANCEL. -/
def execPreDrain (bh : Nat) (w0 : DWord) (w1 : DWord) (w2 : DWord) (s : State) : Out :=
  .next (s.preCommand bh w0 w1 w2 1 fun asid s1 =>
    let s2 := (s1.modInst asid bh fun i => { i with drained := true }).cancelTenders asid bh
    (s2.modBh bh fun b => { b with preEnd := s.deadline w1 }).drainCheck bh)

/-- The groups of a context in a bulkhead, resident or swapped (R398). -/
def State.jobGroups (s : State) (asid bh : Nat) : List (Nat × Group) :=
  (s.groups.filter fun g => g.2.asid == asid && bhOf g.1 == bh)
    ++ (s.saved.filter fun x => x.2.asid == asid && x.2.bh == bh).flatMap fun x => x.2.groups

/-- PRE_CUT (R398): the target is TARGET, or 1 plus the largest count. -/
def execPreCut (bh : Nat) (w0 : DWord) (w1 : DWord) (w2 : DWord) (s : State) : Out :=
  .next (s.preCommand bh w0 w1 w2 2 fun asid s1 =>
    let top := ((s1.jobGroups asid bh).filter fun g => !g.2.ended).foldl (fun n g => max n g.2.stepCount.toNat) 0
    let target := bits w1.toNat 31 0
    if target != 0 && decide (target < top) then s1.endCommand bh Cause.operandRange.code.toNat
    else
      let t := if target == 0 then top + 1 else target
      (s1.modInst asid bh fun i => { i with cutPending := true, cutDone := false, cutTarget := BitVec.ofNat 32 t }).modBh bh
        fun b => { b with preEnd := s.deadline w1 })

/-- Whether a group counts as reached in a cut (R398). -/
def Group.reached (g : Group) (target : Word) : Bool :=
  g.ended || g.wait == .cutStop || (g.stepCount == target && match g.wait with
    | .bar _ | .gangsync | .qwait | .park | .ecwait | .atwait => true
    | _ => false)

/-- CUT_DONE (R398): every group has reached the target. -/
def execCutDone (bh : Nat) (s : State) : Out :=
  let asid := s.preAsid bh
  let i := s.inst asid bh
  if s.preRuns bh 2 && i.cutPending && (s.jobGroups asid bh).all fun g => g.2.reached i.cutTarget then
    .next ((s.modInst asid bh fun i => { i with cutDone := true }).endCommand bh 0)
  else .next s

/-- The groups of a context that a cut stopped resume (R398). -/
def State.resumeCut (s : State) (asid bh : Nat) : State :=
  let wake (g : Group) : Group := if g.wait == .cutStop then { g with wait := .none } else g
  let s1 := s.modInst asid bh fun i => { i with cutPending := false, cutDone := false }
  { s1 with groups := s1.groups.map fun g => (g.1, if g.2.asid == asid && bhOf g.1 == bh then wake g.2 else g.2) }

/-- CUT_TIMEOUT (R398): the deadline passes before the cut is done, and the stopped groups resume. -/
def execCutTimeout (bh : Nat) (s : State) : Out :=
  if s.preRuns bh 2 && s.preLate bh then
    .next ((s.resumeCut (s.preAsid bh) bh).endCommand bh Cause.cutTimeout.code.toNat)
  else .next s

/-- PRE_RELEASE_CUT (R398): the stopped groups resume. -/
def execPreReleaseCut (bh : Nat) (w0 : DWord) (w1 : DWord) (w2 : DWord) (s : State) : Out :=
  .next (s.preCommand bh w0 w1 w2 6 fun asid s1 => (s1.resumeCut asid bh).endCommand bh 0)

/-- The cores that CORES names: 0 means every core (R395). -/
def preCores (w0 : DWord) (bh : Nat) : List Nat :=
  let m := bits w0.toNat 39 16
  if m == 0 then coresOf bh else ((List.range 24).filter fun i => bit m i).map fun i => 24 * bh + i

/-- The gangs of a context that have a core among some (R399). -/
def State.gangsOn (s : State) (asid : Nat) (cores : List Nat) : List Nat :=
  ((s.teams.filter fun t => t.2.asid == asid && t.2.cores.any fun c => cores.contains c).map fun t => t.2.gang).eraseDups

/-- PRE_EVICT (R399): the context's gangs on CORES stop at their boundaries, and their releases begin. -/
def execPreEvict (bh : Nat) (w0 : DWord) (w1 : DWord) (w2 : DWord) (s : State) : Out :=
  .next (s.preCommand bh w0 w1 w2 3 fun asid s1 =>
    let gangs := s1.gangsOn asid (preCores w0 bh)
    let cores := ((s1.teams.filter fun t => gangs.contains t.2.gang).flatMap fun t => t.2.cores).eraseDups
    (cores.foldl (fun s c => s.flushCore c) s1).modBh bh fun b =>
      { b with preEvicting := gangs, preEnd := some (s.clock + 65537) })

/-- CTX_EVICT_TIMEOUT (R399): the wait of R147 took more than 65,536 network cycles; the groups resume. A drain of ABSMAX that
takes longer ends no eviction. -/
def execCtxEvictTimeout (bh : Nat) (s : State) : Out :=
  if s.preRuns bh 3 && s.preLate bh then .next (s.endCommand bh Cause.ctxEvictTimeout.code.toNat) else .next s

/-- A core without a context that has left it (R165): a twin that was frozen stays frozen (log 72). -/
def Core.leave (c : Core) (asid : Nat) : Core :=
  { c with resident := c.resident.filter fun r => r != asid
           switchedIn := if c.switchedIn == some asid then none else c.switchedIn }

/-- A context leaves the cores on which no team of it stays (R165). -/
def State.vacate (s : State) (asid : Nat) (cores : List Nat) : State :=
  cores.foldl (fun s c =>
    if !s.isResident c asid || s.teams.any fun t => t.2.asid == asid && t.2.cores.contains c then s
    else s.modCore c fun x => x.leave asid) s

/-- The frames of an image of a length from IMGF. -/
def imageFrames (imgf len : Nat) : List Nat := (List.range (framesFor len)).map fun i => imgf + i

/-- EVICTION_DRAIN_DONE (R399): once nothing of the gangs is on its way, the wait of R147 is over; once their drains of ABSMAX
are over too, the image is written in the frames from IMGF, and what they held is freed. -/
def execEvictionDrainDone (bh : Nat) (s : State) : Out :=
  let b := s.bh bh
  let asid := s.preAsid bh
  if !s.preRuns bh 3 || s.preLate bh || !b.preEvicting.all fun g => s.gangReleased g then .next s
  else if !b.preEvicting.all fun g => s.gangQuiet g then .next (s.modBh bh fun b => { b with preEnd := none })
  else
    let xs := stampGangs s.tick (b.preEvicting.map fun g => s.savedOf g bh asid [])
    let cores := preCores b.preCur0 bh
    let (m, len, s1) := s.imageOf asid bh xs
    let imgf := b.preCur2.toNat
    let frames := imageFrames imgf len
    let s2 := xs.foldl (fun s x => s.removeGang x) (s1.writeImage frames xs m len)
    let s3 : State := { s2 with images := Table.set s2.images imgf xs }
    .next ((s3.vacate asid ((xs.flatMap fun x => x.teams.flatMap fun t => t.2.cores) ++ cores).eraseDups).endCommand bh 0)

/-- The dwords of an image's header. -/
def State.imageHeader (s : State) (imgf i : Nat) : Nat := s.loadNow (65536 * imgf + 8 * i) 8

/-- The frames that a check of an image reads (R399): that of its header, and, where FORMAT, ASID, LENGTH and COMPLETE are right, all
of them. -/
def State.imageRead (s : State) (imgf asid : Nat) : Bool × List Nat :=
  let h := s.imageHeader imgf
  let len := h 4
  let ok := dpaPopulated (65536 * imgf) && h 0 == 1 && bits (h 1) 15 0 == asid && len % 4096 == 0 && decide (4096 ≤ len) && h 6 % 2 == 1
  (ok, if ok then imageFrames imgf len else [imgf])

/-- Why an image may not be restored (R399): a poisoned word, as one is where no memory lies (R30), or a field that its checks
refuse. -/
def State.imageRefusal (s : State) (imgf asid : Nat) : Option Cause :=
  let h := s.imageHeader imgf
  let len := h 4
  let bytes := (List.range (len - 0x40)).map fun i => BitVec.ofNat 8 (s.byteNow (65536 * imgf + 0x40 + i))
  let (ok, frames) := s.imageRead imgf asid
  if (s.poisonOf (65536 * imgf) 64).isSome then some .imagePoison
  else if !ok then some .imageForm
  else if frames.any (fun f => !dpaPopulated (65536 * f)) || (s.poisonOf (65536 * imgf) len).isSome then some .imagePoison
  else if (crcBytes 0xFFFFFFFF bytes).toNat != bits (h 7) 31 0 then some .imageForm
  else none

/-- The frames of an image that lie outside populated memory each post DPA_HOLE when they are read (R30). -/
def State.imageHoles (s : State) (imgf asid : Nat) : State :=
  (s.imageRead imgf asid).2.foldl (fun s f => s.holeCheck (65536 * f) 0) s

/-- Gangs of an image placed one after the other (R160, R161, R399), each where it fits; none where one finds no room. -/
def State.placeSaved (s : State) (bh : Nat) (allow : Nat → Bool) : List Saved → Option State
  | [] => some s
  | x :: t =>
    let y : Saved := { x with bh := bh }
    match s.savedFit y allow with
    | none => none
    | some fits => (s.returnGang y fits).placeSaved bh allow t

/-- The restore that runs with all its gangs placed (R399), where all of them find room. -/
def State.restored (s : State) (bh : Nat) : Option State :=
  let imgf := (s.bh bh).preCur2.toNat
  s.placeSaved bh (fun c => (preCores (s.bh bh).preCur0 bh).contains c)
    (s.gangsOfImage imgf (s.preAsid bh) bh (imageFrames imgf (s.imageHeader imgf 4)))

/-- A restore that runs (R399): its image is checked, and its gangs are placed once all of them find room. -/
def State.tryRestore (s : State) (bh : Nat) : State :=
  if !s.preRuns bh 4 then s
  else
    let imgf := (s.bh bh).preCur2.toNat
    match s.imageRefusal imgf (s.preAsid bh) with
    | some c => (s.imageHoles imgf (s.preAsid bh)).endCommand bh c.code.toNat
    | none => match s.restored bh with
      | some s1 => s1.endCommand bh 0
      | none => s

/-- PRE_RESTORE (R399): an image is checked and placed; a queue that a drain closed opens again. -/
def execPreRestore (bh : Nat) (w0 : DWord) (w1 : DWord) (w2 : DWord) (s : State) : Out :=
  .next (s.preCommand bh w0 w1 w2 4 fun asid s1 => (s1.modInst asid bh fun i => { i with drained := false }).tryRestore bh)

/-- Whether an engine request belongs to a context in a bulkhead and is not a completion's advance. -/
def EngReq.of (r : EngReq) (asid bh : Nat) : Bool :=
  r.asid == asid && r.bh == bh && match r.kind with
    | .signal _ _ => false
    | _ => true

/-- The engine requests of a context that is destroyed (R397): they fail with CTX_DESTROYED, and belong to no group. -/
def State.failRequests (s : State) (asid bh : Nat) : State :=
  { s with
    engines := s.engines.map fun r =>
      if !r.of asid bh then r
      else if r.finished then { r with gid := none }
      else { r with gid := none, finished := true, wait := none, cause := some (r.cause.getD .ctxDestroyed) }
    units := s.units.map fun u => (u.1, { u.2 with ops := u.2.ops.filter fun o => match s.group? o.gid with
      | some g => !(g.asid == asid && bhOf o.gid == bh)
      | none => false }) }

/-- The groups and teams of a context removed at once (R397): windows close without write-back, leave and claims go, and what
is still on its way belongs to nobody. -/
def State.dropGroups (s : State) (asid bh : Nat) : State :=
  let mine (gid : Nat) : Bool := match s.group? gid with
    | some g => g.asid == asid && bhOf gid == bh
    | none => false
  let ts := s.teams.filter fun t => t.2.asid == asid && t.2.bh == bh
  let marked := ((ts ++ (s.saved.filter fun x => x.2.asid == asid && x.2.bh == bh).flatMap fun x => x.2.teams).flatMap fun t =>
    t.2.windows.flatMap fun w => w.2.frames.map fun p => p.2).eraseDups
  let s1 := ts.foldl (fun s t => (s.releaseLeave t.1).releaseClaims t.1) s
  let s2 : State := { s1 with
    groups := s1.groups.filter fun g => !mine g.1
    teams := s1.teams.filter fun t => !(t.2.asid == asid && t.2.bh == bh)
    saved := s1.saved.filter fun x => !(x.2.asid == asid && x.2.bh == bh)
    pends := s1.pends.filter fun p => !mine p.gid
    posted := s1.posted.filter fun p => !mine p.gid
    fabWaits := s1.fabWaits.filter fun w => !((w.msg.gid.map mine).getD false)
    net := s1.net.map fun m => if (m.gid.map mine).getD false then { m with gid := none, pend := none } else m
    bhs := s1.bhs.map fun b => (b.1, { b.2 with watches := b.2.watches.filter fun m => !((m.gid.map mine).getD false) }) }
  marked.foldl (fun s f => s.syncMirror f) s2

/-- The bindings and objects of a context in a bulkhead end, and its pins there go, with nothing applied or written back
(R397). -/
def State.dropHoldings (s : State) (asid bh : Nat) : State :=
  let s1 := ((s.bh bh).bindings.filter fun b => b.2.asid == asid).foldl (fun s b => s.endBinding bh b.1 b.2) s
  let s2 := ((s1.bh bh).objs.filter fun o => o.2.asid == asid).foldl (fun s o =>
    (if o.2.readOnly then s.leaveReadOnly bh o.1 o.2 none else s).dropObj bh o.1) s1
  let hit := s2.lines.filter fun e => bhOfDpa (128 * e.1) == bh && e.2.pins.any fun p => p.1 == asid
  let s3 := hit.foldl (fun s e => s.setLine e.1 { e.2 with pins := e.2.pins.filter fun p => p.1 != asid }) s2
  ((hit.map fun e => e.1 / 512).eraseDups).foldl (fun s f => s.syncPins f) s3

/-- The unfinished grids of a context in a bulkhead fail (R397), and its queues are empty; replays of them end. -/
def State.failGrids (s : State) (asid bh : Nat) (c : Cause) : State :=
  let gs := s.grids.filter fun g => g.2.asid == asid && g.2.bh == bh && !g.2.reported
  let s1 := gs.foldl (fun s g => (s.failGrid g.1 c).modGrid g.1 fun x => { x with retired := x.placed }) s
  let s2 := s1.modInst asid bh fun i => { i with queues := Vector.replicate 16 [], drained := false, cutPending := false, cutDone := false }
  let (gone, kept) := (s2.bh bh).jobs.partition fun j => j.team.asid == asid
  (s2.freeEngineFrames (gone.flatMap fun j => j.logFrames)).modBh bh fun b => { b with jobs := kept }

/-- The tendered tasks of a context that have not started are reported as ended with a cause (R434), and its active messages
go. -/
def State.dropTasks (s : State) (asid bh : Nat) (c : Cause) : State :=
  let tasks := (coresOf bh).flatMap fun k => (s.core k).tasks.filter fun t => t.work.asid == asid
  let s1 := tasks.foldl (fun s t =>
    let s' := s.postCtx asid bh 0x07 Cause.taskAbort.code.toNat 0 0 t.seq c.code.toNat
    if t.done == 0 then s'.modTender bh t.seq fun x => { x with st := .done } else s'.signalFor bh asid false t.done (some t.seq)) s
  let gone := (s1.messages.filter fun m => m.2.asid == asid && bhOfCore m.2.core == bh).map fun m => m.1
  { s1 with
    cores := s1.cores.map fun k => (k.1, if bhOfCore k.1 == bh then
      { k.2 with tasks := k.2.tasks.filter fun t => t.work.asid != asid, inbox := k.2.inbox.filter fun m => !gone.contains m } else k.2)
    messages := s1.messages.filter fun m => !gone.contains m.1
    net := s1.net.filter fun m => !(m.kind == .amReply && m.asid == asid && bhOfCore m.core == bh) }

/-- The tenders of a destroyed context that the chorus serves: they start nothing, and nobody is left to be told (R397). -/
def State.endTenders (s : State) (asid bh : Nat) : State :=
  s.modBh bh fun b => { b with tenders := b.tenders.map fun t => if t.asid == asid && t.inService then { t with st := .unplaced } else t }

/-- A context destroyed in a bulkhead (R397), with the cause that its unfinished grids take; its waiting tenders are
cancelled (R392, 0x4D). -/
def State.destroyContext (s : State) (asid bh : Nat) (c : Cause) : State :=
  let s1 := ((s.cancelTenders asid bh).endTenders asid bh).failCollPeers (fun r => r.asid == asid && r.bh == bh) bh .collPeer
  let s2 := (s1.failRequests asid bh).dropTasks asid bh c
  let s3 := ((s2.dropGroups asid bh).dropHoldings asid bh).failGrids asid bh c
  s3.vacate asid (coresOf bh)

/-- PRE_FORCED_RESET (R397): every group of the context in the bulkhead stops at once. -/
def execPreForcedReset (bh : Nat) (w0 : DWord) (w1 : DWord) (w2 : DWord) (s : State) : Out :=
  .next (s.preCommand bh w0 w1 w2 5 fun asid s1 => (s1.destroyContext asid bh .ctxDestroyed).endCommand bh 0)

/-- DRAIN_DEADLINE (R396): a forced context reset follows, and every unfinished grid takes DRAIN_DEADLINE. -/
def execDrainDeadline (bh : Nat) (s : State) : Out :=
  if s.preRuns bh 1 && s.preLate bh then
    .next ((s.destroyContext (s.preAsid bh) bh .drainDeadline).endCommand bh Cause.drainDeadline.code.toNat)
  else .next s

end Sys2Proof.Machine
end

