-- ==== Sys2Proof/Machine/DevReset.lean ====
section
/-! DEFINITION. Resets of one bulkhead (R42 to R48): what starts them, their phases, and what the rest of the device
sees; the host's request (R426) and the watchdog's expiry (R44). -/

namespace Sys2Proof.Machine

/-- FENCED set in the entries of a gate whose PEER is a bulkhead (R45). -/
def fenceEntries (v : Vector DWord 8) (b : Nat) : Vector DWord 8 :=
  v.map fun w => if bits w.toNat 61 59 == b then w ||| 0x4000000000000000 else w

/-- A bulkhead reset begins with its Fence phase (R43, R45); one that runs already goes on. The bulkhead's own gate refuses
by its phase. -/
def State.beginReset (s : State) (b : Nat) (cause : BitVec 4) : State :=
  if (s.bh b).rstPhase != .idle then s
  else { s with bhs := s.bhs.map fun e =>
      (e.1, if e.1 == b then
          { e.2 with rstPhase := .fence, rstCause := cause, rstCount := min (e.2.rstCount + 1) 0xFFFF }
        else { e.2 with egr0 := fenceEntries e.2.egr0 b, ing0 := fenceEntries e.2.ing0 b }) }

/-- BULKHEAD_RESET (R43, R45): a reset starts for one of the causes of R43. -/
def execBulkheadReset (bh : Nat) (cause : BitVec 4) (s : State) : Out :=
  .next (if cause.toNat < 6 then s.beginReset bh cause else s)

/-- RAIL_FAULT (R42): a fault on a bulkhead's rail resets it. -/
def execRailFault (bh : Nat) (s : State) : Out := .next (s.beginReset bh 2)

/-- PLL_LOCK_LOSS (R42): loss of lock of its PLL resets a bulkhead. -/
def execPllLockLoss (bh : Nat) (s : State) : Out := .next (s.beginReset bh 3)

/-- SLICE_GATE_FAULT (R42): an uncorrectable fault in slice or gate logic resets a bulkhead. -/
def execSliceGateFault (bh : Nat) (s : State) : Out := .next (s.beginReset bh 5)

/-- WATCHDOG_EXPIRY (R44): PERIOD microseconds after the later of the last kick and the write that set EN. -/
def execWatchdogExpiry (bh : Nat) (s : State) : Out :=
  let b := s.bh bh
  .next (if b.wdogEn && decide (b.wdogSince + micros b.wdogPeriod ≤ s.clock) then s.beginReset bh 4 else s)

/-- The bulkheads of tenant entry `n` (R36). -/
def State.tenantShape (s : State) (n : Nat) : List Nat :=
  let e := s.tntShape[n % 8]'(Nat.mod_lt _ (by decide))
  if e.getLsbD 63 then shapeBulkheads e else []

/-- VF_BHRESET (R426): the host of virtual function `n` resets bulkheads of its own tenant; others are ignored and
reported. The resets that it asked for are kept, and GO stays 1 while one of them runs. In tadpole mode no virtual function is
there (R445). -/
def execVfBhreset (n : Nat) (v : DWord) (s : State) : Out :=
  let mine := s.tenantShape n
  let named := (List.range 8).filter fun b => v.getLsbD b
  let refused := named.any fun b => !mine.contains b
  let todo := if v.getLsbD 63 then named.filter fun b => mine.contains b else []
  let s1 := todo.foldl (fun s b => s.beginReset b 1) s
  let old := s.vfReset[n % 8]'(Nat.mod_lt _ (by decide))
  let go := (old &&& 0x8000000000000000) ||| (if todo.isEmpty then 0 else 0x8000000000000000)
  if s.bootStage == .tadpole then .next s
  else .next { s1 with
    vfReset := putEntry s1.vfReset n (go ||| (v &&& 0xFF) ||| (if refused then 0x4000000000000000 else 0))
    vfRunning := if todo.isEmpty then s1.vfRunning
      else Table.set s1.vfRunning (n % 8) ((Table.findD s1.vfRunning (n % 8) [] ++ todo).eraseDups) }

/-- Requests of other bulkheads to a bulkhead that resets (R45, R46): those accepted complete, those that stand as watches
and those not accepted are answered with WINDOW_PEER_RESET. -/
def State.answerPeers (s : State) (b : Nat) : State :=
  let foreign (m : Msg) : Bool := bhOfDpa m.dpa == b && bhOfCore m.core != b && m.kind.request
  let s1 := (s.net.filter foreign).foldl (fun s m =>
    match s.msg? m.id with
    | none => s
    | some x => if x.passed then (s.settleAll x.dpa x.size).perform x else s.refuseMsg x .windowPeerReset) s
  let ws := (s1.bh b).watches
  let s2 := s1.modBh b fun x => { x with watches := [] }
  ws.foldl (fun s m => if bhOfCore m.core == b then s else s.refuseMsg m .windowPeerReset) s2

/-- The registered words of a line of a bulkhead with a slice or gate fault whose value does not return within the phase bound:
they are left poisoned (R45). Which they are is open: a free value each (log 126). -/
def State.loseValues (s : State) (l : Nat) : State :=
  (wordsOfLine l).foldl (fun s w => match s.owner w with
    | none => s
    | some core =>
      let (v, s1) := s.free
      if v.getLsbD 0 then
        ({ s1 with owners := Table.erase s1.owners w, poison := Table.set s1.poison w .l2 } : State).dropL1 core w
      else s1) s

/-- The lines of a bulkhead written back in the Settle phase (R45). For a slice or gate fault, whether a line can be
written back is open (a free value, log 2); where it cannot, it is written as poisoned. -/
def State.settleLines (s : State) (b : Nat) : State :=
  (s.linesOfBh b).foldl (fun s l =>
    let s1 := (if (s.bh b).rstCause == 5 then s.loseValues l else s).settleLine l
    if (s1.bh b).rstCause == 5 && (s1.line l).dirty then
      let (v, s2) := s1.free
      if v.getLsbD 0 then
        { s2.setLine l { s2.line l with dirty := false } with
          poison := (wordsOfLine l).foldl (fun t w => Table.set t w .l2) s2.poison }
      else s2.writeBackLine l
    else s1.writeBackLine l) s

/-- The Settle phase (R45): accepted requests complete, replies owed by others are dropped, every registered word of the
bulkhead's frames returns, and dirty lines are written back. -/
def State.settlePhase (s : State) (b : Nat) : State :=
  let s1 := s.answerPeers b
  let s2 : State := { s1 with net := s1.net.filter fun m =>
    !(bhOfCore m.core == b && bhOfDpa m.dpa != b && !m.kind.request && m.kind != .revoke && m.kind != .forward) }
  s2.settleLines b

/-- RESET_SETTLE (R45): the Settle phase. -/
def execResetSettle (bh : Nat) (s : State) : Out :=
  .next (if (s.bh bh).rstPhase == .fence then (s.settlePhase bh).modBh bh fun x => { x with rstPhase := .settle } else s)

/-- The words of other bulkheads' frames that a reset bulkhead's cores owned: they keep what their slice holds, marked
poisoned (R46). -/
def State.orphanWords (s : State) (b : Nat) : State :=
  let ws := (s.owners.filter fun e => bhOfCore e.2.1 == b).map fun e => e.1
  { s with owners := s.owners.filter fun e => bhOfCore e.2.1 != b
           poison := ws.foldl (fun t w => Table.set t w .remote) s.poison }

/-- A bulkhead after the logic reset (R45, R47): its slices, engines, chorus network and governor are at their reset
values; what is not part of them stays (log 31). -/
def Bulkhead.logicReset (x : Bulkhead) : Bulkhead :=
  { Bulkhead.reset with
    rstPhase := .logic, rstCause := x.rstCause, rstCount := x.rstCount, rstLastUs := x.rstLastUs
    wdogPeriod := x.wdogPeriod, wdogSince := x.wdogSince, fdtBase := x.fdtBase, poolLow := x.poolLow, egr0 := x.egr0
    egr1 := x.egr1, ing0 := x.ing0, ing1 := x.ing1, gateErr := x.gateErr, eccL2 := x.eccL2, eccHbm := x.eccHbm }

/-- A core after the logic reset: only its suspicion and quarantine stay (R414). -/
def Core.logicReset (c : Core) : Core :=
  { Core.reset with suspScore := c.suspScore, suspLimit := c.suspLimit, quarantined := c.quarantined
                    eccPool := c.eccPool, eccL1 := c.eccL1 }

/-- What a bulkhead reset ends is reported (R392, 0x5E): its requests and its unfinished grids fail with CTX_DESTROYED, post
their records while the event queues stand, and ask for their advances. -/
def State.reportLoss (s : State) (b : Nat) : State :=
  let asids := ((s.grids.filter fun g => g.2.bh == b).map (fun g => g.2.asid)
    ++ (s.engines.filter fun r => r.bh == b).map fun r => r.asid).eraseDups
  let s1 := asids.foldl (fun s a => (s.failRequests a b).failGrids a b .ctxDestroyed) s
  let s2 := (s1.engines.filter fun r => r.bh == b && !r.isSignal).foldl (fun s r => s.retireRequest r) s1
  (s2.grids.filter fun g => g.2.bh == b).foldl (fun s g => s.reportEnd g.1 g.2) s2

/-- The groups, teams, grids, swapped gangs, requests and messages of a bulkhead removed (R45): its groups never resume. The
advances of completion objects stay to be made (R158). -/
def State.destroyGroups (s : State) (b : Nat) : State :=
  { s with groups := s.groups.filter fun g => bhOf g.1 != b
           teams := s.teams.filter fun t => t.2.bh != b
           grids := s.grids.filter fun g => g.2.bh != b
           saved := s.saved.filter fun x => x.2.bh != b
           pends := s.pends.filter fun p => bhOf p.gid != b
           engines := s.engines.filter fun r => r.bh != b || r.isSignal
           messages := s.messages.filter fun m => bhOfCore m.2.core != b
           posted := s.posted.filter fun p => bhOf p.gid != b
           fabWaits := s.fabWaits.filter fun w => bhOfCore w.msg.core != b
           net := s.net.filter fun m => bhOfCore m.core != b
           units := s.units.filter fun u => bhOfCore (u.1 / 4) != b
           ctxs := s.ctxs.map fun c =>
             (c.1, { c.2 with inst := Table.erase c.2.inst b, spIds := c.2.spIds.filter fun e => e.2.1 != b }) }

/-- The frames of a bulkhead in which a line holds a pin. -/
def State.pinnedFrames (s : State) (b : Nat) : List Nat :=
  ((s.lines.filter fun e => bhOfDpa (128 * e.1) == b && !e.2.pins.isEmpty).map fun e => e.1 / 512).eraseDups

/-- The frames that the mirror windows of a bulkhead's teams mark. -/
def State.mirroredBy (s : State) (b : Nat) : List Nat :=
  (((s.teams ++ s.savedTeams).filter fun t => t.2.bh == b).flatMap fun t =>
    t.2.windows.flatMap fun w => w.2.frames.map fun p => p.2).eraseDups

/-- The logic reset of a bulkhead (R45, R46, R47). -/
def State.logicReset (s : State) (b : Nat) : State :=
  let own (m : Msg) : Bool := bhOfCore m.core == b && bhOfDpa m.dpa != b && m.kind.request && m.passed
  let s1 := (s.net.filter own).foldl (fun s m => match s.msg? m.id with
    | some x => (s.settleAll x.dpa x.size).perform x
    | none => s) s
  let s2 := (((s1.failCollPeers (fun r => r.bh == b) b .windowPeerReset).reportLoss b).settlePhase b).orphanWords b
  let pinned := s2.pinnedFrames b
  let marked := s2.mirroredBy b
  let s3 := s2.destroyGroups b
  let s4 : State := { s3 with
    lines := s3.lines.filter fun e => bhOfDpa (128 * e.1) != b
    bhs := s3.bhs.map fun e =>
      (e.1, if e.1 == b then e.2.logicReset else { e.2 with watches := e.2.watches.filter fun m => bhOfCore m.core != b })
    cores := s3.cores.map fun c => (c.1, if bhOfCore c.1 == b then c.2.logicReset else c.2) }
  let s5 := marked.foldl (fun s f => s.syncMirror f) (pinned.foldl (fun s f => s.syncPins f) s4)
  s5.settleLines b

/-- LOGIC_RESET (R45): the logic reset phase. -/
def execLogicReset (bh : Nat) (s : State) : Out := .next (if (s.bh bh).rstPhase == .settle then s.logicReset bh else s)

/-- PLL_RELOCK (R45): the PLL relocks at operating-point code 0. -/
def execPllRelock (bh : Nat) (s : State) : Out :=
  .next (s.modBh bh fun x => if x.rstPhase == .logic then { x with rstPhase := .clock, opp := 0 } else x)

/-- MEMORY_REINIT (R45): the HBM controller re-initialises; the contents of HBM are kept. -/
def execMemoryReinit (bh : Nat) (s : State) : Out :=
  .next (s.modBh bh fun x => if x.rstPhase == .clock then { x with rstPhase := .memory } else x)

/-- BH_RSTCTL as it reads when a reset has completed (R43). -/
def Bulkhead.rstCtl (x : Bulkhead) : Nat := x.rstCause.toNat * 2 ^ 48 + x.rstCount * 2 ^ 32 + x.rstLastUs.toNat

/-- The self-test phase begins (R45): the memory is initialised. -/
def State.beginSelfTest (s : State) (b : Nat) : State :=
  s.modBh b fun x => if x.rstPhase == .memory then { x with rstPhase := .selfTest } else x

/-- The reset of a bulkhead has completed for the functions that asked for it: GO of VF_BHRESET clears where it was the last of
those that a function started (R426). -/
def State.vfResetDone (s : State) (b : Nat) : State :=
  let left := (s.vfRunning.map fun e => (e.1, e.2.filter fun x => x != b)).filter fun e => !e.2.isEmpty
  { s with
    vfRunning := left
    vfReset := Vector.ofFn fun n =>
      let v := s.vfReset[n]
      if (Table.find left n.val).isSome then v else v &&& 0x7FFFFFFFFFFFFFFF }

/-- SELF_TEST (R45, R47, R379, R450): the last phase; cores that fail are left quarantined, and the reset completes with its
records; Ronuri copies the molt record then. -/
def execSelfTest (bh : Nat) (failed : BitVec 24) (us : BitVec 32) (s : State) : Out :=
  if (s.bh bh).rstPhase != .selfTest then .next s
  else
    let s1 := ((List.range 24).filter fun i => failed.getLsbD i).foldl (fun s i => s.quarantine (24 * bh + i)) s
    let s2 := (s1.modBh bh fun x => { x with rstPhase := .idle, rstLastUs := us }).vfResetDone bh
    let d := (s2.bh bh).rstCtl
    .next ((s2.molt bh 1 0 0xFF 0 (s2.cyc (24 * bh)) d).postSupRecord 0x09 0 d bh).copyMolt

end Sys2Proof.Machine
end

