-- ==== Sys2Proof/Machine/MatrixUnit.lean ====
section
/-! DEFINITION. What the matrix unit does by itself: the start and the completion of operations, their arithmetic, and
the pairs that waiting loads claim (R192, R335, R336, R338, R339, R342 to R346). -/

namespace Sys2Proof.Machine

/-- How a tile's version stands to the one that an operation names (R335). -/
inductive VerCheck where
  | equal | ahead | passed
deriving DecidableEq, Repr

/-- The check of R335. -/
def verCheck (version v : BitVec 16) : VerCheck :=
  let d := (version - v).toNat
  if d == 0 then .equal else if d < 32768 then .passed else .ahead

/-- Both checks of an operation that names two tiles. -/
def VerCheck.both (a b : VerCheck) : VerCheck :=
  if a == .passed || b == .passed then .passed else if a == .ahead || b == .ahead then .ahead else .equal

/-- The versions that an operation waits for (R335). -/
def State.opCheck (s : State) (core part : Nat) (o : MatOp) : VerCheck :=
  match (s.opTeam o).bind s.team?, o.ver with
  | some t, some v =>
    let one (n : Nat) (v : BitVec 16) : VerCheck := verCheck (t.tile core part n).version v
    match o.kind with
    | .accAdd d a va => (one d v).both (one a va)
    | k => match k.tiles with
      | d :: _ => one d v
      | [] => .equal
  | _, _ => .equal

/-- The operations that precede one at its unit. -/
def MatUnit.before (u : MatUnit) (o : MatOp) : List MatOp := u.ops.takeWhile fun x => x.id != o.id

/-- Whether a load may start (R338, R339): its pair is its team's or free, and no earlier operation of the team reads the
slot. -/
def State.loadMayStart (s : State) (u : MatUnit) (o : MatOp) : Bool :=
  match o.kind, s.opTeam o with
  | .load w _ _ _ _ _, some tid =>
    let c := u.claim (w / 2)
    (c.isNone || (c == some tid && (u.freeing (w / 2)).elim true fun n => decide (o.id < n)))
      && !((u.before o).any fun x => s.opTeam x == some tid && !x.kind.isLoad && x.kind.slot? == some w)
  | _, _ => true

/-- Whether a load waits for a pair that another team holds, or that its own team has released (R338, R340). -/
def State.waitsPair (s : State) (u : MatUnit) (o : MatOp) : Bool :=
  match o.kind with
  | .load w _ _ _ _ _ => match u.claim (w / 2) with
    | some c => some c != s.opTeam o || (u.freeing (w / 2)).elim false fun n => decide (n ≤ o.id)
    | none => false
  | _ => false

/-- Whether an operation holds back no operation of another group (R336, R338): it, or one of its own group before it, waits for
a version or for a pair. -/
def State.setAside (s : State) (core part : Nat) (u : MatUnit) (o : MatOp) : Bool :=
  (u.before o ++ [o]).any fun x => x.gid == o.gid && (s.opCheck core part x == .ahead || s.waitsPair u x)

/-- Whether an operation may start (R335, R336): those before it at the unit hold it back no more, and it waits neither for a
version, nor for a pair, nor for the readers of its slot. -/
def State.opMayStart (s : State) (core part : Nat) (u : MatUnit) (o : MatOp) : Bool :=
  (u.before o).all (fun x => x.gid != o.gid && s.setAside core part u x) && s.opCheck core part o != .ahead && s.loadMayStart u o

/-- An operation taken off its unit. -/
def State.dropOp (s : State) (core part id : Nat) : State :=
  s.modUnit core part fun u => { u with ops := u.ops.filter fun o => o.id != id }

/-- An operation reported with a cause (R335): it changes nothing, and its registers stay empty. -/
def State.failOp (s : State) (core part : Nat) (o : MatOp) (c : Cause) : State :=
  let s1 := (s.dropOp core part o.id).engineDone o.id (some c)
  let mark (p : Pend) : Pend := if p.ge == some o.id && p.hold then { p with failed := true } else p
  { s1 with pends := (s1.pends.map mark).filter fun p => !(p.ge == some o.id && !p.hold) }

/-- MATRIX_OP_START (R336): The matrix unit starts an operation whose tile version matches. One whose version has passed
is reported instead (R335), and a load claims a free pair (R338). -/
def execMatrixOpStart (core part : Nat) (s : State) : Out :=
  let u := s.unit core part
  if u.ops.any fun o => o.started then .next s
  else match u.ops.find? fun o => s.worksFor (bhOfCore core) o.gid && s.opMayStart core part u o with
    | none => .next s
    | some o =>
      if s.opCheck core part o == .passed then .next (s.failOp core part o .accVersion)
      else
        .next (s.modUnit core part fun u =>
          let u1 := match o.kind with
            | .load w _ _ _ _ _ => if (u.claim (w / 2)).isNone then u.setClaim (w / 2) (s.opTeam o) else u
            | _ => u
          { u1 with ops := u1.ops.map fun x => if x.id == o.id then { x with started := true } else x })

/-- The value of an operand code (R174, R177): a reserved ternary code reads as 0. -/
def operandValue (fc lut code : Nat) : Exact :=
  if lut != 0 then Exact.ofInt (2 * code - (2 ^ 2 ^ (lut - 1) - 1 : Int))
  else match fc with
    | 0 => Exact.ofInt (signed 8 code)
    | 18 => Exact.ofInt (if code == 1 then 1 else if code == 3 then -1 else 0)
    | _ => (fmtOf fc).value code

/-- Whether the elements of a format are integers: i8, ternary and lookup elements (R342). -/
def intFormat (fc lut : Nat) : Bool := fc == 0 || fc == 18 || lut != 0

/-- A product of MacBlock (R192). An integer has no signed zero: where it is 0, the product with a number is +0; the sign of an
integer times a floating-point zero is that of the signs (log 130). -/
def macProduct (ia ib : Bool) (x y : Exact) : Exact × Flags :=
  match x, y with
  | .zero a, .fin .. => if ia then (.zero false, .none) else Exact.mul (.zero a) y
  | .fin .., .zero b => if ib then (.zero false, .none) else Exact.mul x (.zero b)
  | .zero a, .zero b => if ia || ib then (.zero false, .none) else Exact.mul (.zero a) (.zero b)
  | x, y => Exact.mul x y

/-- MacBlock (R192): an infinite product gives that infinity, whatever the accumulator; `ia` and `ib` mark integer elements. -/
def macBlock (ia ib : Bool) (acc : Word) (a : List Exact) (sa : Nat) (b : List Exact) (sb : Nat) : Word × Flags :=
  let c := Fmt.f32.value acc.toNat
  if c.isNan || sa == 255 || sb == 255 || a.any Exact.isNan || b.any Exact.isNan then
    (BitVec.ofNat 32 Fmt.f32.nanCode, { nv := true })
  else
    let (p, fp) := (a.zip b).foldl (fun (st : Exact × Flags) x =>
      let (m, fm) := macProduct ia ib x.1 x.2
      let (r, fr) := Exact.add .rne st.1 m
      (r, (st.2.or fm).or fr)) (Exact.zero true, Flags.none)
    if p.isInf then (BitVec.ofNat 32 (roundNE32 p).1, fp)
    else
    let (r, fr) := Exact.add .rne c (p.scale ((sa : Int) - 127 + ((sb : Int) - 127)))
    let (code, fc) := roundNE32 r
    (BitVec.ofNat 32 code, (fp.or fr).or fc)

/-- What a multiply-accumulate operation reads: stream codes at depth × m + k, stream scales at 8m + j. -/
structure MacIn where
  codes : Codes
  scales : Codes

/-- An empty gathering of codes. -/
def Codes.empty : Codes := { codes := [], poison := false, fail := Option.none, waits := false }

/-- The stream elements of a multiply-accumulate operation (R342). -/
def State.readStream (s : State) (q : Asker) (st : Stream) (row0 kbase depth : Nat) : MacIn × State :=
  let (c, s1) := (List.range 32).foldl (fun (acc : Codes × State) m =>
    acc.2.rowCodes q st.shape (row0 + m) kbase depth (depth * m) 1 acc.1) (Codes.empty, s)
  match st.scales with
  | none => ({ codes := c, scales := Codes.empty }, s1)
  | some h =>
    let (d, s2) := (List.range 32).foldl (fun (acc : Codes × State) m =>
      acc.2.rowCodes q h (row0 + m) (kbase / 32) ((depth + 31) / 32) (8 * m) 1 acc.1) (Codes.empty, s1)
    ({ codes := c, scales := d }, s2)

/-- The fill constants of `mtri` (R333). -/
def fillConst (n : Nat) : Word :=
  match n with
  | 0 => 0
  | 1 => 0xFF800000
  | 2 => 0xFF7FFFFF
  | _ => 0x7F800000

/-- One element of MacTile (R342). -/
def macElem (w : WeightSlot) (fcA : Nat) (x : MacIn) (acc : Word) (m n : Nat) : Word × Flags :=
  let fcW := w.fc.toNat
  let kb := blockOf fcW
  (List.range (w.kw / kb)).foldl (fun (st : Word × Flags) j =>
    let ks := (List.range kb).map fun k => kb * j + k
    let as := ks.map fun k => operandValue fcA 0 (Table.findD x.codes.codes (w.kw * m + k) 0)
    let ws := ks.map fun k => operandValue fcW w.lut (Table.findD w.codes (64 * k + n) 0)
    let sa := if kb == 16 then 127 else Table.findD x.scales.codes (8 * m + j) 127
    let sw := if kb == 16 then 127 else Table.findD w.scales (64 * j + n) 127
    let (r, fl) := macBlock (intFormat fcA 0) (intFormat fcW w.lut) st.1 as sa ws sw
    (r, st.2.or fl)) (acc, Flags.none)

/-- MacTile (R342, R343): the tile and the flags. -/
def macTile (op : Byte) (w : WeightSlot) (fcA : Nat) (x : MacIn) (old : Tile) (zero : Bool) (fill : Nat) (diag : Int) : Tile × Flags :=
  let es := (List.range 2048).map fun i =>
    let m : Nat := i / 64
    let n : Nat := i % 64
    if op == 0xD2 && decide (diag + (m : Int) < (n : Int)) then (fillConst fill, Flags.none)
    else macElem w fcA x (if zero then 0 else old.at m n) m n
  ({ version := old.version, data := (List.range 2048).zip (es.map fun e => e.1) }, es.foldl (fun a e => a.or e.2) .none)

/-- The weights of a load (R339): codes at 64k + n. -/
def State.readWeights (s : State) (q : Asker) (h : Shape) (lut kbase nbase : Nat) : Codes × State :=
  let depth := depthOf h.fc.toNat
  if lut == 0 then
    (List.range depth).foldl (fun (acc : Codes × State) k =>
      acc.2.rowCodes q h (kbase + k) nbase 64 (64 * k) 1 acc.1) (Codes.empty, s)
  else
    let b := 2 ^ (lut - 1)
    let first := nbase * b / 8
    let count := (nbase + 63) * b / 8 + 1 - first
    let (c, s1) := (List.range depth).foldl (fun (acc : Codes × State) k =>
      acc.2.rowCodes q h (kbase + k) first count (128 * k) 1 acc.1) (Codes.empty, s)
    let code (k n : Nat) : Nat :=
      Table.findD c.codes (128 * k + ((nbase + n) * b / 8 - first)) 0 / 2 ^ ((nbase + n) % (8 / b) * b) % 2 ^ b
    ({ c with codes := (List.range (64 * depth)).map fun i => (i, code (i / 64) (i % 64)) }, s1)

/-- The scales of a load (R339): at 64j + n. -/
def State.readScales (s : State) (q : Asker) (h : Option Shape) (kbase nbase depth : Nat) : Codes × State :=
  match h with
  | none => (Codes.empty, s)
  | some h => (List.range (depth / 32)).foldl (fun (acc : Codes × State) j =>
      acc.2.rowCodes q h (kbase / 32 + j) nbase 64 (64 * j) 1 acc.1) (Codes.empty, s)

/-- What an operation does to its tile or slot. -/
inductive MatOut where
  | slot (w : Nat) (x : WeightSlot)
  | tile (x : Tile) (f : Flags)
  | regs (vals : List (Lanes Word)) (f : Flags)
  | peek (v : Word)
  | poisoned
  | waits
  | failed (c : Cause) (a : DWord)

/-- The outcome of reads that must wait, or that met poison or a failing check (R336). -/
def Codes.bad (c d : Codes) : Option MatOut :=
  match firstOf c.fail d.fail with
  | some (x, a) => some (.failed x a)
  | none => if c.waits || d.waits then some .waits else if c.poison || d.poison then some .poisoned else none

/-- The code that `mrd` gives an element (R345): f16 and b16 are rounded, and only OF is kept. -/
def readCode (ty : Nat) (v : FpEnv) (x d : Word) : Nat × Flags :=
  if ty == 10 then (x.toNat, .none)
  else
    let fm := fmtOf ty
    match Fmt.f32.value x.toNat with
    | .nan => (fm.nanCode, .none)
    | y =>
      let (c, fl) := fm.code v d y
      (c, { of_ := fl.of_ })

/-- Lane `i` of register `r` of an `mrd` (R345); `draw j` is the lane's draw for the `j`-th element that it rounds. -/
def readLane (t : Tile) (ty : Nat) (v : FpEnv) (draw : Nat → Word) (r i : Nat) : Word × Flags :=
  if ty == 10 then (t.at (4 * r + i / 64) (i % 64), .none)
  else
    let m := 8 * r + i / 32
    let (lo, fl) := readCode ty v (t.at m (2 * (i % 32))) (draw (2 * r))
    let (hi, fh) := readCode ty v (t.at m (2 * (i % 32) + 1)) (draw (2 * r + 1))
    (BitVec.ofNat 32 (lo + hi * 2 ^ 16), fl.or fh)

/-- `mrd` of a tile in the lanes of a mask: its registers and flags. -/
def readTile (t : Tile) (ty : Nat) (v : FpEnv) (mask : Mask) (draw : Nat → Nat → Word) : MatOut :=
  let rs := (List.range (if ty == 10 then 8 else 4)).map fun r =>
    Lanes.of fun i => if mask.getLsbD i then readLane t ty v (draw i) r i else (0, Flags.none)
  .regs (rs.map fun l => Lanes.of fun i => (l.lane i).1) (rs.foldl (fun a l => l.toList.foldl (fun a e => a.or e.2) a) .none)

/-- The tile that `mwr` writes (R345). -/
def writeTile (version : BitVec 16) (data : List (Lanes Word)) : Tile :=
  Tile.build version fun m n => match data[m / 4]? with
    | some l => l.lane (64 * (m % 4) + n)
    | none => 0

/-- A housekeeping operation on each element with its flags (R344): a signalling NaN sets NV. -/
def mapTile (t : Tile) (f : Nat → Exact × Flags) : Tile × Flags :=
  let es := (List.range 2048).map fun i =>
    let (x, fx) := f i
    let (c, fc) := roundNE32 x
    (BitVec.ofNat 32 c, fx.or fc)
  ({ version := t.version, data := (List.range 2048).zip (es.map fun e => e.1) }, es.foldl (fun a e => a.or e.2) .none)

/-- The value of a binary32 code and NV where it is a signalling NaN. -/
def quietly (x : Word) : Exact × Flags := (Fmt.f32.value x.toNat, { nv := Fmt.f32.signalling x.toNat })

/-- The product or sum of two binary32 codes. -/
def tileOp (op : Exact → Exact → Exact × Flags) (x y : Word) : Exact × Flags :=
  let (a, fa) := quietly x
  let (b, fb) := quietly y
  let (r, fr) := op a b
  (r, (fa.or fb).or fr)

/-- Whether an operation reads a poisoned element of a tile (R83, R406). -/
def MatKind.meetsPoison (k : MatKind) (tile : Nat → Tile) : Bool :=
  let struck (n : Nat) : Bool := !(tile n).poison.isEmpty
  match k with
  | .mac _ n _ _ zero _ _ _ _ => !zero && struck n
  | .scale n _ | .read n _ _ _ => struck n
  | .accAdd n a _ => struck n || struck a
  | .peek n _ m k => (tile n).poison.contains (64 * m + k)
  | _ => false

/-- What an operation does (R336, R339, R342 to R346). -/
def State.matOut (s : State) (core part : Nat) (o : MatOp) (t : Team) (r : EngReq) : MatOut × State :=
  let q := s.reqAsker r
  let tile (n : Nat) : Tile := t.tile core part n
  if o.kind.meetsPoison tile then (.poisoned, s)
  else match o.kind with
  | .load w h sc lut kbase nbase =>
    let depth := depthOf h.fc.toNat
    let (c, s1) := s.readWeights q h lut kbase nbase
    let (d, s2) := s1.readScales q sc kbase nbase depth
    ((c.bad d).getD (.slot w
      { team := (s.opTeam o).getD 0, fc := h.fc, lut := lut, sc := sc.isSome, kw := depth, codes := c.codes
        scales := d.codes }), s2)
  | .mac op n w st zero row0 kbase fill diag =>
    match Table.find (s.unit core part).slots w with
    | none => (.failed .matrixForm 0, s)
    | some x =>
      if s.opTeam o != some x.team then (.failed .matrixForm 0, s) else
      let (i, s1) := s.readStream q st row0 kbase x.kw
      match i.codes.bad i.scales with
      | some b => (b, s1)
      | none =>
        let (y, fl) := macTile op x st.shape.fc.toNat i (tile n) zero fill diag
        let tern := x.fc == 18 && x.codes.any fun e => e.2 == 2
        (.tile y (fl.or { tern := tern }), s1)
  | .fill n v =>
    let (y, fl) := mapTile (tile n) fun _ => quietly v
    (.tile y fl, s)
  | .scale n v =>
    let x := tile n
    let (y, fl) := mapTile x fun i => tileOp Exact.mul (x.at (i / 64) (i % 64)) v
    (.tile y fl, s)
  | .accAdd n a _ =>
    let x := tile n
    let z := tile a
    let (y, fl) := mapTile x fun i => tileOp (Exact.add .rne) (x.at (i / 64) (i % 64)) (z.at (i / 64) (i % 64))
    (.tile y fl, s)
  | .read n ty rnd draws =>
    let v : FpEnv := { mode := rmodeOf rnd.toNat, ftz := false, ofns := bit (s.ctx r.asid).fpCtl.toNat 4 }
    let (seed, gli) := match s.group? o.gid with
      | some g => (s.seedOf g, 256 * s.groupIndex g)
      | none => (0, 0)
    (readTile (tile n) ty.toNat v o.mask fun i j => rand seed (gli + i) (draws.lane i + BitVec.ofNat 64 j), s)
  | .write n data => (.tile (writeTile (tile n).version data) .none, s)
  | .peek n _ m k => (.peek ((tile n).at m k), s)

/-- The versions of an operation's tiles advanced (R335). -/
def State.advance (s : State) (core part tid : Nat) (k : MatKind) : State :=
  k.tiles.foldl (fun s n => s.modTeam tid fun t =>
    let x := t.tile core part n
    { t with tiles := Table.set t.tiles (tileKey core part n) { x with version := x.version + 1 } }) s

/-- The registers of a finished `mrd` written in the lanes of its slot, and full (R345). -/
def State.landRead (s : State) (id : Nat) (vals : List (Lanes Word)) : State :=
  let mine := s.pends.filter fun p => p.ge == some id && !p.hold
  (mine.zip vals).foldl (fun s x =>
    let p : Pend := { x.1 with values := Lanes.of fun i => (x.2.lane i).setWidth 64, ge := none, poison := none }
    s.land p) s

/-- The effect of a finished operation on the device (R188, R335, R336). -/
def State.applyOut (s : State) (core part tid : Nat) (o : MatOp) (out : MatOut) : State :=
  let done (s : State) (c : Option Cause) : State := ((s.advance core part tid o.kind).dropOp core part o.id).engineDone o.id c
  let flags (s : State) (f : Flags) : State := s.modGroup o.gid fun g => g.addFlags f
  match out with
  | .slot w x => done (s.modUnit core part fun u => { u with slots := Table.set u.slots w x }) none
  | .tile x f =>
    let n := (o.kind.tiles.head?).getD 0
    done (flags (s.setTile tid core part n x) f) none
  | .regs vals f => done (flags (s.landRead o.id vals) f) none
  | .peek v =>
    let put (p : Pend) : Pend :=
      if p.ge == some o.id && p.hold then { p with values := p.values.set 0 (v.setWidth 64) } else p
    done { s with pends := s.pends.map put } none
  | .poisoned => done (s.consume o.gid (some .ueEngine)) none
  | .waits => s
  | .failed c a =>
    let s1 := match s.request? o.id with
      | some r => s.setRequest { r with addr := a }
      | none => s
    let first := (s1.request? o.id).elim false fun r => r.cause.isNone
    if c.isPage && first then s1.requestWaits o.id c else done s1 (some c)

/-- MATRIX_OP_COMPLETE (R336): A matrix operation completes, advancing versions and merging flags. One that waits for the
plex goes on waiting; one that the plex refused leaves its tile unchanged. -/
def execMatrixOpComplete (core part : Nat) (s : State) : Out :=
  match (s.unit core part).ops.find? fun o => o.started && s.worksFor (bhOfCore core) o.gid with
  | none => .next s
  | some o => match s.request? o.id, (s.opTeam o).bind s.team? with
    | some r, some t =>
      if r.wait.isSome then .next s
      else match r.cause with
        | some c => .next (s.applyOut core part ((s.opTeam o).getD 0) o (.failed c r.addr))
        | none =>
          let (out, s1) := s.matOut core part o t r
          .next (s1.applyOut core part ((s.opTeam o).getD 0) o out)
    | _, _ => .next (s.dropOp core part o.id)

/-- SLOT_PAIR_FREE (R338, R340): A released slot pair lets a waiting mwld claim it. -/
def execSlotPairFree (core part pair : Nat) (s : State) : Out :=
  let s1 := s.freePair core part (pair % 2)
  let u := s1.unit core part
  if (u.claim (pair % 2)).isSome then .next s1
  else match u.ops.find? fun o => o.kind.isLoad && (o.kind.slot?.elim false fun w => w / 2 == pair % 2) with
    | some o => .next (s1.modUnit core part fun u => u.setClaim (pair % 2) (s1.opTeam o))
    | none => .next s1

end Sys2Proof.Machine
end

