-- ==== Sys2Proof/Machine/Outside.lean ====
section
/-! DEFINITION. Accesses from outside that were kept for the supervisor plex (R69, R75): made again, or refused. -/

namespace Sys2Proof.Machine

/-- The kept access with a number, where the plex does not hold it and, of the host's, none stands before it (R143). -/
def State.nextOutside (s : State) (id : Nat) : Option OutReq :=
  match s.outside.find? fun r => r.id == id with
  | some r =>
    let before := s.outside.takeWhile fun x => x.id != id
    if r.cause.isSome || (r.inOrder && before.any OutReq.inOrder) then none else some r
  | none => none

/-- A kept access made again: it is performed, waits for the plex again, or is refused. -/
def State.runOutside (s : State) (id : Nat) : State :=
  match s.nextOutside id with
  | none => s
  | some r =>
    let s0 := s.dropOutside id
    let vf := r.vf.getD 0
    let again (c : Cause) : State := s.outsideWaits id (some c)
    match r.kind with
    | .read => match s0.outsideRead true r.asid r.va r.size with
      | .done (v, _) s1 => s1.toHost vf (bytesFrom v r.size)
      | .wait => s
      | .fault c => again c
      | .refused _ => s0.toHost vf (List.replicate r.size 0xFF)
    | .write bs => match s0.outsideWrite true r.asid r.va r.size (fromBytes bs) false with
      | .done _ s1 => s1
      | .wait => s
      | .fault c => again c
      | .refused _ => s0
    | .launch bh q => match s0.launchOutside true r.asid bh q (BitVec.ofNat 64 r.va) with
      | .done (.ok _) s1 => s1
      | .done (.error c) s1 => s1.tellHost vf c
      | .wait => s
      | .fault c => again c
      | .refused c => s0.tellHost vf c
    | .doorbell q index => s0.ring vf q index
    | .fabric q => s0.serveFabric q r.asid again s
    | .packet device ds => s0.takePacket device ds again s

/-- A kept access that the plex refuses (R69): a read returns all ones as one that is refused at once, a launch is reported. -/
def State.refuseOutside (s : State) (r : OutReq) (c : Cause) : State :=
  let s0 := s.dropOutside r.id
  let vf := r.vf.getD 0
  match r.kind with
  | .read => s0.toHost vf (List.replicate r.size 0xFF)
  | .launch _ _ => s0.tellHost vf c
  | .fabric q => s0.answerPeer q [] (some c) 0 false
  | .packet device ds => s0.packetReply device ds (.error c)
  | .write _ => s0
  | .doorbell q index => s0.ring vf q index

/-- The page fault for which an access of this device to itself through the fabric window waits, if it does (R26, R69). -/
def State.ownFault (s : State) (id : Nat) : Option Cause :=
  let fault (core : Nat) (k : AccessKind) (off : Nat) : Option Cause := match s.exported (bhOfCore core) k off with
    | .refused c _ => if c.isPage then some c else none
    | .place _ _ _ _ => none
  match s.posted.find? fun p => p.id == id && !p.lost && p.device == s.devId with
  | some p => fault (coreOf p.gid) .store p.offset
  | none => (s.fabWaits.find? fun w => w.id == id && w.device == s.devId && w.msg.kind != .reply).bind fun w =>
    fault w.msg.core w.msg.kind.translates w.msg.dpa

/-- An access of this device to itself that the plex refuses (R69): its group takes the cause. -/
def State.refuseOwn (s : State) (id : Nat) (c : Cause) : State :=
  match s.posted.find? fun p => p.id == id, s.fabWaits.find? fun w => w.id == id with
  | some p, _ => (s.dropPosted id).postedRefused p c
  | none, some w => s.failFabric w c
  | none, none => s

end Sys2Proof.Machine
end

