-- ==== Sys2Proof/Machine/Reliab.lean ====
section
/-! DEFINITION. Fatal faults and gang abort (R415), what the plex resumes (R69, R387), deferred traps and timers at a
boundary (R29, R246, R393), replay and its judgement (R407 to R412), and suspicion, quarantine and migration (R413, R414). -/

namespace Sys2Proof.Machine

/-- Whether a group waits for the plex with a cause. -/
def Group.plexCause (g : Group) : Option Cause :=
  match g.wait with
  | .plex c => some c
  | _ => none

/-- FATAL_FAULT (R415): a P cause that the plex does not resume, or a G cause. -/
def execFatalFault (g : Nat) (cause : BitVec 7) (s : State) : Out :=
  match s.group? g, Cause.ofCode cause with
  | some x, some c =>
    if !x.ended && (x.plexCause == some c || c.delivery == .grid) then .next (s.fatal g c) else .next s
  | _, _ => .next s

/-- A group that the plex resumes (R69, R387): it issues again. After SILENT_ERROR_PERSISTENT it goes on at the region entry
with RESTARTS = 0 (R405). -/
def Group.resume (g : Group) (c : Cause) : Group :=
  if c == .silentErrorPersistent then
    let back (p : PcSlot) : PcSlot :=
      if p.live then { p with pc := g.idemPc, sig := g.idemSig, segment := none, waiting := false } else p
    { g with wait := .none, slot0 := back g.slot0, slot1 := back g.slot1, draws := g.idemDraws, restarts := 0, idem := true }
  else { g with wait := .none }

/-- The cause with which the plex fails a group's grid: that which a handler gave with FT_HANDOFF, or that of the trap (R72, R387), also
where what the handler gave is no assigned code (log 136). -/
def Group.refusedFor (g : Group) (c : Cause) : Cause :=
  match g.handoff with
  | some n => if n == 0 then c else (Cause.ofCode n).getD c
  | none => c

/-- Entries of page tables written by the plex. -/
def State.writeTables (s : State) (ts : List (Nat × DWord)) : State := ts.foldl (fun s t => s.devWrite t.1 8 t.2.toNat) s

/-- An engine request that the plex refuses (R69, R158, R368). -/
def State.refuseRequest (s : State) (r : EngReq) (c : Cause) : State :=
  match r.kind with
  | .signal addr task => s.signalLost r addr task
  | .matrix => s.setRequest { r with wait := none, cause := some (r.cause.getD c) }
  | _ => (s.setRequest { r with wait := none }).engineDone r.id (some c)

/-- PLEX_RESUME (R69, R387): the plex maps pages and resumes a requester at its access, or refuses it. -/
def execPlexResume (who : Waiter) (tables : List (Nat × DWord)) (resume : Bool) (s : State) : Out :=
  match who with
  | .group gid => match (s.group? gid).bind fun g => g.plexCause.map fun c => (g, c) with
    | none => .next s
    | some (g, c) => if resume then .next ((s.writeTables tables).setGroup gid (g.resume c)) else .next (s.fatal gid (g.refusedFor c))
  | .engine id => match (s.request? id).bind fun r => r.wait.map fun c => (r, c) with
    | none => .next s
    | some (r, c) =>
      if resume then .next ((s.writeTables tables).setRequest { r with wait := none }) else .next (s.refuseRequest r c)
  | .outside id => match (s.outside.find? fun r => r.id == id).bind fun r => r.cause.map fun c => (r, c) with
    | none => match s.ownFault id with
      | none => .next s
      | some c => .next (if resume then s.writeTables tables else s.refuseOwn id c)
    | some (r, c) =>
      if resume then .next ((s.writeTables tables).outsideWaits id none) else .next (s.refuseOutside r c)
  | .binding bh b => match s.binding? bh b with
    | none => .next s
    | some x =>
      if x.wait.isNone then .next s
      else if resume then .next ((s.writeTables tables).setBinding bh b { x with wait := none })
      else .next (s.setBinding bh b { x with refused := true, wait := none })

/-- The slot of a group that may issue, if any. -/
def State.openSlot (s : State) (gid : Nat) : Option Bool :=
  if s.mayIssue gid false then some false else if s.mayIssue gid true then some true else none

/-- DEFERRED_MEMORY_TRAP (R29, R393): a failure known after issue is taken at the boundary, before a timer; an instruction that
has issued and waits to retire stands at none. -/
def execDeferredMemoryTrap (g : Nat) (s : State) : Out :=
  match s.group? g, s.openSlot g with
  | some x, some slot =>
    if x.gangAbort || !x.consumed.isEmpty || x.hnd || x.deferred.isEmpty || s.holding g slot then .next s else .next (s.takeDeferred g slot)
  | _, _ => .next s

/-- TIMER_EXPIRED (R246, R393): it is taken at the boundary, where nothing comes before it; a group that waits takes it when it
next issues. -/
def execTimerExpired (g : Nat) (s : State) : Out :=
  match s.group? g, s.openSlot g with
  | some x, some slot =>
    if x.gangAbort || !x.consumed.isEmpty || x.hnd || !x.deferred.isEmpty || !x.timerDue || x.wait != .none
        || s.holding g slot then .next s
    else .next (s.takeTimer g slot)
  | _, _ => .next s

/-- A replay job of a bulkhead. -/
def State.job? (s : State) (id : Nat) : Option RveJob := (s.bhs.flatMap fun b => b.2.jobs).find? fun j => j.id == id

/-- A replay job replaced. -/
def State.setJob (s : State) (j : RveJob) : State := s.modJobs j.bh fun x => if x.id == j.id then j else x

/-- A replay job ended: the frames of its log go back to the pool (R411). -/
def State.dropJob (s : State) (j : RveJob) : State := (s.freeEngineFrames j.logFrames).modBh j.bh fun b => { b with jobs := b.jobs.filter fun x => x.id != j.id }

/-- What the groups of a replayed team find in their scalar registers (R374, R428). -/
def Grid.replayArgs (gr : Grid) : List (Nat × DWord) :=
  match gr.taskSeq with
  | none => [(1, gr.launch.args)]
  | some n => [(1, gr.launch.args), (2, BitVec.ofNat 64 n), (3, BitVec.ofNat 64 gr.taskCore)]

/-- A run of a replay job placed and started (R410): on cores that are allowed, where the context is switched in or the core
holds none; the cores, and the state. None where no placement fits. -/
def State.startRun (s : State) (j : RveJob) (run : RunKind) (used : List Nat) : Option (List Nat × State) :=
  match Table.find s.grids j.grid with
  | none => none
  | some gr =>
    let asid := j.team.asid
    let allow (c : Nat) : Bool := !used.contains c && (s.isSwitchedIn c asid || (s.core c).resident.isEmpty)
    match s.placeGang j.bh asid 0 allow [gr.launch.need] with
    | some [f] =>
      let (gang, s1) := s.fresh
      let t := Team.at (.replay j.id) j.grid gang asid j.bh f.cores j.team.index j.team.gteam gr.launch.need f.spadBases
      let seed := match gr.taskSeq with
        | some n => BitVec.ofNat 64 n
        | none => gr.launch.seed.setWidth 64
      some (f.cores, (s1.startTeam t f gr.supervisor gr.launch.need.regs gr.launch.replay seed gr.launch.entry run
        gr.replayArgs).2)
    | _ => none

/-- REPLAY_RUN (R410): the team of a selected group that has exited runs again on other cores. -/
def execReplayRun (id : Nat) (s : State) : Out :=
  match s.job? id with
  | none => .next s
  | some j =>
    if j.phase != 1 then .next s
    else match s.startRun j .replay j.team.ran with
      | some (cs, s1) => .next (s1.setJob { j with phase := 2, cores1 := cs })
      | none => .next s

/-- The digest of a group among those of a run. -/
def digestOf (l : List (Nat × DWord)) (i : Nat) : Option DWord := (l.find? fun e => e.1 == i).map fun e => e.2

/-- The selected groups whose digests differ between the original and the replay (R411). -/
def RveJob.differing (j : RveJob) : List Nat := j.selected.filter fun i => digestOf j.original i != digestOf j.replayed i

/-- DIGEST_COMPARE (R411): equal digests end the job; else an arbiter runs on cores that ran neither. -/
def execDigestCompare (id : Nat) (s : State) : Out :=
  match s.job? id with
  | none => .next s
  | some j =>
    if j.phase != 3 then .next s
    else if j.differing.isEmpty then .next (s.dropJob j)
    else match s.startRun j .arbiter j.team.ran with
      | some (cs, s1) => .next (s1.setJob { j with phase := 5, cores2 := cs })
      | none => .next s

/-- The core on which a group of a run lay (R160). -/
def coreAmong (cores : List Nat) (i : Nat) : Nat := (cores[i % cores.length]?).getD 0

/-- The logged stores of a group of an arbiter run written to memory (R411); false where one waits for the plex. -/
def State.commitLog (s : State) (j : RveJob) (sup : Bool) (i : Nat) : Bool × State :=
  let q := s.engineAsker niCopy j.bh j.team.asid sup none
  let acc : Acc := { gid := j.bh * 24 * 128, slot := false, pc := 0, asid := j.team.asid, req := some j.id }
  ((s.logged j).filter fun e => e.1 == i).foldl (fun r e => match r.2.engineStore q acc e.2.1 e.2.2.1 e.2.2.2.toNat with
    | .done _ s1 => (r.1, s1)
    | .wait s1 => (false, s1)
    | .fail c _ s1 => (r.1 && !c.isPage, s1)) (true, s)

/-- A record of a judgement (R379, R411, R434). -/
def State.postReplay (s : State) (j : RveJob) (gr : Grid) (c : Cause) (i : Nat) : State :=
  s.postCtx gr.asid gr.bh 0x05 c.code.toNat 0 0 gr.number (j.team.index * j.team.groups + i)

/-- One selected group judged by its three digests (R411). -/
def State.judge (s : State) (j : RveJob) (gr : Grid) (i : Nat) : State :=
  let a := digestOf j.arbitrated i
  if a == digestOf j.original i then (s.suspect (coreAmong j.cores1 i) 32).postReplay j gr .replayMismatch i
  else if a == digestOf j.replayed i then
    ((s.suspect (coreAmong j.cores0 i) 32).commitLog j gr.supervisor i).2.postReplay j gr .replayMismatch i
  else
    let s1 := [j.cores0, j.cores1, j.cores2].foldl (fun s cs => s.suspect (coreAmong cs i) 16) s
    let s2 := s1.failGrid j.grid .replaySplit
    match gr.taskSeq with
    | none => s2.postReplay j gr .replaySplit i
    | some n =>
      if gr.reported then s2.postCtx gr.asid gr.bh 0x07 Cause.taskAbort.code.toNat 0 0 n Cause.replaySplit.code.toNat else s2

/-- ARBITER_DECISION (R411): each differing group is judged on its own, once every commit can be made. -/
def execArbiterDecision (id : Nat) (s : State) : Out :=
  match s.job? id with
  | none => .next s
  | some j => match Table.find s.grids j.grid with
    | none => .next (s.dropJob j)
    | some gr =>
      let commits := j.differing.filter fun i => digestOf j.arbitrated i == digestOf j.replayed i
      if j.phase != 6 || !(commits.foldl (fun r i =>
          let (ok, s1) := r.2.commitLog j gr.supervisor i
          (r.1 && ok, s1)) (true, s)).1 then .next s
      else .next ((j.differing.foldl (fun s i => s.judge j gr i) s).dropJob j)

/-- SUSPICION_DECAY (R413): a core's score falls by 1 for each 2^20 core cycles of its CYC. -/
def execSuspicionDecay (core : Nat) (s : State) : Out :=
  if (s.core core).suspScore != 0 && decide ((s.core core).decays < s.cyc core / 2 ^ 20) then
    .next (s.modCore core fun c => { c with decays := c.decays + 1, suspScore := c.suspScore - 1 })
  else .next s

/-- The teams of a gang changed. -/
def State.modGang (s : State) (gang : Nat) (f : Team → Team) : State :=
  { s with teams := s.teams.map fun t => (t.1, if t.2.gang == gang then f t.2 else t.2) }

/-- QUARANTINE_MIGRATION (R403, R414): a gang with a team on a quarantined core is written out and placed on other cores. With
too few frames in the pool, or no room, it waits. -/
def execQuarantineMigration (gang : Nat) (s : State) : Out :=
  match s.gangLead gang with
  | none => .next s
  | some (_, t) =>
    let s0 := t.cores.foldl (fun s c => s.flushCore c) s
    if !s.migrating gang || !s0.gangQuiet gang || (s.bh t.bh).preEvicting.contains gang then .next s0
    else
      let x := s0.savedOf gang t.bh t.asid []
      let (m, len, s1) := s0.imageOf t.asid t.bh [x]
      if (s1.bh t.bh).poolCount < framesFor len then .next s
      else
        let (fs, s2) := s1.engineFrames t.bh (framesFor len)
        match (s2.removeGang x).savedFit x fun _ => true with
        | none => .next (s.modGang gang fun u => { u with migrateSince := firstOf u.migrateSince (some s.clock) })
        | some fits =>
          let s3 := s2.writeImage fs [x] m len
          if imageFails fs then .next ((s3.freeEngineFrames fs).swapFailed gang)
          else .next (((s3.removeGang x).freeEngineFrames fs).returnGang x fits)

/-- MIGRATE_FAIL (R414): a gang of a quarantined core has waited for room for 1 ms; posted once. -/
def execMigrateFail (gang : Nat) (s : State) : Out :=
  match s.gangLead gang with
  | none => .next s
  | some (_, t) => match t.migrateSince with
    | none => .next s
    | some since =>
      let x := s.savedOf gang t.bh t.asid []
      let core := (((s.teamsOf gang).flatMap fun u => u.2.cores).find? fun c => (s.core c).quarantined).getD 0
      if !s.migrating gang || t.migratePosted || decide (s.clock < since + micros 1000)
        || ((s.removeGang x).savedFit x fun _ => true).isSome then .next s
      else .next ((s.modGang gang fun u => { u with migratePosted := true }).postSup .migrateFail core t.asid)

/-- The blocks of the context that a core runs moved together (R153). -/
def State.packCore (s : State) (core : Nat) : State :=
  let gs := s.groups.filter fun g => coreOf g.1 == core && s.isSwitchedIn core g.2.asid
  ((packOrder gs).foldl (fun acc g => (acc.1.modGroup g.1 fun x => { x with base := acc.2 }, acc.2 + g.2.regs)) (s, 0)).1

/-- The placements of work of a context that wait in a bulkhead, and on a core for its tasks and messages, with whether each finds
room now (R153): teams of launches, swapped gangs, tasks, handlers, runs of replays, the gangs of a restore, and migrations. -/
def State.pendingFits (s : State) (core asid : Nat) : List Bool :=
  let bh := bhOfCore core
  let any (_ : Nat) : Bool := true
  let gangs := ((s.teams.filter fun t => t.2.asid == asid && t.2.bh == bh && s.migrating t.2.gang).map fun t => t.2.gang).eraseDups
  (((s.heads bh).filter fun h => h.1 == asid && s.oppReady bh h.2.2.2).map fun h => (s.headFit bh h.2.2.2).isSome)
    ++ ((s.saved.filter fun e => e.2.bh == bh && e.2.asid == asid && s.returnDue e.2).map fun e => (s.savedFit e.2 any).isSome)
    ++ (((s.core core).tasks.filter fun t => t.work.asid == asid && s.isResident core asid).map fun t =>
        (s.fitOn core asid t.grid.launch.need).isSome)
    ++ ((((s.core core).inbox.take 64).filterMap fun id => Table.find s.messages id).filter fun m =>
        m.asid == asid && s.isSwitchedIn core asid).map (fun m => (s.fitOn core asid m.need).isSome)
    ++ ((s.bh bh).jobs.filter fun j => j.team.asid == asid && (j.phase == 1 || (j.phase == 3 && !j.differing.isEmpty))).map
        (fun j => (s.startRun j .replay j.team.ran).isSome)
    ++ (if s.preRuns bh 4 && s.preAsid bh == asid then [(s.restored bh).isSome] else [])
    ++ gangs.map fun g =>
        let x := s.savedOf g bh asid []
        ((s.removeGang x).savedFit x any).isSome

/-- Whether a placement finds room only once the blocks of the contexts that are switched in are packed (R153). -/
def State.packingHelps (s : State) (core asid : Nat) : Bool :=
  let packed := (coresOf (bhOfCore core)).foldl (fun s c => s.packCore c) s
  ((s.pendingFits core asid).zip (packed.pendingFits core asid)).any fun e => !e.1 && e.2

/-- COMPACTION (R153): where a placement needs it, the blocks of the switched-in context of a core are moved together, once every
register of them is full. The registers are the groups' own, so no program sees the move; the placement is then tried again. -/
def execCompaction (core : Nat) (s : State) : Out :=
  match (s.core core).switchedIn with
  | none => .next s
  | some asid =>
    if !s.packingHelps core asid
        || s.groups.any (fun g => coreOf g.1 == core && g.2.asid == asid && g.2.v.any fun r => !r.2.full) then .next s
    else .next (s.packCore core)

end Sys2Proof.Machine
end

