-- ==== Sys2Proof/Machine/Sweep.lean ====
section
/-! DEFINITION. VECTOR_SWEEP (R218, R219, R269): the lane effect of each sweep-capable opcode, run once for each
segment with its registers advanced. -/

namespace Sys2Proof.Machine

/-- The lane effect of a sweep-capable opcode (R226). -/
def sweepEffect (op : Nat) : VEff :=
  match op with
  | 0x40 => effAdd32
  | 0x41 => effSub32
  | 0x42 => effMul32
  | 0x43 => effMulh32
  | 0x44 => effMad32
  | 0x45 => effAdd64
  | 0x46 => effSub64
  | 0x47 => effMin
  | 0x48 => effMax
  | 0x49 => effAbs32
  | 0x4A => effAnd
  | 0x4B => effOr
  | 0x4C => effXor
  | 0x4D => effAndn
  | 0x4E => effShl
  | 0x4F => effShr
  | 0x50 => effSra
  | 0x51 => effRot
  | 0x52 => effBfe
  | 0x53 => effBfi
  | 0x54 => effPopc
  | 0x55 => effClz
  | 0x57 => effSel
  | 0x58 => effMov
  | 0x67 => effSat
  | 0x6C => effDot4
  | 0x6D => effMulw
  | 0x6E => effClamp
  | 0x70 => effFadd32
  | 0x71 => effFsub32
  | 0x72 => effFmul32
  | 0x73 => effFfma32
  | 0x74 => effFadd64
  | 0x75 => effFmul64
  | 0x76 => effFfma64
  | 0x77 => effFaddF16
  | 0x78 => effFfmaF16
  | 0x79 => effFaddB16
  | 0x7A => effFfmaB16
  | 0x7B => effFmin
  | 0x7C => effFmax
  | 0x7D => effFabs
  | 0x7E => effFneg
  | 0x7F => effFcmp
  | 0x80 => effFdiv
  | 0x81 => effFsqrt
  | 0x82 => effFrcp
  | 0x83 => effFrsqrt
  | 0x84 => effFexp2
  | 0x85 => effFlog2
  | 0x87 => effCvtF
  | 0x88 => effCvtFi
  | 0x89 => effCvtIf
  | 0x9A => effFrint
  | 0x9B => effFcopysign
  | _ => fun _ => .error (.of .illegalForm)

/-- One segment of a vector sweep (R218): a register that the steps take out of the block traps there. -/
def sweepSegment (op : Byte) (f : ExtA) (lit : DWord) (seg : Nat) (g : Group) (s : State) : Res :=
  match g.segmentFields (reqA op.toNat { f with w2 := 0 }) f lit seg with
  | none => .trap (.of .regIndexRange) s
  | some x => vecBody op x (sweepEffect op.toNat) g s

/-- VECTOR_SWEEP (R218): LEN 11 form of a sweep-capable vector opcode, repeated over COUNT segments. -/
def execVectorSweep (op : Byte) (f : ExtA) (lit : DWord) (s : State) : Out :=
  let r := reqA op.toNat { f with w2 := 0 }
  s.sweep op (reqScalars r f.d f.a f.b f.c) (fun _ => [kindRegs r.d f.d, kindRegs r.a f.a, kindRegs r.b f.b, kindRegs r.c f.c]) f.w2
    (sweepSegment op f lit)

end Sys2Proof.Machine
end

