-- ==== Sys2Proof/Machine/VecFloat.lean ====
section
/-! DEFINITION. The meanings of the floating-point, conversion, block and abs-max instructions (0x70 to 0x9F; R287 to
R303). -/

namespace Sys2Proof.Machine

/-- `absrd` (R303, R144): ABSMAX over the magnitudes drained so far; `.settled` (MOD bit 2) waits for the drain. -/
def absrdBody (f : ExtA) (g : Group) (s : State) : Res :=
  if f.mod.getLsbD 2 && !g.absQueue.isEmpty then .stall .room s
  else .ok (s.setGroup s.cur (g.wrS f.d (g.absmax.setWidth 64)))

/-- `absclr` (R303): waits for the drain, then ABSMAX is +0.0. -/
def absclrBody (_f : ExtA) (g : Group) (s : State) : Res :=
  if !g.absQueue.isEmpty then .stall .room s else .ok (s.setGroup s.cur { g with absmax := 0 })

/-- VFADD_F32 (R287): Compact binary32 add. -/
def execVfaddF32 (f : Word0) (s : State) : Out := s.execVC 0x70 f effFadd32

/-- VFADD_F32_EXT (R287): Extended binary32 add. -/
def execVfaddF32Ext (f : ExtA) (s : State) : Out := s.execV 0x70 f effFadd32

/-- VFSUB_F32 (R287): Compact binary32 subtract. -/
def execVfsubF32 (f : Word0) (s : State) : Out := s.execVC 0x71 f effFsub32

/-- VFSUB_F32_EXT (R287): Extended binary32 subtract. -/
def execVfsubF32Ext (f : ExtA) (s : State) : Out := s.execV 0x71 f effFsub32

/-- VFMUL_F32 (R287): Compact binary32 multiply. -/
def execVfmulF32 (f : Word0) (s : State) : Out := s.execVC 0x72 f effFmul32

/-- VFMUL_F32_EXT (R287): Extended binary32 multiply. -/
def execVfmulF32Ext (f : ExtA) (s : State) : Out := s.execV 0x72 f effFmul32

/-- VFFMA_F32 (R287): Compact accumulating binary32 fused multiply-add. -/
def execVffmaF32 (f : Word0) (s : State) : Out := s.execVC 0x73 f effFfma32

/-- VFFMA_F32_EXT (R287): Extended binary32 fused multiply-add. -/
def execVffmaF32Ext (f : ExtA) (s : State) : Out := s.execV 0x73 f effFfma32

/-- VFADD_F64 (R287): Compact binary64 add. -/
def execVfaddF64 (f : Word0) (s : State) : Out := s.execVC 0x74 f effFadd64

/-- VFADD_F64_EXT (R287): Extended binary64 add. -/
def execVfaddF64Ext (f : ExtA) (s : State) : Out := s.execV 0x74 f effFadd64

/-- VFMUL_F64 (R287): Compact binary64 multiply. -/
def execVfmulF64 (f : Word0) (s : State) : Out := s.execVC 0x75 f effFmul64

/-- VFMUL_F64_EXT (R287): Extended binary64 multiply. -/
def execVfmulF64Ext (f : ExtA) (s : State) : Out := s.execV 0x75 f effFmul64

/-- VFFMA_F64 (R287): Compact accumulating binary64 fused multiply-add. -/
def execVffmaF64 (f : Word0) (s : State) : Out := s.execVC 0x76 f effFfma64

/-- VFFMA_F64_EXT (R287): Extended binary64 fused multiply-add. -/
def execVffmaF64Ext (f : ExtA) (s : State) : Out := s.execV 0x76 f effFfma64

/-- VFADD_F16X2 (R287): Compact packed binary16 add. -/
def execVfaddF16x2 (f : Word0) (s : State) : Out := s.execVC 0x77 f effFaddF16

/-- VFADD_F16X2_EXT (R287): Extended packed binary16 add. -/
def execVfaddF16x2Ext (f : ExtA) (s : State) : Out := s.execV 0x77 f effFaddF16

/-- VFFMA_F16X2 (R287): Compact accumulating packed binary16 fma. -/
def execVffmaF16x2 (f : Word0) (s : State) : Out := s.execVC 0x78 f effFfmaF16

/-- VFFMA_F16X2_EXT (R287): Extended packed binary16 fma. -/
def execVffmaF16x2Ext (f : ExtA) (s : State) : Out := s.execV 0x78 f effFfmaF16

/-- VFADD_B16X2 (R287): Compact packed bfloat16 add. -/
def execVfaddB16x2 (f : Word0) (s : State) : Out := s.execVC 0x79 f effFaddB16

/-- VFADD_B16X2_EXT (R287): Extended packed bfloat16 add. -/
def execVfaddB16x2Ext (f : ExtA) (s : State) : Out := s.execV 0x79 f effFaddB16

/-- VFFMA_B16X2 (R287): Compact accumulating packed bfloat16 fma. -/
def execVffmaB16x2 (f : Word0) (s : State) : Out := s.execVC 0x7A f effFfmaB16

/-- VFFMA_B16X2_EXT (R287): Extended packed bfloat16 fma. -/
def execVffmaB16x2Ext (f : ExtA) (s : State) : Out := s.execV 0x7A f effFfmaB16

/-- VFMIN (R288): Floating minimum with NaN rules. -/
def execVfmin (f : ExtA) (s : State) : Out := s.execV 0x7B f effFmin

/-- VFMAX (R288): Floating maximum with NaN rules. -/
def execVfmax (f : ExtA) (s : State) : Out := s.execV 0x7C f effFmax

/-- VFABS (R288): Floating absolute value. -/
def execVfabs (f : ExtA) (s : State) : Out := s.execV 0x7D f effFabs

/-- VFNEG (R288): Floating negation. -/
def execVfneg (f : ExtA) (s : State) : Out := s.execV 0x7E f effFneg

/-- VFCMP (R289): Floating comparison into a mask register. -/
def execVfcmp (f : ExtA) (s : State) : Out := s.execV 0x7F f effFcmp

/-- VFDIV_F32 (R290): Compact correctly rounded binary32 divide. -/
def execVfdivF32 (f : Word0) (s : State) : Out := s.execVC 0x80 f effFdiv

/-- VFDIV_F32_EXT (R290): Extended binary32 divide. -/
def execVfdivF32Ext (f : ExtA) (s : State) : Out := s.execV 0x80 f effFdiv

/-- VFSQRT_F32 (R290): Compact correctly rounded binary32 square root. -/
def execVfsqrtF32 (f : Word0) (s : State) : Out := s.execVC 0x81 f effFsqrt

/-- VFSQRT_F32_EXT (R290): Extended binary32 square root. -/
def execVfsqrtF32Ext (f : ExtA) (s : State) : Out := s.execV 0x81 f effFsqrt

/-- VFRCP (R290): Correctly rounded reciprocal. -/
def execVfrcp (f : ExtA) (s : State) : Out := s.execV 0x82 f effFrcp

/-- VFRSQRT (R290): Correctly rounded reciprocal square root. -/
def execVfrsqrt (f : ExtA) (s : State) : Out := s.execV 0x83 f effFrsqrt

/-- VFEXP2 (R290): Correctly rounded exp2. -/
def execVfexp2 (f : ExtA) (s : State) : Out := s.execV 0x84 f effFexp2

/-- VFLOG2 (R290): Correctly rounded log2. -/
def execVflog2 (f : ExtA) (s : State) : Out := s.execV 0x85 f effFlog2

/-- VFCLASS (R291): Writes a one-hot floating class mask. -/
def execVfclass (f : ExtA) (s : State) : Out := s.execV 0x86 f effFclass

/-- VCVT_F (R296): Converts between floating formats. -/
def execVcvtF (f : ExtA) (s : State) : Out := s.execV 0x87 f effCvtF

/-- VCVT_FI (R296): Converts floating to integer. -/
def execVcvtFi (f : ExtA) (s : State) : Out := s.execV 0x88 f effCvtFi

/-- VCVT_IF (R296): Converts integer to floating. -/
def execVcvtIf (f : ExtA) (s : State) : Out := s.execV 0x89 f effCvtIf

/-- VQBLK (R297): Compact block quantisation to i8. -/
def execVqblk (f : Word0) (s : State) : Out := s.execVC 0x8A f effQblk

/-- VQBLK_EXT (R297): Extended block quantisation with format and Hadamard options. -/
def execVqblkExt (f : ExtA) (s : State) : Out := s.execV 0x8A f effQblk

/-- VDQBLK (R298): Compact block dequantisation from i8. -/
def execVdqblk (f : Word0) (s : State) : Out := s.execVC 0x8B f effDqblk

/-- VDQBLK_EXT (R298): Extended block dequantisation. -/
def execVdqblkExt (f : ExtA) (s : State) : Out := s.execV 0x8B f effDqblk

/-- VHAD (R300): Applies a Hadamard transform to lane blocks. -/
def execVhad (f : ExtA) (s : State) : Out := s.execV 0x8C f effHad

/-- VTERN (R301): Compact ternary pack of 16 integer registers. -/
def execVtern (f : Word0) (s : State) : Out := s.execVC 0x8D f effTern

/-- VTERN_EXT (R301): Extended ternary pack, threshold pack or element get. -/
def execVternExt (f : ExtA) (s : State) : Out := s.execV 0x8D f effTern

/-- VRAND (R302): Compact form; takes one random draw per active lane. -/
def execVrand (f : Word0) (s : State) : Out := s.execVC 0x8E f effRand

/-- VRAND_EXT (R302): Extended vrand, optionally as a float in [0,1). -/
def execVrandExt (f : ExtA) (s : State) : Out := s.execV 0x8E f effRand

/-- ABSUPD (R303): Compact form; enqueues lane magnitudes to ABSMAX. -/
def execAbsupd (f : Word0) (s : State) : Out := s.execVC 0x91 f effAbsupd

/-- ABSUPD_EXT (R303): Extended form of absupd. -/
def execAbsupdExt (f : ExtA) (s : State) : Out := s.execV 0x91 f effAbsupd

/-- VFSCALE (R292): Scales floating lanes by a power of two. -/
def execVfscale (f : ExtA) (s : State) : Out := s.execV 0x92 f effFscale

/-- VLSCALE (R292): Multiplies or divides lanes by the loss scale. -/
def execVlscale (f : ExtA) (s : State) : Out := s.execV 0x93 f effLscale

/-- VFCHK (R292): Marks lanes holding infinities or NaNs. -/
def execVfchk (f : ExtA) (s : State) : Out := s.execV 0x94 f effFchk

/-- VFSUM (R293): Sums active lanes through the fixed tree. -/
def execVfsum (f : ExtA) (s : State) : Out := s.execV 0x95 f effFsum

/-- VFDOT2_F16 (R294): Compact accumulating 2-way binary16 dot product. -/
def execVfdot2F16 (f : Word0) (s : State) : Out := s.execVC 0x96 f (effDot2 .f16)

/-- VFDOT2_F16_EXT (R294): Extended 2-way binary16 dot product. -/
def execVfdot2F16Ext (f : ExtA) (s : State) : Out := s.execV 0x96 f (effDot2 .f16)

/-- VFDOT2_B16 (R294): Compact accumulating 2-way bfloat16 dot product. -/
def execVfdot2B16 (f : Word0) (s : State) : Out := s.execVC 0x97 f (effDot2 .b16)

/-- VFDOT2_B16_EXT (R294): Extended 2-way bfloat16 dot product. -/
def execVfdot2B16Ext (f : ExtA) (s : State) : Out := s.execV 0x97 f (effDot2 .b16)

/-- VFPACK (R295): Packs two binary32 values into a 16-bit pair. -/
def execVfpack (f : ExtA) (s : State) : Out := s.execV 0x98 f effFpack

/-- VFUNPK (R295): Unpacks one half of a 16-bit pair to binary32. -/
def execVfunpk (f : ExtA) (s : State) : Out := s.execV 0x99 f effFunpk

/-- VFRINT (R288): Rounds to an integral value of the same format. -/
def execVfrint (f : ExtA) (s : State) : Out := s.execV 0x9A f effFrint

/-- VFCOPYSIGN (R288): Gives |A| with the sign of B. -/
def execVfcopysign (f : ExtA) (s : State) : Out := s.execV 0x9B f effFcopysign

/-- VFMAXABS (R288): Gives the larger magnitude of two operands. -/
def execVfmaxabs (f : ExtA) (s : State) : Out := s.execV 0x9C f effFmaxabs

/-- VNORM2 (R293): Sums squares of active lanes through the fixed tree. -/
def execVnorm2 (f : ExtA) (s : State) : Out := s.execV 0x9D f effNorm2

/-- VCVT_E8 (R299): Compact pack of four 8-bit codes per lane. -/
def execVcvtE8 (f : Word0) (s : State) : Out := s.execVC 0x9E f effCvtE8

/-- VCVT_E8_EXT (R299): Extended 8-bit pack with convert and 6-bit options. -/
def execVcvtE8Ext (f : ExtA) (s : State) : Out := s.execV 0x9E f effCvtE8

/-- VCVT_E4 (R299): Compact pack of eight 4-bit codes per lane. -/
def execVcvtE4 (f : Word0) (s : State) : Out := s.execVC 0x9F f effCvtE4

/-- VCVT_E4_EXT (R299): Extended 4-bit pack, optionally converting. -/
def execVcvtE4Ext (f : ExtA) (s : State) : Out := s.execV 0x9F f effCvtE4

/-- ABSRD (R303): Compact form; reads ABSMAX over some drained prefix. -/
def execAbsrd (f : Word0) (s : State) : Out := s.execC 0x8F f absrdBody

/-- ABSRD_EXT (R303): Extended absrd, with .settled waiting for the drain. -/
def execAbsrdExt (f : ExtA) (s : State) : Out := s.execA 0x8F f (absrdBody f)

/-- ABSCLR (R303): Compact form; waits for the drain and clears ABSMAX. -/
def execAbsclr (f : Word0) (s : State) : Out := s.execC 0x90 f absclrBody

/-- ABSCLR_EXT (R303): Extended form of absclr. -/
def execAbsclrExt (f : ExtA) (s : State) : Out := s.execA 0x90 f (absclrBody f)

end Sys2Proof.Machine
end

