-- ==== Sys2Proof/Machine/VecInt.lean ====
section
/-! DEFINITION. The meanings of the integer, logic, move, mask, lane and index instructions (0x40 to 0x6F; R264 to
R285). -/

namespace Sys2Proof.Machine

/-- VADD_I32 (R270): Compact 32-bit vector add. -/
def execVaddI32 (f : Word0) (s : State) : Out := s.execVC 0x40 f effAdd32

/-- VADD_I32_EXT (R270): Extended 32-bit vector add with selector and saturation. -/
def execVaddI32Ext (f : ExtA) (s : State) : Out := s.execV 0x40 f effAdd32

/-- VSUB_I32 (R270): Compact 32-bit vector subtract. -/
def execVsubI32 (f : Word0) (s : State) : Out := s.execVC 0x41 f effSub32

/-- VSUB_I32_EXT (R270): Extended 32-bit vector subtract. -/
def execVsubI32Ext (f : ExtA) (s : State) : Out := s.execV 0x41 f effSub32

/-- VMUL_I32 (R270): Compact 32-bit vector multiply, low half. -/
def execVmulI32 (f : Word0) (s : State) : Out := s.execVC 0x42 f effMul32

/-- VMUL_I32_EXT (R270): Extended 32-bit vector multiply. -/
def execVmulI32Ext (f : ExtA) (s : State) : Out := s.execV 0x42 f effMul32

/-- VMULH_I32 (R270): Compact 32-bit vector multiply, high half. -/
def execVmulhI32 (f : Word0) (s : State) : Out := s.execVC 0x43 f effMulh32

/-- VMULH_I32_EXT (R270): Extended 32-bit vector multiply high. -/
def execVmulhI32Ext (f : ExtA) (s : State) : Out := s.execV 0x43 f effMulh32

/-- VMAD_I32 (R270): Compact accumulating multiply-add into v[D]. -/
def execVmadI32 (f : Word0) (s : State) : Out := s.execVC 0x44 f effMad32

/-- VMAD_I32_EXT (R270): Extended 32-bit multiply-add with a third source. -/
def execVmadI32Ext (f : ExtA) (s : State) : Out := s.execV 0x44 f effMad32

/-- VADD_I64 (R270): Compact 64-bit pair add. -/
def execVaddI64 (f : Word0) (s : State) : Out := s.execVC 0x45 f effAdd64

/-- VADD_I64_EXT (R270): Extended 64-bit pair add. -/
def execVaddI64Ext (f : ExtA) (s : State) : Out := s.execV 0x45 f effAdd64

/-- VSUB_I64 (R270): Compact 64-bit pair subtract. -/
def execVsubI64 (f : Word0) (s : State) : Out := s.execVC 0x46 f effSub64

/-- VSUB_I64_EXT (R270): Extended 64-bit pair subtract. -/
def execVsubI64Ext (f : ExtA) (s : State) : Out := s.execV 0x46 f effSub64

/-- VMIN (R271): Compact i8 vector minimum. -/
def execVmin (f : Word0) (s : State) : Out := s.execVC 0x47 f effMin

/-- VMIN_EXT (R271): Extended typed vector minimum. -/
def execVminExt (f : ExtA) (s : State) : Out := s.execV 0x47 f effMin

/-- VMAX (R271): Compact i8 vector maximum. -/
def execVmax (f : Word0) (s : State) : Out := s.execVC 0x48 f effMax

/-- VMAX_EXT (R271): Extended typed vector maximum. -/
def execVmaxExt (f : ExtA) (s : State) : Out := s.execV 0x48 f effMax

/-- VABS_I32 (R270): Compact 32-bit absolute value. -/
def execVabsI32 (f : Word0) (s : State) : Out := s.execVC 0x49 f effAbs32

/-- VABS_I32_EXT (R270): Extended 32-bit absolute value. -/
def execVabsI32Ext (f : ExtA) (s : State) : Out := s.execV 0x49 f effAbs32

/-- VAND (R272): Compact vector AND. -/
def execVand (f : Word0) (s : State) : Out := s.execVC 0x4A f effAnd

/-- VAND_EXT (R272): Extended vector AND. -/
def execVandExt (f : ExtA) (s : State) : Out := s.execV 0x4A f effAnd

/-- VOR (R272): Compact vector OR. -/
def execVor (f : Word0) (s : State) : Out := s.execVC 0x4B f effOr

/-- VOR_EXT (R272): Extended vector OR. -/
def execVorExt (f : ExtA) (s : State) : Out := s.execV 0x4B f effOr

/-- VXOR (R272): Compact vector XOR. -/
def execVxor (f : Word0) (s : State) : Out := s.execVC 0x4C f effXor

/-- VXOR_EXT (R272): Extended vector XOR. -/
def execVxorExt (f : ExtA) (s : State) : Out := s.execV 0x4C f effXor

/-- VANDN (R272): Compact vector AND NOT. -/
def execVandn (f : Word0) (s : State) : Out := s.execVC 0x4D f effAndn

/-- VANDN_EXT (R272): Extended vector AND NOT. -/
def execVandnExt (f : ExtA) (s : State) : Out := s.execV 0x4D f effAndn

/-- VSHL (R272): Compact vector shift left by an immediate. -/
def execVshl (f : Word0) (s : State) : Out := s.execVC 0x4E f effShl

/-- VSHL_EXT (R272): Extended vector shift left. -/
def execVshlExt (f : ExtA) (s : State) : Out := s.execV 0x4E f effShl

/-- VSHR (R272): Compact vector logical shift right by an immediate. -/
def execVshr (f : Word0) (s : State) : Out := s.execVC 0x4F f effShr

/-- VSHR_EXT (R272): Extended vector logical shift right. -/
def execVshrExt (f : ExtA) (s : State) : Out := s.execV 0x4F f effShr

/-- VSRA (R272): Compact vector arithmetic shift right by an immediate. -/
def execVsra (f : Word0) (s : State) : Out := s.execVC 0x50 f effSra

/-- VSRA_EXT (R272): Extended vector arithmetic shift right. -/
def execVsraExt (f : ExtA) (s : State) : Out := s.execV 0x50 f effSra

/-- VROT (R272): Compact vector rotate left by an immediate. -/
def execVrot (f : Word0) (s : State) : Out := s.execVC 0x51 f effRot

/-- VROT_EXT (R272): Extended vector rotate left. -/
def execVrotExt (f : ExtA) (s : State) : Out := s.execV 0x51 f effRot

/-- VBFE (R273): Compact bit-field extract. -/
def execVbfe (f : Word0) (s : State) : Out := s.execVC 0x52 f effBfe

/-- VBFE_EXT (R273): Extended bit-field extract, optionally sign-extending. -/
def execVbfeExt (f : ExtA) (s : State) : Out := s.execV 0x52 f effBfe

/-- VBFI (R273): Compact bit-field insert into v[D]. -/
def execVbfi (f : Word0) (s : State) : Out := s.execVC 0x53 f effBfi

/-- VBFI_EXT (R273): Extended bit-field insert with a third source. -/
def execVbfiExt (f : ExtA) (s : State) : Out := s.execV 0x53 f effBfi

/-- VPOPC (R273): Compact per-lane population count. -/
def execVpopc (f : Word0) (s : State) : Out := s.execVC 0x54 f effPopc

/-- VPOPC_EXT (R273): Extended population count. -/
def execVpopcExt (f : ExtA) (s : State) : Out := s.execV 0x54 f effPopc

/-- VCLZ (R273): Compact per-lane leading-zero count. -/
def execVclz (f : Word0) (s : State) : Out := s.execVC 0x55 f effClz

/-- VCLZ_EXT (R273): Extended leading-zero count. -/
def execVclzExt (f : ExtA) (s : State) : Out := s.execV 0x55 f effClz

/-- VCMP (R275): Compares typed lanes into a mask register. -/
def execVcmp (f : ExtA) (s : State) : Out := s.execV 0x56 f effCmp

/-- VSEL (R276): Compact select under k0. -/
def execVsel (f : Word0) (s : State) : Out := s.execVC 0x57 f effSel

/-- VSEL_EXT (R276): Extended select under a mask register. -/
def execVselExt (f : ExtA) (s : State) : Out := s.execV 0x57 f effSel

/-- VMOV (R274): Compact vector register move. -/
def execVmov (f : Word0) (s : State) : Out := s.execVC 0x58 f effMov

/-- VMOV_EXT (R274): Extended vector move, optionally of pairs. -/
def execVmovExt (f : ExtA) (s : State) : Out := s.execV 0x58 f effMov

/-- VLI (R274): Compact vector load of a sign-extended immediate. -/
def execVli (f : Word0) (s : State) : Out := s.execVC 0x59 f effLi

/-- VLI_EXT (R274): Extended vector load of a 32-bit immediate. -/
def execVliExt (f : ExtA) (s : State) : Out := s.execV 0x59 f effLi

/-- The body of `vli` with a literal (R274): the pair D:D+1 in every lane of the slot's mask. -/
def vliPair (d : Byte) (lit : DWord) (g : Group) (s : State) : Res :=
  match g.vecCheck [] [d.toNat, d.toNat + 1] with
  | .trap c => .trap (.of c) s
  | .wait => .stall .register s
  | .go => .ok (s.setGroup s.cur (g.putDest .pair d (g.pc s.curSlot).mask (Lanes.all lit)))

/-- VLI_LITERAL (R274): LEN 10 pair load of a 64-bit literal. -/
def execVliLiteral (f : Word0) (lit : DWord) (s : State) : Out := s.issueWith 0x59 3 [] (vliPair f.d lit)

/-- VID (R274): Compact form; writes each lane's index. -/
def execVid (f : Word0) (s : State) : Out := s.execVC 0x5A f effId

/-- VID_EXT (R274): Extended vid, optionally the global lane index. -/
def execVidExt (f : ExtA) (s : State) : Out := s.execV 0x5A f effId

/-- A mask instruction of two sources (R277). -/
def maskOp (op : Mask → Mask → Mask) (f : ExtA) : Group → State → Res :=
  groupBody fun g => .ok (g.wrK f.d.toNat (op (g.rdK f.a.toNat) (g.rdK f.b.toNat)))

/-- `kmov.q` (R277): one 64-bit quarter of a mask from a scalar. -/
def maskQuarter (f : ExtA) : Group → State → Res :=
  groupBody fun g =>
    let q := f.w2.toNat % 4
    let keep := ~~~((BitVec.allOnes 64).setWidth 256 <<< (64 * q))
    .ok (g.wrK f.d.toNat ((g.rdK f.d.toNat &&& keep) ||| ((g.rdS f.a).setWidth 256 <<< (64 * q))))

/-- `kmov.act` (R277): the issuing slot's mask. -/
def maskActive (f : ExtA) (g : Group) (s : State) : Res :=
  .ok (s.setGroup s.cur (g.wrK f.d.toNat (g.pc s.curSlot).mask))

/-- KAND (R277): Compact mask AND. -/
def execKand (f : Word0) (s : State) : Out := s.execC 0x5B f (maskOp fun x y => x &&& y)

/-- KAND_EXT (R277): Extended mask AND. -/
def execKandExt (f : ExtA) (s : State) : Out := s.execA 0x5B f ((maskOp fun x y => x &&& y) f)

/-- KOR (R277): Compact mask OR. -/
def execKor (f : Word0) (s : State) : Out := s.execC 0x5C f (maskOp fun x y => x ||| y)

/-- KOR_EXT (R277): Extended mask OR. -/
def execKorExt (f : ExtA) (s : State) : Out := s.execA 0x5C f ((maskOp fun x y => x ||| y) f)

/-- KXOR (R277): Compact mask XOR. -/
def execKxor (f : Word0) (s : State) : Out := s.execC 0x5D f (maskOp fun x y => x ^^^ y)

/-- KXOR_EXT (R277): Extended mask XOR. -/
def execKxorExt (f : ExtA) (s : State) : Out := s.execA 0x5D f ((maskOp fun x y => x ^^^ y) f)

/-- KNOT (R277): Compact mask NOT. -/
def execKnot (f : Word0) (s : State) : Out := s.execC 0x5E f (maskOp fun x _ => ~~~x)

/-- KNOT_EXT (R277): Extended mask NOT. -/
def execKnotExt (f : ExtA) (s : State) : Out := s.execA 0x5E f ((maskOp fun x _ => ~~~x) f)

/-- KMOV (R277): Compact mask move. -/
def execKmov (f : Word0) (s : State) : Out := s.execC 0x5F f (maskOp fun x _ => x)

/-- KMOV_EXT (R277): Extended mask move. -/
def execKmovExt (f : ExtA) (s : State) : Out := s.execA 0x5F f ((maskOp fun x _ => x) f)

/-- KMOV_Q (R277): Writes one 64-bit quarter of a mask from a scalar. -/
def execKmovQ (f : ExtA) (s : State) : Out := s.execA 0x5F f (maskQuarter f)

/-- KMOV_ACT (R277): Copies the issuing slot's mask into a mask register. -/
def execKmovAct (f : ExtA) (s : State) : Out := s.execA 0x5F f (maskActive f)

/-- VMATCH (R278): Compact form; gives each lane the lowest active lane holding the same value. -/
def execVmatch (f : Word0) (s : State) : Out := s.execVC 0x60 f effMatch

/-- VMATCH_EXT (R278): Extended vmatch, optionally on pairs. -/
def execVmatchExt (f : ExtA) (s : State) : Out := s.execV 0x60 f effMatch

/-- VMRANK (R278): Compact form; ranks each lane among equal active values. -/
def execVmrank (f : Word0) (s : State) : Out := s.execVC 0x61 f effMrank

/-- VMRANK_EXT (R278): Extended vmrank, with pair and count options. -/
def execVmrankExt (f : ExtA) (s : State) : Out := s.execV 0x61 f effMrank

/-- VBFLY (R279): Compact butterfly exchange at distance 2^s[B]. -/
def execVbfly (f : Word0) (s : State) : Out := s.execVC 0x62 f effBfly

/-- VBFLY_EXT (R279): Extended butterfly exchange. -/
def execVbflyExt (f : ExtA) (s : State) : Out := s.execV 0x62 f effBfly

/-- VSHFL (R280): Compact lane shuffle by a vector of indices. -/
def execVshfl (f : Word0) (s : State) : Out := s.execVC 0x63 f effShfl

/-- VSHFL_EXT (R280): Extended lane shuffle. -/
def execVshflExt (f : ExtA) (s : State) : Out := s.execV 0x63 f effShfl

/-- VBCAST (R280): Compact broadcast of lane s[B]. -/
def execVbcast (f : Word0) (s : State) : Out := s.execVC 0x64 f effBcast

/-- VBCAST_EXT (R280): Extended lane broadcast. -/
def execVbcastExt (f : ExtA) (s : State) : Out := s.execV 0x64 f effBcast

/-- VSCAN (R281): Compact inclusive i8 add scan over active lanes. -/
def execVscan (f : Word0) (s : State) : Out := s.execVC 0x65 f effScan

/-- VSCAN_EXT (R281): Extended prefix scan with operation, type and exclusive options. -/
def execVscanExt (f : ExtA) (s : State) : Out := s.execV 0x65 f effScan

/-- VRED (R282): Compact i8 add reduction over active lanes. -/
def execVred (f : Word0) (s : State) : Out := s.execVC 0x66 f effRed

/-- VRED_EXT (R282): Extended reduction with operation and type. -/
def execVredExt (f : ExtA) (s : State) : Out := s.execV 0x66 f effRed

/-- VSAT (R271): Compact clamp of an i32 value to i8. -/
def execVsat (f : Word0) (s : State) : Out := s.execVC 0x67 f effSat

/-- VSAT_EXT (R271): Extended clamp to a typed range. -/
def execVsatExt (f : ExtA) (s : State) : Out := s.execV 0x67 f effSat

/-- The register that lane `i` names through an index register (R285). -/
def Group.indexed (g : Group) (x : Nat) (c i : Nat) : Nat := ((g.rdX x).lane.lane i).toNat + c

/-- The lowest active lane whose register does not lie in the window and the block (R285). -/
def Group.indexFails (g : Group) (x c : Nat) (m : Mask) : Option Nat :=
  (Mask.lanes m).find? fun i =>
    decide (g.indexed x c i < (g.rdX x).lo.toNat) || decide ((g.rdX x).hi.toNat < g.indexed x c i)
      || decide (g.regs ≤ g.indexed x c i)

/-- The checks of register numbers of an indirect access (R285, R389): its direct register, and the lanes' own, of which the trap
names the lowest that fails. -/
def Group.indexTrap (g : Group) (direct : Nat) (x c : Nat) (m : Mask) : Option TrapInfo :=
  if !g.spanOk [direct] then some (.of .regIndexRange)
  else (g.indexFails x c m).map fun i => { TrapInfo.of .regIndexRange with lane := i }

/-- The full/empty check of indirectly named registers, which are always registers of the block (R285). -/
def Group.blockFull (g : Group) (regs : List Nat) : Bool := regs.all fun n => (g.block n).full

/-- `vxld` (R285). -/
def vxldBody (f : ExtA) (g : Group) (s : State) : Res :=
  let m := activeMask g s.curSlot f.gn f.g
  let x := f.a.toNat
  let c := f.w2.toNat % 256
  match g.indexTrap f.d.toNat x c m with
  | some t => .trap t s
  | none =>
  if !g.blockFull ((Mask.lanes m).map fun i => g.indexed x c i) then
    if f.fe.getLsbD 2 then .trap (.of .regEmpty) s else .stall .register s
  else if !(g.rdV f.d.toNat).full then .stall .register s
  else
    let r := Res.ok (s.setGroup s.cur (g.putV f.d.toNat m fun i => (g.block (g.indexed x c i)).lane.lane i))
    if (Mask.lanes m).any fun i => g.poisonIn [g.indexed x c i] (BitVec.twoPow 256 i) then
      r.andThen fun s1 => .ok (s1.consume s.cur (some .uePool))
    else r

/-- A register of the block written in some lanes (R285): never a trap-bank register. -/
def Group.putBlock (g : Group) (n : Nat) (m : Mask) (new : Nat → Word) : Group :=
  let r := g.block n
  { g with v := Table.set g.v n { full := true
                                  lane := Lanes.of fun i => if m.getLsbD i then new i else r.lane.lane i } }.cleanReg n m

/-- `vxst` (R285): each register that an active lane names takes those lanes' A. -/
def vxstBody (f : ExtA) (g : Group) (s : State) : Res :=
  let m := activeMask g s.curSlot f.gn f.g
  let x := f.d.toNat
  let c := f.w2.toNat % 256
  let regs := ((Mask.lanes m).map fun i => g.indexed x c i).eraseDups
  match g.indexTrap f.a.toNat x c m with
  | some t => .trap t s
  | none =>
  if !(g.rdV f.a.toNat).full then
    if f.fe.getLsbD 2 then .trap (.of .regEmpty) s else .stall .register s
  else if !g.blockFull regs then .stall .register s
  else
    let new := g.lane32 f.a.toNat
    s.readRegs g [f.a.toNat] m .uePool (.ok (s.setGroup s.cur (regs.foldl (fun h n =>
      h.putBlock n (Mask.ofFn fun i => m.getLsbD i && g.indexed x c i == n) new) g)))

/-- An index register's active lanes set (R284). -/
def Group.putX (g : Group) (x : Nat) (m : Mask) (new : Nat → BitVec 16) : Group :=
  let r := g.rdX x
  g.wrX x { r with lane := Lanes.of fun i => if m.getLsbD i then new i else r.lane.lane i }

/-- `xset` (R284): from A, or from IMM32 with MOD bit 0. -/
def xsetBody (f : ExtA) (g : Group) (s : State) : Res :=
  let m := activeMask g s.curSlot f.gn f.g
  if f.mod.getLsbD 0 then .ok (s.setGroup s.cur (g.putX f.d.toNat m fun _ => f.w2.extractLsb' 0 16))
  else match g.vecCheck [([f.a.toNat], f.fe.getLsbD 2)] [] with
    | .trap c => .trap (.of c) s
    | .wait => .stall .register s
    | .go => s.readRegs g [f.a.toNat] m .uePool
        (.ok (s.setGroup s.cur (g.putX f.d.toNat m fun i => (g.lane32 f.a.toNat i).extractLsb' 0 16)))

/-- `xwin` (R284): lo > hi traps; with no active lane the window is unchanged. -/
def xwinBody (f : ExtA) (g : Group) (s : State) : Res :=
  let lo : Byte := f.w2.extractLsb' 0 8
  let hi : Byte := f.w2.extractLsb' 8 8
  if hi.toNat < lo.toNat then .trap (.of .operandRange) s
  else if activeMask g s.curSlot f.gn f.g == 0 then .ok s
  else .ok (s.setGroup s.cur (g.wrX f.d.toNat { g.rdX f.d.toNat with lo := lo, hi := hi }))

/-- VXLD (R285): Reads registers indirectly through an index register. -/
def execVxld (f : ExtA) (s : State) : Out := s.execA 0x68 f (vxldBody f)

/-- VXST (R285): Writes registers indirectly through an index register. -/
def execVxst (f : ExtA) (s : State) : Out := s.execA 0x69 f (vxstBody f)

/-- XSET (R284): Compact form; sets an index register from a vector. -/
def execXset (f : Word0) (s : State) : Out := s.execC 0x6A f xsetBody

/-- XSET_EXT (R284): Extended xset, optionally from an immediate. -/
def execXsetExt (f : ExtA) (s : State) : Out := s.execA 0x6A f (xsetBody f)

/-- XWIN (R284, R226): Sets the window of an index register. A compact word has no IMM32, which is read as 0: its window
holds register 0 alone (log 16). -/
def execXwin (compact : Bool) (f : ExtA) (s : State) : Out :=
  s.issueWith 0x6B (if compact then 1 else 3) (reqScalars (reqA 0x6B f) f.d f.a f.b f.c) (xwinBody f)

/-- VDOT4_I8 (R270): Compact accumulating 4-way byte dot product. -/
def execVdot4I8 (f : Word0) (s : State) : Out := s.execVC 0x6C f effDot4

/-- VDOT4_I8_EXT (R270): Extended 4-way byte dot product. -/
def execVdot4I8Ext (f : ExtA) (s : State) : Out := s.execV 0x6C f effDot4

/-- VMULW (R270): Compact widening 32x32 to 64-bit multiply. -/
def execVmulw (f : Word0) (s : State) : Out := s.execVC 0x6D f effMulw

/-- VMULW_EXT (R270): Extended widening multiply. -/
def execVmulwExt (f : ExtA) (s : State) : Out := s.execV 0x6D f effMulw

/-- VCLAMP (R271): Compact clamp of A between B and the old D. -/
def execVclamp (f : Word0) (s : State) : Out := s.execVC 0x6E f effClamp

/-- VCLAMP_EXT (R271): Extended typed clamp. -/
def execVclampExt (f : ExtA) (s : State) : Out := s.execV 0x6E f effClamp

/-- VHASH (R283): Compact Mix64 hash of a lane value XOR s[B]. -/
def execVhash (f : Word0) (s : State) : Out := s.execVC 0x6F f effHash

/-- VHASH_EXT (R283): Extended vector hash. -/
def execVhashExt (f : ExtA) (s : State) : Out := s.execV 0x6F f effHash

end Sys2Proof.Machine
end

