-- ==== Sys2Proof/Machine/Dispatch.lean ====
section
/-! DEFINITION. The meaning of each instruction and device step: one arm for each constructor. -/

namespace Sys2Proof.Machine

/-- What an instruction or device step does. -/
def exec (i : Instr) (s : State) : Host.Outcome State Fault Refusal :=
  match i with
  | .trap0 => Sys2Proof.Machine.execTrap0 s
  | .ill w => Sys2Proof.Machine.execIll w s
  | .nop f => Sys2Proof.Machine.execNop f s
  | .nopExt f => Sys2Proof.Machine.execNopExt f s
  | .br f => Sys2Proof.Machine.execBr f s
  | .bcEq f => Sys2Proof.Machine.execBcEq f s
  | .bcNe f => Sys2Proof.Machine.execBcNe f s
  | .bcLt f => Sys2Proof.Machine.execBcLt f s
  | .bcGe f => Sys2Proof.Machine.execBcGe f s
  | .bcLtn f => Sys2Proof.Machine.execBcLtn f s
  | .bcGen f => Sys2Proof.Machine.execBcGen f s
  | .bany f => Sys2Proof.Machine.execBany f s
  | .ball f => Sys2Proof.Machine.execBall f s
  | .bnone f => Sys2Proof.Machine.execBnone f s
  | .bdiv f => Sys2Proof.Machine.execBdiv f s
  | .join f => Sys2Proof.Machine.execJoin f s
  | .call f => Sys2Proof.Machine.execCall f s
  | .callAbsolute f lit => Sys2Proof.Machine.execCallAbsolute f lit s
  | .ret f => Sys2Proof.Machine.execRet f s
  | .jmp f => Sys2Proof.Machine.execJmp f s
  | .jmpAbsolute f lit => Sys2Proof.Machine.execJmpAbsolute f lit s
  | .exit f => Sys2Proof.Machine.execExit f s
  | .idem f => Sys2Proof.Machine.execIdem f s
  | .idemExt f => Sys2Proof.Machine.execIdemExt f s
  | .step f => Sys2Proof.Machine.execStep f s
  | .stepExt f => Sys2Proof.Machine.execStepExt f s
  | .trap f => Sys2Proof.Machine.execTrap f s
  | .eret f => Sys2Proof.Machine.execEret f s
  | .mfsys f => Sys2Proof.Machine.execMfsys f s
  | .mtsys f => Sys2Proof.Machine.execMtsys f s
  | .yield f => Sys2Proof.Machine.execYield f s
  | .yieldExt f => Sys2Proof.Machine.execYieldExt f s
  | .tmset f => Sys2Proof.Machine.execTmset f s
  | .tmsetExt f => Sys2Proof.Machine.execTmsetExt f s
  | .rdcyc f => Sys2Proof.Machine.execRdcyc f s
  | .rdcycExt f => Sys2Proof.Machine.execRdcycExt f s
  | .detm f => Sys2Proof.Machine.execDetm f s
  | .detmExt f => Sys2Proof.Machine.execDetmExt f s
  | .sigck f => Sys2Proof.Machine.execSigck f s
  | .ctxsw f => Sys2Proof.Machine.execCtxsw f s
  | .finj f => Sys2Proof.Machine.execFinj f s
  | .brk f => Sys2Proof.Machine.execBrk f s
  | .brkExt f => Sys2Proof.Machine.execBrkExt f s
  | .sadd f => Sys2Proof.Machine.execSadd f s
  | .saddExt f => Sys2Proof.Machine.execSaddExt f s
  | .ssub f => Sys2Proof.Machine.execSsub f s
  | .ssubExt f => Sys2Proof.Machine.execSsubExt f s
  | .smul f => Sys2Proof.Machine.execSmul f s
  | .smulExt f => Sys2Proof.Machine.execSmulExt f s
  | .smulh f => Sys2Proof.Machine.execSmulh f s
  | .smulhExt f => Sys2Proof.Machine.execSmulhExt f s
  | .sand f => Sys2Proof.Machine.execSand f s
  | .sandExt f => Sys2Proof.Machine.execSandExt f s
  | .sor f => Sys2Proof.Machine.execSor f s
  | .sorExt f => Sys2Proof.Machine.execSorExt f s
  | .sxor f => Sys2Proof.Machine.execSxor f s
  | .sxorExt f => Sys2Proof.Machine.execSxorExt f s
  | .sshl f => Sys2Proof.Machine.execSshl f s
  | .sshlExt f => Sys2Proof.Machine.execSshlExt f s
  | .sshr f => Sys2Proof.Machine.execSshr f s
  | .sshrExt f => Sys2Proof.Machine.execSshrExt f s
  | .ssra f => Sys2Proof.Machine.execSsra f s
  | .ssraExt f => Sys2Proof.Machine.execSsraExt f s
  | .smin f => Sys2Proof.Machine.execSmin f s
  | .sminExt f => Sys2Proof.Machine.execSminExt f s
  | .smax f => Sys2Proof.Machine.execSmax f s
  | .smaxExt f => Sys2Proof.Machine.execSmaxExt f s
  | .sminn f => Sys2Proof.Machine.execSminn f s
  | .sminnExt f => Sys2Proof.Machine.execSminnExt f s
  | .smaxn f => Sys2Proof.Machine.execSmaxn f s
  | .smaxnExt f => Sys2Proof.Machine.execSmaxnExt f s
  | .smov f => Sys2Proof.Machine.execSmov f s
  | .smovExt f => Sys2Proof.Machine.execSmovExt f s
  | .sli f => Sys2Proof.Machine.execSli f s
  | .sliExt f => Sys2Proof.Machine.execSliExt f s
  | .sliLiteral f lit => Sys2Proof.Machine.execSliLiteral f lit s
  | .sset f => Sys2Proof.Machine.execSset f s
  | .ssetExt f => Sys2Proof.Machine.execSsetExt f s
  | .ssel f => Sys2Proof.Machine.execSsel f s
  | .sselExt f => Sys2Proof.Machine.execSselExt f s
  | .sld f => Sys2Proof.Machine.execSld f s
  | .sst f => Sys2Proof.Machine.execSst f s
  | .xlat f => Sys2Proof.Machine.execXlat f s
  | .shld f => Sys2Proof.Machine.execShld f s
  | .shset f => Sys2Proof.Machine.execShset f s
  | .shget f => Sys2Proof.Machine.execShget f s
  | .lsset f => Sys2Proof.Machine.execLsset f s
  | .lssetExt f => Sys2Proof.Machine.execLssetExt f s
  | .lsget f => Sys2Proof.Machine.execLsget f s
  | .lsgetExt f => Sys2Proof.Machine.execLsgetExt f s
  | .ovfrd f => Sys2Proof.Machine.execOvfrd f s
  | .ovfrdExt f => Sys2Proof.Machine.execOvfrdExt f s
  | .kpop f => Sys2Proof.Machine.execKpop f s
  | .kpopExt f => Sys2Proof.Machine.execKpopExt f s
  | .kffs f => Sys2Proof.Machine.execKffs f s
  | .kffsExt f => Sys2Proof.Machine.execKffsExt f s
  | .vtos f => Sys2Proof.Machine.execVtos f s
  | .vtosExt f => Sys2Proof.Machine.execVtosExt f s
  | .stov f => Sys2Proof.Machine.execStov f s
  | .stovExt f => Sys2Proof.Machine.execStovExt f s
  | .sdiv f => Sys2Proof.Machine.execSdiv f s
  | .sdivExt f => Sys2Proof.Machine.execSdivExt f s
  | .vaddI32 f => Sys2Proof.Machine.execVaddI32 f s
  | .vaddI32Ext f => Sys2Proof.Machine.execVaddI32Ext f s
  | .vsubI32 f => Sys2Proof.Machine.execVsubI32 f s
  | .vsubI32Ext f => Sys2Proof.Machine.execVsubI32Ext f s
  | .vmulI32 f => Sys2Proof.Machine.execVmulI32 f s
  | .vmulI32Ext f => Sys2Proof.Machine.execVmulI32Ext f s
  | .vmulhI32 f => Sys2Proof.Machine.execVmulhI32 f s
  | .vmulhI32Ext f => Sys2Proof.Machine.execVmulhI32Ext f s
  | .vmadI32 f => Sys2Proof.Machine.execVmadI32 f s
  | .vmadI32Ext f => Sys2Proof.Machine.execVmadI32Ext f s
  | .vaddI64 f => Sys2Proof.Machine.execVaddI64 f s
  | .vaddI64Ext f => Sys2Proof.Machine.execVaddI64Ext f s
  | .vsubI64 f => Sys2Proof.Machine.execVsubI64 f s
  | .vsubI64Ext f => Sys2Proof.Machine.execVsubI64Ext f s
  | .vmin f => Sys2Proof.Machine.execVmin f s
  | .vminExt f => Sys2Proof.Machine.execVminExt f s
  | .vmax f => Sys2Proof.Machine.execVmax f s
  | .vmaxExt f => Sys2Proof.Machine.execVmaxExt f s
  | .vabsI32 f => Sys2Proof.Machine.execVabsI32 f s
  | .vabsI32Ext f => Sys2Proof.Machine.execVabsI32Ext f s
  | .vand f => Sys2Proof.Machine.execVand f s
  | .vandExt f => Sys2Proof.Machine.execVandExt f s
  | .vor f => Sys2Proof.Machine.execVor f s
  | .vorExt f => Sys2Proof.Machine.execVorExt f s
  | .vxor f => Sys2Proof.Machine.execVxor f s
  | .vxorExt f => Sys2Proof.Machine.execVxorExt f s
  | .vandn f => Sys2Proof.Machine.execVandn f s
  | .vandnExt f => Sys2Proof.Machine.execVandnExt f s
  | .vshl f => Sys2Proof.Machine.execVshl f s
  | .vshlExt f => Sys2Proof.Machine.execVshlExt f s
  | .vshr f => Sys2Proof.Machine.execVshr f s
  | .vshrExt f => Sys2Proof.Machine.execVshrExt f s
  | .vsra f => Sys2Proof.Machine.execVsra f s
  | .vsraExt f => Sys2Proof.Machine.execVsraExt f s
  | .vrot f => Sys2Proof.Machine.execVrot f s
  | .vrotExt f => Sys2Proof.Machine.execVrotExt f s
  | .vbfe f => Sys2Proof.Machine.execVbfe f s
  | .vbfeExt f => Sys2Proof.Machine.execVbfeExt f s
  | .vbfi f => Sys2Proof.Machine.execVbfi f s
  | .vbfiExt f => Sys2Proof.Machine.execVbfiExt f s
  | .vpopc f => Sys2Proof.Machine.execVpopc f s
  | .vpopcExt f => Sys2Proof.Machine.execVpopcExt f s
  | .vclz f => Sys2Proof.Machine.execVclz f s
  | .vclzExt f => Sys2Proof.Machine.execVclzExt f s
  | .vcmp f => Sys2Proof.Machine.execVcmp f s
  | .vsel f => Sys2Proof.Machine.execVsel f s
  | .vselExt f => Sys2Proof.Machine.execVselExt f s
  | .vmov f => Sys2Proof.Machine.execVmov f s
  | .vmovExt f => Sys2Proof.Machine.execVmovExt f s
  | .vli f => Sys2Proof.Machine.execVli f s
  | .vliExt f => Sys2Proof.Machine.execVliExt f s
  | .vliLiteral f lit => Sys2Proof.Machine.execVliLiteral f lit s
  | .vid f => Sys2Proof.Machine.execVid f s
  | .vidExt f => Sys2Proof.Machine.execVidExt f s
  | .kand f => Sys2Proof.Machine.execKand f s
  | .kandExt f => Sys2Proof.Machine.execKandExt f s
  | .kor f => Sys2Proof.Machine.execKor f s
  | .korExt f => Sys2Proof.Machine.execKorExt f s
  | .kxor f => Sys2Proof.Machine.execKxor f s
  | .kxorExt f => Sys2Proof.Machine.execKxorExt f s
  | .knot f => Sys2Proof.Machine.execKnot f s
  | .knotExt f => Sys2Proof.Machine.execKnotExt f s
  | .kmov f => Sys2Proof.Machine.execKmov f s
  | .kmovExt f => Sys2Proof.Machine.execKmovExt f s
  | .kmovQ f => Sys2Proof.Machine.execKmovQ f s
  | .kmovAct f => Sys2Proof.Machine.execKmovAct f s
  | .vmatch f => Sys2Proof.Machine.execVmatch f s
  | .vmatchExt f => Sys2Proof.Machine.execVmatchExt f s
  | .vmrank f => Sys2Proof.Machine.execVmrank f s
  | .vmrankExt f => Sys2Proof.Machine.execVmrankExt f s
  | .vbfly f => Sys2Proof.Machine.execVbfly f s
  | .vbflyExt f => Sys2Proof.Machine.execVbflyExt f s
  | .vshfl f => Sys2Proof.Machine.execVshfl f s
  | .vshflExt f => Sys2Proof.Machine.execVshflExt f s
  | .vbcast f => Sys2Proof.Machine.execVbcast f s
  | .vbcastExt f => Sys2Proof.Machine.execVbcastExt f s
  | .vscan f => Sys2Proof.Machine.execVscan f s
  | .vscanExt f => Sys2Proof.Machine.execVscanExt f s
  | .vred f => Sys2Proof.Machine.execVred f s
  | .vredExt f => Sys2Proof.Machine.execVredExt f s
  | .vsat f => Sys2Proof.Machine.execVsat f s
  | .vsatExt f => Sys2Proof.Machine.execVsatExt f s
  | .vxld f => Sys2Proof.Machine.execVxld f s
  | .vxst f => Sys2Proof.Machine.execVxst f s
  | .xset f => Sys2Proof.Machine.execXset f s
  | .xsetExt f => Sys2Proof.Machine.execXsetExt f s
  | .xwin compact f => Sys2Proof.Machine.execXwin compact f s
  | .vdot4I8 f => Sys2Proof.Machine.execVdot4I8 f s
  | .vdot4I8Ext f => Sys2Proof.Machine.execVdot4I8Ext f s
  | .vmulw f => Sys2Proof.Machine.execVmulw f s
  | .vmulwExt f => Sys2Proof.Machine.execVmulwExt f s
  | .vclamp f => Sys2Proof.Machine.execVclamp f s
  | .vclampExt f => Sys2Proof.Machine.execVclampExt f s
  | .vhash f => Sys2Proof.Machine.execVhash f s
  | .vhashExt f => Sys2Proof.Machine.execVhashExt f s
  | .vfaddF32 f => Sys2Proof.Machine.execVfaddF32 f s
  | .vfaddF32Ext f => Sys2Proof.Machine.execVfaddF32Ext f s
  | .vfsubF32 f => Sys2Proof.Machine.execVfsubF32 f s
  | .vfsubF32Ext f => Sys2Proof.Machine.execVfsubF32Ext f s
  | .vfmulF32 f => Sys2Proof.Machine.execVfmulF32 f s
  | .vfmulF32Ext f => Sys2Proof.Machine.execVfmulF32Ext f s
  | .vffmaF32 f => Sys2Proof.Machine.execVffmaF32 f s
  | .vffmaF32Ext f => Sys2Proof.Machine.execVffmaF32Ext f s
  | .vfaddF64 f => Sys2Proof.Machine.execVfaddF64 f s
  | .vfaddF64Ext f => Sys2Proof.Machine.execVfaddF64Ext f s
  | .vfmulF64 f => Sys2Proof.Machine.execVfmulF64 f s
  | .vfmulF64Ext f => Sys2Proof.Machine.execVfmulF64Ext f s
  | .vffmaF64 f => Sys2Proof.Machine.execVffmaF64 f s
  | .vffmaF64Ext f => Sys2Proof.Machine.execVffmaF64Ext f s
  | .vfaddF16x2 f => Sys2Proof.Machine.execVfaddF16x2 f s
  | .vfaddF16x2Ext f => Sys2Proof.Machine.execVfaddF16x2Ext f s
  | .vffmaF16x2 f => Sys2Proof.Machine.execVffmaF16x2 f s
  | .vffmaF16x2Ext f => Sys2Proof.Machine.execVffmaF16x2Ext f s
  | .vfaddB16x2 f => Sys2Proof.Machine.execVfaddB16x2 f s
  | .vfaddB16x2Ext f => Sys2Proof.Machine.execVfaddB16x2Ext f s
  | .vffmaB16x2 f => Sys2Proof.Machine.execVffmaB16x2 f s
  | .vffmaB16x2Ext f => Sys2Proof.Machine.execVffmaB16x2Ext f s
  | .vfmin f => Sys2Proof.Machine.execVfmin f s
  | .vfmax f => Sys2Proof.Machine.execVfmax f s
  | .vfabs f => Sys2Proof.Machine.execVfabs f s
  | .vfneg f => Sys2Proof.Machine.execVfneg f s
  | .vfcmp f => Sys2Proof.Machine.execVfcmp f s
  | .vfdivF32 f => Sys2Proof.Machine.execVfdivF32 f s
  | .vfdivF32Ext f => Sys2Proof.Machine.execVfdivF32Ext f s
  | .vfsqrtF32 f => Sys2Proof.Machine.execVfsqrtF32 f s
  | .vfsqrtF32Ext f => Sys2Proof.Machine.execVfsqrtF32Ext f s
  | .vfrcp f => Sys2Proof.Machine.execVfrcp f s
  | .vfrsqrt f => Sys2Proof.Machine.execVfrsqrt f s
  | .vfexp2 f => Sys2Proof.Machine.execVfexp2 f s
  | .vflog2 f => Sys2Proof.Machine.execVflog2 f s
  | .vfclass f => Sys2Proof.Machine.execVfclass f s
  | .vcvtF f => Sys2Proof.Machine.execVcvtF f s
  | .vcvtFi f => Sys2Proof.Machine.execVcvtFi f s
  | .vcvtIf f => Sys2Proof.Machine.execVcvtIf f s
  | .vqblk f => Sys2Proof.Machine.execVqblk f s
  | .vqblkExt f => Sys2Proof.Machine.execVqblkExt f s
  | .vdqblk f => Sys2Proof.Machine.execVdqblk f s
  | .vdqblkExt f => Sys2Proof.Machine.execVdqblkExt f s
  | .vhad f => Sys2Proof.Machine.execVhad f s
  | .vtern f => Sys2Proof.Machine.execVtern f s
  | .vternExt f => Sys2Proof.Machine.execVternExt f s
  | .vrand f => Sys2Proof.Machine.execVrand f s
  | .vrandExt f => Sys2Proof.Machine.execVrandExt f s
  | .absrd f => Sys2Proof.Machine.execAbsrd f s
  | .absrdExt f => Sys2Proof.Machine.execAbsrdExt f s
  | .absclr f => Sys2Proof.Machine.execAbsclr f s
  | .absclrExt f => Sys2Proof.Machine.execAbsclrExt f s
  | .absupd f => Sys2Proof.Machine.execAbsupd f s
  | .absupdExt f => Sys2Proof.Machine.execAbsupdExt f s
  | .vfscale f => Sys2Proof.Machine.execVfscale f s
  | .vlscale f => Sys2Proof.Machine.execVlscale f s
  | .vfchk f => Sys2Proof.Machine.execVfchk f s
  | .vfsum f => Sys2Proof.Machine.execVfsum f s
  | .vfdot2F16 f => Sys2Proof.Machine.execVfdot2F16 f s
  | .vfdot2F16Ext f => Sys2Proof.Machine.execVfdot2F16Ext f s
  | .vfdot2B16 f => Sys2Proof.Machine.execVfdot2B16 f s
  | .vfdot2B16Ext f => Sys2Proof.Machine.execVfdot2B16Ext f s
  | .vfpack f => Sys2Proof.Machine.execVfpack f s
  | .vfunpk f => Sys2Proof.Machine.execVfunpk f s
  | .vfrint f => Sys2Proof.Machine.execVfrint f s
  | .vfcopysign f => Sys2Proof.Machine.execVfcopysign f s
  | .vfmaxabs f => Sys2Proof.Machine.execVfmaxabs f s
  | .vnorm2 f => Sys2Proof.Machine.execVnorm2 f s
  | .vcvtE8 f => Sys2Proof.Machine.execVcvtE8 f s
  | .vcvtE8Ext f => Sys2Proof.Machine.execVcvtE8Ext f s
  | .vcvtE4 f => Sys2Proof.Machine.execVcvtE4 f s
  | .vcvtE4Ext f => Sys2Proof.Machine.execVcvtE4Ext f s
  | .vectorSweep op f lit => Sys2Proof.Machine.execVectorSweep op f lit s
  | .ld f => Sys2Proof.Machine.execLd f s
  | .st f => Sys2Proof.Machine.execSt f s
  | .ldsw f lit => Sys2Proof.Machine.execLdsw f lit s
  | .stsw f lit => Sys2Proof.Machine.execStsw f lit s
  | .gather f => Sys2Proof.Machine.execGather f s
  | .scatter f => Sys2Proof.Machine.execScatter f s
  | .lds f => Sys2Proof.Machine.execLds f s
  | .sts f => Sys2Proof.Machine.execSts f s
  | .ldc f => Sys2Proof.Machine.execLdc f s
  | .stc f => Sys2Proof.Machine.execStc f s
  | .ldp f => Sys2Proof.Machine.execLdp f s
  | .stp f => Sys2Proof.Machine.execStp f s
  | .pref f => Sys2Proof.Machine.execPref f s
  | .l2pin f => Sys2Proof.Machine.execL2pin f s
  | .l2unpin f => Sys2Proof.Machine.execL2unpin f s
  | .discard f => Sys2Proof.Machine.execDiscard f s
  | .wback f => Sys2Proof.Machine.execWback f s
  | .objdecl f => Sys2Proof.Machine.execObjdecl f s
  | .objset f => Sys2Proof.Machine.execObjset f s
  | .objrel f => Sys2Proof.Machine.execObjrel f s
  | .fence f => Sys2Proof.Machine.execFence f s
  | .fenceExt f => Sys2Proof.Machine.execFenceExt f s
  | .acq f => Sys2Proof.Machine.execAcq f s
  | .acqExt f => Sys2Proof.Machine.execAcqExt f s
  | .rel f => Sys2Proof.Machine.execRel f s
  | .relExt f => Sys2Proof.Machine.execRelExt f s
  | .ldsc f => Sys2Proof.Machine.execLdsc f s
  | .stsc f => Sys2Proof.Machine.execStsc f s
  | .stmc f => Sys2Proof.Machine.execStmc f s
  | .ldx f => Sys2Proof.Machine.execLdx f s
  | .stx f => Sys2Proof.Machine.execStx f s
  | .winmap f => Sys2Proof.Machine.execWinmap f s
  | .winsyncWb f => Sys2Proof.Machine.execWinsyncWb f s
  | .winsyncFill f => Sys2Proof.Machine.execWinsyncFill f s
  | .winsyncClose f => Sys2Proof.Machine.execWinsyncClose f s
  | .tlbinv f => Sys2Proof.Machine.execTlbinv f s
  | .xlatq f => Sys2Proof.Machine.execXlatq f s
  | .ataddI32 f => Sys2Proof.Machine.execAtaddI32 f s
  | .ataddI64 f => Sys2Proof.Machine.execAtaddI64 f s
  | .ataddfF32 f => Sys2Proof.Machine.execAtaddfF32 f s
  | .atmin f => Sys2Proof.Machine.execAtmin f s
  | .atmax f => Sys2Proof.Machine.execAtmax f s
  | .atand f => Sys2Proof.Machine.execAtand f s
  | .ator f => Sys2Proof.Machine.execAtor f s
  | .atxor f => Sys2Proof.Machine.execAtxor f s
  | .atxchg f => Sys2Proof.Machine.execAtxchg f s
  | .atcasI32 f => Sys2Proof.Machine.execAtcasI32 f s
  | .atcasI64 f => Sys2Proof.Machine.execAtcasI64 f s
  | .atinc f => Sys2Proof.Machine.execAtinc f s
  | .atdec f => Sys2Proof.Machine.execAtdec f s
  | .ataddsc f => Sys2Proof.Machine.execAtaddsc f s
  | .atcassc f => Sys2Proof.Machine.execAtcassc f s
  | .atwait f => Sys2Proof.Machine.execAtwait f s
  | .mwld f => Sys2Proof.Machine.execMwld f s
  | .mmac f => Sys2Proof.Machine.execMmac f s
  | .mtri f => Sys2Proof.Machine.execMtri f s
  | .mlut f => Sys2Proof.Machine.execMlut f s
  | .mtern f => Sys2Proof.Machine.execMtern f s
  | .mzero f => Sys2Proof.Machine.execMzero f s
  | .mrd f => Sys2Proof.Machine.execMrd f s
  | .mwr f => Sys2Proof.Machine.execMwr f s
  | .mver f => Sys2Proof.Machine.execMver f s
  | .mverSet f => Sys2Proof.Machine.execMverSet f s
  | .mscale f => Sys2Proof.Machine.execMscale f s
  | .mstream f => Sys2Proof.Machine.execMstream f s
  | .mwrel f => Sys2Proof.Machine.execMwrel f s
  | .spbind f => Sys2Proof.Machine.execSpbind f s
  | .spunbind f => Sys2Proof.Machine.execSpunbind f s
  | .spsettle f => Sys2Proof.Machine.execSpsettle f s
  | .spquery f => Sys2Proof.Machine.execSpquery f s
  | .sprefresh f => Sys2Proof.Machine.execSprefresh f s
  | .sppause f => Sys2Proof.Machine.execSppause f s
  | .spresume f => Sys2Proof.Machine.execSpresume f s
  | .spsnap f => Sys2Proof.Machine.execSpsnap f s
  | .mbar f => Sys2Proof.Machine.execMbar f s
  | .maccadd f => Sys2Proof.Machine.execMaccadd f s
  | .mpeek f => Sys2Proof.Machine.execMpeek f s
  | .mfmt f => Sys2Proof.Machine.execMfmt f s
  | .bar f => Sys2Proof.Machine.execBar f s
  | .barExt f => Sys2Proof.Machine.execBarExt f s
  | .barar f => Sys2Proof.Machine.execBarar f s
  | .bararExt f => Sys2Proof.Machine.execBararExt f s
  | .barwt f => Sys2Proof.Machine.execBarwt f s
  | .barwtExt f => Sys2Proof.Machine.execBarwtExt f s
  | .cwait f => Sys2Proof.Machine.execCwait f s
  | .ecwait f => Sys2Proof.Machine.execEcwait f s
  | .ecwaitExt f => Sys2Proof.Machine.execEcwaitExt f s
  | .kick f => Sys2Proof.Machine.execKick f s
  | .coll f => Sys2Proof.Machine.execColl f s
  | .amsg f => Sys2Proof.Machine.execAmsg f s
  | .amreply f => Sys2Proof.Machine.execAmreply f s
  | .tender f => Sys2Proof.Machine.execTender f s
  | .bidld f => Sys2Proof.Machine.execBidld f s
  | .tquery f => Sys2Proof.Machine.execTquery f s
  | .launch f => Sys2Proof.Machine.execLaunch f s
  | .launchFab f => Sys2Proof.Machine.execLaunchFab f s
  | .leave f => Sys2Proof.Machine.execLeave f s
  | .leaveQ f => Sys2Proof.Machine.execLeaveQ f s
  | .evpost f => Sys2Proof.Machine.execEvpost f s
  | .evget f => Sys2Proof.Machine.execEvget f s
  | .qwait f => Sys2Proof.Machine.execQwait f s
  | .qsig f => Sys2Proof.Machine.execQsig f s
  | .gangsync f => Sys2Proof.Machine.execGangsync f s
  | .replay f => Sys2Proof.Machine.execReplay f s
  | .digest f => Sys2Proof.Machine.execDigest f s
  | .park f => Sys2Proof.Machine.execPark f s
  | .parkExt f => Sys2Proof.Machine.execParkExt f s
  | .cutq f => Sys2Proof.Machine.execCutq f s
  | .deferredMemoryTrap g => Sys2Proof.Machine.execDeferredMemoryTrap g s
  | .timerExpired g => Sys2Proof.Machine.execTimerExpired g s
  | .ptCmd v => Sys2Proof.Machine.execPtCmd v s
  | .fdRead frame => Sys2Proof.Machine.execFdRead frame s
  | .fdInc frame => Sys2Proof.Machine.execFdInc frame s
  | .fdDec frame => Sys2Proof.Machine.execFdDec frame s
  | .fdFree frame zf => Sys2Proof.Machine.execFdFree frame zf s
  | .fpPop d => Sys2Proof.Machine.execFpPop d s
  | .ftHandoff v => Sys2Proof.Machine.execFtHandoff v s
  | .tlbShoot word v => Sys2Proof.Machine.execTlbShoot word v s
  | .shootdownComplete id => Sys2Proof.Machine.execShootdownComplete id s
  | .plexResume who tables resume => Sys2Proof.Machine.execPlexResume who tables resume s
  | .siLoadRequest m => Sys2Proof.Machine.execSiLoadRequest m s
  | .ownLoadRequest m => Sys2Proof.Machine.execOwnLoadRequest m s
  | .registration m => Sys2Proof.Machine.execRegistration m s
  | .writeThrough m => Sys2Proof.Machine.execWriteThrough m s
  | .ncAtomic m => Sys2Proof.Machine.execNcAtomic m s
  | .scOperation m => Sys2Proof.Machine.execScOperation m s
  | .grant m => Sys2Proof.Machine.execGrant m s
  | .revocation m => Sys2Proof.Machine.execRevocation m s
  | .forwardedRead m => Sys2Proof.Machine.execForwardedRead m s
  | .fill m => Sys2Proof.Machine.execFill m s
  | .writeThroughAck m => Sys2Proof.Machine.execWriteThroughAck m s
  | .l1LineEviction core line => Sys2Proof.Machine.execL1LineEviction core line s
  | .l2LineEviction line => Sys2Proof.Machine.execL2LineEviction line s
  | .objectInvalidation m => Sys2Proof.Machine.execObjectInvalidation m s
  | .captureQueueSend bh slice => Sys2Proof.Machine.execCaptureQueueSend bh slice s
  | .lcsHeartbeat bh slice => Sys2Proof.Machine.execLcsHeartbeat bh slice s
  | .deltaApply bh => Sys2Proof.Machine.execDeltaApply bh s
  | .watchArrival m => Sys2Proof.Machine.execWatchArrival m s
  | .watchRetry m => Sys2Proof.Machine.execWatchRetry m s
  | .absmaxDrain g => Sys2Proof.Machine.execAbsmaxDrain g s
  | .hmaskWrite bh v => Sys2Proof.Machine.execHmaskWrite bh v s
  | .l2QuiesceWrite bh v => Sys2Proof.Machine.execL2QuiesceWrite bh v s
  | .quiesceComplete bh => Sys2Proof.Machine.execQuiesceComplete bh s
  | .l2Wbcmd bh word v => Sys2Proof.Machine.execL2Wbcmd bh word v s
  | .writebackComplete bh => Sys2Proof.Machine.execWritebackComplete bh s
  | .gateEntryWrite bh ingress n word v => Sys2Proof.Machine.execGateEntryWrite bh ingress n word v s
  | .gateRequest m => Sys2Proof.Machine.execGateRequest m s
  | .tntShapeWrite n v => Sys2Proof.Machine.execTntShapeWrite n v s
  | .tntFabWrite n v => Sys2Proof.Machine.execTntFabWrite n v s
  | .mcSetWrite n m v => Sys2Proof.Machine.execMcSetWrite n m v s
  | .registerWrite r v => Sys2Proof.Machine.execRegisterWrite r v s
  | .bulkheadReset bh cause => Sys2Proof.Machine.execBulkheadReset bh cause s
  | .resetSettle bh => Sys2Proof.Machine.execResetSettle bh s
  | .logicReset bh => Sys2Proof.Machine.execLogicReset bh s
  | .pllRelock bh => Sys2Proof.Machine.execPllRelock bh s
  | .memoryReinit bh => Sys2Proof.Machine.execMemoryReinit bh s
  | .selfTest bh failed us => Sys2Proof.Machine.execSelfTest bh failed us s
  | .railFault bh => Sys2Proof.Machine.execRailFault bh s
  | .pllLockLoss bh => Sys2Proof.Machine.execPllLockLoss bh s
  | .sliceGateFault bh => Sys2Proof.Machine.execSliceGateFault bh s
  | .watchdogKick bh => Sys2Proof.Machine.execWatchdogKick bh s
  | .watchdogExpiry bh => Sys2Proof.Machine.execWatchdogExpiry bh s
  | .vfBhreset n v => Sys2Proof.Machine.execVfBhreset n v s
  | .launchReady bh asid q => Sys2Proof.Machine.execLaunchReady bh asid q s
  | .gangPlacement bh asid q => Sys2Proof.Machine.execGangPlacement bh asid q s
  | .operatingPointChange bh => Sys2Proof.Machine.execOperatingPointChange bh s
  | .compaction core => Sys2Proof.Machine.execCompaction core s
  | .activeSetExchange out into => Sys2Proof.Machine.execActiveSetExchange out into s
  | .gangSwapOut gang => Sys2Proof.Machine.execGangSwapOut gang s
  | .gangSwapIn gang => Sys2Proof.Machine.execGangSwapIn gang s
  | .groupEnd g => Sys2Proof.Machine.execGroupEnd g s
  | .gridCompletion id => Sys2Proof.Machine.execGridCompletion id s
  | .copyRequest id => Sys2Proof.Machine.execCopyRequest id s
  | .copyPiece id => Sys2Proof.Machine.execCopyPiece id s
  | .engineRetirement id => Sys2Proof.Machine.execEngineRetirement id s
  | .gatherLane m => Sys2Proof.Machine.execGatherLane m s
  | .collectiveStep id rank data => Sys2Proof.Machine.execCollectiveStep id rank data s
  | .matrixOpStart core part => Sys2Proof.Machine.execMatrixOpStart core part s
  | .matrixOpComplete core part => Sys2Proof.Machine.execMatrixOpComplete core part s
  | .slotPairFree core part pair => Sys2Proof.Machine.execSlotPairFree core part pair s
  | .tenderBroadcast bh => Sys2Proof.Machine.execTenderBroadcast bh s
  | .bidWindowEnd bh => Sys2Proof.Machine.execBidWindowEnd bh s
  | .awardAccept bh => Sys2Proof.Machine.execAwardAccept bh s
  | .bidWithdrawal bh => Sys2Proof.Machine.execBidWithdrawal bh s
  | .taskStart core => Sys2Proof.Machine.execTaskStart core s
  | .amDispatch core => Sys2Proof.Machine.execAmDispatch core s
  | .amReplyLanding m => Sys2Proof.Machine.execAmReplyLanding m s
  | .replayRun id => Sys2Proof.Machine.execReplayRun id s
  | .digestCompare id => Sys2Proof.Machine.execDigestCompare id s
  | .arbiterDecision id => Sys2Proof.Machine.execArbiterDecision id s
  | .suspicionDecay core => Sys2Proof.Machine.execSuspicionDecay core s
  | .quarantineMigration gang => Sys2Proof.Machine.execQuarantineMigration gang s
  | .migrateFail gang => Sys2Proof.Machine.execMigrateFail gang s
  | .suspScoreWrite core v => Sys2Proof.Machine.execSuspScoreWrite core v s
  | .suspLimitWrite core v => Sys2Proof.Machine.execSuspLimitWrite core v s
  | .fatalFault g cause => Sys2Proof.Machine.execFatalFault g cause s
  | .preDrain bh w0 w1 w2 => Sys2Proof.Machine.execPreDrain bh w0 w1 w2 s
  | .preCut bh w0 w1 w2 => Sys2Proof.Machine.execPreCut bh w0 w1 w2 s
  | .preEvict bh w0 w1 w2 => Sys2Proof.Machine.execPreEvict bh w0 w1 w2 s
  | .preRestore bh w0 w1 w2 => Sys2Proof.Machine.execPreRestore bh w0 w1 w2 s
  | .preForcedReset bh w0 w1 w2 => Sys2Proof.Machine.execPreForcedReset bh w0 w1 w2 s
  | .preReleaseCut bh w0 w1 w2 => Sys2Proof.Machine.execPreReleaseCut bh w0 w1 w2 s
  | .drainDeadline bh => Sys2Proof.Machine.execDrainDeadline bh s
  | .cutDone bh => Sys2Proof.Machine.execCutDone bh s
  | .cutTimeout bh => Sys2Proof.Machine.execCutTimeout bh s
  | .ctxEvictTimeout bh => Sys2Proof.Machine.execCtxEvictTimeout bh s
  | .evictionDrainDone bh => Sys2Proof.Machine.execEvictionDrainDone bh s
  | .ctxEvqWrite bh asid v => Sys2Proof.Machine.execCtxEvqWrite bh asid v s
  | .sevqGetWrite v => Sys2Proof.Machine.execSevqGetWrite v s
  | .fabricRequest r => Sys2Proof.Machine.execFabricRequest r s
  | .fabricAck id => Sys2Proof.Machine.execFabricAck id s
  | .retrainBudgetExpiry device => Sys2Proof.Machine.execRetrainBudgetExpiry device s
  | .portRetraining port => Sys2Proof.Machine.execPortRetraining port s
  | .portUp port => Sys2Proof.Machine.execPortUp port s
  | .portDown port => Sys2Proof.Machine.execPortDown port s
  | .forcedn ports => Sys2Proof.Machine.execForcedn ports s
  | .fabricLaunchPacket device packet => Sys2Proof.Machine.execFabricLaunchPacket device packet s
  | .fabricLaunchReply g cause number => Sys2Proof.Machine.execFabricLaunchReply g cause number s
  | .tokenRefill n => Sys2Proof.Machine.execTokenRefill n s
  | .hostRead vf offset bytes => Sys2Proof.Machine.execHostRead vf offset bytes s
  | .hostWrite vf offset data => Sys2Proof.Machine.execHostWrite vf offset data s
  | .doorbell vf q index => Sys2Proof.Machine.execDoorbell vf q index s
  | .hostLaunch vf q record bh => Sys2Proof.Machine.execHostLaunch vf q record bh s
  | .leaveGrant bh => Sys2Proof.Machine.execLeaveGrant bh s
  | .governorThrottle bh draw => Sys2Proof.Machine.execGovernorThrottle bh draw s
  | .governorRecover bh => Sys2Proof.Machine.execGovernorRecover bh s
  | .bhPwrWrite bh v => Sys2Proof.Machine.execBhPwrWrite bh v s
  | .powerOn => Sys2Proof.Machine.execPowerOn s
  | .imageVerify => Sys2Proof.Machine.execImageVerify s
  | .ronuriStart writes => Sys2Proof.Machine.execRonuriStart writes s
  | .bulkheadBringup => Sys2Proof.Machine.execBulkheadBringup s
  | .hostStage => Sys2Proof.Machine.execHostStage s
  | .bootOkWrite v => Sys2Proof.Machine.execBootOkWrite v s
  | .bootTimeout => Sys2Proof.Machine.execBootTimeout s
  | .functionLevelReset => Sys2Proof.Machine.execFunctionLevelReset s
  | .mbxBegin v => Sys2Proof.Machine.execMbxBegin v s
  | .mbxWrite v data => Sys2Proof.Machine.execMbxWrite v data s
  | .mbxCommit v => Sys2Proof.Machine.execMbxCommit v s
  | .mbxAbort v => Sys2Proof.Machine.execMbxAbort v s
  | .tadreq v => Sys2Proof.Machine.execTadreq v s
  | .spdmRequest index => Sys2Proof.Machine.execSpdmRequest index s
  | .parkExpiry g => Sys2Proof.Machine.execParkExpiry g s
  | .softError site correctable => Sys2Proof.Machine.execSoftError site correctable s
  | .chorusFault bh => Sys2Proof.Machine.execChorusFault bh s
  | .zeroLengthReadCompletion g => Sys2Proof.Machine.execZeroLengthReadCompletion g s
  | .collCancel id => Sys2Proof.Machine.execCollCancel id s

end Sys2Proof.Machine
end

