-- ==== Sys2Proof/Machine/Auto.lean ====
section
/-! DEFINITION. Which agent moves when the agenda names none (log 3): messages first, in the order in which they were
sent, then the other work of the device that can go on, then the slot that has been ready longest. What needs a decision
or a measurement from outside (the supervisor plex, the host, a peer, an error, an eviction) stands in the agenda. -/

namespace Sys2Proof.Machine

/-- What the device does on its own, beside the rows of the opcode table. -/
def State.ownStep (s : State) (o : Own) : State :=
  match o with
  | .restartEnd gid => match s.group? gid with
    | some g => match g.wait with
      | .restart c => if s.restartReady gid g then s.finishRestart gid g c else s
      | _ => s
    | none => s
  | .fabReply id p => match s.fabWaits.find? fun w => w.id == id with
    | some w => s.fabReply w p
    | none => s
  | .fabRefused id c => s.fabRefused id c
  | .replicaEviction l k => s.evictReplica l k
  | .outside id => s.runOutside id
  | .linkLost d => if d != s.devId && s.linkOf d == .down then s.loseLink (fun x => x == d) fun _ => true else s
  | .restore bh => s.tryRestore bh
  | .portTraining p => s.trainPort p
  | .assignPeer d p => s.assignPeer d p
  | .peerFailed d bh c => s.peerFailed d bh c
  | .mapAperture vf off n asid va => s.mapAperture vf off n asid va
  | .unmapAperture vf off => s.unmapAperture vf off
  | .msixWrite f v a d m => s.msixWrite f v a d m
  | .msixSend f v => s.msixSend f v
  | .unsupported f ats => s.answerUnsupported f ats
  | .supervisorLaunch bh asid q ds => (s.acceptLaunch asid bh q true ds).2
  | .selfTest bh => s.beginSelfTest bh
  | .mailboxEnd => { s with mbxBusy := false }

/-- Whether a step changes what `f` reads of the state. -/
def Out.moves {α : Type} [DecidableEq α] (r : Out) (f : State → α) (s : State) : Bool :=
  match r with
  | .next t => decide (f t ≠ f s)
  | _ => false

/-- What of a group tells that a step of `dueGroup` has acted. -/
def Group.progress (g : Group) : Bool × Bool × Wait × Nat × Bool := (g.active, g.hnd, g.wait, g.deferred.length, g.timerDue)

/-- What of a bulkhead tells that a step of `dueBulkhead` has acted. -/
def Bulkhead.progress (b : Bulkhead) : List Tender × List Nat :=
  (b.tenders, [b.leaveQueue.length, b.opp, b.jobs.length] ++ [b.qBusy, b.wbGo, b.preGo, b.preEnd.isNone, b.rstPhase == .idle].map (fun x => bitAt x 0)
    ++ b.capq.toList.map (fun q => q.length) ++ b.jobs.map fun j => j.phase)

/-- The row of the opcode table that serves a message. -/
noncomputable def Msg.event (m : Msg) : Option Instr :=
  if m.kind.request && !m.passed then some (.gateRequest m.id)
  else match m.kind with
    | .siLoad | .ncLoad => some (.siLoadRequest m.id)
    | .ownLoad => some (.ownLoadRequest m.id)
    | .ownStore | .ownAtomic => some (.registration m.id)
    | .wtStore | .ncStore => some (.writeThrough m.id)
    | .ncAtomic => some (.ncAtomic m.id)
    | .scLoad | .scStore | .scAtomic => some (.scOperation m.id)
    | .watch _ => some (.watchArrival m.id)
    | .watchRetry _ => some (.watchRetry m.id)
    | .gatherLoad | .scatterStore => some (.gatherLane m.id)
    | .grant => some (.grant m.id)
    | .revoke => some (.revocation m.id)
    | .forward => some (.forwardedRead m.id)
    | .fill => some (.fill m.id)
    | .ack => some (.writeThroughAck m.id)
    | .objInval _ _ => some (.objectInvalidation m.id)
    | .amReply => some (.amReplyLanding m.id)
    | .reply => none

/-- The first message that can be served, or land (R89 to R93). -/
noncomputable def State.dueMessage (s : State) : Option Action :=
  s.net.findSome? fun m => match m.event with
    | some i => if Out.moves (exec i s) (fun t => t.net) s then some (.event i) else none
    | none => none

/-- The first answer or loss of the fabric (R26, R141, R142). -/
noncomputable def State.dueFabric (s : State) : Option Action :=
  let away := (s.fabWaits.map fun w => w.device) ++ (s.posted.filter fun p => !p.lost).map fun p => p.device
  match s.outside.find? fun r => decide ((s.runOutside r.id).outside ≠ s.outside) with
  | some r => some (.own (.outside r.id))
  | none =>
  match away.find? fun d => d != s.devId && s.linkOf d == .down with
  | some d => some (.own (.linkLost d))
  | none =>
    match s.fabWaits.find? fun w => decide ((s.fabReply w false).fabWaits ≠ s.fabWaits) with
    | some w => some (.own (.fabReply w.id false))
    | none => (s.posted.find? fun p => Out.moves (execFabricAck p.id s) (fun t => t.posted) s).map fun p => .event (.fabricAck p.id)

/-- The steps of an engine request (R366 to R371, R158). -/
noncomputable def EngReq.events (r : EngReq) : List Instr :=
  if r.finished then (if r.owed.isEmpty then [.engineRetirement r.id] else [.copyPiece r.id])
  else match r.kind with
    | .copy _ none _ _ _ => [.copyRequest r.id]
    | .copy _ (some _) _ _ _ | .mirror _ _ _ _ _ => [.copyPiece r.id]
    | .coll _ none _ => [.collectiveStep r.id 0 []]
    | .coll _ (some x) _ => (List.range x.parts).map fun k => .collectiveStep r.id k []
    | .signal _ _ => [.engineRetirement r.id]
    | .gather _ | .snap _ _ _ | .matrix => []

/-- Whether a collective's data of a rank come from another device, which is an input (log 8). -/
def State.awaitsPeer (s : State) (r : EngReq) (rank : Nat) : Bool :=
  match r.kind with
  | .coll _ (some x) _ => match s.collTable r x with
    | .done (some es) _ => (es[rank]?).elim false fun e => e.1 != s.devId
    | _ => false
  | _ => false

/-- Whether a step of an engine request waits for another device. -/
def State.engineInput (s : State) (r : EngReq) (i : Instr) : Bool :=
  match i with
  | .collectiveStep _ rank _ => match r.kind with
    | .coll _ (some x) d => !x.full? d && s.awaitsPeer r rank
    | _ => false
  | _ => false

/-- The first engine request that can go on. -/
noncomputable def State.dueEngine (s : State) : Option Action :=
  (s.engines.flatMap fun r => r.events.map fun i => (r, i)).findSome? fun e =>
    if !s.engineInput e.1 e.2 && Out.moves (exec e.2 s) (fun t => t.engines) s then some (.event e.2) else none

/-- The first matrix unit that can go on (R336, R338). -/
noncomputable def State.dueMatrix (s : State) : Option Action :=
  s.units.findSome? fun u =>
    let core := u.1 / 4
    let part := u.1 % 4
    ([.matrixOpComplete core part, .matrixOpStart core part, .slotPairFree core part 0, .slotPairFree core part 1] : List Instr).findSome?
      fun i => if Out.moves (exec i s) (fun t => (t.units, t.engines)) s then some (.event i) else none

/-- What is due of a group: a drain, a restart, the end of a wait, a pending trap, its end (R144, R405, R383, R236, R154). -/
noncomputable def State.dueGroup (s : State) : Option Action :=
  s.groups.findSome? fun e =>
    let g := e.2
    let moved : Instr → Bool := fun i => Out.moves (exec i s) (fun t => (Table.find t.groups e.1).map Group.progress) s
    if !g.absQueue.isEmpty then some (.event (.absmaxDrain e.1))
    else if (match g.wait with
      | .restart _ => s.restartReady e.1 g
      | _ => false) then some (.own (.restartEnd e.1))
    else if s.groupDone e.1 g then some (.event (.groupEnd e.1))
    else if !g.deferred.isEmpty && moved (.deferredMemoryTrap e.1) then some (.event (.deferredMemoryTrap e.1))
    else if g.timerDue && moved (.timerExpired e.1) then some (.event (.timerExpired e.1))
    else if s.pends.any (fun p => p.gid == e.1 && p.why == .park && p.hold && p.left == 1 && p.cycles == 0) then
      some (.event (.parkExpiry e.1))
    else if g.active then none
    else if !s.nextActive e.1 g then none
    else (s.groups.find? fun o => Out.moves (execActiveSetExchange o.1 e.1 s) (fun t => (Table.find t.groups e.1).map Group.progress) s).map fun o =>
      .event (.activeSetExchange o.1 e.1)

/-- The queue of which the scheduler places a gang next (R157), or a head launch that becomes ready. -/
noncomputable def State.dueLaunch (s : State) (bh : Nat) : Option Action :=
  match s.nextToPlace bh with
  | some (a, q, _) => some (.event (.gangPlacement bh a q))
  | none =>
    let queues := s.ctxs.flatMap fun c => (List.range 16).map fun q => (c.1, q)
    (queues.find? fun c => !(s.queueOf c.1 bh c.2).isEmpty && Out.moves (execLaunchReady bh c.1 c.2 s) (fun t => t.grids) s).map
      fun c => .event (.launchReady bh c.1 c.2)

/-- What is due in a bulkhead: its launches, tenders, standing products, grants, resets and preemption. -/
noncomputable def State.dueBulkhead (s : State) (e : Nat × Bulkhead) : Option Action :=
  let bh := e.1
  let b := e.2
  let moved : Instr → Bool := fun i => Out.moves (exec i s) (fun t => (Table.find t.bhs bh).map Bulkhead.progress) s
  match b.rstPhase with
  | .fence => some (.event (.resetSettle bh))
  | .settle => some (.event (.logicReset bh))
  | .logic => some (.event (.pllRelock bh))
  | .clock => some (.event (.memoryReinit bh))
  | .memory => some (.own (.selfTest bh))
  | .selfTest => none
  | .idle => match s.dueLaunch bh with
    | some a => some a
    | none =>
      let steps : List Instr :=
        [.tenderBroadcast bh, .bidWindowEnd bh, .bidWithdrawal bh, .awardAccept bh, .leaveGrant bh, .operatingPointChange bh,
         .quiesceComplete bh, .writebackComplete bh, .watchdogExpiry bh, .drainDeadline bh, .cutDone bh, .cutTimeout bh,
         .ctxEvictTimeout bh, .evictionDrainDone bh] ++ (List.range 16).map fun k => .captureQueueSend bh k
      match steps.find? moved with
      | some i => some (.event i)
      | none => if Out.moves (execDeltaApply bh s) (fun t => ((Table.find t.bhs bh).map fun x => (x.speIn, x.bindings), t.engines)) s then some (.event (.deltaApply bh))
        else
          let jobs : List Instr := b.jobs.flatMap fun j => [.replayRun j.id, .digestCompare j.id, .arbiterDecision j.id]
          match jobs.find? moved with
          | some i => some (.event i)
          | none => if s.preRuns bh 4 && decide ((s.tryRestore bh).preRuns bh 4 = false) then some (.own (.restore bh)) else none

/-- What is due of the fabric's buckets, the shootdowns, the grids, the gangs and the cores. -/
noncomputable def State.dueDevice (s : State) : Option Action :=
  if s.mbxBusy then some (.own .mailboxEnd)
  else match s.shoots.find? fun x => s.shootReady x with
  | some x => some (.event (.shootdownComplete x.id))
  | none => match s.grids.find? fun g => Out.moves (execGridCompletion g.1 s) (fun t => (t.grids, t.net.length)) s with
    | some g => some (.event (.gridCompletion g.1))
    | none => match s.cores.findSome? fun c =>
        if !c.2.tasks.isEmpty && Out.moves (execTaskStart c.1 s) (fun t => t.teams.length) s then some (Instr.taskStart c.1)
        else if !c.2.inbox.isEmpty && Out.moves (execAmDispatch c.1 s) (fun t => t.messages.length + t.teams.length) s then
          some (.amDispatch c.1)
        else if Out.moves (execCompaction c.1 s) (fun t => t.groups.map fun g => g.2.base) s then some (.compaction c.1)
        else if Out.moves (execSuspicionDecay c.1 s) (fun t => (t.core c.1).suspScore) s then some (.suspicionDecay c.1)
        else none with
      | some i => some (.event i)
      | none =>
        let gangs := (s.teams.map fun t => t.2.gang).eraseDups
        match gangs.findSome? fun g =>
          if s.swapDue g && Out.moves (execGangSwapOut g s) (fun t => t.teams) s then some (Instr.gangSwapOut g)
          else if s.migrating g then
            if Out.moves (execQuarantineMigration g s) (fun t => t.teams) s then some (.quarantineMigration g)
            else if Out.moves (execMigrateFail g s) (fun t => t.teams) s then some (.migrateFail g)
            else none
          else none with
        | some i => some (.event i)
        | none => match s.saved.find? fun x => Out.moves (execGangSwapIn x.1 s) (fun t => t.saved) s with
          | some x => some (.event (.gangSwapIn x.1))
          | none => ((List.range 8).find? fun n => (s.tntQrate[n % 8]'(Nat.mod_lt _ (by decide))) != 0 && Out.moves (execTokenRefill n s) (fun t => t.tokens) s).map fun n =>
            .event (.tokenRefill n)

/-- The agent that moves next when the agenda names none (log 3). -/
noncomputable def State.due (s : State) : Option Action :=
  s.dueMessage.or (s.dueFabric.or (s.dueEngine.or (s.dueMatrix.or (s.dueGroup.or
    ((s.bhs.findSome? fun b => s.dueBulkhead b).or (s.dueDevice.or
      (s.choose.map fun c => .issue c.1 c.2)))))))

end Sys2Proof.Machine
end

