-- ==== Sys2Proof/Machine/Step.lean ====
section
/-! DEFINITION. One step of the device: time passes, then the agent that the agenda names acts, or the one that is due. -/

namespace Sys2Proof.Machine

/-- What its boundary brings a slot, or its next instruction. -/
noncomputable def State.runNext (s : State) (gid : Nat) (slot : Bool) : Out :=
  match s.fetchNext gid slot with
  | (none, s1) => .next s1
  | (some i, s1) => exec i s1

/-- TIMER_EXPIRED taken in place of an instruction that issues (R246): one that cannot issue waits on, and what the boundary
brings goes before the timer (R393). -/
def State.timerFirst (s s1 : State) (gid : Nat) (slot : Bool) : State :=
  if s.timerReady gid slot && (s.boundary gid slot).isNone && s.issued s1 gid slot then
    ({ s with cur := gid, curSlot := slot } : State).takeTimer gid slot
  else s1

/-- A slot is asked for its next instruction (R162, R393). One that can issue does so where its partition chooses it; one that cannot
does what it can do before it waits. -/
noncomputable def State.issue (s : State) (gid : Nat) (slot : Bool) : Out :=
  if !s.mayIssue gid slot then .next s
  else match s.runNext gid slot with
    | .next s1 => if s.outranked gid slot && s.issued s1 gid slot then .next s else .next (s.afterIssue (s.timerFirst s1 gid slot) gid slot)
    | r => r

/-- Whether a slot's next instruction is ready (R162): it would issue, were its group active and its partition to choose it. -/
noncomputable def State.slotReady (s : State) (gid : Nat) (slot : Bool) : Bool :=
  s.slotOpen gid slot && match s.runNext gid slot with
    | .next s1 => s.issued s1 gid slot
    | _ => false

/-- A slot that becomes ready now (R162), or is no longer. -/
noncomputable def State.noteSlot (s : State) (gid : Nat) (slot : Bool) (p : PcSlot) : PcSlot :=
  { p with unready := !s.slotReady gid slot
           age := if p.unready && s.slotReady gid slot then s.tick else p.age }

/-- Which slots are ready at a step, and since when (R162). -/
noncomputable def State.noteReady (s : State) : State :=
  { s with groups := s.groups.map fun e =>
      (e.1, { e.2 with slot0 := s.noteSlot e.1 false e.2.slot0, slot1 := s.noteSlot e.1 true e.2.slot1 }) }

/-- An agent acts. -/
noncomputable def State.act (s : State) (a : Action) : Out :=
  match a with
  | .event i => exec i s
  | .issue gid slot => s.issue gid slot
  | .own o => .next (s.ownStep o)

/-- One step (log 3). -/
noncomputable def step (s : State) : Host.Outcome State Fault Refusal :=
  let s0 := s.passTime.noteReady
  match s0.agenda with
  | a :: t => { s0 with agenda := t }.act a
  | [] => match s0.due with
    | some a => s0.act a
    | none => .next s0

/-- The state in which the next step fetches and runs the instruction with bits `w` (log 6). -/
def State.withFetchWord (s : State) (nbits w : Nat) : State := s.placeInstr (tableBytes nbits w)

end Sys2Proof.Machine
end

