-- ==== Sys2Proof/WellFormed.lean ====
section
/-! DEFINITION. Well-formed instructions: the fields of an instruction pass the checks of R228 in a mode and name its
constructor, and the numbers of a device step name parts that the device has (R1 to R6, R33). -/

namespace Sys2Proof

/-- Whether a number names a bulkhead (R33). -/
def bhNumber (n : Nat) : Bool := decide (n < 8)

/-- Whether a number names a core of the device: 24 in each bulkhead (R33). -/
def coreNumber (n : Nat) : Bool := decide (n < 192)

/-- Whether a number names a group's place: 128 at each core (R148). -/
def groupNumber (n : Nat) : Bool := decide (n < 192 * 128)

/-- Whether a number names a home slice of a bulkhead (R107). -/
def sliceNumber (n : Nat) : Bool := decide (n < 16)

/-- Whether a number names an address space: an ASID has 16 bits (R50). -/
def asidNumber (n : Nat) : Bool := decide (n < 65536)

/-- Whether a register of the device register space exists. -/
def DevReg.inRange : DevReg → Bool
  | .bhWdog b | .bhFdtbase b | .bhFpool b | .bhFplow b | .l2Pinmax b | .chorusWin b | .chorusWdlim b | .gateErr b => bhNumber b
  | .chorusHop b c => bhNumber b && decide (c < 24)
  | .tntShape n | .tntFab n | .tntQrate n => decide (n < 8)
  | .ctx a _ => asidNumber a
  | .tntErr | .fabCfg | .fabRetrainBudget => true

/-- Whether an error strikes a place of the device. -/
def ErrorSite.inRange : ErrorSite → Bool
  | .pool c a _ => coreNumber c && asidNumber a
  | .l1 c _ => coreNumber c
  | .control g => groupNumber g
  | .l2 _ | .hbm _ => true
  | .reg g n lane => groupNumber g && decide (n < 272) && decide (lane < 256)
  | .tile _ c p n elem => coreNumber c && decide (p < 4) && decide (n < 32) && decide (elem < 2048)

/-- Whether the parts that a device step names exist; an instruction names none. -/
def Instr.inRange (i : Instr) : Bool :=
  match i with
  | .deferredMemoryTrap g | .timerExpired g | .absmaxDrain g | .groupEnd g | .fatalFault g _ | .parkExpiry g
  | .zeroLengthReadCompletion g | .fabricLaunchReply g _ _ => groupNumber g
  | .activeSetExchange g h => groupNumber g && groupNumber h
  | .captureQueueSend b k | .lcsHeartbeat b k => bhNumber b && sliceNumber k
  | .deltaApply b | .hmaskWrite b _ | .l2QuiesceWrite b _ | .quiesceComplete b | .writebackComplete b | .bulkheadReset b _
  | .resetSettle b | .logicReset b | .pllRelock b | .memoryReinit b | .selfTest b _ _ | .railFault b | .pllLockLoss b
  | .sliceGateFault b | .watchdogKick b | .watchdogExpiry b | .operatingPointChange b | .tenderBroadcast b
  | .bidWindowEnd b | .awardAccept b | .bidWithdrawal b | .preDrain b _ _ _ | .preCut b _ _ _ | .preEvict b _ _ _
  | .preRestore b _ _ _ | .preForcedReset b _ _ _ | .preReleaseCut b _ _ _ | .drainDeadline b | .cutDone b | .cutTimeout b
  | .ctxEvictTimeout b | .evictionDrainDone b | .leaveGrant b | .governorThrottle b _ | .governorRecover b | .bhPwrWrite b _
  | .chorusFault b => bhNumber b
  | .l2Wbcmd b w _ => bhNumber b && decide (w < 2)
  | .gateEntryWrite b _ n w _ => bhNumber b && decide (n < 8) && decide (w < 2)
  | .tntShapeWrite n _ | .tntFabWrite n _ | .vfBhreset n _ | .tokenRefill n => decide (n < 8)
  | .mcSetWrite n k _ => decide (n < 8) && decide (k < 64)
  | .registerWrite r _ => r.inRange
  | .launchReady b a q | .gangPlacement b a q => bhNumber b && asidNumber a && decide (q < 16)
  | .compaction c | .taskStart c | .amDispatch c | .suspicionDecay c | .suspScoreWrite c _ | .suspLimitWrite c _
  | .l1LineEviction c _ => coreNumber c
  | .matrixOpStart c p | .matrixOpComplete c p => coreNumber c && decide (p < 4)
  | .slotPairFree c p k => coreNumber c && decide (p < 4) && decide (k < 2)
  | .ctxEvqWrite b a _ => bhNumber b && asidNumber a
  | .portRetraining p | .portUp p | .portDown p => decide (p < 16)
  | .fabricLaunchPacket _ p => p.length == 64
  | .hostRead f _ _ | .hostWrite f _ _ => decide (f < 8)
  | .doorbell f q _ => decide (f < 8) && decide (q < 16)
  | .hostLaunch f q _ b => decide (f < 8) && decide (q < 16) && bhNumber b
  | .ronuriStart ws => ws.all fun w => w.1.inRange
  | .softError site _ => site.inRange
  | .tlbShoot w _ => decide (w < 2)
  | _ => true

/-- Well-formed in a mode: the checks of R228 pass, and a device step names parts that exist. -/
noncomputable def Instr.wellFormed (m : Mode) (i : Instr) : Bool := i.wf m && i.inRange

end Sys2Proof
end

