-- ==== Sys2Proof/Safety.lean ====
section
/-! DEFINITION. What counts as a safe state and a safe run: the memories keep their canonical form, and a step goes on. -/

namespace Sys2Proof

open Sys2Proof.Machine

/-- The byte memories of the device stand in canonical form: the values at the home slices and in HBM, the NVMe, and the
scratchpads of every core. -/
def Machine.State.memOk (s : Machine.State) : Bool :=
  Memory.wf s.home && Memory.wf s.hbm && Memory.wf s.nvme && s.cores.all fun c => c.2.spad.all fun m => Memory.wf m.2

/-- A step that goes on: it answers a next state. -/
def Machine.Out.goesOn (r : Machine.Out) : Prop := ∃ s, r = Host.Outcome.next s

/-- A run of `n` steps that goes on, with every state on the way satisfying `P`. -/
noncomputable def safeRun (P : Machine.State → Prop) : Nat → Machine.State → Prop
  | 0, s => P s
  | n + 1, s => P s ∧ ∃ t, Machine.step s = Host.Outcome.next t ∧ safeRun P n t

end Sys2Proof
end

