-- ==== Sys2Proof/Certificates/Slice0/Obligations.lean ====
section
/-! DEFINITION. The statements for the provers, from the spec's numbered rules. -/

namespace Sys2Proof.Claims

open Sys2Proof.Machine

/-- The group `g` can issue an instruction from the current slot: it is current (its slot live), and no load is
outstanding into a scalar register that the instruction names (R256). -/
def ready (s : State) (g : Group) (used : List Nat) : Prop := s.current = some g ∧ ∀ n ∈ used, n ∉ g.scalarBusy

/-- The groups and the teams stand in their tables by strictly rising numbers. -/
def tablesOk (s : State) : Prop := Table.sorted s.groups = true ∧ Table.sorted s.teams = true

/-- The scalar registers that an extended form of class A names. -/
def namedA (op : Byte) (f : ExtA) : List Nat := reqScalars (reqA op.toNat f) f.d f.a f.b f.c

/-- The scalar registers that a compact form names. -/
def namedC (op : Byte) (w : Word0) : List Nat :=
  namedA op (w.ext op.toNat) ++ if takesN op.toNat then [w.b.toNat] else []

/-- The scalar registers that an extended form of class M names. -/
def namedM (op : Byte) (f : ExtM) : List Nat := reqScalars (reqM op.toNat f) f.d f.a f.b f.c

/-- What an instruction of `words` words with opcode `op` answers when its effect makes the state `t`: it retires, so
that its byte is fed into SIG and the PC passes its words. -/
def retires (s t : State) (op : Byte) (words : Nat) : Out := .next (t.retire s.cur s.curSlot op words)

/-- The state `s` with the current group changed to `h`. -/
def withGroup (s : State) (h : Group) : State := s.setGroup s.cur h

/-- A scalar instruction: its opcode, its forms, and the value that it writes into s[D] from its fields, the old s[D],
s[A] and operand O. -/
structure ScalarRow where
  op : Byte
  compact : Word0 → Instr
  ext : ExtA → Instr
  value : ExtA → DWord → DWord → DWord → DWord

/-- A truth value in a scalar register. -/
def truth (b : Bool) : DWord := if b then 1 else 0

/-- The conditions of `sset` by code (R255). -/
def setCond (code : Nat) (x y : DWord) : Bool :=
  match code with
  | 0 => x == y
  | 1 => x != y
  | 2 => x.slt y
  | 3 => !x.slt y
  | 4 => x.ult y
  | _ => !x.ult y

/-- The table of R253 to R255, for SAT = 0. -/
noncomputable def scalarRows : List ScalarRow :=
  [{ op := 0x20, compact := .sadd, ext := .saddExt, value := fun _ _ a o => a + o },
   { op := 0x21, compact := .ssub, ext := .ssubExt, value := fun _ _ a o => a - o },
   { op := 0x22, compact := .smul, ext := .smulExt, value := fun _ _ a o => a * o },
   { op := 0x23, compact := .smulh, ext := .smulhExt, value := fun f _ a o =>
       if f.mod.getLsbD 1 then (a.setWidth 128 * o.setWidth 128).extractLsb' 64 64
       else (a.signExtend 128 * o.signExtend 128).extractLsb' 64 64 },
   { op := 0x24, compact := .sand, ext := .sandExt, value := fun _ _ a o => a &&& o },
   { op := 0x25, compact := .sor, ext := .sorExt, value := fun _ _ a o => a ||| o },
   { op := 0x26, compact := .sxor, ext := .sxorExt, value := fun _ _ a o => a ^^^ o },
   { op := 0x27, compact := .sshl, ext := .sshlExt, value := fun _ _ a o => a <<< (o.toNat % 64) },
   { op := 0x28, compact := .sshr, ext := .sshrExt, value := fun _ _ a o => a >>> (o.toNat % 64) },
   { op := 0x29, compact := .ssra, ext := .ssraExt, value := fun _ _ a o => a.sshiftRight (o.toNat % 64) },
   { op := 0x2A, compact := .smin, ext := .sminExt, value := fun _ _ a o => if o.slt a then o else a },
   { op := 0x2B, compact := .smax, ext := .smaxExt, value := fun _ _ a o => if a.slt o then o else a },
   { op := 0x2C, compact := .sminn, ext := .sminnExt, value := fun _ _ a o => if o.ult a then o else a },
   { op := 0x2D, compact := .smaxn, ext := .smaxnExt, value := fun _ _ a o => if a.ult o then o else a },
   { op := 0x2E, compact := .smov, ext := .smovExt, value := fun _ _ a _ => a },
   { op := 0x2F, compact := .sli, ext := .sliExt, value := fun _ _ _ o => o },
   { op := 0x30, compact := .sset, ext := .ssetExt, value := fun f _ a o => truth (setCond (f.mod.toNat / 2) a o) },
   { op := 0x31, compact := .ssel, ext := .sselExt, value := fun _ d a o => if d = 0 then o else a },
   { op := 0x3F, compact := .sdiv, ext := .sdivExt, value := fun f _ a o =>
       if o = 0 then (if f.mod.getLsbD 1 then a else BitVec.allOnes 64)
       else match f.mod.getLsbD 2, f.mod.getLsbD 1 with
         | false, false => a.sdiv o
         | false, true => a.srem o
         | true, false => a / o
         | true, true => a % o }]

end Sys2Proof.Claims

open Sys2Proof Sys2Proof.Machine Sys2Proof.Claims

/-- R253 to R255, R229: every scalar arithmetic, move, set, select and division instruction writes the value of its row
into s[D] and retires; nothing else of the state changes. -/
def Sys2Proof.Claims.scalarResults : Prop :=
  ∀ r ∈ scalarRows, ∀ (s : State) (g : Group),
    (∀ f : ExtA, f.sat = 0 → ready s g (namedA r.op f) →
      exec (r.ext f) s = retires s (withGroup s (g.wrS f.d (r.value f (g.rdS f.d) (g.rdS f.a) (g.opO f)))) r.op 3) ∧
    (∀ w : Word0, ready s g (namedC r.op w) →
      let f := w.ext r.op.toNat
      exec (r.compact w) s = retires s (withGroup s (g.wrS f.d (r.value f (g.rdS f.d) (g.rdS f.a) (g.opO f)))) r.op 1)

namespace Sys2Proof.Claims

/-- The result of a saturating i64 operation (R186, R253): clamped, with SAT. -/
def clamp64 (x : Int) : DWord × Bool :=
  if x < -2 ^ 63 then (0x8000000000000000, true) else if 2 ^ 63 ≤ x then (0x7FFFFFFFFFFFFFFF, true) else (BitVec.ofInt 64 x, false)

/-- A group with OVF.SAT set where `b` holds (R187). -/
def withSat (g : Group) (b : Bool) : Group := if b then { g with ovf := g.ovf ||| 0x20 } else g

/-- A vector instruction: its opcode, its forms, a condition on its operands beyond those of R266, and what it computes
from its operands by lane. -/
structure VectorRow where
  op : Byte
  compact : Option (Word0 → Instr)
  ext : ExtA → Instr
  ok : VEnv → Bool := fun _ => true
  out : VEnv → VOut

/-- The sources and destinations of a vector instruction pass the checks of R266: the registers exist, the sources are
full, and no load is outstanding into a destination. -/
def vectorReady (op : Byte) (g : Group) (f : ExtA) : Prop :=
  let r := reqA op.toNat f
  g.vecCheck [(kindRegs r.a f.a, f.fe.getLsbD 2), (kindRegs r.b f.b, f.fe.getLsbD 1), (kindRegs r.c f.c, f.fe.getLsbD 0)]
    (kindRegs r.d f.d) = Ready.go

/-- The state `t` with UE_POOL pending on the current group where `b` holds (R83, R406). -/
def eats (s : State) (b : Bool) (t : State) : State :=
  if b then t.modGroup s.cur fun h => { h with consumed := h.consumed ++ [.uePool] } else t

/-- The state `t` after an instruction that has read lanes of registers: a poisoned one among them is consumed, and UE_POOL
pends (R83, R406). -/
def afterReading (s : State) (g : Group) (regs : List Nat) (m : Mask) (t : State) : State :=
  eats s (regs.any fun n => Table.findD g.regPoison (g.named n) 0 &&& m != 0) t

/-- The state in which the results of a vector instruction are written into its group (R266). -/
def vectorState (s : State) (g : Group) (op : Byte) (f : ExtA) (out : VEnv → VOut) : State :=
  let r := reqA op.toNat f
  let v := s.venv g r f
  afterReading s g (kindRegs r.a f.a ++ kindRegs r.b f.b ++ kindRegs r.c f.c) v.m
    (withGroup s (g.putOut r.d f.d v.m (out v)))

/-- A lane's low half. -/
def low (x : DWord) : Word := x.extractLsb' 0 32

/-- Lane values with no flag and no draw, in the active lanes. -/
def quiet (fn : VEnv → Nat → DWord) : VEnv → VOut := fun v =>
  { val := Lanes.of fun i => if v.m.getLsbD i then fn v i else 0, flags := .none, draws := fun _ => 0, abs := [] }

/-- Exact integers by lane, wrapped to the destination, or clamped to a signed range of `w` bits with SAT = 1, which
sets the SAT flag where it clamps (R186, R270). -/
def exactInt (w : Nat) (fn : VEnv → Nat → Int) : VEnv → VOut := fun v =>
  v.each 0 fun i =>
    let x := fn v i
    if v.f.sat = 1 then
      (BitVec.ofInt 64 (max (-2 ^ (w - 1)) (min (2 ^ (w - 1) - 1) x)),
        { sat := decide (x < -2 ^ (w - 1)) || decide (2 ^ (w - 1) - 1 < x) })
    else (BitVec.ofInt 64 x, .none)

/-- The low half as an integer, signed or not. -/
def half (n : Bool) (x : DWord) : Int := if n then ((low x).toNat : Int) else (low x).toInt

/-- Byte `k` of a lane as an integer, signed or not. -/
def octet (n : Bool) (x : DWord) (k : Nat) : Int :=
  let b : Byte := x.extractLsb' (8 * k) 8
  if n then (b.toNat : Int) else b.toInt

/-- The table of R270 and R272 to R274, R276, R279 and R280: the integer, logic, shift, move and lane-exchange
instructions. -/
noncomputable def integerRows : List VectorRow :=
  [{ op := 0x40, compact := some .vaddI32, ext := .vaddI32Ext, out := exactInt 32 fun v i => half false (v.a i) + half false (v.b i) },
   { op := 0x41, compact := some .vsubI32, ext := .vsubI32Ext, out := exactInt 32 fun v i => half false (v.a i) - half false (v.b i) },
   { op := 0x42, compact := some .vmulI32, ext := .vmulI32Ext, out := exactInt 32 fun v i => half false (v.a i) * half false (v.b i) },
   { op := 0x43, compact := some .vmulhI32, ext := .vmulhI32Ext, out := quiet fun v i =>
       let n := v.f.mod.getLsbD 2
       BitVec.ofInt 64 (half n (v.a i) * half n (v.b i)) >>> 32 },
   { op := 0x44, compact := some .vmadI32, ext := .vmadI32Ext, out := exactInt 32 fun v i =>
       half false (v.a i) * half false (v.b i) + half false (v.c i) },
   { op := 0x45, compact := some .vaddI64, ext := .vaddI64Ext, out := exactInt 64 fun v i => (v.a i).toInt + (v.b i).toInt },
   { op := 0x46, compact := some .vsubI64, ext := .vsubI64Ext, out := exactInt 64 fun v i => (v.a i).toInt - (v.b i).toInt },
   { op := 0x49, compact := some .vabsI32, ext := .vabsI32Ext, out := exactInt 32 fun v i => |half false (v.a i)| },
   { op := 0x6C, compact := some .vdot4I8, ext := .vdot4I8Ext, out := exactInt 32 fun v i =>
       let na := v.f.mod.getLsbD 2
       let nb := v.f.mod.getLsbD 3
       half false (v.c i) + octet na (v.a i) 0 * octet nb (v.b i) 0 + octet na (v.a i) 1 * octet nb (v.b i) 1
         + octet na (v.a i) 2 * octet nb (v.b i) 2 + octet na (v.a i) 3 * octet nb (v.b i) 3 },
   { op := 0x6D, compact := some .vmulw, ext := .vmulwExt, out := quiet fun v i =>
       let n := v.f.mod.getLsbD 2
       BitVec.ofInt 64 (half n (v.a i) * half n (v.b i)) },
   { op := 0x4A, compact := some .vand, ext := .vandExt, out := quiet fun v i => v.a i &&& v.b i },
   { op := 0x4B, compact := some .vor, ext := .vorExt, out := quiet fun v i => v.a i ||| v.b i },
   { op := 0x4C, compact := some .vxor, ext := .vxorExt, out := quiet fun v i => v.a i ^^^ v.b i },
   { op := 0x4D, compact := some .vandn, ext := .vandnExt, out := quiet fun v i => v.a i &&& ~~~(v.b i) },
   { op := 0x4E, compact := some .vshl, ext := .vshlExt, out := quiet fun v i =>
       (low (v.a i) <<< ((v.b i).toNat % 32)).setWidth 64 },
   { op := 0x4F, compact := some .vshr, ext := .vshrExt, out := quiet fun v i =>
       (low (v.a i) >>> ((v.b i).toNat % 32)).setWidth 64 },
   { op := 0x50, compact := some .vsra, ext := .vsraExt, out := quiet fun v i =>
       ((low (v.a i)).sshiftRight ((v.b i).toNat % 32)).setWidth 64 },
   { op := 0x51, compact := some .vrot, ext := .vrotExt, out := quiet fun v i =>
       ((low (v.a i)).rotateLeft ((v.b i).toNat % 32)).setWidth 64 },
   { op := 0x57, compact := some .vsel, ext := .vselExt, out := quiet fun v i =>
       if (v.g.rdK v.f.c.toNat).getLsbD i then v.a i else v.b i },
   { op := 0x58, compact := some .vmov, ext := .vmovExt, out := quiet fun v i => v.a i },
   { op := 0x59, compact := some .vli, ext := .vliExt, out := quiet fun v _ => v.f.w2.setWidth 64 },
   { op := 0x5A, compact := some .vid, ext := .vidExt, out := quiet fun v i =>
       BitVec.ofNat 64 (if v.f.mod.getLsbD 2 then v.gli + i else i) },
   { op := 0x62, compact := some .vbfly, ext := .vbflyExt, ok := fun v => decide ((v.b 0).toNat ≤ 7), out := quiet fun v i =>
       v.a (i ^^^ 2 ^ (v.b 0).toNat) },
   { op := 0x63, compact := some .vshfl, ext := .vshflExt, out := quiet fun v i => v.a ((v.b i).toNat % 256) },
   { op := 0x64, compact := some .vbcast, ext := .vbcastExt, ok := fun v => decide ((v.b 0).toNat ≤ 255), out := quiet fun v _ =>
       v.a (v.b 0).toNat }]

/-- The integer condition of `vcmp` by code (R275). -/
def compareInt (code : Nat) (x y : Int) : Bool :=
  match code with
  | 0 => decide (x = y)
  | 1 => decide (x ≠ y)
  | 2 => decide (x < y)
  | 3 => decide (x ≤ y)
  | 4 => decide (y < x)
  | _ => decide (y ≤ x)

/-- What a lane effect answers, where it does not trap. -/
def outOf (e : VEff) (v : VEnv) : VOut :=
  match e v with
  | .ok o => o
  | .error _ => { val := Lanes.all 0, flags := .none, draws := fun _ => 0, abs := [] }

/-- A row whose result is that of the lane effect of its rule. -/
def effRow (op : Byte) (compact : Option (Word0 → Instr)) (ext : ExtA → Instr) (e : VEff) : VectorRow :=
  { op := op, compact := compact, ext := ext, ok := fun v => (e v).isOk, out := outOf e }

/-- The typed and lane-crossing integer instructions (R271, R273, R275, R278, R281 to R283). -/
noncomputable def crossingRows : List VectorRow :=
  [effRow 0x47 (some .vmin) .vminExt effMin, effRow 0x48 (some .vmax) .vmaxExt effMax,
   effRow 0x6E (some .vclamp) .vclampExt effClamp, effRow 0x67 (some .vsat) .vsatExt effSat,
   effRow 0x52 (some .vbfe) .vbfeExt effBfe, effRow 0x53 (some .vbfi) .vbfiExt effBfi,
   effRow 0x54 (some .vpopc) .vpopcExt effPopc, effRow 0x55 (some .vclz) .vclzExt effClz,
   effRow 0x56 none .vcmp effCmp, effRow 0x60 (some .vmatch) .vmatchExt effMatch,
   effRow 0x61 (some .vmrank) .vmrankExt effMrank, effRow 0x65 (some .vscan) .vscanExt effScan,
   effRow 0x66 (some .vred) .vredExt effRed, effRow 0x6F (some .vhash) .vhashExt effHash]

/-- The floating-point, conversion, block and abs-max instructions (R287 to R303). -/
noncomputable def floatRows : List VectorRow :=
  [effRow 0x70 (some .vfaddF32) .vfaddF32Ext effFadd32, effRow 0x71 (some .vfsubF32) .vfsubF32Ext effFsub32,
   effRow 0x72 (some .vfmulF32) .vfmulF32Ext effFmul32, effRow 0x73 (some .vffmaF32) .vffmaF32Ext effFfma32,
   effRow 0x74 (some .vfaddF64) .vfaddF64Ext effFadd64, effRow 0x75 (some .vfmulF64) .vfmulF64Ext effFmul64,
   effRow 0x76 (some .vffmaF64) .vffmaF64Ext effFfma64, effRow 0x77 (some .vfaddF16x2) .vfaddF16x2Ext effFaddF16,
   effRow 0x78 (some .vffmaF16x2) .vffmaF16x2Ext effFfmaF16, effRow 0x79 (some .vfaddB16x2) .vfaddB16x2Ext effFaddB16,
   effRow 0x7A (some .vffmaB16x2) .vffmaB16x2Ext effFfmaB16, effRow 0x7B none .vfmin effFmin,
   effRow 0x7C none .vfmax effFmax, effRow 0x7D none .vfabs effFabs, effRow 0x7E none .vfneg effFneg,
   effRow 0x7F none .vfcmp effFcmp, effRow 0x80 (some .vfdivF32) .vfdivF32Ext effFdiv,
   effRow 0x81 (some .vfsqrtF32) .vfsqrtF32Ext effFsqrt, effRow 0x82 none .vfrcp effFrcp,
   effRow 0x83 none .vfrsqrt effFrsqrt, effRow 0x84 none .vfexp2 effFexp2, effRow 0x85 none .vflog2 effFlog2,
   effRow 0x86 none .vfclass effFclass, effRow 0x87 none .vcvtF effCvtF, effRow 0x88 none .vcvtFi effCvtFi,
   effRow 0x89 none .vcvtIf effCvtIf, effRow 0x8A (some .vqblk) .vqblkExt effQblk,
   effRow 0x8B (some .vdqblk) .vdqblkExt effDqblk, effRow 0x8C none .vhad effHad,
   effRow 0x8D (some .vtern) .vternExt effTern, effRow 0x8E (some .vrand) .vrandExt effRand,
   effRow 0x91 (some .absupd) .absupdExt effAbsupd, effRow 0x92 none .vfscale effFscale,
   effRow 0x93 none .vlscale effLscale, effRow 0x94 none .vfchk effFchk, effRow 0x95 none .vfsum effFsum,
   effRow 0x96 (some .vfdot2F16) .vfdot2F16Ext (effDot2 .f16), effRow 0x97 (some .vfdot2B16) .vfdot2B16Ext (effDot2 .b16),
   effRow 0x98 none .vfpack effFpack, effRow 0x99 none .vfunpk effFunpk, effRow 0x9A none .vfrint effFrint,
   effRow 0x9B none .vfcopysign effFcopysign, effRow 0x9C none .vfmaxabs effFmaxabs, effRow 0x9D none .vnorm2 effNorm2,
   effRow 0x9E (some .vcvtE8) .vcvtE8Ext effCvtE8, effRow 0x9F (some .vcvtE4) .vcvtE4Ext effCvtE4]

/-- A row's instruction completes with the row's results, in every form. -/
def rowCompletes (r : VectorRow) : Prop :=
  ∀ (s : State) (g : Group),
    (∀ f : ExtA, ready s g (namedA r.op f) → vectorReady r.op g f → r.ok (s.venv g (reqA r.op.toNat f) f) = true →
      exec (r.ext f) s = retires s (vectorState s g r.op f r.out) r.op 3) ∧
    (∀ c ∈ r.compact, ∀ w : Word0, ready s g (namedC r.op w) → vectorReady r.op g (w.ext r.op.toNat) →
      r.ok (s.venv g (reqA r.op.toNat (w.ext r.op.toNat)) (w.ext r.op.toNat)) = true →
      exec (c w) s = retires s (vectorState s g r.op (w.ext r.op.toNat) r.out) r.op 1)

end Sys2Proof.Claims

/-- R253, R186, R187: `sadd.sat` and `ssub.sat` clamp the exact sum or difference to the i64 range, and set OVF.SAT when
they clamp. -/
def Sys2Proof.Claims.scalarSaturation : Prop :=
  ∀ (s : State) (g : Group) (f : ExtA), f.sat = 1 →
    (ready s g (namedA 0x20 f) →
      let x := clamp64 ((g.rdS f.a).toInt + (g.opO f).toInt)
      exec (.saddExt f) s = retires s (withGroup s (withSat (g.wrS f.d x.1) x.2)) 0x20 3) ∧
    (ready s g (namedA 0x21 f) →
      let x := clamp64 ((g.rdS f.a).toInt - (g.opO f).toInt)
      exec (.ssubExt f) s = retires s (withGroup s (withSat (g.wrS f.d x.1) x.2)) 0x21 3)

/-- R253 to R255, R229: every scalar arithmetic, move, set, select and division instruction writes the value of its
row into s[D] and retires; nothing else of the state changes. R253, R186, R187: `sadd.sat` and `ssub.sat` clamp the
exact sum or difference to the i64 range, and set OVF.SAT when they clamp. -/
def Obligations.Scalar_results : Prop :=
  Sys2Proof.Claims.scalarResults ∧ Sys2Proof.Claims.scalarSaturation

/-- R264, R266, R270, R272, R274, R276, R279, R280: every integer arithmetic, logic, shift, move and lane-exchange
instruction writes, in every form, the lanes of its row and retires. That a shift takes an immediate count of 32 to 63 modulo 32
is the model's choice (log 117), and so is that `vbfly` and `vbcast` compare the whole of s[B] with their bound (log 143). -/
def Obligations.Integer_lanes : Prop := ∀ r ∈ integerRows, rowCompletes r

/-- R266, R271, R273, R275, R278, R281 to R283: the typed and lane-crossing integer instructions write the lanes of their
lane effects and retire. -/
def Obligations.Crossing_lanes : Prop := ∀ r ∈ crossingRows, rowCompletes r

/-- R266, R287 to R303: the floating-point, conversion, block and abs-max instructions write the lanes of their lane
effects, take their draws, set their flags, enqueue their magnitudes and retire. -/
def Obligations.Float_lanes : Prop := ∀ r ∈ floatRows, rowCompletes r

/-- R275: `vcmp` writes bit i of k[D] as whether A compares with B in each active lane, and 0 in every inactive one; a
write to k0 is discarded, and no other mask changes. -/
def Obligations.Vcmp_mask : Prop :=
  ∀ (s : State) (g : Group) (f : ExtA), ready s g (namedA 0x56 f) → vectorReady 0x56 g f →
    f.mod.toNat / 4 ≤ 5 → f.ty = 4 →
    ∃ (t : State) (h : Group), exec (.vcmp f) s = .next t ∧ t.group? s.cur = some h ∧
      (∀ n < 16, h.rdK n = if n = f.d.toNat ∧ n ≠ 0 then h.rdK f.d.toNat else g.rdK n) ∧
      (f.d ≠ 0 → f.d.toNat < 16 → ∀ i < 256,
        (h.rdK f.d.toNat).getLsbD i = ((activeMask g s.curSlot f.gn f.g).getLsbD i
          && compareInt (f.mod.toNat / 4) (low ((s.venv g (reqA 0x56 f) f).a i)).toInt
              (low ((s.venv g (reqA 0x56 f) f).b i)).toInt))

namespace Sys2Proof.Claims

/-- A branch: its opcode, its constructor, the scalar registers that it reads and its condition on the slot's mask and
the group (R230). -/
structure BranchRow where
  op : Byte
  ctor : ExtE → Instr
  used : ExtE → List Nat := fun _ => []
  taken : Mask → Group → ExtE → Bool

/-- The table of R230 but for `bdiv`. -/
noncomputable def branchRows : List BranchRow :=
  let ab : ExtE → List Nat := fun f => [f.a.toNat, f.b.toNat]
  [{ op := 0x02, ctor := .br, taken := fun _ _ _ => true },
   { op := 0x03, ctor := .bcEq, used := ab, taken := fun _ g f => g.rdS f.a == g.rdS f.b },
   { op := 0x04, ctor := .bcNe, used := ab, taken := fun _ g f => g.rdS f.a != g.rdS f.b },
   { op := 0x05, ctor := .bcLt, used := ab, taken := fun _ g f => (g.rdS f.a).slt (g.rdS f.b) },
   { op := 0x06, ctor := .bcGe, used := ab, taken := fun _ g f => (g.rdS f.b).sle (g.rdS f.a) },
   { op := 0x07, ctor := .bcLtn, used := ab, taken := fun _ g f => (g.rdS f.a).ult (g.rdS f.b) },
   { op := 0x08, ctor := .bcGen, used := ab, taken := fun _ g f => (g.rdS f.b).ule (g.rdS f.a) },
   { op := 0x09, ctor := .bany, taken := fun m g f => m &&& g.rdK f.a.toNat != 0 },
   { op := 0x0A, ctor := .ball, taken := fun m g f => m &&& ~~~(g.rdK f.a.toNat) == 0 },
   { op := 0x0B, ctor := .bnone, taken := fun m g f => m &&& g.rdK f.a.toNat == 0 }]

/-- The signature check of R223 passes: SIG bits 13:0, after the opcode has been fed, are the instruction's SIGX. -/
def sigPasses (s : State) (g : Group) (op : Byte) (f : ExtE) : Prop :=
  ((g.pc s.curSlot).feed op).sig.extractLsb' 0 14 = f.sigx

/-- CheckTarget of R233: a multiple of 4, canonical, in the global window. -/
def goodTarget (a : DWord) : Prop :=
  a.toNat % 4 = 0 ∧ (∀ i, 55 ≤ i → i < 64 → a.getLsbD i = a.getLsbD 55) ∧ windowOf a = .global

/-- The state after a block end of the current slot goes on at `a` with the group `h`: SIG is back at its start, the PC is
`a`, and the instruction has retired. -/
def goesTo (s : State) (h : Group) (op : Byte) (a : DWord) : Out :=
  .next ((withGroup s (h.setPc s.curSlot { ((h.pc s.curSlot).feed op) with
    sig := 0xFFFFFFFF, flip := false, pc := a, segment := none })).retired s.cur s.curSlot)

/-- The target of a word offset from an address (R231). -/
def offsetFrom (a : DWord) (w2 : Word) : DWord := a + 4 * (w2.extractLsb' 0 24).signExtend 64

/-- The PC of the current slot. -/
def pcOf (s : State) (g : Group) : DWord := (g.pc s.curSlot).pc

/-- The state at a block end whose byte has been fed and checked: SIG is back at its start, and the PC has not moved. -/
def checkedAt (s : State) (g : Group) (op : Byte) : State :=
  withGroup s (g.setPc s.curSlot { ((g.pc s.curSlot).feed op) with sig := 0xFFFFFFFF, flip := false })

/-- A block end that takes a trap after its check. -/
def blockTraps (s : State) (g : Group) (op : Byte) (c : Cause) : Out :=
  .next ((checkedAt s g op).takeTrap s.cur s.curSlot (TrapInfo.of c))

/-- A handler that the context's CTX_TRVEC names can be entered (R388). -/
def handlerSet (s : State) (gid : Nat) (g : Group) : Prop :=
  (s.ctx g.asid).trVec.getLsbD 63 = true ∧ s.handlerOk gid g (vectorAddr (s.ctx g.asid).trVec) = true

end Sys2Proof.Claims

/-- R223, R230, R231: each branch, after its signature check, goes to PC + 4 × offset where its condition holds and to
PC + 12 where it does not; no register changes. -/
def Sys2Proof.Claims.branchTable : Prop :=
  ∀ r ∈ branchRows, ∀ (s : State) (g : Group) (f : ExtE), ready s g (r.used f) → sigPasses s g r.op f →
    let tgt := offsetFrom (pcOf s g) f.w2
    (r.taken (g.pc s.curSlot).mask g f = true → goodTarget tgt → exec (r.ctor f) s = goesTo s g r.op tgt) ∧
    (r.taken (g.pc s.curSlot).mask g f = false → exec (r.ctor f) s = goesTo s g r.op (pcOf s g + 12))

/-- R250: `sigck` feeds its byte, checks SIGX and resets SIG, and has no other effect; where the check fails, SIG_MISMATCH is taken. -/
def Sys2Proof.Claims.signatureCheck : Prop :=
  ∀ (s : State) (g : Group) (f : ExtE), ready s g [] →
    (sigPasses s g 0x1C f → exec (.sigck f) s = goesTo s g 0x1C (pcOf s g + 12)) ∧
    (¬ sigPasses s g 0x1C f → exec (.sigck f) s = blockTraps s g 0x1C .sigMismatch)

/-- R223, R230, R231: each branch, after its signature check, goes to PC + 4 × offset where its condition holds and to
PC + 12 where it does not; no register changes. R250: `sigck` feeds its byte, checks SIGX and resets SIG, and has no
other effect; where the check fails, SIG_MISMATCH is taken. -/
def Obligations.Branches : Prop :=
  Sys2Proof.Claims.branchTable ∧ Sys2Proof.Claims.signatureCheck

/-- R232: calls write the link register and end the idempotent region; returns and jumps go to their targets. -/
def Sys2Proof.Claims.callsAndJumps : Prop :=
  ∀ (s : State) (g : Group) (f : ExtE) (lit : DWord),
    (ready s g [f.d.toNat] → sigPasses s g 0x0E f →
      (goodTarget (offsetFrom (pcOf s g) f.w2) →
        exec (.call f) s = goesTo s { g.wrS f.d (pcOf s g + 12) with idem := false } 0x0E (offsetFrom (pcOf s g) f.w2)) ∧
      (goodTarget lit → exec (.callAbsolute f lit) s = goesTo s { g.wrS f.d (pcOf s g + 20) with idem := false } 0x0E lit)) ∧
    (ready s g [f.a.toNat] → sigPasses s g 0x0F f → goodTarget (g.rdS f.a) →
      exec (.ret f) s = goesTo s g 0x0F (g.rdS f.a)) ∧
    (ready s g [f.a.toNat] → sigPasses s g 0x10 f → goodTarget (offsetFrom (g.rdS f.a) f.w2) →
      exec (.jmp f) s = goesTo s g 0x10 (offsetFrom (g.rdS f.a) f.w2)) ∧
    (ready s g [] → sigPasses s g 0x10 f → goodTarget lit → exec (.jmpAbsolute f lit) s = goesTo s g 0x10 lit)

/-- R223, R233: at every block end a failing signature check is taken as SIG_MISMATCH with SIG reset and no other effect; a
branch that is taken, a `bdiv` that branches, a call, a return or a jump whose target fails CheckTarget traps TARGET_FORM with SIG
reset, the PC unchanged and no register written. -/
def Sys2Proof.Claims.blockEndFailures : Prop :=
  ∀ (s : State) (g : Group) (f : ExtE) (lit : DWord),
    let ends : List (Byte × Instr × List Nat) :=
      (branchRows.map fun r => (r.op, r.ctor f, r.used f)) ++
      [(0x0C, .bdiv f, []), (0x0D, .join f, []), (0x0E, .call f, [f.d.toNat]), (0x0E, .callAbsolute f lit, [f.d.toNat]),
       (0x0F, .ret f, [f.a.toNat]), (0x10, .jmp f, [f.a.toNat]), (0x10, .jmpAbsolute f lit, []), (0x11, .exit f, []),
       (0x14, .trap f, []), (0x15, .eret f, []), (0x1C, .sigck f, [])]
    let targets : List (Byte × Instr × List Nat × Bool × DWord) :=
      (branchRows.map fun r => (r.op, r.ctor f, r.used f, r.taken (g.pc s.curSlot).mask g f, offsetFrom (pcOf s g) f.w2)) ++
      [(0x0C, .bdiv f, [], (g.pc s.curSlot).mask &&& g.rdK f.a.toNat != 0, offsetFrom (pcOf s g) f.w2),
       (0x0E, .call f, [f.d.toNat], true, offsetFrom (pcOf s g) f.w2), (0x0E, .callAbsolute f lit, [f.d.toNat], true, lit),
       (0x0F, .ret f, [f.a.toNat], true, g.rdS f.a), (0x10, .jmp f, [f.a.toNat], true, offsetFrom (g.rdS f.a) f.w2),
       (0x10, .jmpAbsolute f lit, [], true, lit)]
    (∀ e ∈ ends, ready s g e.2.2 → ¬ sigPasses s g e.1 f → exec e.2.1 s = blockTraps s g e.1 .sigMismatch) ∧
    ∀ e ∈ targets, ready s g e.2.2.1 → sigPasses s g e.1 f → e.2.2.2.1 = true → ¬ goodTarget e.2.2.2.2 →
      exec e.2.1 s = blockTraps s g e.1 .targetForm

/-- R232: calls write the link register and end the idempotent region; returns and jumps go to their targets. R223,
R233: at every block end a failing signature check is taken as SIG_MISMATCH with SIG reset and no other effect; a
branch that is taken, a `bdiv` that branches, a call, a return or a jump whose target fails CheckTarget traps
TARGET_FORM with SIG reset, the PC unchanged and no register written. -/
def Obligations.Calls_and_failures : Prop :=
  Sys2Proof.Claims.callsAndJumps ∧ Sys2Proof.Claims.blockEndFailures

/-- R234, R150: `bdiv` with no branching lane goes on; with every lane branching it is a plain branch; with both sides it
leaves the fall-through lanes in its slot and starts the branching lanes in the other, which is empty, with SIG
0xFFFF_FFFF and the join PC of JOFF in both. It ends the idempotent region. -/
def Obligations.Bdiv_split : Prop :=
  ∀ (s : State) (g : Group) (f : ExtE), ready s g [] → sigPasses s g 0x0C f →
    let p := g.pc s.curSlot
    let take := p.mask &&& g.rdK f.a.toNat
    let fall := p.mask &&& ~~~(g.rdK f.a.toNat)
    let tgt := offsetFrom p.pc f.w2
    (take = 0 → exec (.bdiv f) s = goesTo s { g with idem := false } 0x0C (p.pc + 12)) ∧
    (take ≠ 0 → fall = 0 → goodTarget tgt → exec (.bdiv f) s = goesTo s { g with idem := false } 0x0C tgt) ∧
    (take ≠ 0 → fall ≠ 0 → goodTarget tgt → (g.pc (!s.curSlot)).live = false →
      ∃ (t : State) (h : Group), exec (.bdiv f) s = .next t ∧ t.group? s.cur = some h ∧
        (h.pc s.curSlot).mask = fall ∧ (h.pc s.curSlot).pc = p.pc + 12 ∧ (h.pc s.curSlot).sig = 0xFFFFFFFF ∧
        (h.pc (!s.curSlot)).live = true ∧ (h.pc (!s.curSlot)).mask = take ∧ (h.pc (!s.curSlot)).pc = tgt ∧
        (h.pc (!s.curSlot)).sig = 0xFFFFFFFF ∧
        (h.pc s.curSlot).joinPc = p.pc + 4 * ((f.d ++ f.c : BitVec 16).signExtend 64) ∧
        (h.pc (!s.curSlot)).joinPc = p.pc + 4 * ((f.d ++ f.c : BitVec 16).signExtend 64) ∧
        h.idem = false ∧ h.depth = g.depth ∧ h.s = g.s ∧ h.v = g.v ∧ h.k = g.k ∧ t.home = s.home)

/-- R235: `join` with the other slot waiting at the same PC and an empty stack merges the masks into slot 0, which goes on
at PC + 12; with the other slot live and not waiting, the issuing slot waits; with the other slot empty and an empty
stack, slot 0 goes on alone. -/
def Obligations.Join_table : Prop :=
  ∀ (s : State) (g : Group) (f : ExtE), ready s g [] → sigPasses s g 0x0D f → g.depth = 0 →
    let p := g.pc s.curSlot
    let q := g.pc (!s.curSlot)
    (q.live = true → q.waiting = true → q.pc = p.pc →
      ∃ (t : State) (h : Group), exec (.join f) s = .next t ∧ t.group? s.cur = some h ∧ h.slot1.live = false ∧
        h.slot0.live = true ∧ h.slot0.waiting = false ∧ h.slot0.mask = p.mask ||| q.mask ∧ h.slot0.pc = p.pc + 12 ∧
        h.slot0.sig = 0xFFFFFFFF ∧ h.slot0.joinPc = 0 ∧ h.s = g.s ∧ h.v = g.v ∧ h.k = g.k ∧ t.home = s.home) ∧
    (q.live = true → q.waiting = false →
      ∃ (t : State) (h : Group), exec (.join f) s = .next t ∧ t.group? s.cur = some h ∧
        (h.pc s.curSlot).waiting = true ∧ (h.pc s.curSlot).pc = p.pc ∧ h.pc (!s.curSlot) = q ∧ t.home = s.home) ∧
    (q.live = false →
      ∃ (t : State) (h : Group), exec (.join f) s = .next t ∧ t.group? s.cur = some h ∧ h.slot1.live = false ∧
        h.slot0.mask = p.mask ∧ h.slot0.pc = p.pc + 12 ∧ t.home = s.home)

/-- R236: `exit` ends the slot's lanes. With the other slot live the group goes on in it; with the other slot empty and
an empty stack the group ends. -/
def Obligations.Exit_slots : Prop :=
  ∀ (s : State) (g : Group) (f : ExtE), ready s g [] → sigPasses s g 0x11 f →
    ((g.pc (!s.curSlot)).live = true → (g.pc (!s.curSlot)).waiting = false →
      ∃ (t : State) (h : Group), exec (.exit f) s = .next t ∧ t.group? s.cur = some h ∧ (h.pc s.curSlot).live = false ∧
        h.pc (!s.curSlot) = g.pc (!s.curSlot) ∧ h.ended = false ∧ h.idem = false) ∧
    (tablesOk s → (g.pc (!s.curSlot)).live = false → g.depth = 0 →
      ∃ (t : State) (h : Group), exec (.exit f) s = .next t ∧ t.group? s.cur = some h ∧ h.ended = true ∧ h.hnd = false)

/-- R226, R227, R239, R248, R250: `nop` and `yield` only retire, `sigck` only checks, `trap n` takes SOFT_TRAP with the
argument n and the saved PC after it, `brk n` takes BREAKPOINT so where CTX_DBG.BRK is set and has no effect where it is
not, and the words that are never executed trap. What retires, or takes its trap after itself, feeds its opcode into SIG; that a
trap before the instruction feeds nothing is the model's choice (log 15). -/
def Obligations.Plain_control : Prop :=
  ∀ (s : State) (g : Group),
    let fed : State := withGroup s (g.setPc s.curSlot ((g.pc s.curSlot).feed 0x1F))
    (∀ f, ready s g [] → exec (.nop f) s = retires s s 0x01 1 ∧ exec (.yield f) s = retires s s 0x18 1) ∧
    (∀ f, ready s g [] → exec (.nopExt f) s = retires s s 0x01 3 ∧ exec (.yieldExt f) s = retires s s 0x18 3) ∧
    (∀ f, ready s g [] → sigPasses s g 0x1C f → exec (.sigck f) s = goesTo s g 0x1C (pcOf s g + 12)) ∧
    (∀ f, ready s g [] → ¬ sigPasses s g 0x1C f → exec (.sigck f) s = blockTraps s g 0x1C .sigMismatch) ∧
    (∀ f : ExtA, ready s g [] → 255 < f.w2.toNat →
      exec (.brkExt f) s = .next (s.takeTrap s.cur s.curSlot (TrapInfo.of .operandRange))) ∧
    (∀ f : ExtE, ready s g [] → sigPasses s g 0x14 f →
      exec (.trap f) s = .next ((checkedAt s g 0x14).takeTrap s.cur s.curSlot
        { TrapInfo.of .softTrap with arg := f.w2.setWidth 64, resume := some (pcOf s g + 12) })) ∧
    (∀ f : ExtA, ready s g [] → f.w2.toNat ≤ 255 →
      exec (.brkExt f) s = if (s.ctx g.asid).dbg.getLsbD 0 then .next (fed.takeTrap s.cur s.curSlot
          { TrapInfo.of .breakpoint with arg := f.w2.setWidth 64, resume := some (pcOf s g + 12) })
        else retires s s 0x1F 3) ∧
    (∀ f : Word0, ready s g [f.b.toNat] → (g.rdS (f.b.setWidth 8)).toNat ≤ 255 →
      exec (.brk f) s = if (s.ctx g.asid).dbg.getLsbD 0 then .next (fed.takeTrap s.cur s.curSlot
          { TrapInfo.of .breakpoint with arg := g.rdS (f.b.setWidth 8), resume := some (pcOf s g + 4) })
        else retires s s 0x1F 1) ∧
    (ready s g [] → exec .trap0 s = .next (s.takeTrap s.cur s.curSlot (TrapInfo.of .zeroWord)) ∧
      ∀ w, exec (.ill w) s = .next (s.takeTrap s.cur s.curSlot (TrapInfo.of .illegalInstr)))

/-- R389: entering the handler at an H or D cause outside handler mode. The resume PC, mask, SIG and slot are saved; y0
holds the cause, DEFERRED, SLOT and LANE, y1 the PC, y2 the argument, y3 the address, y4 the resume PC; handler mode
begins with SIG 0xFFFF_FFFF at the vector, the idempotent region ends, and no s, v, k, x, t or h register, mask register,
other slot or byte of memory changes. -/
def Sys2Proof.Claims.trapEntry : Prop :=
  ∀ (s : State) (gid : Nat) (slot : Bool) (g : Group) (t : TrapInfo),
    s.group? gid = some g → g.hnd = false → handlerSet s gid g → t.lane < 256 →
    (t.cause.delivery = .handler ∨ t.cause.delivery = .deferred) →
    ∃ h : Group, (s.takeTrap gid slot t).group? gid = some h ∧
      h.hnd = true ∧ h.idem = false ∧ (h.pc slot).pc = vectorAddr (s.ctx g.asid).trVec ∧ (h.pc slot).sig = 0xFFFFFFFF ∧
      (h.pc slot).mask = t.lanes.getD (g.pc slot).mask ∧ h.pc (!slot) = g.pc (!slot) ∧
      h.saved.mask = (g.pc slot).mask ∧ h.saved.sig = (g.pc slot).sig ∧ h.saved.resumePc = t.resume.getD (g.pc slot).pc ∧
      h.y[0].extractLsb' 0 7 = t.cause.code.extractLsb' 0 7 ∧ h.y[0].getLsbD 8 = t.deferred ∧ h.y[0].getLsbD 9 = slot ∧
      h.y[0].getLsbD 10 = t.segment.isSome ∧ (h.y[0].extractLsb' 16 8).toNat = t.lane ∧
      h.y[1] = t.pc.getD (g.pc slot).pc ∧ h.y[2] = t.arg ∧ h.y[3] = t.addr ∧ h.y[4] = t.resume.getD (g.pc slot).pc ∧
      h.s = g.s ∧ h.v = g.v ∧ h.k = g.k ∧ h.x = g.x ∧ h.t = g.t ∧ h.h = g.h ∧ h.e = g.e ∧ h.ovf = g.ovf ∧
      (s.takeTrap gid slot t).home = s.home ∧ (s.takeTrap gid slot t).cores = s.cores

/-- R390, R69, R387: in handler mode a trap that is no page fault goes to the supervisor plex with the cause HANDLER_NEST and
the code of the cause in y2; a page fault goes there with its own cause; with CTX_TRVEC.EN = 0 an H cause goes there, and one whose
handler cannot be entered goes there as TRVEC_FORM, the slot standing at its saved PC. -/
def Sys2Proof.Claims.trapToPlex : Prop :=
  ∀ (s : State) (gid : Nat) (slot : Bool) (g : Group) (t : TrapInfo), s.group? gid = some g →
    (g.hnd = true → t.cause.isPage = false → t.cause.suspicion = 0 →
      (s.core (coreOf gid)).suspScore < (s.core (coreOf gid)).suspLimit → (s.core (coreOf gid)).suspScore ≤ 255 →
      ∃ h, (s.takeTrap gid slot t).group? gid = some h ∧ h.wait = .plex .handlerNest ∧
        h.y[2] = t.cause.code.setWidth 64 ∧ h.pc slot = g.pc slot) ∧
    (g.hnd = true → t.cause.isPage = true →
      ∃ h, (s.takeTrap gid slot t).group? gid = some h ∧ h.wait = .plex t.cause ∧ h.y = g.y ∧ h.pc slot = g.pc slot) ∧
    (∀ c : Cause, g.hnd = false → t.cause.delivery = .handler →
      (c = t.cause ∧ (s.ctx g.asid).trVec.getLsbD 63 = false ∨
        c = .trvecForm ∧ (s.ctx g.asid).trVec.getLsbD 63 = true ∧ s.handlerOk gid g (vectorAddr (s.ctx g.asid).trVec) = false) →
      ∃ h, (s.takeTrap gid slot t).group? gid = some h ∧ h.wait = .plex c ∧
        (h.pc slot).pc = t.resume.getD (g.pc slot).pc ∧ (h.pc slot).mask = (g.pc slot).mask ∧
        (h.pc slot).sig = (g.pc slot).sig ∧ h.pc (!slot) = g.pc (!slot) ∧
        (t.resume.isSome = true → h.y[2] = t.arg) ∧ h.hnd = false)

/-- R389: entering the handler at an H or D cause outside handler mode. The resume PC, mask, SIG and slot are saved;
y0 holds the cause, DEFERRED, SLOT and LANE, y1 the PC, y2 the argument, y3 the address, y4 the resume PC; handler
mode begins with SIG 0xFFFF_FFFF at the vector, the idempotent region ends, and no s, v, k, x, t or h register, mask
register, other slot or byte of memory changes. R390, R69, R387: in handler mode a trap that is no page fault goes to
the supervisor plex with the cause HANDLER_NEST and the code of the cause in y2; a page fault goes there with its own
cause; with CTX_TRVEC.EN = 0 an H cause goes there, and one whose handler cannot be entered goes there as TRVEC_FORM,
the slot standing at its saved PC. -/
def Obligations.Taking_a_trap : Prop :=
  Sys2Proof.Claims.trapEntry ∧ Sys2Proof.Claims.trapToPlex

/-- R391: `eret` in handler mode restores the saved mask and SIG of slot y0.SLOT, resumes it at y4 and ends handler mode;
outside handler mode it traps the privilege cause. -/
def Obligations.Eret_returns : Prop :=
  ∀ (s : State) (g : Group) (f : ExtE), ready s g [] → sigPasses s g 0x15 f →
    (g.hnd = true → goodTarget g.y[4] → g.y[0].getLsbD 9 = s.curSlot →
      ∃ (t : State) (h : Group), exec (.eret f) s = .next t ∧ t.group? s.cur = some h ∧ h.hnd = false ∧ h.idem = g.idem ∧
        (h.pc s.curSlot).pc = g.y[4] ∧ (h.pc s.curSlot).mask = g.saved.mask ∧ (h.pc s.curSlot).sig = g.saved.sig ∧
        h.s = g.s ∧ h.v = g.v ∧ h.k = g.k ∧ t.home = s.home) ∧
    (g.hnd = false → exec (.eret f) s = .next ((withGroup s g).takeTrap s.cur s.curSlot (TrapInfo.of .privilege)))

/-- R237, R238, R246, R247: `idem` opens a region at the next instruction with SIG as it then stands, `step n` counts a step
boundary and ends the region, `tmset v` arms the timer with v or disarms it with 0, and `rdcyc` reads CYC, or in
deterministic mode the team's count of the instructions that have retired, once none of the team's that has issued is still held in
its slot or at a `detm`: that those in a barrier are awaited too is the model's reading (log 107). -/
def Sys2Proof.Claims.regionsStepsTimers : Prop :=
  ∀ (s : State) (g : Group),
    (g.slot0.live = false ∨ g.slot1.live = false) → g.depth = 0 →
    let p := g.pc s.curSlot
    let opened (n : Nat) : Group := { g with
      idem := true, restarts := 0, idemPc := p.pc + BitVec.ofNat 64 (4 * n), idemSig := (p.feed 0x12).sig, idemDraws := g.draws }
    let stepped (n : DWord) : Group := { g with stepCount := g.stepCount + 1, stepLast := n.extractLsb' 0 32, idem := false }
    let armed (v : DWord) : Group := { g with tmrRemain := v.extractLsb' 0 48, tmrArmed := v != 0 }
    let calm : Prop := s.detmOf g = true → ∀ e ∈ s.groupsOf g.team, (∀ p ∈ s.pends, p.hold = true → p.gid ≠ e.1) ∧
      (e.2.ended = false → ∀ on slot words, e.2.wait ≠ .detm on slot words)
    let cyc : DWord := BitVec.ofNat 64 (match s.team? g.team with
      | some t => if t.detm then t.retired else s.cyc (coreOf s.cur)
      | none => s.cyc (coreOf s.cur))
    (∀ f, ready s g [] → exec (.idem f) s = retires s (withGroup s (opened 1)) 0x12 1) ∧
    (∀ f, ready s g [] → exec (.idemExt f) s = retires s (withGroup s (opened 3)) 0x12 3) ∧
    ((s.inst g.asid (bhOf s.cur)).cutPending = false →
      (∀ f : Word0, ready s g [f.b.toNat] → (g.rdS (f.b.setWidth 8)).toNat < 2 ^ 32 →
        exec (.step f) s = retires s (withGroup s (stepped (g.rdS (f.b.setWidth 8)))) 0x13 1) ∧
      (∀ f : ExtA, ready s g [] → exec (.stepExt f) s = retires s (withGroup s (stepped (f.w2.setWidth 64))) 0x13 3)) ∧
    (∀ f : Word0, ready s g [f.b.toNat] → (g.rdS (f.b.setWidth 8)).toNat < 2 ^ 48 →
      exec (.tmset f) s = retires s (withGroup s (armed (g.rdS (f.b.setWidth 8)))) 0x19 1) ∧
    (∀ f : ExtA, ready s g [] → exec (.tmsetExt f) s = retires s (withGroup s (armed (f.w2.setWidth 64))) 0x19 3) ∧
    (∀ f : Word0, ready s g [f.d.toNat] → calm → exec (.rdcyc f) s = retires s (withGroup s (g.wrS f.d cyc)) 0x1A 1) ∧
    (∀ f : ExtA, ready s g [f.d.toNat] → calm → exec (.rdcycExt f) s = retires s (withGroup s (g.wrS f.d cyc)) 0x1A 3)

/-- R249: `detm m` changes the mode of a team on one core, whose other groups all wait at a `detm` with the same m; where one
of them waits with another m, all trap OPERAND_RANGE; an operand above 1 traps OPERAND_RANGE, and `detm 1` in a team on more
than one core DETM_SPAN. That a trap leaves SIG as it was before the instruction is the model's choice (log 15). -/
def Sys2Proof.Claims.detmMode : Prop :=
  (∀ (s : State) (g : Group), (∀ f : ExtA, ready s g [] → 1 < f.w2.toNat →
      exec (.detmExt f) s = .next (s.takeTrap s.cur s.curSlot (TrapInfo.of .operandRange))) ∧
    (∀ f : Word0, ready s g [f.b.toNat] → 1 < (g.rdS (f.b.setWidth 8)).toNat →
      exec (.detm f) s = .next (s.takeTrap s.cur s.curSlot (TrapInfo.of .operandRange))) ∧
    (∀ (f : ExtA) (t : Team), ready s g [] → s.team? g.team = some t → 1 < t.cores.length → f.w2 = 1 →
      exec (.detmExt f) s = .next (s.takeTrap s.cur s.curSlot (TrapInfo.of .detmSpan)))) ∧
  ∀ (s : State) (g : Group) (t : Team) (m : Bool), s.team? g.team = some t → t.cores.length = 1 →
    let others := (s.groupsOf g.team).filter fun e => !e.2.ended && e.1 != s.cur
    let waits (e : Nat × Group) (on : Bool) : Prop := ∃ slot words, e.2.wait = .detm on slot words
    let changed (r : Out) : Prop := ∃ (u : State) (t' : Team), r = .next u ∧ u.team? g.team = some t' ∧ t'.detm = m ∧ u.home = s.home
    let differ (r : Out) : Prop := tablesOk s → ∃ u : State, r = .next (u.takeTrap s.cur s.curSlot (TrapInfo.of .operandRange)) ∧
      ∀ n h, s.group? n = some h → h.team ≠ g.team → u.group? n = some h
    ((∀ e ∈ others, waits e m) →
      (∀ f : ExtA, ready s g [] → f.w2 = (if m then 1 else 0) → changed (exec (.detmExt f) s)) ∧
      (∀ f : Word0, ready s g [f.b.toNat] → g.rdS (f.b.setWidth 8) = (if m then 1 else 0) → changed (exec (.detm f) s))) ∧
    ((∀ e ∈ others, waits e m ∨ waits e (!m)) → (∃ e ∈ others, waits e (!m)) →
      (∀ f : ExtA, ready s g [] → f.w2 = (if m then 1 else 0) → differ (exec (.detmExt f) s)) ∧
      (∀ f : Word0, ready s g [f.b.toNat] → g.rdS (f.b.setWidth 8) = (if m then 1 else 0) → differ (exec (.detm f) s)))

/-- R237, R238, R246, R247: `idem` opens a region at the next instruction with SIG as it then stands, `step n` counts
a step boundary and ends the region, `tmset v` arms the timer with v or disarms it with 0, and `rdcyc` reads CYC, or
in deterministic mode the team's count of the instructions that have retired, once none of the team's that has issued
is still held in its slot or at a `detm`: that those in a barrier are awaited too is the model's reading (log 107).
R249: `detm m` changes the mode of a team on one core, whose other groups all wait at a `detm` with the same m; where
one of them waits with another m, all trap OPERAND_RANGE; an operand above 1 traps OPERAND_RANGE, and `detm 1` in a
team on more than one core DETM_SPAN. That a trap leaves SIG as it was before the instruction is the model's choice
(log 15). -/
def Obligations.Regions_steps_timers : Prop :=
  Sys2Proof.Claims.regionsStepsTimers ∧ Sys2Proof.Claims.detmMode

/-- R241 to R244: a system register that a program may read is returned by `mfsys`, and a readable register's read changes
nothing else; at user privilege a supervisor register takes the privilege cause; `mtsys` writes GST.FENCE_LOSS and the
context registers with an accepted value. -/
def Obligations.System_registers : Prop :=
  ∀ (s : State) (g : Group) (f : ExtA),
    let n := (f.w2.extractLsb' 0 12).toNat
    (ready s g [f.d.toNat] → sysPriv g.mode false n = true → n ≠ 0x00D → n ≠ 0x00E →
      exec (.mfsys f) s = retires s (withGroup s (g.wrS f.d (s.sysRead s.cur g n))) 0x16 3) ∧
    (ready s g [f.d.toNat] → sysPriv g.mode false n = false →
      exec (.mfsys f) s = .next (s.takeTrap s.cur s.curSlot (TrapInfo.of .privilege))) ∧
    (ready s g [f.a.toNat] → sysPriv g.mode true n = false →
      exec (.mtsys f) s = .next (s.takeTrap s.cur s.curSlot (TrapInfo.of .privilege))) ∧
    (ready s g [f.a.toNat] → n = 0 → (g.rdS f.a).toNat < 2 ^ 16 → sysPriv g.mode true 0 = true →
      exec (.mtsys f) s = retires s (withGroup s { g with fenceLoss := g.fenceLoss && (g.rdS f.a).getLsbD 7 }) 0x17 3) ∧
    (ready s g [f.a.toNat] → sysPriv g.mode true n = true → 0x100 ≤ n → n ≤ 0x10B →
      (∀ c, (s.ctx g.asid).write (s.anyResident g.asid) n (g.rdS f.a) = some c →
        exec (.mtsys f) s = retires s (s.modCtx g.asid fun _ => c) 0x17 3) ∧
      ((s.ctx g.asid).write (s.anyResident g.asid) n (g.rdS f.a) = none →
        exec (.mtsys f) s = .next (s.takeTrap s.cur s.curSlot (TrapInfo.of .sysregValue))))

/-- R229, R389: s0 reads as zero and a write to it is discarded; k0 reads as all ones and a write to it is discarded; any
other scalar or mask register reads what was last written, and a write changes no other register. -/
def Obligations.Hard_wired_registers : Prop :=
  ∀ (g : Group), g.rdS 0 = 0 ∧ (∀ v, g.wrS 0 v = g) ∧ g.rdK 0 = BitVec.allOnes 256 ∧ (∀ m, g.wrK 0 m = g) ∧
    (∀ (n m : Byte) (v : DWord), 0 < n.toNat → n.toNat < 64 →
      (g.wrS n v).rdS m = if m = n then v else g.rdS m) ∧
    (∀ (n m : Nat) (v : Mask), 0 < n → n < 16 → m < 16 → (g.wrK n v).rdK m = if m = n then v else g.rdK m)

/-- R222, R223: retiring an instruction feeds its opcode into the slot's SIG and moves its PC past its words. Every register
of the group, every other group, every other slot and all memory are unchanged. -/
def Obligations.Retire_frame : Prop :=
  ∀ (s : State) (gid : Nat) (slot : Bool) (op : Byte) (words : Nat) (g : Group), s.group? gid = some g →
    ∃ h : Group, (s.retire gid slot op words).group? gid = some h ∧
      (h.pc slot).pc = (g.pc slot).pc + BitVec.ofNat 64 (4 * words) ∧ (h.pc slot).sig = ((g.pc slot).feed op).sig ∧
      (h.pc slot).mask = (g.pc slot).mask ∧ h.pc (!slot) = g.pc (!slot) ∧
      h.s = g.s ∧ h.y = g.y ∧ h.k = g.k ∧ h.v = g.v ∧ h.z = g.z ∧ h.x = g.x ∧ h.t = g.t ∧ h.h = g.h ∧ h.e = g.e ∧
      h.ovf = g.ovf ∧ h.ls = g.ls ∧ h.absmax = g.absmax ∧ h.absQueue = g.absQueue ∧ h.draws = g.draws ∧ h.hnd = g.hnd ∧
      (∀ n, n ≠ gid → (s.retire gid slot op words).group? n = s.group? n) ∧
      (s.retire gid slot op words).home = s.home ∧ (s.retire gid slot op words).cores = s.cores ∧
      (s.retire gid slot op words).ctxs = s.ctxs ∧ (s.retire gid slot op words).bhs = s.bhs

/-- R266, R184, R188: writing the results of a vector instruction changes lane i of the destination register only where
lane i is active, marks it full, ORs the flags into OVF, and takes draws only as the results say; every other vector
register, and every scalar register, mask, index, translation and shape register, stays as it was. -/
def Obligations.Vector_frame : Prop :=
  ∀ (g : Group) (d : Byte) (m : Mask) (o : VOut), g.regOk d.toNat = true →
    let h := g.putOut .vec d m o
    (∀ i < 256, (h.rdV d.toNat).lane.lane i =
      if m.getLsbD i then (o.val.lane i).extractLsb' 0 32 else (g.rdV d.toNat).lane.lane i) ∧
    (h.rdV d.toNat).full = true ∧ (∀ n < 256, n ≠ d.toNat → h.rdV n = g.rdV n) ∧ h.ovf = g.ovf ||| o.flags.bits ∧
    (∀ i < 256, h.draws.lane i = g.draws.lane i + BitVec.ofNat 64 (o.draws i)) ∧ h.absQueue = g.absQueue ++ o.abs ∧
    h.s = g.s ∧ h.y = g.y ∧ h.k = g.k ∧ h.x = g.x ∧ h.t = g.t ∧ h.h = g.h ∧ h.e = g.e ∧ h.slot0 = g.slot0 ∧
    h.slot1 = g.slot1 ∧ h.hnd = g.hnd

namespace Sys2Proof.Claims

/-- An instruction that changes its group alone: its opcode, its forms, its condition on the fields and the group, and
the group that it leaves, from the issuing slot, the fields and the group. -/
structure GroupRow where
  op : Byte
  compact : Option (Word0 → Instr) := none
  ext : Option (ExtA → Instr) := none
  ok : ExtA → Group → Prop := fun _ _ => True
  next : Bool → ExtA → Group → Group

/-- A row's instruction completes with the row's group, in every form. -/
def groupCompletes (r : GroupRow) : Prop :=
  ∀ (s : State) (g : Group),
    (∀ c ∈ r.ext, ∀ f : ExtA, ready s g (namedA r.op f) → r.ok f g →
      exec (c f) s = retires s (withGroup s (r.next s.curSlot f g)) r.op 3) ∧
    (∀ c ∈ r.compact, ∀ w : Word0, ready s g (namedC r.op w) → r.ok (w.ext r.op.toNat) g →
      exec (c w) s = retires s (withGroup s (r.next s.curSlot (w.ext r.op.toNat) g)) r.op 1)

/-- The set bits of a mask. -/
def ones (m : Mask) : Nat := ((List.range 256).filter fun i => m.getLsbD i).length

/-- A shape with a field written (R258, R259): none where the value is outside the field's width or range. -/
def shapeWith (h : Shape) (k v : Nat) : Option Shape :=
  match k with
  | 0 => if v < 2 ^ 56 then some { h with base := BitVec.ofNat 56 v } else none
  | 1 => if 0 < v ∧ v < 2 ^ 24 then some { h with rows := BitVec.ofNat 24 v } else none
  | 2 => if 0 < v ∧ v < 2 ^ 24 then some { h with cols := BitVec.ofNat 24 v } else none
  | 3 => if v < 2 ^ 40 then some { h with pitch := BitVec.ofNat 40 v } else none
  | _ => if v < 15 ∨ 15 < v ∧ v < 21 then some { h with fc := BitVec.ofNat 5 v } else none

/-- A field of a shape, zero-extended. -/
def shapeField (h : Shape) (k : Nat) : DWord :=
  match k with
  | 0 => h.base.setWidth 64
  | 1 => h.rows.setWidth 64
  | 2 => h.cols.setWidth 64
  | 3 => h.pitch.setWidth 64
  | _ => h.fc.setWidth 64

/-- A loss scale of R260: binary32, positive, normal, a power of two. -/
def lossScale (v : DWord) : Prop := ∃ e, 1 ≤ e ∧ e ≤ 254 ∧ v = BitVec.ofNat 64 (e * 2 ^ 23)

/-- The table of R255, R259 to R263, R277 and R303: moves, shapes, loss scale, flags and masks. -/
noncomputable def moveRows : List GroupRow :=
  let mask (fn : Mask → Mask → Mask) (_ : Bool) (f : ExtA) (g : Group) : Group :=
    g.wrK f.d.toNat (fn (g.rdK f.a.toNat) (g.rdK f.b.toNat))
  [{ op := 0x36, ext := some .shset, ok := fun f g => (shapeWith (g.rdH f.d.toNat) f.w2.toNat (g.rdS f.a).toNat).isSome
     next := fun _ f g => g.wrH f.d.toNat ((shapeWith (g.rdH f.d.toNat) f.w2.toNat (g.rdS f.a).toNat).getD (g.rdH f.d.toNat)) },
   { op := 0x37, ext := some .shget, next := fun _ f g => g.wrS f.d (shapeField (g.rdH f.a.toNat) f.w2.toNat) },
   { op := 0x38, compact := some .lsset, ext := some .lssetExt, ok := fun f g => f.mod ≠ 2 ∧ f.mod ≠ 4 ∧ lossScale (g.rdS f.a)
     next := fun _ f g => { g with ls := (g.rdS f.a).extractLsb' 0 32 } },
   { op := 0x38, ext := some .lssetExt, ok := fun f g => f.mod = 2 ∧ lossScale (g.ls.setWidth 64)
     next := fun _ _ g => { g with ls := if g.ls = 0x7F000000 then g.ls else g.ls + 0x800000 } },
   { op := 0x38, ext := some .lssetExt, ok := fun f g => f.mod = 4 ∧ lossScale (g.ls.setWidth 64)
     next := fun _ _ g => { g with ls := if g.ls = 0x800000 then g.ls else g.ls - 0x800000 } },
   { op := 0x39, compact := some .lsget, ext := some .lsgetExt, next := fun _ f g => g.wrS f.d (g.ls.setWidth 64) },
   { op := 0x3A, compact := some .ovfrd, ext := some .ovfrdExt, ok := fun f _ => f.mod.getLsbD 0 = false
     next := fun _ f g => g.wrS f.d (g.ovf.setWidth 64) },
   { op := 0x3A, ext := some .ovfrdExt, ok := fun f _ => f.mod.getLsbD 0 = true
     next := fun _ f g => { g.wrS f.d (g.ovf.setWidth 64) with ovf := g.ovf &&& ~~~((g.rdS f.a).extractLsb' 0 8) } },
   { op := 0x3B, compact := some .kpop, ext := some .kpopExt, next := fun slot f g =>
       g.wrS f.d (BitVec.ofNat 64 (ones (if f.mod.getLsbD 0 then g.rdK f.a.toNat &&& (g.pc slot).mask else g.rdK f.a.toNat))) },
   { op := 0x3C, compact := some .kffs, ext := some .kffsExt, next := fun _ f g =>
       g.wrS f.d (BitVec.ofNat 64 (((List.range 256).find? fun i => (g.rdK f.a.toNat).getLsbD i).getD 256)) },
   { op := 0x5B, compact := some .kand, ext := some .kandExt, next := mask fun x y => x &&& y },
   { op := 0x5C, compact := some .kor, ext := some .korExt, next := mask fun x y => x ||| y },
   { op := 0x5D, compact := some .kxor, ext := some .kxorExt, next := mask fun x y => x ^^^ y },
   { op := 0x5E, compact := some .knot, ext := some .knotExt, next := mask fun x _ => ~~~x },
   { op := 0x5F, compact := some .kmov, ext := some .kmovExt, next := mask fun x _ => x },
   { op := 0x5F, ext := some .kmovAct, next := fun slot f g => g.wrK f.d.toNat (g.pc slot).mask },
   { op := 0x8F, compact := some .absrd, ext := some .absrdExt, ok := fun f g => f.mod.getLsbD 2 = true → g.absQueue = []
     next := fun _ f g => g.wrS f.d (g.absmax.setWidth 64) },
   { op := 0x90, compact := some .absclr, ext := some .absclrExt, ok := fun _ g => g.absQueue = []
     next := fun _ _ g => { g with absmax := 0 } }]

/-- Vector registers can be read and written now (R266): they exist, the sources are full, and no load is outstanding
into a destination. -/
def spans (g : Group) (srcs : List (List Nat)) (dst : List Nat) : Prop :=
  g.vecCheck (srcs.map fun l => (l, false)) dst = Ready.go

/-- The lane values of a register or a pair. -/
def laneVal (g : Group) (pair : Bool) (n i : Nat) : DWord := if pair then g.lane64 n i else (g.lane32 n i).setWidth 64

/-- A register, or with `pair` two of them, with a value written in the lanes of a mask. -/
def putLanes (g : Group) (pair : Bool) (n : Nat) (m : Mask) (val : Nat → DWord) : Group :=
  let h := g.putV n m fun i => (val i).extractLsb' 0 32
  if pair then h.putV (n + 1) m fun i => (val i).extractLsb' 32 32 else h

end Sys2Proof.Claims

/-- R255, R259 to R262, R277, R303: the moves, shape, loss-scale, flag, mask and abs-max instructions write what their
row says and retire; a value that `shset` or `lsset` cannot take traps, changes no register and leaves SIG as it was (log 15). -/
def Obligations.Group_rows : Prop :=
  (∀ r ∈ moveRows, groupCompletes r) ∧
  (∀ (s : State) (g : Group) (f : ExtA), ready s g [f.a.toNat] →
    shapeWith (g.rdH f.d.toNat) f.w2.toNat (g.rdS f.a).toNat = none →
    exec (.shset f) s = .next (s.takeTrap s.cur s.curSlot (TrapInfo.of .shapeForm))) ∧
  (∀ (s : State) (g : Group) (f : ExtA), ready s g [f.a.toNat] → f.mod ≠ 2 → f.mod ≠ 4 → ¬ lossScale (g.rdS f.a) →
    exec (.lssetExt f) s = .next (s.takeTrap s.cur s.curSlot (TrapInfo.of .operandRange)))

/-- R255, R274, R277: the 64-bit literal forms write s[D], or the pair v[D]:v[D+1] in the slot's lanes, and `kmov.q` writes
one quarter of a mask from s[A]. -/
def Sys2Proof.Claims.literalAndQuarterMoves : Prop :=
  ∀ (s : State) (g : Group),
    (∀ (w : Word0) (lit : DWord), ready s g [w.d.toNat] →
      exec (.sliLiteral w lit) s = retires s (withGroup s (g.wrS w.d lit)) 0x2F 3) ∧
    (∀ (w : Word0) (lit : DWord), ready s g [] → spans g [] [w.d.toNat, w.d.toNat + 1] →
      exec (.vliLiteral w lit) s =
        retires s (withGroup s (putLanes g true w.d.toNat (g.pc s.curSlot).mask fun _ => lit)) 0x59 3) ∧
    (∀ f : ExtA, ready s g (namedA 0x5F f) → f.d ≠ 0 → f.d.toNat < 16 →
      ∃ h : Group, exec (.kmovQ f) s = retires s (withGroup s h) 0x5F 3 ∧
        h = g.wrK f.d.toNat (h.rdK f.d.toNat) ∧
        ∀ i < 256, (h.rdK f.d.toNat).getLsbD i =
          if i / 64 = f.w2.toNat % 4 then (g.rdS f.a).getLsbD (i % 64) else (g.rdK f.d.toNat).getLsbD i)

/-- R263: `vtos` returns a lane of v[A], active or not, by its type, and `stov` writes s[A] in every lane of the slot's
mask. -/
def Sys2Proof.Claims.laneScalarMoves : Prop :=
  let pair (f : ExtA) : Bool := f.ty == 6 || f.ty == 7 || f.ty == 11
  let regs (f : ExtA) (n : Nat) : List Nat := if pair f then [n, n + 1] else [n]
  let lane (f : ExtA) (g : Group) : DWord :=
    let i := (g.rdS f.b).toNat % 256
    if f.ty = 4 then (g.lane32 f.a.toNat i).signExtend 64 else laneVal g (pair f) f.a.toNat i
  let taken (f : ExtA) (g : Group) (s t : State) : State :=
    afterReading s g (regs f f.a.toNat) (BitVec.twoPow 256 ((g.rdS f.b).toNat % 256)) t
  ∀ (s : State) (g : Group),
    (∀ f : ExtA, ready s g (namedA 0x3D f) → spans g [regs f f.a.toNat] [] →
      exec (.vtosExt f) s = retires s (taken f g s (withGroup s (g.wrS f.d (lane f g)))) 0x3D 3) ∧
    (∀ w : Word0, ready s g (namedC 0x3D w) → spans g [regs (w.ext 0x3D) (w.ext 0x3D).a.toNat] [] →
      exec (.vtos w) s = retires s (taken (w.ext 0x3D) g s (withGroup s (g.wrS (w.ext 0x3D).d (lane (w.ext 0x3D) g)))) 0x3D 1) ∧
    (∀ f : ExtA, ready s g (namedA 0x3E f) → spans g [] (regs f f.d.toNat) →
      exec (.stovExt f) s =
        retires s (withGroup s (putLanes g (pair f) f.d.toNat (g.pc s.curSlot).mask fun _ => g.rdS f.a)) 0x3E 3) ∧
    (∀ w : Word0, ready s g (namedC 0x3E w) → spans g [] (regs (w.ext 0x3E) (w.ext 0x3E).d.toNat) →
      exec (.stov w) s =
        retires s (withGroup s (putLanes g (pair (w.ext 0x3E)) (w.ext 0x3E).d.toNat (g.pc s.curSlot).mask
          fun _ => g.rdS (w.ext 0x3E).a)) 0x3E 1)

/-- R255, R274, R277: the 64-bit literal forms write s[D], or the pair v[D]:v[D+1] in the slot's lanes, and `kmov.q`
writes one quarter of a mask from s[A]. R263: `vtos` returns a lane of v[A], active or not, by its type, and `stov`
writes s[A] in every lane of the slot's mask. -/
def Obligations.Wide_moves : Prop :=
  Sys2Proof.Claims.literalAndQuarterMoves ∧ Sys2Proof.Claims.laneScalarMoves

/-- R284, R285: `xset` sets the active lanes of an index register, `xwin` its window; `vxld` and `vxst` reach the register
v[x[i] + c] of the block in each active lane, and trap REG_INDEX_RANGE when an active lane leaves the window or the
allocation, which leaves SIG as it was (log 15). -/
def Obligations.Index_registers : Prop :=
  ∀ (s : State) (g : Group) (f : ExtA),
    let m := activeMask g s.curSlot f.gn f.g
    let c := f.w2.toNat % 256
    let reach (x : IndexReg) (i : Nat) : Nat := (x.lane.lane i).toNat + c
    let reaches (x : IndexReg) (i : Nat) : Prop := x.lo.toNat ≤ reach x i ∧ reach x i ≤ x.hi.toNat ∧ reach x i < g.regs
    let inside (x : IndexReg) : Prop := ∀ i < 256, m.getLsbD i = true → reaches x i
    let read (t : State) : State := afterReading s g [f.a.toNat] m t
    let xset (fn : Nat → BitVec 16) : Group := g.wrX f.d.toNat { g.rdX f.d.toNat with
      lane := Lanes.of fun i => if m.getLsbD i then fn i else (g.rdX f.d.toNat).lane.lane i }
    (ready s g (namedA 0x6A f) → f.mod.getLsbD 0 = true →
      exec (.xsetExt f) s = retires s (withGroup s (xset fun _ => f.w2.extractLsb' 0 16)) 0x6A 3) ∧
    (ready s g (namedA 0x6A f) → f.mod.getLsbD 0 = false → spans g [[f.a.toNat]] [] →
      exec (.xsetExt f) s = retires s (read (withGroup s (xset fun i => (g.lane32 f.a.toNat i).extractLsb' 0 16))) 0x6A 3) ∧
    (∀ w : Word0, f = w.ext 0x6A → f.mod.getLsbD 0 = false → ready s g (namedC 0x6A w) → spans g [[f.a.toNat]] [] →
      exec (.xset w) s = retires s (read (withGroup s (xset fun i => (g.lane32 f.a.toNat i).extractLsb' 0 16))) 0x6A 1) ∧
    (∀ c, ready s g (namedA 0x6B f) → m ≠ 0 → (f.w2.extractLsb' 0 8).toNat ≤ (f.w2.extractLsb' 8 8).toNat →
      exec (.xwin c f) s = retires s (withGroup s (g.wrX f.d.toNat
        { g.rdX f.d.toNat with lo := f.w2.extractLsb' 0 8, hi := f.w2.extractLsb' 8 8 })) 0x6B (if c then 1 else 3)) ∧
    (∀ c, ready s g (namedA 0x6B f) → m = 0 → (f.w2.extractLsb' 0 8).toNat ≤ (f.w2.extractLsb' 8 8).toNat →
      exec (.xwin c f) s = retires s s 0x6B (if c then 1 else 3)) ∧
    (ready s g (namedA 0x68 f) → spans g [] [f.d.toNat] → inside (g.rdX f.a.toNat) →
      (∀ i < 256, m.getLsbD i = true → (g.block (reach (g.rdX f.a.toNat) i)).full = true) →
      exec (.vxld f) s = retires s
        (eats s ((List.range 256).any fun i => m.getLsbD i && (Table.findD g.regPoison (reach (g.rdX f.a.toNat) i) 0).getLsbD i)
          (withGroup s (g.putV f.d.toNat m fun i => (g.block (reach (g.rdX f.a.toNat) i)).lane.lane i))) 0x68 3) ∧
    (∀ i < 256, ready s g (namedA 0x68 f) → g.spanOk [f.d.toNat] = true → m.getLsbD i = true → ¬ reaches (g.rdX f.a.toNat) i →
      (∀ j < i, m.getLsbD j = true → reaches (g.rdX f.a.toNat) j) →
      exec (.vxld f) s = .next (s.takeTrap s.cur s.curSlot { TrapInfo.of .regIndexRange with lane := i })) ∧
    (∀ i < 256, ready s g (namedA 0x69 f) → g.spanOk [f.a.toNat] = true → m.getLsbD i = true → ¬ reaches (g.rdX f.d.toNat) i →
      (∀ j < i, m.getLsbD j = true → reaches (g.rdX f.d.toNat) j) →
      exec (.vxst f) s = .next (s.takeTrap s.cur s.curSlot { TrapInfo.of .regIndexRange with lane := i })) ∧
    (ready s g (namedA 0x69 f) → spans g [[f.a.toNat]] [] → inside (g.rdX f.d.toNat) →
      (∀ i < 256, m.getLsbD i = true → (g.block (reach (g.rdX f.d.toNat) i)).full = true) →
      ∃ h : Group, exec (.vxst f) s = retires s (read (withGroup s h)) 0x69 3 ∧
        (∀ n < 256, ∀ i < 256, (h.block n).lane.lane i =
          if m.getLsbD i ∧ reach (g.rdX f.d.toNat) i = n then g.lane32 f.a.toNat i else (g.block n).lane.lane i) ∧
        h.s = g.s ∧ h.k = g.k ∧ h.x = g.x ∧ h.y = g.y ∧ h.z = g.z)

namespace Sys2Proof.Claims

/-- What an instruction of memory leaves of its group: the scalar registers but `ds`, the vector and trap-bank registers
but `vs` (as `Group.named` numbers them), and every mask, index, translation, shape, flag and other register. -/
def keepsOthers (g h : Group) (ds : List Byte) (vs : List Nat) : Prop :=
  (∀ n, n ∉ ds → h.rdS n = g.rdS n) ∧ (∀ n < 272, n ∉ vs → h.rdReg n = g.rdReg n) ∧ h.k = g.k ∧ h.x = g.x ∧ h.t = g.t ∧
    h.h = g.h ∧ h.ovf = g.ovf ∧ h.ls = g.ls ∧ h.absmax = g.absmax ∧ h.absQueue = g.absQueue ∧ h.draws = g.draws ∧
    h.saved = g.saved ∧ h.hnd = g.hnd ∧ h.depth = g.depth ∧ h.idem = g.idem ∧ h.tmrRemain = g.tmrRemain

/-- The current slot has passed an instruction of `words` words, its opcode is fed into SIG, and the other slot is as it
was. -/
def passes (s : State) (g h : Group) (op : Byte) (words : Nat) : Prop :=
  (h.pc s.curSlot).pc = pcOf s g + BitVec.ofNat 64 (4 * words) ∧ (h.pc s.curSlot).sig = ((g.pc s.curSlot).feed op).sig ∧
    (h.pc s.curSlot).mask = (g.pc s.curSlot).mask ∧ h.pc (!s.curSlot) = g.pc (!s.curSlot)

/-- Every group but the current one is as it was. -/
def othersKept (s t : State) : Prop := ∀ n, n ≠ s.cur → t.group? n = s.group? n

/-- The byte offset o of R306: the offset register's lane times the element size, plus IMM32. -/
def offsetOf (f : ExtM) (g : Group) (i : Nat) : DWord :=
  (if f.lo = 1 then (g.lane32 f.b.toNat i).signExtend 64 * BitVec.ofNat 64 (tySize f.ty.toNat) else 0) + f.w2.signExtend 64

/-- The address of lane `i` through the memory base (R306): s[A] + o, or the translation register with o. -/
def baseAt (f : ExtM) (g : Group) (i : Nat) : LaneAt :=
  if f.a.toNat < 128 then .addr (g.rdS f.a + offsetOf f g i) else .trans (g.rdT (f.a.toNat - 128)) (offsetOf f g i)

/-- The address of lane `i` of a window-relative form (R309, R313). -/
def windowOffset (base : DWord) (bound : Nat) (f : ExtM) (g : Group) (i : Nat) : LaneAt :=
  let w := g.rdS f.a + offsetOf f g i
  if w.toNat < bound then .addr (base ||| w) else .fault { cause := .windowRange, addr := w, level := 0 }

/-- The address of lane `i` of a gather or a scatter (R311). -/
def pairAt (f : ExtM) (g : Group) (i : Nat) : LaneAt :=
  .addr (g.rdS f.a + g.lane64 f.b.toNat i + f.w2.signExtend 64)

/-- A memory instruction whose lanes each access one element. -/
structure MemRow where
  op : Byte
  ctor : ExtM → Instr
  ok : State → Group → ExtM → Prop := fun _ _ _ => True
  kind : AccessKind
  align : Bool := false
  reach : Reach := .all
  at_ : State → ExtM → Group → Nat → LaneAt := fun _ => baseAt
  /-- The size of an element in bytes. -/
  size : ExtM → Nat := fun f => tySize f.ty.toNat
  /-- Its sources with their FE bits, and its destination registers. -/
  srcs : ExtM → List (List Nat × Bool)
  dst : ExtM → List Nat
  /-- Whether it waits as a release, and with `.sys`. -/
  rel : ExtM → Bool := fun _ => false
  sys : ExtM → Bool := fun _ => false
  /-- Whether the gather engine performs it (R311). -/
  engine : Bool := false

/-- The registers of a data field by its type. -/
def pairOr (ty n : Nat) : List Nat := if ty = 6 ∨ ty = 7 ∨ ty = 11 then [n, n + 1] else [n]

/-- The offset register as a source. -/
def offReg (f : ExtM) : List (List Nat × Bool) := if f.lo = 1 then [([f.b.toNat], f.fe.getLsbD 1)] else []

/-- The vector registers of a memory instruction can be used now, and no acquire of the group is outstanding (R127,
R266). -/
def memReady (s : State) (g : Group) (srcs : List (List Nat × Bool)) (dst : List Nat) : Prop :=
  g.vecCheck srcs dst = Ready.go ∧ ∀ p ∈ s.pends, p.gid = s.cur → p.acq = true → p.hold = true

/-- Every active lane's element passes the checks of R12 to R15 and R55: its pieces are `x`, and the translations
leave the state `s1`. -/
def resolves (s : State) (g : Group) (r : Reach) (k : AccessKind) (align : Bool) (m : Mask) (n : Nat) (at_ : Nat → LaneAt)
    (x : List (Nat × Pieces)) (s1 : State) : Prop :=
  ∃ y, s.resolveLanes (fun s i => s.resolveAt (s.asker s.cur g) r k align i (at_ i) n) (Mask.lanes m) = (y, s1) ∧
    y.ok = x ∧ y.bad = []

/-- A release may complete (R124, R126, R131, R141): what the group acquires has taken effect, its loads, stores and atomics
are performed, no P word of its core remains, and with `.sys` its posted writes are over. -/
def relReady (s : State) (g : Group) (rel sys : Bool) : Prop :=
  rel = true → (∀ p ∈ s.pends, p.gid = s.cur → p.acq = true → p.hold = true) ∧ (s.flushCore (coreOf s.cur)).releaseReady s.cur = true ∧
    (sys = true → (s.flushCore (coreOf s.cur)).sysReady s.cur g = true)

/-- A fence may complete (R126, R138, R323): a release may, the group's loads have returned, and every reply has arrived. -/
def fenceReady (s : State) (g : Group) (sys : Bool) : Prop :=
  relReady s g true sys ∧ (∀ p ∈ s.pends, p.gid = s.cur → p.hold = false → p.memory = false) ∧
    ∀ m ∈ (s.flushCore (coreOf s.cur)).net, m.gid = some s.cur → m.kind.access = true → m.origin.isWatching = true

/-- No piece names the device itself through the fabric window, whose export tables the access may mark (R26, R53). -/
def offDevice (s : State) (x : List (Nat × Pieces)) : Prop :=
  ∀ l ∈ x, ∀ p ∈ l.2, ∀ d off, p.2.2 = Place.fabric d off → d ≠ s.devId

/-- The bytes that pieces in memory cover. -/
def covers (x : List (Nat × Pieces)) (a : Nat) : Prop :=
  ∃ l ∈ x, ∃ p ∈ l.2, ∃ dpa va nc priv, p.2.2 = Place.mem dpa va nc priv ∧ dpa ≤ a ∧ a < dpa + p.2.1

/-- The scratchpad bytes of a core that pieces cover. -/
def coversSpad (x : List (Nat × Pieces)) (core a : Nat) : Prop :=
  ∃ l ∈ x, ∃ p ∈ l.2, ∃ off, p.2.2 = Place.spad core off ∧ off ≤ a ∧ a < off + p.2.1

/-- The table of R308, R309 and R311 to R314. -/
noncomputable def accessRows : List MemRow :=
  let data (f : ExtM) : List Nat := pairOr f.ty.toNat f.d.toNat
  let from_ (f : ExtM) : List (List Nat × Bool) := offReg f ++ [(data f, f.fe.getLsbD 0)]
  let pair (f : ExtM) : List (List Nat × Bool) := [([f.b.toNat, f.b.toNat + 1], f.fe.getLsbD 1)]
  let qual (_ : State) (g : Group) (f : ExtM) : Prop := g.sup = true ∧ (g.rdS f.a).extractLsb' 40 24 = 0 ∧
    (g.rdS f.a).getLsbD 31 = false ∧ ((g.rdS f.a).extractLsb' 32 8).toNat ≤ 191
  let qualified (s : State) (f : ExtM) (g : Group) (i : Nat) : LaneAt :=
    (s.ctx g.asid).qualifiedAt (g.rdS f.a) (offsetOf f g i) (tySize f.ty.toNat) i
  let quietSc (s : State) (_ : Group) (_ : ExtM) : Prop := ∀ p ∈ s.pends, p.gid = s.cur → p.sc = false
  let room (_ : State) (g : Group) (_ : ExtM) : Prop := g.rdE 2 < 255
  [{ op := 0xA0, ctor := .ld, kind := .load, srcs := offReg, dst := data },
   { op := 0xA6, ctor := .lds, kind := .load, srcs := offReg, dst := data, at_ := fun _ => windowOffset 0xFF90000000000000 (2 ^ 25) },
   { op := 0xA8, ctor := .ldc, kind := .load, srcs := offReg, dst := data, at_ := fun _ => windowOffset 0xFFA0000000000000 (2 ^ 25) },
   { op := 0xAA, ctor := .ldp, kind := .load, srcs := offReg, dst := data, at_ := fun _ => windowOffset 0xFFB0000000000000 (2 ^ 16) },
   { op := 0xBA, ctor := .ldx, ok := qual, kind := .load, srcs := offReg, dst := data, at_ := qualified },
   { op := 0xA1, ctor := .st, kind := .store, srcs := from_, dst := fun _ => [], rel := fun f => f.ord == 2, sys := fun f => f.sys == 1 },
   { op := 0xA7, ctor := .sts, kind := .store, srcs := from_, dst := fun _ => [], rel := fun f => f.ord == 2, sys := fun f => f.sys == 1
     at_ := fun _ => windowOffset 0xFF90000000000000 (2 ^ 25) },
   { op := 0xA9, ctor := .stc, kind := .store, srcs := from_, dst := fun _ => [], rel := fun f => f.ord == 2, sys := fun f => f.sys == 1
     at_ := fun _ => windowOffset 0xFFA0000000000000 (2 ^ 25) },
   { op := 0xAB, ctor := .stp, kind := .store, srcs := from_, dst := fun _ => [], rel := fun f => f.ord == 2, sys := fun f => f.sys == 1
     at_ := fun _ => windowOffset 0xFFB0000000000000 (2 ^ 16) },
   { op := 0xB9, ctor := .stmc, kind := .store, srcs := from_, dst := fun _ => [], rel := fun f => f.ord == 2, sys := fun f => f.sys == 1
     ok := fun _ g f => (g.rdS f.c).toNat < 64
     at_ := fun _ f g => windowOffset (0xFFD0000000000000 ||| (g.rdS f.c <<< 42)) (2 ^ 42) f g },
   { op := 0xBB, ctor := .stx, ok := qual, kind := .store, srcs := from_, dst := fun _ => [], rel := fun f => f.ord == 2
     sys := fun f => f.sys == 1, at_ := qualified },
   { op := 0xA4, ctor := .gather, ok := room, kind := .load, srcs := pair, dst := data, at_ := fun _ => pairAt, rel := fun _ => true
     engine := true },
   { op := 0xA5, ctor := .scatter, ok := room, kind := .store, srcs := fun f => pair f ++ [(data f, f.fe.getLsbD 0)], dst := fun _ => []
     at_ := fun _ => pairAt, rel := fun _ => true, sys := fun f => f.sys == 1, engine := true },
   { op := 0xB7, ctor := .ldsc, ok := quietSc, kind := .load, align := true, reach := .globalFabric, srcs := offReg, dst := data
     rel := fun _ => true },
   { op := 0xB8, ctor := .stsc, ok := quietSc, kind := .store, align := true, reach := .globalFabric, srcs := from_, dst := fun _ => []
     rel := fun _ => true, sys := fun f => f.sys == 1 }]

/-- The registers of an atomic's operand at C (R330): a swap value follows the compare value. -/
def operandRegs (wide cas : Bool) (n : Nat) : List Nat :=
  match wide, cas with
  | false, false => [n]
  | true, false => [n, n + 1]
  | false, true => [n, n + 1]
  | true, true => [n, n + 1, n + 2, n + 3]

/-- An atomic's row: its element is wide by a rule on the fields, it may compare, and it may be an SC operation. -/
def atomicRow (op : Byte) (ctor : ExtM → Instr) (wide : ExtM → Bool) (cas sc : Bool) : MemRow :=
  { op := op, ctor := ctor, kind := .atomic, align := true, reach := if sc then .globalFabric else .all
    ok := fun s _ _ => sc = true → ∀ p ∈ s.pends, p.gid = s.cur → p.sc = false
    size := fun f => if wide f then 8 else 4
    at_ := fun _ f g i =>
      let o := (if f.lo = 1 then (g.lane32 f.b.toNat i).signExtend 64 * BitVec.ofNat 64 (if wide f then 8 else 4) else 0)
        + f.w2.signExtend 64
      if f.a.toNat < 128 then .addr (g.rdS f.a + o) else .trans (g.rdT (f.a.toNat - 128)) o
    srcs := fun f => offReg f ++ [(operandRegs (wide f) cas f.c.toNat, f.fe.getLsbD 0)]
    dst := fun f => if f.modm = 1 then [] else if wide f then [f.d.toNat, f.d.toNat + 1] else [f.d.toNat]
    rel := fun f => sc || f.ord == 2 || f.ord == 3
    sys := fun f => f.sys == 1 }

/-- The table of R329 and R330. -/
noncomputable def atomicRows : List MemRow :=
  let ty (f : ExtM) : Bool := f.ty == 6 || f.ty == 7 || f.ty == 11
  [atomicRow 0xC0 .ataddI32 (fun _ => false) false false, atomicRow 0xC1 .ataddI64 (fun _ => true) false false,
   atomicRow 0xC2 .ataddfF32 (fun _ => false) false false, atomicRow 0xC3 .atmin ty false false,
   atomicRow 0xC4 .atmax ty false false, atomicRow 0xC5 .atand ty false false, atomicRow 0xC6 .ator ty false false,
   atomicRow 0xC7 .atxor ty false false, atomicRow 0xC8 .atxchg ty false false,
   atomicRow 0xC9 .atcasI32 (fun _ => false) true false, atomicRow 0xCA .atcasI64 (fun _ => true) true false,
   atomicRow 0xCB .atinc ty false false, atomicRow 0xCC .atdec ty false false, atomicRow 0xCD .ataddsc ty false true,
   atomicRow 0xCE .atcassc ty true true]

/-- A row's instruction completes: it retires once every active lane passes its checks and its releases may complete; it
changes no register but its destination, no other group, and no byte of memory but those that a store or an atomic
covers (a store of an arbiter run is logged in frames of the RVE besides, R411). -/
def memCompletes (r : MemRow) : Prop :=
  ∀ (s : State) (g : Group) (f : ExtM) (x : List (Nat × Pieces)) (s1 : State),
    ready s g (namedM r.op f) → r.ok s g f → memReady s g (r.srcs f) (r.dst f) →
    resolves s g r.reach r.kind r.align (activeMask g s.curSlot f.gn f.g) (r.size f) (r.at_ s f g) x s1 →
    relReady s1 g (r.rel f) (r.sys f) →
    ∃ (t : State) (h : Group), exec (r.ctor f) s = .next t ∧ t.group? s.cur = some h ∧ passes s g h r.op 3 ∧
      keepsOthers g h [] ((r.dst f).map g.named) ∧ (r.engine = false → h.e = g.e) ∧ othersKept s t ∧
      (offDevice s x → (r.kind = .load ∨ g.run ≠ .arbiter) → ∀ a < 2 ^ 39, (r.kind = .load ∨ ¬ covers x a) → t.byteNow a = s1.byteNow a) ∧
      (∀ core a, (r.kind = .load ∨ ¬ coversSpad x core a) →
        Memory.byte (t.spad core g.asid) a = Memory.byte (s1.spad core g.asid) a)

/-- The operands of a memory instruction meet the conditions of `memCompletes`. -/
def memRuns (r : MemRow) (s : State) (g : Group) (f : ExtM) (x : List (Nat × Pieces)) (s1 : State) : Prop :=
  ready s g (namedM r.op f) ∧ r.ok s g f ∧ memReady s g (r.srcs f) (r.dst f) ∧
    resolves s g r.reach r.kind r.align (activeMask g s.curSlot f.gn f.g) (r.size f) (r.at_ s f g) x s1 ∧
    relReady s1 g (r.rel f) (r.sys f)

/-- The current core's L1 owns every word of an access, whole, and nothing of the current group is on its way there: it performs
the access itself (R89, R94). -/
def ownedHere (s : State) (dpa n : Nat) : Prop :=
  (∀ w ∈ wordsOf dpa n, ∃ l, s.l1 (coreOf s.cur) w = some l ∧ l.st = .owned ∧ l.bytes = 15) ∧
    s.unperformed false s.cur dpa n = false

/-- The current core's L1 holds no word of an access. -/
def cold (s : State) (dpa n : Nat) : Prop := ∀ w ∈ wordsOf dpa n, s.l1 (coreOf s.cur) w = none

/-- Every piece lies in a scratchpad or in words that the L1 owns, so that the access is performed at once. -/
def atHand (s : State) (x : List (Nat × Pieces)) : Prop :=
  ∀ l ∈ x, ∀ p ∈ l.2, (∃ core off, p.2.2 = .spad core off) ∨
    ∃ dpa va nc priv, p.2.2 = .mem dpa va nc priv ∧ ownedHere s dpa p.2.1

/-- Where byte `j` of a piece lies: at a DPA, or in the scratchpad of a core. -/
def spot (p : Place) (j : Nat) : Option (Option Nat × Nat) :=
  match p with
  | .mem dpa _ _ _ => some (none, dpa + j)
  | .spad core off => some (some core, off + j)
  | _ => none

/-- A byte as the current core sees it. -/
def spotByte (s : State) (asid : Nat) (a : Option Nat × Nat) : Nat :=
  match a.1 with
  | none => s.coreByte (coreOf s.cur) a.2
  | some core => (Memory.byte (s.spad core asid) a.2).toNat

/-- The bytes of a piece as the current core sees them, little-endian (R7). -/
def pieceNow (s : State) (asid : Nat) (p : Nat × Nat × Place) : Nat :=
  match p.2.2 with
  | .mem dpa _ _ _ => s.coreLoad (coreOf s.cur) dpa p.2.1
  | .spad core off => Memory.load (s.spad core asid) off p.2.1
  | _ => 0

/-- An element from its pieces, little-endian. -/
def elementNow (s : State) (asid : Nat) (ps : Pieces) : DWord :=
  ps.foldl (fun v p => v ||| BitVec.ofNat 64 (pieceNow s asid p * 2 ^ (8 * p.1))) 0

/-- An element as it lies in a lane (R305): i8 and i16 sign-extended to 32 bits, every other type zero-extended. -/
def laneForm (ty raw : Nat) : DWord :=
  if ty = 0 then ((BitVec.ofNat 8 raw).signExtend 32).setWidth 64
  else if ty = 2 then ((BitVec.ofNat 16 raw).signExtend 32).setWidth 64
  else BitVec.ofNat 64 raw

/-- An element as it lies in a scalar register (R256): a signed integer sign-extended to 64 bits, every other type
zero-extended. -/
def scalarForm (ty raw : Nat) : DWord :=
  if ty = 0 then (BitVec.ofNat 8 raw).signExtend 64
  else if ty = 2 then (BitVec.ofNat 16 raw).signExtend 64
  else if ty = 4 then (BitVec.ofNat 32 raw).signExtend 64
  else BitVec.ofNat 64 raw

/-- A type of 8 bytes, which takes a pair of registers. -/
def wide (ty : Nat) : Prop := ty = 6 ∨ ty = 7 ∨ ty = 11

/-- A register, with its next for a pair, is full and holds a value in a lane. -/
def laneIs (h : Group) (pair : Prop) (n i : Nat) (v : DWord) : Prop :=
  (h.rdReg n).full = true ∧ (h.rdReg n).lane.lane i = v.extractLsb' 0 32 ∧
    (pair → (h.rdReg (n + 1)).full = true ∧ (h.rdReg (n + 1)).lane.lane i = v.extractLsb' 32 32)

/-- No piece of a later lane, and no other of its own lane, covers byte `j` of a piece of a lane. -/
def lastTo (x : List (Nat × Pieces)) (l : Nat × Pieces) (p : Nat × Nat × Place) (j : Nat) : Prop :=
  ∀ l' ∈ x, ∀ q ∈ l'.2, (l.1 < l'.1 ∨ l' = l ∧ q ≠ p) → ∀ k < q.2.1, spot q.2.2 k ≠ spot p.2.2 j

/-- No other piece touches the words of a piece in memory. -/
def aloneIn (x : List (Nat × Pieces)) (l : Nat × Pieces) (p : Nat × Nat × Place) (dpa : Nat) : Prop :=
  ∀ l' ∈ x, ∀ q ∈ l'.2, (l', q) ≠ (l, p) → ∀ a va nc priv, q.2.2 = .mem a va nc priv →
    ∀ w ∈ wordsOf dpa p.2.1, w ∉ wordsOf a q.2.1

/-- What lane `i` of a vector store stores: the low bytes of its register, or of its pair (R308). -/
def laneValue (f : ExtM) (g : Group) (i : Nat) : Nat :=
  (if f.ty = 6 ∨ f.ty = 7 ∨ f.ty = 11 then (g.lane64 f.d.toNat i).toNat else (g.lane32 f.d.toNat i).toNat) % 2 ^ (8 * tySize f.ty.toNat)

/-- The bytes of a value that belong to a piece. -/
def partOfValue (v : Nat) (p : Nat × Nat × Place) : Nat := v / 2 ^ (8 * p.1) % 2 ^ (8 * p.2.1)

/-- The stores of a lane reach memory (R89, R141, R308): bytes at hand hold the value; of words that the L1 does not hold, the value
is on its way to the home slice; of another device's, it is posted. -/
def stored (f : ExtM) (s s1 t : State) (g : Group) (x : List (Nat × Pieces)) (val : Nat → Nat) : Prop :=
  ∀ l ∈ x, ∀ p ∈ l.2,
    (atHand s1 x → ∀ j < p.2.1, ∀ a, spot p.2.2 j = some a → lastTo x l p j →
      spotByte t g.asid a = partOfValue (val l.1) p / 2 ^ (8 * j) % 256) ∧
    (∀ dpa va nc priv, p.2.2 = .mem dpa va nc priv → cold s1 dpa p.2.1 → aloneIn x l p dpa → f.rq ≠ 3 →
      ∃ m ∈ t.net, m.gid = some s.cur ∧ m.lane = l.1 ∧ m.dpa = dpa ∧ m.size = p.2.1 ∧ m.origin.isStore = true ∧
        m.data = BitVec.ofNat 64 (partOfValue (val l.1) p)) ∧
    ∀ d off, (p.2.2 = .fabric d off ∨ ∃ set, p.2.2 = .multicast set off ∧ d ∈ mcMembers (s1.mcEntry (bhOf s.cur) set) ∧
        s1.deviceOk (bhOf s.cur) d = true) →
      ∃ q ∈ t.posted, q.gid = s.cur ∧ q.lane = l.1 ∧ q.device = d ∧ q.offset = off ∧ q.size = p.2.1 ∧ q.lost = false ∧
        q.data = BitVec.ofNat 64 (partOfValue (val l.1) p)

/-- The new value of an atomic's element of `n` bytes (R329, R330), by opcode, from the old value, the operand and the compare
value. -/
def atomicNew (op : Byte) (f : ExtM) (n old x cmp : Nat) : Nat :=
  let less (a b : Nat) : Bool := if f.ty = 4 ∨ f.ty = 6 then (BitVec.ofNat (8 * n) a).slt (BitVec.ofNat (8 * n) b) else a < b
  if op = 0xC2 then atomicSum old x % 2 ^ (8 * n)
  else if op = 0xC3 then (if less x old then x else old)
  else if op = 0xC4 then (if less old x then x else old)
  else if op = 0xC5 then old &&& x
  else if op = 0xC6 then old ||| x
  else if op = 0xC7 then old ^^^ x
  else if op = 0xC8 then x
  else if op = 0xC9 ∨ op = 0xCA ∨ op = 0xCE then (if old = cmp then x else old)
  else if op = 0xCB then (if x ≤ old then 0 else old + 1)
  else if op = 0xCC then (if old = 0 ∨ x < old then x else old - 1)
  else (old + x) % 2 ^ (8 * n)

/-- The value of lane `i` in the registers from `n`: a pair's for 8 bytes. -/
def registerValue (g : Group) (size n i : Nat) : Nat := if size = 8 then (g.lane64 n i).toNat else (g.lane32 n i).toNat

end Sys2Proof.Claims

/-- R306, R308, R309, R311 to R314: every vector load and store completes, in every window and form, with its frame. -/
def Sys2Proof.Claims.vectorAccess : Prop := ∀ r ∈ accessRows, memCompletes r

/-- R89, R305, R308: a load of bytes that the L1 owns or that lie in a scratchpad fills each active lane of its destination with
the extended element; of words that the L1 does not hold it asks the home slice, its destination empty; and the reply that arrives last
fills it, or writes s[D]. -/
def Sys2Proof.Claims.loadedLanes : Prop :=
  (∀ r ∈ accessRows, r.kind = .load → ∀ (s : State) (g : Group) (f : ExtM) (x : List (Nat × Pieces)) (s1 : State),
    memRuns r s g f x s1 →
    (r.reach = .all → r.engine = false → atHand s1 x →
      ∃ (t : State) (h : Group), exec (r.ctor f) s = .next t ∧ t.group? s.cur = some h ∧
        ∀ l ∈ x, laneIs h (wide f.ty.toNat) (g.named f.d.toNat) l.1 (laneForm f.ty.toNat (elementNow s1 g.asid l.2).toNat)) ∧
    (∀ l ∈ x, ∀ p ∈ l.2, ∀ dpa va nc priv, p.2.2 = .mem dpa va nc priv → cold s1 dpa p.2.1 →
      ∃ (t : State) (h : Group), exec (r.ctor f) s = .next t ∧ t.group? s.cur = some h ∧
        (h.rdReg (g.named f.d.toNat)).full = false ∧ ∃ q ∈ t.pends, q.gid = s.cur ∧ q.dest = .vec (g.named f.d.toNat) f.ty ∧
          ∃ m ∈ t.net, m.pend = some q.id ∧ m.lane = l.1 ∧ m.off = p.1 ∧ m.dpa = dpa ∧ m.size = p.2.1 ∧
            m.kind.request = true ∧ m.kind.isStore = false ∧ m.kind.isAtomic = false)) ∧
  ∀ (s : State) (id : Nat) (m : Msg) (q : Pend) (g : Group), s.msg? id = some m → m.kind = .fill → s.firstReply m = true →
    m.lane < 256 → m.pend = some q.id → s.pend? q.id = some q → q.left = 1 → q.hold = false → q.failed = false →
    s.group? q.gid = some g →
    let value (i : Nat) : Nat := (q.values.lane i ||| if i = m.lane then BitVec.ofNat 64 (m.data.toNat * 2 ^ (8 * m.off)) else 0).toNat
    ∃ (t : State) (h : Group), exec (.fill id) s = .next t ∧ t.group? q.gid = some h ∧
      (∀ n ty, q.dest = .vec n ty → ∀ i < 256, q.lanes.getLsbD i = true →
        laneIs h (wide ty.toNat) n i (laneForm ty.toNat (value i))) ∧
      ∀ n ty, q.dest = .scalar n ty → h.rdS n = (g.wrS n (scalarForm ty.toNat (value 0))).rdS n ∧ n.toNat ∉ h.scalarBusy

/-- R89, R120, R141, R308: the bytes that a vector store leaves at hand, sends to the home slice or posts to a peer are those of its
source lanes, the highest lane's where several store to one byte. -/
def Sys2Proof.Claims.storedLanes : Prop :=
  ∀ r ∈ accessRows, r.kind = .store → r.reach = .all → r.engine = false →
    ∀ (s : State) (g : Group) (f : ExtM) (x : List (Nat × Pieces)) (s1 : State), memRuns r s g f x s1 → g.run = .original →
      ∃ t : State, exec (r.ctor f) s = .next t ∧ stored f s s1 t g x (laneValue f g)

/-- R306, R308, R309, R311 to R314: every vector load and store completes, in every window and form, with its frame.
R89, R305, R308: a load of bytes that the L1 owns or that lie in a scratchpad fills each active lane of its
destination with the extended element; of words that the L1 does not hold it asks the home slice, its destination
empty; and the reply that arrives last fills it, or writes s[D]. R89, R120, R141, R308: the bytes that a vector store
leaves at hand, sends to the home slice or posts to a peer are those of its source lanes, the highest lane's where
several store to one byte. -/
def Obligations.Vector_memory : Prop :=
  Sys2Proof.Claims.vectorAccess ∧ Sys2Proof.Claims.loadedLanes ∧ Sys2Proof.Claims.storedLanes

/-- R328 to R330: every atomic completes, with its frame. -/
def Sys2Proof.Claims.atomicAccess : Prop := ∀ r ∈ atomicRows, memCompletes r

/-- R94, R328 to R330: an atomic on a scratchpad word, or as own on words that the L1 owns, replaces each active lane's element by its
new value and returns the old one, unless it is `.nr`; on words that the L1 does not hold it goes to the home slice with its
operands. -/
def Sys2Proof.Claims.atomicLanes : Prop :=
  ∀ r ∈ atomicRows, ∀ (s : State) (g : Group) (f : ExtM) (x : List (Nat × Pieces)) (s1 : State), memRuns r s g f x s1 →
    let n := r.size f
    let cas : Prop := r.op = 0xC9 ∨ r.op = 0xCA ∨ r.op = 0xCE
    ∃ (t : State) (h : Group), exec (r.ctor f) s = .next t ∧ t.group? s.cur = some h ∧ ∀ l ∈ x, ∀ p ∈ l.2,
      (∀ op1 cmp, (cas → op1 = registerValue g n (f.c.toNat + n / 4) l.1 ∧ cmp = registerValue g n f.c.toNat l.1) →
        (¬ cas → op1 = registerValue g n f.c.toNat l.1 ∧ cmp = 0) →
        (r.reach = .all → atHand s1 x → l.2 = [(0, n, p.2.2)] →
          (∀ dpa va nc priv, p.2.2 = .mem dpa va nc priv → nc = false ∧ (priv = true ∨ f.rq ≠ 4)) →
          (∀ l' ∈ x, l' ≠ l → ∀ q ∈ l'.2, ∀ j < n, ∀ k < q.2.1, spot q.2.2 k ≠ spot p.2.2 j) →
          let old := pieceNow s1 g.asid p
          pieceNow t g.asid p = atomicNew r.op f n old op1 cmp ∧
            (f.modm ≠ 1 → laneIs h (n = 8) (g.named f.d.toNat) l.1 (BitVec.ofNat 64 old))) ∧
        ∀ dpa va nc priv, p.2.2 = .mem dpa va nc priv → cold s1 dpa p.2.1 →
          ∃ m ∈ t.net, m.gid = some s.cur ∧ m.lane = l.1 ∧ m.dpa = dpa ∧ m.size = p.2.1 ∧ m.kind.isAtomic = true ∧
            m.data = BitVec.ofNat 64 op1 ∧ m.cmp = BitVec.ofNat 64 cmp)

/-- R328 to R330: every atomic completes, with its frame. R94, R328 to R330: an atomic on a scratchpad word, or as own
on words that the L1 owns, replaces each active lane's element by its new value and returns the old one, unless it is
`.nr`; on words that the L1 does not hold it goes to the home slice with its operands. -/
def Obligations.Atomics : Prop :=
  Sys2Proof.Claims.atomicAccess ∧ Sys2Proof.Claims.atomicLanes

/-- R15, R69: where a lane fails a check, a load, a store or an atomic traps with the lowest failing lane's cause and performs no
lane; that SIG stays as it was before the instruction is the model's choice (log 15). -/
def Obligations.Lane_faults : Prop :=
  ∀ r ∈ accessRows ++ atomicRows, ∀ (s : State) (g : Group) (f : ExtM) (y : Resolved) (s1 : State) (i : Nat) (e : AddrFault),
    ready s g (namedM r.op f) → r.ok s g f → memReady s g (r.srcs f) (r.dst f) →
    s.resolveLanes (fun s i => s.resolveAt (s.asker s.cur g) r.reach r.kind r.align i (r.at_ s f g i) (r.size f))
      (Mask.lanes (activeMask g s.curSlot f.gn f.g)) = (y, s1) →
    y.bad.head? = some (i, e) →
    ∃ ti : TrapInfo, ti.cause = e.cause ∧ ti.lane = i ∧ exec (r.ctor f) s = .next (s1.takeTrap s.cur s.curSlot ti)

namespace Sys2Proof.Claims

/-- The two forms of an instruction with operand N or with none: its opcode, its constructors, and what its effect leaves
under a condition, from the fields, operand N and the group. -/
structure EffectRow where
  op : Byte
  compact : Option (Word0 → Instr) := none
  ext : Option (ExtA → Instr) := none
  ok : State → ExtA → DWord → Group → Prop := fun _ _ _ _ => True
  next : State → ExtA → DWord → Group → State

/-- A row's instruction completes with the row's state, in every form. -/
def effectCompletes (r : EffectRow) : Prop :=
  ∀ (s : State) (g : Group),
    (∀ c ∈ r.ext, ∀ f : ExtA, ready s g (namedA r.op f) → r.ok s f (f.w2.setWidth 64) g →
      exec (c f) s = retires s (r.next s f (f.w2.setWidth 64) g) r.op 3) ∧
    (∀ c ∈ r.compact, ∀ w : Word0, ready s g (namedC r.op w) → r.ok s (w.ext r.op.toNat) (g.rdS (w.b.setWidth 8)) g →
      exec (c w) s = retires s (r.next s (w.ext r.op.toNat) (g.rdS (w.b.setWidth 8)) g) r.op 1)

/-- The current slot's instruction has begun, waits under `p`, and its parts have all arrived. -/
def heldDone (s : State) (g : Group) (p : Pend) : Prop :=
  s.held? s.cur s.curSlot (pcOf s g) = some p ∧ p.left = 0 ∧ p.failed = false

/-- The barrier's episode in which a group last arrived is over (R362). -/
def barOver (s : State) (g : Group) (n : Nat) : Prop :=
  ∃ (t : Team) (e : Nat), s.team? g.team = some t ∧ g.arrivedAt n = some e ∧ e < (t.barrier n).episode

/-- Every other group of the team has arrived at the barrier in its current episode, and this one has not (R362). -/
def lastToArrive (s : State) (g : Group) (t : Team) (n : Nat) : Prop :=
  s.team? g.team = some t ∧ g.arrivedAt n = none ∧ g.index ∉ (t.barrier n).arrived ∧
    ∀ e ∈ s.groups, e.2.team = g.team → e.2.ended = false → e.2.index ≠ g.index → e.2.index ∈ (t.barrier n).arrived

end Sys2Proof.Claims

/-- R89, R256: `sld` of bytes that the L1 owns or that lie in a scratchpad writes the extended value into s[D]; of words that the L1
does not hold it asks the home slice and makes s[D] wait. `sst` stores the low bytes of s[D]. Nothing else of the group changes. A
scalar access to the private window traps; that it leaves SIG as it was is the model's choice (log 15). -/
def Sys2Proof.Claims.scalarMemory : Prop :=
  ∀ (s : State) (g : Group) (f : ExtM) (p : Pieces) (s1 : State),
    let a := g.rdS f.a + f.w2.signExtend 64
    let n := tySize f.ty.toNat
    let calm : Prop := ∀ q ∈ s.pends, q.gid = s.cur → q.acq = true → q.hold = true
    (ready s g (namedM 0x32 f) → calm → s.resolvePipe s.cur g .all .load false a n = (.ok p, s1) →
      ∃ (t : State) (h : Group), exec (.sld f) s = .next t ∧ t.group? s.cur = some h ∧ passes s g h 0x32 3 ∧
        keepsOthers g h [f.d] [] ∧ h.e = g.e ∧ othersKept s t ∧ (offDevice s [(0, p)] → ∀ b < 2 ^ 39, t.byteNow b = s1.byteNow b) ∧
        (atHand s1 [(0, p)] →
          h.rdS f.d = (g.wrS f.d (scalarForm f.ty.toNat (elementNow s1 g.asid p).toNat)).rdS f.d ∧ h.scalarBusy = g.scalarBusy) ∧
        ∀ q ∈ p, ∀ dpa va nc priv, q.2.2 = .mem dpa va nc priv → cold s1 dpa q.2.1 →
          f.d.toNat ∈ h.scalarBusy ∧ ∃ w ∈ t.pends, w.gid = s.cur ∧ w.dest = .scalar f.d f.ty ∧
            ∃ m ∈ t.net, m.pend = some w.id ∧ m.lane = 0 ∧ m.off = q.1 ∧ m.dpa = dpa ∧ m.size = q.2.1 ∧
              m.kind.request = true ∧ m.kind.isStore = false ∧ m.kind.isAtomic = false) ∧
    (ready s g (namedM 0x33 f) → calm → s.resolvePipe s.cur g .all .store false a n = (.ok p, s1) →
      relReady s1 g (f.ord == 2) (f.sys == 1) →
      ∃ (t : State) (h : Group), exec (.sst f) s = .next t ∧ t.group? s.cur = some h ∧ passes s g h 0x33 3 ∧
        keepsOthers g h [] [] ∧ h.e = g.e ∧ othersKept s t ∧
        (offDevice s [(0, p)] → g.run ≠ .arbiter → ∀ b < 2 ^ 39, ¬ covers [(0, p)] b → t.byteNow b = s1.byteNow b) ∧
        (g.run = .original → stored f s s1 t g [(0, p)] fun _ => (g.rdS f.d).toNat % 2 ^ (8 * n))) ∧
    ∀ r ∈ [(0x32, Instr.sld), (0x33, .sst)], ready s g (namedM r.1 f) → calm → canonical a = true → windowOf a = .priv →
      ∃ ti : TrapInfo, ti.cause = .addrWindow ∧ exec (r.2 f) s = .next (s.takeTrap s.cur s.curSlot ti)

/-- R62, R257, R327: `xlat` fills a translation register from the leaf of a global address; `xlatq` reports a translation and
changes nothing but s[D]; an address outside the global window traps ADDR_WINDOW at both; that the trap leaves SIG as it was is
the model's choice (log 15). -/
def Sys2Proof.Claims.translations : Prop :=
  ∀ (s : State) (g : Group) (f : ExtM),
    let a := g.rdS f.a + f.w2.signExtend 64
    let calm : Prop := ∀ q ∈ s.pends, q.gid = s.cur → q.acq = true → q.hold = true
    (∀ dpa e l s1, ready s g (namedM 0x34 f) → calm → canonical a = true → windowOf a = .global →
      s.translate ((s.asker s.cur g).via false) .xlat a.toNat = (.ok dpa e l, s1) →
      ∃ (t : State) (h : Group), exec (.xlat f) s = .next t ∧ t.group? s.cur = some h ∧ passes s g h 0x34 3 ∧
        (h.rdT f.d.toNat).v = true ∧ (h.rdT f.d.toNat).w = leafW e ∧ (h.rdT f.d.toNat).cw = leafCW e ∧
        (h.rdT f.d.toNat).fz = leafFZ e ∧ (h.rdT f.d.toNat).nc = leafNC e ∧ (h.rdT f.d.toNat).s = leafS e ∧
        (h.rdT f.d.toNat).va = a.extractLsb' 0 56 ∧ (h.rdT f.d.toNat).frame = BitVec.ofNat 23 (leafDpa e l a.toNat / 2 ^ 16) ∧
        (∀ k < 8, k ≠ f.d.toNat % 8 → h.rdT k = g.rdT k) ∧ h.s = g.s ∧ h.v = g.v ∧ h.k = g.k ∧ othersKept s t) ∧
    (ready s g (namedM 0xBF f) → canonical a = true → windowOf a = .global →
      exec (.xlatq f) s = retires s (withGroup s (g.wrS f.d (BitVec.ofNat 64 (s.xlatq g a.toNat)))) 0xBF 3) ∧
    (canonical a = true → windowOf a ≠ .global →
      (ready s g (namedM 0x34 f) → calm →
        ∃ ti : TrapInfo, ti.cause = .addrWindow ∧ exec (.xlat f) s = .next (s.takeTrap s.cur s.curSlot ti)) ∧
      (ready s g (namedM 0xBF f) →
        ∃ ti : TrapInfo, ti.cause = .addrWindow ∧ exec (.xlatq f) s = .next (s.takeTrap s.cur s.curSlot ti)))

/-- R258, R259, R393: `shld` reads a record of 32 bytes into h[D] when its fields are well formed, and traps SHAPE_FORM where they
are not, and at an address that is not a multiple of 32, once its address causes have been looked for; that the trap leaves SIG as it
was is the model's choice (log 15). -/
def Sys2Proof.Claims.shapeLoad : Prop :=
  ∀ (s : State) (g : Group) (f : ExtA),
    let a := g.rdS f.a + f.w2.signExtend 64
    (∀ ds s1 hs, ready s g (namedA 0x35 f) → (∀ q ∈ s.pends, q.gid = s.cur → q.acq = true → q.hold = true) →
      a.toNat % 32 = 0 → s.readRecord s.cur g (pcOf s g) 4 a = .dwords ds none s1 → shapeOf ds = some hs →
      ∃ (t : State) (h : Group), exec (.shld f) s = .next t ∧ t.group? s.cur = some h ∧ passes s g h 0x35 3 ∧
        h.rdH f.d.toNat = hs ∧ (∀ k < 16, k ≠ f.d.toNat % 16 → h.rdH k = g.rdH k) ∧ h.s = g.s ∧ h.v = g.v ∧ h.k = g.k ∧
        othersKept s t) ∧
    (∀ ds s1, ready s g (namedA 0x35 f) → (∀ q ∈ s.pends, q.gid = s.cur → q.acq = true → q.hold = true) →
      a.toNat % 32 = 0 → s.readRecord s.cur g (pcOf s g) 4 a = .dwords ds none s1 → shapeOf ds = none →
      exec (.shld f) s = .next (s1.takeTrap s.cur s.curSlot (TrapInfo.of .shapeForm))) ∧
    ∀ s1, ready s g (namedA 0x35 f) → a.toNat % 32 ≠ 0 → s.recordFault s.cur g 4 a = .ok s1 →
      exec (.shld f) s = .next (s1.takeTrap s.cur s.curSlot (TrapInfo.of .shapeForm))

/-- R89, R256: `sld` of bytes that the L1 owns or that lie in a scratchpad writes the extended value into s[D]; of
words that the L1 does not hold it asks the home slice and makes s[D] wait. `sst` stores the low bytes of s[D].
Nothing else of the group changes. A scalar access to the private window traps; that it leaves SIG as it was is the
model's choice (log 15). R258, R259, R393: `shld` reads a record of 32 bytes into h[D] when its fields are well
formed, and traps SHAPE_FORM where they are not, and at an address that is not a multiple of 32, once its address
causes have been looked for; that the trap leaves SIG as it was is the model's choice (log 15). -/
def Obligations.Scalar_memory : Prop :=
  Sys2Proof.Claims.scalarMemory ∧ Sys2Proof.Claims.shapeLoad

/-- R218, R219, R310: an issue of a sweep performs one segment: the slot then stands at the next segment, or has passed the
sweep after the last; a sweep of no segments only retires, where the registers that it names exist, and traps REG_INDEX_RANGE
where they do not (R220); that the trap leaves SIG as it was is the model's choice (log 15). -/
def Obligations.Sweeps : Prop :=
  ∀ (s : State) (g : Group) (lit : DWord) (seg : Nat), seg = (((g.pc s.curSlot).segment).map BitVec.toNat).getD 0 →
    let after (w2 : Word) (op : Byte) (t : State) : Out :=
      if seg + 1 < w2.toNat % 4096 then .next (t.segmentDone s.cur s.curSlot seg) else retires s t op 5
    let none_ (spans : List (List Nat)) (op : Byte) : Out :=
      if spans.all g.spanOk then retires s s op 5 else .next (s.takeTrap s.cur s.curSlot (TrapInfo.of .regIndexRange))
    (∀ (op : Byte) (f x : ExtA) (o : VOut), ready s g (namedA op { f with w2 := 0 }) → f.w2.toNat % 4096 ≠ 0 →
      g.segmentFields (reqA op.toNat { f with w2 := 0 }) f lit seg = some x → vectorReady op g x →
      sweepEffect op.toNat (s.venv g (reqA op.toNat x) x) = .ok o →
      exec (.vectorSweep op f lit) s = after f.w2 op (vectorState s g op x fun _ => o)) ∧
    (∀ (op : Byte) (f : ExtA), ready s g (namedA op { f with w2 := 0 }) → f.w2.toNat % 4096 = 0 →
      let r := reqA op.toNat { f with w2 := 0 }
      exec (.vectorSweep op f lit) s = none_ [kindRegs r.d f.d, kindRegs r.a f.a, kindRegs r.b f.b, kindRegs r.c f.c] op) ∧
    (∀ (f x : ExtM) (ds : List Nat) (s1 : State), ready s g (namedM 0xA2 f) → f.w2.toNat % 4096 ≠ 0 →
      g.segFields f lit seg = some x → g.elemRegs f lit seg = some ds →
      memReady s g (offReg x) (ds.flatMap fun d => pairOr f.ty.toNat d) →
      s.segLanes g .load (activeMask g s.curSlot x.gn x.g) (tySize f.ty.toNat) ds.length (fun k i => elemAt x lit seg k g i)
        (fun _ s => .ok s) = .ok s1 →
      ∃ (t : State) (h : Group), exec (.ldsw f lit) s = .next t ∧ t.group? s.cur = some h ∧
        keepsOthers g h [] ((ds.flatMap fun d => pairOr f.ty.toNat d).map g.named) ∧ othersKept s t ∧
        (if seg + 1 < f.w2.toNat % 4096 then (h.pc s.curSlot).segment = some (BitVec.ofNat 12 (seg + 1)) ∧
            (h.pc s.curSlot).pc = pcOf s g
          else passes s g h 0xA2 5) ∧
        ((∀ k i, windowOf (elemAt x lit seg k g i).shown ≠ .fabric) → ∀ a < 2 ^ 39, t.byteNow a = s1.byteNow a)) ∧
    (∀ (f x : ExtM) (ds : List Nat) (s1 : State), ready s g (namedM 0xA3 f) → f.w2.toNat % 4096 ≠ 0 →
      g.segFields f lit seg = some x → g.elemRegs f lit seg = some ds →
      memReady s g (offReg x ++ [(ds.flatMap fun d => pairOr f.ty.toNat d, f.fe.getLsbD 0)]) [] →
      s.segLanes g .store (activeMask g s.curSlot x.gn x.g) (tySize f.ty.toNat) ds.length (fun k i => elemAt x lit seg k g i)
        (fun _ s => .ok s) = .ok s1 →
      relReady s1 g (f.ord == 2) (f.sys == 1) →
      ∃ (t : State) (h : Group), exec (.stsw f lit) s = .next t ∧ t.group? s.cur = some h ∧ keepsOthers g h [] [] ∧
        othersKept s t ∧
        (if seg + 1 < f.w2.toNat % 4096 then (h.pc s.curSlot).segment = some (BitVec.ofNat 12 (seg + 1)) ∧
            (h.pc s.curSlot).pc = pcOf s g
          else passes s g h 0xA3 5)) ∧
    (∀ f : ExtM, f.w2.toNat % 4096 = 0 →
      (ready s g (namedM 0xA2 f) → exec (.ldsw f lit) s = none_ (sweepSpans f g) 0xA2) ∧
      (ready s g (namedM 0xA3 f) → exec (.stsw f lit) s = none_ (sweepSpans f g) 0xA3))

/-- R124, R126, R127, R138, R323: a release waits for the group's loads, stores and atomics and for its core's P words; an acquire
waits for its loads and drops the untagged V words of its core; a fence does both. None changes a register or a byte of memory. -/
def Sys2Proof.Claims.fences : Prop :=
  ∀ (s : State) (g : Group),
    let quietLoads : Prop := ∀ p ∈ s.pends, p.gid = s.cur → p.hold = false → p.store = true
    let done (t : State) (op : Byte) (words : Nat) : Prop := ∃ h : Group, t.group? s.cur = some h ∧ passes s g h op words ∧
      keepsOthers g h [] [] ∧ h.e = g.e ∧ othersKept s t ∧ ∀ a, t.byteNow a = s.byteNow a
    let noValid (t : State) : Prop := ∀ e ∈ (t.core (coreOf s.cur)).l1, e.2.st = .valid → e.2.tag ≠ none
    (∀ w, ready s g [] → fenceReady s g false →
      ∃ t, exec (.fence w) s = .next t ∧ done t 0xB4 1 ∧ noValid t) ∧
    (∀ f, ready s g (namedM 0xB4 f) → fenceReady s g (f.sys == 1) →
      ∃ t, exec (.fenceExt f) s = .next t ∧ done t 0xB4 3 ∧ noValid t) ∧
    (∀ w, ready s g [] → quietLoads → ∃ t, exec (.acq w) s = .next t ∧ done t 0xB5 1 ∧ noValid t) ∧
    (∀ f, ready s g (namedM 0xB5 f) → quietLoads → ∃ t, exec (.acqExt f) s = .next t ∧ done t 0xB5 3 ∧ noValid t) ∧
    (∀ w, ready s g [] → relReady s g true false → ∃ t, exec (.rel w) s = .next t ∧ done t 0xB6 1) ∧
    (∀ f, ready s g (namedM 0xB6 f) → relReady s g true (f.sys == 1) → ∃ t, exec (.relExt f) s = .next t ∧ done t 0xB6 3)

/-- R315: `pref` never traps for a translation: it changes no register and no byte of memory whatever its lanes' pages
are. -/
def Sys2Proof.Claims.prefetch : Prop :=
  ∀ (s : State) (g : Group) (f : ExtM) (y : Resolved) (s1 : State), ready s g (namedM 0xAC f) → memReady s g (offReg f) [] →
    s.resolveLanes (fun s i => s.resolveAt (s.asker s.cur g) .all .prefetch false i (baseAt f g i) (tySize f.ty.toNat))
      (Mask.lanes (activeMask g s.curSlot f.gn f.g)) = (y, s1) →
    (∀ b ∈ y.bad, b.2.cause ≠ .addrNoncanonical ∧ b.2.cause ≠ .addrWindow ∧ b.2.cause ≠ .fabricDevice ∧
      b.2.cause ≠ .windowRange) →
    ∃ (t : State) (h : Group), exec (.pref f) s = .next t ∧ t.group? s.cur = some h ∧ passes s g h 0xAC 3 ∧
      keepsOthers g h [] [] ∧ h.e = g.e ∧ othersKept s t ∧ (offDevice s y.ok → ∀ a, t.byteNow a = s1.byteNow a)

/-- R316 to R319, R393: a range instruction of 0 bytes changes nothing; one of more than 2^32 whose address checks pass traps
OPERAND_RANGE, SIG as it was (log 15: the model's choice); one whose pages translate completes, and changes no register but s[D] of
the pins. -/
def Obligations.Range_instructions : Prop :=
  ∀ r ∈ [(0xAD, Instr.l2pin, AccessKind.load, true), (0xAE, Instr.l2unpin, .load, true), (0xB0, Instr.wback, .load, false),
      (0xAF, Instr.discard, .store, false)],
    ∀ (s : State) (g : Group) (f : ExtM),
      let a := g.rdS f.a + f.w2.signExtend 64
      let n := (g.rdS f.c).toNat
      (ready s g (namedM r.1 f) → n = 0 → exec (r.2.1 f) s = retires s s r.1 3) ∧
      (∀ ps s1, ready s g (namedM r.1 f) → 2 ^ 32 < n → canonical a = true → a.toNat + n ≤ 2 ^ 55 →
        s.rangePages g r.2.2.1 (pagesOf a.toNat n) = (.ok ps, s1) →
        exec (r.2.1 f) s = .next (s1.takeTrap s.cur s.curSlot (TrapInfo.of .operandRange))) ∧
      (∀ ps s1, ready s g (namedM r.1 f) → 0 < n → n ≤ 2 ^ 32 →
        (∀ q ∈ s.pends, q.gid = s.cur → q.acq = true → q.hold = true) → canonical a = true → a.toNat + n ≤ 2 ^ 55 →
        s.rangePages g r.2.2.1 (pagesOf a.toNat n) = (.ok ps, s1) →
        (∀ m ∈ s1.net, m.core ≠ coreOf s.cur ∧ m.kind ≠ .grant) → (∀ e ∈ (s1.core (coreOf s.cur)).l1, e.2.st ≠ .pend ∧ e.2.lazy = none) →
        ∃ (t : State) (h : Group), exec (r.2.1 f) s = .next t ∧ t.group? s.cur = some h ∧ passes s g h r.1 3 ∧
          keepsOthers g h (if r.2.2.2 then [f.d] else []) [] ∧ h.e = g.e ∧ othersKept s t)

/-- R320 to R322: `objdecl` refuses an address that is not a multiple of 64 with FORM in s[D] and makes no entry; it writes a
SHARED object that nothing refuses into an entry and returns its number, and that it takes the lowest free one is the model's choice
(log 22); `objset` writes the state that it names
into the entry, once the stores of the bulkhead are over where the object was SHARED, and retires from STABLE or FROZEN to
SHARED once its invalidations have arrived; `objrel` of a SHARED object removes its entry; what names no object of the
context traps OBJ_STATE, SIG as it was (log 15: the model's choice). -/
def Obligations.Objects : Prop :=
  ∀ (s : State) (g : Group) (f : ExtM),
    let b := bhOf s.cur
    let v := (g.rdS f.a).toNat
    let a := g.rdS f.a + f.w2.signExtend 64
    let quiet : Prop := fenceReady s g false
    let target : ObjState := if f.modm = 0 then .shared else if f.modm = 1 then .stable else .frozen
    let set (o : Obj) : Prop := ∃ (t : State) (h : Group), exec (.objset f) s = .next t ∧ t.group? s.cur = some h ∧
      passes s g h 0xB2 3 ∧ (t.bh b).objs = Table.set (s.bh b).objs v { o with st := target } ∧ keepsOthers g h [] [] ∧
      othersKept s t
    (ready s g (namedM 0xB1 f) → a.toNat % 64 ≠ 0 →
      exec (.objdecl f) s = retires s (withGroup s (g.wrS f.d 0x8000000000003000)) 0xB1 3) ∧
    (∀ ds s1 o, ready s g (namedM 0xB1 f) → (∀ q ∈ s.pends, q.gid = s.cur → q.acq = true → q.hold = true) →
      a.toNat % 64 = 0 → s.readRecord s.cur g (pcOf s g) 8 a = .dwords ds none s1 →
      objOfRecord ds g.asid (s1.gridNumber g) = some (o, .shared) →
      s1.objRefusal b (some ({ o with owner := s1.gridOwner g }, .shared)) = none →
      ∃ (t : State) (h : Group), exec (.objdecl f) s = .next t ∧ t.group? s.cur = some h ∧ passes s g h 0xB1 3 ∧
        (t.bh b).objs = Table.set (s1.bh b).objs (Table.freeFrom (s1.bh b).objs 4096 0) { o with owner := s1.gridOwner g } ∧
        h.rdS f.d = (g.wrS f.d (BitVec.ofNat 64 (Table.freeFrom (s1.bh b).objs 4096 0))).rdS f.d ∧ keepsOthers g h [f.d] [] ∧
        othersKept s t) ∧
    (∀ o, ready s g (namedM 0xB2 f) → v < 4096 → s.held? s.cur s.curSlot (pcOf s g) = none →
      Table.find (s.bh b).objs v = some o → o.asid = g.asid →
      o.st = target → quiet →
      ∃ (t : State) (h : Group), exec (.objset f) s = .next t ∧ t.group? s.cur = some h ∧ passes s g h 0xB2 3 ∧
        (t.bh b).objs = (s.bh b).objs ∧ keepsOthers g h [] [] ∧ othersKept s t) ∧
    (∀ o, ready s g (namedM 0xB2 f) → v < 4096 → s.held? s.cur s.curSlot (pcOf s g) = none →
      Table.find (s.bh b).objs v = some o → o.asid = g.asid → (o.st = .stable ∧ target = .frozen ∨ o.st = .frozen ∧ target = .stable) →
      quiet → set o) ∧
    (∀ o, ready s g (namedM 0xB2 f) → v < 4096 → s.held? s.cur s.curSlot (pcOf s g) = none →
      Table.find (s.bh b).objs v = some o → o.asid = g.asid → o.st = .shared → target ≠ .shared → s.filterCount b g.asid < 64 →
      quiet → (∀ m ∈ s.net, m.kind ≠ .grant ∧ (bhOfCore m.core = b → m.kind.access = false)) →
      (∀ c ∈ coresOf b, ∀ e ∈ (s.core c).l1, e.2.st ≠ .pend ∧ e.2.lazy = none) → set o) ∧
    (∀ p, ready s g (namedM 0xB2 f) → v < 4096 → heldDone s g p → exec (.objset f) s = retires s (s.dropPend p.id) 0xB2 3) ∧
    (∀ o, ready s g (namedM 0xB3 f) → v < 4096 → s.held? s.cur s.curSlot (pcOf s g) = none →
      Table.find (s.bh b).objs v = some o → o.asid = g.asid → o.st = .shared → quiet →
      ∃ (t : State) (h : Group), exec (.objrel f) s = .next t ∧ t.group? s.cur = some h ∧ passes s g h 0xB3 3 ∧
        (t.bh b).objs = Table.erase (s.bh b).objs v ∧ keepsOthers g h [] [] ∧ othersKept s t) ∧
    (ready s g (namedM 0xB3 f) → v < 4096 → s.held? s.cur s.curSlot (pcOf s g) = none →
      (∀ o, Table.find (s.bh b).objs v = some o → o.asid ≠ g.asid) →
      exec (.objrel f) s = .next (s.takeTrap s.cur s.curSlot (TrapInfo.of .objState)))

/-- R324, R325: `winmap` opens a free one of the team's 16 mirror windows, returns its number and raises e0, and that it takes the
lowest is the model's choice (log 144); `winsync.wb` and `winsync.fill` raise e0 for an open window, `winsync.close` closes it; a number
that names no open window traps OPERAND_RANGE, SIG as it was (log 15: the model's choice). -/
def Obligations.Mirror_windows : Prop :=
  ∀ (s : State) (g : Group) (t : Team) (f : ExtM), s.team? g.team = some t →
    let a := g.rdS f.a + f.w2.signExtend 64
    let c := g.rdS f.c
    let off := (c.extractLsb' 0 25).toNat
    let len := (c.extractLsb' 32 16).toNat
    let v := (g.rdS f.a).toNat
    let calm : Prop := ∀ q ∈ s.pends, q.gid = s.cur → q.acq = true → q.hold = true
    (∀ ps s1, ready s g (namedM 0xBC f) → c >>> 48 = 0 → c.extractLsb' 25 7 = 0 → len ≠ 0 → a.toNat % 128 = 0 →
      off % 512 = 0 → off + 512 * len ≤ t.spad →
      (∀ w ∈ t.windows, off + 512 * len ≤ w.2.offset ∨ w.2.offset + 512 * w.2.units ≤ off) → calm →
      canonical a = true → a.toNat + 512 * len ≤ 2 ^ 55 → s.rangePages g .load (pagesOf a.toNat (512 * len)) = (.ok ps, s1) →
      Table.freeFrom t.windows 16 0 < 16 → g.rdE 0 < 255 → relReady s1 g true false →
      ∃ (u : State) (h : Group) (t' : Team), exec (.winmap f) s = .next u ∧ u.group? s.cur = some h ∧ passes s g h 0xBC 3 ∧
        u.team? g.team = some t' ∧ (∃ w, Table.find t'.windows (Table.freeFrom t.windows 16 0) = some w ∧ w.va = a ∧
          w.offset = off ∧ w.units = len ∧ w.revoked = false) ∧ h.rdE 0 = g.rdE 0 + 1 ∧
        h.rdS f.d = (g.wrS f.d (BitVec.ofNat 64 (Table.freeFrom t.windows 16 0))).rdS f.d ∧ keepsOthers g h [f.d] []) ∧
    (∀ (w : Mirror) (ps : List (Nat × Nat)) (s1 : State) (toSpad : Bool), ready s g (namedM 0xBD f) → v < 16 → Table.find t.windows v = some w → w.revoked = false →
      g.rdE 0 < 255 → calm → canonical w.va = true → w.va.toNat + 512 * w.units ≤ 2 ^ 55 →
      s.rangePages g (if toSpad then .load else .store) (pagesOf w.va.toNat (512 * w.units)) = (.ok ps, s1) →
      relReady s1 g true false →
      ∃ (u : State) (h : Group), exec (if toSpad then .winsyncFill f else .winsyncWb f) s = .next u ∧
        u.group? s.cur = some h ∧ passes s g h 0xBD 3 ∧ h.rdE 0 = g.rdE 0 + 1 ∧ keepsOthers g h [] []) ∧
    (∀ w, ready s g (namedM 0xBD f) → v < 16 → Table.find t.windows v = some w →
      ∃ (u : State) (h : Group) (t' : Team), exec (.winsyncClose f) s = .next u ∧ u.group? s.cur = some h ∧
        passes s g h 0xBD 3 ∧ u.team? g.team = some t' ∧ Table.find t'.windows v = none ∧ h.rdE 0 = g.rdE 0 ∧
        keepsOthers g h [] []) ∧
    (ready s g (namedM 0xBD f) → Table.find t.windows v = none →
      exec (.winsyncClose f) s = .next (s.takeTrap s.cur s.curSlot (TrapInfo.of .operandRange)))

/-- R326, R66, R393: `tlbinv` at user privilege traps, and so does an address that is not canonical or a count of 2^32 or more; in
supervisor mode it begins a shootdown of its pages of the context and waits in its slot, and it retires when that is complete. That
a trap leaves SIG as it was is the model's choice (log 15). -/
def Sys2Proof.Claims.tlbInvalidate : Prop :=
  ∀ (s : State) (g : Group) (f : ExtM) (p : Pend), ready s g (namedM 0xBE f) →
    let a := g.rdS f.a + f.w2.signExtend 64
    let n := (g.rdS f.c).toNat
    (g.sup = false → exec (.tlbinv f) s = .next (s.takeTrap s.cur s.curSlot (TrapInfo.of .privilege))) ∧
    (g.sup = true → canonical a = false →
      ∃ ti : TrapInfo, ti.cause = .addrNoncanonical ∧ exec (.tlbinv f) s = .next (s.takeTrap s.cur s.curSlot ti)) ∧
    (g.sup = true → canonical a = true → 2 ^ 32 ≤ n →
      exec (.tlbinv f) s = .next (s.takeTrap s.cur s.curSlot (TrapInfo.of .operandRange))) ∧
    (g.sup = true → canonical a = true → n < 2 ^ 32 → s.held? s.cur s.curSlot (pcOf s g) = none →
      ∃ (t : State) (h : Group) (q : Pend), exec (.tlbinv f) s = .next t ∧ t.group? s.cur = some h ∧
        h.pc s.curSlot = g.pc s.curSlot ∧ t.held? s.cur s.curSlot (pcOf s g) = some q ∧ q.left = 1 ∧
        ∃ x ∈ t.shoots, x.pend = some q.id ∧ x.asid = some (s.tagOf g.asid) ∧ x.first = (a.extractLsb' 16 40).toNat ∧ x.count = n ∧
          x.revoke = (f.modm == 1)) ∧
    (g.sup = true → n < 2 ^ 32 → canonical a = true → heldDone s g p →
      exec (.tlbinv f) s = retires s (s.dropPend p.id) 0xBE 3)

/-- R62, R257, R327: `xlat` fills a translation register from the leaf of a global address; `xlatq` reports a
translation and changes nothing but s[D]; an address outside the global window traps ADDR_WINDOW at both; that the
trap leaves SIG as it was is the model's choice (log 15). R315: `pref` never traps for a translation: it changes no
register and no byte of memory whatever its lanes' pages are. R326, R66, R393: `tlbinv` at user privilege traps, and
so does an address that is not canonical or a count of 2^32 or more; in supervisor mode it begins a shootdown of its
pages of the context and waits in its slot, and it retires when that is complete. That a trap leaves SIG as it was is
the model's choice (log 15). -/
def Obligations.Translations : Prop :=
  Sys2Proof.Claims.translations ∧ Sys2Proof.Claims.prefetch ∧ Sys2Proof.Claims.tlbInvalidate

/-- R331, R364, R384: `atwait`, `cwait` and `qwait` retire when their watches have returned, as an acquire: the slot has
passed them, and `cwait` and `qwait` have changed no register. -/
def Sys2Proof.Claims.watchesReturn : Prop :=
  ∀ (s : State) (g : Group) (p : Pend),
    (∀ f : ExtM, ready s g (namedM 0xCF f) → heldDone s g p → exec (.atwait f) s = retires s (s.land p) 0xCF 3) ∧
    (∀ f : ExtA, ready s g (namedA 0xEB f) → heldDone s g p → exec (.cwait f) s = retires s (s.land p) 0xEB 3) ∧
    (∀ f : ExtA, ready s g (namedA 0xF8 f) → heldDone s g p → exec (.qwait f) s = retires s (s.land p) 0xF8 3) ∧
    (p.gid = s.cur → p.dest = .none → p.failed = false → p.acq = true → p.ge = none →
      (s.land p).group? s.cur = s.group? s.cur ∧ ∀ e ∈ ((s.land p).core (coreOf s.cur)).l1, e.2.st = .valid → e.2.tag ≠ none)

/-- R124, R126, R127, R138, R323: a release waits for the group's loads, stores and atomics and for its core's P
words; an acquire waits for its loads and drops the untagged V words of its core; a fence does both. None changes a
register or a byte of memory. R331, R364, R384: `atwait`, `cwait` and `qwait` retire when their watches have returned,
as an acquire: the slot has passed them, and `cwait` and `qwait` have changed no register. -/
def Obligations.Fences_and_watches : Prop :=
  Sys2Proof.Claims.fences ∧ Sys2Proof.Claims.watchesReturn

/-- R132, R236, R362, R363: the last group of a team to arrive at a barrier completes its episode and passes it; a group
whose episode is over passes `bar`, `barwt` and `gangsync`; `barar` records the episode of its arrival. -/
def Obligations.Barriers : Prop :=
  ∀ (s : State) (g : Group) (t : Team) (n : Nat), n ≤ 15 → g.two = false →
    let last (u : State) (op : Byte) (words : Nat) : Prop := ∃ (h : Group) (t' : Team), u.group? s.cur = some h ∧
      passes s g h op words ∧ u.team? g.team = some t' ∧ (t'.barrier n).episode = (t.barrier n).episode + 1 ∧
      (t'.barrier n).arrived = [] ∧ h.arrivedAt n = none ∧ keepsOthers g h [] []
    let beyond (u : State) (op : Byte) (words : Nat) : Prop := ∃ h : Group, u.group? s.cur = some h ∧ passes s g h op words ∧
      h.arrivedAt n = none ∧ keepsOthers g h [] []
    let recorded (u : State) (op : Byte) (words : Nat) : Prop := ∃ h : Group, u.group? s.cur = some h ∧
      passes s g h op words ∧ h.arrivedAt n = some (t.barrier n).episode ∧ keepsOthers g h [] []
    let notHeld : Prop := s.held? s.cur s.curSlot (pcOf s g) = none
    let w2 : Word := BitVec.ofNat 32 n
    (∀ f : ExtA, f.w2 = w2 → ready s g (namedA 0xE8 f) → notHeld → lastToArrive s g t n → relReady s g true false →
      ∃ u, exec (.barExt f) s = .next u ∧ last u 0xE8 3) ∧
    (∀ w : Word0, (g.rdS (w.b.setWidth 8)).toNat = n → ready s g (namedC 0xE8 w) → notHeld → lastToArrive s g t n →
      relReady s g true false → ∃ u, exec (.bar w) s = .next u ∧ last u 0xE8 1) ∧
    (∀ f : ExtA, f.w2 = w2 → ready s g (namedA 0xE9 f) → lastToArrive s g t n → relReady s g true false →
      ∃ u, exec (.bararExt f) s = .next u ∧ recorded u 0xE9 3) ∧
    (∀ w : Word0, (g.rdS (w.b.setWidth 8)).toNat = n → ready s g (namedC 0xE9 w) → lastToArrive s g t n →
      relReady s g true false → ∃ u, exec (.barar w) s = .next u ∧ recorded u 0xE9 1) ∧
    (∀ f : ExtA, f.w2 = w2 → ready s g (namedA 0xEA f) → barOver s g n → ∃ u, exec (.barwtExt f) s = .next u ∧ beyond u 0xEA 3) ∧
    (∀ w : Word0, (g.rdS (w.b.setWidth 8)).toNat = n → ready s g (namedC 0xEA w) → barOver s g n →
      ∃ u, exec (.barwt w) s = .next u ∧ beyond u 0xEA 1) ∧
    (∀ (f : ExtA) (p : Pend), f.w2 = w2 → ready s g (namedA 0xE8 f) → s.held? s.cur s.curSlot (pcOf s g) = some p →
      barOver s g n → ∃ u, exec (.barExt f) s = .next u ∧ beyond u 0xE8 3) ∧
    (∀ (f : ExtA) (p : Pend) (l : Nat × Team) (e : Nat), ready s g (namedA 0xFA f) →
      s.held? s.cur s.curSlot (pcOf s g) = some p → s.team? g.team = some t → s.gangLead t.gang = some l →
      g.gangArrived = some e → e < l.2.gangSync.episode →
      ∃ (u : State) (h : Group), exec (.gangsync f) s = .next u ∧ u.group? s.cur = some h ∧ passes s g h 0xFA 3 ∧
        h.gangArrived = none ∧ keepsOthers g h [] [])

namespace Sys2Proof.Claims

/-- The binding that an instruction's s[A] names, in its own bulkhead and not broken (R351). -/
def names (s : State) (g : Group) (v : DWord) (num : Nat) (b : Binding) : Prop :=
  v.toNat < 64 ∧ Table.find (s.ctx g.asid).spIds v.toNat = some (bhOf s.cur, num) ∧ s.binding? (bhOf s.cur) num = some b

/-- No record captured for a binding is outstanding, and nothing holds its settling up (R136, R355). -/
def settledNow (s : State) (g : Group) (num : Nat) (b : Binding) : Prop :=
  s.held? s.cur s.curSlot (pcOf s g) = none ∧ relReady s g true false ∧ b.paused = false ∧ b.wait = none ∧
    (s.flushCore (coreOf s.cur)).settledTo (bhOf s.cur) num ((s.flushCore (coreOf s.cur)).lastStamp (bhOf s.cur) num) b = true

/-- The queue of the current unit after an operation of `kind` was issued (R336): the operation stands last. -/
def issued (s t : State) (kind : MatKind) (ver : Option (BitVec 16)) : Prop :=
  ∃ o : MatOp, (t.unit s.here s.herePart).ops = (s.unit s.here s.herePart).ops ++ [o] ∧ o.kind = kind ∧ o.ver = ver ∧
    o.gid = s.cur ∧ o.slot = s.curSlot ∧ o.started = false

/-- A team of the group that has `n` tiles or more than `n` (R334). -/
def hasTile (s : State) (g : Group) (n : Nat) : Prop := ∃ t, s.team? g.team = some t ∧ n < t.acct

/-- A matrix operation that only its own operands condition: its opcode, its constructor, a condition, and the operation
that it issues. -/
structure MatRow where
  op : Byte
  ctor : ExtA → Instr
  ok : State → Group → ExtA → Prop
  kind : State → Group → ExtA → MatKind

/-- The version of R335 in IMM32. -/
def version (f : ExtA) : BitVec 16 := f.w2.extractLsb' 0 16

/-- The table of R344 and of `mwr` (R345). -/
noncomputable def matrixRows : List MatRow :=
  [{ op := 0xD5, ctor := .mzero, ok := fun s g f => hasTile s g f.d.toNat
     kind := fun _ g f => .fill f.d.toNat (if f.mod.getLsbD 0 then (g.rdS f.b).extractLsb' 0 32 else 0) },
   { op := 0xD9, ctor := .mscale, ok := fun s g f => hasTile s g f.d.toNat
     kind := fun _ g f => .scale f.d.toNat ((g.rdS f.b).extractLsb' 0 32) },
   { op := 0xE5, ctor := .maccadd, ok := fun s g f => hasTile s g f.d.toNat ∧ hasTile s g f.a.toNat
     kind := fun _ _ f => .accAdd f.d.toNat f.a.toNat (f.w2.extractLsb' 16 16) },
   { op := 0xD7, ctor := .mwr, ok := fun s g f => hasTile s g f.d.toNat ∧
       g.vecCheck [(((List.range 8).map fun i => f.a.toNat + i), f.fe.getLsbD 2)] [] = Ready.go
     kind := fun _ g f => .write f.d.toNat ((List.range 8).map fun i => (g.rdV (f.a.toNat + i)).lane) }]

/-- The multiply-accumulate instructions (R342, R343). -/
noncomputable def macRows : List (Byte × (ExtA → Instr)) := [(0xD1, .mmac), (0xD2, .mtri), (0xD3, .mlut), (0xD4, .mtern)]

/-- The number below which the operations on a pair were issued before its first release (R340). -/
def releaseAt (s : State) (u : MatUnit) (pair : Nat) : Nat := (u.freeing pair).getD s.nextId

/-- The class of leave that a multiply-accumulate needs (R167, R449). -/
def macClass (op : Byte) (slot stream : Nat) : Option Nat :=
  if op = 0xD3 ∨ op = 0xD4 then some 2
  else match classOfFc slot, classOfFc stream with
    | some x, some y => some (max x y)
    | some x, none => some x
    | none, y => y

/-- The team of a group holds leave for a class, where there is one (R167). -/
def mayRun (s : State) (g : Group) (cls : Option Nat) : Prop :=
  ∃ t, s.team? g.team = some t ∧ ∀ c, cls = some c → t.held.contains c = true

/-- The table of R373, R376, R378, R383, R385, R386: waits that are over, status reads and requests. -/
noncomputable def statusRows : List EffectRow :=
  let put (s : State) (g : Group) (f : ExtA) (v : DWord) : State := withGroup s (g.wrS f.d v)
  [{ op := 0xEC, compact := some .ecwait, ext := some .ecwaitExt, ok := fun _ f v g => v.toNat ≤ 255 ∧ g.rdE f.a.toNat ≤ v.toNat
     next := fun s _ _ _ => s.dropValid (coreOf s.cur) },
   { op := 0xFD, compact := some .park, ext := some .parkExt
     ok := fun s _ v g => s.held? s.cur s.curSlot (pcOf s g) = none ∧ v.toNat < 2 ^ 48 ∧ (s.inst g.asid (bhOf s.cur)).evqCount ≠ 0
     next := fun s _ _ _ => s },
   { op := 0xF5, ext := some .leave, next := fun s f _ g => s.askLeave g.team f.w2.toNat },
   { op := 0xF5, ext := some .leaveQ, next := fun s f _ g =>
       put s g f (if ∃ t, s.team? g.team = some t ∧ f.w2.toNat ∈ t.held then 1 else 0) },
   { op := 0xFB, ext := some .replay, next := fun s f _ g => put s g f (BitVec.ofNat 64 (8 * s.replayRate g
       + (if g.selected then 4 else 0) + (match g.run with
         | .original => 0
         | .replay => 1
         | .arbiter => 2))) },
   { op := 0xFC, ext := some .digest, next := fun s f _ g => put s g f g.digest },
   { op := 0xFE, ext := some .cutq, next := fun s f _ g =>
       let i := s.inst g.asid (bhOf s.cur)
       put s g f (BitVec.ofNat 64 ((if i.cutPending then 2 ^ 63 else 0) + (if i.cutDone then 2 ^ 62 else 0) + i.cutTarget.toNat)) },
   { op := 0xF7, ext := some .evget
     ok := fun s f _ g => (s.inst g.asid (bhOf s.cur)).evqCount = 0 ∧ f.mod.getLsbD 0 = false
     next := fun s f _ g => withGroup s ((((g.wrS f.d 0xFF00000000000000).wrS (f.d + 1) 0).wrS (f.d + 2) 0).wrS (f.d + 3) 0) },
   { op := 0xF3, ext := some .tquery, ok := fun _ f _ g => (g.rdS f.a).toNat < 2 ^ 32
     next := fun s f _ g =>
       let b := s.bh (bhOf s.cur)
       let v := (g.rdS f.a).toNat
       let age := (b.chorusSeq + 2 ^ 32 - v) % 2 ^ 32
       put s g f (match b.tenders.find? fun t => t.seq == v with
         | some t => if t.asid = g.asid ∧ age ≠ 0 ∧ age ≤ 256 then
             BitVec.ofNat 64 (t.st.code * 2 ^ 61 + t.winner * 2 ^ 48 + t.cost * 2 ^ 32 + t.wdrawn * 2 ^ 28)
           else 0xE000000000000000
         | none => 0xE000000000000000) }]

/-- A group with the four dwords of an event's record written into s[D] to s[D+3] (R382). -/
def eventIn (s : State) (g : Group) (f : ExtA) (slot : Nat) : Group :=
  [0, 1, 2, 3].foldl (fun h k => h.wrS (f.d + BitVec.ofNat 8 k) (BitVec.ofNat 64 (s.loadNow (slot + 8 * k) 8))) g

/-- A record of `n` dwords that the scalar pipe reads now, without poison (R259): its dwords, and the state after. -/
def record (s : State) (g : Group) (n : Nat) (a : DWord) (ds : List Nat) (s1 : State) : Prop :=
  (∀ q ∈ s.pends, q.gid = s.cur → q.acq = true → q.hold = true) ∧ s.readRecord s.cur g (pcOf s g) n a = .dwords ds none s1

/-- What instructions with a record leave: the slot has passed them, and only `ds` and `vs` may have changed. -/
def completes (s : State) (g : Group) (i : Instr) (op : Byte) (ds : List Byte) (vs : List Nat) (p : State → Group → Prop) : Prop :=
  ∃ (t : State) (h : Group), exec i s = .next t ∧ t.group? s.cur = some h ∧ passes s g h op 3 ∧ keepsOthers g h ds vs ∧
    othersKept s t ∧ p t h

end Sys2Proof.Claims

/-- R335, R336, R344, R345: a matrix instruction that names tiles of its team raises e1 and puts its operation at the end of
its unit's queue, under its version; one that names a tile beyond the team's traps ACC_RANGE, SIG as it was (log 15: the model's
choice). -/
def Sys2Proof.Claims.matrixIssue : Prop :=
  (∀ r ∈ matrixRows, ∀ (s : State) (g : Group) (f : ExtA), ready s g (namedA r.op f) → r.ok s g f → g.rdE 1 < 255 →
    completes s g (r.ctor f) r.op [] [] fun t h => h.rdE 1 = g.rdE 1 + 1 ∧ issued s t (r.kind s g f) (some (version f))) ∧
  (∀ (s : State) (g : Group) (f : ExtA), ready s g (namedA 0xD5 f) → ¬ hasTile s g f.d.toNat →
    exec (.mzero f) s = .next (s.takeTrap s.cur s.curSlot (TrapInfo.of .accRange)))

/-- R339, R342, R343: `mwld` claims a free pair and issues its load; a multiply-accumulate whose stream is set and whose slot
is latched in a format that goes with it issues, as a release, when its team holds the leave that its formats need. -/
def Sys2Proof.Claims.matrixLoadAndAccumulate : Prop :=
  ∀ (s : State) (g : Group) (f : ExtA),
    let c := g.rdS f.c
    let h := g.rdH f.a.toNat
    let hs := g.rdH f.b.toNat
    let sc := f.mod.getLsbD 0
    let lut := f.mod.toNat / 2 % 4
    let u := s.unit s.here s.herePart
    let calm : Prop := ∀ q ∈ s.pends, q.gid = s.cur → q.acq = true → q.hold = true
    (ready s g (namedA 0xD0 f) → calm → relReady s g true false → g.rdE 1 < 255 → c >>> 48 = 0 → c.extractLsb' 0 5 = 0 →
      slotAccepts f.d.toNat h.fc.toNat lut sc = true → h.baseOk = true → (sc = true → hs.fc = 19 ∧ hs.baseOk = true) →
      (u.claim (f.d.toNat / 2) = none ∨ u.claim (f.d.toNat / 2) = some g.team) →
      completes s g (.mwld f) 0xD0 [] [] fun t k => k.rdE 1 = g.rdE 1 + 1 ∧
        (t.unit s.here s.herePart).claim (f.d.toNat / 2) = some g.team ∧
        ∃ o ∈ (t.unit s.here s.herePart).ops, o.gid = s.cur ∧ o.kind = .load f.d.toNat h (if sc then some hs else none) lut
          (c.extractLsb' 0 24).toNat (c.extractLsb' 24 24).toNat) ∧
    (∀ r ∈ macRows, ∀ (st : Stream) (fc lt : Nat) (scl : Bool), ready s g (namedA r.1 f) → calm → relReady s g true false →
      g.rdE 1 < 255 → hasTile s g f.d.toNat → c >>> 48 = 0 → c.extractLsb' 24 5 = 0 → g.streams[f.a.toNat % 4]? = some (some st) →
      u.latched s g.team f.b.toNat = some (fc, lt, scl) → pairOk r.1.toNat fc lt st.shape.fc.toNat = true →
      mayRun s g (macClass r.1 fc st.shape.fc.toNat) →
      completes s g (r.2 f) r.1 [] [] fun t k => k.rdE 1 = g.rdE 1 + 1 ∧
        issued s t (.mac r.1 f.d.toNat f.b.toNat st sc (c.extractLsb' 0 24).toNat (c.extractLsb' 24 24).toNat lut
          (f.w2.extractLsb' 16 16).toInt) (some (version f)))

/-- R335, R336, R344, R345: a matrix instruction that names tiles of its team raises e1 and puts its operation at the
end of its unit's queue, under its version; one that names a tile beyond the team's traps ACC_RANGE, SIG as it was
(log 15: the model's choice). R339, R342, R343: `mwld` claims a free pair and issues its load; a multiply-accumulate
whose stream is set and whose slot is latched in a format that goes with it issues, as a release, when its team holds
the leave that its formats need. -/
def Obligations.Matrix_instructions : Prop :=
  Sys2Proof.Claims.matrixIssue ∧ Sys2Proof.Claims.matrixLoadAndAccumulate

/-- R340, R341, R345 to R347: `mrd` issues its read and makes its registers wait; `mver` returns a version and `mver.set`
writes one when nothing is pending on the tile; `mstream` copies a shape; `mwrel` frees a pair with no operation of its team
pending, and marks one with such an operation released from there on (log 122: the model's reading); `mfmt` reports a claim; `mbar` and `mpeek` retire when what they wait for has come. -/
def Obligations.Matrix_state : Prop :=
  ∀ (s : State) (g : Group) (f : ExtA),
    let u := s.unit s.here s.herePart
    (ready s g (namedA 0xD6 f) → hasTile s g f.a.toNat → g.rdE 1 < 255 →
      g.vecCheck [] ((List.range (if f.ty = 10 then 8 else 4)).map fun i => f.d.toNat + i) = Ready.go →
      ∃ (t : State) (h : Group), exec (.mrd f) s = .next t ∧ t.group? s.cur = some h ∧ passes s g h 0xD6 3 ∧
        h.rdE 1 = g.rdE 1 + 1 ∧ h.s = g.s ∧ h.k = g.k ∧ h.ovf = g.ovf ∧
        (∀ i < (if f.ty = 10 then 8 else 4), (h.rdV (f.d.toNat + i)).full = false)) ∧
    (∀ t, ready s g (namedA 0xD8 f) → s.team? g.team = some t → f.a.toNat < t.acct →
      exec (.mver f) s = retires s (withGroup s (g.wrS f.d ((t.tile s.here s.herePart f.a.toNat).version.setWidth 64))) 0xD8 3) ∧
    (∀ t, ready s g (namedA 0xD8 f) → s.team? g.team = some t → f.a.toNat < t.acct →
      s.tileBusy s.here s.herePart g.team f.a.toNat = false →
      ∃ (v : State) (t' : Team), exec (.mverSet f) s = .next v ∧ v.team? g.team = some t' ∧
        (t'.tile s.here s.herePart f.a.toNat).version = (g.rdS f.b).extractLsb' 0 16 ∧
        (t'.tile s.here s.herePart f.a.toNat).data = (t.tile s.here s.herePart f.a.toNat).data) ∧
    (ready s g (namedA 0xDA f) → streamAccepts (g.rdH f.a.toNat).fc.toNat (f.mod.getLsbD 0) = true →
      (f.mod.getLsbD 0 = true → (g.rdH f.b.toNat).fc = 19) →
      ∃ h : Group, exec (.mstream f) s = retires s (withGroup s h) 0xDA 3 ∧
        h.streams[f.d.toNat % 4]? = some (some { shape := g.rdH f.a.toNat
                                                 scales := if f.mod.getLsbD 0 then some (g.rdH f.b.toNat) else none }) ∧
        h = { g with streams := h.streams }) ∧
    (∀ n, ready s g (namedA 0xDB f) → u.claim (f.w2.toNat % 2) = some g.team → releaseAt s u (f.w2.toNat % 2) = n →
      ∃ (t : State) (h : Group), exec (.mwrel f) s = .next t ∧ t.group? s.cur = some h ∧ passes s g h 0xDB 3 ∧
        keepsOthers g h [] [] ∧
        (t.unit s.here s.herePart).claim (f.w2.toNat % 2) =
          (if s.pairBusy u g.team (f.w2.toNat % 2) n = true then some g.team else none) ∧
        (s.pairBusy u g.team (f.w2.toNat % 2) n = true → (t.unit s.here s.herePart).freeing (f.w2.toNat % 2) = some n) ∧
        (t.unit s.here s.herePart).claim (1 - f.w2.toNat % 2) = u.claim (1 - f.w2.toNat % 2)) ∧
    (ready s g (namedA 0xDB f) → u.claim (f.w2.toNat % 2) ≠ some g.team → exec (.mwrel f) s = retires s s 0xDB 3) ∧
    (ready s g (namedA 0xE7 f) → (∀ o ∈ u.ops, o.gid ≠ s.cur) → Table.find u.slots (f.w2.toNat % 4) = none →
      exec (.mfmt f) s = retires s (withGroup s (g.wrS f.d (BitVec.ofNat 64
        ((if u.claim (f.w2.toNat % 4 / 2) = none then 0 else 2 ^ 63)
          + (if u.claim (f.w2.toNat % 4 / 2) = some g.team then 2 ^ 62 else 0))))) 0xE7 3) ∧
    (∀ p, ready s g (namedA 0xE6 f) → heldDone s g p →
      ∃ h : Group, exec (.mpeek f) s = retires s (withGroup (s.dropPend p.id) h) 0xE6 3 ∧
        h = g.wrS f.d ((p.values.lane 0) &&& 0xFFFFFFFF)) ∧
    (∀ p, ready s g (namedA 0xE4 f) → (s.tryMbar g.team s.here s.herePart).held? s.cur s.curSlot (pcOf s g) = some p →
      p.left = 0 → (s.tryMbar g.team s.here s.herePart).inMbar s.cur (!s.curSlot) = false → ∃ (t : State) (h : Group), exec (.mbar f) s = .next t ∧ t.group? s.cur = some h ∧ passes s g h 0xE4 3 ∧
        keepsOthers g h [] [] ∧ othersKept s t)

/-- R351, R355 to R360: on a binding of the context, `spquery` returns its state word, `sppause` and `spresume` stop and
restart the application of its records, `spsettle` passes when its records are applied, `spunbind` of a broken binding
removes it, and `spsnap` raises e1; an id that names no binding traps SP_ID, and one above 63 OPERAND_RANGE, SIG as it was (log 15:
the model's choice). -/
def Sys2Proof.Claims.bindings : Prop :=
  ∀ (s : State) (g : Group) (f : ExtA) (num : Nat) (b : Binding),
    let bh := bhOf s.cur
    let v := g.rdS f.a
    (ready s g (namedA 0xDF f) → names s g v num b → b.broken = false →
      exec (.spquery f) s = retires s (withGroup s (g.wrS f.d (s.spState bh num b))) 0xDF 3) ∧
    (ready s g (namedA 0xE1 f) → names s g v num b → b.broken = false →
      completes s g (.sppause f) 0xE1 [] [] fun t _ => t.binding? bh num = some { b with paused := true }) ∧
    (ready s g (namedA 0xE2 f) → names s g v num b → b.broken = false →
      completes s g (.spresume f) 0xE2 [] [] fun t _ => t.binding? bh num = some { b with paused := false }) ∧
    (ready s g (namedA 0xDE f) → names s g v num b → b.broken = false → settledNow s g num b → b.refreshDue = false →
      completes s g (.spsettle f) 0xDE [] [] fun t _ => t.binding? bh num = some b) ∧
    (ready s g (namedA 0xDD f) → names s g v num b → b.broken = true →
      ∃ (t : State) (h : Group), exec (.spunbind f) s = .next t ∧ t.group? s.cur = some h ∧ passes s g h 0xDD 3 ∧
        keepsOthers g h [] [] ∧ t.binding? bh num = none ∧ (s.snapping bh num = false → othersKept s t)) ∧
    (ready s g (namedA 0xE3 f) → names s g v num b → b.broken = false → b.snapOk (g.rdH f.b.toNat) = true → g.rdE 1 < 255 →
      (b.refreshDue = false ∨ b.policy ≠ 2) → relReady s g true false → completes s g (.spsnap f) 0xE3 [] [] fun _ h => h.rdE 1 = g.rdE 1 + 1) ∧
    (ready s g (namedA 0xDF f) → 64 ≤ v.toNat →
      exec (.spquery f) s = .next (s.takeTrap s.cur s.curSlot (TrapInfo.of .operandRange))) ∧
    (ready s g (namedA 0xDF f) → v.toNat < 64 → Table.find (s.ctx g.asid).spIds v.toNat = none →
      exec (.spquery f) s = .next (s.takeTrap s.cur s.curSlot (TrapInfo.of .spId)))

/-- R349, R350, R357: `spbind` of a misaligned record, or of one with a form that R349 refuses, returns FORM in s[D] and makes no
binding, and one that a later check refuses returns that check's code; one that nothing refuses makes a binding of its shapes under a
new id, which s[D] holds, with two standing objects and C refreshed unless it is broken; `sprefresh` of a settled binding whose C can
be written recomputes C_s and C, sets the binding's counts and flags to zero and returns the drift. -/
def Sys2Proof.Claims.bindAndRefresh : Prop :=
  ∀ (s : State) (g : Group) (f : ExtA),
    let bh := bhOf s.cur
    let a := g.rdS f.a + f.w2.signExtend 64
    (ready s g (namedA 0xDC f) → a.toNat % 128 ≠ 0 → exec (.spbind f) s = retires s (withGroup s (g.wrS f.d (spFail 3))) 0xDC 3) ∧
    (∀ ds s1, ready s g (namedA 0xDC f) → a.toNat % 128 = 0 → record s g 16 a ds s1 → bindRec ds = none →
      exec (.spbind f) s = retires s (s1.modGroup s.cur fun h => h.wrS f.d (spFail 3)) 0xDC 3) ∧
    (∀ ds s1 r frames s2 c, ready s g (namedA 0xDC f) → a.toNat % 128 = 0 → record s g 16 a ds s1 → bindRec ds = some r →
      s1.bindPages s.cur g r.pages = (.ok frames, s2) → s2.bindRefusal bh g.asid r frames = some c →
      exec (.spbind f) s = retires s (s2.modGroup s.cur fun h => h.wrS f.d (spFail c)) 0xDC 3) ∧
    (∀ ds s1 r frames s2 id num s4, ready s g (namedA 0xDC f) → a.toNat % 128 = 0 → record s g 16 a ds s1 → bindRec ds = some r →
      s1.bindPages s.cur g r.pages = (.ok frames, s2) → s2.bindRefusal bh g.asid r frames = none →
      relReady s2 g true false → (s2.flushCore (coreOf s.cur)).granting bh = false →
      (s2.flushCore (coreOf s.cur)).makeBinding g r frames = some (id, num, s4) →
      ∃ (t : State) (h : Group) (b : Binding), exec (.spbind f) s = .next t ∧ t.group? s.cur = some h ∧ passes s g h 0xDC 3 ∧
        keepsOthers g h [f.d] [] ∧ t.binding? bh num = some b ∧ Table.find (t.ctx g.asid).spIds id = some (bh, num) ∧
        b.sha = r.a ∧ b.shb = r.b ∧ b.shc = r.c ∧ b.policy = r.policy ∧ b.budget = r.budget ∧ b.asid = g.asid ∧ b.id = id ∧
        b.paused = false ∧ b.log = [] ∧ (b.broken = false → b.cS = b.refreshAll) ∧
        (t.bh bh).standsFor b.objA num = true ∧ (t.bh bh).standsFor b.objB num = true ∧
        h.rdS f.d = (g.wrS f.d (BitVec.ofNat 64 (id + if b.broken = true then 2 ^ 62 else 0))).rdS f.d) ∧
    (∀ num b s1, ready s g (namedA 0xE0 f) → names s g (g.rdS f.a) num b → b.broken = false → mayRun s g (some 4) →
      settledNow s g num b → (s.flushCore (coreOf s.cur)).writeC bh b.refreshed b.refreshed.cells = .done none s1 →
      ∃ (t : State) (h : Group), exec (.sprefresh f) s = .next t ∧ t.group? s.cur = some h ∧ passes s g h 0xE0 3 ∧
        h.rdS f.d = (g.wrS f.d (BitVec.ofNat 64 b.drift)).rdS f.d ∧ keepsOthers g h [f.d] [] ∧
        t.binding? bh num = some { b with
          cS := b.refreshAll, cnt := [], applied := 0, nv := false, ofl := false, budgetHit := false, refreshDue := false
          leaveAsked := false, leaveHeld := false, refused := false } ∧
        ∀ x < 2 ^ 39, t.byteNow x = s1.byteNow x)

/-- R351, R355 to R360: on a binding of the context, `spquery` returns its state word, `sppause` and `spresume` stop
and restart the application of its records, `spsettle` passes when its records are applied, `spunbind` of a broken
binding removes it, and `spsnap` raises e1; an id that names no binding traps SP_ID, and one above 63 OPERAND_RANGE,
SIG as it was (log 15: the model's choice). R349, R350, R357: `spbind` of a misaligned record, or of one with a form
that R349 refuses, returns FORM in s[D] and makes no binding, and one that a later check refuses returns that check's
code; one that nothing refuses makes a binding of its shapes under a new id, which s[D] holds, with two standing
objects and C refreshed unless it is broken; `sprefresh` of a settled binding whose C can be written recomputes C_s
and C, sets the binding's counts and flags to zero and returns the drift. -/
def Obligations.Standing_products : Prop :=
  Sys2Proof.Claims.bindings ∧ Sys2Proof.Claims.bindAndRefresh

/-- R134, R376, R378, R380, R382, R383, R385, R386: waits that are over pass, and status reads write s[D]; `evget`, with `.wait`
or without, moves the oldest record of a ring that has one into s[D] to s[D+3]. -/
def Obligations.Status_rows : Prop :=
  (∀ r ∈ statusRows, effectCompletes r) ∧
  ∀ (s : State) (g : Group) (f : ExtA),
    let i := s.inst g.asid (bhOf s.cur)
    let slot := i.evqFrame * 2 ^ 16 + 32 * i.evqGet
    ready s g (namedA 0xF7 f) → i.evqCount ≠ 0 → dpaPopulated slot = true →
      completes s g (.evget f) 0xF7 [f.d, f.d + 1, f.d + 2, f.d + 3] [] fun t h =>
        (∀ k < 4, h.rdS (f.d + BitVec.ofNat 8 k) = (eventIn s g f slot).rdS (f.d + BitVec.ofNat 8 k)) ∧
        (t.inst g.asid (bhOf s.cur)).evqCount = i.evqCount - 1 ∧ (t.inst g.asid (bhOf s.cur)).evqGet = (i.evqGet + 1) % 4096

/-- R367, R369: `kick` of n records raises e0 by n and `coll` raises e3, as releases; the requests, each with its record's address, its
engine's class and what its group is, stand in order at the end of the list. -/
def Obligations.Engine_requests : Prop :=
  ∀ (s : State) (g : Group) (f : ExtA), (g.rdS f.a).toNat % 64 = 0 → relReady s g true false →
    let handed (r : EngReq) (cls : Nat) (k : EngKind) : Prop :=
      r.cls = cls ∧ r.kind = k ∧ r.bh = bhOf s.cur ∧ r.asid = g.asid ∧ r.gid = some s.cur ∧ r.slot = s.curSlot ∧ r.pc = pcOf s g ∧
        r.supervisor = g.sup ∧ r.finished = false ∧ r.cause = none ∧ r.wait = none
    (ready s g (namedA 0xED f) → g.rdE 0 + f.w2.toNat ≤ 255 →
      completes s g (.kick f) 0xED [] [] fun t h => h.rdE 0 = g.rdE 0 + f.w2.toNat ∧ ∃ rs : List EngReq,
        t.engines = s.engines ++ rs ∧ rs.length = f.w2.toNat ∧
        ∀ i r, rs[i]? = some r → handed r 0 (.copy (g.rdS f.a + BitVec.ofNat 64 (64 * i)) none 0 0 0)) ∧
    (ready s g (namedA 0xEE f) → g.rdE 3 < 255 → s.fullRate g (g.rdS f.a) = false →
      completes s g (.coll f) 0xEE [] [] fun t h => h.rdE 3 = g.rdE 3 + 1 ∧ ∃ r,
        t.engines = s.engines ++ [r] ∧ handed r 3 (.coll (g.rdS f.a) none []))

/-- R372, R373, R374, R377, R382, R384: the instructions that hand a record to the device complete as releases: `amsg` puts its
message last in the target core's inbox, a reply to the token of a message marks it answered and sends s[B] to its sender, one to a token that no message has
changes nothing, `tender` takes the next
sequence number, `bidld` stores its class, `launch` returns what the queue answered, `evpost` returns 1 when it posted
nothing, as the model reads R382 (log 66), and 0 when it did, and `qsig` completes. -/
def Obligations.Handed_records : Prop :=
  ∀ (s : State) (g : Group) (f : ExtA),
    let a := g.rdS f.a
    let bh := bhOf s.cur
    (∀ ds s1 m, ready s g (namedA 0xEF f) → f.mod.getLsbD 0 = true → a.toNat % 64 = 0 → record s g 8 a ds s1 →
      messageRec ds = some m → relReady s1 g true false →
      completes s g (.amsg f) 0xEF [] [] fun t _ => ∃ id,
        (t.core (24 * bh + m.2.2.1)).inbox = (s1.core (24 * bh + m.2.2.1)).inbox ++ [id] ∧ (Table.find t.messages id).isSome) ∧
    (ready s g (namedA 0xF0 f) → relReady s g true false → (∀ m ∈ s.messages, a ≠ 0 → m.2.token ≠ a) →
      completes s g (.amreply f) 0xF0 [] [] fun t _ => t.messages = s.messages) ∧
    (∀ id m, ready s g (namedA 0xF0 f) → relReady s g true false → a ≠ 0 → m.token = a →
      s.messages.find? (fun x => a != 0 && x.2.token == a) = some (id, m) → Table.find s.messages id = some m → m.answered = false →
      completes s g (.amreply f) 0xF0 [] [] fun t _ => Table.find t.messages id = some { m with answered := true } ∧
        ∀ p, m.pend = some p → ∃ r ∈ t.net, r.kind = .amReply ∧ r.gid = some m.sender ∧ r.pend = some p ∧ r.data = g.rdS f.b) ∧
    (∀ ds s1, ready s g (namedA 0xF1 f) → (g.rdS f.b).toNat < 2 ^ 24 → a.toNat % 32 = 0 → record s g 4 a ds s1 →
      ((s.bh bh).tenders.filter fun t => t.st == .waiting).length < 64 → relReady s1 g true false →
      completes s g (.tender f) 0xF1 [f.d] [] fun t h => h.rdS f.d = (g.wrS f.d (BitVec.ofNat 64 (s1.bh bh).chorusSeq)).rdS f.d ∧
        (t.bh bh).chorusSeq = ((s1.bh bh).chorusSeq + 1) % 2 ^ 32) ∧
    (∀ ds s1 c, ready s g (namedA 0xF2 f) → g.sup = true → a.toNat % 32 = 0 → record s g 4 a ds s1 → classRec ds = some c →
      completes s g (.bidld f) 0xF2 [] [] fun t _ => Table.find (t.bh bh).classes f.w2.toNat = some c) ∧
    (∀ ds s1 s2, ready s g (namedA 0xF4 f) → a.toNat % 64 = 0 → record s g 8 a ds s1 → relReady s1 g true false →
      s2 = s1.flushCore (coreOf s.cur) →
      ∃ (t : State) (h : Group), exec (.launch f) s = .next t ∧ t.group? s.cur = some h ∧ passes s g h 0xF4 3 ∧
        h.rdS f.d = (g.wrS f.d (launchResult
          ((s2.engTake bh niCopy (s2.core (coreOf s.cur)).lcc).acceptLaunch g.asid bh f.w2.toNat false ds).1)).rdS f.d ∧
        keepsOthers g h [f.d] []) ∧
    (ready s g (namedA 0xF6 f) → relReady s g true false →
      ((s.inst g.asid bh).evqEn = false ∨ (s.inst g.asid bh).evqCount = 4096) →
      completes s g (.evpost f) 0xF6 [f.d] [] fun _ h => h.rdS f.d = (g.wrS f.d 1).rdS f.d) ∧
    (ready s g (namedA 0xF6 f) → relReady s g true false → (s.inst g.asid bh).evqEn = true →
      (s.inst g.asid bh).evqCount < 4096 →
      completes s g (.evpost f) 0xF6 [f.d] [] fun t h => h.rdS f.d = (g.wrS f.d 0).rdS f.d ∧
        (t.inst g.asid bh).evqCount = (s.inst g.asid bh).evqCount + 1 ∧
        (t.inst g.asid bh).evqPut = ((s.inst g.asid bh).evqPut + 1) % 4096) ∧
    (∀ p s1, ready s g (namedA 0xF9 f) → (∀ q ∈ s.pends, q.gid = s.cur → q.acq = true → q.hold = true) →
      s.resolvePipe s.cur g .globalOnly .atomic true a 8 = (.ok p, s1) → relReady s1 g true false →
      completes s g (.qsig f) 0xF9 [] [] fun t _ => ∀ b, ¬ covers [(0, p)] b → t.byteNow b = s1.byteNow b)

/-- R164, R251, R252: at user privilege `ctxsw` and `finj` take the privilege cause; `ctxsw` switches those of the cores it names that
hold a frozen context where none of the cores that must switch with it is quarantined or in an eviction or a restore, and all on which
a gang of theirs lies, and no other core of the bulkhead; it returns the mask of the cores switched, and traps OPERAND_RANGE where
bits 63:24 are not zero; of no core it switches none and returns 0; that a core which is pulled in with one context then issues nothing
is the model's choice (log 135), and so is that a trap leaves SIG as it was (log 15);
`finj 0` inverts a bit of what SIG next takes, `finj 2` adds to the core's suspicion, and `finj 1` poisons a word. -/
def Obligations.Switch_and_inject : Prop :=
  ∀ (s : State) (g : Group) (f : ExtA),
    (ready s g (namedA 0x1D f) → g.sup = false → exec (.ctxsw f) s = .next (s.takeTrap s.cur s.curSlot (TrapInfo.of .privilege))) ∧
    (ready s g (namedA 0x1D f) → g.sup = true → g.rdS f.a = 0 →
      exec (.ctxsw f) s = retires s (withGroup s (g.wrS f.d 0)) 0x1D 3) ∧
    (ready s g (namedA 0x1D f) → g.sup = true → (g.rdS f.a).extractLsb' 24 40 = 0 →
      completes s g (.ctxsw f) 0x1D [f.d] [] fun t h =>
        ∃ m : DWord, h.rdS f.d = (g.wrS f.d m).rdS f.d ∧ m.extractLsb' 24 40 = 0 ∧
          (∀ i < 24, m.getLsbD i = true ↔ 24 * bhOf s.cur + i ∈ s.switchedWith (((List.range 24).filter fun k =>
            (g.rdS f.a).getLsbD k && s.switchable (24 * bhOf s.cur + k)).map fun k => 24 * bhOf s.cur + k)) ∧
          ∀ i < 24, (t.core (24 * bhOf s.cur + i)).switchedIn =
            if m.getLsbD i = true then (s.core (24 * bhOf s.cur + i)).switch.switchedIn
            else (s.core (24 * bhOf s.cur + i)).switchedIn) ∧
    (ready s g (namedA 0x1D f) → g.sup = true → (g.rdS f.a).extractLsb' 24 40 ≠ 0 →
      exec (.ctxsw f) s = .next (s.takeTrap s.cur s.curSlot (TrapInfo.of .operandRange))) ∧
    (ready s g [f.a.toNat] → g.sup = false → exec (.finj f) s = .next (s.takeTrap s.cur s.curSlot (TrapInfo.of .privilege))) ∧
    (ready s g [f.a.toNat] → g.sup = true → f.w2 = 0 →
      ∃ (t : State) (h : Group), exec (.finj f) s = .next t ∧ t.group? s.cur = some h ∧ passes s g h 0x1E 3 ∧
        (h.pc s.curSlot).flip = true ∧ keepsOthers g h [] []) ∧
    (ready s g [f.a.toNat] → g.sup = true → f.w2 = 2 →
      exec (.finj f) s = retires s (s.suspect (coreOf s.cur) ((g.rdS f.a).toNat % 256)) 0x1E 3) ∧
    (∀ dpa va nc priv s1, ready s g [f.a.toNat] → g.sup = true → f.w2 = 1 →
      s.resolvePipe s.cur g .globalOnly .store false (g.rdS f.a) 1 = (.ok [(0, 1, .mem dpa va nc priv)], s1) →
      windowOf (g.rdS f.a) = .global → s1.gateCheck (bhOf s.cur) (dpa / 2 ^ 16) 2 = none →
      exec (.finj f) s = retires s (s1.poisonWord (dpa / 4)) 0x1E 3)

namespace Sys2Proof.Claims

/-- What a step of the device answers: a next state. -/
def goes (i : Instr) (s t : State) : Prop := exec i s = .next t

/-- What a step of the device answers, with what holds of the state after it. -/
def reaches (i : Instr) (s : State) (p : State → Prop) : Prop := ∃ t, exec i s = .next t ∧ p t

/-- A step of the memory system: its constructor by the number of its message, the messages that it takes, and what it
does with one. -/
structure MsgRow where
  ctor : Nat → Instr
  takes : MsgKind → Bool
  effect : State → Msg → State

/-- The rows whose step takes a message (R39, R89, R93, R102, R139, R311, R331, R373). -/
noncomputable def msgRows : List MsgRow :=
  let served : State → Msg → State := fun s m => s.serve m
  [{ ctor := .siLoadRequest, takes := fun k => k == .siLoad || k == .ncLoad, effect := served },
   { ctor := .ownLoadRequest, takes := fun k => k == .ownLoad, effect := served },
   { ctor := .registration, takes := fun k => k == .ownStore || k == .ownAtomic, effect := served },
   { ctor := .writeThrough, takes := fun k => k == .wtStore || k == .ncStore, effect := served },
   { ctor := .ncAtomic, takes := fun k => k == .ncAtomic, effect := served },
   { ctor := .scOperation, takes := fun k => k == .scLoad || k == .scStore || k == .scAtomic, effect := served },
   { ctor := .gatherLane, takes := fun k => k == .gatherLoad || k == .scatterStore, effect := fun s m =>
       if s.worksFor (bhOfCore m.core) (m.gid.getD 0) then s.serve m else s },
   { ctor := .watchArrival, takes := MsgKind.isWatch, effect := served },
   { ctor := .grant, takes := fun k => k == .grant, effect := fun s m => s.landWhenFirst m State.landGrant },
   { ctor := .revocation, takes := fun k => k == .revoke, effect := fun s m => s.revoke m },
   { ctor := .forwardedRead, takes := fun k => k == .forward, effect := fun s m => s.forward m },
   { ctor := .fill, takes := fun k => k == .fill, effect := fun s m => s.landWhenFirst m State.landFill },
   { ctor := .writeThroughAck, takes := fun k => k == .ack, effect := fun s m => s.landWhenFirst m State.landAck },
   { ctor := .watchRetry, takes := MsgKind.isRetry, effect := fun s m =>
       if m.due ≤ s.clock then s.setMsg { m with kind := m.origin } else s },
   { ctor := .gateRequest, takes := MsgKind.request, effect := fun s m =>
       if m.passed then s
       else match s.gateSide (!m.left) (bhOfCore m.core) (m.dpa / 2 ^ 16) m.origin.need with
         | none => s.setMsg (if m.left then { m with passed := true } else { m with left := true })
         | some c => s.refuseMsg m c }]

/-- No object covers the bytes of a message, and they lie in populated HBM. -/
def plainBytes (s : State) (m : Msg) : Prop :=
  s.objOf m.who m.dpa = none ∧ dpaPopulated m.dpa = true ∧ m.dpa + m.size ≤ 2 ^ 39

/-- The home slice itself may serve a message now, whose words the sender's own L1 has not come to own. -/
def admitted (s : State) (m : Msg) : Prop :=
  m.target = none ∧ m.gen = s.genOf m.dpa ∧ s.mayServe m = true ∧ s.ownsAll m.core m.dpa m.size = false

/-- The home slice itself may serve a message now, and no other core owns a word of it. -/
def servable (s : State) (m : Msg) : Prop := admitted s m ∧ s.foreignOwned m.core m.dpa m.size = []

/-- No grant is on its way. A revocation of a word whose grant is on its way also performs the operation that asked for it
(R90, R130). -/
def noGrants (s : State) : Prop := ∀ m ∈ s.net, m.kind ≠ .grant

end Sys2Proof.Claims

/-- R39, R89, R93, R102, R139, R311, R331: each step of the memory system takes the message that it names, where that is of
its kind, and does nothing where it is not. The reply of an active message and an object invalidation land so too. -/
def Sys2Proof.Claims.messageSteps : Prop :=
  (∀ r ∈ msgRows, ∀ (s : State) (id : Nat),
    (∀ m, s.msg? id = some m → r.takes m.kind = true → goes (r.ctor id) s (r.effect s m)) ∧
    ((∀ m, s.msg? id = some m → r.takes m.kind = false) → goes (r.ctor id) s s)) ∧
  (∀ (s : State) (id : Nat) (m : Msg) (o v : Nat), s.msg? id = some m → m.kind = .objInval o v →
    reaches (.objectInvalidation id) s fun t => t.home = s.home ∧ t.owners = s.owners) ∧
  (∀ (s : State) (id : Nat) (m : Msg), s.msg? id = some m → m.kind = .amReply →
    reaches (.amReplyLanding id) s fun t => t.msg? id = none ∧ t.home = s.home)

/-- R93, R96, R111, R112: a request whose region has a new generation is held and sent again with it; one of a quiesced region is
held; one for a word that another core owns asks the owner, which returns the word where the request takes it, and its value
where it only reads; a load that is served is answered with the current value and changes no byte; a write-through store that
is served changes the bytes that it covers, to its own, and no others. -/
def Sys2Proof.Claims.homeSliceService : Prop :=
  ∀ (s : State) (m : Msg),
    (s.ownsAll m.core m.dpa m.size = false → m.gen ≠ s.genOf m.dpa →
      s.serve m = s.setMsg { m with held := true, gen := s.genOf m.dpa, target := none }) ∧
    (s.ownsAll m.core m.dpa m.size = false → m.gen = s.genOf m.dpa → s.quiesced m.dpa = true →
      s.serve m = s.setMsg { m with held := true }) ∧
    (admitted s m → s.foreignOwned m.core m.dpa m.size ≠ [] →
      let s1 := s.lcsTake m.dpa m.counter
      s.serve m = s1.setMsg { m with kind := if s1.takesOwner m then .revoke else .forward } ∧
        s1.owners = s.owners ∧ s1.cores = s.cores ∧ ∀ a < 2 ^ 39, s1.byteNow a = s.byteNow a) ∧
    (∀ id, s.msg? id = some m → m.kind = .siLoad ∨ m.kind = .ncLoad → m.origin = m.kind → servable s m → plainBytes s m →
      ∃ (t : State) (r : Msg), exec (.siLoadRequest id) s = .next t ∧ t.msg? id = some r ∧ r.kind = .fill ∧
        r.data = BitVec.ofNat 64 (s.loadNow m.dpa m.size) ∧ ∀ a < 2 ^ 39, t.byteNow a = s.byteNow a) ∧
    (∀ id, s.msg? id = some m → m.kind = .wtStore → m.origin = .wtStore → servable s m → plainBytes s m → noGrants s →
      ∃ (t : State) (r : Msg), exec (.writeThrough id) s = .next t ∧ t.msg? id = some r ∧ r.kind = .ack ∧
        ∀ a < 2 ^ 39, t.byteNow a =
          if m.dpa ≤ a ∧ a < m.dpa + m.size then m.data.toNat / 2 ^ (8 * (a - m.dpa)) % 256 else s.byteNow a)

/-- R39, R89, R93, R102, R139, R311, R331: each step of the memory system takes the message that it names, where that
is of its kind, and does nothing where it is not. The reply of an active message and an object invalidation land so
too. R93, R96, R111, R112: a request whose region has a new generation is held and sent again with it; one of a
quiesced region is held; one for a word that another core owns asks the owner, which returns the word where the
request takes it, and its value where it only reads; a load that is served is answered with the current value and
changes no byte; a write-through store that is served changes the bytes that it covers, to its own, and no others. -/
def Obligations.Home_slices : Prop :=
  Sys2Proof.Claims.messageSteps ∧ Sys2Proof.Claims.homeSliceService

/-- R89, R107, R109 to R111, R117, R144: evictions, the drain of ABSMAX, interleave selectors, quiescing and ranged
write-backs. That a write of L2_WBCMD or of its COUNT while a write-back runs is ignored is the model's reading (log 53). -/
def Obligations.Cache_maintenance : Prop :=
  ∀ (s : State) (b : Nat) (v : DWord),
    (∀ core line, reaches (.l1LineEviction core line) s fun t => ∀ w ∈ wordsOfLine line, ∀ x, t.l1 core w = some x → x.st ≠ .valid) ∧
    (∀ line, (s.line line).pins ≠ [] ∨ s.quiet (128 * line) 128 = false → goes (.l2LineEviction line) s s) ∧
    (∀ line, (s.line line).pins = [] → s.quiet (128 * line) 128 = true → goes (.l2LineEviction line) s
      { s.writeBackLine line with lines := Table.erase (s.writeBackLine line).lines line }) ∧
    (∀ gid g x rest, s.group? gid = some g → g.absQueue = x :: rest →
      goes (.absmaxDrain gid) s (s.setGroup gid { g with
        absmax := if g.absmax.toNat < x.toNat then x else g.absmax, absQueue := rest })) ∧
    ((∀ r ∈ changedRegions (s.bh b).hmask v, selectorOk (selector v r) = true ∧ (s.bh b).qReg.getLsbD r = true) →
      reaches (.hmaskWrite b v) s fun t => (t.bh b).hmask = v ∧ (t.bh b).qReg = (s.bh b).qReg ∧ (∀ a < 2 ^ 39, t.byteNow a = s.byteNow a) ∧
        (t.bh b).gen = bumpGen (s.bh b).gen (changedRegions (s.bh b).hmask v)) ∧
    (∀ r ∈ changedRegions (s.bh b).hmask v, (selectorOk (selector v r) = false ∨ (s.bh b).qReg.getLsbD r = false) →
      reaches (.hmaskWrite b v) s fun t => t.bh b = { s.bh b with qRefused := true }) ∧
    (reaches (.l2QuiesceWrite b v) s fun t => (t.bh b).qReg = v.extractLsb' 0 8 ∧ (t.bh b).qRefused = false ∧
      (t.bh b).hmask = (s.bh b).hmask) ∧
    ((s.bh b).qBusy = false → goes (.quiesceComplete b) s s) ∧
    ((s.bh b).qBusy = true → (s.bh b).capturesSent = true → s.acceptedDone b = true →
      reaches (.quiesceComplete b) s fun t => (t.bh b).qBusy = false) ∧
    ((s.bh b).wbGo = false → reaches (.l2Wbcmd b 1 v) s fun t => t.bh b = { s.bh b with wbCount := (v.extractLsb' 0 20).toNat }) ∧
    (∀ word, (s.bh b).wbGo = true → goes (.l2Wbcmd b word v) s s) ∧
    ((s.bh b).wbGo = false → v.getLsbD 63 = true →
      reaches (.l2Wbcmd b 0 v) s fun t => (t.bh b).wbGo = !(t.bh b).wbErr ∧ (t.bh b).wbDrop = v.getLsbD 62 ∧
        (t.bh b).wbFrame = (v.extractLsb' 0 23).toNat) ∧
    ((s.bh b).wbGo = false → goes (.writebackComplete b) s s) ∧
    ((s.bh b).wbGo = true → noGrants s →
      reaches (.writebackComplete b) s fun t => (t.bh b).wbGo = false)

namespace Sys2Proof.Claims

/-- Entry `n` of eight. -/
def entry8 (v : Vector DWord 8) (n : Nat) : DWord := v[n % 8]'(Nat.mod_lt _ (by decide))

/-- A valid TNT_SHAPE value that R37 accepts in entry `n`: its bulkheads are aligned and exist, and no other valid entry has
its TID or one of them. -/
def shapeFits (s : State) (n : Nat) (v : DWord) : Prop :=
  let size := 2 ^ (v.extractLsb' 4 2).toNat
  let base := (v.extractLsb' 0 3).toNat
  base % size = 0 ∧ base + size ≤ 8 ∧ ∀ k < 8, k ≠ n → (entry8 s.tntShape k).getLsbD 63 = true →
    (entry8 s.tntShape k).extractLsb' 32 16 ≠ v.extractLsb' 32 16 ∧
      ∀ b ∈ shapeBulkheads (entry8 s.tntShape k), b < base ∨ base + size ≤ b

/-- What an entry of a page table leaves of a group: all registers but its translations (R66) and PT_STAT. -/
def keepsButTrans (g h : Group) : Prop :=
  h.s = g.s ∧ (∀ n < 272, h.rdReg n = g.rdReg n) ∧ h.k = g.k ∧ h.x = g.x ∧ h.h = g.h ∧ h.ovf = g.ovf ∧ h.ptVa = g.ptVa ∧
    h.ptOld = g.ptOld ∧ h.ptNew = g.ptNew ∧ h.slot0 = g.slot0 ∧ h.slot1 = g.slot1

/-- A value clamped to a range (R44, R172, R419). -/
def clamped (lo hi n : Nat) : Nat := max lo (min hi n)

end Sys2Proof.Claims

/-- R36 to R38, R44, R116, R142, R172, R380, R381, R414, R417, R420, R449: what a write of each device register leaves: the
entry with its defined bits, the nearer bound of a range, or the entry unchanged with an error bit where its rules refuse
the value. -/
def Obligations.Device_registers : Prop :=
  ∀ (s : State) (b n : Nat) (v : DWord),
    let shape := v &&& 0x8000FFFF00000037
    let fab := v &&& 0xFFFF83FF03FF0000
    let mc := v &&& 0x800003FF001FFFFF
    (n < 8 → (shape.getLsbD 63 = true → shapeFits s n shape) →
      goes (.tntShapeWrite n v) s { s with tntShape := putEntry s.tntShape n shape }) ∧
    (n < 8 → shape.getLsbD 63 = true → ¬ shapeFits s n shape → goes (.tntShapeWrite n v) s { s with tntErr := s.tntErr ||| 1 }) ∧
    (goes (.tntFabWrite n v) s (if (fab.extractLsb' 32 10).toNat < (fab.extractLsb' 16 10).toNat then
      { s with tntErr := s.tntErr ||| 1 } else { s with tntFab := putEntry s.tntFab n fab })) ∧
    (∀ k, goes (.mcSetWrite n k v) s (if mc.getLsbD 63 = true ∧ s.mcOk (n % 8) mc = false then { s with tntErr := s.tntErr ||| 2 }
      else { s with mcSet := Table.set s.mcSet (64 * (n % 8) + k % 64) mc })) ∧
    (∀ k word (ingress : Bool),
      let at0 := entry8 (if ingress then (s.bh b).ing0 else (s.bh b).egr0) k
      let at1 := entry8 (if ingress then (s.bh b).ing1 else (s.bh b).egr1) k
      let new0 := if word = 0 then v &&& 0xBF000000007FFFFF else at0
      let new1 := if word = 0 then at1 else v &&& 0x7FFFFF
      (new0.getLsbD 63 = true ∧ gateEntryForm b ingress new0 new1 = false →
        goes (.gateEntryWrite b ingress k word v) s (s.modBh b fun x => { x with gateErr := true })) ∧
      (new0.getLsbD 63 = false ∨ gateEntryForm b ingress new0 new1 = true →
        reaches (.gateEntryWrite b ingress k word v) s fun t =>
          entry8 (if ingress then (t.bh b).ing0 else (t.bh b).egr0) k = new0 ∧
          entry8 (if ingress then (t.bh b).ing1 else (t.bh b).egr1) k = new1 ∧ (t.bh b).gateErr = (s.bh b).gateErr)) ∧
    (∀ r, goes (.registerWrite r v) s (s.writeReg r v)) ∧
    ((s.writeReg (.bhWdog b) v).bh b).wdogPeriod = clamped 1000 60000000 (v.extractLsb' 0 32).toNat ∧
    ((s.writeReg (.l2Pinmax b) v).bh b).pinMax = min (v.extractLsb' 0 15).toNat 20480 ∧
    ((s.writeReg (.chorusWin b) v).bh b).chorusWin = clamped 16 1024 (v.extractLsb' 0 11).toNat ∧
    ((s.writeReg (.chorusWdlim b) v).bh b).chorusWdlim = clamped 1 15 (v.extractLsb' 0 4).toNat ∧
    (s.writeReg .fabRetrainBudget v).retrainBudget = clamped 10 1000000 (v.extractLsb' 0 32).toNat ∧
    (s.bootStage ≠ .tadpole → (s.writeReg .fabCfg v).fabCfg = v &&& 0x80000000000003FF) ∧
    (s.bootStage = .tadpole → s.writeReg .fabCfg v = s) ∧
    ((s.bh b).down = false → goes (.watchdogKick b) s (s.modBh b fun x => { x with wdogSince := s.clock })) ∧
    ((s.bh b).down = true → goes (.watchdogKick b) s s) ∧
    (∀ asid, let w := v &&& 0x80000000007FFFFF
      goes (.ctxEvqWrite b asid v) s (((s.evqReads b w).writeEvq asid b w).getD (s.evqReads b w))) ∧
    (let k := ((v.extractLsb' 0 12).toNat + 4096 - s.sevqGet) % 4096
     goes (.sevqGetWrite v) s (if k ≤ s.sevqCount then
      { s with sevqGet := (v.extractLsb' 0 12).toNat, sevqCount := s.sevqCount - k, sevqLost := 0 } else s)) ∧
    (reaches (.suspScoreWrite n v) s fun t => (t.core n).suspScore = (v.extractLsb' 0 8).toNat ∧
      ((t.core n).quarantined = true ↔ (s.core n).suspLimit ≤ (v.extractLsb' 0 8).toNat)) ∧
    (reaches (.suspLimitWrite n v) s fun t => (t.core n).suspLimit = (v.extractLsb' 0 8).toNat ∧
      ((v.extractLsb' 0 8).toNat ≤ (s.core n).suspScore → (t.core n).quarantined = true)) ∧
    (reaches (.bhPwrWrite b v) s fun t => (t.bh b).pwrBudget =
      min (2400 - ((s.bhs.filter fun x => x.1 != b).map fun x => x.2.pwrBudget).sum) (clamped 100 300 (v.extractLsb' 0 16).toNat))

/-- R59, R60, R66 to R68, R72: the commands of the frame table, of the frame pool and of the page tables, shootdowns, and the
hand-off of a trap. A command that its rules refuse changes nothing but its status, and the record of a descriptor read that
leaves populated memory; a PT_CMD that succeeds writes its entry and no other byte of HBM, and starts a shootdown where the
entry was valid. That a root outside populated HBM gives NOTABLE is the model's choice (log 104), and so are the result of a
frame that is not populated (log 120), that a write of TLB_SHOOT word 0 while a shootdown runs is dropped, with GO (log 9) and
without (log 118), and that an instruction that traps and is issued again has not fed SIG (log 15). -/
def Obligations.Translation_commands : Prop :=
  ∀ (s : State) (g : Group), s.current = some g →
    let answer (t : State) (d st : Nat) : State := t.modGroup s.cur fun g =>
      { g with fdResult := BitVec.ofNat 64 (setBits (setBits d 47 39 0) 41 39 st) }
    (∀ f : BitVec 23, framePopulated f.toNat = true →
      let d := s.fd f.toNat
      let r := s.fdRead f.toNat
      (dpaPopulated (s.fdAddr f.toNat) = true → r = s) ∧
      goes (.fdRead f) s (answer r d 0) ∧
      (fdSt d = 1 → fdRef d ≠ 0xFFFF → goes (.fdInc f) s (answer (r.setFd f.toNat (d + 1)) (d + 1) 0)) ∧
      (fdSt d = 1 → fdRef d = 0xFFFF → goes (.fdInc f) s (answer r d 1)) ∧
      (fdSt d ≠ 1 → goes (.fdInc f) s (answer r d 4) ∧ goes (.fdDec f) s (answer r d 4)) ∧
      (fdSt d = 1 → fdRef d = 0 → goes (.fdDec f) s (answer r d 2)) ∧
      (fdSt d = 1 → 1 < fdRef d → goes (.fdDec f) s (answer (r.setFd f.toNat (d - 1)) (d - 1) 0)) ∧
      (fdSt d = 1 → fdRef d = 1 →
        goes (.fdDec f) s (answer (r.freeFrame f.toNat (d - 1) false).2 (r.freeFrame f.toNat (d - 1) false).1 0)) ∧
      ∀ zf, (fdSt d = 1 → fdRef d = 0 →
          goes (.fdFree f zf) s (answer (r.freeFrame f.toNat d zf).2 (r.freeFrame f.toNat d zf).1 0)) ∧
        (fdSt d ≠ 1 ∨ fdRef d ≠ 0 → goes (.fdFree f zf) s (answer r d 3))) ∧
    (∀ f : BitVec 23, framePopulated f.toNat = false →
      goes (.fdRead f) s (answer s 0 5) ∧ goes (.fdInc f) s (answer s 0 5) ∧ goes (.fdDec f) s (answer s 0 5) ∧
        ∀ zf, goes (.fdFree f zf) s (answer s 0 5)) ∧
    (∀ d : Byte, (s.bh (bhOf s.cur)).poolCount = 0 → goes (.fpPop d) s (withGroup s (g.wrS d 0x8000000000000000))) ∧
    (∀ d : Byte, (s.bh (bhOf s.cur)).poolCount ≠ 0 → (s.bh (bhOf s.cur)).poolHead ≠ 0x7FFFFF →
      reaches (.fpPop d) s fun t => (t.bh (bhOf s.cur)).poolCount = (s.bh (bhOf s.cur)).poolCount - 1 ∧
        (t.bh (bhOf s.cur)).poolHead = fdLink (s.fd (s.bh (bhOf s.cur)).poolHead)) ∧
    (∀ v : DWord, v.extractLsb' 0 2 = 3 → goes (.ptCmd v) s (withGroup s { g with ptStat := 3 })) ∧
    (∀ v : DWord, v.extractLsb' 0 2 ≠ 3 → g.ptVa.extractLsb' 55 9 = 0 → tableOk (s.ctx g.asid).root = false →
      goes (.ptCmd v) s (withGroup s { g with ptStat := 2 })) ∧
    (∀ v : DWord, v.extractLsb' 0 2 ≠ 3 → g.ptVa.extractLsb' 55 9 ≠ 0 → goes (.ptCmd v) s (withGroup s { g with ptStat := 4 })) ∧
    (∀ v : DWord, v.extractLsb' 0 2 ≠ 3 → g.ptVa.extractLsb' 55 9 = 0 → tableOk (s.ctx g.asid).root = true →
      s.entryAt g.ptVa.toNat (v.extractLsb' 0 2).toNat 4 (s.ctx g.asid).root = none →
      goes (.ptCmd v) s (withGroup s { g with ptStat := 2 })) ∧
    (∀ (v : DWord) (a : Nat), v.extractLsb' 0 2 ≠ 3 → g.ptVa.extractLsb' 55 9 = 0 → tableOk (s.ctx g.asid).root = true →
      s.entryAt g.ptVa.toNat (v.extractLsb' 0 2).toNat 4 (s.ctx g.asid).root = some a →
      let r := s.entryRead g.ptNew.toNat (v.extractLsb' 0 2).toNat
      (s.entryOk g.ptNew.toNat (v.extractLsb' 0 2).toNat = false → goes (.ptCmd v) s (withGroup r { g with ptStat := 3 })) ∧
      (s.entryOk g.ptNew.toNat (v.extractLsb' 0 2).toNat = true → sameEntry (BitVec.ofNat 64 (s.loadNow a 8)) g.ptOld = false →
        goes (.ptCmd v) s (withGroup r { g with ptStat := 1, ptOld := BitVec.ofNat 64 (s.loadNow a 8) })) ∧
      (s.entryOk g.ptNew.toNat (v.extractLsb' 0 2).toNat = true → sameEntry (BitVec.ofNat 64 (s.loadNow a 8)) g.ptOld = true →
        dpaPopulated a = true → a + 8 ≤ 2 ^ 39 → noGrants s →
        reaches (.ptCmd v) s fun t => (∃ h, t.group? s.cur = some h ∧ h.ptStat = 0 ∧ keepsButTrans g h) ∧
          (∀ b < 2 ^ 39, t.byteNow b =
            if a ≤ b ∧ b < a + 8 then g.ptNew.toNat / 2 ^ (8 * (b - a)) % 256 else s.byteNow b) ∧
          ((BitVec.ofNat 64 (s.loadNow a 8)).getLsbD 63 = false → t.shoots = s.shoots) ∧
          ((BitVec.ofNat 64 (s.loadNow a 8)).getLsbD 63 = true → ∃ x, t.shoots = s.shoots ++ [x] ∧
            x.gid = some s.cur ∧ x.asid = some (s.tagOf g.asid) ∧ x.count = 1024 ^ (v.extractLsb' 0 2).toNat ∧
            x.first = g.ptVa.toNat / 65536 / x.count * x.count))) ∧
    (∀ v : DWord, goes (.tlbShoot 1 v) s { s with shoot1 := v &&& 0xFFFFFFFF } ∧
      (s.shootGo = true → goes (.tlbShoot 0 v) s s) ∧
      (s.shootGo = false → v.getLsbD 63 = false → goes (.tlbShoot 0 v) s { s with shoot0 := v &&& 0x60FFFFFFFFFFFFFF }) ∧
      (s.shootGo = false → v.getLsbD 63 = true → reaches (.tlbShoot 0 v) s fun t => t.shootGo = true ∧
        t.shoot0 = v &&& 0x60FFFFFFFFFFFFFF ∧ ∃ x ∈ t.shoots, x.first = (v.extractLsb' 0 40).toNat ∧
          x.count = (s.shoot1.extractLsb' 0 32).toNat ∧
          ∀ c ∈ t.caches, (∀ e ∈ c.2.leaves, e.inRange x.asid x.first x.count = false) ∧
            ∀ e ∈ c.2.tables, e.inRange x.asid x.first x.count = false)) ∧
    (∀ id x, s.shoots.find? (fun y => y.id == id) = some x → s.shootReady x = true →
      goes (.shootdownComplete id) s (s.finishShoot x)) ∧
    (∀ id x, s.shoots.find? (fun y => y.id == id) = some x → s.shootReady x = false → goes (.shootdownComplete id) s s) ∧
    (∀ v, g.hnd = true → goes (.ftHandoff v) s (s.handOff s.cur v) ∧
      ∀ t, exec (.ftHandoff v) s = .next t → ∃ h, t.group? s.cur = some h ∧ h.hnd = false ∧ h.handoff = some (v.extractLsb' 0 7)) ∧
    (∀ v, g.hnd = false → goes (.ftHandoff v) s (s.takeTrap s.cur s.curSlot (TrapInfo.of .sysregValue)))

/-- R42 to R48, R426, R445: what starts a reset of a bulkhead, with its cause, and its phases in their order, the self-test last;
a reset that runs is not begun again, and a function's request asks for none in tadpole mode. That a request while one runs is
dropped with its cause is the model's choice (log 79). -/
def Obligations.Bulkhead_resets : Prop :=
  ∀ (s : State) (b : Nat) (x : Bulkhead), Table.find s.bhs b = some x →
    let begun (cause : BitVec 4) (t : State) : Prop :=
      t.bh b = { x with rstPhase := .fence, rstCause := cause, rstCount := min (x.rstCount + 1) 0xFFFF } ∧
        t.groups = s.groups ∧ t.home = s.home ∧
        ∀ c y, c ≠ b → Table.find s.bhs c = some y → (t.bh c).rstPhase = y.rstPhase ∧ ∀ k < 8,
          entry8 (t.bh c).egr0 k = if ((entry8 y.egr0 k).extractLsb' 59 3).toNat = b then
            entry8 y.egr0 k ||| 0x4000000000000000 else entry8 y.egr0 k
    let starts : List (Instr × BitVec 4) := [(.railFault b, 2), (.pllLockLoss b, 3), (.sliceGateFault b, 5)]
    (∀ c : BitVec 4, c.toNat < 6 → x.rstPhase = .idle → reaches (.bulkheadReset b c) s (begun c)) ∧
    (∀ c : BitVec 4, x.rstPhase ≠ .idle ∨ 6 ≤ c.toNat → goes (.bulkheadReset b c) s s) ∧
    (∀ i ∈ starts, (x.rstPhase = .idle → reaches i.1 s (begun i.2)) ∧ (x.rstPhase ≠ .idle → goes i.1 s s)) ∧
    (x.wdogEn = true → x.wdogSince + 2000 * x.wdogPeriod ≤ s.clock → x.rstPhase = .idle →
      reaches (.watchdogExpiry b) s (begun 4)) ∧
    (x.wdogEn = false ∨ s.clock < x.wdogSince + 2000 * x.wdogPeriod → goes (.watchdogExpiry b) s s) ∧
    (x.rstPhase = .fence → reaches (.resetSettle b) s fun t => (t.bh b).rstPhase = .settle) ∧
    (x.rstPhase ≠ .fence → goes (.resetSettle b) s s) ∧
    (x.rstPhase = .settle → reaches (.logicReset b) s fun t => ∀ e ∈ t.groups, bhOf e.1 ≠ b) ∧
    (x.rstPhase ≠ .settle → goes (.logicReset b) s s) ∧
    (x.rstPhase = .logic → reaches (.pllRelock b) s fun t => t.bh b = { x with rstPhase := .clock, opp := 0 }) ∧
    (x.rstPhase = .clock → reaches (.memoryReinit b) s fun t => t.bh b = { x with rstPhase := .memory } ∧ t.hbm = s.hbm) ∧
    (x.rstPhase = .memory → (s.beginSelfTest b).bh b = { x with rstPhase := .selfTest }) ∧
    (x.rstPhase ≠ .memory → ∀ y, Table.find (s.beginSelfTest b).bhs b = some y → y = x) ∧
    (∀ failed us, x.rstPhase = .selfTest → reaches (.selfTest b failed us) s fun t => (t.bh b).rstPhase = .idle ∧
      (t.bh b).rstLastUs = us ∧ ∀ i < 24, failed.getLsbD i = true → (t.core (24 * b + i)).quarantined = true) ∧
    (∀ failed us, x.rstPhase ≠ .selfTest → goes (.selfTest b failed us) s s) ∧
    (∀ n v, s.bootStage = .tadpole → goes (.vfBhreset n v) s s) ∧
    (∀ n v, s.bootStage ≠ .tadpole → n < 8 → b < 8 → v.getLsbD b = true → b ∉ s.tenantShape n →
      reaches (.vfBhreset n v) s fun t => (entry8 t.vfReset n).getLsbD 62 = true ∧ (t.bh b).rstPhase = x.rstPhase) ∧
    (∀ n v, s.bootStage ≠ .tadpole → n < 8 → b < 8 → v.getLsbD b = true → v.getLsbD 63 = true → b ∈ s.tenantShape n →
      x.rstPhase = .idle →
      reaches (.vfBhreset n v) s fun t => (entry8 t.vfReset n).getLsbD 63 = true ∧ (t.bh b).rstPhase = .fence ∧
        (t.bh b).rstCause = 1)

/-- R443 to R448, R450: the stages of a start and what stops one, the copy of the molt record, function-level resets, which enter
tadpole mode again where no COMMIT has verified, the recovery mailbox of tadpole mode, whose commands leave BUSY and are ignored
while it is 1, TADREQ and SPDM. That a device reset keeps what log 32 names, and that a mailbox command has its effect at once
with BUSY ended by a step of its own (log 81), are the model's choices. -/
def Obligations.Starts_and_recovery : Prop :=
  ∀ (s : State) (v : DWord) (data : List Byte),
    let op := (v.extractLsb' 56 8).toNat
    let form : Prop := v.extractLsb' 32 24 = 0 ∧ v.extractLsb' 0 12 = 0
    let refused (t : State) : Prop := t.mbxBusy = true ∧ t.mbxCode = 1 ∧ t.mbxReason = 0 ∧ t.nvme = s.nvme ∧ t.mbxOpen = s.mbxOpen
    let tad : Prop := s.bootStage = .tadpole ∧ s.mbxBusy = false
    reaches .powerOn s (fun t => t.bootFails = min (s.bootFails + 1) 15 ∧ t.groups = [] ∧ t.agenda = s.agenda) ∧
    goes .functionLevelReset s (s.deviceReset.start s.recovering) ∧
    (s.bootStage = .tadpole → s.tadDone = false → reaches .functionLevelReset s fun t => t.bootStage = .tadpole) ∧
    (s.bootStage = .tadpole → s.tadDone = true → s.tadReq = false → s.bootFails < Config.bootLimit →
      reaches .functionLevelReset s fun t => t.bootStage = .verify) ∧
    (s.bootStage = .verify → (∀ r, s.verify = some r → goes .imageVerify s (s.failStart r)) ∧
      (s.verify = none → goes .imageVerify s { s with bootStage := .ronuri })) ∧
    (s.bootStage ≠ .verify → goes .imageVerify s s) ∧
    (∀ ws, (s.bootStage = .ronuri → goes (.ronuriStart ws) s
        { ws.foldl (fun s w => s.writeReg w.1 w.2)
          { s with nvme := Memory.putBytes s.nvme moltCopy (Memory.bytes s.home 0x020000700000 0x12000) } with bootStage := .bulkheads }) ∧
      (s.bootStage ≠ .ronuri → goes (.ronuriStart ws) s s)) ∧
    (s.bootStage = .bulkheads → reaches .bulkheadBringup s fun t => t.bootStage = .host ∨ t.bootStage = .off ∧ t.bootReason = 7) ∧
    (s.bootStage ≠ .bulkheads → goes .bulkheadBringup s s) ∧
    goes .hostStage s (if s.bootStage = .host then { s with endpointUp := true, bootStage := .running } else s) ∧
    goes (.bootOkWrite v) s (if v.getLsbD 62 = true ∧ s.bootStage = .running then
      { s with bootOk := true, bootFails := 0 } else s) ∧
    goes .bootTimeout s (if s.bootStage ≠ .off ∧ s.bootStage ≠ .tadpole ∧ s.bootOk = false ∧ 10000000000 ≤ s.clock then
      (s.failStart 6).deviceReset else s) ∧
    (s.bootStage ≠ .tadpole → goes (.mbxWrite v data) s s) ∧
    (s.bootStage = .tadpole → s.mbxBusy = true → reaches (.mbxWrite v data) s fun t => t = { s with mbxData := t.mbxData }) ∧
    (¬ tad → goes (.mbxBegin v) s s ∧ goes (.mbxCommit v) s s ∧ goes (.mbxAbort v) s s) ∧
    (tad → op = 0 ∨ 4 < op → reaches (.mbxBegin v) s refused ∧ reaches (.mbxCommit v) s refused ∧ reaches (.mbxAbort v) s refused) ∧
    (tad → op = 1 → form → s.mbxOpen = false → reaches (.mbxBegin v) s fun t => t.mbxBusy = true ∧ t.mbxOpen = true ∧
      t.mbxCode = 0) ∧
    (tad → op = 1 → s.mbxOpen = true → reaches (.mbxBegin v) s refused) ∧
    (tad → op = 2 → form → s.mbxOpen = true → reaches (.mbxWrite v data) s fun t => t.mbxBusy = true ∧ t.mbxOpen = true ∧
      if s.nvmeFails then t.mbxCode = 2 ∧ t.nvme = s.nvme else t.mbxCode = 0 ∧
        t.nvme = Memory.putBytes s.nvme (4096 * (v.extractLsb' 12 20).toNat) ((data ++ List.replicate 4096 0).take 4096)) ∧
    (tad → op = 2 → s.mbxOpen = false → reaches (.mbxWrite v data) s refused) ∧
    (tad → op = 3 → form → s.mbxOpen = true → s.verify = none →
      reaches (.mbxCommit v) s fun t => t.mbxBusy = true ∧ t.mbxOpen = false ∧ t.mbxCode = 0 ∧ t.bootFails = 0 ∧ t.bootReason = 0 ∧
        t.tadDone = true) ∧
    (tad → op = 3 → form → s.mbxOpen = true → s.verify = some 1 →
      reaches (.mbxCommit v) s fun t => t.mbxBusy = true ∧ t.mbxOpen = false ∧ t.mbxCode = 2 ∧
        t.bootFails = s.bootFails ∧ t.tadDone = s.tadDone) ∧
    (∀ r, tad → op = 3 → form → s.mbxOpen = true → s.verify = some r → r ≠ 1 →
      reaches (.mbxCommit v) s fun t => t.mbxBusy = true ∧ t.mbxOpen = false ∧ t.mbxCode = 3 ∧ t.mbxReason = r ∧ t.bootReason = r ∧
        t.bootFails = s.bootFails ∧ t.tadDone = s.tadDone) ∧
    (tad → op = 4 → form → reaches (.mbxAbort v) s fun t => t.mbxBusy = true ∧ t.mbxOpen = false ∧ t.mbxCode = 0 ∧ t.nvme = s.nvme) ∧
    goes (.tadreq v) s (if v.getLsbD 0 = true ∧ s.bootStage ≠ .tadpole then { s with tadReq := true, bootReason := 8 } else s) ∧
    ∀ i, reaches (.spdmRequest i) s fun t => t = { s with spdmLast := t.spdmLast }

namespace Sys2Proof.Claims

/-- The groups and the registers of a state are as they were. -/
def keepsGroups (s t : State) : Prop := t.groups = s.groups ∧ t.teams = s.teams

/-- One answer more has gone to a peer: its device, its cause, its value and whether that is poisoned (R41, R417, R423). -/
def answers (s t : State) (device : Nat) (c : Option Cause) (v : Nat) (p : Bool) : Prop :=
  ∃ x : PeerReply, t.peerReplies = s.peerReplies ++ [x] ∧ x.device = device ∧ x.cause = c ∧ x.value = BitVec.ofNat 64 v ∧
    x.poison = p

/-- The mapping that an access of a virtual function's host meets: none where its tenant has no valid shape (R36, log 106). -/
def hostMaps (s : State) (vf offset n : Nat) : Option (Nat × Nat) :=
  if (entry8 s.tntShape vf).getLsbD 63 = true then s.mapped vf offset n else none

/-- No launch of a virtual function's queue waits for the plex. -/
def noKeptLaunch (s : State) (vf q : Nat) : Prop := ∀ r ∈ s.outside, r.vf = some vf → ∀ b, r.kind ≠ .launch b q

/-- The result word of a launch, as the rules of the launch register give it (R376, R377): bit 63 with the cause, or the
number. -/
def refusedWord (c : Cause) : DWord := BitVec.ofNat 64 (2 ^ 63 + c.code.toNat * 2 ^ 48)

end Sys2Proof.Claims

/-- R26, R41, R96, R142, R377, R416 to R423: a request of a peer outside the exported domain is refused with FABRIC_DEVICE and
changes nothing; one that is accepted is performed and answered with its value, poisoned where that is, or its cause; a posted
write is acknowledged once its peer's link is up and the fabric enabled, with the counter of the peer's slice; links go through
their states and lose what they hold; buckets gain RATE for each millisecond, up to BURST; a launch packet is answered with its
TAG; the reply of one reaches the group that sent it; `launch.fab` to a device that its tenant may not reach traps FABRIC_DEVICE.
The model's choices: the counter that comes with an acknowledgement is a free value (log 8), a port may come up from any
state and tokens come for each millisecond begun (log 86), and an instruction that traps and
is issued again has not fed SIG (log 15). -/
def Obligations.Fabric_steps : Prop :=
  ∀ (s : State) (n : Nat),
    (∀ r : FabReq, s.exporter r.tid r.device = none → reaches (.fabricRequest r) s fun t =>
      t = { s with peerReplies := t.peerReplies } ∧ answers s t r.device (some .fabricDevice) 0 false) ∧
    (∀ (r : FabReq) (k : Nat), s.exporter r.tid r.device = some k → 2 ^ 42 < r.offset + r.size → goes (.fabricRequest r) s s) ∧
    (∀ (r : FabReq) (k : Nat) (ps : List (Nat × Nat × Nat)) (s0 : State), s.exporter r.tid r.device = some k →
      r.offset + r.size ≤ 2 ^ 42 → s.reach false (s.exportAsid k) .load r.offset r.size = .done ps s0 →
      let s1 := (ps.map fun p => p.2.2).foldl (fun s d => s.lcsTake d r.counter) s
      (∀ v p s2, r.kind = .load false → s1.outsideRead false (s.exportAsid k) r.offset r.size = .done (v, p) s2 →
        reaches (.fabricRequest r) s fun t => t = { s2 with peerReplies := t.peerReplies } ∧ answers s2 t r.device none v p) ∧
      (∀ n c s2, r.kind = .store n → s1.outsideWrite false (s.exportAsid k) r.offset r.size r.data.toNat r.poison = .done c s2 →
        reaches (.fabricRequest r) s fun t => t = { s2 with peerReplies := t.peerReplies } ∧ answers s2 t r.device c 0 false) ∧
      (∀ op sc v p s2, r.kind = .atomic op sc →
        s1.outsideAtomic false (s.exportAsid k) r.offset r.size op sc r.data.toNat r.cmp.toNat = .done (v, p) s2 →
        reaches (.fabricRequest r) s fun t => t = { s2 with peerReplies := t.peerReplies } ∧ answers s2 t r.device none v p)) ∧
    (∀ p, s.posted.find? (fun p => p.id == n && !p.lost) = some p → p.device ≠ s.devId → s.linkUp p.device = true →
      reaches (.fabricAck n) s fun t => t.posted = s.posted.filter (fun p => p.id != n) ∧ t.home = s.home ∧ t.net = s.net ∧
        keepsGroups s t ∧ ∀ c, (s.core c).lcc ≤ (t.core c).lcc) ∧
    (∀ p, s.posted.find? (fun p => p.id == n && !p.lost) = some p → p.device ≠ s.devId → s.linkUp p.device = false →
      goes (.fabricAck n) s s) ∧
    (s.posted.find? (fun p => p.id == n && !p.lost) = none → goes (.fabricAck n) s s) ∧
    (s.linkOf n ≠ .retraining → goes (.retrainBudgetExpiry n) s s) ∧
    (s.linkOf n = .retraining → reaches (.retrainBudgetExpiry n) s fun t => t.home = s.home ∧ t.lostWrites ≥ s.lostWrites) ∧
    (s.portState n = .up → reaches (.portRetraining n) s fun t => t.portState n = .retraining ∧ keepsGroups s t) ∧
    (s.portState n ≠ .up → goes (.portRetraining n) s s) ∧
    (reaches (.portUp n) s fun t => t.portState n = .up ∧ keepsGroups s t ∧ ∀ k, k % 16 ≠ n % 16 → t.portState k = s.portState k) ∧
    (s.portState n = .up → goes (.portDown n) s s) ∧
    (s.portState n ≠ .up → reaches (.portDown n) s fun t => t.portState n = .down ∧
      ∀ p ∈ t.posted, p.device ≠ s.devId → s.portOf p.device = n % 16 → p.lost = true) ∧
    (∀ ports : BitVec 16, reaches (.forcedn ports) s fun t => ∀ k < 16, ports.getLsbD k = true → t.portState k = .down) ∧
    (s.clock / 2000000 ≤ Table.findD s.tokens (64 + n % 8) 0 → goes (.tokenRefill n) s s) ∧
    (Table.findD s.tokens (64 + n % 8) 0 < s.clock / 2000000 → reaches (.tokenRefill n) s fun t => ∀ b < 8,
      t.bucket n b = min ((entry8 s.tntQrate n).extractLsb' 0 16).toNat
        (s.bucket n b + (s.clock / 2000000 - Table.findD s.tokens (64 + n % 8) 0) * ((entry8 s.tntQrate n).extractLsb' 16 16).toNat)) ∧
    (∀ (d : Nat) (bs : List Byte), bs.length = 64 → s.exporter (BitVec.ofNat 16 (packetDword (packetOf bs) 1)) d = none →
      reaches (.fabricLaunchPacket d bs) s fun t => t = { s with peerReplies := t.peerReplies } ∧
        answers s t d (some .fabricDevice) 0 false) ∧
    (∀ (d : Nat) (bs : List Byte) (k : Nat) (s1 : State), bs.length = 64 → s.launchPacket d (packetOf bs) = .done (.ok k) s1 →
      reaches (.fabricLaunchPacket d bs) s fun t => t = { s1 with peerReplies := t.peerReplies } ∧ answers s1 t d none k false ∧
        ∀ x ∈ t.peerReplies.getLast?, x.tag = BitVec.ofNat 64 (packetDword (packetOf bs) 2)) ∧
    (∀ (d : Nat) (bs : List Byte) (c : Cause) (s1 : State), bs.length = 64 → s.launchPacket d (packetOf bs) = .done (.error c) s1 →
      reaches (.fabricLaunchPacket d bs) s fun t => t = { s1 with peerReplies := t.peerReplies } ∧ answers s1 t d (some c) 0 false) ∧
    (∀ (d : Nat) (bs : List Byte), bs.length ≠ 64 → goes (.fabricLaunchPacket d bs) s s) ∧
    (∀ c num w, s.packetOfGroup n = some w → w.device ≠ s.devId → s.linkUp w.device = true →
      goes (.fabricLaunchReply n c num) s (s.packetDone w
        (if c = 0 then num.setWidth 64 else BitVec.ofNat 64 (2 ^ 63 + c.toNat * 2 ^ 48)))) ∧
    (∀ c num, s.packetOfGroup n = none → goes (.fabricLaunchReply n c num) s s) ∧
    (∀ (g : Group) (f : ExtA) (p : Pend), ready s g (namedA 0xF4 f) → s.held? s.cur s.curSlot (pcOf s g) = some p → p.left = 0 →
      exec (.launchFab f) s = retires s ((s.dropPend p.id).modGroup s.cur fun h => h.wrS f.d (p.values.lane 0)) 0xF4 3) ∧
    (∀ (g : Group) (f : ExtA) (ds : List Nat) (s1 : State), ready s g (namedA 0xF4 f) → s.held? s.cur s.curSlot (pcOf s g) = none →
      (g.rdS f.c).toNat < 1024 → (g.rdS f.a).toNat % 64 = 0 → record s g 8 (g.rdS f.a) ds s1 → relReady s1 g true true →
      (s1.flushCore (coreOf s.cur)).deviceOk (bhOf s.cur) (g.rdS f.c).toNat = false →
      ∃ u : State, exec (.launchFab f) s = .next (u.takeTrap s.cur s.curSlot (TrapInfo.of .fabricDevice)) ∧ u.home = s1.home)

/-- R75, R143, R424, R425, R427: a host access outside the aperture's mappings reads all ones, or is dropped, and posts
DPA_HOLE, and so does one of a function whose tenant has no valid shape (the model's choice, log 106); one inside is
performed, one that meets a page fault is kept for the plex, and one that follows a kept one, of whichever function, is kept
behind it, a doorbell too; a launch by the host outside its tenant's shape is refused; a
zero-length read flushes the posted writes to the host. Nothing happens while the endpoint does not answer. That the accesses
of every function follow a kept one (log 83), and the cause of a launch outside the shape (log 84), are the model's readings. -/
def Obligations.Host_port : Prop :=
  ∀ (s : State) (vf q : Nat) (offset n : Nat) (data : List Byte),
    (s.endpointUp = false → goes (.hostRead vf offset n) s s ∧ goes (.hostWrite vf offset data) s s ∧
      (goes (.doorbell vf q n) s s) ∧ ∀ r b, goes (.hostLaunch vf q r b) s s) ∧
    (s.endpointUp = true → hostMaps s vf offset n = none →
      reaches (.hostRead vf offset n) s fun t => t.hostData = s.hostData ++ [(vf, List.replicate n 0xFF)] ∧ keepsGroups s t) ∧
    (∀ asid va v p s1, s.endpointUp = true → hostMaps s vf offset n = some (asid, va) → s.hostBehind = false →
      s.outsideRead true asid va n = .done (v, p) s1 →
      goes (.hostRead vf offset n) s { s1 with hostData := s1.hostData ++ [(vf, bytesFrom v n)] }) ∧
    (∀ asid va c, s.endpointUp = true → hostMaps s vf offset n = some (asid, va) → s.hostBehind = false →
      s.outsideRead true asid va n = .fault c → reaches (.hostRead vf offset n) s fun t => t.hostData = s.hostData ∧
        t.home = s.home ∧ ∃ x, t.outside = s.outside ++ [x] ∧ x.vf = some vf ∧ x.kind = .read ∧ x.cause = some c) ∧
    (s.endpointUp = true → hostMaps s vf offset data.length = none →
      goes (.hostWrite vf offset data) s (s.postSup .dpaHole offset 1)) ∧
    (∀ asid va c s1, s.endpointUp = true → hostMaps s vf offset data.length = some (asid, va) → s.hostBehind = false →
      s.outsideWrite true asid va data.length (fromBytes data) false = .done c s1 → goes (.hostWrite vf offset data) s s1) ∧
    (∀ asid va, s.endpointUp = true → hostMaps s vf offset data.length = some (asid, va) → s.hostBehind = true →
      reaches (.hostWrite vf offset data) s fun t => t.home = s.home ∧
        ∃ x, t.outside = s.outside ++ [x] ∧ x.vf = some vf ∧ x.kind = .write data ∧ x.cause = none) ∧
    (s.endpointUp = true → (entry8 s.tntShape vf).getLsbD 63 = true → s.hostBehind = true →
      reaches (.doorbell vf q n) s fun t => t.doorbells = s.doorbells ∧ ∃ x, t.outside = s.outside ++ [x] ∧ x.vf = some vf ∧
        x.kind = .doorbell q n) ∧
    (s.endpointUp = true → (entry8 s.tntShape vf).getLsbD 63 = true → s.hostBehind = false →
      reaches (.doorbell vf q n) s fun t => Table.find t.doorbells (16 * (vf % 8) + q % 16) = some n ∧ keepsGroups s t) ∧
    ((entry8 s.tntShape vf).getLsbD 63 = false → goes (.doorbell vf q n) s s) ∧
    (∀ r b, s.endpointUp = true → noKeptLaunch s vf q → Table.findD s.doorbells (256 + 16 * (vf % 8) + q % 16) 0 ≠
        Table.findD s.doorbells (16 * (vf % 8) + q % 16) 0 → b ∉ shapeBulkheads (entry8 s.tntShape vf) →
      reaches (.hostLaunch vf q r b) s fun t => t.hostData = s.hostData ++ [(vf, [Cause.launchRefused.code.setWidth 8])] ∧
        t.grids = s.grids) ∧
    (∀ r b k s1, s.endpointUp = true → noKeptLaunch s vf q → Table.findD s.doorbells (256 + 16 * (vf % 8) + q % 16) 0 ≠
        Table.findD s.doorbells (16 * (vf % 8) + q % 16) 0 → (entry8 s.tntShape vf).getLsbD 63 = true →
      b ∈ shapeBulkheads (entry8 s.tntShape vf) → (entry8 s.tntQrate vf).getLsbD (48 + q % 16) = true →
      let taken := Table.findD s.doorbells (256 + 16 * (vf % 8) + q % 16) 0
      ({ s with doorbells := Table.set s.doorbells (256 + 16 * (vf % 8) + q % 16) (taken + 1) } : State).launchOutside
        true (bits (s.fabEntry (vf % 8)) 63 48) b q r = .done (.ok k) s1 →
      goes (.hostLaunch vf q r b) s s1) ∧
    (∀ g, reaches (.zeroLengthReadCompletion g) s fun t => t.hostWrites = 0 ∧ t.home = s.home ∧
      ∀ x, s.group? g = some x → x.wait = .sysRelease → t.group? g = some { x with zeroRead := true })

namespace Sys2Proof.Claims

/-- A PRE_CMD word that R395 refuses: a reserved grade, or an ASID that holds no context in the bulkhead (log 127 says when it
holds one). -/
def preRefused (s : State) (b : Nat) (w0 : DWord) : Prop :=
  gradeOf w0 = 0 ∨ gradeOf w0 = 7 ∨ s.holdsCtx (w0.extractLsb' 0 16).toNat b = false

/-- A bulkhead's PRE_CMD after its three words were written and nothing was started: word 0 keeps GO and STATUS, and is not written
by a GO write that finds a command running (R395). -/
def preWritten (x : Bulkhead) (w0 w1 w2 : DWord) : Bulkhead :=
  { x with
    pre0 := if x.preGo = true ∧ w0.getLsbD 63 = true then x.pre0
      else (w0 &&& 0x700000FFFFFFFFFF) ||| (x.pre0 &&& 0x8000FF0000000000)
    pre1 := w1
    pre2 := w2 &&& 0x7FFFFF }

/-- The commands of PRE_CMD, by grade. -/
noncomputable def preRows : List (Nat × (Nat → DWord → DWord → DWord → Instr)) :=
  [(1, .preDrain), (2, .preCut), (3, .preEvict), (4, .preRestore), (5, .preForcedReset), (6, .preReleaseCut)]

end Sys2Proof.Claims

/-- R163, R395 to R399, R403: a command of PRE_CMD that finds one running starts nothing, one without GO is only stored, one that
is refused ends with OPERAND_RANGE; a drain closes the context's queues, a cut sets its target, a release and a timeout end
it, and an eviction names its gangs and fails after more than 65,536 cycles. A swapped gang returns from its image, after the
launches of a higher priority; where the write of an image fails, the gang is poisoned and stopped. What is not due changes
nothing. That words 1 and 2, and word 0 without GO, are written while a command runs, and when a bulkhead holds a context, are
the model's choices (log 127); that a write of an image fails only where no memory lies is another (log 93). -/
def Obligations.Preemption : Prop :=
  ∀ (s : State) (b : Nat) (w0 w1 w2 : DWord),
    let asid := (w0.extractLsb' 0 16).toNat
    let free : Prop := (s.bh b).preGo = false
    let valid : Prop := w0.getLsbD 63 = true ∧ ¬ preRefused s b w0
    (∀ r ∈ preRows, ((s.bh b).preGo = true ∨ w0.getLsbD 63 = false → reaches (r.2 b w0 w1 w2) s fun t =>
        t.bh b = preWritten (s.bh b) w0 w1 w2 ∧ t.ctxs = s.ctxs ∧ keepsGroups s t) ∧
      (free → w0.getLsbD 63 = true → preRefused s b w0 → reaches (r.2 b w0 w1 w2) s fun t => (t.bh b).preGo = false ∧
        (t.bh b).pre0.extractLsb' 40 8 = Cause.operandRange.code.setWidth 8 ∧ keepsGroups s t)) ∧
    (free → valid → gradeOf w0 = 1 → reaches (.preDrain b w0 w1 w2) s fun t => (t.inst asid b).drained = true) ∧
    (free → valid → gradeOf w0 = 2 → (∀ g ∈ s.jobGroups asid b, g.2.ended = false → g.2.stepCount.toNat ≤ (w1.extractLsb' 0 32).toNat) →
      w1.extractLsb' 0 32 ≠ 0 → reaches (.preCut b w0 w1 w2) s fun t => (t.inst asid b).cutPending = true ∧
        (t.inst asid b).cutDone = false ∧ (t.inst asid b).cutTarget = w1.extractLsb' 0 32 ∧ keepsGroups s t) ∧
    (free → valid → gradeOf w0 = 3 → reaches (.preEvict b w0 w1 w2) s fun t => (t.bh b).preGo = true ∧
      (t.bh b).preEvicting = s.gangsOn asid (preCores w0 b) ∧
      ∀ n, ({ t with clock := s.clock + n } : State).preLate b = true ↔ 65536 < n) ∧
    (free → valid → gradeOf w0 = 4 → goes (.preRestore b w0 w1 w2) s
      ((((s.preWrite b w0 w1 w2).preStart b w0 w2).modInst asid b fun i => { i with drained := false }).tryRestore b)) ∧
    (free → valid → gradeOf w0 = 5 → reaches (.preForcedReset b w0 w1 w2) s fun t => (t.bh b).preGo = false ∧
      (Table.sorted s.groups = true → ∀ e ∈ t.groups, e.2.asid = asid → bhOf e.1 ≠ b)) ∧
    (free → valid → gradeOf w0 = 6 → reaches (.preReleaseCut b w0 w1 w2) s fun t => (t.inst asid b).cutPending = false ∧
      ∀ e ∈ t.groups, e.2.asid = asid → bhOf e.1 = b → e.2.wait ≠ .cutStop) ∧
    (s.preRuns b 1 = true → s.preLate b = true → reaches (.drainDeadline b) s fun t => (t.bh b).preGo = false ∧
      (t.bh b).pre0.extractLsb' 40 8 = Cause.drainDeadline.code.setWidth 8) ∧
    (s.preRuns b 1 = false ∨ s.preLate b = false → goes (.drainDeadline b) s s) ∧
    (s.preRuns b 2 = true → (s.inst (s.preAsid b) b).cutPending = true →
      (∀ g ∈ s.jobGroups (s.preAsid b) b, g.2.reached (s.inst (s.preAsid b) b).cutTarget = true) →
      reaches (.cutDone b) s fun t => (t.inst (s.preAsid b) b).cutDone = true ∧ (t.bh b).preGo = false ∧ keepsGroups s t) ∧
    (s.preRuns b 2 = false → goes (.cutDone b) s s) ∧
    (s.preRuns b 2 = true → s.preLate b = true → reaches (.cutTimeout b) s fun t => (t.bh b).preGo = false ∧
      (t.inst (s.preAsid b) b).cutPending = false) ∧
    (s.preRuns b 2 = false → goes (.cutTimeout b) s s) ∧
    (s.preRuns b 3 = true → s.preLate b = true → reaches (.ctxEvictTimeout b) s fun t => (t.bh b).preGo = false ∧
      (t.bh b).preEvicting = [] ∧ keepsGroups s t) ∧
    (s.preRuns b 3 = false → goes (.ctxEvictTimeout b) s s ∧ goes (.evictionDrainDone b) s s) ∧
    (s.preRuns b 3 = true → s.preLate b = false → (∀ g ∈ (s.bh b).preEvicting, s.gangQuiet g = true) →
      reaches (.evictionDrainDone b) s fun t => (t.bh b).preGo = false ∧ (t.bh b).preEvicting = []) ∧
    (s.preRuns b 3 = true → s.preLate b = false → (∀ g ∈ (s.bh b).preEvicting, s.gangReleased g = true) →
      (∃ g ∈ (s.bh b).preEvicting, s.gangQuiet g = false) →
      goes (.evictionDrainDone b) s (s.modBh b fun x => { x with preEnd := none })) ∧
    (∀ gang, s.swapDue gang = false → goes (.gangSwapOut gang) s s) ∧
    (∀ gang l t m len s1, s.gangLead gang = some (l, t) → s.swapDue gang = true →
      let s0 := t.cores.foldl (fun s c => s.flushCore c) s
      s0.gangQuiet gang = true → gang ∉ (s.bh t.bh).preEvicting →
      s0.imageOf t.asid t.bh [s0.savedOf gang t.bh t.asid []] = (m, len, s1) → framesFor len ≤ (s1.bh t.bh).poolCount →
      let fs := s1.engineFrames t.bh (framesFor len)
      let y : Saved := { s0.savedOf gang t.bh t.asid [] with frames := fs.1, tick := some s0.tick }
      (imageFails fs.1 = false → reaches (.gangSwapOut gang) s fun u => Table.find u.saved gang = some y) ∧
      (imageFails fs.1 = true →
        goes (.gangSwapOut gang) s (((fs.2.writeImage fs.1 [y] m len).freeEngineFrames fs.1).swapFailed gang))) ∧
    (∀ gang x fits, Table.find s.saved gang = some x → s.savedSatisfied x = true → (s.bh x.bh).rstPhase = .idle →
      s.nextHead x.bh (s.savedPrio x + 1) = none → s.savedFit x (fun _ => true) = some fits →
      let y := (gangPlaces [x]).foldl (fun _ p => x.readBack (s.imageReader x.frames) p.2) x
      goes (.gangSwapIn gang) s (({ s.freeEngineFrames x.frames with
        saved := Table.erase (s.freeEngineFrames x.frames).saved gang } : State).returnGang y fits)) ∧
    (∀ gang, Table.find s.saved gang = none → goes (.gangSwapIn gang) s s) ∧
    (∀ gang x, Table.find s.saved gang = some x → s.savedSatisfied x = false ∨
      (s.nextHead x.bh (s.savedPrio x + 1)).isSome = true → goes (.gangSwapIn gang) s s)

/-- R170 to R172, R372 to R374, R383, R392: a broadcast starts the bids of the oldest waiting tender, the lowest bid wins after
the window, the winner takes the task or withdraws, a core starts its oldest task, and `park` ends when its cycles have
passed. -/
def Obligations.Chorus_and_tasks : Prop :=
  ∀ (s : State) (b core : Nat),
    ((s.bh b).served?.isSome = true → goes (.tenderBroadcast b) s s) ∧
    (∀ t, (s.bh b).served? = none → ((s.bh b).tenders.find? fun t => t.st == .waiting) = some t →
      goes (.tenderBroadcast b) s (s.broadcast b t)) ∧
    (∀ t w c, (s.bh b).served? = some t → t.st = .bidding → t.since + t.win ≤ s.clock → winnerOf t.seq t.bids = some (w, c) →
      reaches (.bidWindowEnd b) s fun u => (u.bh b).tenders = (s.bh b).tenders.map fun x =>
        if x.seq = t.seq then { x with st := .awarded, winner := w, cost := c } else x) ∧
    (∀ t, (s.bh b).served? = some t → t.st = .bidding → s.clock < t.since + t.win → goes (.bidWindowEnd b) s s) ∧
    (∀ t, (s.bh b).served? = some t → t.st = .bidding → t.since + t.win ≤ s.clock → winnerOf t.seq t.bids = none →
      goes (.bidWindowEnd b) s (s.unplace b t .tenderUnplaced)) ∧
    (∀ t bids w c, winnerOf t bids = some (w, c) → (w, c) ∈ bids ∧ ∀ x ∈ bids, c ≤ x.2) ∧
    (s.award? b = none → goes (.awardAccept b) s s ∧ goes (.bidWithdrawal b) s s) ∧
    (∀ t c, s.award? b = some (t, c) → s.mustWithdraw b t c = false →
      goes (.bidWithdrawal b) s s ∧
      reaches (.awardAccept b) s fun u => (u.core (24 * b + t.winner)).withdrawals = 0 ∧
        ∃ x : Task, (u.core (24 * b + t.winner)).tasks = (s.core (24 * b + t.winner)).tasks ++ [x] ∧ x.seq = t.seq ∧ x.args = t.args) ∧
    (∀ t c, s.award? b = some (t, c) → s.mustWithdraw b t c = true →
      goes (.awardAccept b) s s ∧
      let t1 : Tender := { t with excluded := t.excluded ++ [t.winner], wdrawn := min (t.wdrawn + 1) 15 }
      goes (.bidWithdrawal b) s (((s.countWithdrawal (24 * b + t.winner) t.lim).modTender b t.seq fun _ => t1).broadcast b t1)) ∧
    ((∀ t ∈ (s.bh b).tenders, t.st ≠ .waiting ∧ t.inService = false) →
      goes (.chorusFault b) s (s.postSup .chorusFault b 0)) ∧
    ((s.core core).tasks = [] → goes (.taskStart core) s s) ∧
    (∀ t rest, (s.core core).tasks = t :: rest → s.isResident core t.work.asid = false → goes (.taskStart core) s s) ∧
    (∀ t rest, (s.core core).tasks = t :: rest → s.isResident core t.work.asid = true →
      (s.fitOn core t.work.asid t.grid.launch.need).isSome = true →
      reaches (.taskStart core) s fun u => (u.core core).tasks = rest) ∧
    ((s.core core).inbox = [] → goes (.amDispatch core) s s) ∧
    (∀ id rest m f, (s.core core).inbox = id :: rest → Table.find s.messages id = some m → (s.core core).quarantined = false →
      s.isResident core m.asid = true → s.isSwitchedIn core m.asid = true → s.fitOn core m.asid m.need = some f →
      goes (.amDispatch core) s ((s.modCore core fun k => { k with inbox := k.inbox.filter fun i => i != id }).startHandler core id m f)) ∧
    (∀ id rest, (s.core core).inbox = id :: rest → Table.find s.messages id = none →
      reaches (.amDispatch core) s fun u => id ∉ (u.core core).inbox) ∧
    (∀ gid, reaches (.parkExpiry gid) s fun u => keepsGroups s u ∧ u.home = s.home ∧
      ∀ p ∈ u.pends, p.gid = gid → p.why = .park → p.hold = true → p.cycles = 0 → p.left ≠ 1)

/-- R153, R154, R157 to R161, R167, R236, R449: the head launch of a queue becomes ready when its WAIT object holds WVAL and
fails when that cannot be read; a gang is placed only where its queue's turn has come; blocks are compacted only with
every register full; the ready group that has waited longest takes a free place in its partition's active set, or that of a
group which has waited 64 cycles; the teams of a gang go together, and a grid completes only when no copy of its read-only
objects is left; a group that has ended frees its place once nothing of it is outstanding; the governor grants within
its budget, or alone, with code 0, what fits under no set of grants. -/
def Obligations.Launch_steps : Prop :=
  ∀ (s : State) (b asid q : Nat),
    ((s.queueOf asid b q) = [] → goes (.launchReady b asid q) s s) ∧
    (∀ id rest gr v s1, s.queueOf asid b q = id :: rest → Table.find s.grids id = some gr → gr.ready = false →
      s.engineLoad (s.engineAsker niCopy b asid gr.supervisor none) gr.launch.wait 8 = .done (v, false) s1 →
      goes (.launchReady b asid q) s (if gr.launch.wval.toNat ≤ v then s1.modGrid id fun g => { g with ready := true } else s1)) ∧
    (∀ id rest gr c a s1, s.queueOf asid b q = id :: rest → Table.find s.grids id = some gr → gr.ready = false →
      s.engineLoad (s.engineAsker niCopy b asid gr.supervisor none) gr.launch.wait 8 = .fail c a s1 →
      goes (.launchReady b asid q) s (s1.failGrid id .launchAbort)) ∧
    (s.nextToPlace b = none → goes (.gangPlacement b asid q) s s) ∧
    (∀ a k id gr fits, s.nextToPlace b = some (a, k, id, gr, fits) → a ≠ asid ∨ k ≠ q → goes (.gangPlacement b asid q) s s) ∧
    (∀ id gr fits, s.nextToPlace b = some (asid, q, id, gr, fits) →
      goes (.gangPlacement b asid q) s (s.startGang b q id gr fits)) ∧
    (∀ core, (∃ g ∈ s.groups, coreOf g.1 = core ∧ s.isSwitchedIn core g.2.asid = true ∧ ∃ r ∈ g.2.v, r.2.full = false) →
      goes (.compaction core) s s) ∧
    (∀ core a, (s.core core).switchedIn = some a → s.packingHelps core a = false → goes (.compaction core) s s) ∧
    (∀ core, reaches (.compaction core) s fun t => t.home = s.home ∧ t.teams = s.teams ∧ ∀ gid g, s.group? gid = some g →
      ∃ h, t.group? gid = some h ∧ h = { g with base := h.base }) ∧
    (∀ out into h, s.group? into = some h → s.nextActive into h = true → s.activeRoom (coreOf into) (partOf into) h.asid = true →
      goes (.activeSetExchange out into) s (s.modGroup into fun x => { x with active := true })) ∧
    (∀ out into g h, s.group? out = some g → s.group? into = some h → out ≠ into → s.nextActive into h = true →
      s.activeRoom (coreOf into) (partOf into) h.asid = false → g.active = true → g.asid = h.asid →
      coreOf out = coreOf into → partOf out = partOf into → g.hnd = false → g.leavesActive = true → g.runnable = false →
      g.waitSince + 64 ≤ s.cyc (coreOf out) →
      reaches (.activeSetExchange out into) s fun t => t.group? out = some { g with active := false } ∧
        t.group? into = some { h with active := true }) ∧
    (∀ out into h, s.group? into = some h → s.nextActive into h = false → goes (.activeSetExchange out into) s s) ∧
    (∀ out into g h, s.group? out = some g → s.group? into = some h → g.hnd = true →
      s.activeRoom (coreOf into) (partOf into) h.asid = false → goes (.activeSetExchange out into) s s) ∧
    (∀ gid g, s.group? gid = some g → s.groupDone gid g = false → goes (.groupEnd gid) s s) ∧
    (∀ gid g, s.group? gid = some g → s.groupDone gid g = true → s.team? g.team = none →
      goes (.groupEnd gid) s { s with groups := Table.erase s.groups gid }) ∧
    (∀ gid g t, s.group? gid = some g → s.groupDone gid g = true → s.team? g.team = some t →
      let s1 := (s.noteRun t g).noteReplay t g
      let s2 : State := { s1 with groups := Table.erase s1.groups gid }
      goes (.groupEnd gid) s (if s2.groupsOf g.team = [] then s2.endTeam g.team t else s2)) ∧
    (∀ gid g t, s.group? gid = some g → s.groupDone gid g = true → s.team? g.team = some t →
      (∃ e ∈ s.teams, e.2.gang = t.gang ∧ e.1 ≠ g.team ∧ e.2.exited = false) →
      reaches (.groupEnd gid) s fun u => (u.team? g.team).isSome = true) ∧
    (∀ id, Table.find s.grids id = none → goes (.gridCompletion id) s s) ∧
    (∀ id gr, Table.find s.grids id = some gr → gr.ended = false → goes (.gridCompletion id) s s) ∧
    (∀ id gr, Table.find s.grids id = some gr → gr.ended = true → s.replaysDone id gr.bh = false →
      goes (.gridCompletion id) s (if gr.launch.vbc = true then s else s.reportEnd id gr)) ∧
    (∀ id gr, Table.find s.grids id = some gr → gr.ended = true → s.replaysDone id gr.bh = true →
      let shut : Prop := ∀ e ∈ s.objsOf id gr, e.2.readOnly = false
      (¬ shut → goes (.gridCompletion id) s (s.closeObjects id gr)) ∧
      (shut → s.objsClosing id gr = true → goes (.gridCompletion id) s s) ∧
      (shut → s.objsClosing id gr = false →
        let t := (s.reportEnd id gr).releaseObjects id gr
        goes (.gridCompletion id) s { t with grids := Table.erase t.grids id })) ∧
    (reaches (.operatingPointChange b) s fun t => t.bh b = { s.bh b with opp := s.oppWanted b }) ∧
    ((s.bh b).leaveQueue = [] → goes (.leaveGrant b) s s) ∧
    (∀ key cls rest, (s.bh b).leaveQueue = (key, cls) :: rest → key < 2 ^ 40 →
      120 + ((s.grants b).map leaveWatts).sum + leaveWatts cls ≤ (s.bh b).pwrBudget →
      reaches (.leaveGrant b) s fun t => (t.bh b).leaveQueue = rest ∧
        ∀ x, s.team? key = some x → ∃ y, t.team? key = some y ∧ y.held = x.held ++ [cls]) ∧
    (∀ key cls rest, (s.bh b).leaveQueue = (key, cls) :: rest →
      (s.bh b).pwrBudget < 120 + ((s.grants b).map leaveWatts).sum + leaveWatts cls → s.grants b ≠ [] →
      goes (.leaveGrant b) s s) ∧
    (∀ key cls rest, (s.bh b).leaveQueue = (key, cls) :: rest → key < 2 ^ 40 → (s.bh b).pwrBudget < 120 + leaveWatts cls →
      s.grants b = [] → reaches (.leaveGrant b) s fun t => (t.bh b).leaveQueue = rest ∧ (t.bh b).opp = 0 ∧
        (t.bh b).overKey = some (key, cls)) ∧
    (s.overGrant b = true → s.oppCap b = 0) ∧
    (s.overGrant b = false → s.oppCap b = (s.bh b).pwrHeld) ∧
    (∀ draw : BitVec 16, draw.toNat ≤ (s.bh b).pwrBudget →
      goes (.governorThrottle b draw) s (s.modBh b fun x => { x with pwrDraw := draw })) ∧
    (∀ draw : BitVec 16, reaches (.governorThrottle b draw) s fun t => (t.bh b).pwrHeld ≤ (s.bh b).pwrHeld ∧
      (t.bh b).pwrDraw = draw) ∧
    (∀ draw : BitVec 16, (s.bh b).pwrBudget < draw.toNat → 0 < (s.bh b).pwrHeld → 0 < (s.bh b).opp → s.overGrant b = false →
      reaches (.governorThrottle b draw) s fun t => (t.bh b).pwrHeld + 1 = min (s.bh b).pwrHeld (s.bh b).opp ∧
        (t.bh b).opp = (t.bh b).pwrHeld) ∧
    (reaches (.governorRecover b) s fun t => (t.bh b).pwrHeld = min 7 ((s.bh b).pwrHeld + 1))

/-- R134, R158, R324, R325, R335 to R340, R352, R354, R359, R366 to R371: what is not due at an engine changes nothing; a copy record
that is refused fails with COPY_FORM before any piece; the oldest finished request of its class and group retires; a
cancelled collective ends with COLL_CANCEL; a piece whose posted writes are acknowledged is subtracted at the countdown object; the
standing-product engine serves a refresh that is due before a snapshot, and that before a record; no engine works at a tenant's
request in a bulkhead that runs no tenant's work (R37). The counter that an idle slice sends is the model's choice (log 62). -/
def Obligations.Engine_steps : Prop :=
  ∀ (s : State) (id b slice : Nat),
    let works (o : MatOp) : Bool := s.worksFor (bhOfCore id) o.gid
    let mayStart (part : Nat) : Option MatOp :=
      (s.unit id part).ops.find? fun o => works o && s.opMayStart id part (s.unit id part) o
    (s.request? id = none → goes (.copyRequest id) s s ∧ goes (.copyPiece id) s s ∧ goes (.engineRetirement id) s s ∧
      (∀ rank data, goes (.collectiveStep id rank data) s s) ∧ goes (.collCancel id) s s) ∧
    (∀ r, s.request? id = some r → r.wait.isSome = true ∨ s.tenantRuns r.bh r.supervisor = false ∨
      (r.finished = true ∧ r.owed = []) → goes (.copyPiece id) s s) ∧
    (∀ r rank data, s.request? id = some r → s.works r = false → goes (.collectiveStep id rank data) s s) ∧
    (∀ r addr row pos wr v s1, s.request? id = some r → s.works r = true → r.kind = .copy addr none row pos wr →
      s.engineLoad (s.reqAsker r) addr 64 = .done (v, false) s1 → copyRec (dwordsOf v 8) = none →
      goes (.copyRequest id) s ((s1.setRequest { r with kind := .copy addr (some (copyReport (dwordsOf v 8))) 0 0 0 }).engineDone id
        (some .copyForm))) ∧
    (∀ r addr row pos wr v s1 x, s.request? id = some r → s.works r = true → r.kind = .copy addr none row pos wr →
      s.engineLoad (s.reqAsker r) addr 64 = .done (v, false) s1 → copyRec (dwordsOf v 8) = some x → x.rowBytes ≠ 0 →
      goes (.copyRequest id) s (s1.setRequest { r with kind := .copy addr (some x) 0 0 0 })) ∧
    (∀ r addr x row pos wr, s.request? id = some r → s.works r = true → r.kind = .copy addr (some x) row pos wr → row < x.rows →
      s.owedPiece r = none → goes (.copyPiece id) s (s.copyStep r addr x row pos wr)) ∧
    (∀ r addr x row pos wr w, s.request? id = some r → r.wait = none → s.tenantRuns r.bh r.supervisor = true →
      r.kind = .copy addr (some x) row pos wr → s.owedPiece r = some w → goes (.copyPiece id) s (s.payPiece r x.cntdn w)) ∧
    (∀ r va off units toSpad pos, s.request? id = some r → s.works r = true → r.kind = .mirror va off units toSpad pos →
      goes (.copyPiece id) s (s.mirrorStep r va off units toSpad pos)) ∧
    (∀ r, s.request? id = some r → (∀ addr t, r.kind ≠ .signal addr t) →
      goes (.engineRetirement id) s (if r.finished = true ∧ s.oldest r = true ∧ s.fabricDone r = true then s.retireRequest r else s)) ∧
    (∀ r addr t, s.request? id = some r → r.kind = .signal addr t →
      goes (.engineRetirement id) s (if r.wait.isSome = true ∨ (s.bh r.bh).down = true then s else s.trySignal r addr t)) ∧
    (∀ r addr d rank data, s.request? id = some r → s.works r = true → r.kind = .coll addr none d →
      goes (.collectiveStep id rank data) s (s.collBegin r addr)) ∧
    (∀ r addr x d rank data, s.request? id = some r → s.works r = true → r.kind = .coll addr (some x) d → x.full? d = true →
      goes (.collectiveStep id rank data) s (s.collFinish r x d)) ∧
    (∀ r addr x d, s.request? id = some r → r.kind = .coll addr x d → r.finished = false →
      reaches (.collCancel id) s fun t => ∃ y, t.request? id = some y ∧ y.finished = true ∧ y.wait = none ∧
        y.cause = some (r.cause.getD .collCancel)) ∧
    (∀ part, (∃ o ∈ (s.unit id part).ops, o.started = true) ∨ mayStart part = none → goes (.matrixOpStart id part) s s) ∧
    (∀ part o, (∀ o ∈ (s.unit id part).ops, o.started = false) →
      mayStart part = some o →
      s.opCheck id part o = .passed → goes (.matrixOpStart id part) s (s.failOp id part o .accVersion)) ∧
    (∀ part o, (∀ o ∈ (s.unit id part).ops, o.started = false) →
      mayStart part = some o →
      s.opCheck id part o ≠ .passed → reaches (.matrixOpStart id part) s fun t =>
        (∃ p ∈ (t.unit id part).ops, p.id = o.id ∧ p.started = true) ∧ t.home = s.home) ∧
    (∀ part, (∀ o ∈ (s.unit id part).ops, o.started = false) → goes (.matrixOpComplete id part) s s) ∧
    (∀ part o r t c, (s.unit id part).ops.find? (fun o => o.started && works o) = some o → s.request? o.id = some r →
      (s.opTeam o).bind s.team? = some t → r.wait = none → r.cause = some c →
      goes (.matrixOpComplete id part) s (s.applyOut id part ((s.opTeam o).getD 0) o (.failed c r.addr))) ∧
    (∀ part pair, (((s.freePair id part (pair % 2)).unit id part).claim (pair % 2)).isSome = true →
      goes (.slotPairFree id part pair) s (s.freePair id part (pair % 2))) ∧
    (∀ part pair o, ((s.freePair id part (pair % 2)).unit id part).claim (pair % 2) = none →
      ((s.freePair id part (pair % 2)).unit id part).ops.find? (fun o => o.kind.isLoad &&
        (o.kind.slot?.elim false fun w => w / 2 == pair % 2)) = some o →
      reaches (.slotPairFree id part pair) s fun t => (t.unit id part).claim (pair % 2) = (s.freePair id part (pair % 2)).opTeam o) ∧
    (∀ part o r t, (s.unit id part).ops.find? (fun o => o.started && works o) = some o → s.request? o.id = some r →
      (s.opTeam o).bind s.team? = some t → r.wait = none → r.cause = none →
      goes (.matrixOpComplete id part) s ((s.matOut id part o t r).2.applyOut id part ((s.opTeam o).getD 0) o
        (s.matOut id part o t r).1)) ∧
    (s.speWorks b = false ∨ ((s.bh b).nextRefresh = none ∧ s.nextSnap b = none ∧ (s.bh b).nextDelta = none) →
      goes (.deltaApply b) s s) ∧
    (∀ num x, s.speWorks b = true → (s.bh b).nextRefresh = some (num, x) → goes (.deltaApply b) s (s.dueRefresh b num x)) ∧
    (∀ r dst x, s.speWorks b = true → (s.bh b).nextRefresh = none → s.nextSnap b = some (r, dst, x) →
      goes (.deltaApply b) s (s.takeSnap r dst x)) ∧
    (∀ r, s.speWorks b = true → (s.bh b).nextRefresh = none → s.nextSnap b = none → (s.bh b).nextDelta = some r →
      goes (.deltaApply b) s (s.applyNext b r)) ∧
    ((s.bh b).queue slice = [] → goes (.captureQueueSend b slice) s s) ∧
    (∀ r rest x, (s.bh b).queue slice = r :: rest → Table.find (s.bh b).bindings r.bind = some x → x.takes = true →
      reaches (.captureQueueSend b slice) s fun t => (t.bh b).queue slice = rest ∧
        (t.bh b).speIn = (s.bh b).speIn ++ [r]) ∧
    (∀ r rest x, (s.bh b).queue slice = r :: rest → Table.find (s.bh b).bindings r.bind = some x → x.takes = false →
      (x.log.length < x.logCap → reaches (.captureQueueSend b slice) s fun t => (t.bh b).queue slice = rest ∧
        Table.find (t.bh b).bindings r.bind = some { x with log := x.log ++ [r] }) ∧
      (x.logCap ≤ x.log.length → reaches (.captureQueueSend b slice) s fun t => (t.bh b).queue slice = r :: rest)) ∧
    ((s.bh b).queue slice ≠ [] → goes (.lcsHeartbeat b slice) s s) ∧
    ((s.bh b).queue slice = [] → s.lcsOf b slice < 2 ^ 60 → reaches (.lcsHeartbeat b slice) s fun t => s.lcsOf b slice ≤ t.lcsOf b slice)

/-- R29, R69, R72, R83, R246, R352, R387, R393, R403, R405, R407 to R415: soft errors are corrected or poison their word, of memory, a
scratchpad, a register or a tile; deferred traps come before the timer; the plex resumes or refuses what waits for it, and a
fatal fault stops its group for good; replays are compared, and a difference is judged; suspicion decays; a gang of a
quarantined core migrates, waits for room, or has its failure posted once it has waited 1 ms. That a hand-off of an unassigned
code fails with the trap's own cause is the model's choice (log 136). -/
def Obligations.Reliability_steps : Prop :=
  ∀ (s : State) (gid id core : Nat) (g : Group),
    (∀ w, reaches (.softError (.hbm w) true) s fun t => t.home = s.home ∧ t.poison = s.poison ∧
      (t.bh (bhOfDpa (4 * w))).eccHbm = (s.bh (bhOfDpa (4 * w))).eccHbm + 1) ∧
    (∀ w, s.owner w = none → (s.line (w / 32)).dirty = false →
      goes (.softError (.hbm w) false) s { s with poison := Table.set s.poison w .hbm }) ∧
    (∀ asid off, reaches (.softError (.pool core asid off) false) s fun t =>
      Table.find (t.core core).poolPoison (poolKey asid off) = some (.pool core) ∧ t.home = s.home) ∧
    (∀ n lane, goes (.softError (.reg gid n lane) false) s (s.modGroup gid fun x => x.strikeReg n lane)) ∧
    (∀ team part n elem x, s.team? team = some x → reaches (.softError (.tile team core part n elem) false) s fun t =>
      ∃ y, t.team? team = some y ∧ elem ∈ (y.tile core part n).poison ∧ t.home = s.home) ∧
    (∀ slot, s.group? gid = some g → s.openSlot gid = some slot → g.gangAbort = false → g.consumed = [] → g.hnd = false →
      s.holding gid slot = false → g.deferred ≠ [] → goes (.deferredMemoryTrap gid) s (s.takeDeferred gid slot) ∧ goes (.timerExpired gid) s s) ∧
    (∀ slot, s.group? gid = some g → s.openSlot gid = some slot → g.gangAbort = false → g.consumed = [] → g.hnd = false →
      g.deferred = [] → g.timerDue = true → g.wait = .none → s.holding gid slot = false → goes (.timerExpired gid) s (s.takeTimer gid slot) ∧ goes (.deferredMemoryTrap gid) s s) ∧
    (s.group? gid = some g → g.wait ≠ .none → goes (.timerExpired gid) s s) ∧
    (∀ slot, s.openSlot gid = some slot → s.holding gid slot = true →
      goes (.deferredMemoryTrap gid) s s ∧ goes (.timerExpired gid) s s) ∧
    (s.group? gid = some g → g.hnd = true → goes (.deferredMemoryTrap gid) s s ∧ goes (.timerExpired gid) s s) ∧
    (∀ ts c, s.group? gid = some g → g.wait = .plex c → c ≠ .silentErrorPersistent →
      goes (.plexResume (.group gid) ts true) s ((s.writeTables ts).setGroup gid { g with wait := .none })) ∧
    (∀ ts c, s.group? gid = some g → g.wait = .plex c → 
      (g.handoff = none ∨ (∃ n, g.handoff = some n ∧ (n = 0 ∨ Cause.ofCode n = none)) → goes (.plexResume (.group gid) ts false) s (s.fatal gid c)) ∧
      ∀ n d, g.handoff = some n → n ≠ 0 → Cause.ofCode n = some d → goes (.plexResume (.group gid) ts false) s (s.fatal gid d)) ∧
    (∀ ts r c, s.outside.find? (fun r => r.id == id) = some r → r.cause = some c →
      goes (.plexResume (.outside id) ts true) s ((s.writeTables ts).outsideWaits id none) ∧
      goes (.plexResume (.outside id) ts false) s (s.refuseOutside r c)) ∧
    (∀ ts r, s.group? gid = some g → g.plexCause = none → goes (.plexResume (.group gid) ts r) s s) ∧
    (∀ ts r, s.outside.find? (fun r => r.id == id) = none → s.ownFault id = none → goes (.plexResume (.outside id) ts r) s s) ∧
    (∀ ts r c, s.request? id = some r → r.wait = some c →
      goes (.plexResume (.engine id) ts true) s ((s.writeTables ts).setRequest { r with wait := none })) ∧
    (∀ ts n x, s.binding? core n = some x → x.wait.isSome = true →
      goes (.plexResume (.binding core n) ts true) s ((s.writeTables ts).setBinding core n { x with wait := none }) ∧
      goes (.plexResume (.binding core n) ts false) s (s.setBinding core n { x with refused := true, wait := none })) ∧
    (∀ code c, Cause.ofCode code = some c → s.group? gid = some g → g.ended = false → g.wait = .plex c →
      goes (.fatalFault gid code) s (s.fatal gid c)) ∧
    (∀ code, s.group? gid = some g → g.ended = true → goes (.fatalFault gid code) s s) ∧
    (s.job? id = none → goes (.replayRun id) s s ∧ goes (.digestCompare id) s s ∧ goes (.arbiterDecision id) s s) ∧
    (∀ j cs s1, s.job? id = some j → j.phase = 1 → s.startRun j .replay j.team.ran = some (cs, s1) →
      goes (.replayRun id) s (s1.setJob { j with phase := 2, cores1 := cs })) ∧
    (∀ j, s.job? id = some j → j.phase = 3 → (∀ i ∈ j.selected, digestOf j.original i = digestOf j.replayed i) →
      goes (.digestCompare id) s (s.dropJob j)) ∧
    (∀ j cs s1, s.job? id = some j → j.phase = 3 → j.differing ≠ [] →
      s.startRun j .arbiter j.team.ran = some (cs, s1) →
      goes (.digestCompare id) s (s1.setJob { j with phase := 5, cores2 := cs })) ∧
    (∀ j, s.job? id = some j → Table.find s.grids j.grid = none → goes (.arbiterDecision id) s (s.dropJob j)) ∧
    (∀ j gr, s.job? id = some j → Table.find s.grids j.grid = some gr → j.phase = 6 →
      (∀ i ∈ j.differing, digestOf j.arbitrated i ≠ digestOf j.replayed i) →
      goes (.arbiterDecision id) s ((j.differing.foldl (fun s i => s.judge j gr i) s).dropJob j)) ∧
    ((s.core core).suspScore ≠ 0 → (s.core core).decays < s.cyc core / 2 ^ 20 →
      reaches (.suspicionDecay core) s fun t => t.core core = { s.core core with
        decays := (s.core core).decays + 1, suspScore := (s.core core).suspScore - 1 }) ∧
    ((s.core core).suspScore = 0 → goes (.suspicionDecay core) s s) ∧
    (s.gangLead id = none → goes (.quarantineMigration id) s s) ∧
    (∀ l t m len s1, s.gangLead id = some (l, t) → s.migrating id = true →
      let s0 := t.cores.foldl (fun s c => s.flushCore c) s
      let x := s0.savedOf id t.bh t.asid []
      s0.gangQuiet id = true → id ∉ (s.bh t.bh).preEvicting → s0.imageOf t.asid t.bh [x] = (m, len, s1) →
      framesFor len ≤ (s1.bh t.bh).poolCount →
      let fs := s1.engineFrames t.bh (framesFor len)
      let out := (fs.2.writeImage fs.1 [x] m len).removeGang x
      (∀ fits, (fs.2.removeGang x).savedFit x (fun _ => true) = some fits → imageFails fs.1 = false →
        goes (.quarantineMigration id) s ((out.freeEngineFrames fs.1).returnGang x fits)) ∧
      ((fs.2.removeGang x).savedFit x (fun _ => true) = none → reaches (.quarantineMigration id) s fun u =>
        u.groups = s.groups ∧ ∀ e ∈ u.teams, e.2.gang = id → e.2.migrateSince.isSome = true)) ∧
    (∀ l t since, s.gangLead id = some (l, t) → t.migrateSince = some since → t.migratePosted = false →
      since + 2000000 ≤ s.clock → s.migrating id = true →
      (s.removeGang (s.savedOf id t.bh t.asid [])).savedFit (s.savedOf id t.bh t.asid []) (fun _ => true) = none →
      reaches (.migrateFail id) s fun u => ∀ e ∈ u.teams, e.2.gang = id → e.2.migratePosted = true) ∧
    (∀ l t, s.gangLead id = some (l, t) → t.migrateSince = none ∨ t.migratePosted = true → goes (.migrateFail id) s s) ∧
    ((∀ t ∈ s.teamsOf id, ∀ c ∈ t.2.cores, (s.core c).quarantined = false) → goes (.migrateFail id) s s)

namespace Sys2Proof.Claims

/-- Words written out from the spec's encodings (R210 to R218, R229, R233), lowest address first, with the instructions that
they stand for. -/
noncomputable def decodedWords : List (List Word × Instr) :=
  [([0x00100C81, 0x04000000, 0x64], .saddExt
      { d := 3, a := 4, b := 0, c := 0, mod := 1, ty := 0, rnd := 0, sat := 0, fe := 0, gn := 0, g := 0, w2 := 100 }),
   ([0x3018149C], .sshl { b := 12, a := 6, d := 5 }),
   ([0x00000009, 0x71640000, 0x00FFFFF9], .br
      { d := 0, a := 0, b := 0, c := 0, sigx := 0x1C59, fe := 0, gn := 0, g := 0, w2 := 0x00FFFFF9 }),
   ([0x00081949, 0x04000000, 0x808], .vbfeExt
      { d := 6, a := 2, b := 0, c := 0, mod := 1, ty := 0, rnd := 0, sat := 0, fe := 0, gn := 0, g := 0, w2 := 0x808 }),
   ([0x04102281, 0x09200000, 0x10], .ld
      { d := 8, a := 4, b := 1, c := 0, rq := 0, ord := 1, sys := 0, ty := 4, lo := 1, modm := 0, fe := 0, gn := 0, g := 0
        w2 := 0x10 }),
   ([0x00180E85, 0x11000000, 0], .st
      { d := 3, a := 6, b := 0, c := 0, rq := 0, ord := 2, sys := 0, ty := 4, lo := 0, modm := 0, fe := 0, gn := 0, g := 0
        w2 := 0 }),
   ([0x0410428B, 0x02A00000, 0x2002, 0x40000010, 0], .ldsw
      { d := 16, a := 4, b := 1, c := 0, rq := 0, ord := 0, sys := 0, ty := 10, lo := 1, modm := 0, fe := 0, gn := 0, g := 0
        w2 := 0x2002 } 0x40000010),
   ([0x00040F45, 0x14, 7], .mmac
      { d := 3, a := 1, b := 0, c := 5, mod := 0, ty := 0, rnd := 0, sat := 0, fe := 0, gn := 0, g := 0, w2 := 7 }),
   ([0x000004BE, 0x55667788, 0x11223344], .sliLiteral { b := 0, a := 0, d := 1 } 0x1122334455667788),
   ([0], .trap0), ([0x000003FC], .ill 0x000003FC)]

/-- Words that a check of R228 refuses, with the cause: an opcode byte 0 that is not the zero word, a length that `exit` does
not have, a rounding mode that no opcode has, and `ctxsw` at user privilege. -/
def refusedWords : List (Mode × List Word × Cause) :=
  [(Mode.handler, [0x00000003], .illegalInstr), (Mode.handler, [0x00000044], .illegalForm),
   (Mode.handler, [0x00100C81, 0x04380000, 0x64], .illegalForm), ({ hnd := false, sup := false }, [0x003C4475, 0, 0], .privilege)]

end Sys2Proof.Claims

/-- R210 to R218, R228: the decoder reads these words, written out from the encodings, as the instructions that they stand for,
and refuses those. -/
def Obligations.Decode_words : Prop :=
  (∀ x ∈ decodedWords, decode Mode.handler x.1 = .ok x.2) ∧ ∀ x ∈ refusedWords, decode x.1 x.2.1 = .error x.2.2

/-- R210 to R221: for every well-formed instruction with an encoding, in every mode, the decoder gives it back from its words,
and from its bytes with what follows them. -/
def Obligations.Decode_encode : Prop :=
  ∀ (m : Mode) (i : Instr) (rest : List Byte), i.wf m = true → encode i ≠ [] →
    decode m (encode i) = .ok i ∧ decodeBytes m (encodeBytes i ++ rest) = .ok (i, rest)

/-- R210 to R221, R228: what the decoder accepts is a well-formed instruction whose encoding is the words that were read, so
that no bit of an accepted word is without meaning. -/
def Obligations.Encode_decode : Prop :=
  ∀ (m : Mode) (ws : List Word) (i : Instr), ws.length = wordCount (wordAt ws 0) → decode m ws = .ok i →
    encode i = ws ∧ i.wf m = true

/-- R162, R166, R211, R219, R228, R246, R393: a step whose agenda names a slot that may issue runs the instruction that the words
at the slot's PC decode to, where nothing is taken at the boundary before it; words that the decoder refuses trap with its
cause, inside a sweep with its segment. Where the partition chooses another of its slots, an instruction that would issue changes
nothing. A timer that has run out is taken in place of an instruction that issues, and one that waits goes on waiting. A sweep
keeps its words for its other segments. A step whose agenda names an event, or what the device does on its own, does that. Time
has passed before, and the slots that have become ready are known. The agenda, the passing of time and which of two PC slots stands
first are the model's choices (log 3, log 4, log 109). -/
def Obligations.Step_runs_decoded : Prop :=
  ∀ (s : State) (gid : Nat) (slot : Bool) (rest : List Action),
    let s1 : State := { s.passTime.noteReady with agenda := rest }
    let s2 : State := { s1 with cur := gid, curSlot := slot }
    let done (t : State) : Out :=
      if s1.outranked gid slot = true ∧ s1.issued t gid slot = true then .next s1
      else .next (s1.afterIssue
        (if s1.timerReady gid slot = true ∧ s1.issued t gid slot = true then s2.takeTimer gid slot else t) gid slot)
    (∀ (g : Group) (ws : List Word) (s3 : State), s.agenda = .issue gid slot :: rest → s1.mayIssue gid slot = true →
      s2.boundary gid slot = none → s2.group? gid = some g → s2.nextWords gid g slot = .words ws s3 →
      (∀ i, decode g.mode ws = .ok i →
        let s4 : State := if isSweep i = true then s3.modGroup gid fun x => x.modPc slot fun p => { p with swept := some (p.pc, ws) }
          else s3
        step s = match exec i s4 with
          | .next t => done t
          | r => r) ∧
      (∀ c, decode g.mode ws = .error c →
        step s = done (s3.takeTrap gid slot { TrapInfo.of c with segment := (g.pc slot).segment }))) ∧
    (∀ g : Group, (g.pc slot).segment = none → s2.nextWords gid g slot = s2.fetchInstr gid g slot) ∧
    (s.agenda = .issue gid slot :: rest → s1.mayIssue gid slot = false → step s = .next s1) ∧
    (∀ i, s.agenda = .event i :: rest → step s = exec i s1) ∧
    (∀ o, s.agenda = .own o :: rest → step s = .next (s1.ownStep o))

/-- R31, R37, R38, R43, R44, R59, R109, R110, R116, R172, R414, R449 and the register maps: the device right after reset: no
group, context or message, eight bulkheads with the reset values that their maps give, and memories in canonical form. The
zero that a byte nobody has written reads as is the model's choice (log 1). -/
def Obligations.Reset_state : Prop :=
  State.reset.memOk = true ∧ tablesOk State.reset ∧ State.reset.groups = [] ∧ State.reset.teams = [] ∧ State.reset.net = [] ∧
    (∀ b < 8, let x := State.reset.bh b
      x.rstPhase = .idle ∧ x.rstCount = 0 ∧ x.wdogEn = false ∧ x.wdogPeriod = 1000000 ∧ x.poolCount = 0 ∧
      x.poolHead = 0x7FFFFF ∧ x.poolLow = 4096 ∧ x.hmask = 0x0808080808080808 ∧ x.gen = 0 ∧ x.qReg = 0 ∧ x.pinMax = 12288 ∧
      x.chorusWin = 64 ∧ x.chorusWdlim = 4 ∧ x.pwrHeld = 7 ∧ x.pwrBudget = 300 ∧ x.objs = [] ∧ x.bindings = []) ∧
    (∀ c, (State.reset.core c).suspScore = 0 ∧ (State.reset.core c).suspLimit = 128 ∧ (State.reset.core c).l1 = []) ∧
    (∀ n, entry8 State.reset.tntShape n = 0 ∧ entry8 State.reset.tntFab n = 0 ∧ entry8 State.reset.tntQrate n = 0) ∧
    State.reset.fabCfg = 0 ∧ State.reset.retrainBudget = 2000 ∧ State.reset.shootGo = false ∧ State.reset.bootOk = false

/-- R7, R30, log 1: a byte memory in canonical form stays so when a byte is written, reads that byte there and every other byte
as before; two such memories that read alike everywhere are one. -/
def Obligations.Memory_laws : Prop :=
  ∀ (m n : Memory) (a : Nat) (b : Byte), Memory.wf m = true →
    Memory.wf (Memory.put m a b) = true ∧ Memory.byte (Memory.put m a b) a = b ∧
      (∀ c, c ≠ a → Memory.byte (Memory.put m a b) c = Memory.byte m c) ∧
      (Memory.wf n = true → (∀ c, Memory.byte n c = Memory.byte m c) → n = m)

/-- Every step, of every agent, keeps the memories of the device in canonical form. -/
def Obligations.Memories_stay_canonical : Prop :=
  ∀ (s t : State), s.memOk = true → step s = .next t → t.memOk = true

/-- Every step, of every agent, keeps the groups and the teams in their tables by strictly rising numbers, so that none of them
stands twice: the premise on which what is said of the group that an instruction leaves, and of the others, rests. -/
def Obligations.Tables_stay_sorted : Prop :=
  ∀ (s t : State), tablesOk s → step s = .next t → tablesOk t
end

