-- ==== Sys2Proof/Laws/Decode.lean ====
section
/-! SUPPORT. The words of the parts of an instruction read back as those parts (R210 to R218): the bits of words 0 and 1,
the class fields, and the reading of each layout. -/

namespace Sys2Proof.Laws

/-- The bits of word 0 (R212). -/
theorem word0_bit (b : BitVec 6) (a d op : Byte) (len : BitVec 2) (i : Nat) :
    (word0 b a d op len).getLsbD i = if i < 2 then len.getLsbD i else if i < 10 then op.getLsbD (i - 2)
      else if i < 18 then d.getLsbD (i - 10) else if i < 26 then a.getLsbD (i - 18) else b.getLsbD (i - 26) := by
  unfold word0
  change BitVec.getLsbD (w := 6 + 8 + 8 + 8 + 2) (b ++ a ++ d ++ op ++ len) i = _
  simp only [BitVec.getLsbD_append, Nat.sub_sub]
  by_cases h : i < 2 <;> simp [h]
  by_cases h : i < 10
  · simp [h, show i - 2 < 8 by omega]
  simp [h, show ¬ i - 2 < 8 by omega]
  by_cases h : i < 18
  · simp [h, show i - 10 < 8 by omega]
  simp [h, show ¬ i - 10 < 8 by omega]
  by_cases h : i < 26
  · simp [h, show i - 18 < 8 by omega]
  simp [h, show ¬ i - 18 < 8 by omega]

/-- The bits of word 1 (R213). -/
theorem word1_bit (cls : BitVec 14) (fe : BitVec 3) (gn : BitVec 1) (g : BitVec 4) (c b : Byte) (i : Nat) :
    (word1 cls fe gn g c b).getLsbD i = if i < 2 then b.getLsbD (6 + i) else if i < 10 then c.getLsbD (i - 2)
      else if i < 14 then g.getLsbD (i - 10) else if i < 15 then gn.getLsbD (i - 14)
      else if i < 18 then fe.getLsbD (i - 15) else cls.getLsbD (i - 18) := by
  unfold word1
  change BitVec.getLsbD (w := 14 + 3 + 1 + 4 + 8 + 2) (cls ++ fe ++ gn ++ g ++ c ++ b.extractLsb' 6 2) i = _
  simp only [BitVec.getLsbD_append, Nat.sub_sub, BitVec.getLsbD_extractLsb']
  by_cases h : i < 2 <;> simp [h]
  by_cases h : i < 10
  · simp [h, show i - 2 < 8 by omega]
  simp only [h, show ¬ i - 2 < 8 by omega, if_false]
  by_cases h : i < 14
  · simp [h, show i - 10 < 4 by omega]
  simp only [h, show ¬ i - 10 < 4 by omega, if_false]
  by_cases h : i < 15
  · obtain rfl : i = 14 := by omega
    simp
  have h1 : ¬ i - 14 = 0 := by omega
  rw [if_neg h, if_neg h1]
  by_cases h : i < 18
  · rw [if_pos h, if_pos (show i - 15 < 3 by omega)]
  rw [if_neg h, if_neg (show ¬ i - 15 < 3 by omega)]

/-- The fields of word 0 (R212). -/
theorem word0_fields (b : BitVec 6) (a d op : Byte) (len : BitVec 2) :
    (word0 b a d op len).extractLsb' 0 2 = len ∧ (word0 b a d op len).extractLsb' 2 8 = op ∧
    (word0 b a d op len).extractLsb' 10 8 = d ∧ (word0 b a d op len).extractLsb' 18 8 = a ∧
    (word0 b a d op len).extractLsb' 26 6 = b := by
  refine ⟨?_, ?_, ?_, ?_, ?_⟩ <;> ext i hi <;> simp only [BitVec.getElem_extractLsb', word0_bit] <;>
    simp (disch := omega) only [Nat.zero_add, Nat.add_sub_cancel_left, if_pos, if_neg, BitVec.getLsbD_eq_getElem]

/-- The fields of word 1 outside its class fields (R213). -/
theorem word1_fields (cls : BitVec 14) (fe : BitVec 3) (gn : BitVec 1) (g : BitVec 4) (c b : Byte) :
    (word1 cls fe gn g c b).extractLsb' 0 2 = b.extractLsb' 6 2 ∧ (word1 cls fe gn g c b).extractLsb' 2 8 = c ∧
    (word1 cls fe gn g c b).extractLsb' 10 4 = g ∧ (word1 cls fe gn g c b).extractLsb' 14 1 = gn ∧
    (word1 cls fe gn g c b).extractLsb' 15 3 = fe := by
  refine ⟨?_, ?_, ?_, ?_, ?_⟩ <;> ext i hi <;> simp only [BitVec.getElem_extractLsb', word1_bit] <;>
    simp (disch := omega) only [Nat.zero_add, Nat.add_sub_cancel_left, if_pos, if_neg, BitVec.getLsbD_eq_getElem]

/-- The class fields of word 1 (R214). -/
theorem word1_cls (cls : BitVec 14) (fe : BitVec 3) (gn : BitVec 1) (g : BitVec 4) (c b : Byte) (k n : Nat) :
    (word1 cls fe gn g c b).extractLsb' (18 + k) n = cls.extractLsb' k n := by
  ext i hi
  simp only [BitVec.getElem_extractLsb', word1_bit]
  simp (disch := omega) only [if_neg]
  congr 1
  omega

/-- The class fields of class A (R214). -/
theorem clsA_fields (mod : BitVec 6) (ty : BitVec 4) (rnd : BitVec 3) (sat : BitVec 1) :
    (mod ++ ty ++ rnd ++ sat : BitVec 14).extractLsb' 8 6 = mod ∧ (mod ++ ty ++ rnd ++ sat : BitVec 14).extractLsb' 4 4 = ty ∧
    (mod ++ ty ++ rnd ++ sat : BitVec 14).extractLsb' 1 3 = rnd ∧ (mod ++ ty ++ rnd ++ sat : BitVec 14).extractLsb' 0 1 = sat := by
  refine ⟨?_, ?_, ?_, ?_⟩ <;> ext i hi <;> simp only [BitVec.getElem_extractLsb'] <;>
    change BitVec.getLsbD (w := 6 + 4 + 3 + 1) (mod ++ ty ++ rnd ++ sat) _ = _ <;>
    simp (disch := omega) only [BitVec.getLsbD_append, if_pos, if_neg] <;> rw [← BitVec.getLsbD_eq_getElem] <;> congr 1 <;> omega

/-- The class fields of class M (R214). -/
theorem clsM_fields (rq : BitVec 3) (ord : BitVec 2) (sys : BitVec 1) (ty : BitVec 4) (lo : BitVec 1) (modm : BitVec 3) :
    (rq ++ ord ++ sys ++ ty ++ lo ++ modm : BitVec 14).extractLsb' 11 3 = rq ∧
    (rq ++ ord ++ sys ++ ty ++ lo ++ modm : BitVec 14).extractLsb' 9 2 = ord ∧
    (rq ++ ord ++ sys ++ ty ++ lo ++ modm : BitVec 14).extractLsb' 8 1 = sys ∧
    (rq ++ ord ++ sys ++ ty ++ lo ++ modm : BitVec 14).extractLsb' 4 4 = ty ∧
    (rq ++ ord ++ sys ++ ty ++ lo ++ modm : BitVec 14).extractLsb' 3 1 = lo ∧
    (rq ++ ord ++ sys ++ ty ++ lo ++ modm : BitVec 14).extractLsb' 0 3 = modm := by
  refine ⟨?_, ?_, ?_, ?_, ?_, ?_⟩ <;> ext i hi <;> simp only [BitVec.getElem_extractLsb'] <;>
    change BitVec.getLsbD (w := 3 + 2 + 1 + 4 + 1 + 3) (rq ++ ord ++ sys ++ ty ++ lo ++ modm) _ = _ <;>
    simp (disch := omega) only [BitVec.getLsbD_append, if_pos, if_neg] <;> rw [← BitVec.getLsbD_eq_getElem] <;> congr 1 <;> omega

/-- The extended B field is BH:B (R213). -/
theorem byte_split (b : Byte) : (b.extractLsb' 6 2 ++ b.extractLsb' 0 6 : BitVec 8) = b := by
  ext i hi
  change BitVec.getLsbD (w := 2 + 6) (b.extractLsb' 6 2 ++ b.extractLsb' 0 6) i = _
  rw [BitVec.getLsbD_append]
  by_cases h : i < 6
  · simp [h, BitVec.getLsbD_extractLsb']
    rw [BitVec.getLsbD_eq_getElem]
  · simp [h, BitVec.getLsbD_extractLsb', show i - 6 < 2 by omega, show 6 + (i - 6) = i by omega]
    rw [BitVec.getLsbD_eq_getElem]

/-- The literal of LEN 10 and 11 (R217). -/
theorem lit_join (l : DWord) : (l.extractLsb' 32 32 ++ l.extractLsb' 0 32 : BitVec 64) = l := by
  ext i hi
  change BitVec.getLsbD (w := 32 + 32) (l.extractLsb' 32 32 ++ l.extractLsb' 0 32) i = _
  rw [BitVec.getLsbD_append]
  by_cases h : i < 32
  · simp [h, BitVec.getLsbD_extractLsb']
    rw [BitVec.getLsbD_eq_getElem]
  · simp [h, BitVec.getLsbD_extractLsb', show i - 32 < 32 by omega, show 32 + (i - 32) = i by omega]
    rw [BitVec.getLsbD_eq_getElem]

/-- A class-A form is read back, and a sweep. -/
theorem ofWords_extA (op : Byte) (f : ExtA) (w3 w4 : Word) (ho : op ≠ 0 ∧ op ≠ 0xFF) (hc : opCls op.toNat ≠ .e ∧ opCls op.toNat ≠ .m) :
    Parts.ofWords (word0 (f.b.extractLsb' 0 6) f.a f.d op 1) (word1 (f.mod ++ f.ty ++ f.rnd ++ f.sat) f.fe f.gn f.g f.c f.b)
      f.w2 w3 w4 = .extA op f ∧
    Parts.ofWords (word0 (f.b.extractLsb' 0 6) f.a f.d op 3) (word1 (f.mod ++ f.ty ++ f.rnd ++ f.sat) f.fe f.gn f.g f.c f.b)
      f.w2 w3 w4 = .sweepA op f (w4 ++ w3) := by
  have h1 := word1_fields (f.mod ++ f.ty ++ f.rnd ++ f.sat) f.fe f.gn f.g f.c f.b
  have hk (k n : Nat) := word1_cls (f.mod ++ f.ty ++ f.rnd ++ f.sat) f.fe f.gn f.g f.c f.b k n
  have hm := clsA_fields f.mod f.ty f.rnd f.sat
  have k8 := hk 8 6
  have k4 := hk 4 4
  have k1 := hk 1 3
  have k0 := hk 0 1
  constructor
  · have h0 := word0_fields (f.b.extractLsb' 0 6) f.a f.d op 1
    simp only [Nat.reduceAdd] at k8 k4 k1 k0
    simp only [Parts.ofWords, h0, h1, k8, k4, k1, k0, hm, byte_split]
    simp only [ho.1, ho.2, beq_iff_eq, Bool.or_eq_true, or_self, if_false]
    cases h : opCls op.toNat <;> simp_all
  · have h0 := word0_fields (f.b.extractLsb' 0 6) f.a f.d op 3
    simp only [Nat.reduceAdd] at k8 k4 k1 k0
    simp only [Parts.ofWords, h0, h1, k8, k4, k1, k0, hm, byte_split]
    simp only [ho.1, ho.2, beq_iff_eq, Bool.or_eq_true, or_self, if_false]
    cases h : opCls op.toNat <;> simp_all

/-- A class-E form is read back, and an absolute one. -/
theorem ofWords_extE (op : Byte) (f : ExtE) (w3 w4 : Word) (ho : op ≠ 0 ∧ op ≠ 0xFF) (hc : opCls op.toNat = .e) :
    Parts.ofWords (word0 (f.b.extractLsb' 0 6) f.a f.d op 1) (word1 f.sigx f.fe f.gn f.g f.c f.b) f.w2 w3 w4 = .extE op f ∧
    Parts.ofWords (word0 (f.b.extractLsb' 0 6) f.a f.d op 3) (word1 f.sigx f.fe f.gn f.g f.c f.b) f.w2 w3 w4
      = .absE op f (w4 ++ w3) := by
  have h1 := word1_fields f.sigx f.fe f.gn f.g f.c f.b
  have k0 := word1_cls f.sigx f.fe f.gn f.g f.c f.b 0 14
  have hs : f.sigx.extractLsb' 0 14 = f.sigx := BitVec.extractLsb'_eq_self
  constructor
  · have h0 := word0_fields (f.b.extractLsb' 0 6) f.a f.d op 1
    simp only [Nat.reduceAdd, hs] at k0
    simp only [Parts.ofWords, h0, h1, k0, byte_split, hc]
    simp_all
  · have h0 := word0_fields (f.b.extractLsb' 0 6) f.a f.d op 3
    simp only [Nat.reduceAdd, hs] at k0
    simp only [Parts.ofWords, h0, h1, k0, byte_split, hc]
    simp_all

/-- A class-M form is read back, and a sweep. -/
theorem ofWords_extM (op : Byte) (f : ExtM) (w3 w4 : Word) (ho : op ≠ 0 ∧ op ≠ 0xFF) (hc : opCls op.toNat = .m) :
    Parts.ofWords (word0 (f.b.extractLsb' 0 6) f.a f.d op 1)
      (word1 (f.rq ++ f.ord ++ f.sys ++ f.ty ++ f.lo ++ f.modm) f.fe f.gn f.g f.c f.b) f.w2 w3 w4 = .extM op f ∧
    Parts.ofWords (word0 (f.b.extractLsb' 0 6) f.a f.d op 3)
      (word1 (f.rq ++ f.ord ++ f.sys ++ f.ty ++ f.lo ++ f.modm) f.fe f.gn f.g f.c f.b) f.w2 w3 w4
      = .sweepM op f (w4 ++ w3) := by
  have h1 := word1_fields (f.rq ++ f.ord ++ f.sys ++ f.ty ++ f.lo ++ f.modm) f.fe f.gn f.g f.c f.b
  have hk (k n : Nat) := word1_cls (f.rq ++ f.ord ++ f.sys ++ f.ty ++ f.lo ++ f.modm) f.fe f.gn f.g f.c f.b k n
  have hm := clsM_fields f.rq f.ord f.sys f.ty f.lo f.modm
  have a1 := hk 11 3
  have a2 := hk 9 2
  have a3 := hk 8 1
  have a4 := hk 4 4
  have a5 := hk 3 1
  have a6 := hk 0 3
  simp only [Nat.reduceAdd] at a1 a2 a3 a4 a5 a6
  constructor
  · have h0 := word0_fields (f.b.extractLsb' 0 6) f.a f.d op 1
    simp only [Parts.ofWords, h0, h1, a1, a2, a3, a4, a5, a6, hm, byte_split, hc]
    simp_all
  · have h0 := word0_fields (f.b.extractLsb' 0 6) f.a f.d op 3
    simp only [Parts.ofWords, h0, h1, a1, a2, a3, a4, a5, a6, hm, byte_split, hc]
    simp_all

/-- A compact form is read back, and a literal one. -/
theorem ofWords_word0 (op : Byte) (f : Word0) (w1 w2 w3 w4 : Word) (ho : op ≠ 0 ∧ op ≠ 0xFF) :
    Parts.ofWords (word0 f.b f.a f.d op 0) w1 w2 w3 w4 = .compact op f ∧
    Parts.ofWords (word0 f.b f.a f.d op 2) w1 w2 w3 w4 = .lit op f (w2 ++ w1) := by
  constructor
  · have h0 := word0_fields f.b f.a f.d op 0
    simp only [Parts.ofWords, h0]
    simp_all
  · have h0 := word0_fields f.b f.a f.d op 2
    simp only [Parts.ofWords, h0]
    simp_all

/-- An opcode that accepts a length is neither 0x00 nor 0xFF. -/
theorem opLens_op (op : Byte) (k : Nat) (hk : (opLens op.toNat).contains k = true) : op ≠ 0 ∧ op ≠ 0xFF := by
  constructor <;> rintro rfl <;> revert hk <;> simp [opLens, inRanges, sweepCapable]

/-- What parts that pass the checks are (R228). -/
theorem check_none (p : Parts) (m : Mode) (h : p.check m = none) :
    (∃ w, p = .raw w ∧ (w = 0 ∨ p.op = 0xFF)) ∨
      ((opLens p.op.toNat).contains p.len = true ∧ p.formOk m.hnd = true ∧ ∀ w, p ≠ .raw w) := by
  cases p with
  | raw w =>
    left
    refine ⟨w, rfl, ?_⟩
    simp only [Parts.check] at h
    by_contra hc
    simp_all
  | _ =>
    right
    simp only [Parts.check] at h
    split at h
    · simp at h
    · split at h
      · simp at h
      · split at h
        · simp at h
        · rename_i h1 h2 h3
          refine ⟨by simpa using h1, by simpa using h3, by simp⟩

/-- A sweep-capable opcode is of class A (R226). -/
theorem sweepCapable_cls : ∀ op : Byte, sweepCapable op.toNat = true → opCls op.toNat = .a := by decide

/-- The parts are read back from their words. -/
theorem ofWords_words (p : Parts) (m : Mode) (h : p.check m = none) (hi : p.instr.isSome = true) :
    Parts.ofWords (wordAt p.words 0) (wordAt p.words 1) (wordAt p.words 2) (wordAt p.words 3) (wordAt p.words 4) = p := by
  rcases check_none p m h with ⟨w, rfl, hw⟩ | ⟨hl, hf, hr⟩
  · rcases hw with rfl | hw
    · rfl
    · simp only [Parts.op] at hw
      simp [Parts.words, wordAt, Parts.ofWords, hw]
  · have ho := opLens_op _ _ hl
    cases p with
    | raw w => exact absurd rfl (hr w)
    | compact op f => exact (ofWords_word0 op f _ _ _ _ ho).1
    | extA op f =>
      have hc : opCls op.toNat = .a := by simp [Parts.formOk] at hf; exact hf.1
      exact (ofWords_extA op f _ _ ho (by simp [hc])).1
    | extE op f =>
      have hc : opCls op.toNat = .e := by simp [Parts.formOk] at hf; exact hf.1
      exact (ofWords_extE op f _ _ ho hc).1
    | extM op f =>
      have hc : opCls op.toNat = .m := by simp [Parts.formOk] at hf; exact hf.1
      exact (ofWords_extM op f _ _ ho hc).1
    | lit op f l =>
      have h2 := (ofWords_word0 op f (l.extractLsb' 0 32) (l.extractLsb' 32 32) 0 0 ho).2
      rw [lit_join] at h2
      exact h2
    | absE op f l =>
      have hc : opCls op.toNat = .e := by
        simp only [Parts.instr] at hi
        split at hi
        · rename_i h1; simp at h1; subst h1; rfl
        · split at hi
          · rename_i h1; simp at h1; subst h1; rfl
          · simp at hi
      have h2 := (ofWords_extE op f (l.extractLsb' 0 32) (l.extractLsb' 32 32) ho hc).2
      rw [lit_join] at h2
      exact h2
    | sweepA op f l =>
      have hc : opCls op.toNat = .a := by
        simp [Parts.formOk] at hf
        exact sweepCapable_cls op hf.1
      have h2 := (ofWords_extA op f (l.extractLsb' 0 32) (l.extractLsb' 32 32) ho (by simp [hc])).2
      rw [lit_join] at h2
      exact h2
    | sweepM op f l =>
      have hc : opCls op.toNat = .m := by
        simp only [Parts.instr] at hi
        split at hi
        · rename_i h1; simp at h1; subst h1; rfl
        · split at hi
          · rename_i h1; simp at h1; subst h1; rfl
          · simp at hi
      have h2 := (ofWords_extM op f (l.extractLsb' 0 32) (l.extractLsb' 32 32) ho hc).2
      rw [lit_join] at h2
      exact h2


/-- The number of words is what word 0 says (R210). -/
theorem words_len (p : Parts) (m : Mode) (h : p.check m = none) (hi : p.instr.isSome = true) :
    p.words.length = wordCount (wordAt p.words 0) := by
  rcases check_none p m h with ⟨w, rfl, hw⟩ | ⟨hl, hf, hr⟩
  · rcases hw with rfl | hw
    · rfl
    · simp only [Parts.op] at hw
      simp [Parts.words, wordAt, wordCount, hw]
  · have ho := opLens_op _ _ hl
    cases p with
    | raw w => exact absurd rfl (hr w)
    | compact op f =>
      have h0 := word0_fields f.b f.a f.d op 0
      simp only [Parts.words, wordAt, wordCount, List.getElem?_cons_zero, Option.getD_some, h0]
      simp_all [Parts.op]
    | lit op f l =>
      have h0 := word0_fields f.b f.a f.d op 2
      simp only [Parts.words, wordsLit, wordAt, wordCount, List.getElem?_cons_zero, Option.getD_some, h0]
      simp_all [Parts.op]
    | extA op f | extE op f | extM op f =>
      have h0 := word0_fields (f.b.extractLsb' 0 6) f.a f.d op 1
      simp only [Parts.words, wordsA, wordsE, wordsM, wordAt, wordCount, List.getElem?_cons_zero, Option.getD_some, h0]
      simp_all [Parts.op]
    | absE op f l | sweepA op f l | sweepM op f l =>
      have h0 := word0_fields (f.b.extractLsb' 0 6) f.a f.d op 3
      simp only [Parts.words, wordsA, wordsE, wordsM, wordsLit, wordAt, wordCount, List.cons_append, List.getElem?_cons_zero, Option.getD_some, h0]
      simp_all [Parts.op]

/-- A word past the end reads 0. -/
theorem wordAt_nil (ws : List Word) (k : Nat) (h : ws.length ≤ k) : wordAt ws k = 0 := by
  simp [wordAt, List.getElem?_eq_none h]

/-- The decoder on as many words as word 0 asks for. -/
theorem decode_eq (m : Mode) (ws : List Word) (h : ws.length = wordCount (wordAt ws 0)) :
    decode m ws = decodeWords m (wordAt ws 0) (wordAt ws 1) (wordAt ws 2) (wordAt ws 3) (wordAt ws 4) := by
  unfold decode
  simp only
  rw [← h]
  have h1 : (if 1 < ws.length then wordAt ws 1 else 0) = wordAt ws 1 := by
    split
    · rfl
    · exact (wordAt_nil _ _ (by omega)).symm
  have hc : ws.length = 1 ∨ ws.length = 3 ∨ ws.length = 5 := by
    rw [h]; unfold wordCount; simp only; split
    · simp
    · split <;> simp
  have h2 : (if 1 < ws.length then wordAt ws 2 else 0) = wordAt ws 2 := by
    split
    · rfl
    · exact (wordAt_nil _ _ (by omega)).symm
  have h3 : (if 3 < ws.length then wordAt ws 3 else 0) = wordAt ws 3 := by
    split
    · rfl
    · exact (wordAt_nil _ _ (by omega)).symm
  have h4 : (if 3 < ws.length then wordAt ws 4 else 0) = wordAt ws 4 := by
    split
    · rfl
    · exact (wordAt_nil _ _ (by omega)).symm
  rw [h1, h2, h3, h4]

end Sys2Proof.Laws
end

