-- ==== Sys2Proof/Laws/Table.lean ====
section
/-! SUPPORT. Laws of the sparse tables: what a table reads after an entry was set, erased or changed, and that these
keep the numbers rising; and that every operation on byte memory keeps its canonical form. -/

namespace Sys2Proof.Machine

variable {α : Type}

@[simp] theorem Table.find_nil (k : Nat) : Table.find ([] : Table α) k = none := rfl

theorem Table.find_cons (j : Nat) (a : α) (t : Table α) (k : Nat) :
    Table.find ((j, a) :: t) k = if j = k then some a else Table.find t k := rfl

/-- The entry that was set is read back. -/
@[simp] theorem Table.find_set_same (t : Table α) (k : Nat) (a : α) : Table.find (Table.set t k a) k = some a := by
  induction t with
  | nil => simp [Table.set, Table.find]
  | cons e t ih =>
    obtain ⟨j, b⟩ := e
    unfold Table.set
    split
    · simp [Table.find]
    · split
      · simp [Table.find]
      · rename_i h
        have : j ≠ k := fun e => h e.symm
        simp [Table.find, this, ih]

/-- Every other entry is as before. -/
@[simp] theorem Table.find_set_other (t : Table α) (k j : Nat) (a : α) (h : j ≠ k) :
    Table.find (Table.set t k a) j = Table.find t j := by
  induction t with
  | nil => simp [Table.set, Table.find, Ne.symm h]
  | cons e t ih =>
    obtain ⟨i, b⟩ := e
    unfold Table.set
    split
    · simp [Table.find, Ne.symm h]
    · split
      · rename_i h1
        simp [Table.find, Ne.symm h, ← h1]
      · simp [Table.find, ih]

/-- Every other entry is as before when one is erased. -/
theorem Table.find_erase_other (t : Table α) (k j : Nat) (h : j ≠ k) : Table.find (Table.erase t k) j = Table.find t j := by
  induction t with
  | nil => rfl
  | cons e t ih =>
    obtain ⟨i, b⟩ := e
    unfold Table.erase
    split
    · rename_i h1
      simp [Table.find, h1, Ne.symm h, ih]
    · simp [Table.find, ih]

/-- An erased entry is gone. -/
@[simp] theorem Table.find_erase_same (t : Table α) (k : Nat) : Table.find (Table.erase t k) k = none := by
  induction t with
  | nil => rfl
  | cons e t ih =>
    obtain ⟨i, b⟩ := e
    unfold Table.erase
    split
    · exact ih
    · rename_i h
      simp [Table.find, h, ih]

/-- What is found after some numbers were dropped is what was found before, where it was kept. -/
theorem Table.find_drop (t : Table α) (p : Nat → α → Bool) (k : Nat) :
    Table.find (Table.drop t p) k = (Table.find t k).filter fun a => !p k a := by
  have filter_find : ∀ (q : Nat × α → Bool) (t : Table α) (k : Nat),
      (∀ a, Table.find t k = some a → q (k, a) = true) → (∀ e ∈ t, e.1 = k → q e = true → q (k, e.2) = true) →
      Table.find (t.filter q) k = Table.find t k ∨ Table.find t k = none := by
    intro q t k h _
    induction t with
    | nil => exact .inl rfl
    | cons e t ih =>
      obtain ⟨j, b⟩ := e
      by_cases hj : j = k
      · subst hj
        have hb := h b (by simp [Table.find])
        exact .inl (by simp [Table.find, hb])
      · have h' : ∀ a, Table.find t k = some a → q (k, a) = true := fun a ha => h a (by simpa [Table.find, hj] using ha)
        rcases ih h' (by intro e he hk hq; rw [← hk]; exact hq) with h1 | h1
        · refine .inl ?_
          by_cases hq : q (j, b) = true
          · simp [hq, Table.find, hj, h1]
          · simp [hq, Table.find, hj, h1]
        · exact .inr (by simpa [Table.find, hj] using h1)
  have none_of : ∀ (q : Nat × α → Bool) (t : Table α) (k : Nat), (∀ e ∈ t, e.1 = k → q e = false) →
      Table.find (t.filter q) k = none := by
    intro q t k h
    induction t with
    | nil => rfl
    | cons e t ih =>
      obtain ⟨j, b⟩ := e
      have ih' := ih fun e he => h e (by simp [he])
      by_cases hq : q (j, b) = true
      · have hj : j ≠ k := fun hk => by simp [h (j, b) (by simp) hk] at hq
        simp [hq, Table.find, hj, ih']
      · simp [hq, ih']
  have none_mem : ∀ (t : Table α) (k : Nat), Table.find t k = none → ∀ e ∈ t, e.1 ≠ k := by
    intro t k h
    induction t with
    | nil => simp
    | cons e t ih =>
      obtain ⟨j, b⟩ := e
      by_cases hj : j = k
      · simp [Table.find, hj] at h
      · intro e he
        simp only [List.mem_cons] at he
        rcases he with rfl | he
        · exact hj
        · exact ih (by simpa [Table.find, hj] using h) e he
  unfold Table.drop
  cases hf : Table.find t k with
  | none =>
    simp only [Option.filter_none]
    exact none_of _ _ _ fun e he hk => absurd hk (none_mem t k hf e he)
  | some a =>
    cases hp : p k a with
    | true =>
      simp only [Option.filter, hp, Bool.not_true, Bool.false_eq_true, if_false]
      refine none_of _ _ _ fun e _ hk => ?_
      simp [hk, hf, hp]
    | false =>
      simp only [Option.filter, hp, Bool.not_false, if_true]
      rcases filter_find (fun e => !(p e.1 e.2 || (Table.find t e.1).any (p e.1))) t k
        (by intro b hb; rw [hf] at hb; cases hb; simp [hf, hp]) (by intro e he hk hq; rw [← hk]; exact hq) with h1 | h1
      · rw [h1, hf]
      · rw [hf] at h1; cases h1

/-- A changed entry is read back changed. -/
@[simp] theorem Table.find_modify_same (t : Table α) (k : Nat) (f : α → α) :
    Table.find (Table.modify t k f) k = (Table.find t k).map f := by
  unfold Table.modify
  cases h : Table.find t k <;> simp [h]

/-- Every other entry is as before when one is changed. -/
@[simp] theorem Table.find_modify_other (t : Table α) (k j : Nat) (f : α → α) (h : j ≠ k) :
    Table.find (Table.modify t k f) j = Table.find t j := by
  unfold Table.modify
  cases Table.find t k <;> simp [h]

@[simp] theorem Table.findD_set_same (t : Table α) (k : Nat) (a d : α) : Table.findD (Table.set t k a) k d = a := by
  simp [Table.findD]

@[simp] theorem Table.findD_set_other (t : Table α) (k j : Nat) (a d : α) (h : j ≠ k) :
    Table.findD (Table.set t k a) j d = Table.findD t j d := by
  simp [Table.findD, h]

/-- Every number of a table is above `i`. -/
def Table.above (i : Nat) (t : Table α) : Prop := ∀ e ∈ t, i < e.1

/-- A table is sorted when its first number is below the rest, which is sorted. -/
theorem Table.sorted_cons (j : Nat) (a : α) (t : Table α) :
    Table.sorted ((j, a) :: t) = true ↔ Table.above j t ∧ Table.sorted t = true := by
  induction t generalizing j a with
  | nil => simp [Table.sorted, Table.above]
  | cons e t ih =>
    obtain ⟨i, b⟩ := e
    simp only [Table.sorted, Bool.and_eq_true, decide_eq_true_eq, Table.above, List.mem_cons, forall_eq_or_imp]
    constructor
    · rintro ⟨h1, h2⟩
      exact ⟨⟨h1, fun e he => Nat.lt_trans h1 ((ih i b).1 h2 |>.1 e he)⟩, h2⟩
    · rintro ⟨⟨h1, -⟩, h2⟩
      exact ⟨h1, h2⟩

theorem Table.above_set (i k : Nat) (a : α) (t : Table α) (hk : i < k) (h : Table.above i t) : Table.above i (Table.set t k a) := by
  induction t with
  | nil => simpa [Table.set, Table.above] using hk
  | cons e t ih =>
    obtain ⟨j, b⟩ := e
    have hj : i < j := h (j, b) (by simp)
    have ht : Table.above i t := fun e he => h e (by simp [he])
    unfold Table.set
    split
    · intro e he
      simp only [List.mem_cons] at he
      rcases he with rfl | rfl | he
      · exact hk
      · exact hj
      · exact ht e he
    · split
      · intro e he
        simp only [List.mem_cons] at he
        rcases he with rfl | he
        · exact hk
        · exact ht e he
      · intro e he
        simp only [List.mem_cons] at he
        rcases he with rfl | he
        · exact hj
        · exact ih ht e he

theorem Table.above_erase (i k : Nat) (t : Table α) (h : Table.above i t) : Table.above i (Table.erase t k) := by
  induction t with
  | nil => exact h
  | cons e t ih =>
    obtain ⟨j, b⟩ := e
    have ht : Table.above i t := fun e he => h e (by simp [he])
    unfold Table.erase
    split
    · exact ih ht
    · intro e he
      simp only [List.mem_cons] at he
      rcases he with rfl | he
      · exact h _ (by simp)
      · exact ih ht e he

/-- Setting an entry keeps the numbers rising. -/
theorem Table.sorted_set (t : Table α) (k : Nat) (a : α) (h : Table.sorted t = true) : Table.sorted (Table.set t k a) = true := by
  induction t with
  | nil => rfl
  | cons e t ih =>
    obtain ⟨j, b⟩ := e
    have h0 := (Table.sorted_cons j b t).1 h
    unfold Table.set
    split
    · rename_i hk
      refine (Table.sorted_cons _ _ _).2 ⟨?_, h⟩
      intro e he
      simp only [List.mem_cons] at he
      rcases he with rfl | he
      · exact hk
      · exact Nat.lt_trans hk (h0.1 e he)
    · split
      · rename_i hk
        subst hk
        exact (Table.sorted_cons _ _ _).2 h0
      · exact (Table.sorted_cons _ _ _).2 ⟨Table.above_set _ _ _ _ (by omega) h0.1, ih h0.2⟩

/-- Erasing an entry keeps the numbers rising. -/
theorem Table.sorted_erase (t : Table α) (k : Nat) (h : Table.sorted t = true) : Table.sorted (Table.erase t k) = true := by
  induction t with
  | nil => rfl
  | cons e t ih =>
    obtain ⟨j, b⟩ := e
    have h0 := (Table.sorted_cons j b t).1 h
    unfold Table.erase
    split
    · exact ih h0.2
    · exact (Table.sorted_cons _ _ _).2 ⟨Table.above_erase _ _ _ h0.1, ih h0.2⟩

/-- What is set in a table of entries that all satisfy `p` and satisfies it leaves such a table. -/
theorem Table.all_set (p : Nat × α → Bool) (t : Table α) (k : Nat) (a : α) (ha : p (k, a) = true) (h : t.all p = true) :
    (Table.set t k a).all p = true := by
  induction t with
  | nil => simp [Table.set, ha]
  | cons e t ih =>
    obtain ⟨j, b⟩ := e
    simp only [List.all_cons, Bool.and_eq_true] at h
    unfold Table.set
    split
    · simp [ha, h.1, h.2]
    · split
      · simp [ha, h.2]
      · simp [h.1, ih h.2]

theorem Table.all_erase (p : Nat × α → Bool) (t : Table α) (k : Nat) (h : t.all p = true) : (Table.erase t k).all p = true := by
  induction t with
  | nil => rfl
  | cons e t ih =>
    obtain ⟨j, b⟩ := e
    simp only [List.all_cons, Bool.and_eq_true] at h
    unfold Table.erase
    split
    · exact ih h.2
    · simp [h.1, ih h.2]

/-- Writing one byte keeps the canonical form. -/
theorem Memory.wf_put (m : Memory) (a : Nat) (b : Byte) (h : Memory.wf m = true) : Memory.wf (Memory.put m a b) = true := by
  simp only [Memory.wf, Bool.and_eq_true] at h ⊢
  unfold Memory.put
  split
  · exact ⟨Table.sorted_erase _ _ h.1, Table.all_erase _ _ _ h.2⟩
  · rename_i hb
    exact ⟨Table.sorted_set _ _ _ h.1, Table.all_set _ _ _ _ (by simpa using hb) h.2⟩

/-- Storing a number keeps the canonical form. -/
theorem Memory.wf_store (n : Nat) (m : Memory) (a v : Nat) (h : Memory.wf m = true) : Memory.wf (Memory.store m a n v) = true := by
  induction n generalizing m a v with
  | zero => exact h
  | succ n ih => exact ih _ _ _ (Memory.wf_put _ _ _ h)

/-- Storing a list of bytes keeps the canonical form. -/
theorem Memory.wf_putBytes (bs : List Byte) (m : Memory) (a : Nat) (h : Memory.wf m = true) : Memory.wf (Memory.putBytes m a bs) = true := by
  induction bs generalizing m a with
  | nil => exact h
  | cons b t ih => exact ih _ _ (Memory.wf_put _ _ _ h)

/-- Erasing an entry keeps the canonical form. -/
theorem Memory.wf_erase (m : Memory) (a : Nat) (h : Memory.wf m = true) : Memory.wf (Table.erase m a) = true := by
  simp only [Memory.wf, Bool.and_eq_true] at h ⊢
  exact ⟨Table.sorted_erase _ _ h.1, Table.all_erase _ _ _ h.2⟩

/-- The byte that was written is read back. -/
@[simp] theorem Memory.byte_put_same (m : Memory) (a : Nat) (b : Byte) : Memory.byte (Memory.put m a b) a = b := by
  unfold Memory.byte Memory.put
  split
  · simp [Table.findD, *]
  · simp [Table.findD]

/-- Every other byte reads as before. -/
theorem Memory.byte_put_other (m : Memory) (a c : Nat) (b : Byte) (h : c ≠ a) : Memory.byte (Memory.put m a b) c = Memory.byte m c := by
  unfold Memory.byte Memory.put
  split
  · simp [Table.findD, Table.find_erase_other _ _ _ h]
  · simp [Table.findD, h]

end Sys2Proof.Machine
end

