-- ==== Sys2Proof/Laws/State.lean ====
section
/-! SUPPORT. What each update of the state leaves: one lemma for each field and update, and what is read back where it
was written. -/

namespace Sys2Proof.Machine

/-! A group written leaves every other field. -/
@[simp] theorem State.setGroup_teams (s : State) (gid : Nat) (g : Group) : (s.setGroup gid g).teams = s.teams := rfl
@[simp] theorem State.setGroup_grids (s : State) (gid : Nat) (g : Group) : (s.setGroup gid g).grids = s.grids := rfl
@[simp] theorem State.setGroup_ctxs (s : State) (gid : Nat) (g : Group) : (s.setGroup gid g).ctxs = s.ctxs := rfl
@[simp] theorem State.setGroup_cores (s : State) (gid : Nat) (g : Group) : (s.setGroup gid g).cores = s.cores := rfl
@[simp] theorem State.setGroup_units (s : State) (gid : Nat) (g : Group) : (s.setGroup gid g).units = s.units := rfl
@[simp] theorem State.setGroup_bhs (s : State) (gid : Nat) (g : Group) : (s.setGroup gid g).bhs = s.bhs := rfl
@[simp] theorem State.setGroup_saved (s : State) (gid : Nat) (g : Group) : (s.setGroup gid g).saved = s.saved := rfl
@[simp] theorem State.setGroup_images (s : State) (gid : Nat) (g : Group) : (s.setGroup gid g).images = s.images := rfl
@[simp] theorem State.setGroup_home (s : State) (gid : Nat) (g : Group) : (s.setGroup gid g).home = s.home := rfl
@[simp] theorem State.setGroup_hbm (s : State) (gid : Nat) (g : Group) : (s.setGroup gid g).hbm = s.hbm := rfl
@[simp] theorem State.setGroup_lines (s : State) (gid : Nat) (g : Group) : (s.setGroup gid g).lines = s.lines := rfl
@[simp] theorem State.setGroup_owners (s : State) (gid : Nat) (g : Group) : (s.setGroup gid g).owners = s.owners := rfl
@[simp] theorem State.setGroup_poison (s : State) (gid : Nat) (g : Group) : (s.setGroup gid g).poison = s.poison := rfl
@[simp] theorem State.setGroup_net (s : State) (gid : Nat) (g : Group) : (s.setGroup gid g).net = s.net := rfl
@[simp] theorem State.setGroup_pends (s : State) (gid : Nat) (g : Group) : (s.setGroup gid g).pends = s.pends := rfl
@[simp] theorem State.setGroup_engines (s : State) (gid : Nat) (g : Group) : (s.setGroup gid g).engines = s.engines := rfl
@[simp] theorem State.setGroup_messages (s : State) (gid : Nat) (g : Group) : (s.setGroup gid g).messages = s.messages := rfl
@[simp] theorem State.setGroup_shoots (s : State) (gid : Nat) (g : Group) : (s.setGroup gid g).shoots = s.shoots := rfl
@[simp] theorem State.setGroup_caches (s : State) (gid : Nat) (g : Group) : (s.setGroup gid g).caches = s.caches := rfl
@[simp] theorem State.setGroup_leaves (s : State) (gid : Nat) (g : Group) : (s.setGroup gid g).leaves = s.leaves := rfl
@[simp] theorem State.setGroup_outside (s : State) (gid : Nat) (g : Group) : (s.setGroup gid g).outside = s.outside := rfl
@[simp] theorem State.setGroup_shootGo (s : State) (gid : Nat) (g : Group) : (s.setGroup gid g).shootGo = s.shootGo := rfl
@[simp] theorem State.setGroup_shoot0 (s : State) (gid : Nat) (g : Group) : (s.setGroup gid g).shoot0 = s.shoot0 := rfl
@[simp] theorem State.setGroup_shoot1 (s : State) (gid : Nat) (g : Group) : (s.setGroup gid g).shoot1 = s.shoot1 := rfl
@[simp] theorem State.setGroup_posted (s : State) (gid : Nat) (g : Group) : (s.setGroup gid g).posted = s.posted := rfl
@[simp] theorem State.setGroup_fabWaits (s : State) (gid : Nat) (g : Group) : (s.setGroup gid g).fabWaits = s.fabWaits := rfl
@[simp] theorem State.setGroup_linkWaits (s : State) (gid : Nat) (g : Group) : (s.setGroup gid g).linkWaits = s.linkWaits := rfl
@[simp] theorem State.setGroup_peerReplies (s : State) (gid : Nat) (g : Group) : (s.setGroup gid g).peerReplies = s.peerReplies := rfl
@[simp] theorem State.setGroup_tntShape (s : State) (gid : Nat) (g : Group) : (s.setGroup gid g).tntShape = s.tntShape := rfl
@[simp] theorem State.setGroup_tntFab (s : State) (gid : Nat) (g : Group) : (s.setGroup gid g).tntFab = s.tntFab := rfl
@[simp] theorem State.setGroup_tntQrate (s : State) (gid : Nat) (g : Group) : (s.setGroup gid g).tntQrate = s.tntQrate := rfl
@[simp] theorem State.setGroup_tokens (s : State) (gid : Nat) (g : Group) : (s.setGroup gid g).tokens = s.tokens := rfl
@[simp] theorem State.setGroup_mcSet (s : State) (gid : Nat) (g : Group) : (s.setGroup gid g).mcSet = s.mcSet := rfl
@[simp] theorem State.setGroup_tntErr (s : State) (gid : Nat) (g : Group) : (s.setGroup gid g).tntErr = s.tntErr := rfl
@[simp] theorem State.setGroup_fabCfg (s : State) (gid : Nat) (g : Group) : (s.setGroup gid g).fabCfg = s.fabCfg := rfl
@[simp] theorem State.setGroup_retrainBudget (s : State) (gid : Nat) (g : Group) : (s.setGroup gid g).retrainBudget = s.retrainBudget := rfl
@[simp] theorem State.setGroup_ports (s : State) (gid : Nat) (g : Group) : (s.setGroup gid g).ports = s.ports := rfl
@[simp] theorem State.setGroup_peerPort (s : State) (gid : Nat) (g : Group) : (s.setGroup gid g).peerPort = s.peerPort := rfl
@[simp] theorem State.setGroup_lostWrites (s : State) (gid : Nat) (g : Group) : (s.setGroup gid g).lostWrites = s.lostWrites := rfl
@[simp] theorem State.setGroup_sevqGet (s : State) (gid : Nat) (g : Group) : (s.setGroup gid g).sevqGet = s.sevqGet := rfl
@[simp] theorem State.setGroup_sevqPut (s : State) (gid : Nat) (g : Group) : (s.setGroup gid g).sevqPut = s.sevqPut := rfl
@[simp] theorem State.setGroup_sevqCount (s : State) (gid : Nat) (g : Group) : (s.setGroup gid g).sevqCount = s.sevqCount := rfl
@[simp] theorem State.setGroup_sevqLost (s : State) (gid : Nat) (g : Group) : (s.setGroup gid g).sevqLost = s.sevqLost := rfl
@[simp] theorem State.setGroup_sevqGap (s : State) (gid : Nat) (g : Group) : (s.setGroup gid g).sevqGap = s.sevqGap := rfl
@[simp] theorem State.setGroup_moltNext (s : State) (gid : Nat) (g : Group) : (s.setGroup gid g).moltNext = s.moltNext := rfl
@[simp] theorem State.setGroup_bootStage (s : State) (gid : Nat) (g : Group) : (s.setGroup gid g).bootStage = s.bootStage := rfl
@[simp] theorem State.setGroup_bootOk (s : State) (gid : Nat) (g : Group) : (s.setGroup gid g).bootOk = s.bootOk := rfl
@[simp] theorem State.setGroup_bootFails (s : State) (gid : Nat) (g : Group) : (s.setGroup gid g).bootFails = s.bootFails := rfl
@[simp] theorem State.setGroup_bootReason (s : State) (gid : Nat) (g : Group) : (s.setGroup gid g).bootReason = s.bootReason := rfl
@[simp] theorem State.setGroup_tadReq (s : State) (gid : Nat) (g : Group) : (s.setGroup gid g).tadReq = s.tadReq := rfl
@[simp] theorem State.setGroup_mbxOpen (s : State) (gid : Nat) (g : Group) : (s.setGroup gid g).mbxOpen = s.mbxOpen := rfl
@[simp] theorem State.setGroup_mbxBusy (s : State) (gid : Nat) (g : Group) : (s.setGroup gid g).mbxBusy = s.mbxBusy := rfl
@[simp] theorem State.setGroup_tadDone (s : State) (gid : Nat) (g : Group) : (s.setGroup gid g).tadDone = s.tadDone := rfl
@[simp] theorem State.setGroup_bootImage (s : State) (gid : Nat) (g : Group) : (s.setGroup gid g).bootImage = s.bootImage := rfl
@[simp] theorem State.setGroup_mbxCode (s : State) (gid : Nat) (g : Group) : (s.setGroup gid g).mbxCode = s.mbxCode := rfl
@[simp] theorem State.setGroup_mbxReason (s : State) (gid : Nat) (g : Group) : (s.setGroup gid g).mbxReason = s.mbxReason := rfl
@[simp] theorem State.setGroup_mbxData (s : State) (gid : Nat) (g : Group) : (s.setGroup gid g).mbxData = s.mbxData := rfl
@[simp] theorem State.setGroup_nvme (s : State) (gid : Nat) (g : Group) : (s.setGroup gid g).nvme = s.nvme := rfl
@[simp] theorem State.setGroup_endpointUp (s : State) (gid : Nat) (g : Group) : (s.setGroup gid g).endpointUp = s.endpointUp := rfl
@[simp] theorem State.setGroup_vfReset (s : State) (gid : Nat) (g : Group) : (s.setGroup gid g).vfReset = s.vfReset := rfl
@[simp] theorem State.setGroup_doorbells (s : State) (gid : Nat) (g : Group) : (s.setGroup gid g).doorbells = s.doorbells := rfl
@[simp] theorem State.setGroup_aperture (s : State) (gid : Nat) (g : Group) : (s.setGroup gid g).aperture = s.aperture := rfl
@[simp] theorem State.setGroup_hostData (s : State) (gid : Nat) (g : Group) : (s.setGroup gid g).hostData = s.hostData := rfl
@[simp] theorem State.setGroup_spdmLast (s : State) (gid : Nat) (g : Group) : (s.setGroup gid g).spdmLast = s.spdmLast := rfl
@[simp] theorem State.setGroup_hostWrites (s : State) (gid : Nat) (g : Group) : (s.setGroup gid g).hostWrites = s.hostWrites := rfl
@[simp] theorem State.setGroup_msix (s : State) (gid : Nat) (g : Group) : (s.setGroup gid g).msix = s.msix := rfl
@[simp] theorem State.setGroup_hostIrqs (s : State) (gid : Nat) (g : Group) : (s.setGroup gid g).hostIrqs = s.hostIrqs := rfl
@[simp] theorem State.setGroup_urSent (s : State) (gid : Nat) (g : Group) : (s.setGroup gid g).urSent = s.urSent := rfl
@[simp] theorem State.setGroup_vfRunning (s : State) (gid : Nat) (g : Group) : (s.setGroup gid g).vfRunning = s.vfRunning := rfl
@[simp] theorem State.setGroup_agenda (s : State) (gid : Nat) (g : Group) : (s.setGroup gid g).agenda = s.agenda := rfl
@[simp] theorem State.setGroup_cur (s : State) (gid : Nat) (g : Group) : (s.setGroup gid g).cur = s.cur := rfl
@[simp] theorem State.setGroup_curSlot (s : State) (gid : Nat) (g : Group) : (s.setGroup gid g).curSlot = s.curSlot := rfl
@[simp] theorem State.setGroup_clock (s : State) (gid : Nat) (g : Group) : (s.setGroup gid g).clock = s.clock := rfl
@[simp] theorem State.setGroup_tick (s : State) (gid : Nat) (g : Group) : (s.setGroup gid g).tick = s.tick := rfl
@[simp] theorem State.setGroup_nextId (s : State) (gid : Nat) (g : Group) : (s.setGroup gid g).nextId = s.nextId := rfl

/-! A group changed leaves every other field. -/
@[simp] theorem State.modGroup_teams (s : State) (gid : Nat) (f : Group → Group) : (s.modGroup gid f).teams = s.teams := rfl
@[simp] theorem State.modGroup_grids (s : State) (gid : Nat) (f : Group → Group) : (s.modGroup gid f).grids = s.grids := rfl
@[simp] theorem State.modGroup_ctxs (s : State) (gid : Nat) (f : Group → Group) : (s.modGroup gid f).ctxs = s.ctxs := rfl
@[simp] theorem State.modGroup_cores (s : State) (gid : Nat) (f : Group → Group) : (s.modGroup gid f).cores = s.cores := rfl
@[simp] theorem State.modGroup_units (s : State) (gid : Nat) (f : Group → Group) : (s.modGroup gid f).units = s.units := rfl
@[simp] theorem State.modGroup_bhs (s : State) (gid : Nat) (f : Group → Group) : (s.modGroup gid f).bhs = s.bhs := rfl
@[simp] theorem State.modGroup_saved (s : State) (gid : Nat) (f : Group → Group) : (s.modGroup gid f).saved = s.saved := rfl
@[simp] theorem State.modGroup_images (s : State) (gid : Nat) (f : Group → Group) : (s.modGroup gid f).images = s.images := rfl
@[simp] theorem State.modGroup_home (s : State) (gid : Nat) (f : Group → Group) : (s.modGroup gid f).home = s.home := rfl
@[simp] theorem State.modGroup_hbm (s : State) (gid : Nat) (f : Group → Group) : (s.modGroup gid f).hbm = s.hbm := rfl
@[simp] theorem State.modGroup_lines (s : State) (gid : Nat) (f : Group → Group) : (s.modGroup gid f).lines = s.lines := rfl
@[simp] theorem State.modGroup_owners (s : State) (gid : Nat) (f : Group → Group) : (s.modGroup gid f).owners = s.owners := rfl
@[simp] theorem State.modGroup_poison (s : State) (gid : Nat) (f : Group → Group) : (s.modGroup gid f).poison = s.poison := rfl
@[simp] theorem State.modGroup_net (s : State) (gid : Nat) (f : Group → Group) : (s.modGroup gid f).net = s.net := rfl
@[simp] theorem State.modGroup_pends (s : State) (gid : Nat) (f : Group → Group) : (s.modGroup gid f).pends = s.pends := rfl
@[simp] theorem State.modGroup_engines (s : State) (gid : Nat) (f : Group → Group) : (s.modGroup gid f).engines = s.engines := rfl
@[simp] theorem State.modGroup_messages (s : State) (gid : Nat) (f : Group → Group) : (s.modGroup gid f).messages = s.messages := rfl
@[simp] theorem State.modGroup_shoots (s : State) (gid : Nat) (f : Group → Group) : (s.modGroup gid f).shoots = s.shoots := rfl
@[simp] theorem State.modGroup_caches (s : State) (gid : Nat) (f : Group → Group) : (s.modGroup gid f).caches = s.caches := rfl
@[simp] theorem State.modGroup_leaves (s : State) (gid : Nat) (f : Group → Group) : (s.modGroup gid f).leaves = s.leaves := rfl
@[simp] theorem State.modGroup_outside (s : State) (gid : Nat) (f : Group → Group) : (s.modGroup gid f).outside = s.outside := rfl
@[simp] theorem State.modGroup_shootGo (s : State) (gid : Nat) (f : Group → Group) : (s.modGroup gid f).shootGo = s.shootGo := rfl
@[simp] theorem State.modGroup_shoot0 (s : State) (gid : Nat) (f : Group → Group) : (s.modGroup gid f).shoot0 = s.shoot0 := rfl
@[simp] theorem State.modGroup_shoot1 (s : State) (gid : Nat) (f : Group → Group) : (s.modGroup gid f).shoot1 = s.shoot1 := rfl
@[simp] theorem State.modGroup_posted (s : State) (gid : Nat) (f : Group → Group) : (s.modGroup gid f).posted = s.posted := rfl
@[simp] theorem State.modGroup_fabWaits (s : State) (gid : Nat) (f : Group → Group) : (s.modGroup gid f).fabWaits = s.fabWaits := rfl
@[simp] theorem State.modGroup_linkWaits (s : State) (gid : Nat) (f : Group → Group) : (s.modGroup gid f).linkWaits = s.linkWaits := rfl
@[simp] theorem State.modGroup_peerReplies (s : State) (gid : Nat) (f : Group → Group) : (s.modGroup gid f).peerReplies = s.peerReplies := rfl
@[simp] theorem State.modGroup_tntShape (s : State) (gid : Nat) (f : Group → Group) : (s.modGroup gid f).tntShape = s.tntShape := rfl
@[simp] theorem State.modGroup_tntFab (s : State) (gid : Nat) (f : Group → Group) : (s.modGroup gid f).tntFab = s.tntFab := rfl
@[simp] theorem State.modGroup_tntQrate (s : State) (gid : Nat) (f : Group → Group) : (s.modGroup gid f).tntQrate = s.tntQrate := rfl
@[simp] theorem State.modGroup_tokens (s : State) (gid : Nat) (f : Group → Group) : (s.modGroup gid f).tokens = s.tokens := rfl
@[simp] theorem State.modGroup_mcSet (s : State) (gid : Nat) (f : Group → Group) : (s.modGroup gid f).mcSet = s.mcSet := rfl
@[simp] theorem State.modGroup_tntErr (s : State) (gid : Nat) (f : Group → Group) : (s.modGroup gid f).tntErr = s.tntErr := rfl
@[simp] theorem State.modGroup_fabCfg (s : State) (gid : Nat) (f : Group → Group) : (s.modGroup gid f).fabCfg = s.fabCfg := rfl
@[simp] theorem State.modGroup_retrainBudget (s : State) (gid : Nat) (f : Group → Group) : (s.modGroup gid f).retrainBudget = s.retrainBudget := rfl
@[simp] theorem State.modGroup_ports (s : State) (gid : Nat) (f : Group → Group) : (s.modGroup gid f).ports = s.ports := rfl
@[simp] theorem State.modGroup_peerPort (s : State) (gid : Nat) (f : Group → Group) : (s.modGroup gid f).peerPort = s.peerPort := rfl
@[simp] theorem State.modGroup_lostWrites (s : State) (gid : Nat) (f : Group → Group) : (s.modGroup gid f).lostWrites = s.lostWrites := rfl
@[simp] theorem State.modGroup_sevqGet (s : State) (gid : Nat) (f : Group → Group) : (s.modGroup gid f).sevqGet = s.sevqGet := rfl
@[simp] theorem State.modGroup_sevqPut (s : State) (gid : Nat) (f : Group → Group) : (s.modGroup gid f).sevqPut = s.sevqPut := rfl
@[simp] theorem State.modGroup_sevqCount (s : State) (gid : Nat) (f : Group → Group) : (s.modGroup gid f).sevqCount = s.sevqCount := rfl
@[simp] theorem State.modGroup_sevqLost (s : State) (gid : Nat) (f : Group → Group) : (s.modGroup gid f).sevqLost = s.sevqLost := rfl
@[simp] theorem State.modGroup_sevqGap (s : State) (gid : Nat) (f : Group → Group) : (s.modGroup gid f).sevqGap = s.sevqGap := rfl
@[simp] theorem State.modGroup_moltNext (s : State) (gid : Nat) (f : Group → Group) : (s.modGroup gid f).moltNext = s.moltNext := rfl
@[simp] theorem State.modGroup_bootStage (s : State) (gid : Nat) (f : Group → Group) : (s.modGroup gid f).bootStage = s.bootStage := rfl
@[simp] theorem State.modGroup_bootOk (s : State) (gid : Nat) (f : Group → Group) : (s.modGroup gid f).bootOk = s.bootOk := rfl
@[simp] theorem State.modGroup_bootFails (s : State) (gid : Nat) (f : Group → Group) : (s.modGroup gid f).bootFails = s.bootFails := rfl
@[simp] theorem State.modGroup_bootReason (s : State) (gid : Nat) (f : Group → Group) : (s.modGroup gid f).bootReason = s.bootReason := rfl
@[simp] theorem State.modGroup_tadReq (s : State) (gid : Nat) (f : Group → Group) : (s.modGroup gid f).tadReq = s.tadReq := rfl
@[simp] theorem State.modGroup_mbxOpen (s : State) (gid : Nat) (f : Group → Group) : (s.modGroup gid f).mbxOpen = s.mbxOpen := rfl
@[simp] theorem State.modGroup_mbxBusy (s : State) (gid : Nat) (f : Group → Group) : (s.modGroup gid f).mbxBusy = s.mbxBusy := rfl
@[simp] theorem State.modGroup_tadDone (s : State) (gid : Nat) (f : Group → Group) : (s.modGroup gid f).tadDone = s.tadDone := rfl
@[simp] theorem State.modGroup_bootImage (s : State) (gid : Nat) (f : Group → Group) : (s.modGroup gid f).bootImage = s.bootImage := rfl
@[simp] theorem State.modGroup_mbxCode (s : State) (gid : Nat) (f : Group → Group) : (s.modGroup gid f).mbxCode = s.mbxCode := rfl
@[simp] theorem State.modGroup_mbxReason (s : State) (gid : Nat) (f : Group → Group) : (s.modGroup gid f).mbxReason = s.mbxReason := rfl
@[simp] theorem State.modGroup_mbxData (s : State) (gid : Nat) (f : Group → Group) : (s.modGroup gid f).mbxData = s.mbxData := rfl
@[simp] theorem State.modGroup_nvme (s : State) (gid : Nat) (f : Group → Group) : (s.modGroup gid f).nvme = s.nvme := rfl
@[simp] theorem State.modGroup_endpointUp (s : State) (gid : Nat) (f : Group → Group) : (s.modGroup gid f).endpointUp = s.endpointUp := rfl
@[simp] theorem State.modGroup_vfReset (s : State) (gid : Nat) (f : Group → Group) : (s.modGroup gid f).vfReset = s.vfReset := rfl
@[simp] theorem State.modGroup_doorbells (s : State) (gid : Nat) (f : Group → Group) : (s.modGroup gid f).doorbells = s.doorbells := rfl
@[simp] theorem State.modGroup_aperture (s : State) (gid : Nat) (f : Group → Group) : (s.modGroup gid f).aperture = s.aperture := rfl
@[simp] theorem State.modGroup_hostData (s : State) (gid : Nat) (f : Group → Group) : (s.modGroup gid f).hostData = s.hostData := rfl
@[simp] theorem State.modGroup_spdmLast (s : State) (gid : Nat) (f : Group → Group) : (s.modGroup gid f).spdmLast = s.spdmLast := rfl
@[simp] theorem State.modGroup_hostWrites (s : State) (gid : Nat) (f : Group → Group) : (s.modGroup gid f).hostWrites = s.hostWrites := rfl
@[simp] theorem State.modGroup_msix (s : State) (gid : Nat) (f : Group → Group) : (s.modGroup gid f).msix = s.msix := rfl
@[simp] theorem State.modGroup_hostIrqs (s : State) (gid : Nat) (f : Group → Group) : (s.modGroup gid f).hostIrqs = s.hostIrqs := rfl
@[simp] theorem State.modGroup_urSent (s : State) (gid : Nat) (f : Group → Group) : (s.modGroup gid f).urSent = s.urSent := rfl
@[simp] theorem State.modGroup_vfRunning (s : State) (gid : Nat) (f : Group → Group) : (s.modGroup gid f).vfRunning = s.vfRunning := rfl
@[simp] theorem State.modGroup_agenda (s : State) (gid : Nat) (f : Group → Group) : (s.modGroup gid f).agenda = s.agenda := rfl
@[simp] theorem State.modGroup_cur (s : State) (gid : Nat) (f : Group → Group) : (s.modGroup gid f).cur = s.cur := rfl
@[simp] theorem State.modGroup_curSlot (s : State) (gid : Nat) (f : Group → Group) : (s.modGroup gid f).curSlot = s.curSlot := rfl
@[simp] theorem State.modGroup_clock (s : State) (gid : Nat) (f : Group → Group) : (s.modGroup gid f).clock = s.clock := rfl
@[simp] theorem State.modGroup_tick (s : State) (gid : Nat) (f : Group → Group) : (s.modGroup gid f).tick = s.tick := rfl
@[simp] theorem State.modGroup_nextId (s : State) (gid : Nat) (f : Group → Group) : (s.modGroup gid f).nextId = s.nextId := rfl

/-! A core changed leaves every other field. -/
@[simp] theorem State.modCore_groups (s : State) (c : Nat) (f : Core → Core) : (s.modCore c f).groups = s.groups := rfl
@[simp] theorem State.modCore_teams (s : State) (c : Nat) (f : Core → Core) : (s.modCore c f).teams = s.teams := rfl
@[simp] theorem State.modCore_grids (s : State) (c : Nat) (f : Core → Core) : (s.modCore c f).grids = s.grids := rfl
@[simp] theorem State.modCore_ctxs (s : State) (c : Nat) (f : Core → Core) : (s.modCore c f).ctxs = s.ctxs := rfl
@[simp] theorem State.modCore_units (s : State) (c : Nat) (f : Core → Core) : (s.modCore c f).units = s.units := rfl
@[simp] theorem State.modCore_bhs (s : State) (c : Nat) (f : Core → Core) : (s.modCore c f).bhs = s.bhs := rfl
@[simp] theorem State.modCore_saved (s : State) (c : Nat) (f : Core → Core) : (s.modCore c f).saved = s.saved := rfl
@[simp] theorem State.modCore_images (s : State) (c : Nat) (f : Core → Core) : (s.modCore c f).images = s.images := rfl
@[simp] theorem State.modCore_home (s : State) (c : Nat) (f : Core → Core) : (s.modCore c f).home = s.home := rfl
@[simp] theorem State.modCore_hbm (s : State) (c : Nat) (f : Core → Core) : (s.modCore c f).hbm = s.hbm := rfl
@[simp] theorem State.modCore_lines (s : State) (c : Nat) (f : Core → Core) : (s.modCore c f).lines = s.lines := rfl
@[simp] theorem State.modCore_owners (s : State) (c : Nat) (f : Core → Core) : (s.modCore c f).owners = s.owners := rfl
@[simp] theorem State.modCore_poison (s : State) (c : Nat) (f : Core → Core) : (s.modCore c f).poison = s.poison := rfl
@[simp] theorem State.modCore_net (s : State) (c : Nat) (f : Core → Core) : (s.modCore c f).net = s.net := rfl
@[simp] theorem State.modCore_pends (s : State) (c : Nat) (f : Core → Core) : (s.modCore c f).pends = s.pends := rfl
@[simp] theorem State.modCore_engines (s : State) (c : Nat) (f : Core → Core) : (s.modCore c f).engines = s.engines := rfl
@[simp] theorem State.modCore_messages (s : State) (c : Nat) (f : Core → Core) : (s.modCore c f).messages = s.messages := rfl
@[simp] theorem State.modCore_shoots (s : State) (c : Nat) (f : Core → Core) : (s.modCore c f).shoots = s.shoots := rfl
@[simp] theorem State.modCore_caches (s : State) (c : Nat) (f : Core → Core) : (s.modCore c f).caches = s.caches := rfl
@[simp] theorem State.modCore_leaves (s : State) (c : Nat) (f : Core → Core) : (s.modCore c f).leaves = s.leaves := rfl
@[simp] theorem State.modCore_outside (s : State) (c : Nat) (f : Core → Core) : (s.modCore c f).outside = s.outside := rfl
@[simp] theorem State.modCore_shootGo (s : State) (c : Nat) (f : Core → Core) : (s.modCore c f).shootGo = s.shootGo := rfl
@[simp] theorem State.modCore_shoot0 (s : State) (c : Nat) (f : Core → Core) : (s.modCore c f).shoot0 = s.shoot0 := rfl
@[simp] theorem State.modCore_shoot1 (s : State) (c : Nat) (f : Core → Core) : (s.modCore c f).shoot1 = s.shoot1 := rfl
@[simp] theorem State.modCore_posted (s : State) (c : Nat) (f : Core → Core) : (s.modCore c f).posted = s.posted := rfl
@[simp] theorem State.modCore_fabWaits (s : State) (c : Nat) (f : Core → Core) : (s.modCore c f).fabWaits = s.fabWaits := rfl
@[simp] theorem State.modCore_linkWaits (s : State) (c : Nat) (f : Core → Core) : (s.modCore c f).linkWaits = s.linkWaits := rfl
@[simp] theorem State.modCore_peerReplies (s : State) (c : Nat) (f : Core → Core) : (s.modCore c f).peerReplies = s.peerReplies := rfl
@[simp] theorem State.modCore_tntShape (s : State) (c : Nat) (f : Core → Core) : (s.modCore c f).tntShape = s.tntShape := rfl
@[simp] theorem State.modCore_tntFab (s : State) (c : Nat) (f : Core → Core) : (s.modCore c f).tntFab = s.tntFab := rfl
@[simp] theorem State.modCore_tntQrate (s : State) (c : Nat) (f : Core → Core) : (s.modCore c f).tntQrate = s.tntQrate := rfl
@[simp] theorem State.modCore_tokens (s : State) (c : Nat) (f : Core → Core) : (s.modCore c f).tokens = s.tokens := rfl
@[simp] theorem State.modCore_mcSet (s : State) (c : Nat) (f : Core → Core) : (s.modCore c f).mcSet = s.mcSet := rfl
@[simp] theorem State.modCore_tntErr (s : State) (c : Nat) (f : Core → Core) : (s.modCore c f).tntErr = s.tntErr := rfl
@[simp] theorem State.modCore_fabCfg (s : State) (c : Nat) (f : Core → Core) : (s.modCore c f).fabCfg = s.fabCfg := rfl
@[simp] theorem State.modCore_retrainBudget (s : State) (c : Nat) (f : Core → Core) : (s.modCore c f).retrainBudget = s.retrainBudget := rfl
@[simp] theorem State.modCore_ports (s : State) (c : Nat) (f : Core → Core) : (s.modCore c f).ports = s.ports := rfl
@[simp] theorem State.modCore_peerPort (s : State) (c : Nat) (f : Core → Core) : (s.modCore c f).peerPort = s.peerPort := rfl
@[simp] theorem State.modCore_lostWrites (s : State) (c : Nat) (f : Core → Core) : (s.modCore c f).lostWrites = s.lostWrites := rfl
@[simp] theorem State.modCore_sevqGet (s : State) (c : Nat) (f : Core → Core) : (s.modCore c f).sevqGet = s.sevqGet := rfl
@[simp] theorem State.modCore_sevqPut (s : State) (c : Nat) (f : Core → Core) : (s.modCore c f).sevqPut = s.sevqPut := rfl
@[simp] theorem State.modCore_sevqCount (s : State) (c : Nat) (f : Core → Core) : (s.modCore c f).sevqCount = s.sevqCount := rfl
@[simp] theorem State.modCore_sevqLost (s : State) (c : Nat) (f : Core → Core) : (s.modCore c f).sevqLost = s.sevqLost := rfl
@[simp] theorem State.modCore_sevqGap (s : State) (c : Nat) (f : Core → Core) : (s.modCore c f).sevqGap = s.sevqGap := rfl
@[simp] theorem State.modCore_moltNext (s : State) (c : Nat) (f : Core → Core) : (s.modCore c f).moltNext = s.moltNext := rfl
@[simp] theorem State.modCore_bootStage (s : State) (c : Nat) (f : Core → Core) : (s.modCore c f).bootStage = s.bootStage := rfl
@[simp] theorem State.modCore_bootOk (s : State) (c : Nat) (f : Core → Core) : (s.modCore c f).bootOk = s.bootOk := rfl
@[simp] theorem State.modCore_bootFails (s : State) (c : Nat) (f : Core → Core) : (s.modCore c f).bootFails = s.bootFails := rfl
@[simp] theorem State.modCore_bootReason (s : State) (c : Nat) (f : Core → Core) : (s.modCore c f).bootReason = s.bootReason := rfl
@[simp] theorem State.modCore_tadReq (s : State) (c : Nat) (f : Core → Core) : (s.modCore c f).tadReq = s.tadReq := rfl
@[simp] theorem State.modCore_mbxOpen (s : State) (c : Nat) (f : Core → Core) : (s.modCore c f).mbxOpen = s.mbxOpen := rfl
@[simp] theorem State.modCore_mbxBusy (s : State) (c : Nat) (f : Core → Core) : (s.modCore c f).mbxBusy = s.mbxBusy := rfl
@[simp] theorem State.modCore_tadDone (s : State) (c : Nat) (f : Core → Core) : (s.modCore c f).tadDone = s.tadDone := rfl
@[simp] theorem State.modCore_bootImage (s : State) (c : Nat) (f : Core → Core) : (s.modCore c f).bootImage = s.bootImage := rfl
@[simp] theorem State.modCore_mbxCode (s : State) (c : Nat) (f : Core → Core) : (s.modCore c f).mbxCode = s.mbxCode := rfl
@[simp] theorem State.modCore_mbxReason (s : State) (c : Nat) (f : Core → Core) : (s.modCore c f).mbxReason = s.mbxReason := rfl
@[simp] theorem State.modCore_mbxData (s : State) (c : Nat) (f : Core → Core) : (s.modCore c f).mbxData = s.mbxData := rfl
@[simp] theorem State.modCore_nvme (s : State) (c : Nat) (f : Core → Core) : (s.modCore c f).nvme = s.nvme := rfl
@[simp] theorem State.modCore_endpointUp (s : State) (c : Nat) (f : Core → Core) : (s.modCore c f).endpointUp = s.endpointUp := rfl
@[simp] theorem State.modCore_vfReset (s : State) (c : Nat) (f : Core → Core) : (s.modCore c f).vfReset = s.vfReset := rfl
@[simp] theorem State.modCore_doorbells (s : State) (c : Nat) (f : Core → Core) : (s.modCore c f).doorbells = s.doorbells := rfl
@[simp] theorem State.modCore_aperture (s : State) (c : Nat) (f : Core → Core) : (s.modCore c f).aperture = s.aperture := rfl
@[simp] theorem State.modCore_hostData (s : State) (c : Nat) (f : Core → Core) : (s.modCore c f).hostData = s.hostData := rfl
@[simp] theorem State.modCore_spdmLast (s : State) (c : Nat) (f : Core → Core) : (s.modCore c f).spdmLast = s.spdmLast := rfl
@[simp] theorem State.modCore_hostWrites (s : State) (c : Nat) (f : Core → Core) : (s.modCore c f).hostWrites = s.hostWrites := rfl
@[simp] theorem State.modCore_msix (s : State) (c : Nat) (f : Core → Core) : (s.modCore c f).msix = s.msix := rfl
@[simp] theorem State.modCore_hostIrqs (s : State) (c : Nat) (f : Core → Core) : (s.modCore c f).hostIrqs = s.hostIrqs := rfl
@[simp] theorem State.modCore_urSent (s : State) (c : Nat) (f : Core → Core) : (s.modCore c f).urSent = s.urSent := rfl
@[simp] theorem State.modCore_vfRunning (s : State) (c : Nat) (f : Core → Core) : (s.modCore c f).vfRunning = s.vfRunning := rfl
@[simp] theorem State.modCore_agenda (s : State) (c : Nat) (f : Core → Core) : (s.modCore c f).agenda = s.agenda := rfl
@[simp] theorem State.modCore_cur (s : State) (c : Nat) (f : Core → Core) : (s.modCore c f).cur = s.cur := rfl
@[simp] theorem State.modCore_curSlot (s : State) (c : Nat) (f : Core → Core) : (s.modCore c f).curSlot = s.curSlot := rfl
@[simp] theorem State.modCore_clock (s : State) (c : Nat) (f : Core → Core) : (s.modCore c f).clock = s.clock := rfl
@[simp] theorem State.modCore_tick (s : State) (c : Nat) (f : Core → Core) : (s.modCore c f).tick = s.tick := rfl
@[simp] theorem State.modCore_nextId (s : State) (c : Nat) (f : Core → Core) : (s.modCore c f).nextId = s.nextId := rfl

/-! A bulkhead changed leaves every other field. -/
@[simp] theorem State.modBh_groups (s : State) (b : Nat) (f : Bulkhead → Bulkhead) : (s.modBh b f).groups = s.groups := rfl
@[simp] theorem State.modBh_teams (s : State) (b : Nat) (f : Bulkhead → Bulkhead) : (s.modBh b f).teams = s.teams := rfl
@[simp] theorem State.modBh_grids (s : State) (b : Nat) (f : Bulkhead → Bulkhead) : (s.modBh b f).grids = s.grids := rfl
@[simp] theorem State.modBh_ctxs (s : State) (b : Nat) (f : Bulkhead → Bulkhead) : (s.modBh b f).ctxs = s.ctxs := rfl
@[simp] theorem State.modBh_cores (s : State) (b : Nat) (f : Bulkhead → Bulkhead) : (s.modBh b f).cores = s.cores := rfl
@[simp] theorem State.modBh_units (s : State) (b : Nat) (f : Bulkhead → Bulkhead) : (s.modBh b f).units = s.units := rfl
@[simp] theorem State.modBh_saved (s : State) (b : Nat) (f : Bulkhead → Bulkhead) : (s.modBh b f).saved = s.saved := rfl
@[simp] theorem State.modBh_images (s : State) (b : Nat) (f : Bulkhead → Bulkhead) : (s.modBh b f).images = s.images := rfl
@[simp] theorem State.modBh_home (s : State) (b : Nat) (f : Bulkhead → Bulkhead) : (s.modBh b f).home = s.home := rfl
@[simp] theorem State.modBh_hbm (s : State) (b : Nat) (f : Bulkhead → Bulkhead) : (s.modBh b f).hbm = s.hbm := rfl
@[simp] theorem State.modBh_lines (s : State) (b : Nat) (f : Bulkhead → Bulkhead) : (s.modBh b f).lines = s.lines := rfl
@[simp] theorem State.modBh_owners (s : State) (b : Nat) (f : Bulkhead → Bulkhead) : (s.modBh b f).owners = s.owners := rfl
@[simp] theorem State.modBh_poison (s : State) (b : Nat) (f : Bulkhead → Bulkhead) : (s.modBh b f).poison = s.poison := rfl
@[simp] theorem State.modBh_net (s : State) (b : Nat) (f : Bulkhead → Bulkhead) : (s.modBh b f).net = s.net := rfl
@[simp] theorem State.modBh_pends (s : State) (b : Nat) (f : Bulkhead → Bulkhead) : (s.modBh b f).pends = s.pends := rfl
@[simp] theorem State.modBh_engines (s : State) (b : Nat) (f : Bulkhead → Bulkhead) : (s.modBh b f).engines = s.engines := rfl
@[simp] theorem State.modBh_messages (s : State) (b : Nat) (f : Bulkhead → Bulkhead) : (s.modBh b f).messages = s.messages := rfl
@[simp] theorem State.modBh_shoots (s : State) (b : Nat) (f : Bulkhead → Bulkhead) : (s.modBh b f).shoots = s.shoots := rfl
@[simp] theorem State.modBh_caches (s : State) (b : Nat) (f : Bulkhead → Bulkhead) : (s.modBh b f).caches = s.caches := rfl
@[simp] theorem State.modBh_leaves (s : State) (b : Nat) (f : Bulkhead → Bulkhead) : (s.modBh b f).leaves = s.leaves := rfl
@[simp] theorem State.modBh_outside (s : State) (b : Nat) (f : Bulkhead → Bulkhead) : (s.modBh b f).outside = s.outside := rfl
@[simp] theorem State.modBh_shootGo (s : State) (b : Nat) (f : Bulkhead → Bulkhead) : (s.modBh b f).shootGo = s.shootGo := rfl
@[simp] theorem State.modBh_shoot0 (s : State) (b : Nat) (f : Bulkhead → Bulkhead) : (s.modBh b f).shoot0 = s.shoot0 := rfl
@[simp] theorem State.modBh_shoot1 (s : State) (b : Nat) (f : Bulkhead → Bulkhead) : (s.modBh b f).shoot1 = s.shoot1 := rfl
@[simp] theorem State.modBh_posted (s : State) (b : Nat) (f : Bulkhead → Bulkhead) : (s.modBh b f).posted = s.posted := rfl
@[simp] theorem State.modBh_fabWaits (s : State) (b : Nat) (f : Bulkhead → Bulkhead) : (s.modBh b f).fabWaits = s.fabWaits := rfl
@[simp] theorem State.modBh_linkWaits (s : State) (b : Nat) (f : Bulkhead → Bulkhead) : (s.modBh b f).linkWaits = s.linkWaits := rfl
@[simp] theorem State.modBh_peerReplies (s : State) (b : Nat) (f : Bulkhead → Bulkhead) : (s.modBh b f).peerReplies = s.peerReplies := rfl
@[simp] theorem State.modBh_tntShape (s : State) (b : Nat) (f : Bulkhead → Bulkhead) : (s.modBh b f).tntShape = s.tntShape := rfl
@[simp] theorem State.modBh_tntFab (s : State) (b : Nat) (f : Bulkhead → Bulkhead) : (s.modBh b f).tntFab = s.tntFab := rfl
@[simp] theorem State.modBh_tntQrate (s : State) (b : Nat) (f : Bulkhead → Bulkhead) : (s.modBh b f).tntQrate = s.tntQrate := rfl
@[simp] theorem State.modBh_tokens (s : State) (b : Nat) (f : Bulkhead → Bulkhead) : (s.modBh b f).tokens = s.tokens := rfl
@[simp] theorem State.modBh_mcSet (s : State) (b : Nat) (f : Bulkhead → Bulkhead) : (s.modBh b f).mcSet = s.mcSet := rfl
@[simp] theorem State.modBh_tntErr (s : State) (b : Nat) (f : Bulkhead → Bulkhead) : (s.modBh b f).tntErr = s.tntErr := rfl
@[simp] theorem State.modBh_fabCfg (s : State) (b : Nat) (f : Bulkhead → Bulkhead) : (s.modBh b f).fabCfg = s.fabCfg := rfl
@[simp] theorem State.modBh_retrainBudget (s : State) (b : Nat) (f : Bulkhead → Bulkhead) : (s.modBh b f).retrainBudget = s.retrainBudget := rfl
@[simp] theorem State.modBh_ports (s : State) (b : Nat) (f : Bulkhead → Bulkhead) : (s.modBh b f).ports = s.ports := rfl
@[simp] theorem State.modBh_peerPort (s : State) (b : Nat) (f : Bulkhead → Bulkhead) : (s.modBh b f).peerPort = s.peerPort := rfl
@[simp] theorem State.modBh_lostWrites (s : State) (b : Nat) (f : Bulkhead → Bulkhead) : (s.modBh b f).lostWrites = s.lostWrites := rfl
@[simp] theorem State.modBh_sevqGet (s : State) (b : Nat) (f : Bulkhead → Bulkhead) : (s.modBh b f).sevqGet = s.sevqGet := rfl
@[simp] theorem State.modBh_sevqPut (s : State) (b : Nat) (f : Bulkhead → Bulkhead) : (s.modBh b f).sevqPut = s.sevqPut := rfl
@[simp] theorem State.modBh_sevqCount (s : State) (b : Nat) (f : Bulkhead → Bulkhead) : (s.modBh b f).sevqCount = s.sevqCount := rfl
@[simp] theorem State.modBh_sevqLost (s : State) (b : Nat) (f : Bulkhead → Bulkhead) : (s.modBh b f).sevqLost = s.sevqLost := rfl
@[simp] theorem State.modBh_sevqGap (s : State) (b : Nat) (f : Bulkhead → Bulkhead) : (s.modBh b f).sevqGap = s.sevqGap := rfl
@[simp] theorem State.modBh_moltNext (s : State) (b : Nat) (f : Bulkhead → Bulkhead) : (s.modBh b f).moltNext = s.moltNext := rfl
@[simp] theorem State.modBh_bootStage (s : State) (b : Nat) (f : Bulkhead → Bulkhead) : (s.modBh b f).bootStage = s.bootStage := rfl
@[simp] theorem State.modBh_bootOk (s : State) (b : Nat) (f : Bulkhead → Bulkhead) : (s.modBh b f).bootOk = s.bootOk := rfl
@[simp] theorem State.modBh_bootFails (s : State) (b : Nat) (f : Bulkhead → Bulkhead) : (s.modBh b f).bootFails = s.bootFails := rfl
@[simp] theorem State.modBh_bootReason (s : State) (b : Nat) (f : Bulkhead → Bulkhead) : (s.modBh b f).bootReason = s.bootReason := rfl
@[simp] theorem State.modBh_tadReq (s : State) (b : Nat) (f : Bulkhead → Bulkhead) : (s.modBh b f).tadReq = s.tadReq := rfl
@[simp] theorem State.modBh_mbxOpen (s : State) (b : Nat) (f : Bulkhead → Bulkhead) : (s.modBh b f).mbxOpen = s.mbxOpen := rfl
@[simp] theorem State.modBh_mbxBusy (s : State) (b : Nat) (f : Bulkhead → Bulkhead) : (s.modBh b f).mbxBusy = s.mbxBusy := rfl
@[simp] theorem State.modBh_tadDone (s : State) (b : Nat) (f : Bulkhead → Bulkhead) : (s.modBh b f).tadDone = s.tadDone := rfl
@[simp] theorem State.modBh_bootImage (s : State) (b : Nat) (f : Bulkhead → Bulkhead) : (s.modBh b f).bootImage = s.bootImage := rfl
@[simp] theorem State.modBh_mbxCode (s : State) (b : Nat) (f : Bulkhead → Bulkhead) : (s.modBh b f).mbxCode = s.mbxCode := rfl
@[simp] theorem State.modBh_mbxReason (s : State) (b : Nat) (f : Bulkhead → Bulkhead) : (s.modBh b f).mbxReason = s.mbxReason := rfl
@[simp] theorem State.modBh_mbxData (s : State) (b : Nat) (f : Bulkhead → Bulkhead) : (s.modBh b f).mbxData = s.mbxData := rfl
@[simp] theorem State.modBh_nvme (s : State) (b : Nat) (f : Bulkhead → Bulkhead) : (s.modBh b f).nvme = s.nvme := rfl
@[simp] theorem State.modBh_endpointUp (s : State) (b : Nat) (f : Bulkhead → Bulkhead) : (s.modBh b f).endpointUp = s.endpointUp := rfl
@[simp] theorem State.modBh_vfReset (s : State) (b : Nat) (f : Bulkhead → Bulkhead) : (s.modBh b f).vfReset = s.vfReset := rfl
@[simp] theorem State.modBh_doorbells (s : State) (b : Nat) (f : Bulkhead → Bulkhead) : (s.modBh b f).doorbells = s.doorbells := rfl
@[simp] theorem State.modBh_aperture (s : State) (b : Nat) (f : Bulkhead → Bulkhead) : (s.modBh b f).aperture = s.aperture := rfl
@[simp] theorem State.modBh_hostData (s : State) (b : Nat) (f : Bulkhead → Bulkhead) : (s.modBh b f).hostData = s.hostData := rfl
@[simp] theorem State.modBh_spdmLast (s : State) (b : Nat) (f : Bulkhead → Bulkhead) : (s.modBh b f).spdmLast = s.spdmLast := rfl
@[simp] theorem State.modBh_hostWrites (s : State) (b : Nat) (f : Bulkhead → Bulkhead) : (s.modBh b f).hostWrites = s.hostWrites := rfl
@[simp] theorem State.modBh_msix (s : State) (b : Nat) (f : Bulkhead → Bulkhead) : (s.modBh b f).msix = s.msix := rfl
@[simp] theorem State.modBh_hostIrqs (s : State) (b : Nat) (f : Bulkhead → Bulkhead) : (s.modBh b f).hostIrqs = s.hostIrqs := rfl
@[simp] theorem State.modBh_urSent (s : State) (b : Nat) (f : Bulkhead → Bulkhead) : (s.modBh b f).urSent = s.urSent := rfl
@[simp] theorem State.modBh_vfRunning (s : State) (b : Nat) (f : Bulkhead → Bulkhead) : (s.modBh b f).vfRunning = s.vfRunning := rfl
@[simp] theorem State.modBh_agenda (s : State) (b : Nat) (f : Bulkhead → Bulkhead) : (s.modBh b f).agenda = s.agenda := rfl
@[simp] theorem State.modBh_cur (s : State) (b : Nat) (f : Bulkhead → Bulkhead) : (s.modBh b f).cur = s.cur := rfl
@[simp] theorem State.modBh_curSlot (s : State) (b : Nat) (f : Bulkhead → Bulkhead) : (s.modBh b f).curSlot = s.curSlot := rfl
@[simp] theorem State.modBh_clock (s : State) (b : Nat) (f : Bulkhead → Bulkhead) : (s.modBh b f).clock = s.clock := rfl
@[simp] theorem State.modBh_tick (s : State) (b : Nat) (f : Bulkhead → Bulkhead) : (s.modBh b f).tick = s.tick := rfl
@[simp] theorem State.modBh_nextId (s : State) (b : Nat) (f : Bulkhead → Bulkhead) : (s.modBh b f).nextId = s.nextId := rfl

/-! A context changed leaves every other field. -/
@[simp] theorem State.modCtx_groups (s : State) (a : Nat) (f : Ctx → Ctx) : (s.modCtx a f).groups = s.groups := rfl
@[simp] theorem State.modCtx_teams (s : State) (a : Nat) (f : Ctx → Ctx) : (s.modCtx a f).teams = s.teams := rfl
@[simp] theorem State.modCtx_grids (s : State) (a : Nat) (f : Ctx → Ctx) : (s.modCtx a f).grids = s.grids := rfl
@[simp] theorem State.modCtx_cores (s : State) (a : Nat) (f : Ctx → Ctx) : (s.modCtx a f).cores = s.cores := rfl
@[simp] theorem State.modCtx_units (s : State) (a : Nat) (f : Ctx → Ctx) : (s.modCtx a f).units = s.units := rfl
@[simp] theorem State.modCtx_bhs (s : State) (a : Nat) (f : Ctx → Ctx) : (s.modCtx a f).bhs = s.bhs := rfl
@[simp] theorem State.modCtx_saved (s : State) (a : Nat) (f : Ctx → Ctx) : (s.modCtx a f).saved = s.saved := rfl
@[simp] theorem State.modCtx_images (s : State) (a : Nat) (f : Ctx → Ctx) : (s.modCtx a f).images = s.images := rfl
@[simp] theorem State.modCtx_home (s : State) (a : Nat) (f : Ctx → Ctx) : (s.modCtx a f).home = s.home := rfl
@[simp] theorem State.modCtx_hbm (s : State) (a : Nat) (f : Ctx → Ctx) : (s.modCtx a f).hbm = s.hbm := rfl
@[simp] theorem State.modCtx_lines (s : State) (a : Nat) (f : Ctx → Ctx) : (s.modCtx a f).lines = s.lines := rfl
@[simp] theorem State.modCtx_owners (s : State) (a : Nat) (f : Ctx → Ctx) : (s.modCtx a f).owners = s.owners := rfl
@[simp] theorem State.modCtx_poison (s : State) (a : Nat) (f : Ctx → Ctx) : (s.modCtx a f).poison = s.poison := rfl
@[simp] theorem State.modCtx_net (s : State) (a : Nat) (f : Ctx → Ctx) : (s.modCtx a f).net = s.net := rfl
@[simp] theorem State.modCtx_pends (s : State) (a : Nat) (f : Ctx → Ctx) : (s.modCtx a f).pends = s.pends := rfl
@[simp] theorem State.modCtx_engines (s : State) (a : Nat) (f : Ctx → Ctx) : (s.modCtx a f).engines = s.engines := rfl
@[simp] theorem State.modCtx_messages (s : State) (a : Nat) (f : Ctx → Ctx) : (s.modCtx a f).messages = s.messages := rfl
@[simp] theorem State.modCtx_shoots (s : State) (a : Nat) (f : Ctx → Ctx) : (s.modCtx a f).shoots = s.shoots := rfl
@[simp] theorem State.modCtx_caches (s : State) (a : Nat) (f : Ctx → Ctx) : (s.modCtx a f).caches = s.caches := rfl
@[simp] theorem State.modCtx_leaves (s : State) (a : Nat) (f : Ctx → Ctx) : (s.modCtx a f).leaves = s.leaves := rfl
@[simp] theorem State.modCtx_outside (s : State) (a : Nat) (f : Ctx → Ctx) : (s.modCtx a f).outside = s.outside := rfl
@[simp] theorem State.modCtx_shootGo (s : State) (a : Nat) (f : Ctx → Ctx) : (s.modCtx a f).shootGo = s.shootGo := rfl
@[simp] theorem State.modCtx_shoot0 (s : State) (a : Nat) (f : Ctx → Ctx) : (s.modCtx a f).shoot0 = s.shoot0 := rfl
@[simp] theorem State.modCtx_shoot1 (s : State) (a : Nat) (f : Ctx → Ctx) : (s.modCtx a f).shoot1 = s.shoot1 := rfl
@[simp] theorem State.modCtx_posted (s : State) (a : Nat) (f : Ctx → Ctx) : (s.modCtx a f).posted = s.posted := rfl
@[simp] theorem State.modCtx_fabWaits (s : State) (a : Nat) (f : Ctx → Ctx) : (s.modCtx a f).fabWaits = s.fabWaits := rfl
@[simp] theorem State.modCtx_linkWaits (s : State) (a : Nat) (f : Ctx → Ctx) : (s.modCtx a f).linkWaits = s.linkWaits := rfl
@[simp] theorem State.modCtx_peerReplies (s : State) (a : Nat) (f : Ctx → Ctx) : (s.modCtx a f).peerReplies = s.peerReplies := rfl
@[simp] theorem State.modCtx_tntShape (s : State) (a : Nat) (f : Ctx → Ctx) : (s.modCtx a f).tntShape = s.tntShape := rfl
@[simp] theorem State.modCtx_tntFab (s : State) (a : Nat) (f : Ctx → Ctx) : (s.modCtx a f).tntFab = s.tntFab := rfl
@[simp] theorem State.modCtx_tntQrate (s : State) (a : Nat) (f : Ctx → Ctx) : (s.modCtx a f).tntQrate = s.tntQrate := rfl
@[simp] theorem State.modCtx_tokens (s : State) (a : Nat) (f : Ctx → Ctx) : (s.modCtx a f).tokens = s.tokens := rfl
@[simp] theorem State.modCtx_mcSet (s : State) (a : Nat) (f : Ctx → Ctx) : (s.modCtx a f).mcSet = s.mcSet := rfl
@[simp] theorem State.modCtx_tntErr (s : State) (a : Nat) (f : Ctx → Ctx) : (s.modCtx a f).tntErr = s.tntErr := rfl
@[simp] theorem State.modCtx_fabCfg (s : State) (a : Nat) (f : Ctx → Ctx) : (s.modCtx a f).fabCfg = s.fabCfg := rfl
@[simp] theorem State.modCtx_retrainBudget (s : State) (a : Nat) (f : Ctx → Ctx) : (s.modCtx a f).retrainBudget = s.retrainBudget := rfl
@[simp] theorem State.modCtx_ports (s : State) (a : Nat) (f : Ctx → Ctx) : (s.modCtx a f).ports = s.ports := rfl
@[simp] theorem State.modCtx_peerPort (s : State) (a : Nat) (f : Ctx → Ctx) : (s.modCtx a f).peerPort = s.peerPort := rfl
@[simp] theorem State.modCtx_lostWrites (s : State) (a : Nat) (f : Ctx → Ctx) : (s.modCtx a f).lostWrites = s.lostWrites := rfl
@[simp] theorem State.modCtx_sevqGet (s : State) (a : Nat) (f : Ctx → Ctx) : (s.modCtx a f).sevqGet = s.sevqGet := rfl
@[simp] theorem State.modCtx_sevqPut (s : State) (a : Nat) (f : Ctx → Ctx) : (s.modCtx a f).sevqPut = s.sevqPut := rfl
@[simp] theorem State.modCtx_sevqCount (s : State) (a : Nat) (f : Ctx → Ctx) : (s.modCtx a f).sevqCount = s.sevqCount := rfl
@[simp] theorem State.modCtx_sevqLost (s : State) (a : Nat) (f : Ctx → Ctx) : (s.modCtx a f).sevqLost = s.sevqLost := rfl
@[simp] theorem State.modCtx_sevqGap (s : State) (a : Nat) (f : Ctx → Ctx) : (s.modCtx a f).sevqGap = s.sevqGap := rfl
@[simp] theorem State.modCtx_moltNext (s : State) (a : Nat) (f : Ctx → Ctx) : (s.modCtx a f).moltNext = s.moltNext := rfl
@[simp] theorem State.modCtx_bootStage (s : State) (a : Nat) (f : Ctx → Ctx) : (s.modCtx a f).bootStage = s.bootStage := rfl
@[simp] theorem State.modCtx_bootOk (s : State) (a : Nat) (f : Ctx → Ctx) : (s.modCtx a f).bootOk = s.bootOk := rfl
@[simp] theorem State.modCtx_bootFails (s : State) (a : Nat) (f : Ctx → Ctx) : (s.modCtx a f).bootFails = s.bootFails := rfl
@[simp] theorem State.modCtx_bootReason (s : State) (a : Nat) (f : Ctx → Ctx) : (s.modCtx a f).bootReason = s.bootReason := rfl
@[simp] theorem State.modCtx_tadReq (s : State) (a : Nat) (f : Ctx → Ctx) : (s.modCtx a f).tadReq = s.tadReq := rfl
@[simp] theorem State.modCtx_mbxOpen (s : State) (a : Nat) (f : Ctx → Ctx) : (s.modCtx a f).mbxOpen = s.mbxOpen := rfl
@[simp] theorem State.modCtx_mbxBusy (s : State) (a : Nat) (f : Ctx → Ctx) : (s.modCtx a f).mbxBusy = s.mbxBusy := rfl
@[simp] theorem State.modCtx_tadDone (s : State) (a : Nat) (f : Ctx → Ctx) : (s.modCtx a f).tadDone = s.tadDone := rfl
@[simp] theorem State.modCtx_bootImage (s : State) (a : Nat) (f : Ctx → Ctx) : (s.modCtx a f).bootImage = s.bootImage := rfl
@[simp] theorem State.modCtx_mbxCode (s : State) (a : Nat) (f : Ctx → Ctx) : (s.modCtx a f).mbxCode = s.mbxCode := rfl
@[simp] theorem State.modCtx_mbxReason (s : State) (a : Nat) (f : Ctx → Ctx) : (s.modCtx a f).mbxReason = s.mbxReason := rfl
@[simp] theorem State.modCtx_mbxData (s : State) (a : Nat) (f : Ctx → Ctx) : (s.modCtx a f).mbxData = s.mbxData := rfl
@[simp] theorem State.modCtx_nvme (s : State) (a : Nat) (f : Ctx → Ctx) : (s.modCtx a f).nvme = s.nvme := rfl
@[simp] theorem State.modCtx_endpointUp (s : State) (a : Nat) (f : Ctx → Ctx) : (s.modCtx a f).endpointUp = s.endpointUp := rfl
@[simp] theorem State.modCtx_vfReset (s : State) (a : Nat) (f : Ctx → Ctx) : (s.modCtx a f).vfReset = s.vfReset := rfl
@[simp] theorem State.modCtx_doorbells (s : State) (a : Nat) (f : Ctx → Ctx) : (s.modCtx a f).doorbells = s.doorbells := rfl
@[simp] theorem State.modCtx_aperture (s : State) (a : Nat) (f : Ctx → Ctx) : (s.modCtx a f).aperture = s.aperture := rfl
@[simp] theorem State.modCtx_hostData (s : State) (a : Nat) (f : Ctx → Ctx) : (s.modCtx a f).hostData = s.hostData := rfl
@[simp] theorem State.modCtx_spdmLast (s : State) (a : Nat) (f : Ctx → Ctx) : (s.modCtx a f).spdmLast = s.spdmLast := rfl
@[simp] theorem State.modCtx_hostWrites (s : State) (a : Nat) (f : Ctx → Ctx) : (s.modCtx a f).hostWrites = s.hostWrites := rfl
@[simp] theorem State.modCtx_msix (s : State) (a : Nat) (f : Ctx → Ctx) : (s.modCtx a f).msix = s.msix := rfl
@[simp] theorem State.modCtx_hostIrqs (s : State) (a : Nat) (f : Ctx → Ctx) : (s.modCtx a f).hostIrqs = s.hostIrqs := rfl
@[simp] theorem State.modCtx_urSent (s : State) (a : Nat) (f : Ctx → Ctx) : (s.modCtx a f).urSent = s.urSent := rfl
@[simp] theorem State.modCtx_vfRunning (s : State) (a : Nat) (f : Ctx → Ctx) : (s.modCtx a f).vfRunning = s.vfRunning := rfl
@[simp] theorem State.modCtx_agenda (s : State) (a : Nat) (f : Ctx → Ctx) : (s.modCtx a f).agenda = s.agenda := rfl
@[simp] theorem State.modCtx_cur (s : State) (a : Nat) (f : Ctx → Ctx) : (s.modCtx a f).cur = s.cur := rfl
@[simp] theorem State.modCtx_curSlot (s : State) (a : Nat) (f : Ctx → Ctx) : (s.modCtx a f).curSlot = s.curSlot := rfl
@[simp] theorem State.modCtx_clock (s : State) (a : Nat) (f : Ctx → Ctx) : (s.modCtx a f).clock = s.clock := rfl
@[simp] theorem State.modCtx_tick (s : State) (a : Nat) (f : Ctx → Ctx) : (s.modCtx a f).tick = s.tick := rfl
@[simp] theorem State.modCtx_nextId (s : State) (a : Nat) (f : Ctx → Ctx) : (s.modCtx a f).nextId = s.nextId := rfl

/-! A context's instance changed leaves every other field. -/
@[simp] theorem State.modInst_groups (s : State) (a b : Nat) (f : CtxBh → CtxBh) : (s.modInst a b f).groups = s.groups := rfl
@[simp] theorem State.modInst_teams (s : State) (a b : Nat) (f : CtxBh → CtxBh) : (s.modInst a b f).teams = s.teams := rfl
@[simp] theorem State.modInst_grids (s : State) (a b : Nat) (f : CtxBh → CtxBh) : (s.modInst a b f).grids = s.grids := rfl
@[simp] theorem State.modInst_cores (s : State) (a b : Nat) (f : CtxBh → CtxBh) : (s.modInst a b f).cores = s.cores := rfl
@[simp] theorem State.modInst_units (s : State) (a b : Nat) (f : CtxBh → CtxBh) : (s.modInst a b f).units = s.units := rfl
@[simp] theorem State.modInst_bhs (s : State) (a b : Nat) (f : CtxBh → CtxBh) : (s.modInst a b f).bhs = s.bhs := rfl
@[simp] theorem State.modInst_saved (s : State) (a b : Nat) (f : CtxBh → CtxBh) : (s.modInst a b f).saved = s.saved := rfl
@[simp] theorem State.modInst_images (s : State) (a b : Nat) (f : CtxBh → CtxBh) : (s.modInst a b f).images = s.images := rfl
@[simp] theorem State.modInst_home (s : State) (a b : Nat) (f : CtxBh → CtxBh) : (s.modInst a b f).home = s.home := rfl
@[simp] theorem State.modInst_hbm (s : State) (a b : Nat) (f : CtxBh → CtxBh) : (s.modInst a b f).hbm = s.hbm := rfl
@[simp] theorem State.modInst_lines (s : State) (a b : Nat) (f : CtxBh → CtxBh) : (s.modInst a b f).lines = s.lines := rfl
@[simp] theorem State.modInst_owners (s : State) (a b : Nat) (f : CtxBh → CtxBh) : (s.modInst a b f).owners = s.owners := rfl
@[simp] theorem State.modInst_poison (s : State) (a b : Nat) (f : CtxBh → CtxBh) : (s.modInst a b f).poison = s.poison := rfl
@[simp] theorem State.modInst_net (s : State) (a b : Nat) (f : CtxBh → CtxBh) : (s.modInst a b f).net = s.net := rfl
@[simp] theorem State.modInst_pends (s : State) (a b : Nat) (f : CtxBh → CtxBh) : (s.modInst a b f).pends = s.pends := rfl
@[simp] theorem State.modInst_engines (s : State) (a b : Nat) (f : CtxBh → CtxBh) : (s.modInst a b f).engines = s.engines := rfl
@[simp] theorem State.modInst_messages (s : State) (a b : Nat) (f : CtxBh → CtxBh) : (s.modInst a b f).messages = s.messages := rfl
@[simp] theorem State.modInst_shoots (s : State) (a b : Nat) (f : CtxBh → CtxBh) : (s.modInst a b f).shoots = s.shoots := rfl
@[simp] theorem State.modInst_caches (s : State) (a b : Nat) (f : CtxBh → CtxBh) : (s.modInst a b f).caches = s.caches := rfl
@[simp] theorem State.modInst_leaves (s : State) (a b : Nat) (f : CtxBh → CtxBh) : (s.modInst a b f).leaves = s.leaves := rfl
@[simp] theorem State.modInst_outside (s : State) (a b : Nat) (f : CtxBh → CtxBh) : (s.modInst a b f).outside = s.outside := rfl
@[simp] theorem State.modInst_shootGo (s : State) (a b : Nat) (f : CtxBh → CtxBh) : (s.modInst a b f).shootGo = s.shootGo := rfl
@[simp] theorem State.modInst_shoot0 (s : State) (a b : Nat) (f : CtxBh → CtxBh) : (s.modInst a b f).shoot0 = s.shoot0 := rfl
@[simp] theorem State.modInst_shoot1 (s : State) (a b : Nat) (f : CtxBh → CtxBh) : (s.modInst a b f).shoot1 = s.shoot1 := rfl
@[simp] theorem State.modInst_posted (s : State) (a b : Nat) (f : CtxBh → CtxBh) : (s.modInst a b f).posted = s.posted := rfl
@[simp] theorem State.modInst_fabWaits (s : State) (a b : Nat) (f : CtxBh → CtxBh) : (s.modInst a b f).fabWaits = s.fabWaits := rfl
@[simp] theorem State.modInst_linkWaits (s : State) (a b : Nat) (f : CtxBh → CtxBh) : (s.modInst a b f).linkWaits = s.linkWaits := rfl
@[simp] theorem State.modInst_peerReplies (s : State) (a b : Nat) (f : CtxBh → CtxBh) : (s.modInst a b f).peerReplies = s.peerReplies := rfl
@[simp] theorem State.modInst_tntShape (s : State) (a b : Nat) (f : CtxBh → CtxBh) : (s.modInst a b f).tntShape = s.tntShape := rfl
@[simp] theorem State.modInst_tntFab (s : State) (a b : Nat) (f : CtxBh → CtxBh) : (s.modInst a b f).tntFab = s.tntFab := rfl
@[simp] theorem State.modInst_tntQrate (s : State) (a b : Nat) (f : CtxBh → CtxBh) : (s.modInst a b f).tntQrate = s.tntQrate := rfl
@[simp] theorem State.modInst_tokens (s : State) (a b : Nat) (f : CtxBh → CtxBh) : (s.modInst a b f).tokens = s.tokens := rfl
@[simp] theorem State.modInst_mcSet (s : State) (a b : Nat) (f : CtxBh → CtxBh) : (s.modInst a b f).mcSet = s.mcSet := rfl
@[simp] theorem State.modInst_tntErr (s : State) (a b : Nat) (f : CtxBh → CtxBh) : (s.modInst a b f).tntErr = s.tntErr := rfl
@[simp] theorem State.modInst_fabCfg (s : State) (a b : Nat) (f : CtxBh → CtxBh) : (s.modInst a b f).fabCfg = s.fabCfg := rfl
@[simp] theorem State.modInst_retrainBudget (s : State) (a b : Nat) (f : CtxBh → CtxBh) : (s.modInst a b f).retrainBudget = s.retrainBudget := rfl
@[simp] theorem State.modInst_ports (s : State) (a b : Nat) (f : CtxBh → CtxBh) : (s.modInst a b f).ports = s.ports := rfl
@[simp] theorem State.modInst_peerPort (s : State) (a b : Nat) (f : CtxBh → CtxBh) : (s.modInst a b f).peerPort = s.peerPort := rfl
@[simp] theorem State.modInst_lostWrites (s : State) (a b : Nat) (f : CtxBh → CtxBh) : (s.modInst a b f).lostWrites = s.lostWrites := rfl
@[simp] theorem State.modInst_sevqGet (s : State) (a b : Nat) (f : CtxBh → CtxBh) : (s.modInst a b f).sevqGet = s.sevqGet := rfl
@[simp] theorem State.modInst_sevqPut (s : State) (a b : Nat) (f : CtxBh → CtxBh) : (s.modInst a b f).sevqPut = s.sevqPut := rfl
@[simp] theorem State.modInst_sevqCount (s : State) (a b : Nat) (f : CtxBh → CtxBh) : (s.modInst a b f).sevqCount = s.sevqCount := rfl
@[simp] theorem State.modInst_sevqLost (s : State) (a b : Nat) (f : CtxBh → CtxBh) : (s.modInst a b f).sevqLost = s.sevqLost := rfl
@[simp] theorem State.modInst_sevqGap (s : State) (a b : Nat) (f : CtxBh → CtxBh) : (s.modInst a b f).sevqGap = s.sevqGap := rfl
@[simp] theorem State.modInst_moltNext (s : State) (a b : Nat) (f : CtxBh → CtxBh) : (s.modInst a b f).moltNext = s.moltNext := rfl
@[simp] theorem State.modInst_bootStage (s : State) (a b : Nat) (f : CtxBh → CtxBh) : (s.modInst a b f).bootStage = s.bootStage := rfl
@[simp] theorem State.modInst_bootOk (s : State) (a b : Nat) (f : CtxBh → CtxBh) : (s.modInst a b f).bootOk = s.bootOk := rfl
@[simp] theorem State.modInst_bootFails (s : State) (a b : Nat) (f : CtxBh → CtxBh) : (s.modInst a b f).bootFails = s.bootFails := rfl
@[simp] theorem State.modInst_bootReason (s : State) (a b : Nat) (f : CtxBh → CtxBh) : (s.modInst a b f).bootReason = s.bootReason := rfl
@[simp] theorem State.modInst_tadReq (s : State) (a b : Nat) (f : CtxBh → CtxBh) : (s.modInst a b f).tadReq = s.tadReq := rfl
@[simp] theorem State.modInst_mbxOpen (s : State) (a b : Nat) (f : CtxBh → CtxBh) : (s.modInst a b f).mbxOpen = s.mbxOpen := rfl
@[simp] theorem State.modInst_mbxBusy (s : State) (a b : Nat) (f : CtxBh → CtxBh) : (s.modInst a b f).mbxBusy = s.mbxBusy := rfl
@[simp] theorem State.modInst_tadDone (s : State) (a b : Nat) (f : CtxBh → CtxBh) : (s.modInst a b f).tadDone = s.tadDone := rfl
@[simp] theorem State.modInst_bootImage (s : State) (a b : Nat) (f : CtxBh → CtxBh) : (s.modInst a b f).bootImage = s.bootImage := rfl
@[simp] theorem State.modInst_mbxCode (s : State) (a b : Nat) (f : CtxBh → CtxBh) : (s.modInst a b f).mbxCode = s.mbxCode := rfl
@[simp] theorem State.modInst_mbxReason (s : State) (a b : Nat) (f : CtxBh → CtxBh) : (s.modInst a b f).mbxReason = s.mbxReason := rfl
@[simp] theorem State.modInst_mbxData (s : State) (a b : Nat) (f : CtxBh → CtxBh) : (s.modInst a b f).mbxData = s.mbxData := rfl
@[simp] theorem State.modInst_nvme (s : State) (a b : Nat) (f : CtxBh → CtxBh) : (s.modInst a b f).nvme = s.nvme := rfl
@[simp] theorem State.modInst_endpointUp (s : State) (a b : Nat) (f : CtxBh → CtxBh) : (s.modInst a b f).endpointUp = s.endpointUp := rfl
@[simp] theorem State.modInst_vfReset (s : State) (a b : Nat) (f : CtxBh → CtxBh) : (s.modInst a b f).vfReset = s.vfReset := rfl
@[simp] theorem State.modInst_doorbells (s : State) (a b : Nat) (f : CtxBh → CtxBh) : (s.modInst a b f).doorbells = s.doorbells := rfl
@[simp] theorem State.modInst_aperture (s : State) (a b : Nat) (f : CtxBh → CtxBh) : (s.modInst a b f).aperture = s.aperture := rfl
@[simp] theorem State.modInst_hostData (s : State) (a b : Nat) (f : CtxBh → CtxBh) : (s.modInst a b f).hostData = s.hostData := rfl
@[simp] theorem State.modInst_spdmLast (s : State) (a b : Nat) (f : CtxBh → CtxBh) : (s.modInst a b f).spdmLast = s.spdmLast := rfl
@[simp] theorem State.modInst_hostWrites (s : State) (a b : Nat) (f : CtxBh → CtxBh) : (s.modInst a b f).hostWrites = s.hostWrites := rfl
@[simp] theorem State.modInst_msix (s : State) (a b : Nat) (f : CtxBh → CtxBh) : (s.modInst a b f).msix = s.msix := rfl
@[simp] theorem State.modInst_hostIrqs (s : State) (a b : Nat) (f : CtxBh → CtxBh) : (s.modInst a b f).hostIrqs = s.hostIrqs := rfl
@[simp] theorem State.modInst_urSent (s : State) (a b : Nat) (f : CtxBh → CtxBh) : (s.modInst a b f).urSent = s.urSent := rfl
@[simp] theorem State.modInst_vfRunning (s : State) (a b : Nat) (f : CtxBh → CtxBh) : (s.modInst a b f).vfRunning = s.vfRunning := rfl
@[simp] theorem State.modInst_agenda (s : State) (a b : Nat) (f : CtxBh → CtxBh) : (s.modInst a b f).agenda = s.agenda := rfl
@[simp] theorem State.modInst_cur (s : State) (a b : Nat) (f : CtxBh → CtxBh) : (s.modInst a b f).cur = s.cur := rfl
@[simp] theorem State.modInst_curSlot (s : State) (a b : Nat) (f : CtxBh → CtxBh) : (s.modInst a b f).curSlot = s.curSlot := rfl
@[simp] theorem State.modInst_clock (s : State) (a b : Nat) (f : CtxBh → CtxBh) : (s.modInst a b f).clock = s.clock := rfl
@[simp] theorem State.modInst_tick (s : State) (a b : Nat) (f : CtxBh → CtxBh) : (s.modInst a b f).tick = s.tick := rfl
@[simp] theorem State.modInst_nextId (s : State) (a b : Nat) (f : CtxBh → CtxBh) : (s.modInst a b f).nextId = s.nextId := rfl

/-! A team changed leaves every other field. -/
@[simp] theorem State.modTeam_groups (s : State) (t : Nat) (f : Team → Team) : (s.modTeam t f).groups = s.groups := rfl
@[simp] theorem State.modTeam_grids (s : State) (t : Nat) (f : Team → Team) : (s.modTeam t f).grids = s.grids := rfl
@[simp] theorem State.modTeam_ctxs (s : State) (t : Nat) (f : Team → Team) : (s.modTeam t f).ctxs = s.ctxs := rfl
@[simp] theorem State.modTeam_cores (s : State) (t : Nat) (f : Team → Team) : (s.modTeam t f).cores = s.cores := rfl
@[simp] theorem State.modTeam_units (s : State) (t : Nat) (f : Team → Team) : (s.modTeam t f).units = s.units := rfl
@[simp] theorem State.modTeam_bhs (s : State) (t : Nat) (f : Team → Team) : (s.modTeam t f).bhs = s.bhs := rfl
@[simp] theorem State.modTeam_saved (s : State) (t : Nat) (f : Team → Team) : (s.modTeam t f).saved = s.saved := rfl
@[simp] theorem State.modTeam_images (s : State) (t : Nat) (f : Team → Team) : (s.modTeam t f).images = s.images := rfl
@[simp] theorem State.modTeam_home (s : State) (t : Nat) (f : Team → Team) : (s.modTeam t f).home = s.home := rfl
@[simp] theorem State.modTeam_hbm (s : State) (t : Nat) (f : Team → Team) : (s.modTeam t f).hbm = s.hbm := rfl
@[simp] theorem State.modTeam_lines (s : State) (t : Nat) (f : Team → Team) : (s.modTeam t f).lines = s.lines := rfl
@[simp] theorem State.modTeam_owners (s : State) (t : Nat) (f : Team → Team) : (s.modTeam t f).owners = s.owners := rfl
@[simp] theorem State.modTeam_poison (s : State) (t : Nat) (f : Team → Team) : (s.modTeam t f).poison = s.poison := rfl
@[simp] theorem State.modTeam_net (s : State) (t : Nat) (f : Team → Team) : (s.modTeam t f).net = s.net := rfl
@[simp] theorem State.modTeam_pends (s : State) (t : Nat) (f : Team → Team) : (s.modTeam t f).pends = s.pends := rfl
@[simp] theorem State.modTeam_engines (s : State) (t : Nat) (f : Team → Team) : (s.modTeam t f).engines = s.engines := rfl
@[simp] theorem State.modTeam_messages (s : State) (t : Nat) (f : Team → Team) : (s.modTeam t f).messages = s.messages := rfl
@[simp] theorem State.modTeam_shoots (s : State) (t : Nat) (f : Team → Team) : (s.modTeam t f).shoots = s.shoots := rfl
@[simp] theorem State.modTeam_caches (s : State) (t : Nat) (f : Team → Team) : (s.modTeam t f).caches = s.caches := rfl
@[simp] theorem State.modTeam_leaves (s : State) (t : Nat) (f : Team → Team) : (s.modTeam t f).leaves = s.leaves := rfl
@[simp] theorem State.modTeam_outside (s : State) (t : Nat) (f : Team → Team) : (s.modTeam t f).outside = s.outside := rfl
@[simp] theorem State.modTeam_shootGo (s : State) (t : Nat) (f : Team → Team) : (s.modTeam t f).shootGo = s.shootGo := rfl
@[simp] theorem State.modTeam_shoot0 (s : State) (t : Nat) (f : Team → Team) : (s.modTeam t f).shoot0 = s.shoot0 := rfl
@[simp] theorem State.modTeam_shoot1 (s : State) (t : Nat) (f : Team → Team) : (s.modTeam t f).shoot1 = s.shoot1 := rfl
@[simp] theorem State.modTeam_posted (s : State) (t : Nat) (f : Team → Team) : (s.modTeam t f).posted = s.posted := rfl
@[simp] theorem State.modTeam_fabWaits (s : State) (t : Nat) (f : Team → Team) : (s.modTeam t f).fabWaits = s.fabWaits := rfl
@[simp] theorem State.modTeam_linkWaits (s : State) (t : Nat) (f : Team → Team) : (s.modTeam t f).linkWaits = s.linkWaits := rfl
@[simp] theorem State.modTeam_peerReplies (s : State) (t : Nat) (f : Team → Team) : (s.modTeam t f).peerReplies = s.peerReplies := rfl
@[simp] theorem State.modTeam_tntShape (s : State) (t : Nat) (f : Team → Team) : (s.modTeam t f).tntShape = s.tntShape := rfl
@[simp] theorem State.modTeam_tntFab (s : State) (t : Nat) (f : Team → Team) : (s.modTeam t f).tntFab = s.tntFab := rfl
@[simp] theorem State.modTeam_tntQrate (s : State) (t : Nat) (f : Team → Team) : (s.modTeam t f).tntQrate = s.tntQrate := rfl
@[simp] theorem State.modTeam_tokens (s : State) (t : Nat) (f : Team → Team) : (s.modTeam t f).tokens = s.tokens := rfl
@[simp] theorem State.modTeam_mcSet (s : State) (t : Nat) (f : Team → Team) : (s.modTeam t f).mcSet = s.mcSet := rfl
@[simp] theorem State.modTeam_tntErr (s : State) (t : Nat) (f : Team → Team) : (s.modTeam t f).tntErr = s.tntErr := rfl
@[simp] theorem State.modTeam_fabCfg (s : State) (t : Nat) (f : Team → Team) : (s.modTeam t f).fabCfg = s.fabCfg := rfl
@[simp] theorem State.modTeam_retrainBudget (s : State) (t : Nat) (f : Team → Team) : (s.modTeam t f).retrainBudget = s.retrainBudget := rfl
@[simp] theorem State.modTeam_ports (s : State) (t : Nat) (f : Team → Team) : (s.modTeam t f).ports = s.ports := rfl
@[simp] theorem State.modTeam_peerPort (s : State) (t : Nat) (f : Team → Team) : (s.modTeam t f).peerPort = s.peerPort := rfl
@[simp] theorem State.modTeam_lostWrites (s : State) (t : Nat) (f : Team → Team) : (s.modTeam t f).lostWrites = s.lostWrites := rfl
@[simp] theorem State.modTeam_sevqGet (s : State) (t : Nat) (f : Team → Team) : (s.modTeam t f).sevqGet = s.sevqGet := rfl
@[simp] theorem State.modTeam_sevqPut (s : State) (t : Nat) (f : Team → Team) : (s.modTeam t f).sevqPut = s.sevqPut := rfl
@[simp] theorem State.modTeam_sevqCount (s : State) (t : Nat) (f : Team → Team) : (s.modTeam t f).sevqCount = s.sevqCount := rfl
@[simp] theorem State.modTeam_sevqLost (s : State) (t : Nat) (f : Team → Team) : (s.modTeam t f).sevqLost = s.sevqLost := rfl
@[simp] theorem State.modTeam_sevqGap (s : State) (t : Nat) (f : Team → Team) : (s.modTeam t f).sevqGap = s.sevqGap := rfl
@[simp] theorem State.modTeam_moltNext (s : State) (t : Nat) (f : Team → Team) : (s.modTeam t f).moltNext = s.moltNext := rfl
@[simp] theorem State.modTeam_bootStage (s : State) (t : Nat) (f : Team → Team) : (s.modTeam t f).bootStage = s.bootStage := rfl
@[simp] theorem State.modTeam_bootOk (s : State) (t : Nat) (f : Team → Team) : (s.modTeam t f).bootOk = s.bootOk := rfl
@[simp] theorem State.modTeam_bootFails (s : State) (t : Nat) (f : Team → Team) : (s.modTeam t f).bootFails = s.bootFails := rfl
@[simp] theorem State.modTeam_bootReason (s : State) (t : Nat) (f : Team → Team) : (s.modTeam t f).bootReason = s.bootReason := rfl
@[simp] theorem State.modTeam_tadReq (s : State) (t : Nat) (f : Team → Team) : (s.modTeam t f).tadReq = s.tadReq := rfl
@[simp] theorem State.modTeam_mbxOpen (s : State) (t : Nat) (f : Team → Team) : (s.modTeam t f).mbxOpen = s.mbxOpen := rfl
@[simp] theorem State.modTeam_mbxBusy (s : State) (t : Nat) (f : Team → Team) : (s.modTeam t f).mbxBusy = s.mbxBusy := rfl
@[simp] theorem State.modTeam_tadDone (s : State) (t : Nat) (f : Team → Team) : (s.modTeam t f).tadDone = s.tadDone := rfl
@[simp] theorem State.modTeam_bootImage (s : State) (t : Nat) (f : Team → Team) : (s.modTeam t f).bootImage = s.bootImage := rfl
@[simp] theorem State.modTeam_mbxCode (s : State) (t : Nat) (f : Team → Team) : (s.modTeam t f).mbxCode = s.mbxCode := rfl
@[simp] theorem State.modTeam_mbxReason (s : State) (t : Nat) (f : Team → Team) : (s.modTeam t f).mbxReason = s.mbxReason := rfl
@[simp] theorem State.modTeam_mbxData (s : State) (t : Nat) (f : Team → Team) : (s.modTeam t f).mbxData = s.mbxData := rfl
@[simp] theorem State.modTeam_nvme (s : State) (t : Nat) (f : Team → Team) : (s.modTeam t f).nvme = s.nvme := rfl
@[simp] theorem State.modTeam_endpointUp (s : State) (t : Nat) (f : Team → Team) : (s.modTeam t f).endpointUp = s.endpointUp := rfl
@[simp] theorem State.modTeam_vfReset (s : State) (t : Nat) (f : Team → Team) : (s.modTeam t f).vfReset = s.vfReset := rfl
@[simp] theorem State.modTeam_doorbells (s : State) (t : Nat) (f : Team → Team) : (s.modTeam t f).doorbells = s.doorbells := rfl
@[simp] theorem State.modTeam_aperture (s : State) (t : Nat) (f : Team → Team) : (s.modTeam t f).aperture = s.aperture := rfl
@[simp] theorem State.modTeam_hostData (s : State) (t : Nat) (f : Team → Team) : (s.modTeam t f).hostData = s.hostData := rfl
@[simp] theorem State.modTeam_spdmLast (s : State) (t : Nat) (f : Team → Team) : (s.modTeam t f).spdmLast = s.spdmLast := rfl
@[simp] theorem State.modTeam_hostWrites (s : State) (t : Nat) (f : Team → Team) : (s.modTeam t f).hostWrites = s.hostWrites := rfl
@[simp] theorem State.modTeam_msix (s : State) (t : Nat) (f : Team → Team) : (s.modTeam t f).msix = s.msix := rfl
@[simp] theorem State.modTeam_hostIrqs (s : State) (t : Nat) (f : Team → Team) : (s.modTeam t f).hostIrqs = s.hostIrqs := rfl
@[simp] theorem State.modTeam_urSent (s : State) (t : Nat) (f : Team → Team) : (s.modTeam t f).urSent = s.urSent := rfl
@[simp] theorem State.modTeam_vfRunning (s : State) (t : Nat) (f : Team → Team) : (s.modTeam t f).vfRunning = s.vfRunning := rfl
@[simp] theorem State.modTeam_agenda (s : State) (t : Nat) (f : Team → Team) : (s.modTeam t f).agenda = s.agenda := rfl
@[simp] theorem State.modTeam_cur (s : State) (t : Nat) (f : Team → Team) : (s.modTeam t f).cur = s.cur := rfl
@[simp] theorem State.modTeam_curSlot (s : State) (t : Nat) (f : Team → Team) : (s.modTeam t f).curSlot = s.curSlot := rfl
@[simp] theorem State.modTeam_clock (s : State) (t : Nat) (f : Team → Team) : (s.modTeam t f).clock = s.clock := rfl
@[simp] theorem State.modTeam_tick (s : State) (t : Nat) (f : Team → Team) : (s.modTeam t f).tick = s.tick := rfl
@[simp] theorem State.modTeam_nextId (s : State) (t : Nat) (f : Team → Team) : (s.modTeam t f).nextId = s.nextId := rfl

/-! A matrix unit changed leaves every other field. -/
@[simp] theorem State.modUnit_groups (s : State) (c p : Nat) (f : MatUnit → MatUnit) : (s.modUnit c p f).groups = s.groups := rfl
@[simp] theorem State.modUnit_teams (s : State) (c p : Nat) (f : MatUnit → MatUnit) : (s.modUnit c p f).teams = s.teams := rfl
@[simp] theorem State.modUnit_grids (s : State) (c p : Nat) (f : MatUnit → MatUnit) : (s.modUnit c p f).grids = s.grids := rfl
@[simp] theorem State.modUnit_ctxs (s : State) (c p : Nat) (f : MatUnit → MatUnit) : (s.modUnit c p f).ctxs = s.ctxs := rfl
@[simp] theorem State.modUnit_cores (s : State) (c p : Nat) (f : MatUnit → MatUnit) : (s.modUnit c p f).cores = s.cores := rfl
@[simp] theorem State.modUnit_bhs (s : State) (c p : Nat) (f : MatUnit → MatUnit) : (s.modUnit c p f).bhs = s.bhs := rfl
@[simp] theorem State.modUnit_saved (s : State) (c p : Nat) (f : MatUnit → MatUnit) : (s.modUnit c p f).saved = s.saved := rfl
@[simp] theorem State.modUnit_images (s : State) (c p : Nat) (f : MatUnit → MatUnit) : (s.modUnit c p f).images = s.images := rfl
@[simp] theorem State.modUnit_home (s : State) (c p : Nat) (f : MatUnit → MatUnit) : (s.modUnit c p f).home = s.home := rfl
@[simp] theorem State.modUnit_hbm (s : State) (c p : Nat) (f : MatUnit → MatUnit) : (s.modUnit c p f).hbm = s.hbm := rfl
@[simp] theorem State.modUnit_lines (s : State) (c p : Nat) (f : MatUnit → MatUnit) : (s.modUnit c p f).lines = s.lines := rfl
@[simp] theorem State.modUnit_owners (s : State) (c p : Nat) (f : MatUnit → MatUnit) : (s.modUnit c p f).owners = s.owners := rfl
@[simp] theorem State.modUnit_poison (s : State) (c p : Nat) (f : MatUnit → MatUnit) : (s.modUnit c p f).poison = s.poison := rfl
@[simp] theorem State.modUnit_net (s : State) (c p : Nat) (f : MatUnit → MatUnit) : (s.modUnit c p f).net = s.net := rfl
@[simp] theorem State.modUnit_pends (s : State) (c p : Nat) (f : MatUnit → MatUnit) : (s.modUnit c p f).pends = s.pends := rfl
@[simp] theorem State.modUnit_engines (s : State) (c p : Nat) (f : MatUnit → MatUnit) : (s.modUnit c p f).engines = s.engines := rfl
@[simp] theorem State.modUnit_messages (s : State) (c p : Nat) (f : MatUnit → MatUnit) : (s.modUnit c p f).messages = s.messages := rfl
@[simp] theorem State.modUnit_shoots (s : State) (c p : Nat) (f : MatUnit → MatUnit) : (s.modUnit c p f).shoots = s.shoots := rfl
@[simp] theorem State.modUnit_caches (s : State) (c p : Nat) (f : MatUnit → MatUnit) : (s.modUnit c p f).caches = s.caches := rfl
@[simp] theorem State.modUnit_leaves (s : State) (c p : Nat) (f : MatUnit → MatUnit) : (s.modUnit c p f).leaves = s.leaves := rfl
@[simp] theorem State.modUnit_outside (s : State) (c p : Nat) (f : MatUnit → MatUnit) : (s.modUnit c p f).outside = s.outside := rfl
@[simp] theorem State.modUnit_shootGo (s : State) (c p : Nat) (f : MatUnit → MatUnit) : (s.modUnit c p f).shootGo = s.shootGo := rfl
@[simp] theorem State.modUnit_shoot0 (s : State) (c p : Nat) (f : MatUnit → MatUnit) : (s.modUnit c p f).shoot0 = s.shoot0 := rfl
@[simp] theorem State.modUnit_shoot1 (s : State) (c p : Nat) (f : MatUnit → MatUnit) : (s.modUnit c p f).shoot1 = s.shoot1 := rfl
@[simp] theorem State.modUnit_posted (s : State) (c p : Nat) (f : MatUnit → MatUnit) : (s.modUnit c p f).posted = s.posted := rfl
@[simp] theorem State.modUnit_fabWaits (s : State) (c p : Nat) (f : MatUnit → MatUnit) : (s.modUnit c p f).fabWaits = s.fabWaits := rfl
@[simp] theorem State.modUnit_linkWaits (s : State) (c p : Nat) (f : MatUnit → MatUnit) : (s.modUnit c p f).linkWaits = s.linkWaits := rfl
@[simp] theorem State.modUnit_peerReplies (s : State) (c p : Nat) (f : MatUnit → MatUnit) : (s.modUnit c p f).peerReplies = s.peerReplies := rfl
@[simp] theorem State.modUnit_tntShape (s : State) (c p : Nat) (f : MatUnit → MatUnit) : (s.modUnit c p f).tntShape = s.tntShape := rfl
@[simp] theorem State.modUnit_tntFab (s : State) (c p : Nat) (f : MatUnit → MatUnit) : (s.modUnit c p f).tntFab = s.tntFab := rfl
@[simp] theorem State.modUnit_tntQrate (s : State) (c p : Nat) (f : MatUnit → MatUnit) : (s.modUnit c p f).tntQrate = s.tntQrate := rfl
@[simp] theorem State.modUnit_tokens (s : State) (c p : Nat) (f : MatUnit → MatUnit) : (s.modUnit c p f).tokens = s.tokens := rfl
@[simp] theorem State.modUnit_mcSet (s : State) (c p : Nat) (f : MatUnit → MatUnit) : (s.modUnit c p f).mcSet = s.mcSet := rfl
@[simp] theorem State.modUnit_tntErr (s : State) (c p : Nat) (f : MatUnit → MatUnit) : (s.modUnit c p f).tntErr = s.tntErr := rfl
@[simp] theorem State.modUnit_fabCfg (s : State) (c p : Nat) (f : MatUnit → MatUnit) : (s.modUnit c p f).fabCfg = s.fabCfg := rfl
@[simp] theorem State.modUnit_retrainBudget (s : State) (c p : Nat) (f : MatUnit → MatUnit) : (s.modUnit c p f).retrainBudget = s.retrainBudget := rfl
@[simp] theorem State.modUnit_ports (s : State) (c p : Nat) (f : MatUnit → MatUnit) : (s.modUnit c p f).ports = s.ports := rfl
@[simp] theorem State.modUnit_peerPort (s : State) (c p : Nat) (f : MatUnit → MatUnit) : (s.modUnit c p f).peerPort = s.peerPort := rfl
@[simp] theorem State.modUnit_lostWrites (s : State) (c p : Nat) (f : MatUnit → MatUnit) : (s.modUnit c p f).lostWrites = s.lostWrites := rfl
@[simp] theorem State.modUnit_sevqGet (s : State) (c p : Nat) (f : MatUnit → MatUnit) : (s.modUnit c p f).sevqGet = s.sevqGet := rfl
@[simp] theorem State.modUnit_sevqPut (s : State) (c p : Nat) (f : MatUnit → MatUnit) : (s.modUnit c p f).sevqPut = s.sevqPut := rfl
@[simp] theorem State.modUnit_sevqCount (s : State) (c p : Nat) (f : MatUnit → MatUnit) : (s.modUnit c p f).sevqCount = s.sevqCount := rfl
@[simp] theorem State.modUnit_sevqLost (s : State) (c p : Nat) (f : MatUnit → MatUnit) : (s.modUnit c p f).sevqLost = s.sevqLost := rfl
@[simp] theorem State.modUnit_sevqGap (s : State) (c p : Nat) (f : MatUnit → MatUnit) : (s.modUnit c p f).sevqGap = s.sevqGap := rfl
@[simp] theorem State.modUnit_moltNext (s : State) (c p : Nat) (f : MatUnit → MatUnit) : (s.modUnit c p f).moltNext = s.moltNext := rfl
@[simp] theorem State.modUnit_bootStage (s : State) (c p : Nat) (f : MatUnit → MatUnit) : (s.modUnit c p f).bootStage = s.bootStage := rfl
@[simp] theorem State.modUnit_bootOk (s : State) (c p : Nat) (f : MatUnit → MatUnit) : (s.modUnit c p f).bootOk = s.bootOk := rfl
@[simp] theorem State.modUnit_bootFails (s : State) (c p : Nat) (f : MatUnit → MatUnit) : (s.modUnit c p f).bootFails = s.bootFails := rfl
@[simp] theorem State.modUnit_bootReason (s : State) (c p : Nat) (f : MatUnit → MatUnit) : (s.modUnit c p f).bootReason = s.bootReason := rfl
@[simp] theorem State.modUnit_tadReq (s : State) (c p : Nat) (f : MatUnit → MatUnit) : (s.modUnit c p f).tadReq = s.tadReq := rfl
@[simp] theorem State.modUnit_mbxOpen (s : State) (c p : Nat) (f : MatUnit → MatUnit) : (s.modUnit c p f).mbxOpen = s.mbxOpen := rfl
@[simp] theorem State.modUnit_mbxBusy (s : State) (c p : Nat) (f : MatUnit → MatUnit) : (s.modUnit c p f).mbxBusy = s.mbxBusy := rfl
@[simp] theorem State.modUnit_tadDone (s : State) (c p : Nat) (f : MatUnit → MatUnit) : (s.modUnit c p f).tadDone = s.tadDone := rfl
@[simp] theorem State.modUnit_bootImage (s : State) (c p : Nat) (f : MatUnit → MatUnit) : (s.modUnit c p f).bootImage = s.bootImage := rfl
@[simp] theorem State.modUnit_mbxCode (s : State) (c p : Nat) (f : MatUnit → MatUnit) : (s.modUnit c p f).mbxCode = s.mbxCode := rfl
@[simp] theorem State.modUnit_mbxReason (s : State) (c p : Nat) (f : MatUnit → MatUnit) : (s.modUnit c p f).mbxReason = s.mbxReason := rfl
@[simp] theorem State.modUnit_mbxData (s : State) (c p : Nat) (f : MatUnit → MatUnit) : (s.modUnit c p f).mbxData = s.mbxData := rfl
@[simp] theorem State.modUnit_nvme (s : State) (c p : Nat) (f : MatUnit → MatUnit) : (s.modUnit c p f).nvme = s.nvme := rfl
@[simp] theorem State.modUnit_endpointUp (s : State) (c p : Nat) (f : MatUnit → MatUnit) : (s.modUnit c p f).endpointUp = s.endpointUp := rfl
@[simp] theorem State.modUnit_vfReset (s : State) (c p : Nat) (f : MatUnit → MatUnit) : (s.modUnit c p f).vfReset = s.vfReset := rfl
@[simp] theorem State.modUnit_doorbells (s : State) (c p : Nat) (f : MatUnit → MatUnit) : (s.modUnit c p f).doorbells = s.doorbells := rfl
@[simp] theorem State.modUnit_aperture (s : State) (c p : Nat) (f : MatUnit → MatUnit) : (s.modUnit c p f).aperture = s.aperture := rfl
@[simp] theorem State.modUnit_hostData (s : State) (c p : Nat) (f : MatUnit → MatUnit) : (s.modUnit c p f).hostData = s.hostData := rfl
@[simp] theorem State.modUnit_spdmLast (s : State) (c p : Nat) (f : MatUnit → MatUnit) : (s.modUnit c p f).spdmLast = s.spdmLast := rfl
@[simp] theorem State.modUnit_hostWrites (s : State) (c p : Nat) (f : MatUnit → MatUnit) : (s.modUnit c p f).hostWrites = s.hostWrites := rfl
@[simp] theorem State.modUnit_msix (s : State) (c p : Nat) (f : MatUnit → MatUnit) : (s.modUnit c p f).msix = s.msix := rfl
@[simp] theorem State.modUnit_hostIrqs (s : State) (c p : Nat) (f : MatUnit → MatUnit) : (s.modUnit c p f).hostIrqs = s.hostIrqs := rfl
@[simp] theorem State.modUnit_urSent (s : State) (c p : Nat) (f : MatUnit → MatUnit) : (s.modUnit c p f).urSent = s.urSent := rfl
@[simp] theorem State.modUnit_vfRunning (s : State) (c p : Nat) (f : MatUnit → MatUnit) : (s.modUnit c p f).vfRunning = s.vfRunning := rfl
@[simp] theorem State.modUnit_agenda (s : State) (c p : Nat) (f : MatUnit → MatUnit) : (s.modUnit c p f).agenda = s.agenda := rfl
@[simp] theorem State.modUnit_cur (s : State) (c p : Nat) (f : MatUnit → MatUnit) : (s.modUnit c p f).cur = s.cur := rfl
@[simp] theorem State.modUnit_curSlot (s : State) (c p : Nat) (f : MatUnit → MatUnit) : (s.modUnit c p f).curSlot = s.curSlot := rfl
@[simp] theorem State.modUnit_clock (s : State) (c p : Nat) (f : MatUnit → MatUnit) : (s.modUnit c p f).clock = s.clock := rfl
@[simp] theorem State.modUnit_tick (s : State) (c p : Nat) (f : MatUnit → MatUnit) : (s.modUnit c p f).tick = s.tick := rfl
@[simp] theorem State.modUnit_nextId (s : State) (c p : Nat) (f : MatUnit → MatUnit) : (s.modUnit c p f).nextId = s.nextId := rfl

/-! A PC slot written leaves every other field of its group. -/
@[simp] theorem Group.setPc_asid (g : Group) (b : Bool) (p : PcSlot) : (g.setPc b p).asid = g.asid := by cases b <;> rfl
@[simp] theorem Group.setPc_team (g : Group) (b : Bool) (p : PcSlot) : (g.setPc b p).team = g.team := by cases b <;> rfl
@[simp] theorem Group.setPc_index (g : Group) (b : Bool) (p : PcSlot) : (g.setPc b p).index = g.index := by cases b <;> rfl
@[simp] theorem Group.setPc_uid (g : Group) (b : Bool) (p : PcSlot) : (g.setPc b p).uid = g.uid := by cases b <;> rfl
@[simp] theorem Group.setPc_supervisor (g : Group) (b : Bool) (p : PcSlot) : (g.setPc b p).supervisor = g.supervisor := by cases b <;> rfl
@[simp] theorem Group.setPc_ended (g : Group) (b : Bool) (p : PcSlot) : (g.setPc b p).ended = g.ended := by cases b <;> rfl
@[simp] theorem Group.setPc_regs (g : Group) (b : Bool) (p : PcSlot) : (g.setPc b p).regs = g.regs := by cases b <;> rfl
@[simp] theorem Group.setPc_base (g : Group) (b : Bool) (p : PcSlot) : (g.setPc b p).base = g.base := by cases b <;> rfl
@[simp] theorem Group.setPc_active (g : Group) (b : Bool) (p : PcSlot) : (g.setPc b p).active = g.active := by cases b <;> rfl
@[simp] theorem Group.setPc_s (g : Group) (b : Bool) (p : PcSlot) : (g.setPc b p).s = g.s := by cases b <;> rfl
@[simp] theorem Group.setPc_y (g : Group) (b : Bool) (p : PcSlot) : (g.setPc b p).y = g.y := by cases b <;> rfl
@[simp] theorem Group.setPc_k (g : Group) (b : Bool) (p : PcSlot) : (g.setPc b p).k = g.k := by cases b <;> rfl
@[simp] theorem Group.setPc_v (g : Group) (b : Bool) (p : PcSlot) : (g.setPc b p).v = g.v := by cases b <;> rfl
@[simp] theorem Group.setPc_z (g : Group) (b : Bool) (p : PcSlot) : (g.setPc b p).z = g.z := by cases b <;> rfl
@[simp] theorem Group.setPc_zFull (g : Group) (b : Bool) (p : PcSlot) : (g.setPc b p).zFull = g.zFull := by cases b <;> rfl
@[simp] theorem Group.setPc_x (g : Group) (b : Bool) (p : PcSlot) : (g.setPc b p).x = g.x := by cases b <;> rfl
@[simp] theorem Group.setPc_t (g : Group) (b : Bool) (p : PcSlot) : (g.setPc b p).t = g.t := by cases b <;> rfl
@[simp] theorem Group.setPc_h (g : Group) (b : Bool) (p : PcSlot) : (g.setPc b p).h = g.h := by cases b <;> rfl
@[simp] theorem Group.setPc_e (g : Group) (b : Bool) (p : PcSlot) : (g.setPc b p).e = g.e := by cases b <;> rfl
@[simp] theorem Group.setPc_nextSlot (g : Group) (b : Bool) (p : PcSlot) : (g.setPc b p).nextSlot = g.nextSlot := by cases b <;> rfl
@[simp] theorem Group.setPc_depth (g : Group) (b : Bool) (p : PcSlot) : (g.setPc b p).depth = g.depth := by cases b <;> rfl
@[simp] theorem Group.setPc_pushed (g : Group) (b : Bool) (p : PcSlot) : (g.setPc b p).pushed = g.pushed := by cases b <;> rfl
@[simp] theorem Group.setPc_flips (g : Group) (b : Bool) (p : PcSlot) : (g.setPc b p).flips = g.flips := by cases b <;> rfl
@[simp] theorem Group.setPc_handoff (g : Group) (b : Bool) (p : PcSlot) : (g.setPc b p).handoff = g.handoff := by cases b <;> rfl
@[simp] theorem Group.setPc_fenceLoss (g : Group) (b : Bool) (p : PcSlot) : (g.setPc b p).fenceLoss = g.fenceLoss := by cases b <;> rfl
@[simp] theorem Group.setPc_restarts (g : Group) (b : Bool) (p : PcSlot) : (g.setPc b p).restarts = g.restarts := by cases b <;> rfl
@[simp] theorem Group.setPc_idem (g : Group) (b : Bool) (p : PcSlot) : (g.setPc b p).idem = g.idem := by cases b <;> rfl
@[simp] theorem Group.setPc_hnd (g : Group) (b : Bool) (p : PcSlot) : (g.setPc b p).hnd = g.hnd := by cases b <;> rfl
@[simp] theorem Group.setPc_stepLast (g : Group) (b : Bool) (p : PcSlot) : (g.setPc b p).stepLast = g.stepLast := by cases b <;> rfl
@[simp] theorem Group.setPc_stepCount (g : Group) (b : Bool) (p : PcSlot) : (g.setPc b p).stepCount = g.stepCount := by cases b <;> rfl
@[simp] theorem Group.setPc_tmrArmed (g : Group) (b : Bool) (p : PcSlot) : (g.setPc b p).tmrArmed = g.tmrArmed := by cases b <;> rfl
@[simp] theorem Group.setPc_tmrRemain (g : Group) (b : Bool) (p : PcSlot) : (g.setPc b p).tmrRemain = g.tmrRemain := by cases b <;> rfl
@[simp] theorem Group.setPc_timerDue (g : Group) (b : Bool) (p : PcSlot) : (g.setPc b p).timerDue = g.timerDue := by cases b <;> rfl
@[simp] theorem Group.setPc_ls (g : Group) (b : Bool) (p : PcSlot) : (g.setPc b p).ls = g.ls := by cases b <;> rfl
@[simp] theorem Group.setPc_ovf (g : Group) (b : Bool) (p : PcSlot) : (g.setPc b p).ovf = g.ovf := by cases b <;> rfl
@[simp] theorem Group.setPc_absmax (g : Group) (b : Bool) (p : PcSlot) : (g.setPc b p).absmax = g.absmax := by cases b <;> rfl
@[simp] theorem Group.setPc_absQueue (g : Group) (b : Bool) (p : PcSlot) : (g.setPc b p).absQueue = g.absQueue := by cases b <;> rfl
@[simp] theorem Group.setPc_draws (g : Group) (b : Bool) (p : PcSlot) : (g.setPc b p).draws = g.draws := by cases b <;> rfl
@[simp] theorem Group.setPc_idemPc (g : Group) (b : Bool) (p : PcSlot) : (g.setPc b p).idemPc = g.idemPc := by cases b <;> rfl
@[simp] theorem Group.setPc_idemSig (g : Group) (b : Bool) (p : PcSlot) : (g.setPc b p).idemSig = g.idemSig := by cases b <;> rfl
@[simp] theorem Group.setPc_idemDraws (g : Group) (b : Bool) (p : PcSlot) : (g.setPc b p).idemDraws = g.idemDraws := by cases b <;> rfl
@[simp] theorem Group.setPc_saved (g : Group) (b : Bool) (p : PcSlot) : (g.setPc b p).saved = g.saved := by cases b <;> rfl
@[simp] theorem Group.setPc_ptVa (g : Group) (b : Bool) (p : PcSlot) : (g.setPc b p).ptVa = g.ptVa := by cases b <;> rfl
@[simp] theorem Group.setPc_ptOld (g : Group) (b : Bool) (p : PcSlot) : (g.setPc b p).ptOld = g.ptOld := by cases b <;> rfl
@[simp] theorem Group.setPc_ptNew (g : Group) (b : Bool) (p : PcSlot) : (g.setPc b p).ptNew = g.ptNew := by cases b <;> rfl
@[simp] theorem Group.setPc_ptStat (g : Group) (b : Bool) (p : PcSlot) : (g.setPc b p).ptStat = g.ptStat := by cases b <;> rfl
@[simp] theorem Group.setPc_fdResult (g : Group) (b : Bool) (p : PcSlot) : (g.setPc b p).fdResult = g.fdResult := by cases b <;> rfl
@[simp] theorem Group.setPc_streams (g : Group) (b : Bool) (p : PcSlot) : (g.setPc b p).streams = g.streams := by cases b <;> rfl
@[simp] theorem Group.setPc_digest (g : Group) (b : Bool) (p : PcSlot) : (g.setPc b p).digest = g.digest := by cases b <;> rfl
@[simp] theorem Group.setPc_run (g : Group) (b : Bool) (p : PcSlot) : (g.setPc b p).run = g.run := by cases b <;> rfl
@[simp] theorem Group.setPc_selected (g : Group) (b : Bool) (p : PcSlot) : (g.setPc b p).selected = g.selected := by cases b <;> rfl
@[simp] theorem Group.setPc_deferred (g : Group) (b : Bool) (p : PcSlot) : (g.setPc b p).deferred = g.deferred := by cases b <;> rfl
@[simp] theorem Group.setPc_consumed (g : Group) (b : Bool) (p : PcSlot) : (g.setPc b p).consumed = g.consumed := by cases b <;> rfl
@[simp] theorem Group.setPc_regPoison (g : Group) (b : Bool) (p : PcSlot) : (g.setPc b p).regPoison = g.regPoison := by cases b <;> rfl
@[simp] theorem Group.setPc_gangAbort (g : Group) (b : Bool) (p : PcSlot) : (g.setPc b p).gangAbort = g.gangAbort := by cases b <;> rfl
@[simp] theorem Group.setPc_fenceStamp (g : Group) (b : Bool) (p : PcSlot) : (g.setPc b p).fenceStamp = g.fenceStamp := by cases b <;> rfl
@[simp] theorem Group.setPc_arrived (g : Group) (b : Bool) (p : PcSlot) : (g.setPc b p).arrived = g.arrived := by cases b <;> rfl
@[simp] theorem Group.setPc_gangArrived (g : Group) (b : Bool) (p : PcSlot) : (g.setPc b p).gangArrived = g.gangArrived := by cases b <;> rfl
@[simp] theorem Group.setPc_wait (g : Group) (b : Bool) (p : PcSlot) : (g.setPc b p).wait = g.wait := by cases b <;> rfl
@[simp] theorem Group.setPc_waitSince (g : Group) (b : Bool) (p : PcSlot) : (g.setPc b p).waitSince = g.waitSince := by cases b <;> rfl
@[simp] theorem Group.setPc_waitClock (g : Group) (b : Bool) (p : PcSlot) : (g.setPc b p).waitClock = g.waitClock := by cases b <;> rfl
@[simp] theorem Group.setPc_messages (g : Group) (b : Bool) (p : PcSlot) : (g.setPc b p).messages = g.messages := by cases b <;> rfl
@[simp] theorem Group.setPc_zeroRead (g : Group) (b : Bool) (p : PcSlot) : (g.setPc b p).zeroRead = g.zeroRead := by cases b <;> rfl
@[simp] theorem Group.setPc_scalarBusy (g : Group) (b : Bool) (p : PcSlot) : (g.setPc b p).scalarBusy = g.scalarBusy := by cases b <;> rfl

@[simp] theorem Group.setPc_same (g : Group) (b : Bool) (p : PcSlot) : (g.setPc b p).pc b = p := by cases b <;> rfl
@[simp] theorem Group.setPc_other (g : Group) (b : Bool) (p : PcSlot) : (g.setPc b p).pc (!b) = g.pc (!b) := by cases b <;> rfl

/-- A scalar register written changes only the scalar registers. -/
theorem Group.wrS_frame (g : Group) (n : Byte) (v : DWord) : ∃ s y, g.wrS n v = { g with s := s, y := y } := by
  unfold Group.wrS
  repeat' split
  all_goals exact ⟨_, _, rfl⟩

/-- A mask register written changes only the mask registers. -/
theorem Group.wrK_frame (g : Group) (n : Nat) (m : Mask) : ∃ k, g.wrK n m = { g with k := k } := by
  unfold Group.wrK
  repeat' split
  all_goals exact ⟨_, rfl⟩

/-- A vector register written changes only the vector registers and the trap bank. -/
theorem Group.wrV_frame (g : Group) (n : Nat) (r : VReg) : ∃ v z f, g.wrV n r = { g with v := v, z := z, zFull := f } := by
  unfold Group.wrV Group.wrReg
  split
  all_goals exact ⟨_, _, _, rfl⟩

/-- An index register written is read back. -/
@[simp] theorem Group.rdX_wrX (g : Group) (n : Nat) (r : IndexReg) : (g.wrX n r).rdX n = r := by simp [Group.wrX, Group.rdX]

/-- A shape register written is read back. -/
@[simp] theorem Group.rdH_wrH (g : Group) (n : Nat) (r : Shape) : (g.wrH n r).rdH n = r := by simp [Group.wrH, Group.rdH]

/-- A translation register written is read back. -/
@[simp] theorem Group.rdT_wrT (g : Group) (n : Nat) (r : TransReg) : (g.wrT n r).rdT n = r := by simp [Group.wrT, Group.rdT]

/-- s0 reads zero (R229). -/
@[simp] theorem Group.rdS_zero (g : Group) : g.rdS 0 = 0 := rfl

/-- k0 reads all ones (R221). -/
@[simp] theorem Group.rdK_zero (g : Group) : g.rdK 0 = BitVec.allOnes 256 := rfl

/-- A write to s0 is discarded (R229). -/
@[simp] theorem Group.wrS_zero (g : Group) (v : DWord) : g.wrS 0 v = g := rfl

/-- A write to k0 is discarded (R275). -/
@[simp] theorem Group.wrK_zero (g : Group) (m : Mask) : g.wrK 0 m = g := rfl

/-! What was written is read back, and every other entry is as before. -/
@[simp] theorem State.group_setGroup (s : State) (gid : Nat) (g : Group) : (s.setGroup gid g).group? gid = some g := by
  simp [State.group?, State.setGroup]
@[simp] theorem State.group_setGroup_other (s : State) (gid j : Nat) (g : Group) (h : j ≠ gid) :
    (s.setGroup gid g).group? j = s.group? j := by simp [State.group?, State.setGroup, h]
@[simp] theorem State.group_modGroup (s : State) (gid : Nat) (f : Group → Group) :
    (s.modGroup gid f).group? gid = (s.group? gid).map f := by simp [State.group?, State.modGroup]
@[simp] theorem State.group_modGroup_other (s : State) (gid j : Nat) (f : Group → Group) (h : j ≠ gid) :
    (s.modGroup gid f).group? j = s.group? j := by simp [State.group?, State.modGroup, h]
@[simp] theorem State.core_modCore (s : State) (c : Nat) (f : Core → Core) : (s.modCore c f).core c = f (s.core c) := by
  simp [State.core, State.modCore]
@[simp] theorem State.core_modCore_other (s : State) (c j : Nat) (f : Core → Core) (h : j ≠ c) :
    (s.modCore c f).core j = s.core j := by simp [State.core, State.modCore, h]
@[simp] theorem State.bh_modBh (s : State) (b : Nat) (f : Bulkhead → Bulkhead) : (s.modBh b f).bh b = f (s.bh b) := by
  simp [State.bh, State.modBh]
@[simp] theorem State.bh_modBh_other (s : State) (b j : Nat) (f : Bulkhead → Bulkhead) (h : j ≠ b) :
    (s.modBh b f).bh j = s.bh j := by simp [State.bh, State.modBh, h]
@[simp] theorem State.ctx_modCtx (s : State) (a : Nat) (f : Ctx → Ctx) : (s.modCtx a f).ctx a = f (s.ctx a) := by
  simp [State.ctx, State.modCtx]
@[simp] theorem State.ctx_modCtx_other (s : State) (a j : Nat) (f : Ctx → Ctx) (h : j ≠ a) :
    (s.modCtx a f).ctx j = s.ctx j := by simp [State.ctx, State.modCtx, h]
@[simp] theorem State.inst_modInst (s : State) (a b : Nat) (f : CtxBh → CtxBh) : (s.modInst a b f).inst a b = f (s.inst a b) := by
  simp [State.inst, State.modInst]
@[simp] theorem State.team_modTeam (s : State) (t : Nat) (f : Team → Team) :
    (s.modTeam t f).team? t = (s.team? t).map f := by simp [State.team?, State.modTeam]
@[simp] theorem State.team_modTeam_other (s : State) (t j : Nat) (f : Team → Team) (h : j ≠ t) :
    (s.modTeam t f).team? j = s.team? j := by simp [State.team?, State.modTeam, h]
@[simp] theorem State.unit_modUnit (s : State) (c p : Nat) (f : MatUnit → MatUnit) : (s.modUnit c p f).unit c p = f (s.unit c p) := by
  simp [State.unit, State.modUnit]

end Sys2Proof.Machine
end

