-- ==== Sys2Proof/Laws/Ops.lean ====
section
/-! SUPPORT. What the shared operations of Ops.lean can do, said once: what an issued instruction answers, what retiring
and a trap change, and what a return from a trap leaves. -/

namespace Sys2Proof.Machine

/-- A current group is present, its current slot live, and it has not ended. -/
theorem State.current_eq {s : State} {g : Group} (h : s.current = some g) :
    s.group? s.cur = some g ∧ (g.pc s.curSlot).live = true ∧ g.ended = false := by
  unfold State.current at h
  split at h
  · split at h
    · rename_i g' h1 h2
      simp only [Option.some.injEq] at h
      subst h
      simp only [Bool.and_eq_true, Bool.not_eq_true'] at h2
      exact ⟨h1, h2.1, h2.2⟩
    · simp at h
  · simp at h

/-- No current group: the instruction stops (log 9). -/
theorem State.issueWith_none {s : State} {op : Byte} {words : Nat} {used : List Nat} {body : Group → State → Res}
    (h : s.current = none) : s.issueWith op words used body = .fault .noGroup := by
  simp [State.issueWith, h]

/-- A load is outstanding into a scalar register that is named: the slot waits (R256). -/
theorem State.issueWith_busy {s : State} {g : Group} {op : Byte} {words : Nat} {used : List Nat} {body : Group → State → Res}
    (h : s.current = some g) (hb : ∃ n ∈ used, n ∈ g.scalarBusy) :
    s.issueWith op words used body = .next (s.stalled s.cur .room) := by
  obtain ⟨n, h1, h2⟩ := hb
  have : (used.any fun n => g.scalarBusy.contains n) = true :=
    List.any_eq_true.2 ⟨n, h1, by simpa using h2⟩
  simp only [State.issueWith, h, this]
  rfl

/-- Otherwise the body runs. -/
theorem State.issueWith_run {s : State} {g : Group} {op : Byte} {words : Nat} {used : List Nat} {body : Group → State → Res}
    (h : s.current = some g) (hu : ∀ n ∈ used, n ∉ g.scalarBusy) :
    s.issueWith op words used body = .next (finish s.cur s.curSlot op words (body g s)) := by
  have : (used.any fun n => g.scalarBusy.contains n) = false := by
    simp only [List.any_eq_false, List.contains_iff_mem]
    exact fun n hn => by simp [hu n hn]
  simp only [State.issueWith, h, this]
  rfl

/-- An instruction that is issued with a current group answers a next state. -/
theorem State.issueWith_next {s : State} {g : Group} {op : Byte} {words : Nat} {used : List Nat} {body : Group → State → Res}
    (h : s.current = some g) : ∃ t, s.issueWith op words used body = .next t := by
  by_cases hb : ∃ n ∈ used, n ∈ g.scalarBusy
  · exact ⟨_, State.issueWith_busy h hb⟩
  · exact ⟨_, State.issueWith_run h fun n h1 h2 => hb ⟨n, h1, h2⟩⟩

/-- A body that changes only its group. -/
theorem groupBody_ok {f : Group → Except TrapInfo Group} {g g' : Group} {s : State} (h : f g = .ok g') :
    groupBody f g s = .ok (s.setGroup s.cur g') := by
  simp [groupBody, h]

/-- Nothing but the group, its bulkhead's leave and its team's count is touched by retiring: memory stays. -/
theorem State.retire_mem (s : State) (gid : Nat) (slot : Bool) (op : Byte) (n : Nat) :
    (s.retire gid slot op n).home = s.home ∧ (s.retire gid slot op n).hbm = s.hbm ∧
      (s.retire gid slot op n).nvme = s.nvme ∧ (s.retire gid slot op n).cores = s.cores := by
  unfold State.retire State.retired
  split <;> simp

/-- A stall touches only the group. -/
theorem State.stalled_frame (s : State) (gid : Nat) (w : Wait) :
    ∃ gs, s.stalled gid w = { s with groups := gs } := ⟨_, rfl⟩

/-- A wait for the plex touches only the group. -/
theorem State.plexWait_frame (s : State) (gid : Nat) (c : Cause) :
    ∃ gs, s.plexWait gid c = { s with groups := gs } := ⟨_, rfl⟩

/-- A trap that goes to the plex touches only the group. -/
theorem State.toPlex_frame (s : State) (gid : Nat) (slot : Bool) (t : TrapInfo) :
    ∃ gs, s.toPlex gid slot t = { s with groups := gs } := by
  unfold State.toPlex
  split <;> exact ⟨_, rfl⟩

/-- Entering a handler touches only the group and its outstanding loads into the trap bank. -/
theorem State.vectorTo_frame (s : State) (gid : Nat) (slot : Bool) (t : TrapInfo) (vec : DWord) :
    ∃ gs ps, s.vectorTo gid slot t vec = { s with groups := gs, pends := ps } := by
  unfold State.vectorTo
  split
  · exact ⟨_, _, rfl⟩
  · split
    · exact ⟨_, _, rfl⟩
    · obtain ⟨gs, h⟩ := s.toPlex_frame gid slot { t with cause := .trvecForm }
      exact ⟨gs, s.pends, h⟩

end Sys2Proof.Machine
end

