-- ==== Sys2Proof/Tests/Slice0.lean ====
section
/-! SUPPORT. Decode tests on words written out from R210 to R218 and the field tables, refusals of ill-formed instructions, small
tests of single steps, and a concrete state and operands that meet the hypotheses of each obligation. -/

namespace Sys2Proof.Tests

open Sys2Proof.Machine Sys2Proof.Claims

set_option maxRecDepth 20000
set_option Elab.async false

/-- Word 0 with every field zero. -/
def zW : Word0 := { b := 0, a := 0, d := 0 }

/-- An extended form of class A with every field zero. -/
def zA : ExtA := { d := 0, a := 0, b := 0, c := 0, mod := 0, ty := 0, rnd := 0, sat := 0, fe := 0, gn := 0, g := 0, w2 := 0 }

/-- An extended form of class E with every field zero. -/
def zE : ExtE := { d := 0, a := 0, b := 0, c := 0, sigx := 0, fe := 0, gn := 0, g := 0, w2 := 0 }

/-- An extended form of class M with every field zero. -/
def zM : ExtM :=
  { d := 0, a := 0, b := 0, c := 0, rq := 0, ord := 0, sys := 0, ty := 0, lo := 0, modm := 0, fe := 0, gn := 0, g := 0, w2 := 0 }

/-! ### Decoding -/

/-- The decoder reads the words as the instruction. -/
noncomputable def reads (x : List Word × Instr) : Bool :=
  match decode Mode.handler x.1 with
  | .ok i => decide (i = x.2)
  | .error _ => false

/-- The decoder refuses the words in a mode with a cause. -/
noncomputable def refuses (x : Mode × List Word × Cause) : Bool :=
  match decode x.1 x.2.1 with
  | .ok _ => false
  | .error c => c == x.2.2

/-- A piece of the table of words. -/
noncomputable def wordsOf0 : List (List Word × Instr) :=
  [([0], .trap0),
   ([0xFFFFFFFF], .ill 0xFFFFFFFF),
   ([0x4], .nop zW),
   ([0x5, 0, 0], .nopExt zA),
   ([0x9, 0, 0], .br zE),
   ([0xD, 0, 0], .bcEq zE),
   ([0x11, 0, 0], .bcNe zE),
   ([0x15, 0, 0], .bcLt zE),
   ([0x19, 0, 0], .bcGe zE),
   ([0x1D, 0, 0], .bcLtn zE),
   ([0x21, 0, 0], .bcGen zE),
   ([0x25, 0, 0], .bany zE),
   ([0x29, 0, 0], .ball zE),
   ([0x2D, 0, 0], .bnone zE),
   ([0x31, 0, 0], .bdiv zE),
   ([0x35, 0, 0], .join zE),
   ([0x39, 0, 0], .call zE),
   ([0x3B, 0, 0, 0, 0], .callAbsolute zE 0),
   ([0x3D, 0, 0], .ret zE),
   ([0x41, 0, 0], .jmp zE),
   ([0x43, 0, 0, 0, 0], .jmpAbsolute zE 0),
   ([0x45, 0, 0], .exit zE),
   ([0x48], .idem zW),
   ([0x49, 0, 0], .idemExt zA)]

/-- A piece of the table of words. -/
noncomputable def wordsOf1 : List (List Word × Instr) :=
  [([0x4C], .step zW),
   ([0x4D, 0, 0], .stepExt zA),
   ([0x51, 0, 0], .trap zE),
   ([0x55, 0, 0], .eret zE),
   ([0x59, 0, 0], .mfsys zA),
   ([0x5D, 0, 0], .mtsys zA),
   ([0x60], .yield zW),
   ([0x61, 0, 0], .yieldExt zA),
   ([0x64], .tmset zW),
   ([0x65, 0, 0], .tmsetExt zA),
   ([0x68], .rdcyc zW),
   ([0x69, 0, 0], .rdcycExt zA),
   ([0x6C], .detm zW),
   ([0x6D, 0, 0], .detmExt zA),
   ([0x71, 0, 0], .sigck zE),
   ([0x75, 0, 0], .ctxsw zA),
   ([0x79, 0, 0], .finj zA),
   ([0x7C], .brk zW),
   ([0x7D, 0, 0], .brkExt zA),
   ([0x80], .sadd zW),
   ([0x81, 0, 0], .saddExt zA),
   ([0x84], .ssub zW),
   ([0x85, 0, 0], .ssubExt zA),
   ([0x88], .smul zW)]

/-- A piece of the table of words. -/
noncomputable def wordsOf2 : List (List Word × Instr) :=
  [([0x89, 0, 0], .smulExt zA),
   ([0x8C], .smulh zW),
   ([0x8D, 0, 0], .smulhExt zA),
   ([0x90], .sand zW),
   ([0x91, 0, 0], .sandExt zA),
   ([0x94], .sor zW),
   ([0x95, 0, 0], .sorExt zA),
   ([0x98], .sxor zW),
   ([0x99, 0, 0], .sxorExt zA),
   ([0x9C], .sshl zW),
   ([0x9D, 0, 0], .sshlExt zA),
   ([0xA0], .sshr zW),
   ([0xA1, 0, 0], .sshrExt zA),
   ([0xA4], .ssra zW),
   ([0xA5, 0, 0], .ssraExt zA),
   ([0xA8], .smin zW),
   ([0xA9, 0, 0], .sminExt zA),
   ([0xAC], .smax zW),
   ([0xAD, 0, 0], .smaxExt zA),
   ([0xB0], .sminn zW),
   ([0xB1, 0, 0], .sminnExt zA),
   ([0xB4], .smaxn zW),
   ([0xB5, 0, 0], .smaxnExt zA),
   ([0xB8], .smov zW)]

/-- A piece of the table of words. -/
noncomputable def wordsOf3 : List (List Word × Instr) :=
  [([0xB9, 0, 0], .smovExt zA),
   ([0xBC], .sli zW),
   ([0xBD, 0x4000000, 0], .sliExt { zA with mod := 1 }),
   ([0xBE, 0, 0], .sliLiteral zW 0),
   ([0xC0], .sset zW),
   ([0xC1, 0, 0], .ssetExt zA),
   ([0xC4], .ssel zW),
   ([0xC5, 0, 0], .sselExt zA),
   ([0xC9, 0, 0], .sld zM),
   ([0xCD, 0, 0], .sst zM),
   ([0xD1, 0, 0], .xlat zM),
   ([0xD5, 0, 0], .shld zA),
   ([0xD9, 0, 0], .shset zA),
   ([0xDD, 0, 0], .shget zA),
   ([0xE0], .lsset zW),
   ([0xE1, 0, 0], .lssetExt zA),
   ([0xE4], .lsget zW),
   ([0xE5, 0, 0], .lsgetExt zA),
   ([0xE8], .ovfrd zW),
   ([0xE9, 0, 0], .ovfrdExt zA),
   ([0xEC], .kpop zW),
   ([0xED, 0, 0], .kpopExt zA),
   ([0xF0], .kffs zW),
   ([0xF1, 0, 0], .kffsExt zA)]

/-- A piece of the table of words. -/
noncomputable def wordsOf4 : List (List Word × Instr) :=
  [([0xF4], .vtos zW),
   ([0xF5, 0, 0], .vtosExt zA),
   ([0xF8], .stov zW),
   ([0xF9, 0, 0], .stovExt zA),
   ([0xFC], .sdiv zW),
   ([0xFD, 0, 0], .sdivExt zA),
   ([0x100], .vaddI32 zW),
   ([0x101, 0, 0], .vaddI32Ext zA),
   ([0x104], .vsubI32 zW),
   ([0x105, 0, 0], .vsubI32Ext zA),
   ([0x108], .vmulI32 zW),
   ([0x109, 0, 0], .vmulI32Ext zA),
   ([0x10C], .vmulhI32 zW),
   ([0x10D, 0, 0], .vmulhI32Ext zA),
   ([0x110], .vmadI32 zW),
   ([0x111, 0, 0], .vmadI32Ext zA),
   ([0x114], .vaddI64 zW),
   ([0x115, 0, 0], .vaddI64Ext zA),
   ([0x118], .vsubI64 zW),
   ([0x119, 0, 0], .vsubI64Ext zA),
   ([0x11C], .vmin zW),
   ([0x11D, 0, 0], .vminExt zA),
   ([0x120], .vmax zW),
   ([0x121, 0, 0], .vmaxExt zA)]

/-- A piece of the table of words. -/
noncomputable def wordsOf5 : List (List Word × Instr) :=
  [([0x124], .vabsI32 zW),
   ([0x125, 0, 0], .vabsI32Ext zA),
   ([0x128], .vand zW),
   ([0x129, 0, 0], .vandExt zA),
   ([0x12C], .vor zW),
   ([0x12D, 0, 0], .vorExt zA),
   ([0x130], .vxor zW),
   ([0x131, 0, 0], .vxorExt zA),
   ([0x134], .vandn zW),
   ([0x135, 0, 0], .vandnExt zA),
   ([0x138], .vshl zW),
   ([0x139, 0, 0], .vshlExt zA),
   ([0x13C], .vshr zW),
   ([0x13D, 0, 0], .vshrExt zA),
   ([0x140], .vsra zW),
   ([0x141, 0, 0], .vsraExt zA),
   ([0x144], .vrot zW),
   ([0x145, 0, 0], .vrotExt zA),
   ([0x148], .vbfe zW),
   ([0x149, 0, 0], .vbfeExt zA),
   ([0x14C], .vbfi zW),
   ([0x14D, 0, 0], .vbfiExt zA),
   ([0x150], .vpopc zW),
   ([0x151, 0, 0], .vpopcExt zA)]

/-- A piece of the table of words. -/
noncomputable def wordsOf6 : List (List Word × Instr) :=
  [([0x154], .vclz zW),
   ([0x155, 0, 0], .vclzExt zA),
   ([0x159, 0x1000000, 0], .vcmp { zA with ty := 4 }),
   ([0x15C], .vsel zW),
   ([0x15D, 0, 0], .vselExt zA),
   ([0x160], .vmov zW),
   ([0x161, 0, 0], .vmovExt zA),
   ([0x164], .vli zW),
   ([0x165, 0, 0], .vliExt zA),
   ([0x166, 0, 0], .vliLiteral zW 0),
   ([0x168], .vid zW),
   ([0x169, 0, 0], .vidExt zA),
   ([0x16C], .kand zW),
   ([0x16D, 0, 0], .kandExt zA),
   ([0x170], .kor zW),
   ([0x171, 0, 0], .korExt zA),
   ([0x174], .kxor zW),
   ([0x175, 0, 0], .kxorExt zA),
   ([0x178], .knot zW),
   ([0x179, 0, 0], .knotExt zA),
   ([0x17C], .kmov zW),
   ([0x17D, 0, 0], .kmovExt zA),
   ([0x17D, 0x4000000, 0], .kmovQ { zA with mod := 1 }),
   ([0x17D, 0x8000000, 0], .kmovAct { zA with mod := 2 })]

/-- A piece of the table of words. -/
noncomputable def wordsOf7 : List (List Word × Instr) :=
  [([0x180], .vmatch zW),
   ([0x181, 0, 0], .vmatchExt zA),
   ([0x184], .vmrank zW),
   ([0x185, 0, 0], .vmrankExt zA),
   ([0x188], .vbfly zW),
   ([0x189, 0x4000000, 0], .vbflyExt { zA with mod := 1 }),
   ([0x18C], .vshfl zW),
   ([0x18D, 0, 0], .vshflExt zA),
   ([0x190], .vbcast zW),
   ([0x191, 0x8000000, 0], .vbcastExt { zA with mod := 2 }),
   ([0x194], .vscan zW),
   ([0x195, 0, 0], .vscanExt zA),
   ([0x198], .vred zW),
   ([0x199, 0, 0], .vredExt zA),
   ([0x19C], .vsat zW),
   ([0x19D, 0, 0], .vsatExt zA),
   ([0x1A1, 0, 0], .vxld zA),
   ([0x1A5, 0, 0], .vxst zA),
   ([0x1A8], .xset zW),
   ([0x1A9, 0, 0], .xsetExt zA),
   ([0x1AD, 0, 0], .xwin false zA),
   ([0x1B0], .vdot4I8 zW),
   ([0x1B1, 0, 0], .vdot4I8Ext zA),
   ([0x1B4], .vmulw zW)]

/-- A piece of the table of words. -/
noncomputable def wordsOf8 : List (List Word × Instr) :=
  [([0x1B5, 0, 0], .vmulwExt zA),
   ([0x1B8], .vclamp zW),
   ([0x1B9, 0, 0], .vclampExt zA),
   ([0x1BC], .vhash zW),
   ([0x1BD, 0x8000000, 0], .vhashExt { zA with mod := 2 }),
   ([0x1C0], .vfaddF32 zW),
   ([0x1C1, 0, 0], .vfaddF32Ext zA),
   ([0x1C4], .vfsubF32 zW),
   ([0x1C5, 0, 0], .vfsubF32Ext zA),
   ([0x1C8], .vfmulF32 zW),
   ([0x1C9, 0, 0], .vfmulF32Ext zA),
   ([0x1CC], .vffmaF32 zW),
   ([0x1CD, 0, 0], .vffmaF32Ext zA),
   ([0x1D0], .vfaddF64 zW),
   ([0x1D1, 0, 0], .vfaddF64Ext zA),
   ([0x1D4], .vfmulF64 zW),
   ([0x1D5, 0, 0], .vfmulF64Ext zA),
   ([0x1D8], .vffmaF64 zW),
   ([0x1D9, 0, 0], .vffmaF64Ext zA),
   ([0x1DC], .vfaddF16x2 zW),
   ([0x1DD, 0, 0], .vfaddF16x2Ext zA),
   ([0x1E0], .vffmaF16x2 zW),
   ([0x1E1, 0, 0], .vffmaF16x2Ext zA),
   ([0x1E4], .vfaddB16x2 zW)]

/-- A piece of the table of words. -/
noncomputable def wordsOf9 : List (List Word × Instr) :=
  [([0x1E5, 0, 0], .vfaddB16x2Ext zA),
   ([0x1E8], .vffmaB16x2 zW),
   ([0x1E9, 0, 0], .vffmaB16x2Ext zA),
   ([0x1ED, 0x2800000, 0], .vfmin { zA with ty := 10 }),
   ([0x1F1, 0x2800000, 0], .vfmax { zA with ty := 10 }),
   ([0x1F5, 0x2800000, 0], .vfabs { zA with ty := 10 }),
   ([0x1F9, 0x2800000, 0], .vfneg { zA with ty := 10 }),
   ([0x1FD, 0x2800000, 0], .vfcmp { zA with ty := 10 }),
   ([0x200], .vfdivF32 zW),
   ([0x201, 0, 0], .vfdivF32Ext zA),
   ([0x204], .vfsqrtF32 zW),
   ([0x205, 0, 0], .vfsqrtF32Ext zA),
   ([0x209, 0x2800000, 0], .vfrcp { zA with ty := 10 }),
   ([0x20D, 0x2800000, 0], .vfrsqrt { zA with ty := 10 }),
   ([0x211, 0x2800000, 0], .vfexp2 { zA with ty := 10 }),
   ([0x215, 0x2800000, 0], .vflog2 { zA with ty := 10 }),
   ([0x219, 0x2800000, 0], .vfclass { zA with ty := 10 }),
   ([0x21D, 0x82800000, 0], .vcvtF { zA with ty := 10, mod := 32 }),
   ([0x221, 0xA1000000, 0], .vcvtFi { zA with ty := 4, mod := 40 }),
   ([0x225, 0x42800000, 0], .vcvtIf { zA with ty := 10, mod := 16 }),
   ([0x228], .vqblk zW),
   ([0x229, 0, 0], .vqblkExt zA),
   ([0x22C], .vdqblk zW),
   ([0x22D, 0, 0], .vdqblkExt zA)]

/-- A piece of the table of words. -/
noncomputable def wordsOf10 : List (List Word × Instr) :=
  [([0x231, 0x12800000, 0], .vhad { zA with ty := 10, mod := 4 }),
   ([0x234], .vtern zW),
   ([0x235, 0, 0], .vternExt zA),
   ([0x238], .vrand zW),
   ([0x239, 0, 0], .vrandExt zA),
   ([0x23C], .absrd zW),
   ([0x23D, 0, 0], .absrdExt zA),
   ([0x240], .absclr zW),
   ([0x241, 0, 0], .absclrExt zA),
   ([0x244], .absupd zW),
   ([0x245, 0, 0], .absupdExt zA),
   ([0x249, 0x2800000, 0], .vfscale { zA with ty := 10 }),
   ([0x24D, 0x2800000, 0], .vlscale { zA with ty := 10 }),
   ([0x251, 0x2800000, 0], .vfchk { zA with ty := 10 }),
   ([0x255, 0x2800000, 0], .vfsum { zA with ty := 10 }),
   ([0x258], .vfdot2F16 zW),
   ([0x259, 0, 0], .vfdot2F16Ext zA),
   ([0x25C], .vfdot2B16 zW),
   ([0x25D, 0, 0], .vfdot2B16Ext zA),
   ([0x261, 0x2000000, 0], .vfpack { zA with ty := 8 }),
   ([0x265, 0x2000000, 0], .vfunpk { zA with ty := 8 }),
   ([0x269, 0x2800000, 0], .vfrint { zA with ty := 10 }),
   ([0x26D, 0x2800000, 0], .vfcopysign { zA with ty := 10 }),
   ([0x271, 0x2800000, 0], .vfmaxabs { zA with ty := 10 })]

/-- A piece of the table of words. -/
noncomputable def wordsOf11 : List (List Word × Instr) :=
  [([0x275, 0x2800000, 0], .vnorm2 { zA with ty := 10 }),
   ([0x278], .vcvtE8 zW),
   ([0x279, 0, 0], .vcvtE8Ext zA),
   ([0x27C], .vcvtE4 zW),
   ([0x27D, 0, 0], .vcvtE4Ext zA),
   ([0x103, 0, 0, 0, 0], .vectorSweep 0x40 zA 0),
   ([0x281, 0, 0], .ld zM),
   ([0x285, 0, 0], .st zM),
   ([0x28B, 0, 0, 0, 0], .ldsw zM 0),
   ([0x28F, 0, 0, 0, 0], .stsw zM 0),
   ([0x291, 0x200000, 0], .gather { zM with lo := 1 }),
   ([0x295, 0x200000, 0], .scatter { zM with lo := 1 }),
   ([0x299, 0, 0], .lds zM),
   ([0x29D, 0, 0], .sts zM),
   ([0x2A1, 0, 0], .ldc zM),
   ([0x2A5, 0, 0], .stc zM),
   ([0x2A9, 0, 0], .ldp zM),
   ([0x2AD, 0, 0], .stp zM),
   ([0x2B1, 0, 0], .pref zM),
   ([0x2B5, 0, 0], .l2pin zM),
   ([0x2B9, 0, 0], .l2unpin zM),
   ([0x2BD, 0, 0], .discard zM),
   ([0x2C1, 0, 0], .wback zM),
   ([0x2C5, 0, 0], .objdecl zM)]

/-- A piece of the table of words. -/
noncomputable def wordsOf12 : List (List Word × Instr) :=
  [([0x2C9, 0, 0], .objset zM),
   ([0x2CD, 0, 0], .objrel zM),
   ([0x2D0], .fence zW),
   ([0x2D1, 0, 0], .fenceExt zM),
   ([0x2D4], .acq zW),
   ([0x2D5, 0, 0], .acqExt zM),
   ([0x2D8], .rel zW),
   ([0x2D9, 0, 0], .relExt zM),
   ([0x2DD, 0, 0], .ldsc zM),
   ([0x2E1, 0, 0], .stsc zM),
   ([0x2E5, 0, 0], .stmc zM),
   ([0x2E9, 0, 0], .ldx zM),
   ([0x2ED, 0, 0], .stx zM),
   ([0x2F1, 0, 0], .winmap zM),
   ([0x2F5, 0, 0], .winsyncWb zM),
   ([0x2F5, 0x40000, 0], .winsyncFill { zM with modm := 1 }),
   ([0x2F5, 0x80000, 0], .winsyncClose { zM with modm := 2 }),
   ([0x2F9, 0, 0], .tlbinv zM),
   ([0x2FD, 0, 0], .xlatq zM),
   ([0x301, 0, 0], .ataddI32 zM),
   ([0x305, 0, 0], .ataddI64 zM),
   ([0x309, 0, 0], .ataddfF32 zM),
   ([0x30D, 0x1000000, 0], .atmin { zM with ty := 4 }),
   ([0x311, 0x1000000, 0], .atmax { zM with ty := 4 })]

/-- A piece of the table of words. -/
noncomputable def wordsOf13 : List (List Word × Instr) :=
  [([0x315, 0x1000000, 0], .atand { zM with ty := 4 }),
   ([0x319, 0x1000000, 0], .ator { zM with ty := 4 }),
   ([0x31D, 0x1000000, 0], .atxor { zM with ty := 4 }),
   ([0x321, 0x1000000, 0], .atxchg { zM with ty := 4 }),
   ([0x325, 0, 0], .atcasI32 zM),
   ([0x329, 0, 0], .atcasI64 zM),
   ([0x32D, 0x1400000, 0], .atinc { zM with ty := 5 }),
   ([0x331, 0x1400000, 0], .atdec { zM with ty := 5 }),
   ([0x335, 0x1000000, 0], .ataddsc { zM with ty := 4 }),
   ([0x339, 0x1000000, 0], .atcassc { zM with ty := 4 }),
   ([0x33D, 0x1000000, 0], .atwait { zM with ty := 4 }),
   ([0x341, 0, 0], .mwld zA),
   ([0x345, 0, 0], .mmac zA),
   ([0x349, 0, 0], .mtri zA),
   ([0x800034D, 0, 0], .mlut { zA with b := 2 }),
   ([0x8000351, 0, 0], .mtern { zA with b := 2 }),
   ([0x355, 0, 0], .mzero zA),
   ([0x359, 0x2800000, 0], .mrd { zA with ty := 10 }),
   ([0x35D, 0x2800000, 0], .mwr { zA with ty := 10 }),
   ([0x361, 0, 0], .mver zA),
   ([0x361, 0x4000000, 0], .mverSet { zA with mod := 1 }),
   ([0x365, 0, 0], .mscale zA),
   ([0x369, 0, 0], .mstream zA),
   ([0x36D, 0, 0], .mwrel zA)]

/-- A piece of the table of words. -/
noncomputable def wordsOf14 : List (List Word × Instr) :=
  [([0x371, 0, 0], .spbind zA),
   ([0x375, 0, 0], .spunbind zA),
   ([0x379, 0, 0], .spsettle zA),
   ([0x37D, 0, 0], .spquery zA),
   ([0x381, 0, 0], .sprefresh zA),
   ([0x385, 0, 0], .sppause zA),
   ([0x389, 0, 0], .spresume zA),
   ([0x38D, 0, 0], .spsnap zA),
   ([0x391, 0, 0], .mbar zA),
   ([0x40395, 0, 0], .maccadd { zA with a := 1 }),
   ([0x399, 0, 0], .mpeek zA),
   ([0x39D, 0, 0], .mfmt zA),
   ([0x3A0], .bar zW),
   ([0x3A1, 0, 0], .barExt zA),
   ([0x3A4], .barar zW),
   ([0x3A5, 0, 0], .bararExt zA),
   ([0x3A8], .barwt zW),
   ([0x3A9, 0, 0], .barwtExt zA),
   ([0x3AD, 0, 0], .cwait zA),
   ([0x3B0], .ecwait zW),
   ([0x3B1, 0, 0], .ecwaitExt zA),
   ([0x3B5, 0, 0x1], .kick { zA with w2 := 1 }),
   ([0x3B9, 0, 0], .coll zA),
   ([0x3BD, 0, 0], .amsg zA)]

/-- A piece of the table of words. -/
noncomputable def wordsOf15 : List (List Word × Instr) :=
  [([0x3C1, 0, 0], .amreply zA),
   ([0x3C5, 0, 0], .tender zA),
   ([0x3C9, 0, 0], .bidld zA),
   ([0x3CD, 0, 0], .tquery zA),
   ([0x3D1, 0, 0], .launch zA),
   ([0x3D1, 0x4000000, 0], .launchFab { zA with mod := 1 }),
   ([0x3D5, 0, 0], .leave zA),
   ([0x3D5, 0x4000000, 0], .leaveQ { zA with mod := 1 }),
   ([0x3D9, 0, 0], .evpost zA),
   ([0x13DD, 0, 0], .evget { zA with d := 4 }),
   ([0x3E1, 0, 0], .qwait zA),
   ([0x3E5, 0, 0], .qsig zA),
   ([0x3E9, 0, 0], .gangsync zA),
   ([0x3ED, 0, 0], .replay zA),
   ([0x3F1, 0, 0], .digest zA),
   ([0x3F4], .park zW),
   ([0x3F5, 0, 0], .parkExt zA),
   ([0x3F9, 0, 0], .cutq zA)]

theorem test_decode_0 : wordsOf0.all reads = true := by decide +kernel
theorem test_decode_1 : wordsOf1.all reads = true := by decide +kernel
theorem test_decode_2 : wordsOf2.all reads = true := by decide +kernel
theorem test_decode_3 : wordsOf3.all reads = true := by decide +kernel
theorem test_decode_4 : wordsOf4.all reads = true := by decide +kernel
theorem test_decode_5 : wordsOf5.all reads = true := by decide +kernel
theorem test_decode_6 : wordsOf6.all reads = true := by decide +kernel
theorem test_decode_7 : wordsOf7.all reads = true := by decide +kernel
theorem test_decode_8 : wordsOf8.all reads = true := by decide +kernel
theorem test_decode_9 : wordsOf9.all reads = true := by decide +kernel
theorem test_decode_10 : wordsOf10.all reads = true := by decide +kernel
theorem test_decode_11 : wordsOf11.all reads = true := by decide +kernel
theorem test_decode_12 : wordsOf12.all reads = true := by decide +kernel
theorem test_decode_13 : wordsOf13.all reads = true := by decide +kernel
theorem test_decode_14 : wordsOf14.all reads = true := by decide +kernel
theorem test_decode_15 : wordsOf15.all reads = true := by decide +kernel

/-- Words with every kind of field in use, written out bit by bit from the encodings, one or more for each family. -/
noncomputable def fieldWords : List (List Word × Instr) :=
  [([0x00000009, 0x71640000, 0x00FFFFF9], .br { zE with sigx := 0x1C59, w2 := 0x00FFFFF9 }),
   ([0x00000045, 0x50D80000, 0], .exit { zE with sigx := 0x1436 }),
   ([0x0000006D, 0, 1], .detmExt { zA with w2 := 1 }), ([0x00003068], .rdcyc { zW with d := 12 }),
   ([0x003C4475, 0, 0], .ctxsw { zA with d := 17, a := 15 }),
   ([0x00100C81, 0x04000000, 0x64], .saddExt { zA with d := 3, a := 4, mod := 1, w2 := 100 }),
   ([0x3018149C], .sshl { b := 12, a := 6, d := 5 }),
   ([0x002C38C1, 0x04000000, 5], .ssetExt { zA with d := 14, a := 11, mod := 1, w2 := 5 }),
   ([0x00082CC9, 0x01400000, 4], .sld { zM with d := 11, a := 2, ty := 5, w2 := 4 }),
   ([0x00082CCD, 0x01400000, 4], .sst { zM with d := 11, a := 2, ty := 5, w2 := 4 }),
   ([0x1C000559, 0x29000000, 0], .vcmp { zA with d := 1, a := 0, b := 7, mod := 10, ty := 4 }),
   ([0x00081949, 0x04000000, 0x808], .vbfeExt { zA with d := 6, a := 2, mod := 1, w2 := 0x808 }),
   ([0x00202595, 0x41400000, 0], .vscanExt { zA with d := 9, a := 8, mod := 16, ty := 5 }),
   ([0x0C24298D, 0x00000400, 0], .vshflExt { zA with d := 10, a := 9, b := 3, g := 1 }),
   ([0x10002103, 0, 4, 0x00400004, 0x400], .vectorSweep 0x40 { zA with d := 8, b := 4, w2 := 4 } 0x40000400004),
   ([0x04102281, 0x09200000, 0x10], .ld { zM with d := 8, a := 4, b := 1, ord := 1, ty := 4, lo := 1, w2 := 0x10 }),
   ([0x06082281, 0x09211400, 0x10], .ld { zM with d := 8, a := 130, b := 1, ord := 1, ty := 4, lo := 1, fe := 2, g := 5, w2 := 0x10 }),
   ([0x00180E85, 0x11000000, 0], .st { zM with d := 3, a := 6, ord := 2, ty := 4 }),
   ([0x0C001A9D, 0x01600800, 0], .sts { zM with d := 6, a := 0, b := 3, ty := 5, lo := 1, g := 2 }),
   ([0x000C0AE1, 0x02000400, 0], .stsc { zM with d := 2, a := 3, ty := 8, g := 1 }),
   ([0x00200F25, 0x28000000, 0], .atcasI32 { zM with d := 3, a := 8, rq := 1, ord := 1 }),
   ([0x0410428B, 0x02A00000, 0x2002, 0x40000010, 0], .ldsw { zM with d := 16, a := 4, b := 1, ty := 10, lo := 1, w2 := 0x2002 } 0x40000010),
   ([0x00040F45, 0x14, 7], .mmac { zA with d := 3, a := 1, c := 5, w2 := 7 }),
   ([0x00082771, 0, 0], .spbind { zA with d := 9, a := 2 }),
   ([0x000003A1, 0, 3], .barExt { zA with w2 := 3 }), ([0x001003B5, 0, 2], .kick { zA with a := 4, w2 := 2 }),
   ([0x141027C5, 0, 7], .tender { zA with d := 9, a := 4, b := 5, w2 := 7 }),
   ([0x000803C9, 0, 7], .bidld { zA with a := 2, w2 := 7 })]

theorem test_fields : fieldWords.all reads = true := by decide +kernel

/-- Words that a check of R228 refuses: an opcode with no instruction, the opcode that never executes in a longer form, a
length that the opcode lacks, a register field out of range, a pair at an odd number, a reserved selector, TY, RND, MOD, FE,
ORD and MODM, an immediate out of range, an offset with its high byte set, a guard where none is taken, a sweep step that
is not a multiple of 4, a literal target that is not canonical, an unknown system register, and privilege. -/
noncomputable def badWords : List (Mode × List Word × Cause) :=
  let h := Mode.handler
  let u : Mode := { hnd := false, sup := false }
  [(h, [0x00000003], .illegalInstr), (h, [0x00000044], .illegalForm), (h, [0x00014880], .illegalForm),
   (u, [0x00010080], .illegalForm), (h, [0x00000515, 0, 0], .illegalForm), (h, [0x00000101, 0x0C000000, 0], .illegalForm),
   (h, [0x00000159, 0, 0], .illegalForm), (h, [0x00000101, 0x00380000, 0], .illegalForm),
   (h, [0x00000081, 0x08000000, 0], .illegalForm), (h, [0x00000081, 0x00020000, 0], .illegalForm),
   (h, [0x00000281, 0x11000000, 0], .illegalForm), (h, [0x00000281, 0x01040000, 0], .illegalForm),
   (h, [0x000003A1, 0, 16], .illegalForm), (h, [0x00000009, 0, 0x01000000], .illegalForm),
   (h, [0x00000081, 0x00000400, 0], .illegalForm), (h, [0x00000103, 0, 1, 2, 0], .illegalForm),
   (h, [0x0000003B, 0, 0, 0, 0x00800000], .illegalForm), (h, [0x00000059, 0, 0x004], .illegalForm),
   (u, [0x00000055, 0, 0], .privilege), (u, [0x003C4475, 0, 0], .privilege)]

theorem test_refused : badWords.all refuses = true := by decide +kernel

/-! ### Ill-formed terms -/

/-- Terms that are not well formed: a register field, a number, an immediate, a selector, a form field, a guard, a literal, an
opcode that no sweep has, a word that is an instruction, privilege, and the numbers of device steps. -/
noncomputable def illFormed : List (Mode × Instr) :=
  let h := Mode.handler
  let u : Mode := { hnd := false, sup := false }
  [(h, .sadd { zW with d := 72 }), (u, .sadd { zW with d := 64 }), (h, .kand { zW with a := 16 }), (h, .vaddI64 { zW with d := 1 }),
   (h, .evget zA), (h, .brkExt { zA with mod := 1 }), (h, .barExt { zA with w2 := 16 }), (h, .br { zE with w2 := 0x01000000 }),
   (h, .vaddI32Ext { zA with mod := 3 }), (h, .vaddI32Ext { zA with rnd := 7 }), (h, .saddExt { zA with g := 1 }),
   (h, .saddExt { zA with fe := 1 }), (h, .vcmp { zA with ty := 0 }), (h, .ld { zM with ord := 2 }), (h, .st { zM with ord := 1 }),
   (h, .gather { zM with lo := 0 }), (h, .callAbsolute zE 2), (h, .jmpAbsolute zE 0x0080000000000000),
   (h, .vectorSweep 0x56 zA 0), (h, .vectorSweep 0x40 zA 1), (h, .ldsw { zM with w2 := 0x6000 } 0), (h, .ill 1),
   (h, .kmovQ { zA with mod := 0 }), (u, .eret zE), (u, .bidld zA), (h, .mfsys { zA with w2 := 4 }),
   (h, .bulkheadReset 8 0), (h, .taskStart 192), (h, .groupEnd 24576), (h, .tntShapeWrite 8 0), (h, .l2Wbcmd 0 2 0),
   (h, .portUp 16), (h, .fabricLaunchPacket 0 []), (h, .matrixOpStart 0 4), (h, .ctxEvqWrite 0 65536 0)]

theorem test_ill_formed : (illFormed.all fun x => !x.2.wellFormed x.1) = true := by decide +kernel

theorem test_well_formed : (fieldWords.all fun x => x.2.wellFormed Mode.handler) = true := by decide +kernel

/-! ### Small states -/

/-- A lane mask with lanes 0 and 1. -/
def two : Mask := 3

/-- A group at its start in slot 0 of core 0, with lanes 0 and 1 in its slot, s1 = 1, s2 the address of a mapped page, s3 all
ones, s4 = 2^33, k1 with no lane and k2 with lane 0. -/
def tG : Group :=
  let g := Group.start 0 0 0 false 256 0 0x10000 1
  { g with
    s := (((g.s.set 1 1).set 2 0x10000).set 3 0xFFFFFFFFFFFFFFFF).set 4 0x200000000
    k := g.k.set 2 1, slot0 := { g.slot0 with mask := two } }

/-- The same group in handler mode. -/
def tH : Group := { tG with hnd := true }

/-- A team of the group alone, with 8 accumulator tiles and 64 KiB of scratchpad, that holds every class of leave. -/
def tT : Team :=
  { kind := .grid, grid := 0, gang := 0, asid := 0, bh := 0, cores := [0], ran := [0], index := 0, gteam := 0, groups := 1, acct := 8
    spad := 65536, spadBases := [0], barriers := Vector.replicate 16 { episode := 0, arrived := [] }
    gangSync := { episode := 0, arrived := [] }, mbarArrived := [], windows := [], held := [1, 2, 3, 4], asked := [], detm := false
    turnGroup := 0, retired := 0, exited := false, tiles := [] }

/-- A cached translation of a page to a frame of bulkhead 0: readable, writable, executable, accessed and dirty. -/
def tLeaf (page frame : Nat) (sup : Bool) : TlbEntry :=
  { asid := 0, level := 0, vpn := page
    entry := BitVec.ofNat 64 (0xDC18000000000000 + frame + if sup then 2 ^ 57 else 0), addr := 0 }

/-- Page tables from 0x40000 that map page 1 to frame 1 (R50 to R53). -/
def tTables : Memory :=
  [(0x40000, 0x21), (0x40007, 0x80), (0x42000, 0x22), (0x42007, 0x80), (0x44000, 0x23), (0x44007, 0x80), (0x46008, 1), (0x4600E, 0x18),
    (0x4600F, 0xDC)]

/-- The device with a group as group 0, whose context has translation on, a handler in page 2 and page 1 mapped. -/
def tS (g : Group) : State :=
  { State.reset with
    groups := [(0, g)]
    teams := [(0, tT)]
    home := tTables
    ctxs := [(0, { Ctx.reset with ptRoot := 0x40001, trVec := 0x8000000000020000 })]
    cores := [(0, { Core.reset with switchedIn := some 0, resident := [0] })]
    caches := [(0, { leaves := [tLeaf 1 1 false, tLeaf 2 2 true], tables := [] })] }

/-- A group that is current issues whatever scalar registers its instruction names. -/
theorem test_ready (used : List Nat) : ready (tS tG) tG used := ⟨rfl, fun _ _ h => nomatch h⟩

theorem test_ready_handler (used : List Nat) : ready (tS tH) tH used := ⟨rfl, fun _ _ h => nomatch h⟩

/-! ### Single steps -/

/-- The group 0 of what a step answers, by a test on it. -/
noncomputable def after (r : Out) (p : State → Group → Bool) : Bool :=
  match r with
  | .next t => match t.group? 0 with
    | some g => p t g
    | none => false
  | _ => false

/-- The step that runs an instruction from reset (log 6), by a test on the group that it leaves. -/
noncomputable def ran (nbits w : Nat) (p : State → Group → Bool) : Bool := after (step (State.reset.withFetchWord nbits w)) p

/-- `nop` from reset: the PC passes one word (R210, R226). -/
theorem test_step_nop : ran 32 0x4 (fun _ g => g.slot0.pc == 0x10004 && g.hnd) = true := by decide +kernel

/-- `sli s3, -2` from reset: the immediate is sign-extended (R255). -/
theorem test_step_sli : ran 32 0xF8000CBC (fun _ g => g.rdS 3 == 0xFFFFFFFFFFFFFFFE && g.slot0.pc == 0x10004) = true := by
  decide +kernel

/-- The zero word is never executed: from reset, in handler mode, it goes to the plex as HANDLER_NEST (R227, R390). -/
theorem test_step_zero_word : ran 32 0 (fun _ g => g.wait == .plex .handlerNest && g.slot0.pc == 0x10000) = true := by
  decide +kernel

/-- A literal form passes three words (R217). -/
theorem test_step_literal : ran 96 0x0000000A00000005000004BE (fun _ g =>
    g.rdS 1 == 0xA00000005 && g.slot0.pc == 0x1000C) = true := by decide +kernel

/-- 2^63 - 1 + 1 wraps without `.sat` (R253). -/
theorem test_sadd_wraps : after (exec (.sadd { b := 1, a := 5, d := 6 })
    (tS { tG with s := tG.s.set 5 0x7FFFFFFFFFFFFFFF })) (fun _ g => g.rdS 6 == 0x8000000000000000 && g.ovf == 0) = true := by
  decide +kernel

/-- And clamps with it, setting OVF.SAT, bit 5 (R186, R187). -/
theorem test_sadd_sat : after (exec (.saddExt { zA with b := 1, a := 5, d := 6, sat := 1 })
    (tS { tG with s := tG.s.set 5 0x7FFFFFFFFFFFFFFF })) (fun _ g => g.rdS 6 == 0x7FFFFFFFFFFFFFFF && g.ovf == 0x20) = true := by
  decide +kernel

/-- A division by zero gives all ones, and the least number divided by -1 itself (R254). -/
theorem test_sdiv_zero : after (exec (.sdiv { b := 0, a := 1, d := 6 }) (tS tG)) (fun _ g => g.rdS 6 == 0xFFFFFFFFFFFFFFFF) = true := by
  decide +kernel

theorem test_sdiv_least : after (exec (.sdiv { b := 3, a := 5, d := 6 })
    (tS { tG with s := tG.s.set 5 0x8000000000000000 })) (fun _ g => g.rdS 6 == 0x8000000000000000) = true := by
  decide +kernel

/-- A write to s0 is discarded (R229). -/
theorem test_write_s0 : after (exec (.sadd { b := 1, a := 1, d := 0 }) (tS tG)) (fun _ g => g.rdS 0 == 0) = true := by
  decide +kernel

/-- `sshl` by the whole width takes the amount modulo 64 (R253). -/
theorem test_sshl_wide : after (exec (.sshlExt { zA with mod := 1, a := 1, d := 6, w2 := 64 }) (tS tG)) (fun _ g => g.rdS 6 == 1) = true := by
  decide +kernel

/-- `vid` writes the lane numbers of the slot's lanes, and no other lane (R279, R266). -/
theorem test_vid : after (exec (.vid { zW with d := 7 }) (tS tG)) (fun _ g =>
    g.lane32 7 1 == 1 && g.lane32 7 2 == 0 && g.slot0.pc == 0x10004) = true := by decide +kernel

/-- `vli` sign-extends its immediate (R274). -/
theorem test_vli : after (exec (.vli { b := 0x3F, a := 0, d := 7 }) (tS tG)) (fun _ g =>
    g.lane32 7 0 == 0xFFFFFFFF && g.lane32 7 2 == 0) = true := by decide +kernel

/-- `kmov.act` writes the slot's mask (R277). -/
theorem test_kmov_act : after (exec (.kmovAct { zA with d := 3, mod := 2 }) (tS tG)) (fun _ g => g.rdK 3 == 3) = true := by
  decide +kernel

/-- An H cause outside handler mode enters the handler that CTX_TRVEC names, with the instruction's PC saved (R388, R389). -/
theorem test_trap_entry : after (exec (.trap { zE with sigx := ((tG.slot0.feed 0x14).sig.extractLsb' 0 14), w2 := 7 }) (tS tG)) (fun _ g =>
    g.hnd && g.slot0.pc == 0x20000 && g.y[1] == 0x10000 && g.y[2] == 7 && g.y[4] == 0x1000C && g.slot0.sig == 0xFFFFFFFF) = true := by
  decide +kernel

/-- A load of a page whose entry is invalid goes to the plex as PAGE_ABSENT (R54, R69). -/
theorem test_load_unmapped : after (exec (.sld { zM with d := 6, a := 0, ty := 4, w2 := 0x50000 }) (tS tG)) (fun _ g =>
    g.wait == .plex .pageAbsent && g.slot0.pc == 0x10000) = true := by decide +kernel

/-- No current group: there is nothing to issue an instruction (log 9). -/
theorem test_no_group : exec (.nop zW) State.reset = .fault .noGroup := rfl

/-! ### States that meet the hypotheses of the obligations -/

/-- The form of a signature-checked instruction whose SIGX passes in the group's slot 0. -/
def sg (g : Group) (op : Byte) (f : ExtE) : ExtE := { f with sigx := (g.slot0.feed op).sig.extractLsb' 0 14 }

theorem test_witness_Scalar_results : ∃ (s : State) (g : Group) (f : ExtA), f.sat = 1 ∧ ready s g (namedA 0x20 f) ∧
    ready s g (namedA 0x21 f) ∧ ∀ r ∈ scalarRows, ready s g (namedA r.op zA) ∧ zA.sat = 0 ∧ ready s g (namedC r.op zW) :=
  ⟨tS tG, tG, { zA with sat := 1 }, rfl, test_ready _, test_ready _, fun _ _ => ⟨test_ready _, rfl, test_ready _⟩⟩

/-- A form with fields for a vector opcode: an immediate 0 where B is a selector, and a type that it takes. -/
def vecForm (op : Byte) : ExtA :=
  if inRanges [(0x7B, 0x7F), (0x82, 0x86), (0x92, 0x95), (0x9A, 0x9D)] op.toNat then { zA with ty := 10 }
  else if op == 0x87 || op == 0x89 then { zA with ty := 10, mod := 0x20 }
  else if op == 0x88 then { zA with ty := 4, mod := 0x28 }
  else if op == 0x8C then { zA with ty := 10, mod := 4 }
  else if op == 0x56 then { zA with ty := 4 }
  else if op == 0x98 || op == 0x99 then { zA with ty := 8 }
  else { zA with mod := if op == 0x6F || op == 0x64 then 2 else if inRanges [(0x40, 0x57), (0x62, 0x62)] op.toNat then 1 else 0 }

/-- The form meets the hypotheses of a row. -/
def rowMet (r : VectorRow) : Bool :=
  let f := vecForm r.op
  let q := reqA r.op.toNat f
  (tG.vecCheck [(kindRegs q.a f.a, f.fe.getLsbD 2), (kindRegs q.b f.b, f.fe.getLsbD 1), (kindRegs q.c f.c, f.fe.getLsbD 0)]
    (kindRegs q.d f.d) == Ready.go) && r.ok ((tS tG).venv tG q f)

theorem test_witness_Integer_lanes : (∀ r ∈ integerRows, ready (tS tG) tG (namedA r.op (vecForm r.op))) ∧ integerRows.all rowMet = true :=
  ⟨fun _ _ => test_ready _, by decide +kernel⟩

theorem test_witness_Crossing_lanes : (∀ r ∈ crossingRows, ready (tS tG) tG (namedA r.op (vecForm r.op))) ∧ crossingRows.all rowMet = true :=
  ⟨fun _ _ => test_ready _, by decide +kernel⟩

theorem test_witness_Float_lanes : (∀ r ∈ floatRows, ready (tS tG) tG (namedA r.op (vecForm r.op))) ∧ floatRows.all rowMet = true :=
  ⟨fun _ _ => test_ready _, by decide +kernel⟩

theorem test_witness_Vcmp_mask : ∃ (s : State) (g : Group) (f : ExtA), ready s g (namedA 0x56 f) ∧ vectorReady 0x56 g f ∧
    f.mod.toNat / 4 ≤ 5 ∧ f.ty = 4 ∧ f.d ≠ 0 ∧ f.d.toNat < 16 :=
  ⟨tS tG, tG, { zA with mod := 20, ty := 4, d := 15 }, test_ready _, by unfold vectorReady; decide +kernel, by decide, rfl,
    by decide, by decide⟩

/-- The target of a form with offset 0 from the slot's PC is a good one. -/
theorem target_ok : goodTarget (offsetFrom (pcOf (tS tG) tG) 0) := by unfold goodTarget; decide +kernel

theorem test_witness_Branches : ∀ r ∈ branchRows, ∃ f1 f2 : ExtE, ready (tS tG) tG (r.used f1) ∧ sigPasses (tS tG) tG r.op f1 ∧
    r.taken (tG.pc (tS tG).curSlot).mask tG f1 = true ∧ goodTarget (offsetFrom (pcOf (tS tG) tG) f1.w2) ∧
    ready (tS tG) tG (r.used f2) ∧ sigPasses (tS tG) tG r.op f2 ∧
    (r.op ≠ 2 → r.taken (tG.pc (tS tG).curSlot).mask tG f2 = false) := by
  have e1 : branchRows.all (fun r => [sg tG r.op zE, sg tG r.op { zE with a := 1 }, sg tG r.op { zE with b := 1 }].any fun f =>
      r.taken (tG.pc (tS tG).curSlot).mask tG f) = true := by decide +kernel
  have e2 : branchRows.all (fun r => r.op == 2 || [sg tG r.op zE, sg tG r.op { zE with a := 1 }, sg tG r.op { zE with b := 1 }].any fun f =>
      !r.taken (tG.pc (tS tG).curSlot).mask tG f) = true := by decide +kernel
  intro r hr
  obtain ⟨f1, m1, t1⟩ := List.any_eq_true.1 (List.all_eq_true.1 e1 r hr)
  have w1 : f1.w2 = 0 ∧ sigPasses (tS tG) tG r.op f1 := by
    simp only [List.mem_cons, List.not_mem_nil, or_false] at m1
    obtain rfl | rfl | rfl := m1 <;> exact ⟨rfl, rfl⟩
  have g1 : goodTarget (offsetFrom (pcOf (tS tG) tG) f1.w2) := w1.1 ▸ target_ok
  by_cases h : r.op = 2
  · exact ⟨f1, f1, test_ready _, w1.2, t1, g1, test_ready _, w1.2, fun x => absurd h x⟩
  · have h2 := List.all_eq_true.1 e2 r hr
    rw [Bool.or_eq_true, or_iff_right (by simpa using h)] at h2
    obtain ⟨f2, m2, t2⟩ := List.any_eq_true.1 h2
    have w2 : sigPasses (tS tG) tG r.op f2 := by
      simp only [List.mem_cons, List.not_mem_nil, or_false] at m2
      obtain rfl | rfl | rfl := m2 <;> rfl
    exact ⟨f1, f2, test_ready _, w1.2, t1, g1, test_ready _, w2, fun _ => by simpa using t2⟩

/-- Every branch is taken in some form whose target lies outside the global window. -/
theorem test_taken_far : ∀ r ∈ branchRows, ∃ f : ExtE, sigPasses (tS tG) tG r.op f ∧
    r.taken (tG.pc (tS tG).curSlot).mask tG f = true ∧ ¬ goodTarget (offsetFrom (pcOf (tS tG) tG) f.w2) := by
  have far : ¬ goodTarget (offsetFrom (pcOf (tS tG) tG) 0x800000) := by unfold goodTarget; decide +kernel
  have e : branchRows.all (fun r => [sg tG r.op { zE with w2 := 0x800000 }, sg tG r.op { zE with a := 1, w2 := 0x800000 },
      sg tG r.op { zE with b := 1, w2 := 0x800000 }].any fun f => r.taken (tG.pc (tS tG).curSlot).mask tG f) = true := by decide +kernel
  intro r hr
  obtain ⟨f, m, t⟩ := List.any_eq_true.1 (List.all_eq_true.1 e r hr)
  simp only [List.mem_cons, List.not_mem_nil, or_false] at m
  obtain rfl | rfl | rfl := m
  · exact ⟨sg tG r.op { zE with w2 := 0x800000 }, rfl, t, far⟩
  · exact ⟨sg tG r.op { zE with a := 1, w2 := 0x800000 }, rfl, t, far⟩
  · exact ⟨sg tG r.op { zE with b := 1, w2 := 0x800000 }, rfl, t, far⟩

theorem test_witness_Calls_and_failures : ∃ (s : State) (g : Group) (f : ExtE) (lit : DWord) (f2 f3 f4 : ExtE),
    (ready s g [f.d.toNat] ∧ sigPasses s g 0x0E f ∧ goodTarget (offsetFrom (pcOf s g) f.w2) ∧ goodTarget lit) ∧
    (ready s g [f2.a.toNat] ∧ sigPasses s g 0x0F f2 ∧ goodTarget (g.rdS f2.a)) ∧
    (ready s g [f3.a.toNat] ∧ sigPasses s g 0x10 f3 ∧ goodTarget (offsetFrom (g.rdS f3.a) f3.w2)) ∧
    (∀ op ∈ (branchRows.map fun r => r.op) ++ [0x0C, 0x0D, 0x0E, 0x0F, 0x10, 0x11, 0x14, 0x15, 0x1C], ∀ used, ready s g used ∧ ¬ sigPasses s g op zE) ∧
    (∀ r ∈ branchRows, ∃ f5 : ExtE, sigPasses s g r.op f5 ∧ r.taken (g.pc s.curSlot).mask g f5 = true ∧
      ¬ goodTarget (offsetFrom (pcOf s g) f5.w2)) ∧
    sigPasses s g 0x0E f4 ∧ ¬ goodTarget (offsetFrom (pcOf s g) f4.w2) ∧ ¬ goodTarget (g.rdS 3) ∧
    ¬ goodTarget (offsetFrom (g.rdS 3) 0) ∧ ¬ goodTarget 1 ∧ (g.pc s.curSlot).mask &&& g.rdK 0 ≠ 0 :=
  ⟨tS tG, tG, sg tG 0x0E zE, 0x7FFFFFFFFFFFFC, sg tG 0x0F { zE with a := 2 }, sg tG 0x10 { zE with a := 2 },
    sg tG 0x0E { zE with w2 := 0x800000 },
    ⟨test_ready _, rfl, target_ok, by unfold goodTarget; decide +kernel⟩,
    ⟨test_ready _, rfl, by unfold goodTarget; decide +kernel⟩, ⟨test_ready _, rfl, by unfold goodTarget; decide +kernel⟩,
    fun op h used => ⟨test_ready used, by unfold sigPasses; revert op; decide +kernel⟩, test_taken_far, rfl,
    by unfold goodTarget; decide +kernel, by unfold goodTarget; decide +kernel, by unfold goodTarget; decide +kernel,
    by unfold goodTarget; decide +kernel, by decide +kernel⟩

theorem test_witness_Bdiv_split : ∃ (s : State) (g : Group) (f0 f1 f2 : ExtE),
    (ready s g [] ∧ sigPasses s g 0x0C f0 ∧ (g.pc s.curSlot).mask &&& g.rdK f0.a.toNat = 0) ∧
    (sigPasses s g 0x0C f1 ∧ (g.pc s.curSlot).mask &&& g.rdK f1.a.toNat ≠ 0 ∧ (g.pc s.curSlot).mask &&& ~~~(g.rdK f1.a.toNat) = 0) ∧
    (sigPasses s g 0x0C f2 ∧ (g.pc s.curSlot).mask &&& g.rdK f2.a.toNat ≠ 0 ∧ (g.pc s.curSlot).mask &&& ~~~(g.rdK f2.a.toNat) ≠ 0) ∧
    goodTarget (offsetFrom (pcOf s g) f2.w2) ∧ (g.pc (!s.curSlot)).live = false :=
  ⟨tS tG, tG, sg tG 0x0C { zE with a := 1 }, sg tG 0x0C zE, sg tG 0x0C { zE with a := 2 },
    ⟨test_ready _, rfl, by decide +kernel⟩, ⟨rfl, by decide +kernel, by decide +kernel⟩,
    ⟨rfl, by decide +kernel, by decide +kernel⟩, target_ok, rfl⟩

/-- The group with its other slot live, waiting or not, at the same PC. -/
def tTwo (w : Bool) : Group := { tG with slot1 := { tG.slot0 with waiting := w, mask := 4 } }

theorem test_witness_Join_table : ∃ (f : ExtE),
    (ready (tS (tTwo true)) (tTwo true) [] ∧ sigPasses (tS (tTwo true)) (tTwo true) 0x0D f ∧ (tTwo true).depth = 0 ∧
      (tTwo true).slot1.live = true ∧ (tTwo true).slot1.waiting = true ∧ (tTwo true).slot1.pc = (tTwo true).slot0.pc) ∧
    (ready (tS (tTwo false)) (tTwo false) [] ∧ sigPasses (tS (tTwo false)) (tTwo false) 0x0D f ∧ (tTwo false).slot1.live = true ∧
      (tTwo false).slot1.waiting = false) ∧
    (ready (tS tG) tG [] ∧ sigPasses (tS tG) tG 0x0D f ∧ tG.slot1.live = false) :=
  ⟨sg tG 0x0D zE, ⟨⟨rfl, fun _ _ h => nomatch h⟩, rfl, rfl, rfl, rfl, rfl⟩, ⟨⟨rfl, fun _ _ h => nomatch h⟩, rfl, rfl, rfl⟩,
    test_ready _, rfl, rfl⟩

theorem test_witness_Exit_slots : ∃ (f : ExtE),
    (ready (tS (tTwo false)) (tTwo false) [] ∧ sigPasses (tS (tTwo false)) (tTwo false) 0x11 f ∧
      ((tTwo false).pc (!(tS (tTwo false)).curSlot)).live = true ∧ ((tTwo false).pc (!(tS (tTwo false)).curSlot)).waiting = false) ∧
    (ready (tS tG) tG [] ∧ sigPasses (tS tG) tG 0x11 f ∧ tablesOk (tS tG) ∧ (tG.pc (!(tS tG).curSlot)).live = false ∧ tG.depth = 0) :=
  ⟨sg tG 0x11 zE, ⟨⟨rfl, fun _ _ h => nomatch h⟩, rfl, rfl, rfl⟩, test_ready _, rfl, ⟨rfl, rfl⟩, rfl, rfl⟩

theorem test_witness_Plain_control : ∃ (s : State) (g : Group), ready s g [] ∧ sigPasses s g 0x1C (sg g 0x1C zE) ∧
    ¬ sigPasses s g 0x1C zE ∧ sigPasses s g 0x14 (sg g 0x14 zE) ∧ (255 : Nat) < ({ zA with w2 := 256 } : ExtA).w2.toNat ∧
    ({ zA with w2 := 255 } : ExtA).w2.toNat ≤ 255 ∧ (g.rdS ((1 : BitVec 6).setWidth 8)).toNat ≤ 255 ∧
    (s.ctx g.asid).dbg.getLsbD 0 = false :=
  ⟨tS tG, tG, test_ready _, rfl, by unfold sigPasses; decide +kernel, rfl, by decide, by decide, by decide +kernel, by decide +kernel⟩

theorem test_witness_Taking_a_trap : ∃ (s : State) (g : Group) (t : TrapInfo),
    (s.group? 0 = some g ∧ g.hnd = false ∧ handlerSet s 0 g ∧ t.lane < 256 ∧ t.cause.delivery = .handler) ∧
    (∃ c : Cause, c.delivery = .deferred) ∧
    (∃ (s2 : State) (h : Group), s2.group? 0 = some h ∧ h.hnd = true ∧ (s2.core (coreOf 0)).suspScore < (s2.core (coreOf 0)).suspLimit ∧
      (s2.core (coreOf 0)).suspScore ≤ 255 ∧ t.cause.isPage = false ∧ t.cause.suspicion = 0 ∧ Cause.pageFault.isPage = true) ∧
    (∃ (s2 : State) (h : Group), s2.group? 0 = some h ∧ h.hnd = false ∧ t.cause.delivery = .handler ∧
      (s2.ctx h.asid).trVec.getLsbD 63 = false) ∧
    (∃ (s2 : State) (h : Group), s2.group? 0 = some h ∧ h.hnd = false ∧ (s2.ctx h.asid).trVec.getLsbD 63 = true ∧
      s2.handlerOk 0 h (vectorAddr (s2.ctx h.asid).trVec) = false) := by
  refine ⟨tS tG, tG, { TrapInfo.of .softTrap with lane := 255 },
    ⟨rfl, rfl, by unfold handlerSet; decide +kernel, by decide, by decide +kernel⟩, ⟨.amTarget, by decide +kernel⟩,
    ⟨tS tH, tH, rfl, rfl, ?_, ?_, ?_, by decide +kernel, by decide +kernel⟩,
    ⟨{ tS tG with ctxs := [] }, tG, rfl, rfl, by decide +kernel, by decide +kernel⟩,
    { tS tG with ctxs := [(0, { Ctx.reset with ptRoot := 0x40001, trVec := 0x8000000000050000 })] }, tG, rfl, rfl, by decide +kernel,
    by decide +kernel⟩ <;> decide +kernel

theorem test_witness_Eret_returns : ∃ (f : ExtE) (h : Group),
    (ready (tS h) h [] ∧ sigPasses (tS h) h 0x15 f ∧ h.hnd = true ∧ goodTarget h.y[4] ∧ h.y[0].getLsbD 9 = (tS h).curSlot) ∧
    (ready (tS tG) tG [] ∧ sigPasses (tS tG) tG 0x15 f ∧ tG.hnd = false) :=
  ⟨sg tG 0x15 zE, { tH with y := tH.y.set 4 0x10000 }, ⟨⟨rfl, fun _ _ h => nomatch h⟩, rfl, rfl, by unfold goodTarget; decide +kernel,
    by decide +kernel⟩, test_ready _, rfl, rfl⟩

/-- Group 0 and a second group of its team that waits at `detm 1` or `detm 0`. -/
def tDetm (on : Bool) : State :=
  { tS tG with groups := [(0, tG), (1, { tG with index := 1, wait := .detm on false 3 })], teams := [(0, { tT with groups := 2 })] }

/-- Those of the team's other groups that have not ended. -/
def othersAt (s : State) (g : Group) : List (Nat × Group) := (s.groupsOf g.team).filter fun e => !e.2.ended && e.1 != s.cur

theorem test_witness_Regions_steps_timers : ∃ (s : State) (g : Group), (g.slot0.live = false ∨ g.slot1.live = false) ∧ g.depth = 0 ∧
    (s.inst g.asid (bhOf s.cur)).cutPending = false ∧ ready s g [] ∧ s.detmOf g = false ∧ (g.rdS ((1 : BitVec 6).setWidth 8)).toNat < 2 ^ 32 ∧
    (g.rdS ((1 : BitVec 6).setWidth 8)).toNat < 2 ^ 48 ∧ 1 < ({ zA with w2 := 2 } : ExtA).w2.toNat ∧
    1 < (g.rdS ((2 : BitVec 6).setWidth 8)).toNat ∧ s.team? g.team = some tT ∧ tT.cores.length = 1 ∧
    g.rdS ((1 : BitVec 6).setWidth 8) = 1 ∧
    (∃ (s2 : State) (t : Team), ready s2 g [] ∧ s2.team? g.team = some t ∧ 1 < t.cores.length) ∧
    (∃ s2 : State, ready s2 g [] ∧ s2.detmOf g = true ∧ ∀ e ∈ s2.groupsOf g.team, (∀ p ∈ s2.pends, p.hold = true → p.gid ≠ e.1) ∧
      (e.2.ended = false → ∀ on slot words, e.2.wait ≠ .detm on slot words)) ∧
    ∀ on : Bool, tablesOk (tDetm on) ∧ ready (tDetm on) tG [] ∧ (tDetm on).team? tG.team = some { tT with groups := 2 } ∧
      ∃ h : Group, othersAt (tDetm on) tG = [(1, h)] ∧ h.wait = .detm on false 3 :=
  ⟨tS tG, tG, .inr rfl, rfl, by decide +kernel, test_ready _, by decide +kernel, by decide +kernel, by decide +kernel, by decide,
    by decide +kernel, rfl, rfl, by decide +kernel,
    ⟨{ tS tG with teams := [(0, { tT with cores := [0, 1] })] }, { tT with cores := [0, 1] }, ⟨rfl, fun _ _ h => nomatch h⟩, rfl, by decide⟩,
    ⟨{ tS tG with teams := [(0, { tT with detm := true })] }, ⟨rfl, fun _ _ h => nomatch h⟩, rfl, fun e he => by
      obtain rfl : e = (0, tG) := List.mem_singleton.1 (show e ∈ [(0, tG)] from he)
      exact ⟨fun _ h => (nomatch h), fun _ on slot words h => nomatch h⟩⟩,
    fun _ => ⟨⟨rfl, rfl⟩, ⟨rfl, fun _ _ h => nomatch h⟩, rfl, _, rfl, rfl⟩⟩

theorem test_witness_System_registers : ∃ (s : State) (g : Group), ready s g [] ∧ sysPriv g.mode false 0x10B = true ∧
    sysPriv g.mode false 0x008 = false ∧ sysPriv g.mode true 0x100 = false ∧ (g.rdS 0).toNat < 2 ^ 16 ∧ sysPriv g.mode true 0 = true ∧
    sysPriv g.mode true 0x108 = true ∧ sysPriv tH.mode true 0x10B = true ∧ ((s.ctx g.asid).write (s.anyResident g.asid) 0x108 (g.rdS 1)).isSome = true ∧
    (s.ctx g.asid).write (s.anyResident g.asid) 0x108 (g.rdS 2) = none := by
  refine ⟨tS tG, tG, test_ready _, ?_, ?_, ?_, by decide +kernel, ?_, ?_,
    ?_, by decide +kernel, by decide +kernel⟩ <;> decide +kernel

theorem test_witness_Hard_wired_registers : (0 < (63 : Byte).toNat ∧ (63 : Byte).toNat < 64) ∧ (0 < 15 ∧ 15 < 16) := by decide

theorem test_witness_Retire_frame : (tS tG).group? 0 = some tG := rfl

theorem test_witness_Vector_frame : tG.regOk (255 : Byte).toNat = true := by decide +kernel

/-- The group with a loss scale of 1 in s5, an address of the private window in s6, supervisor privilege, and index register 1
with the window 0..0. -/
def tM : Group :=
  { tG with supervisor := true, s := (((tG.s.set 5 0x3F800000).set 6 0xFFB0000000000000).set 12 0xFFC0040000000000).set 13 0x1000000000000000, x := tG.x.set 1 { IndexReg.zero with hi := 0 } }

/-- The device with the group, pages 0 and 1 mapped, a shape record and an object record at address 0x10000, a tenant of
bulkhead 0, the fabric gate open and a multicast set. -/
def tR (g : Group) : State :=
  { tS g with
    home := Memory.store (Memory.store tTables 0x10000 8 0x10000) 0x10008 8 0x100000080
    caches := [(0, { leaves := [tLeaf 1 1 false, tLeaf 0 3 false, tLeaf 2 2 true], tables := [] })]
    tntShape := (State.reset.tntShape).set 0 0x8000000000000000, fabCfg := 0x8000000000000000, mcSet := [(0, 0x8000000000000000)] }

theorem test_ready_mem (used : List Nat) : ready (tR tM) tM used := ⟨rfl, fun _ _ h => nomatch h⟩

/-- No load of memory is outstanding. -/
theorem test_calm : ∀ q ∈ (tR tM).pends, q.gid = (tR tM).cur → q.acq = true → q.hold = true := fun _ h => nomatch h

theorem test_witness_Group_rows :
    (∀ r ∈ moveRows, ∃ f : ExtA, ready (tR tM) tM (namedA r.op f) ∧ r.ok f tM) ∧
    shapeWith (tM.rdH 0) 1 (tM.rdS 0).toNat = none ∧ ¬ lossScale (tM.rdS 0) := by
  refine ⟨fun r hr => ?_, by decide +kernel, fun ⟨e, h1, h2, h3⟩ => ?_⟩
  · have one : lossScale (tM.rdS 5) ∧ lossScale (tM.ls.setWidth 64) :=
      ⟨⟨127, by decide, by decide, by decide +kernel⟩, ⟨127, by decide, by decide, by decide +kernel⟩⟩
    simp only [moveRows] at hr
    fin_cases hr <;>
      first
        | exact ⟨zA, test_ready_mem _, trivial⟩
        | exact ⟨zA, test_ready_mem _, by decide +kernel⟩
        | exact ⟨{ zA with a := 5 }, test_ready_mem _, by decide, by decide, one.1⟩
        | exact ⟨{ zA with mod := 2 }, test_ready_mem _, rfl, one.2⟩
        | exact ⟨{ zA with mod := 4 }, test_ready_mem _, rfl, one.2⟩
        | exact ⟨{ zA with mod := 1 }, test_ready_mem _, rfl⟩
  · have : tM.rdS 0 = 0 := by decide +kernel
    rw [this] at h3
    have := congrArg BitVec.toNat h3
    simp only [BitVec.toNat_ofNat, BitVec.ofNat_eq_ofNat] at this
    omega

theorem test_witness_Wide_moves : ∃ (s : State) (g : Group) (f : ExtA), ready s g (namedA 0x5F f) ∧ f.d ≠ 0 ∧ f.d.toNat < 16 ∧ ready s g [] ∧
    spans g [] [254, 255] ∧ spans g [[254, 255]] [] ∧ spans g [[255]] [] ∧ spans g [] [255] :=
  ⟨tR tM, tM, { zA with d := 15, w2 := 3 }, test_ready_mem _, by decide, by decide, test_ready_mem _, by unfold spans; decide +kernel,
    by unfold spans; decide +kernel, by unfold spans; decide +kernel, by unfold spans; decide +kernel⟩

theorem test_witness_Index_registers : ∃ (s : State) (g : Group) (f1 f0 fk : ExtA),
    (ready s g (namedA 0x6A f1) ∧ f1.mod.getLsbD 0 = true) ∧ (f0.mod.getLsbD 0 = false ∧ spans g [[f0.a.toNat]] [] ∧ f0 = zW.ext 0x6A) ∧
    (activeMask g s.curSlot f1.gn f1.g ≠ 0 ∧ (f1.w2.extractLsb' 0 8).toNat ≤ (f1.w2.extractLsb' 8 8).toNat) ∧
    (activeMask g s.curSlot fk.gn fk.g = 0) ∧ spans g [] [f0.d.toNat] ∧ g.spanOk [fk.d.toNat] = true ∧
    (∀ i < 256, (activeMask g s.curSlot f0.gn f0.g).getLsbD i = true → (g.rdX f0.a.toNat).lo.toNat ≤ ((g.rdX f0.a.toNat).lane.lane i).toNat ∧
      ((g.rdX f0.a.toNat).lane.lane i).toNat ≤ (g.rdX f0.a.toNat).hi.toNat ∧ ((g.rdX f0.a.toNat).lane.lane i).toNat < g.regs ∧
      (g.block ((g.rdX f0.a.toNat).lane.lane i).toNat).full = true) ∧
    ((activeMask g s.curSlot f1.gn f1.g).getLsbD 0 = true ∧ ¬ ((g.rdX 1).lane.lane 0).toNat + 1 ≤ (g.rdX 1).hi.toNat) :=
  ⟨tR tM, tM, { zA with mod := 1, w2 := 0xFFFF }, zA, { zA with g := 1 }, ⟨test_ready_mem _, rfl⟩, ⟨rfl, by unfold spans; decide +kernel, rfl⟩,
    ⟨by decide +kernel, by decide⟩, by decide +kernel, by unfold spans; decide +kernel, by decide +kernel, by decide +kernel, by decide +kernel⟩

/-- A form with fields for a memory opcode: a global address in s2 where it takes an address, and a type that it takes. -/
def memForm (op : Byte) : ExtM :=
  if op == 0xA4 || op == 0xA5 then { zM with a := 2, lo := 1 }
  else if inRanges [(0xA6, 0xAB), (0xB9, 0xBB)] op.toNat then zM
  else if op == 0xC1 || op == 0xCA then { zM with a := 2 }
  else if inRanges [(0xC3, 0xC8), (0xCB, 0xCF)] op.toNat then { zM with a := 2, ty := if op == 0xCB || op == 0xCC then 5 else 4 }
  else { zM with a := 2, ord := if op == 0xA1 then 2 else 0 }

/-- What the lanes of a form resolve to. -/
def lanesOf (s : State) (r : MemRow) (f : ExtM) : Resolved × State :=
  s.resolveLanes (fun s i => s.resolveAt (s.asker s.cur tM) r.reach r.kind r.align i (r.at_ (tR tM) f tM i) (r.size f))
    (Mask.lanes (activeMask tM s.curSlot f.gn f.g))

/-- The form meets the hypotheses of a row of memory. -/
def memMet (s : State) (r : MemRow) (f : ExtM) : Bool :=
  let s1 := (lanesOf s r f).2
  tM.vecCheck (r.srcs f) (r.dst f) == Ready.go && (lanesOf s r f).1.bad.isEmpty && !(lanesOf s r f).1.ok.isEmpty &&
    (!r.rel f || ((s1.pends.all fun p => p.gid != s1.cur || !p.acq || p.hold) && (s1.flushCore (coreOf s1.cur)).releaseReady s1.cur &&
      (!r.sys f || (s1.flushCore (coreOf s1.cur)).sysReady s1.cur tM)))

theorem memMet_met {r : MemRow} {f : ExtM} (h : memMet (tR tM) r f = true) : memReady (tR tM) tM (r.srcs f) (r.dst f) ∧
    ∃ x s1, resolves (tR tM) tM r.reach r.kind r.align (activeMask tM (tR tM).curSlot f.gn f.g) (r.size f) (r.at_ (tR tM) f tM) x s1 ∧
      relReady s1 tM (r.rel f) (r.sys f) := by
  simp only [memMet, Bool.and_eq_true, beq_iff_eq, Bool.or_eq_true, Bool.not_eq_true', List.isEmpty_iff] at h
  refine ⟨⟨h.1.1.1, test_calm⟩, (lanesOf (tR tM) r f).1.ok, (lanesOf (tR tM) r f).2, ⟨(lanesOf (tR tM) r f).1, rfl, rfl, h.1.1.2⟩, fun hr => ?_⟩
  rcases h.2 with h2 | ⟨⟨hp, h2⟩, h3⟩
  · simp [h2] at hr
  · refine ⟨fun p hm hg ha => ?_, h2, fun hs => h3.resolve_left (by simp [hs])⟩
    have := List.all_eq_true.1 hp p hm
    simpa [hg, ha] using this

/-- A message of a kind from core 0 for 4 bytes of frame 1. -/
def tMsg (k : MsgKind) : Msg :=
  { id := 3, kind := k, origin := k, core := 0, gid := some 0, slot := false, pc := 0, pend := none, lane := 0, off := 0, va := 0x10000
    asid := 0, dpa := 0x10000, size := 4, data := 0x11223344, cmp := 0, op := .add, counter := 0, left := true, passed := true, target := none, gen := 0, words := []
    tag := none, tagged := false, invals := [], poison := none, due := 0 }

/-- An instruction of the current slot that waits under a pending access whose parts have all arrived. -/
def tP : Pend :=
  { id := 9, gid := 0, slot := false, pc := 0x10000, dest := .none, lanes := 0, values := Lanes.all 0, left := 0, acq := true, sc := false
    store := false, ge := none, failed := false, idem := false, poison := none, hold := true, why := .none, cycles := 0, memory := true }

/-- The device whose core 0 owns the first 16 words of page 1. -/
def tOwn : State := (tR tM).modCore 0 fun c => { c with l1 := (List.range 16).map fun i =>
  (16384 + i, { st := .owned, data := 7, bytes := 15, unsent := 0, lazy := none, tag := none, poison := none }) }

/-- The device whose tenant may reach the devices 0 to 1023. -/
def tNear : State := { tR tM with tntFab := State.reset.tntFab.set 0 0x000083FF00000000 }

/-- An access of lane 0 alone, in one piece. -/
def single (n : Nat) (p : Place) : List (Nat × Pieces) := [(0, [(0, n, p)])]

theorem lastTo_single (n : Nat) (p : Place) (j : Nat) : lastTo (single n p) (0, [(0, n, p)]) (0, n, p) j := by
  intro l' hl q hq h
  simp only [single, List.mem_singleton] at hl
  subst hl
  simp only [List.mem_singleton] at hq
  subst hq
  rcases h with h | h
  · exact absurd h (Nat.lt_irrefl 0)
  · exact absurd rfl h.2

theorem aloneIn_single (n : Nat) (p : Place) (dpa : Nat) : aloneIn (single n p) (0, [(0, n, p)]) (0, n, p) dpa := by
  intro l' hl q hq h
  simp only [single, List.mem_singleton] at hl
  subst hl
  simp only [List.mem_singleton] at hq
  subst hq
  exact absurd rfl h

/-- A form of lane 0 alone that accesses the start of page 1 in a state. -/
def oneMet (s : State) (r : MemRow) (f : ExtM) (p : Place) : Bool :=
  memMet s r f && decide ((lanesOf s r f).1.ok = single (r.size f) p) && s.pends.isEmpty && decide ((lanesOf s r f).2.cur = 0)

theorem oneMet_met {s : State} {r : MemRow} {f : ExtM} {p : Place} (hr : ready s tM (namedM r.op f)) (hk : r.ok s tM f)
    (ha : r.at_ s f tM = r.at_ (tR tM) f tM) (h : oneMet s r f p = true) :
    memRuns r s tM f (single (r.size f) p) (lanesOf s r f).2 := by
  simp only [oneMet, memMet, Bool.and_eq_true, beq_iff_eq, Bool.or_eq_true, Bool.not_eq_true', List.isEmpty_iff, decide_eq_true_eq] at h
  have hn : ∀ q ∈ s.pends, q.gid = s.cur → q.acq = true → q.hold = true := by
    rw [h.1.2]
    exact fun _ h => nomatch h
  refine ⟨hr, hk, ⟨h.1.1.1.1.1.1, hn⟩, ⟨(lanesOf s r f).1, ?_, h.1.1.2, h.1.1.1.1.1.2⟩, fun hr => ?_⟩
  · rw [ha]
    rfl
  · rcases h.1.1.1.2 with h2 | ⟨⟨hp, h2⟩, h3⟩
    · simp [h2] at hr
    · refine ⟨fun p hm hg ha => ?_, h2, fun hs => h3.resolve_left (by simp [hs])⟩
      have := List.all_eq_true.1 hp p hm
      simpa [hg, ha] using this

/-- The word of an access of lane 0, owned. -/
def ownedOne (s : State) (w : Nat) : Bool :=
  match s.l1 (coreOf s.cur) w with
  | some l => l.st == .owned && l.bytes == 15
  | none => false

theorem atHand_one {s : State} {dpa va n : Nat} {nc priv : Bool} (h : (wordsOf dpa n).all (ownedOne s) = true)
    (hu : s.unperformed false s.cur dpa n = false) : atHand s (single n (.mem dpa va nc priv)) := by
  intro l hl q hq
  simp only [single, List.mem_singleton] at hl
  subst hl
  simp only [List.mem_singleton] at hq
  subst hq
  refine .inr ⟨dpa, va, nc, priv, rfl, fun w hw => ?_, hu⟩
  have := List.all_eq_true.1 h w hw
  unfold ownedOne at this
  split at this
  · rename_i l hl
    simp only [Bool.and_eq_true, beq_iff_eq] at this
    exact ⟨l, hl, this.1, this.2⟩
  · cases this

/-- The first byte or word of page 1. -/
def first : Place := .mem 0x10000 0x10000 false false

/-- The form of lane 0 alone at that place. -/
def atFirst : ExtM := { zM with a := 2, g := 2 }

/-- A reply from the home slice for the load under `tP`, whose destination is as given. -/
def tReply (d : Dest) : State :=
  { tR tM with net := [{ tMsg .fill with pend := some 9, lane := 1 }], pends := [{ tP with dest := d, lanes := two, left := 1, hold := false }] }

theorem test_witness_Vector_memory : (∀ r ∈ accessRows, ready (tR tM) tM (namedM r.op (memForm r.op)) ∧ r.ok (tR tM) tM (memForm r.op)) ∧
    accessRows.all (fun r => memMet (tR tM) r (memForm r.op)) = true ∧
    (∃ r ∈ accessRows, r.kind = .load ∧ r.reach = .all ∧ r.engine = false ∧
      ∃ s1, memRuns r tOwn tM atFirst (single 1 first) s1 ∧ atHand s1 (single 1 first)) ∧
    (∃ r ∈ accessRows, r.kind = .load ∧ ∃ s1, memRuns r (tR tM) tM atFirst (single 1 first) s1 ∧ cold s1 0x10000 1) ∧
    (∀ d ∈ [Dest.vec 7 4, .scalar 6 4], ∃ m q g, (tReply d).msg? 3 = some m ∧ m.kind = .fill ∧ (tReply d).firstReply m = true ∧ m.lane < 256 ∧
      m.pend = some q.id ∧ (tReply d).pend? q.id = some q ∧ q.left = 1 ∧ q.hold = false ∧ q.failed = false ∧
      (tReply d).group? q.gid = some g ∧ q.dest = d ∧ q.lanes.getLsbD 1 = true) ∧
    tM.run = .original ∧
    (∃ r ∈ accessRows, r.kind = .store ∧ r.reach = .all ∧ r.engine = false ∧
      (∃ s1, memRuns r tOwn tM atFirst (single 1 first) s1 ∧ atHand s1 (single 1 first)) ∧
      (∃ s1, memRuns r (tR tM) tM atFirst (single 1 first) s1 ∧ cold s1 0x10000 1) ∧ atFirst.rq ≠ 3 ∧
      (∃ s1, memRuns r tNear tM { zM with a := 12, g := 2 } (single 1 (.fabric 1 0)) s1)) := by
  have calm : ∀ s : State, s.current = some tM → ∀ used, ready s tM used := fun _ h _ => ⟨h, fun _ _ h => nomatch h⟩
  refine ⟨fun r hr => ⟨test_ready_mem _, ?_⟩, by decide +kernel,
    ⟨accessRows[0], List.getElem_mem _, rfl, rfl, rfl, _, oneMet_met (calm _ rfl _) trivial rfl (by decide +kernel), atHand_one (by decide +kernel) (by decide +kernel)⟩,
    ⟨accessRows[0], List.getElem_mem _, rfl, _, oneMet_met (calm _ rfl _) trivial rfl (by decide +kernel), by unfold cold; decide +kernel⟩,
    fun d _ => ⟨_, { tP with dest := d, lanes := two, left := 1, hold := false }, tM, rfl, rfl, rfl, (by decide : 1 < 256), rfl, rfl, rfl, rfl, rfl, rfl, rfl, (by decide : two.getLsbD 1 = true)⟩, rfl,
    ⟨accessRows[5], List.getElem_mem _, rfl, rfl, rfl, ⟨_, oneMet_met (calm _ rfl _) trivial rfl (by decide +kernel), atHand_one (by decide +kernel) (by decide +kernel)⟩,
      ⟨_, oneMet_met (calm _ rfl _) trivial rfl (by decide +kernel), by unfold cold; decide +kernel⟩, by decide,
      ⟨_, oneMet_met (calm _ rfl _) trivial rfl (by decide +kernel)⟩⟩⟩
  simp only [accessRows] at hr
  fin_cases hr <;> trivial

theorem test_witness_Atomics : (∀ r ∈ atomicRows, ready (tR tM) tM (namedM r.op (memForm r.op)) ∧ r.ok (tR tM) tM (memForm r.op)) ∧
    atomicRows.all (fun r => memMet (tR tM) r (memForm r.op)) = true ∧
    (∃ r ∈ atomicRows, r.reach = .all ∧ atFirst.rq ≠ 4 ∧ (∃ s1, memRuns r tOwn tM atFirst (single 4 first) s1 ∧ atHand s1 (single 4 first)) ∧
      ∃ s1, memRuns r (tR tM) tM atFirst (single 4 first) s1 ∧ cold s1 0x10000 4) := by
  have calm : ∀ s : State, s.current = some tM → ∀ used, ready s tM used := fun _ h _ => ⟨h, fun _ _ h => nomatch h⟩
  refine ⟨fun r hr => ⟨test_ready_mem _, ?_⟩, by decide +kernel,
    ⟨atomicRows[0], List.getElem_mem _, rfl, by decide, ⟨_, oneMet_met (calm _ rfl _) (fun _ _ h => nomatch h) rfl (by decide +kernel),
      atHand_one (by decide +kernel) (by decide +kernel)⟩,
      _, oneMet_met (calm _ rfl _) (fun _ _ h => nomatch h) rfl (by decide +kernel), by unfold cold; decide +kernel⟩⟩
  simp only [atomicRows] at hr
  fin_cases hr <;> exact fun _ _ h => nomatch h

theorem test_witness_Lane_faults : (accessRows ++ atomicRows).all (fun r =>
    let f : ExtM := { memForm r.op with w2 := 0x80000000 }
    (tM.vecCheck (r.srcs f) (r.dst f) == Ready.go) && (lanesOf (tR tM) r f).1.bad.head?.isSome) = true := by decide +kernel

theorem test_witness_Scalar_memory : ∃ (f : ExtM) (h : ExtA),
    (ready (tR tM) tM (namedM 0x32 f) ∧ ∃ p s1, (tR tM).resolvePipe (tR tM).cur tM .all .load false (tM.rdS f.a + f.w2.signExtend 64) 1 =
      (.ok p, s1) ∧ p = [(0, 1, first)] ∧ cold s1 0x10000 1) ∧
    (ready tOwn tM (namedM 0x32 f) ∧ ∃ p s1, tOwn.resolvePipe tOwn.cur tM .all .load false (tM.rdS f.a + f.w2.signExtend 64) 1 =
      (.ok p, s1) ∧ p = [(0, 1, first)] ∧ atHand s1 (single 1 first)) ∧
    (∃ p s1, (tR tM).resolvePipe (tR tM).cur tM .all .store false (tM.rdS f.a + f.w2.signExtend 64) 1 = (.ok p, s1) ∧
      p = [(0, 1, first)] ∧ relReady s1 tM true true ∧ f.rq ≠ 3 ∧ cold s1 0x10000 1) ∧
    (∃ p s1, tOwn.resolvePipe tOwn.cur tM .all .store false (tM.rdS f.a + f.w2.signExtend 64) 1 = (.ok p, s1) ∧
      p = [(0, 1, first)] ∧ relReady s1 tM true true ∧ atHand s1 (single 1 first)) ∧
    (∃ p s1, tNear.resolvePipe tNear.cur tM .all .store false (tM.rdS 12) 1 = (.ok p, s1) ∧ p = [(0, 1, .fabric 1 0)] ∧ relReady s1 tM false false) ∧
    (canonical (tM.rdS 6) = true ∧ windowOf (tM.rdS 6) = .priv) ∧
    (ready (tR tM) tM (namedA 0x35 h) ∧ (tM.rdS h.a + h.w2.signExtend 64).toNat % 32 = 0 ∧
      ∃ ds s1 hs, (tR tM).readRecord (tR tM).cur tM (pcOf (tR tM) tM) 4 (tM.rdS h.a + h.w2.signExtend 64) = .dwords ds none s1 ∧
        shapeOf ds = some hs) ∧
    ((tM.rdS h.a + (32 : Word).signExtend 64).toNat % 32 = 0 ∧
      ∃ ds s1, (tR tM).readRecord (tR tM).cur tM (pcOf (tR tM) tM) 4 (tM.rdS h.a + (32 : Word).signExtend 64) = .dwords ds none s1 ∧
        shapeOf ds = none) ∧
    ((tM.rdS h.a + (1 : Word).signExtend 64).toNat % 32 ≠ 0 ∧ ∃ s1, (tR tM).recordFault (tR tM).cur tM 4 (tM.rdS h.a + (1 : Word).signExtend 64) = .ok s1) :=
  ⟨{ zM with a := 2 }, { zA with a := 2 }, ⟨test_ready_mem _, _, _, rfl, rfl, by unfold cold; decide +kernel⟩,
    ⟨⟨rfl, fun _ _ h => nomatch h⟩, _, _, rfl, rfl, atHand_one (by decide +kernel) (by decide +kernel)⟩,
    ⟨_, _, rfl, rfl, by unfold relReady; decide +kernel, by decide, by unfold cold; decide +kernel⟩,
    ⟨_, _, rfl, rfl, by unfold relReady; decide +kernel, atHand_one (by decide +kernel) (by decide +kernel)⟩,
    ⟨_, _, rfl, rfl, fun h => nomatch h⟩, by decide +kernel,
    ⟨test_ready_mem _, by decide +kernel, _, _, _, rfl, rfl⟩, ⟨by decide +kernel, _, _, rfl, rfl⟩, by decide +kernel, _, rfl⟩

/-- The sweep's segment resolves. -/
def segOk (r : Res) : Bool :=
  match r with
  | .ok _ => true
  | _ => false

theorem segOk_met {r : Res} (h : segOk r = true) : ∃ s1, r = .ok s1 := by
  cases r with
  | ok s => exact ⟨s, rfl⟩
  | stall w s => cases h
  | trap t s => cases h

theorem test_witness_Sweeps : ∃ (f : ExtA) (m : ExtM),
    (ready (tR tM) tM (namedA 0x40 { f with w2 := 0 }) ∧ f.w2.toNat % 4096 ≠ 0 ∧
      ∃ x o, tM.segmentFields (reqA 0x40 { f with w2 := 0 }) f 0 0 = some x ∧ vectorReady 0x40 tM x ∧
        sweepEffect 0x40 ((tR tM).venv tM (reqA 0x40 x) x) = .ok o) ∧
    ({ f with w2 := 0 } : ExtA).w2.toNat % 4096 = 0 ∧
    (ready (tR tM) tM (namedM 0xA2 m) ∧ m.w2.toNat % 4096 ≠ 0 ∧ ∃ x ds, tM.segFields m 0 0 = some x ∧ tM.elemRegs m 0 0 = some ds ∧
      memReady (tR tM) tM (offReg x) (ds.flatMap fun d => pairOr m.ty.toNat d) ∧
      memReady (tR tM) tM (offReg x ++ [(ds.flatMap fun d => pairOr m.ty.toNat d, m.fe.getLsbD 0)]) [] ∧
      (∃ s1, (tR tM).segLanes tM .load (activeMask tM (tR tM).curSlot x.gn x.g) (tySize m.ty.toNat) ds.length
        (fun k i => elemAt x 0 0 k tM i) (fun _ s => .ok s) = .ok s1) ∧
      ∃ s1, (tR tM).segLanes tM .store (activeMask tM (tR tM).curSlot x.gn x.g) (tySize m.ty.toNat) ds.length
        (fun k i => elemAt x 0 0 k tM i) (fun _ s => .ok s) = .ok s1) ∧
    relReady (tR tM) tM true true :=
  ⟨{ zA with w2 := 2 }, { zM with a := 2, ty := 4, w2 := 0x1001 },
    ⟨test_ready_mem _, by decide, _, _, rfl, by unfold vectorReady; decide +kernel, rfl⟩, by decide,
    ⟨test_ready_mem _, by decide, _, _, rfl, rfl, ⟨by decide +kernel, test_calm⟩, ⟨by decide +kernel, test_calm⟩,
      segOk_met (by decide +kernel), segOk_met (by decide +kernel)⟩,
    by unfold relReady; decide +kernel⟩

/-- A cached leaf of 64 GiB from address 0. -/
def tBig : TlbEntry := { asid := 0, level := 2, vpn := 0, entry := 0xDC18000000000000, addr := 0 }

/-- The device with that leaf alone in the caches of core 0. -/
def tWide : State := { tR tM with caches := [(0, { leaves := [tBig], tables := [] })], leaves := [tBig] }

theorem wide_page (va : Nat) (h : va < 2 ^ 34) : tWide.translate ((tWide.asker tWide.cur tM).via false) .load va =
    (.ok va 0xDC18000000000000 2, tWide) := by
  have h0 : va / leafSize 2 = 0 := Nat.div_eq_of_lt (Nat.lt_trans h (by decide))
  have h1 : va % leafSize 2 = va := Nat.mod_eq_of_lt (Nat.lt_trans h (by decide))
  have hl : (tWide.cache 0).leaf (tWide.tagOf 0) va = some tBig := by
    show List.find? _ [tBig] = some tBig
    rw [List.find?_cons_of_pos]
    show ((0 : Nat) == tWide.tagOf 0 && (0 : Nat) == va / leafSize 2) = true
    rw [h0]
    decide +kernel
  have hf : tWide.leafFor ((tWide.asker tWide.cur tM).via false) va = .entry 0xDC18000000000000 2 0 := by
    show (match (tWide.cache 0).leaf (tWide.tagOf 0) va with
      | some t => Walk.entry t.entry.toNat t.level t.addr
      | none => _) = _
    rw [hl]
    rfl
  have hd : leafDpa 0xDC18000000000000 2 va = va := by
    show 0 * 2 ^ 16 + va % leafSize 2 = va
    rw [h1, Nat.zero_mul, Nat.zero_add]
  have hp : framePopulated (va / 2 ^ 16) = true := by
    unfold framePopulated
    have : Config.hbmFrames = 976562 := rfl
    simp only [Bool.and_eq_true, decide_eq_true_eq]
    omega
  have hc : leafCheck ((tWide.asker tWide.cur tM).via false) .load 0xDC18000000000000 2 va = none := by
    unfold leafCheck
    rw [hd, hp]
    decide +kernel
  have ht : tWide.fillTlb ((tWide.asker tWide.cur tM).via false) (AccessKind.load.dirties 0xDC18000000000000) 0xDC18000000000000 2 0 va = tWide := by
    show ({ tWide with
      caches := Table.set tWide.caches 0 ((tWide.cache 0).use { asid := 0, level := 2, vpn := va / leafSize 2, entry := 0xDC18000000000000, addr := 0 }
        (if ((tWide.cache 0).leaf (tWide.tagOf 0) va).isSome then [] else _))
      leaves := { asid := 0, level := 2, vpn := va / leafSize 2, entry := 0xDC18000000000000, addr := 0 } ::
        tWide.leaves.filter fun x => !(x.asid == tWide.tagOf 0 && x.level == 2 && x.vpn == va / leafSize 2) } : State) = tWide
    rw [hl, h0]
    rfl
  unfold State.translate
  rw [hf]
  show (if (!bit (BitVec.toNat (tWide.ctx 0).ptRoot) 0) = true then _ else _) = _
  rw [if_neg (by decide +kernel)]
  simp only [hc, hd, ht]
  rfl

theorem wide_pages (l : List Nat) (h : ∀ va ∈ l, va < 2 ^ 34) : ∃ ps, tWide.rangePages tM .load l = (.ok ps, tWide) := by
  induction l with
  | nil => exact ⟨_, rfl⟩
  | cons va t ih =>
    obtain ⟨ps, hp⟩ := ih fun v hv => h v (List.mem_cons_of_mem _ hv)
    refine ⟨(va / 65536, va / 65536 * 65536) :: ps, ?_⟩
    unfold State.rangePages
    rw [wide_page va (h va (List.mem_cons_self ..))]
    simp only [hp]

theorem wide_range : ∃ ps s1, tWide.rangePages tM .load (pagesOf 0x10000 (2 ^ 33)) = (.ok ps, s1) := by
  obtain ⟨ps, h⟩ := wide_pages (pagesOf 0x10000 (2 ^ 33)) fun va hv => by
    simp only [pagesOf, List.mem_map, List.mem_range] at hv
    obtain ⟨i, hi, rfl⟩ := hv
    split <;> omega
  exact ⟨ps, _, h⟩
theorem test_witness_Range_instructions : ∃ (f0 f1 f4 : ExtM),
    (ready (tR tM) tM (namedM 0xAD f0) ∧ (tM.rdS f0.c).toNat = 0) ∧
    (ready tWide tM (namedM 0xAD f4) ∧ (2 : Nat) ^ 32 < (tM.rdS f4.c).toNat ∧ canonical (tM.rdS f4.a + f4.w2.signExtend 64) = true ∧
      (tM.rdS f4.a + f4.w2.signExtend 64).toNat + (tM.rdS f4.c).toNat ≤ 2 ^ 55 ∧
      ∃ ps s1, tWide.rangePages tM .load (pagesOf (tM.rdS f4.a + f4.w2.signExtend 64).toNat (tM.rdS f4.c).toNat) = (.ok ps, s1)) ∧
    (0 < (tM.rdS f1.c).toNat ∧ (tM.rdS f1.c).toNat ≤ 2 ^ 32 ∧ canonical (tM.rdS f1.a + f1.w2.signExtend 64) = true ∧
      (tM.rdS f1.a + f1.w2.signExtend 64).toNat + (tM.rdS f1.c).toNat ≤ 2 ^ 55 ∧
      (∃ ps s1, (tR tM).rangePages tM .load (pagesOf (tM.rdS f1.a + f1.w2.signExtend 64).toNat (tM.rdS f1.c).toNat) = (.ok ps, s1) ∧
        (∀ m ∈ s1.net, m.core ≠ coreOf (tR tM).cur ∧ m.kind ≠ .grant) ∧ ∀ e ∈ (s1.core (coreOf (tR tM).cur)).l1, e.2.st ≠ .pend ∧ e.2.lazy = none) ∧
      ∃ ps s1, (tR tM).rangePages tM .store (pagesOf (tM.rdS f1.a + f1.w2.signExtend 64).toNat (tM.rdS f1.c).toNat) = (.ok ps, s1)) := by
  refine ⟨zM, { zM with a := 2, c := 1 }, { zM with a := 2, c := 4 }, ⟨test_ready_mem _, by decide +kernel⟩,
    ⟨⟨rfl, fun _ _ h => nomatch h⟩, by decide +kernel, by decide +kernel, by decide +kernel, wide_range⟩, ?_,
    ?_, by decide +kernel, ?_, ⟨_, _, rfl, by decide +kernel, by decide +kernel⟩, _, _, rfl⟩ <;> decide +kernel

/-- An object of the context over the bytes from 0x10000. -/
def tO (st : ObjState) : Obj :=
  { st := st, held := false, opndB := false, bind := 0, asid := 0, version := 0, grid := 0, owner := 0, base := 0x10000, pitch := 0
    rowBytes := 128, esz := 1, rows := 1 }

/-- The device with objects 0, 1 and 4095 in bulkhead 0. -/
def tObjs : State := (tR tM).modBh 0 fun b => { b with objs := [(0, tO .shared), (1, tO .stable), (4095, tO .frozen)] }

/-- The device with the pending access. -/
def tHeld : State := { tR tM with pends := [tP] }

theorem test_held : heldDone tHeld tM tP := ⟨rfl, rfl, rfl⟩

theorem test_ready_held (used : List Nat) : ready tHeld tM used := ⟨rfl, fun _ _ h => nomatch h⟩

theorem test_witness_Objects :
    (∃ f : ExtM, ready (tR tM) tM (namedM 0xB1 f) ∧ (tM.rdS f.a + f.w2.signExtend 64).toNat % 64 ≠ 0) ∧
    (∃ (f : ExtM) (ds : List Nat) (s1 : State) (o : Obj), ready (tR tM) tM (namedM 0xB1 f) ∧
      (tM.rdS f.a + f.w2.signExtend 64).toNat % 64 = 0 ∧
      (tR tM).readRecord (tR tM).cur tM (pcOf (tR tM) tM) 8 (tM.rdS f.a + f.w2.signExtend 64) = .dwords ds none s1 ∧
      objOfRecord ds tM.asid (s1.gridNumber tM) = some (o, .shared) ∧
      s1.objRefusal 0 (some ({ o with owner := s1.gridOwner tM }, .shared)) = none) ∧
    (∃ (f0 f1 : ExtM) (o0 o1 : Obj), ready tObjs tM (namedM 0xB2 f0) ∧ (tM.rdS f0.a).toNat < 4096 ∧
      tObjs.held? tObjs.cur tObjs.curSlot (pcOf tObjs tM) = none ∧ Table.find (tObjs.bh 0).objs (tM.rdS f0.a).toNat = some o0 ∧
      o0.asid = tM.asid ∧ o0.st = .shared ∧ f0.modm = 0 ∧ Table.find (tObjs.bh 0).objs (tM.rdS f1.a).toNat = some o1 ∧ o1.st = .stable ∧
      f1.modm = 1 ∧ fenceReady tObjs tM false ∧ tObjs.filterCount 0 tM.asid < 64 ∧
      (∀ m ∈ tObjs.net, m.kind ≠ .grant ∧ (bhOfCore m.core = 0 → m.kind.access = false)) ∧
      ∀ c ∈ coresOf 0, ∀ e ∈ (tObjs.core c).l1, e.2.st ≠ .pend ∧ e.2.lazy = none) ∧
    heldDone tHeld tM tP ∧
    (∃ f : ExtM, ready (tR tM) tM (namedM 0xB3 f) ∧ (tM.rdS f.a).toNat < 4096 ∧
      ∀ o, Table.find ((tR tM).bh 0).objs (tM.rdS f.a).toNat = some o → o.asid ≠ tM.asid) :=
  ⟨⟨{ zM with a := 1 }, test_ready_mem _, by decide +kernel⟩, ⟨{ zM with a := 2 }, _, _, _, test_ready_mem _, by decide +kernel, rfl, rfl, by decide +kernel⟩,
    ⟨zM, { zM with a := 1, modm := 1 }, tO .shared, tO .stable, ⟨rfl, fun _ _ h => nomatch h⟩, by decide +kernel, by decide +kernel,
      by decide +kernel, rfl, rfl, rfl, by decide +kernel, rfl, rfl, ⟨by unfold relReady; decide +kernel, (fun _ h => nomatch h), fun _ h => nomatch h⟩,
      by decide +kernel, (fun _ h => nomatch h), by decide +kernel⟩, test_held,
    ⟨zM, test_ready_mem _, by decide +kernel, fun _ h => nomatch h⟩⟩

/-- The group with a length of 1 unit in s7, which is the register that `winmap` reads as C. -/
def tW : Group := { tM with s := tM.s.set 7 0x100000000 }

/-- The device with the group, whose team has window 1 open. -/
def tWin : State := { tR tW with teams := [(0, { tT with windows := [(1, { va := 0x10000, offset := 1024, units := 1, revoked := false, frames := [] })] })] }

theorem test_witness_Mirror_windows : ∃ (t : Team) (f f1 : ExtM) (w : Mirror), tWin.team? tW.team = some t ∧
    (ready tWin tW (namedM 0xBC f) ∧ (tW.rdS f.c) >>> 48 = 0 ∧ (tW.rdS f.c).extractLsb' 25 7 = 0 ∧ ((tW.rdS f.c).extractLsb' 32 16).toNat = 1 ∧
      (tW.rdS f.a).toNat % 128 = 0 ∧ ((tW.rdS f.c).extractLsb' 0 25).toNat = 0 ∧ 512 ≤ t.spad ∧ (∀ w ∈ t.windows, 512 ≤ w.2.offset) ∧
      canonical (tW.rdS f.a) = true ∧ (tW.rdS f.a).toNat + 512 ≤ 2 ^ 55 ∧ (∃ ps s1, tWin.rangePages tW .load (pagesOf (tW.rdS f.a).toNat 512) = (.ok ps, s1) ∧ relReady s1 tW true false) ∧
      Table.freeFrom t.windows 16 0 < 16 ∧ tW.rdE 0 < 255) ∧
    (ready tWin tW (namedM 0xBD f1) ∧ (tW.rdS f1.a).toNat < 16 ∧ Table.find t.windows (tW.rdS f1.a).toNat = some w ∧ w.revoked = false ∧
      canonical w.va = true ∧ w.va.toNat + 512 * w.units ≤ 2 ^ 55 ∧ ∃ ps s1, tWin.rangePages tW .store (pagesOf w.va.toNat (512 * w.units)) = (.ok ps, s1)) ∧
    Table.find t.windows (tW.rdS f.a).toNat = none := by
  refine ⟨_, { zM with a := 2, c := 7 }, { zM with a := 1 }, _, rfl,
    ⟨⟨rfl, fun _ _ h => nomatch h⟩, ?_, ?_, ?_, by decide +kernel, ?_, by decide,
      by decide +kernel, by decide +kernel, by decide +kernel, ⟨_, _, rfl, by unfold relReady; decide +kernel⟩, by decide +kernel, by decide +kernel⟩,
    ⟨⟨rfl, fun _ _ h => nomatch h⟩, by decide +kernel, rfl, rfl, by decide +kernel, by decide +kernel, _, _, rfl⟩, by decide +kernel⟩ <;> decide +kernel

theorem test_witness_Translations : ∃ (f : ExtM),
    (ready (tR tM) tM (namedM 0x34 f) ∧ canonical (tM.rdS f.a + f.w2.signExtend 64) = true ∧
      windowOf (tM.rdS f.a + f.w2.signExtend 64) = .global ∧ ∃ dpa e l s1, (tR tM).translate (((tR tM).asker (tR tM).cur tM).via false) .xlat
        (tM.rdS f.a + f.w2.signExtend 64).toNat = (.ok dpa e l, s1)) ∧
    (canonical (tM.rdS 6) = true ∧ windowOf (tM.rdS 6) ≠ .global ∧ ∀ used, ready (tR tM) tM used) ∧
    (memReady (tR tM) tM (offReg f) [] ∧ ∃ y s1, (tR tM).resolveLanes (fun s i => s.resolveAt (s.asker s.cur tM) .all .prefetch false i
        (baseAt f tM i) 1) (Mask.lanes (activeMask tM (tR tM).curSlot f.gn f.g)) = (y, s1) ∧ y.bad = []) ∧
    (∃ (s : State) (g : Group), ready s g (namedM 0xBE f) ∧ g.sup = false) ∧
    canonical (tM.rdS 13) = false ∧ 2 ^ 32 ≤ (tM.rdS 3).toNat ∧
    (tR tM).held? (tR tM).cur (tR tM).curSlot (pcOf (tR tM) tM) = none ∧
    (ready tHeld tM (namedM 0xBE f) ∧ tM.sup = true ∧ (tM.rdS f.c).toNat < 2 ^ 32 ∧ heldDone tHeld tM tP) :=
  ⟨{ zM with a := 2 }, ⟨test_ready_mem _, by decide +kernel, by decide +kernel, _, _, _, _, rfl⟩, ⟨by decide +kernel, by decide +kernel, test_ready_mem⟩,
    ⟨⟨by decide +kernel, test_calm⟩, _, _, rfl, by decide +kernel⟩, ⟨tS tG, tG, test_ready _, rfl⟩, by decide +kernel, by decide +kernel,
    by decide +kernel, test_ready_held _, rfl, by decide +kernel, test_held⟩

theorem test_witness_Fences_and_watches : ∃ (s : State) (g : Group), ready s g [] ∧ fenceReady s g true ∧ (∀ p ∈ s.pends, p.gid = s.cur → p.hold = false → (!p.store) = false) ∧
    heldDone s g tP ∧ tP.gid = s.cur ∧ tP.dest = .none ∧ tP.failed = false ∧ tP.acq = true ∧ tP.ge = none :=
  ⟨tHeld, tM, test_ready_held _, ⟨by unfold relReady; decide +kernel, by decide +kernel, fun _ h => nomatch h⟩, by decide +kernel, test_held, rfl, rfl, rfl, rfl, rfl⟩

/-- The group having arrived at barrier 15 and at its gang's point, in episode 0. -/
def tB : Group := { tM with arrived := tM.arrived.set 15 (some 0), gangArrived := some 0 }

/-- The device with that group, waiting in its slot, whose team and gang are in episode 1. -/
def tBar : State :=
  { tR tB with pends := [tP]
               teams := [(0, { tT with barriers := tT.barriers.set 15 { episode := 1, arrived := [] }, gangSync := { episode := 1, arrived := [] } })] }

theorem test_witness_Barriers :
    (ready (tR tM) tM [] ∧ tM.two = false ∧ (tR tM).held? (tR tM).cur (tR tM).curSlot (pcOf (tR tM) tM) = none ∧
      lastToArrive (tR tM) tM tT 15 ∧ lastToArrive (tR tM) tM tT 0 ∧ relReady (tR tM) tM true false ∧ (tM.rdS ((0 : BitVec 6).setWidth 8)).toNat = 0) ∧
    (ready tBar tB [] ∧ tB.two = false ∧ barOver tBar tB 15 ∧ tBar.held? tBar.cur tBar.curSlot (pcOf tBar tB) = some tP ∧
      ∃ (l : Nat × Team) (t : Team), tBar.team? tB.team = some t ∧ tBar.gangLead t.gang = some l ∧ tB.gangArrived = some 0 ∧ 0 < l.2.gangSync.episode) :=
  ⟨⟨test_ready_mem _, rfl, by decide +kernel, ⟨rfl, by decide +kernel, by decide +kernel, by decide +kernel⟩,
      ⟨rfl, by decide +kernel, by decide +kernel, by decide +kernel⟩, by unfold relReady; decide +kernel, by decide +kernel⟩,
    ⟨rfl, fun _ _ h => nomatch h⟩, rfl, ⟨_, 0, rfl, by decide +kernel, by decide +kernel⟩, rfl, _, _, rfl, rfl, rfl, by decide +kernel⟩

/-- A shape of one row of binary32 elements, at an address. -/
def tShape (base : Nat) (cols : Nat) (fc : Nat) : Shape :=
  { base := BitVec.ofNat 56 base, rows := 1, cols := BitVec.ofNat 24 cols, pitch := 0, fc := BitVec.ofNat 5 fc }

/-- The group with shapes in h0 to h2, a stream, s8 = 63, s9 an address with zeros, s10 the address of a class record and s11
that of a binding record. -/
def tQ : Group :=
  { tM with
    s := (((tM.s.set 8 63).set 9 0x10040).set 10 0x10080).set 11 0x10100
    h := ((tM.h.set 0 (tShape 0x1C000 1 10)).set 1 (tShape 0x10000 128 0)).set 2 (tShape 0x10000 4 19)
    streams := tM.streams.set 0 (some { shape := tShape 0x10000 128 0, scales := none }) }

/-- A binding of 1 by 1 operands. -/
def tBnd : Binding :=
  { asid := 0, id := 63, sha := tShape 0x10000 1 10, shb := tShape 0x10080 1 10, shc := tShape 0x18000 1 10, policy := 0, budget := 0
    logCap := 8, objA := 0, objB := 1, frames := [], aS := [], bS := [], cS := [], cnt := [], paused := false, refreshDue := false
    nv := false, ofl := false, budgetHit := false, broken := false, applied := 0, log := [], logFullPosted := false
    supervisor := false, wait := none, refused := false, leaveAsked := false, leaveHeld := false, stopped := false }

/-- The device with the group, bindings 5 and 6 of which the second is broken, latched weight slots, a claimed pair, a class record
at 0x10080 and, from 0x10100, the record of a binding of a 1 by 32 matrix with a 32 by 32 one. -/
def tD : State :=
  let m : Memory := [(0x10098 + 2, 1), (0x10102, 1), (0x10108, 32), (0x1010C, 1), (0x10118, 10), (0x10121, 64), (0x10122, 1), (0x10128, 32),
    (0x1012C, 32), (0x10130, 128), (0x10138, 10), (0x10141, 128), (0x10142, 1), (0x10148, 32), (0x1014C, 1), (0x10158, 10), (0x10163, 1)]
  let slot (fc lut : Nat) : WeightSlot := { team := 0, fc := BitVec.ofNat 5 fc, lut := lut, sc := false, kw := 64, codes := [], scales := [] }
  { (tR tQ).modBh 0 fun b => { b with bindings := [(5, tBnd), (6, { tBnd with broken := true })], poolCount := 2, poolHead := 5 } with
    home := m ++ tTables
    ctxs := [(0, { Ctx.reset with ptRoot := 0x40001, trVec := 0x8000000000020000, spIds := [(1, (0, 6)), (63, (0, 5))] })]
    units := [(0, { MatUnit.reset with claim0 := some 0, claim1 := some 0, slots := [(0, slot 0 0), (1, slot 1 1), (2, slot 18 0)] })] }

theorem test_ready_dev (used : List Nat) : ready tD tQ used := ⟨rfl, fun _ _ h => nomatch h⟩

theorem test_tile (n : Nat) (h : n < 8) : hasTile tD tQ n := ⟨tT, rfl, h⟩

theorem test_witness_Matrix_instructions :
    (∀ r ∈ matrixRows, ∃ f : ExtA, ready tD tQ (namedA r.op f) ∧ r.ok tD tQ f) ∧ tQ.rdE 1 < 255 ∧ ¬ hasTile tD tQ 8 ∧
    (∃ f : ExtA, ready tD tQ (namedA 0xD0 f) ∧ relReady tD tQ true false ∧ (tQ.rdS f.c) >>> 48 = 0 ∧ (tQ.rdS f.c).extractLsb' 0 5 = 0 ∧
      slotAccepts f.d.toNat (tQ.rdH f.a.toNat).fc.toNat (f.mod.toNat / 2 % 4) (f.mod.getLsbD 0) = true ∧ (tQ.rdH f.a.toNat).baseOk = true ∧
      f.mod.getLsbD 0 = true ∧ (tQ.rdH f.b.toNat).fc = 19 ∧ (tQ.rdH f.b.toNat).baseOk = true ∧
      (tD.unit tD.here tD.herePart).claim (f.d.toNat / 2) = some tQ.team) ∧
    (∀ r ∈ macRows, ∃ (f : ExtA) (st : Stream) (fc lt : Nat) (scl : Bool), ready tD tQ (namedA r.1 f) ∧ hasTile tD tQ f.d.toNat ∧
      (tQ.rdS f.c) >>> 48 = 0 ∧ (tQ.rdS f.c).extractLsb' 24 5 = 0 ∧ tQ.streams[f.a.toNat % 4]? = some (some st) ∧
      (tD.unit tD.here tD.herePart).latched tD tQ.team f.b.toNat = some (fc, lt, scl) ∧ pairOk r.1.toNat fc lt st.shape.fc.toNat = true ∧
      mayRun tD tQ (macClass r.1 fc st.shape.fc.toNat)) := by
  refine ⟨fun r hr => ?_, by decide +kernel, fun ⟨t, h1, h2⟩ => ?_, ⟨{ zA with a := 1, b := 2, mod := 1 }, test_ready_dev _,
    by unfold relReady; decide +kernel, by decide +kernel, by decide +kernel, by decide +kernel, by decide +kernel, by decide, by decide +kernel,
    by decide +kernel, by decide +kernel⟩, fun r hr => ?_⟩
  · simp only [matrixRows, List.mem_cons, List.not_mem_nil, or_false] at hr
    rcases hr with h | h | h | h <;> subst h
    · exact ⟨{ zA with d := 7 }, test_ready_dev _, test_tile 7 (by decide)⟩
    · exact ⟨zA, test_ready_dev _, test_tile 0 (by decide)⟩
    · exact ⟨{ zA with d := 7, a := 6 }, test_ready_dev _, test_tile 7 (by decide), test_tile 6 (by decide)⟩
    · exact ⟨{ zA with d := 7, a := 248 }, test_ready_dev _, test_tile 7 (by decide), by decide +kernel⟩
  · have : tD.team? tQ.team = some tT := rfl
    cases this.symm.trans h1
    exact absurd h2 (by decide)
  · have held (c : Option Nat) (h : ∀ n, c = some n → n ∈ [1, 2, 3, 4]) : mayRun tD tQ c := ⟨tT, rfl, fun n hn => by simpa [tT] using h n hn⟩
    simp only [macRows, List.mem_cons, List.not_mem_nil, or_false] at hr
    rcases hr with h | h | h | h <;> subst h
    · exact ⟨zA, _, 0, 0, false, test_ready_dev _, test_tile 0 (by decide), by decide +kernel, by decide +kernel, rfl, by decide +kernel, by decide +kernel,
        held _ (by decide +kernel)⟩
    · exact ⟨zA, _, 0, 0, false, test_ready_dev _, test_tile 0 (by decide), by decide +kernel, by decide +kernel, rfl, by decide +kernel, by decide +kernel,
        held _ (by decide +kernel)⟩
    · exact ⟨{ zA with b := 1 }, _, 1, 1, false, test_ready_dev _, test_tile 0 (by decide), by decide +kernel, by decide +kernel, rfl, by decide +kernel,
        by decide +kernel, held _ (fun n h => by cases h; decide)⟩
    · exact ⟨{ zA with b := 2 }, _, 18, 0, false, test_ready_dev _, test_tile 0 (by decide), by decide +kernel, by decide +kernel, rfl, by decide +kernel,
        by decide +kernel, held _ (fun n h => by cases h; decide)⟩

theorem test_witness_Matrix_state :
    (ready tD tQ [] ∧ hasTile tD tQ 7 ∧ tQ.rdE 1 < 255 ∧ tQ.vecCheck [] ((List.range 8).map fun i => 248 + i) = Ready.go ∧
      tD.team? tQ.team = some tT ∧ (7 : Nat) < tT.acct ∧ tD.tileBusy tD.here tD.herePart tQ.team 7 = false ∧
      streamAccepts (tQ.rdH 1).fc.toNat true = true ∧ (tQ.rdH 2).fc = 19 ∧ (tD.unit tD.here tD.herePart).claim 0 = some tQ.team ∧
      tD.pairBusy (tD.unit tD.here tD.herePart) tQ.team 0 (releaseAt tD (tD.unit tD.here tD.herePart) 0) = false ∧
      (ready (tR tM) tM [] ∧ ((tR tM).unit (tR tM).here (tR tM).herePart).claim 1 ≠ some tM.team) ∧
      (∀ o ∈ (tD.unit tD.here tD.herePart).ops, o.gid ≠ tD.cur) ∧ Table.find (tD.unit tD.here tD.herePart).slots 3 = none) ∧
    heldDone tHeld tM tP ∧
    (tHeld.tryMbar tM.team tHeld.here tHeld.herePart).held? tHeld.cur tHeld.curSlot (pcOf tHeld tM) = some tP ∧ tP.left = 0 ∧
    (tHeld.tryMbar tM.team tHeld.here tHeld.herePart).inMbar tHeld.cur (!tHeld.curSlot) = false := by
  refine ⟨⟨test_ready_dev _, test_tile 7 (by decide), by decide +kernel, by decide +kernel, rfl, by decide, ?_, ?_,
    ?_, by decide +kernel, ?_, ⟨test_ready_mem _, by decide +kernel⟩, by decide +kernel, by decide +kernel⟩, test_held,
    rfl, rfl, by decide +kernel⟩ <;> decide +kernel

/-- The writes are done, without a cause. -/
def wroteOk (r : EngAns (Option Cause)) : Bool :=
  match r with
  | .done none _ => true
  | _ => false

theorem wroteOk_met {r : EngAns (Option Cause)} (h : wroteOk r = true) : ∃ s1, r = .done none s1 := by
  unfold wroteOk at h
  split at h
  · exact ⟨_, rfl⟩
  · cases h

/-- The device with a context whose page tables are empty, so that the SPE's write of C waits for the plex. -/
def tDb : State := { tD with ctxs := [(0, { Ctx.reset with ptRoot := 1 })] }

/-- The record at s11 is read, names a binding that nothing refuses, and the binding is made. -/
def bindMet : Bool :=
  match tDb.readRecord tDb.cur tQ (pcOf tDb tQ) 16 (tQ.rdS 11) with
  | .dwords ds none s1 => match bindRec ds with
    | some r => match s1.bindPages tDb.cur tQ r.pages with
      | (.ok frames, s2) =>
        let s3 := s2.flushCore (coreOf s2.cur)
        s2.bindRefusal 0 tQ.asid r frames == none && s3.releaseReady s2.cur && !s3.granting 0 && (s3.makeBinding tQ r frames).isSome
      | _ => false
    | none => false
  | _ => false

/-- The same with no free frame for the log. -/
def tDp : State := tDb.modBh 0 fun b => { b with poolCount := 0 }

/-- The record at s11 is read and names a binding that is refused. -/
def bindRefused : Bool :=
  match tDp.readRecord tDp.cur tQ (pcOf tDp tQ) 16 (tQ.rdS 11) with
  | .dwords ds none s1 => match bindRec ds with
    | some r => match s1.bindPages tDp.cur tQ r.pages with
      | (.ok frames, s2) => (s2.bindRefusal 0 tQ.asid r frames).isSome
      | _ => false
    | none => false
  | _ => false

/-- The record at an address without one is read, and has no form of R349. -/
def bindFormless : Bool :=
  match tD.readRecord tD.cur tQ (pcOf tD tQ) 16 (tQ.rdS 2) with
  | .dwords ds none _ => (bindRec ds).isNone
  | _ => false

theorem test_names : names tD tQ (tQ.rdS 8) 5 tBnd := ⟨by decide +kernel, by decide +kernel, by decide +kernel⟩

theorem test_settled : settledNow tD tQ 5 tBnd := ⟨by decide +kernel, by unfold relReady; decide +kernel, rfl, rfl, by decide +kernel⟩

theorem test_writes : ∃ s1, (tD.flushCore (coreOf tD.cur)).writeC 0 tBnd.refreshed tBnd.refreshed.cells = .done none s1 :=
  wroteOk_met (by decide +kernel)

theorem test_broken : names tD tQ (tQ.rdS 1) 6 { tBnd with broken := true } := ⟨by decide +kernel, by decide +kernel, by decide +kernel⟩

theorem test_witness_Standing_products :
    (ready tD tQ [] ∧ names tD tQ (tQ.rdS 8) 5 tBnd ∧ tBnd.broken = false ∧ settledNow tD tQ 5 tBnd ∧ tBnd.refreshDue = false ∧
      tBnd.snapOk (tQ.rdH 0) = true ∧ tQ.rdE 1 < 255 ∧ mayRun tD tQ (some 4)) ∧
    (∃ s1, (tD.flushCore (coreOf tD.cur)).writeC 0 tBnd.refreshed tBnd.refreshed.cells = .done none s1) ∧
    names tD tQ (tQ.rdS 1) 6 { tBnd with broken := true } ∧ 64 ≤ (tQ.rdS 2).toNat ∧
    ((tQ.rdS 0).toNat < 64 ∧ Table.find (tD.ctx tQ.asid).spIds (tQ.rdS 0).toNat = none) ∧ (tQ.rdS 1).toNat % 128 ≠ 0 ∧
    (tQ.rdS 11).toNat % 128 = 0 ∧ (∀ q ∈ tDb.pends, q.gid = tDb.cur → q.acq = true → q.hold = true) ∧ bindMet = true ∧
    ((tQ.rdS 2).toNat % 128 = 0 ∧ bindFormless = true) ∧ bindRefused = true := by
  refine ⟨⟨test_ready_dev _, test_names, rfl, test_settled, rfl, by decide +kernel, by decide +kernel, tT, rfl, ?_⟩, test_writes, test_broken,
    by decide +kernel, ⟨by decide +kernel, by decide +kernel⟩, by decide +kernel, by decide +kernel, ?_, by decide +kernel,
    ⟨by decide +kernel, by decide +kernel⟩, by decide +kernel⟩
  · intro c h
    cases h
    decide
  · exact fun _ h => nomatch h

/-- The device with a context whose event queue of bulkhead 0 holds `n` records, enabled or not. -/
def tEv (n : Nat) (en : Bool) : State :=
  { tD with ctxs := [(0, { Ctx.reset with ptRoot := 1, inst := [(0, { CtxBh.reset with evqEn := en, evqCount := n })] })] }

theorem test_ready_ev (n : Nat) (en : Bool) (used : List Nat) : ready (tEv n en) tQ used := ⟨rfl, fun _ _ h => nomatch h⟩

theorem test_witness_Status_rows : (∀ r ∈ statusRows, ∃ (n : Nat) (f : ExtA), ready (tEv n true) tQ (namedA r.op f) ∧
    r.ok (tEv n true) f (f.w2.setWidth 64) tQ) ∧
    (ready (tEv 4096 true) tQ (namedA 0xF7 zA) ∧ ((tEv 4096 true).inst tQ.asid 0).evqCount ≠ 0 ∧ dpaPopulated 0 = true) := by
  refine ⟨fun r hr => ?_, test_ready_ev _ _ _, by decide +kernel, by decide +kernel⟩
  simp only [statusRows, List.mem_cons, List.not_mem_nil, or_false] at hr
  rcases hr with h | h | h | h | h | h | h | h | h <;> subst h
  · exact ⟨0, { zA with a := 3, w2 := 255 }, test_ready_ev _ _ _, by decide, by decide +kernel⟩
  · exact ⟨1, { zA with w2 := 0xFFFFFFFF }, test_ready_ev _ _ _, by decide +kernel, by decide, by decide +kernel⟩
  · exact ⟨0, zA, test_ready_ev _ _ _, trivial⟩
  · exact ⟨0, zA, test_ready_ev _ _ _, trivial⟩
  · exact ⟨0, zA, test_ready_ev _ _ _, trivial⟩
  · exact ⟨0, zA, test_ready_ev _ _ _, trivial⟩
  · exact ⟨0, zA, test_ready_ev _ _ _, trivial⟩
  · exact ⟨0, { zA with d := 60 }, test_ready_ev _ _ _, by decide +kernel, by decide⟩
  · exact ⟨0, zA, test_ready_ev _ _ _, by decide +kernel⟩

theorem test_witness_Engine_requests : ∃ f : ExtA, (tQ.rdS f.a).toNat % 64 = 0 ∧ relReady tD tQ true false ∧ ready tD tQ (namedA 0xED f) ∧
    tQ.rdE 0 + f.w2.toNat ≤ 255 ∧ f.w2 = 64 ∧ tQ.rdE 3 < 255 ∧ tD.fullRate tQ (tQ.rdS f.a) = false :=
  ⟨{ zA with a := 9, w2 := 64 }, by decide +kernel, by unfold relReady; decide +kernel, test_ready_dev _, by decide +kernel, rfl, by decide +kernel,
    by decide +kernel⟩

/-- A record of `n` dwords at an address of the group is read now, as `p` holds of its dwords and the state after. -/
def readMet (n : Nat) (a : DWord) (p : List Nat → State → Bool) : Bool :=
  match tD.readRecord tD.cur tQ (pcOf tD tQ) n a with
  | .dwords ds none s1 => p ds s1 && (s1.pends.isEmpty && (s1.flushCore (coreOf s1.cur)).releaseReady s1.cur
      && (s1.flushCore (coreOf s1.cur)).sysReady s1.cur tQ)
  | _ => false

theorem readMet_met {n : Nat} {a : DWord} {p : List Nat → State → Bool} (sys : Bool) (h : readMet n a p = true) :
    ∃ ds s1, record tD tQ n a ds s1 ∧ p ds s1 = true ∧ relReady s1 tQ true sys := by
  unfold readMet at h
  split at h
  · rename_i ds s1 e
    simp only [Bool.and_eq_true, List.isEmpty_iff] at h
    obtain ⟨hp, ⟨he, hr⟩, hs⟩ := h
    exact ⟨ds, s1, ⟨(fun _ h => nomatch h), e⟩, hp, fun _ => ⟨by simp [he], hr, fun _ => hs⟩⟩
  · cases h

/-- A message that waits for its reply, with the token that s9 holds. -/
def tMail : ActiveMsg :=
  { token := 0x10040, sender := 0, owner := tQ.uid, slot := false, pc := 0x10000, pend := some 9, core := 0, asid := 0, entry := 0x10000, regsCode := 0
    args := [], answered := false }

/-- The device with that message. -/
def tAm : State := { tD with messages := [(4, tMail)] }

theorem test_witness_Handed_records :
    (ready tD tQ [] ∧ relReady tD tQ true false ∧ (∀ m ∈ tD.messages, tQ.rdS 9 ≠ 0 → m.2.token ≠ tQ.rdS 9)) ∧
    (ready tAm tQ [] ∧ relReady tAm tQ true false ∧ tQ.rdS 9 ≠ 0 ∧ tMail.token = tQ.rdS 9 ∧ tMail.answered = false ∧
      tAm.messages.find? (fun x => tQ.rdS 9 != 0 && x.2.token == tQ.rdS 9) = some (4, tMail) ∧ Table.find tAm.messages 4 = some tMail) ∧
    ((tQ.rdS 9).toNat % 64 = 0 ∧ ∃ ds s1, record tD tQ 8 (tQ.rdS 9) ds s1 ∧ (messageRec ds).isSome = true ∧ relReady s1 tQ true false) ∧
    ((tQ.rdS 1).toNat < 2 ^ 24 ∧ ((tD.bh 0).tenders.filter fun t => t.st == .waiting).length < 64 ∧
      ∃ ds s1, record tD tQ 4 (tQ.rdS 9) ds s1 ∧ ds.length = 4 ∧ relReady s1 tQ true false) ∧
    (tQ.sup = true ∧ (tQ.rdS 10).toNat % 32 = 0 ∧
      ∃ ds s1, record tD tQ 4 (tQ.rdS 10) ds s1 ∧ (classRec ds).isSome = true ∧ relReady s1 tQ true false) ∧
    ((tEv 4095 true).inst tQ.asid 0).evqEn = true ∧ ((tEv 4095 true).inst tQ.asid 0).evqCount < 4096 ∧ ((tEv 4096 true).inst tQ.asid 0).evqCount = 4096 ∧
    ((tEv 0 false).inst tQ.asid 0).evqEn = false ∧
    (∃ p s1, tD.resolvePipe tD.cur tQ .globalOnly .atomic true (tQ.rdS 9) 8 = (.ok p, s1) ∧ relReady s1 tQ true false) :=
  ⟨⟨test_ready_dev _, by unfold relReady; decide +kernel, by decide +kernel⟩,
    ⟨⟨rfl, fun _ _ h => nomatch h⟩, by unfold relReady; decide +kernel, by decide +kernel, by decide +kernel, rfl, by decide +kernel, rfl⟩,
    ⟨by decide +kernel, readMet_met (p := fun ds _ => (messageRec ds).isSome) false (by decide +kernel)⟩,
    ⟨by decide +kernel, by decide +kernel, by simpa using readMet_met (p := fun ds _ => ds.length == 4) false (by decide +kernel)⟩,
    ⟨rfl, by decide +kernel, readMet_met (p := fun ds _ => (classRec ds).isSome) false (by decide +kernel)⟩,
    by decide +kernel, by decide +kernel, by decide +kernel, by decide +kernel, _, _, rfl, by unfold relReady; decide +kernel⟩

/-- The device with two contexts resident on core 0. -/
def tTwin : State := tD.modCore 0 fun c => { c with resident := [0, 1] }

theorem test_witness_Switch_and_inject : ∃ (f : ExtA),
    (ready (tS tG) tG (namedA 0x1D f) ∧ tG.sup = false) ∧ (ready tD tQ (namedA 0x1D f) ∧ tQ.sup = true ∧ tQ.rdS 0 = 0) ∧
    ((tQ.rdS 1).extractLsb' 24 40 = 0 ∧ (tQ.rdS 1).getLsbD 0 = true ∧ (tQ.rdS 4).extractLsb' 24 40 ≠ 0) ∧
    (ready tTwin tQ (namedA 0x1D f) ∧ tTwin.switchable 0 = true) ∧
    (ready tD tQ [f.a.toNat] ∧ f.w2 = 1 ∧ windowOf (tQ.rdS f.a) = .global ∧
      ∃ dpa va nc priv s1, tD.resolvePipe tD.cur tQ .globalOnly .store false (tQ.rdS f.a) 1 = (.ok [(0, 1, .mem dpa va nc priv)], s1) ∧
        s1.gateCheck (bhOf tD.cur) (dpa / 2 ^ 16) 2 = none) :=
  ⟨{ zA with a := 9, w2 := 1 }, ⟨test_ready _, rfl⟩, ⟨test_ready_dev _, rfl, by decide +kernel⟩,
    ⟨by decide +kernel, by decide +kernel, by decide +kernel⟩, ⟨⟨rfl, fun _ _ h => nomatch h⟩, by decide +kernel⟩, test_ready_dev _, rfl, by decide +kernel, _, _, _, _, _, rfl,
    by decide +kernel⟩

/-- The device with that message in flight. -/
def tNet (k : MsgKind) : State := { tD with net := [tMsg k] }

/-- The kinds that the rows of the memory system take, one for each row. -/
def rowKinds : List MsgKind :=
  [.siLoad, .ownLoad, .ownAtomic, .wtStore, .ncAtomic, .scAtomic, .scatterStore, .watch .eq, .grant, .revoke, .forward, .fill, .ack,
    .watchRetry .eq, .siLoad]

/-- The same, where core 1 owns the word that a load of core 0 reads. -/
def tHeldBy : State := { tNet .siLoad with owners := [(16384, 1)] }

theorem test_witness_Home_slices :
    ((msgRows.zip rowKinds).all fun x => x.1.takes x.2 && !x.1.takes .amReply) = true ∧ msgRows.length = rowKinds.length ∧
    (tNet .amReply).msg? 3 = some (tMsg .amReply) ∧ (tNet (.objInval 0 0)).msg? 3 = some (tMsg (.objInval 0 0)) ∧
    (∃ m : Msg, tD.ownsAll m.core m.dpa m.size = false ∧ m.gen ≠ tD.genOf m.dpa) ∧
    (∃ s : State, s.ownsAll (tMsg .siLoad).core (tMsg .siLoad).dpa (tMsg .siLoad).size = false ∧
      (tMsg .siLoad).gen = s.genOf (tMsg .siLoad).dpa ∧ s.quiesced (tMsg .siLoad).dpa = true) ∧
    (admitted tHeldBy (tMsg .siLoad) ∧ tHeldBy.foreignOwned 0 0x10000 4 ≠ []) ∧
    (servable (tNet .siLoad) (tMsg .siLoad) ∧ plainBytes (tNet .siLoad) (tMsg .siLoad)) ∧
    (servable (tNet .wtStore) (tMsg .wtStore) ∧ plainBytes (tNet .wtStore) (tMsg .wtStore) ∧ noGrants (tNet .wtStore)) :=
  ⟨by decide +kernel, by decide +kernel, rfl, rfl, ⟨{ tMsg .siLoad with gen := 1 }, by decide +kernel, by decide +kernel⟩,
    ⟨tD.modBh 0 fun b => { b with qReg := 0xFF, qBusy := true }, by decide +kernel, by decide +kernel, by decide +kernel⟩,
    ⟨by unfold admitted; decide +kernel, by decide +kernel⟩,
    ⟨⟨by unfold admitted; decide +kernel, by decide +kernel⟩, by decide +kernel, by decide +kernel, by decide +kernel⟩,
    ⟨by unfold admitted; decide +kernel, by decide +kernel⟩, ⟨by decide +kernel, by decide +kernel, by decide +kernel⟩, by unfold noGrants; decide +kernel⟩

theorem test_witness_Cache_maintenance : ∃ (s : State) (v bad : DWord),
    (s.line 0).pins ≠ [] ∧ ((s.line 1).pins = [] ∧ s.quiet (128 * 1) 128 = true) ∧ (tNet .grant).quiet (128 * 512) 128 = false ∧ s.group? 0 = some { tQ with absQueue := [7] } ∧
    (∀ r ∈ changedRegions (s.bh 0).hmask v, selectorOk (selector v r) = true ∧ (s.bh 0).qReg.getLsbD r = true) ∧
    changedRegions (s.bh 0).hmask v = [7] ∧
    (∃ r ∈ changedRegions (s.bh 0).hmask bad, selectorOk (selector bad r) = false ∨ (s.bh 0).qReg.getLsbD r = false) ∧
    (s.bh 1).qBusy = false ∧ ((s.bh 0).qBusy = true ∧ (s.bh 0).capturesSent = true ∧ s.acceptedDone 0 = true) ∧
    (s.bh 0).wbGo = true ∧ (s.bh 1).wbGo = false ∧ ∀ m ∈ s.net, m.kind ≠ .grant :=
  ⟨{ (tD.modBh 0 fun b => { b with qReg := 0x80, qBusy := true, wbGo := true }) with
      lines := [(0, { dirty := false, firstStamp := 0, pins := [(0, 1)], reads := [], helpers := [], replicaOf := none })]
      groups := [(0, { tQ with absQueue := [7] })] }, 0x0608080808080808, 0x0808080808080806, by decide +kernel, by decide +kernel, by decide +kernel, rfl,
    by decide +kernel, by decide +kernel, ⟨0, by decide +kernel, by decide +kernel⟩, by decide +kernel, ⟨by decide +kernel, by decide +kernel, by decide +kernel⟩,
    by decide +kernel, by decide +kernel, by decide +kernel⟩

theorem test_witness_Device_registers : ∃ (s : State) (v bad : DWord), v.getLsbD 63 = true ∧ shapeFits s 7 v ∧ bad.getLsbD 63 = true ∧
    ¬ shapeFits s 7 bad ∧ (∃ w0 w1 : DWord, w0.getLsbD 63 = true ∧ gateEntryForm 0 false w0 w1 = true) ∧
    (∃ w0 w1 : DWord, w0.getLsbD 63 = true ∧ gateEntryForm 0 false w0 w1 = false) ∧
    (∃ s : State, s.bootStage = .tadpole) ∧ State.reset.bootStage ≠ .tadpole ∧ (State.reset.bh 0).down = false ∧
    (({ State.reset with bhs := [(0, { Bulkhead.reset with rstPhase := .logic })] } : State).bh 0).down = true :=
  ⟨State.reset, 0x8000000100000016, 0x8000000100000023, by decide, by unfold shapeFits; decide +kernel, by decide, by unfold shapeFits; decide +kernel,
    ⟨0x8800000000100000, 0x100000, by decide, by decide +kernel⟩, ⟨0x8000000000000000, 0, by decide, by decide +kernel⟩,
    ⟨{ State.reset with bootStage := .tadpole }, rfl⟩, by decide +kernel, by decide +kernel, by decide +kernel⟩

/-- A descriptor of frame 1 with a state and a reference count, at its place in bulkhead 0's frame table at 0x60000. -/
def tFd (st ref : Nat) : State :=
  (tD.modBh 0 fun b => { b with fdtBase := 0x60000 }).setFd 1 (st * 2 ^ 61 + ref)

/-- The device with a shootdown, and a request that it waits for or not. -/
def tShot (k : MsgKind) : State :=
  { tNet k with shoots := [{ id := 4, asid := none, first := 0, count := 1, revoke := false, frames := [], cmd := false, holds := [], barrier := [3], gid := none, pend := none }] }

theorem test_witness_Translation_commands : tD.current = some tQ ∧ framePopulated (1 : BitVec 23).toNat = true ∧
    framePopulated (0xFFFFF : BitVec 23).toNat = false ∧
    (fdSt ((tFd 1 3).fd 1) = 1 ∧ 1 < fdRef ((tFd 1 3).fd 1) ∧ fdRef ((tFd 1 3).fd 1) ≠ 0xFFFF) ∧
    (fdSt ((tFd 1 0xFFFF).fd 1) = 1 ∧ fdRef ((tFd 1 0xFFFF).fd 1) = 0xFFFF) ∧ fdRef ((tFd 1 0).fd 1) = 0 ∧ fdRef ((tFd 1 1).fd 1) = 1 ∧
    fdSt ((tFd 3 0).fd 1) ≠ 1 ∧ (tD.bh 1).poolCount = 0 ∧ ((tD.bh 0).poolCount ≠ 0 ∧ (tD.bh 0).poolHead ≠ 0x7FFFFF) ∧
    dpaPopulated ((tFd 1 3).fdAddr 1) = true ∧ (tQ.ptVa.extractLsb' 55 9 = 0 ∧ ({ tQ with ptVa := 0x80000000000000 } : Group).ptVa.extractLsb' 55 9 ≠ 0) ∧
    (tableOk (tD.ctx tQ.asid).root = true ∧ tD.entryAt 0 0 4 (tD.ctx tQ.asid).root = some 0x46000 ∧
      tD.entryAt 0xFFFFFFFFFFFF 0 4 (tD.ctx tQ.asid).root = none ∧ tD.entryOk 0 0 = true ∧ tD.entryOk (2 ^ 63 + 2 ^ 61) 1 = false ∧
      sameEntry (BitVec.ofNat 64 (tD.loadNow 0x46000 8)) 1 = false ∧ sameEntry (BitVec.ofNat 64 (tD.loadNow 0x46000 8)) tQ.ptOld = true ∧
      dpaPopulated 0x46000 = true) ∧
    (tD.entryAt 0x10000 0 4 (tD.ctx tQ.asid).root = some 0x46008 ∧ (BitVec.ofNat 64 (tD.loadNow 0x46008 8)).getLsbD 63 = true) ∧
    tableOk (2 ^ 39) = false ∧
    (∃ x, (tShot .siLoad).shoots.find? (fun y => y.id == 4) = some x ∧ (tShot .siLoad).shootReady x = false ∧ (tShot .fill).shootReady x = true) ∧
    tH.hnd = true ∧ tG.hnd = false ∧ noGrants tD ∧ (∃ s : State, s.shootGo = true) ∧ tD.shootGo = false := by
  refine ⟨rfl, ?_, ?_, ?_, by decide +kernel, ?_, ?_, ?_,
    by decide +kernel, ?_, ?_, ?_, by decide +kernel, ?_, by decide, ⟨_, rfl, by decide +kernel, by decide +kernel⟩, rfl, rfl,
    (fun _ h => nomatch h), ⟨{ tD with shootGo := true }, rfl⟩, rfl⟩ <;> decide +kernel

theorem test_witness_Bulkhead_resets : ∃ (s : State) (x : Bulkhead), Table.find s.bhs 7 = some x ∧ x.rstPhase = .idle ∧
    (x.wdogEn = true ∧ x.wdogSince + 2000 * x.wdogPeriod ≤ s.clock) ∧ (Bulkhead.reset).wdogEn = false ∧
    (∀ p : ResetPhase, ∃ y : Bulkhead, Table.find [(7, { x with rstPhase := p })] 7 = some y ∧ y.rstPhase = p) ∧
    ((128 : DWord).getLsbD 7 = true ∧ 7 ∉ State.reset.tenantShape 0) ∧
    (((2 : DWord) ^ 63 + 128).getLsbD 7 = true ∧ ((2 : DWord) ^ 63 + 128).getLsbD 63 = true ∧
      7 ∈ ({ State.reset with tntShape := State.reset.tntShape.set 0 0x8000000000000007 } : State).tenantShape 0) ∧
    (∃ t : State, t.bootStage = .tadpole ∧ Table.find t.bhs 7 = some x) ∧ State.reset.bootStage ≠ .tadpole :=
  ⟨{ (State.reset.modBh 7 fun b => { b with wdogEn := true }) with clock := 2000000000 }, { Bulkhead.reset with wdogEn := true }, rfl, rfl,
    by decide +kernel, rfl, fun p => ⟨_, rfl, rfl⟩, by decide +kernel, by decide +kernel,
    ⟨{ State.reset.modBh 7 fun b => { b with wdogEn := true } with bootStage := .tadpole }, rfl, rfl⟩, by decide +kernel⟩

/-- A request code of the mailbox: its operation in bits 63:56. -/
def mbxWord (op : Nat) : DWord := BitVec.ofNat 64 (op * 2 ^ 56)

/-- Each value of a command and each stage that a clause asks for exists; whether an image verifies is a free value (log 11), and
either answer falls under a clause. -/
theorem test_witness_Starts_and_recovery :
    (∀ b : BootStage, ∃ s : State, s.bootStage = b) ∧ (∀ b o d, ∃ s : State, s.bootStage = .tadpole ∧ s.mbxBusy = b ∧ s.mbxOpen = o ∧ s.tadDone = d ∧
      s.tadReq = false ∧ s.bootFails < Config.bootLimit) ∧
    (∀ s : State, s.verify = none ∨ ∃ r, s.verify = some r) ∧
    ([1, 2, 3, 4].all fun op => ((mbxWord op).extractLsb' 56 8).toNat == op && (mbxWord op).extractLsb' 32 24 == 0 &&
      (mbxWord op).extractLsb' 0 12 == 0) = true ∧ ((mbxWord 5).extractLsb' 56 8).toNat = 5 ∧ (0x4000000000000000 : DWord).getLsbD 62 = true :=
  ⟨fun b => ⟨{ State.reset with bootStage := b }, rfl⟩, fun b o d => ⟨{ State.reset with bootStage := .tadpole, mbxBusy := b, mbxOpen := o, tadDone := d }, rfl, rfl, rfl, rfl, rfl, (by decide : 0 < Config.bootLimit)⟩,
    fun s => by cases s.verify <;> simp, by decide +kernel, by decide, by decide⟩

/-- The device with the fabric gate open, its own number 0, one exported domain of devices 0 to 1023 for tenant 0 and context 0,
launches admitted on queue 0, a bucket of 5, port 1 in a state, a posted write, the packet of a launch to device 1, and at 0x10200 a
launch record of one team of one group. -/
def tFab (p : PortState) : State :=
  let m : FabWait := { id := 6, msg := { tMsg .reply with id := 6 }, device := 1, since := 0, keep := false }
  { tD with
    home := Memory.put (Memory.put tD.home 0x1020A 1) 0x1020D 1
    fabCfg := 0x8000000000000000, tntFab := tD.tntFab.set 0 0x000083FF00000000, tntQrate := tD.tntQrate.set 0 0x0001000000050005
    ports := tD.ports.set 1 p, peerPort := [(1, 1)], tokens := [(0, 5)], fabWaits := [m]
    posted := [{ id := 5, gid := 0, slot := false, pc := 0, lane := 0, va := 0, device := 1, offset := 0, size := 4, data := 0, poison := false, lost := false }] }

/-- A request of a peer for 4 bytes at an offset of the exported context. -/
def tReq (k : FabKind) (offset : Nat) : FabReq :=
  { kind := k, tid := 0, device := 1, offset := offset, size := 4, data := 0, cmp := 0, counter := 0, poison := false }

/-- A launch packet whose record is at 0x10200, to queue 0 of bulkhead 0. -/
def tPacket : List Byte := ((List.replicate 64 0).set 1 2).set 2 1

/-- A launch of the outside world is accepted. -/
def extLaunched (r : ExtAns (Except Cause Nat)) : Bool :=
  match r with
  | .done (.ok _) _ => true
  | _ => false

theorem extLaunched_met {r : ExtAns (Except Cause Nat)} (h : extLaunched r = true) : ∃ k s1, r = .done (.ok k) s1 := by
  unfold extLaunched at h
  split at h
  · exact ⟨_, _, rfl⟩
  · cases h

/-- An access of the outside world is performed now. -/
def extDone {α : Type} (r : ExtAns α) : Bool :=
  match r with
  | .done _ _ => true
  | _ => false

theorem extDone_met {α : Type} {r : ExtAns α} (h : extDone r = true) : ∃ a s1, r = .done a s1 := by
  unfold extDone at h
  split at h
  · exact ⟨_, _, rfl⟩
  · cases h

/-- An access of the outside world faults now. -/
def extFaults {α : Type} (r : ExtAns α) : Bool :=
  match r with
  | .fault _ => true
  | _ => false

theorem extFaults_met {α : Type} {r : ExtAns α} (h : extFaults r = true) : ∃ c, r = .fault c := by
  unfold extFaults at h
  split at h
  · exact ⟨_, rfl⟩
  · cases h

/-- A launch of the outside world ends with a cause. -/
def extRefused (r : ExtAns (Except Cause Nat)) : Bool :=
  match r with
  | .done (.error _) _ => true
  | _ => false

theorem extRefused_met {r : ExtAns (Except Cause Nat)} (h : extRefused r = true) : ∃ c s1, r = .done (.error c) s1 := by
  unfold extRefused at h
  split at h
  · exact ⟨_, _, rfl⟩
  · cases h

/-- A peer's request reaches its bytes, and `p` holds of the state with the counters taken. -/
def fabMet (r : FabReq) (p : State → Bool) : Bool :=
  match (tFab .up).reach false ((tFab .up).exportAsid 0) .load r.offset r.size with
  | .done ps _ => p ((ps.map fun p => p.2.2).foldl (fun s d => s.lcsTake d r.counter) (tFab .up))
  | _ => false

theorem fabMet_met {r : FabReq} {p : State → Bool} (h : fabMet r p = true) : ∃ ps s0,
    (tFab .up).reach false ((tFab .up).exportAsid 0) .load r.offset r.size = .done ps s0 ∧
      p ((ps.map fun p => p.2.2).foldl (fun s d => s.lcsTake d r.counter) (tFab .up)) = true := by
  unfold fabMet at h
  split at h
  · rename_i ps s0 hr
    exact ⟨ps, s0, hr, h⟩
  · cases h

/-- A read, a write and an atomic of a peer can be performed now. -/
def fabDone (s1 : State) : Bool :=
  extDone (s1.outsideRead false ((tFab .up).exportAsid 0) 0x10000 4) && extDone (s1.outsideWrite false ((tFab .up).exportAsid 0) 0x10000 4 0 false) &&
    extDone (s1.outsideAtomic false ((tFab .up).exportAsid 0) 0x10000 4 .add true 0 0)

theorem test_witness_Fabric_steps :
    ((tFab .up).exporter 1 1 = none ∧ (2 : Nat) ^ 42 < (tReq (.load false) (2 ^ 42)).offset + (tReq (.load false) (2 ^ 42)).size) ∧
    ((tFab .up).exporter (tReq (.load false) 0x10000).tid (tReq (.load false) 0x10000).device = some 0 ∧
      (tReq (.load false) 0x10000).offset + (tReq (.load false) 0x10000).size ≤ 2 ^ 42) ∧
    (∀ k ∈ [FabKind.load false, .store true, .atomic .add true], ∃ ps s0,
      (tFab .up).reach false ((tFab .up).exportAsid 0) .load (tReq k 0x10000).offset (tReq k 0x10000).size = .done ps s0 ∧
        fabDone ((ps.map fun p => p.2.2).foldl (fun s d => s.lcsTake d (tReq k 0x10000).counter) (tFab .up)) = true) ∧
    (∀ x ∈ [PortState.up, .retraining], ∃ p, (tFab x).posted.find? (fun p => p.id == 5 && !p.lost) = some p ∧ p.device ≠ (tFab x).devId ∧
      (tFab x).linkUp p.device = (x == .up)) ∧
    (tFab .up).posted.find? (fun p => p.id == 9 && !p.lost) = none ∧ (tFab .up).linkOf 1 ≠ .retraining ∧ (tFab .retraining).linkOf 1 = .retraining ∧
    (tFab .up).portState 1 = .up ∧ (tFab .training).portState 1 ≠ .up ∧
    ({ tFab .up with clock := 2000000 } : State).clock / 2000000 > Table.findD (tFab .up).tokens 64 0 ∧
    (∃ (bs : List Byte), bs.length = 64 ∧ (tFab .up).exporter (BitVec.ofNat 16 (packetDword (packetOf bs) 1)) 1 = some 0 ∧
      ∃ k s1, (tFab .up).launchPacket 1 (packetOf bs) = .done (.ok k) s1) ∧
    (∃ (bs : List Byte), bs.length = 64 ∧ ∃ c s1, (tFab .up).launchPacket 1 (packetOf bs) = .done (.error c) s1) ∧
    (∃ (bs : List Byte), bs.length = 64 ∧ (tFab .up).exporter (BitVec.ofNat 16 (packetDword (packetOf bs) 1)) 1 = none) ∧
    (∃ w, (tFab .up).packetOfGroup 0 = some w ∧ w.device ≠ (tFab .up).devId ∧ (tFab .up).linkUp w.device = true) ∧
    (tFab .up).packetOfGroup 1 = none ∧
    (ready tHeld tM [] ∧ tHeld.held? tHeld.cur tHeld.curSlot (pcOf tHeld tM) = some tP ∧ tP.left = 0) ∧
    (tD.held? tD.cur tD.curSlot (pcOf tD tQ) = none ∧ (tQ.rdS 8).toNat < 1024 ∧ (tQ.rdS 9).toNat % 64 = 0 ∧
      ∃ ds s1, record tD tQ 8 (tQ.rdS 9) ds s1 ∧ (s1.flushCore (coreOf tD.cur)).deviceOk (bhOf tD.cur) (tQ.rdS 8).toNat = false ∧
        relReady s1 tQ true true) := by
  refine ⟨⟨by decide +kernel, by decide⟩, ⟨by decide +kernel, by decide⟩,
    (fun k hk => fabMet_met (r := tReq k 0x10000) (p := fabDone) (by revert k hk; decide +kernel)),
    (fun x hx => ⟨_, rfl, by revert x; decide +kernel, by revert x; decide +kernel⟩), ?_, ?_, ?_, by decide +kernel, ?_,
    ?_, ⟨tPacket, by decide, by decide +kernel, extLaunched_met (by decide +kernel)⟩,
    ⟨(List.replicate 64 0).set 11 1, by decide, extRefused_met (by decide +kernel)⟩, ⟨(List.replicate 64 0).set 8 1, by decide, by decide +kernel⟩, ⟨_, rfl, by decide +kernel, by decide +kernel⟩, by decide +kernel,
    ⟨test_ready_held _, rfl, rfl⟩, by decide +kernel, by decide +kernel, by decide +kernel,
    by simpa using readMet_met (p := fun _ s1 => (s1.flushCore (coreOf tD.cur)).deviceOk (bhOf tD.cur) (tQ.rdS 8).toNat == false) true (by decide +kernel)⟩ <;> decide +kernel

/-- The device with the endpoint up, function 0's aperture mapped to page 1 of context 0, and a doorbell rung. -/
def tHost : State :=
  { tFab .up with endpointUp := true, aperture := [(0, (65536, 0, 0x10000))], doorbells := [(0, 0x10040), (256, 0x10000)] }

/-- The same with the aperture mapped to a page that is absent. -/
def tHostAbsent : State := { tHost with aperture := [(0, (65536, 0, 0x50000))] }

/-- The same with a read of function 0 kept. -/
def tHostKept : State :=
  { tHost with outside := [{ id := 12, vf := some 0, asid := 0, va := 0x50000, size := 4, kind := .read, cause := some .pageAbsent }] }

/-- The device with the first launch of function 0's queue taken. -/
def tTaken : State := { tHost with doorbells := Table.set tHost.doorbells 256 0x10001 }

theorem test_witness_Host_port :
    State.reset.endpointUp = false ∧ tHost.endpointUp = true ∧ hostMaps tHost 0 65536 1 = none ∧
    hostMaps { tHost with tntShape := State.reset.tntShape } 0 0 1 = none ∧ tHost.hostBehind = false ∧ (entry8 State.reset.tntShape 0).getLsbD 63 = false ∧
    (∃ asid va, hostMaps tHost 0 65535 1 = some (asid, va) ∧ ∃ a s1, tHost.outsideRead true asid va 1 = .done a s1) ∧
    (∃ asid va, hostMaps tHostAbsent 0 65535 1 = some (asid, va) ∧ tHostAbsent.hostBehind = false ∧
      ∃ c, tHostAbsent.outsideRead true asid va 1 = .fault c) ∧
    (∃ asid va, hostMaps tHost 0 0 4 = some (asid, va) ∧ ∃ a s1, tHost.outsideWrite true asid va 4 0x01020304 false = .done a s1) ∧
    (tHostKept.hostBehind = true ∧ hostMaps tHostKept 0 0 4 = some (0, 0x10000) ∧ (entry8 tHostKept.tntShape 0).getLsbD 63 = true) ∧
    (noKeptLaunch tHost 0 0 ∧ Table.findD tHost.doorbells 256 0 ≠ Table.findD tHost.doorbells 0 0 ∧
      1 ∉ shapeBulkheads (entry8 tHost.tntShape 0) ∧ 0 ∈ shapeBulkheads (entry8 tHost.tntShape 0) ∧
      (entry8 tHost.tntShape 0).getLsbD 63 = true ∧ (entry8 tHost.tntQrate 0).getLsbD 48 = true ∧
      ∃ k s1, tTaken.launchOutside true (bits (tHost.fabEntry 0) 63 48) 0 0 0x10200 = .done (.ok k) s1) ∧
    (∃ (s : State) (g : Group), s.group? 0 = some g ∧ g.wait = .sysRelease) := by
  refine ⟨rfl, rfl, by decide +kernel, by decide +kernel, by decide +kernel, by decide +kernel, ⟨0, 0x1FFFF, by decide +kernel, extDone_met (by decide +kernel)⟩,
    ⟨0, 0x5FFFF, by decide +kernel, by decide +kernel, extFaults_met (by decide +kernel)⟩,
    ⟨0, 0x10000, by decide +kernel, extDone_met (by decide +kernel)⟩, ⟨by decide +kernel, by decide +kernel, by decide +kernel⟩,
    ⟨(fun _ h => nomatch h), ?_, ?_, ?_, by decide +kernel, ?_,
      extLaunched_met (by decide +kernel)⟩, ⟨tS { tG with wait := .sysRelease }, _, rfl, rfl⟩⟩ <;> decide +kernel

/-- The device with PRE_CMD of bulkhead 0 running a grade until a time, or none. -/
def tPre (grade : Nat) (limit : Option Nat) : State :=
  tD.modBh 0 fun b =>
    { b with preGo := true, pre0 := BitVec.ofNat 64 (2 ^ 63 + grade * 2 ^ 60), preCur0 := BitVec.ofNat 64 (2 ^ 63 + grade * 2 ^ 60), preEnd := limit }

/-- The device evicting gang 0, of whose group the drain of ABSMAX is not over. -/
def tDrainAbs : State :=
  { (tPre 3 (some 1)).modBh 0 fun b => { b with preEvicting := [0] } with groups := [(0, { tQ with absQueue := [7] })], pends := [] }

/-- The device running a cut with a target, in context 0. -/
def tCut : State :=
  { ((tPre 2 (some 1)).modInst 0 0 fun i => { i with cutPending := true, cutTarget := 0 }) with groups := [(0, { tQ with wait := .cutStop })] }

/-- A group that has waited in `park`, with no event, longer than the swap limit; the free frames begin at one. -/
def tSwap (head : Nat) : State :=
  let g : Group := { tQ with wait := .park, waitSince := 0 }
  { ((tR g).modBh 0 fun b => { b with cyc := 1000, poolCount := 20000, poolHead := head }) with
    home := tTables, ctxs := [(0, { Ctx.reset with ptRoot := 0x40001, waitSwap := 10 })]
    pends := [] }

/-- The command words of each grade for context 0, with GO, without it, and for a context that does not exist. -/
def preWord (grade : Nat) (go : Bool) (asid : Nat) : DWord := BitVec.ofNat 64 ((if go then 2 ^ 63 else 0) + grade * 2 ^ 60 + asid)

/-- The gang of group 0 as an eviction saves it, with an object that already holds the awaited value. -/
def tSaved : Saved := { tD.savedOf 0 0 0 [] with watch := [(0x40000, 0)] }

/-- The device with that gang saved and not present. -/
def tOut (x : Saved) : State := { tD with groups := [], teams := [], units := [], saved := [(0, x)] }

/-- The gang of a state can be swapped out now: its image is built, there are frames for it, and its write fails or not. -/
def swapMet (s : State) (gang : Nat) (fails : Bool) : Bool :=
  match s.gangLead gang with
  | none => false
  | some (_, t) =>
    let s0 := t.cores.foldl (fun s c => s.flushCore c) s
    let r := s0.imageOf t.asid t.bh [s0.savedOf gang t.bh t.asid []]
    s.swapDue gang && s0.gangQuiet gang && !(s.bh t.bh).preEvicting.contains gang && decide (framesFor r.2.1 ≤ (r.2.2.bh t.bh).poolCount)
      && imageFails (r.2.2.engineFrames t.bh (framesFor r.2.1)).1 == fails

theorem test_witness_Preemption :
    (tPre 1 none).bh 0 ≠ tD.bh 0 ∧ ((tPre 1 none).bh 0).preGo = true ∧ (tD.bh 0).preGo = false ∧ (preWord 2 false 0).getLsbD 63 = false ∧
    ((preWord 0 true 0).getLsbD 63 = true ∧ preRefused tD 0 (preWord 0 true 0)) ∧ preRefused tD 0 (preWord 1 true 9) ∧ preRefused tD 0 (preWord 7 true 0) ∧
    (∀ n ∈ [1, 2, 3, 4, 5, 6], (preWord n true 0).getLsbD 63 = true ∧ gradeOf (preWord n true 0) = n ∧ ¬ preRefused tD 0 (preWord n true 0)) ∧
    (∀ g ∈ tD.jobGroups 0 0, g.2.ended = false → g.2.stepCount.toNat ≤ ((7 : DWord).extractLsb' 0 32).toNat) ∧
    (7 : DWord).extractLsb' 0 32 ≠ 0 ∧ Table.sorted tD.groups = true ∧
    ((tPre 1 (some 0)).preRuns 0 1 = true ∧ (tPre 1 (some 0)).preLate 0 = true) ∧ tD.preRuns 0 1 = false ∧
    (tCut.preRuns 0 2 = true ∧ (tCut.inst (tCut.preAsid 0) 0).cutPending = true ∧
      ∀ g ∈ tCut.jobGroups (tCut.preAsid 0) 0, g.2.reached (tCut.inst (tCut.preAsid 0) 0).cutTarget = true) ∧
    tD.preRuns 0 2 = false ∧ ((tPre 2 (some 0)).preRuns 0 2 = true ∧ (tPre 2 (some 0)).preLate 0 = true) ∧
    ((tPre 3 (some 0)).preRuns 0 3 = true ∧ (tPre 3 (some 0)).preLate 0 = true) ∧ tD.preRuns 0 3 = false ∧
    ((tPre 3 (some 1)).preRuns 0 3 = true ∧ (tPre 3 (some 1)).preLate 0 = false ∧
      ∀ g ∈ ((tPre 3 (some 1)).bh 0).preEvicting, (tPre 3 (some 1)).gangQuiet g = true) ∧
    tD.swapDue 9 = false ∧ Table.find tD.saved 0 = none ∧
    (Table.find (tOut tSaved).saved 0 = some tSaved ∧ (tOut tSaved).savedSatisfied tSaved = true ∧
      ((tOut tSaved).bh tSaved.bh).rstPhase = .idle ∧ (tOut tSaved).nextHead 0 ((tOut tSaved).savedPrio tSaved + 1) = none ∧ ((tOut tSaved).savedFit tSaved (fun _ => true)).isSome = true) ∧
    (Table.find (tOut { tSaved with watch := [] }).saved 0 = some { tSaved with watch := [] } ∧
      (tOut { tSaved with watch := [] }).savedSatisfied { tSaved with watch := [] } = false) ∧ swapMet (tSwap 5) 0 false = true ∧ swapMet (tSwap 0xFFFFF) 0 true = true ∧
    (tDrainAbs.preRuns 0 3 = true ∧ tDrainAbs.preLate 0 = false ∧ (∀ g ∈ (tDrainAbs.bh 0).preEvicting, tDrainAbs.gangReleased g = true) ∧
      ∃ g ∈ (tDrainAbs.bh 0).preEvicting, tDrainAbs.gangQuiet g = false) := by
  refine ⟨?_, ?_, ?_, by decide +kernel, ⟨by decide +kernel, .inl (by decide +kernel)⟩,
    .inr (.inr (by decide +kernel)), .inr (.inl (by decide +kernel)), by unfold preRefused; decide +kernel, by decide +kernel, by decide, by decide +kernel,
    ⟨by decide +kernel, by decide +kernel⟩, by decide +kernel, ⟨by decide +kernel, by decide +kernel, by decide +kernel⟩,
    by decide +kernel, ⟨by decide +kernel, by decide +kernel⟩, ⟨by decide +kernel, by decide +kernel⟩, by decide +kernel,
    ⟨by decide +kernel, by decide +kernel, by decide +kernel⟩, by decide +kernel, by decide +kernel,
    ⟨rfl, by decide +kernel, by decide +kernel, by decide +kernel, by decide +kernel⟩, ⟨rfl, by decide +kernel⟩, by decide +kernel, by decide +kernel,
    by decide +kernel, by decide +kernel, by decide +kernel, 0, by decide +kernel, by decide +kernel⟩ <;> decide +kernel

/-- A work class of context 0 in a group of 8 registers. -/
def tClass : ClassRec := { steps := [], entry := 0x10000, asid := 0, spad := 0, groups := 1, regsCode := 0, replay := 0, vbc := false }

/-- A tender of that class in a state, which core 2 has won where it is awarded. -/
def tTender (st : TenderState) : Tender :=
  { seq := 4, cls := 0, args := 9, mask := 0xFFFFFF, owner := 0, core := 0, pc := 0, asid := 0, st := st, work := some tClass, done := 0
    since := 0, win := 0, lim := 4, excluded := [], bids := [(2, 5), (3, 5)], lost := [], winner := 2, cost := 5, wdrawn := 0 }

/-- The device with that tender, a task for core 0, and core 2 with the context in it or not. -/
def tTend (st : TenderState) (here : Bool) : State :=
  let task : Task := { bh := 0, seq := 3, work := tClass, args := 0, done := 0, tenderer := 0 }
  ((tD.modBh 0 fun b => { b with tenders := [tTender st] }).modCore 0 fun k => { k with tasks := [task] }).modCore 2 fun k =>
    { k with switchedIn := if here then some 0 else none }

/-- The device with message 8 for core 0, of one group of 8 registers, or with no message of that number. -/
def tInbox (present : Bool) : State :=
  let m : ActiveMsg := { token := 1, sender := 0, owner := 0, slot := false, pc := 0, pend := none, core := 0, asid := 0, entry := 0x10000
                         regsCode := 0, args := [], answered := false }
  { (tD.modCore 0 fun k => { k with inbox := [8] }) with messages := if present then [(8, m)] else [] }

theorem test_witness_Chorus_and_tasks :
    ((tTend .bidding true).bh 0).served?.isSome = true ∧
    (((tTend .waiting true).bh 0).served? = none ∧
      (((tTend .waiting true).bh 0).tenders.find? fun t => t.st == .waiting) = some (tTender .waiting)) ∧
    (((tTend .bidding true).bh 0).served? = some (tTender .bidding) ∧ (tTender .bidding).st = .bidding ∧
      (tTender .bidding).since + (tTender .bidding).win ≤ (tTend .bidding true).clock ∧
      winnerOf (tTender .bidding).seq (tTender .bidding).bids = some (2, 5)) ∧
    (∃ (s : State) (t : Tender), (s.bh 0).served? = some t ∧ t.st = .bidding ∧ s.clock < t.since + t.win) ∧
    (∃ (s : State) (t : Tender), (s.bh 0).served? = some t ∧ t.st = .bidding ∧ t.since + t.win ≤ s.clock ∧ winnerOf t.seq t.bids = none) ∧
    tD.award? 0 = none ∧
    ((tTend .awarded true).award? 0 = some (tTender .awarded, tClass) ∧ (tTend .awarded true).mustWithdraw 0 (tTender .awarded) tClass = false) ∧
    ((tTend .awarded false).award? 0 = some (tTender .awarded, tClass) ∧ (tTend .awarded false).mustWithdraw 0 (tTender .awarded) tClass = true) ∧
    (∀ t ∈ (tD.bh 0).tenders, t.st ≠ .waiting ∧ t.inService = false) ∧ (tD.core 0).tasks = [] ∧
    (∃ t rest, ((tTend .waiting true).core 0).tasks = t :: rest ∧ (tTend .waiting true).isResident 0 t.work.asid = true ∧
      ((tTend .waiting true).fitOn 0 t.work.asid t.grid.launch.need).isSome = true) ∧
    (∃ (s : State) (t : Task) (rest : List Task), (s.core 0).tasks = t :: rest ∧ s.isResident 0 t.work.asid = false) ∧
    (tD.core 0).inbox = [] ∧
    (∃ m f, ((tInbox true).core 0).inbox = [8] ∧ Table.find (tInbox true).messages 8 = some m ∧ ((tInbox true).core 0).quarantined = false ∧
      (tInbox true).isResident 0 m.asid = true ∧ (tInbox true).isSwitchedIn 0 m.asid = true ∧ (tInbox true).fitOn 0 m.asid m.need = some f) ∧
    (((tInbox false).core 0).inbox = [8] ∧ Table.find (tInbox false).messages 8 = none) :=
  ⟨by decide +kernel, ⟨by decide +kernel, by decide +kernel⟩, ⟨by decide +kernel, rfl, by decide +kernel, by decide +kernel⟩,
    ⟨tD.modBh 0 fun b => { b with tenders := [{ tTender .bidding with win := 64 }] }, { tTender .bidding with win := 64 }, by decide +kernel, rfl,
      by decide +kernel⟩,
    ⟨tD.modBh 0 fun b => { b with tenders := [{ tTender .bidding with bids := [] }] }, { tTender .bidding with bids := [] }, by decide +kernel, rfl,
      by decide +kernel, by decide +kernel⟩, by decide +kernel, ⟨by decide +kernel, by decide +kernel⟩, ⟨by decide +kernel, by decide +kernel⟩, by decide +kernel,
    by decide +kernel, ⟨_, _, rfl, by decide +kernel, by decide +kernel⟩,
    ⟨(tTend .waiting true).modCore 0 fun k => { k with resident := [] }, _, _, rfl, by decide +kernel⟩, by decide +kernel,
    ⟨_, _, rfl, rfl, by decide +kernel, by decide +kernel, by decide +kernel, rfl⟩, by decide +kernel, by decide +kernel⟩

/-- A launch of one team of one group to queue 0, from context 0, whose WAIT object is at an address. -/
def tGrid (wait : DWord) (ready : Bool) : Grid :=
  { asid := 0, bh := 0, queue := 0, number := 1, supervisor := false
    launch := { entry := 0x10000, teams := 1, gang := 1, stage := 0, groups := 1, regsCode := 0, replay := 0, vbc := false, opp := 0, seed := 0
                acct := 0, spad := 0, args := 0, done := 0, wait := wait, wval := 0 }
    ready := ready, placed := 0, retired := 0, cause := none, taskSeq := none, reported := false, started := [] }

/-- The device with that launch as grid 7 at the head of its queue. -/
def tHead (wait : DWord) (ready : Bool) : State := ({ tD with grids := [(7, tGrid wait ready)] } : State).modInst 0 0 fun i =>
  { i with queues := i.queues.set 0 [7] }

/-- An engine reads a value with no error now. -/
def engRead (r : EngAns (Nat × Bool)) (p : Nat → Bool) : Bool :=
  match r with
  | .done (v, false) _ => p v
  | _ => false

theorem engRead_met {r : EngAns (Nat × Bool)} {p : Nat → Bool} (h : engRead r p = true) : ∃ v s1, r = .done (v, false) s1 ∧ p v = true := by
  unfold engRead at h
  split at h
  · exact ⟨_, _, rfl, h⟩
  · cases h

/-- An engine's read fails now. -/
def engFails (r : EngAns (Nat × Bool)) : Bool :=
  match r with
  | .fail _ _ _ => true
  | _ => false

theorem engFails_met {r : EngAns (Nat × Bool)} (h : engFails r = true) : ∃ c a s1, r = .fail c a s1 := by
  unfold engFails at h
  split at h
  · exact ⟨_, _, _, rfl⟩
  · cases h

/-- The device with group 0 ended, and group 1 of the same partition or of another. -/
def tEnd (x : Nat) (h : Group) : State := { tD with groups := [(0, { tQ with ended := true }), (x, h)], pends := [] }

/-- The device with the team of group 0 asking for class 1 of leave, within a budget. -/
def tLeave (budget : Nat) : State :=
  { tD.modBh 0 fun b => { b with leaveQueue := [(0, 1)], pwrBudget := budget } with teams := [(0, { tT with held := [2] })] }

/-- The same where the budget is below any grant's power, with what the team holds and the grant that stands alone. -/
def tAlone (held : List Nat) (alone : Option (Nat × Nat)) : State :=
  { tD.modBh 0 fun b => { b with leaveQueue := [(0, 1)], pwrBudget := 100, overKey := alone } with teams := [(0, { tT with held := held })] }

/-- A replay job of a grid that has just begun. -/
def tJobOf (grid : Nat) : RveJob :=
  { id := 20, grid := grid, bh := 0, team := tT, selected := [0], original := [], cores0 := [0], replayed := [], cores1 := []
    arbitrated := [], cores2 := [], log := [], phase := 1 }

/-- A group that waits for a register since the start, and one that is ready and not in the active set. -/
def tIdle : Group := { tQ with wait := .register, slot0 := { tQ.slot0 with unready := true } }

def tNext : Group := { tQ with active := false }

/-- The device with both in one partition, and with a partition whose active set is full. -/
def tPair : State := { tD with groups := [(0, tIdle), (4, tNext)] }

def tFull : State :=
  { (tD.modBh 0 fun b => { b with cyc := 64 }) with
    groups := [(0, tIdle), (4, tNext), (8, tQ), (12, tQ), (16, tQ), (20, tQ), (24, tQ), (28, tQ), (31, tQ)] }

/-- The device with the team of group 0 in a gang with a second team that goes on. -/
def tMates : State := { tEnd 4 tQ with teams := [(0, tT), (1, { tT with index := 1 })] }

/-- The grid of a launch that has ended, which declared an object that is read-only or not. -/
def tOver (st : ObjState) : State := (tHead 0 true).modBh 0 fun b => { b with objs := [(2, { tO st with owner := 7 })] }

theorem test_witness_Launch_steps :
    tD.queueOf 0 0 0 = [] ∧ ((tHead 0x10040 false).queueOf 0 0 0 = [7] ∧ Table.find (tHead 0x10040 false).grids 7 = some (tGrid 0x10040 false) ∧
      ∃ v s1, (tHead 0x10040 false).engineLoad ((tHead 0x10040 false).engineAsker niCopy 0 0 false none) 0x10040 8 = .done (v, false) s1 ∧
        (fun _ => true) v = true) ∧
    ((tHead 0x80000000000000 false).queueOf 0 0 0 = [7] ∧ ∃ c a s1, (tHead 0x80000000000000 false).engineLoad
      ((tHead 0x80000000000000 false).engineAsker niCopy 0 0 false none) 0x80000000000000 8 = .fail c a s1) ∧
    tD.nextToPlace 0 = none ∧ ((tHead 0 true).nextToPlace 0).any (fun x => x.1 == 0 && x.2.1 == 0) = true ∧
    (∃ (s : State) (g : Group), (0, g) ∈ s.groups ∧ coreOf 0 = 0 ∧ s.isSwitchedIn 0 g.asid = true ∧ ∃ r ∈ g.v, r.2.full = false) ∧
    (((tD.core 0).switchedIn = some 0) ∧ tD.packingHelps 0 0 = false) ∧
    (tPair.group? 0 = some tIdle ∧ tPair.group? 4 = some tNext ∧ tPair.nextActive 4 tNext = true ∧ tPair.activeRoom 0 0 0 = true) ∧
    (tFull.group? 0 = some tIdle ∧ tFull.group? 4 = some tNext ∧ tFull.nextActive 4 tNext = true ∧ tFull.activeRoom 0 0 0 = false ∧
      tIdle.active = true ∧ coreOf 0 = coreOf 4 ∧ partOf 0 = partOf 4 ∧ tIdle.hnd = false ∧ tIdle.leavesActive = true ∧ tIdle.runnable = false ∧
      tIdle.waitSince + 64 ≤ tFull.cyc 0) ∧
    tPair.nextActive 0 tIdle = false ∧
    (∃ s : State, s.group? 0 = some tH) ∧ tD.groupDone 0 tQ = false ∧
    ((tEnd 4 tQ).groupDone 0 { tQ with ended := true } = true ∧ (tEnd 4 tQ).team? 0 = some tT ∧
      ({ tEnd 4 tQ with teams := [] } : State).groupDone 0 { tQ with ended := true } = true ∧ ({ tEnd 4 tQ with teams := [] } : State).team? 0 = none) ∧
    Table.find tD.grids 7 = none ∧ (tGrid 0 true).ended = false ∧
    (({ tGrid 0 true with placed := 1, retired := 1, reported := true } : Grid).ended = true ∧ (tHead 0 true).replaysDone 7 0 = true) ∧
    (tMates.groupDone 0 { tQ with ended := true } = true ∧ ∃ e ∈ tMates.teams, e.2.gang = tT.gang ∧ e.1 ≠ 0 ∧ e.2.exited = false) ∧
    ((∃ e ∈ (tOver .stable).objsOf 7 (tGrid 0 true), e.2.readOnly = true) ∧ (∀ e ∈ (tOver .shared).objsOf 7 (tGrid 0 true), e.2.readOnly = false) ∧
      (tOver .shared).objsClosing 7 (tGrid 0 true) = false ∧ ({ tOver .shared with net := [tMsg (.objInval 2 0)] } : State).objsClosing 7 (tGrid 0 true) = true) ∧
    (tD.bh 0).leaveQueue = [] ∧
    (((tLeave 300).bh 0).leaveQueue = [(0, 1)] ∧
      120 + (((tLeave 300).grants 0).map leaveWatts).sum + leaveWatts 1 ≤ ((tLeave 300).bh 0).pwrBudget) ∧
    (((tLeave 200).bh 0).pwrBudget < 120 + (((tLeave 200).grants 0).map leaveWatts).sum + leaveWatts 1 ∧ (tLeave 200).grants 0 ≠ []) ∧
    (((tAlone [] none).bh 0).leaveQueue = [(0, 1)] ∧ ((tAlone [] none).bh 0).pwrBudget < 120 + leaveWatts 1 ∧ (tAlone [] none).grants 0 = []) ∧
    ((tAlone [1] (some (0, 1))).overGrant 0 = true ∧ tD.overGrant 0 = false) ∧
    ((tHead 0 true).modBh 0 fun b => { b with jobs := [tJobOf 7] }).replaysDone 7 0 = false ∧
    (∃ (s : State) (draw : BitVec 16), (s.bh 0).pwrBudget < draw.toNat ∧ 0 < (s.bh 0).pwrHeld ∧ 0 < (s.bh 0).opp ∧ s.overGrant 0 = false) :=
  ⟨by decide +kernel, ⟨by decide +kernel, rfl, engRead_met (p := fun _ => true) (by decide +kernel)⟩,
    ⟨by decide +kernel, engFails_met (by decide +kernel)⟩, by decide +kernel, by decide +kernel,
    ⟨{ tD with groups := [(0, { tQ with v := [(3, { tQ.rdV 0 with full := false })] })] }, _, .head _, rfl, by decide +kernel, _, .head _, rfl⟩,
    ⟨rfl, by decide +kernel⟩, ⟨rfl, rfl, by decide +kernel, by decide +kernel⟩,
    ⟨rfl, rfl, by decide +kernel, by decide +kernel, rfl, rfl, rfl, rfl, rfl, by decide +kernel, by decide +kernel⟩, by decide +kernel, ⟨tS tH, rfl⟩, by decide +kernel,
    ⟨by decide +kernel, rfl, by decide +kernel, rfl⟩, rfl, by decide, ⟨by decide, by decide +kernel⟩,
    ⟨by decide +kernel, _, .tail _ (.head _), rfl, by decide, rfl⟩, by decide +kernel, by decide +kernel,
    ⟨by decide +kernel, by decide +kernel⟩, ⟨by decide +kernel, by decide +kernel⟩,
    ⟨by decide +kernel, by decide +kernel, by decide +kernel⟩, ⟨by decide +kernel, by decide +kernel⟩, by decide +kernel,
    ⟨tD.modBh 0 fun b => { b with opp := 3 }, 301, by decide +kernel, by decide +kernel, by decide +kernel, by decide +kernel⟩⟩

/-- An engine request of group 0. -/
def tEng (k : EngKind) (wait : Option Cause) : EngReq :=
  { id := 11, cls := 1, bh := 0, asid := 0, gid := some 0, slot := false, pc := 0, supervisor := false, kind := k, finished := false
    cause := none, addr := 0, access := 0, wait := wait }

/-- The device with that request, and at 0x10200 a copy record of one row of 64 bytes. -/
def tCopies (k : EngKind) (wait : Option Cause) : State :=
  { tD with home := Memory.put (Memory.put tD.home 0x10210 64) 0x10214 1, engines := [tEng k wait] }

/-- The record read at an address by that request, by what it is. -/
def copyRead (addr : DWord) (p : Option CopyRec → Bool) : Bool :=
  let s := tCopies (.copy addr none 0 0 0) none
  engRead (s.engineLoad (s.reqAsker (tEng (.copy addr none 0 0 0) none)) addr 64) fun v => p (copyRec (dwordsOf v 8))

/-- A record of a collective of two participants. -/
def tColl : CollRec :=
  { src := 0, dst := 0, op := 0, red := 0, fc := 0, norm := false, full := false, post := false, quiet := false, count := 1, rank := 0, root := 0
    parts := 2, table := 0, done := 0, normDst := 0, tag := 0 }

/-- A matrix operation of group 0 that fills a tile, or loads slot 0. -/
def tOp (load started : Bool) (ver : Option (BitVec 16)) : MatOp :=
  { id := 11, gid := 0, slot := false, pc := 0, mask := two, started := started, ver := ver
    kind := if load then .load 0 (tShape 0x10000 128 0) none 0 0 0 else .fill 0 7 }

/-- The device with that operation at the matrix unit of group 0 and its request. -/
def tUnit (o : MatOp) (cause wait : Option Cause) : State :=
  { tD with units := [(0, { MatUnit.reset with ops := [o] })], engines := [{ tEng .matrix wait with cause := cause }] }

/-- A record of a capture queue of slice 0. -/
def tDelta (stamp : Nat) : Delta := { stamp := stamp, slice := 0, bind := 5, opndB := false, row := 0, col := 0, value := 1 }

/-- The device with a record at the engine of bulkhead 0 that every slice has passed, or one in a queue, or with a refresh due. -/
def tSpe (here queued due : Bool) : State := tD.modBh 0 fun b =>
  { b with bindings := [(5, { tBnd with refreshDue := due, policy := if due then 1 else 0 })], speIn := if here then [tDelta 0] else []
           capq := if queued then b.capq.set 0 [tDelta 1] else b.capq, speKnown := Vector.replicate _ 1 }

/-- The same with the binding paused, so that its records spill, and room for `n` of them in its log. -/
def tSpill (n : Nat) : State := (tSpe false true false).modBh 0 fun b => { b with bindings := [(5, { tBnd with paused := true, logCap := n })] }

/-- A copy record of one row of 64 bytes. -/
def tRec : CopyRec :=
  { src := 0x10000, dst := 0x10800, rows := 1, rowBytes := 64, spitch := 64, dpitch := 64, cntdn := 0x10080, done := 0, tag := 0, fillB := 0
    post := false, fill := false, quiet := false, drq := 0 }

/-- A copy with a piece to move, and one whose piece has been moved and is to be subtracted. -/
def tMove : EngReq := tEng (.copy 0x10040 (some tRec) 0 0 0) none

def tOwes : EngReq := { tEng (.copy 0x10040 (some tRec) 1 0 64) none with owed := [(0, 64)] }

/-- The device with the one, and with the other in a bulkhead of a tenant or of none. -/
def tPiece : State := { tD with engines := [tMove] }

def tOwed (bare : Bool) : State := { tD with engines := [tOwes], tntShape := if bare then State.reset.tntShape else tD.tntShape }

/-- The device with a snapshot of binding 5 that is due. -/
def tSnaps : State := { tSpe false false false with engines := [tEng (.snap 5 (tShape 0x18000 1 10) 0) none] }

theorem test_witness_Engine_steps :
    tD.request? 11 = none ∧
    (∃ s : State, s.request? 11 = some (tEng .matrix (some .dpaHole)) ∧ (tEng .matrix (some .dpaHole)).running = false ∧
      s.works (tEng .matrix (some .dpaHole)) = false ∧ (tEng .matrix (some .dpaHole)).wait.isSome = true) ∧
    ((tCopies (.copy 0x10040 none 0 0 0) none).request? 11 = some (tEng (.copy 0x10040 none 0 0 0) none) ∧
      (tCopies (.copy 0x10040 none 0 0 0) none).works (tEng (.copy 0x10040 none 0 0 0) none) = true ∧ copyRead 0x10040 (fun r => r.isNone) = true ∧
      copyRead 0x10200 (fun r => r.any fun x => x.rowBytes != 0) = true) ∧
    ((tCopies (.mirror 0 0 1 true 0) none).request? 11 = some (tEng (.mirror 0 0 1 true 0) none) ∧
      (tCopies (.mirror 0 0 1 true 0) none).works (tEng (.mirror 0 0 1 true 0) none) = true) ∧
    (tPiece.request? 11 = some tMove ∧ tPiece.works tMove = true ∧ 0 < tRec.rows ∧ tPiece.owedPiece tMove = none) ∧
    ((tOwed false).request? 11 = some tOwes ∧ tOwes.wait = none ∧ (tOwed false).tenantRuns 0 false = true ∧
      (tOwed false).owedPiece tOwes = some (0, 64)) ∧
    ((tOwed true).tenantRuns 0 false = false ∧ (tOwed true).works tOwes = false ∧ (tOwed true).speWorks 0 = false) ∧
    ((tCopies (.signal 0x10040 none) none).request? 11 = some (tEng (.signal 0x10040 none) none)) ∧
    ((tCopies (.coll 0x10040 none []) none).request? 11 = some (tEng (.coll 0x10040 none []) none) ∧
      (tCopies (.coll 0x10040 none []) none).works (tEng (.coll 0x10040 none []) none) = true) ∧
    ((tCopies (.coll 0x10040 (some tColl) [(0, 1), (1, 1)]) none).request? 11 = some (tEng (.coll 0x10040 (some tColl) [(0, 1), (1, 1)]) none) ∧
      (tCopies (.coll 0x10040 (some tColl) [(0, 1), (1, 1)]) none).works (tEng (.coll 0x10040 (some tColl) [(0, 1), (1, 1)]) none) = true ∧
      tColl.full? [(0, 1), (1, 1)] = true) ∧
    (∃ o ∈ ((tUnit (tOp false true none) none none).unit 0 0).ops, o.started = true) ∧
    ((∀ o ∈ ((tUnit (tOp false false (some 0)) none none).unit 0 0).ops, o.started = false) ∧
      ((tUnit (tOp false false none) none none).unit 0 0).ops.find? (fun o => (tUnit (tOp false false none) none none).worksFor 0 o.gid && (tUnit (tOp false false none) none none).opMayStart 0 0
        ((tUnit (tOp false false none) none none).unit 0 0) o) = some (tOp false false none) ∧
      (tUnit (tOp false false none) none none).opCheck 0 0 (tOp false false none) ≠ .passed) ∧
    (∃ s : State, (∀ o ∈ (s.unit 0 0).ops, o.started = false) ∧
      (s.unit 0 0).ops.find? (fun o => s.worksFor 0 o.gid && s.opMayStart 0 0 (s.unit 0 0) o) = some (tOp false false (some 1)) ∧
      s.opCheck 0 0 (tOp false false (some 1)) = .passed) ∧
    (∀ c : Option Cause, ((tUnit (tOp false true none) c none).unit 0 0).ops.find? (fun o => o.started &&
        (tUnit (tOp false true none) c none).worksFor 0 o.gid) = some (tOp false true none) ∧
      (tUnit (tOp false true none) c none).request? 11 = some { tEng .matrix none with cause := c } ∧
      ((tUnit (tOp false true none) c none).opTeam (tOp false true none)).bind (tUnit (tOp false true none) c none).team? = some tT) ∧
    ((tD.freePair 0 0 0).unit 0 0).claim 0 = some 0 ∧
    ((((tUnit (tOp true false none) none none).freePair 0 0 0).unit 0 0).claim 0 = none ∧
      (((tUnit (tOp true false none) none none).freePair 0 0 0).unit 0 0).ops.find? (fun o => o.kind.isLoad &&
        (o.kind.slot?.elim false fun w => w / 2 == 0 % 2)) = some (tOp true false none)) ∧
    ((tD.bh 0).nextRefresh = none ∧ tD.nextSnap 0 = none ∧ (tD.bh 0).nextDelta = none) ∧
    ((tSpe true false true).speWorks 0 = true ∧ ((tSpe true false true).bh 0).nextRefresh.isSome = true) ∧
    ((tSnaps.bh 0).nextRefresh = none ∧ (tSnaps.nextSnap 0).isSome = true ∧ tSnaps.speWorks 0 = true) ∧
    (((tSpe true false false).bh 0).nextRefresh = none ∧ (tSpe true false false).nextSnap 0 = none ∧
      ((tSpe true false false).bh 0).nextDelta = some (tDelta 0)) ∧
    (tD.bh 0).queue 0 = [] ∧ (((tSpe false true false).bh 0).queue 0 = [tDelta 1] ∧
      ∃ x, Table.find ((tSpe false true false).bh 0).bindings 5 = some x ∧ x.takes = true) ∧
    (∃ x, Table.find ((tSpill 1).bh 0).bindings 5 = some x ∧ x.takes = false ∧ x.log.length < x.logCap) ∧
    (∃ x, Table.find ((tSpill 0).bh 0).bindings 5 = some x ∧ x.takes = false ∧ x.logCap ≤ x.log.length) ∧ tD.lcsOf 0 15 < 2 ^ 60 :=
  ⟨by decide +kernel, ⟨tCopies .matrix (some .dpaHole), by decide +kernel, rfl, by decide +kernel, rfl⟩, ⟨by decide +kernel, by decide +kernel, by decide +kernel, by decide +kernel⟩,
    ⟨by decide +kernel, by decide +kernel⟩, by decide +kernel, by decide +kernel, by decide +kernel, by decide +kernel,
    ⟨by decide +kernel, by decide +kernel⟩, ⟨by decide +kernel, by decide +kernel, by decide +kernel⟩, by decide +kernel,
    ⟨by decide +kernel, by decide +kernel, by decide +kernel⟩,
    ⟨{ tUnit (tOp false false (some 1)) none none with teams := [(0, { tT with tiles := [(0, { version := 2, data := [] })] })] },
      by decide +kernel, by decide +kernel, by decide +kernel⟩,
    fun c => ⟨rfl, rfl, rfl⟩, by decide +kernel, ⟨by decide +kernel, by decide +kernel⟩, by decide +kernel, by decide +kernel, by decide +kernel,
    ⟨by decide +kernel, by decide +kernel, by decide +kernel⟩, by decide +kernel, ⟨by decide +kernel, _, rfl, by decide +kernel⟩,
    ⟨_, rfl, by decide +kernel, by decide +kernel⟩, ⟨_, rfl, by decide +kernel, by decide +kernel⟩, by decide +kernel⟩

/-- The device with group 0 as given, and its request waiting for the plex. -/
def tGrp (g : Group) : State := { tD with groups := [(0, g)], engines := [tEng .matrix (some .pageAbsent)] }

/-- A replay job of bulkhead 0 for group 0 of grid 7 in a phase, with the digests of its three runs. -/
def tJob (phase : Nat) (a b c : DWord) : RveJob :=
  { id := 20, grid := 7, bh := 0, team := tT, selected := [0], original := [(0, a)], cores0 := [0], replayed := [(0, b)], cores1 := [1]
    arbitrated := [(0, c)], cores2 := [2], log := [], phase := phase }

/-- The device with that job, and its grid or none. -/
def tRve (j : RveJob) (grid : Bool) : State :=
  { tD.modBh 0 fun b => { b with jobs := [j] } with grids := if grid then [(7, tGrid 0 true)] else [] }

/-- The device with core 0 quarantined long ago, frames free, and a context whose partition is as given. -/
def tQuar (part : DWord) : State :=
  { (tD.modCore 0 fun k => { k with quarantined := true, suspScore := 5 }).modBh 0 fun b =>
      { b with poolCount := 20000, cyc := 3000000 } with
    clock := 2000000, ctxs := [(0, { Ctx.reset with ptRoot := 0x40001, part := part })], units := []
    teams := [(0, { tT with migrateSince := some 0 })] }

/-- The gang of a state is to migrate, its image is built, and it fits elsewhere or not. -/
def migrateMet (s : State) (gang : Nat) (fits : Bool) : Bool :=
  match s.gangLead gang with
  | none => false
  | some (_, t) =>
    let s0 := t.cores.foldl (fun s c => s.flushCore c) s
    let x := s0.savedOf gang t.bh t.asid []
    let r := s0.imageOf t.asid t.bh [x]
    let fs := r.2.2.engineFrames t.bh (framesFor r.2.1)
    s.migrating gang && s0.gangQuiet gang && !(s.bh t.bh).preEvicting.contains gang
      && decide (framesFor r.2.1 ≤ (r.2.2.bh t.bh).poolCount)
      && ((fs.2.removeGang x).savedFit x fun _ => true).isSome == fits && (!fits || !imageFails fs.1)

theorem test_witness_Reliability_steps :
    (tD.owner 0 = none ∧ (tD.line (0 / 32)).dirty = false) ∧
    (∃ p : Pending, (tGrp { tQ with deferred := [p] }).group? 0 = some { tQ with deferred := [p] } ∧
      (tGrp { tQ with deferred := [p] }).openSlot 0 = some false ∧ tQ.gangAbort = false ∧ tQ.consumed = [] ∧ tQ.hnd = false ∧
      (tGrp { tQ with deferred := [p] }).holding 0 false = false) ∧
    ((tGrp { tQ with timerDue := true }).openSlot 0 = some false ∧ tQ.deferred = [] ∧ tQ.wait = .none ∧
      (tGrp { tQ with timerDue := true }).holding 0 false = false) ∧
    ((tGrp tIdle).group? 0 = some tIdle ∧ tIdle.wait ≠ .none) ∧ (tHeld.openSlot 0 = some false ∧ tHeld.holding 0 false = true) ∧ (tGrp { tQ with hnd := true }).group? 0 = some { tQ with hnd := true } ∧
    ((tGrp { tQ with wait := .plex .pageAbsent }).group? 0 = some { tQ with wait := .plex .pageAbsent } ∧ tQ.ended = false ∧
      tQ.handoff = none ∧ ({ tQ with handoff := some 0x45 } : Group).handoff = some 0x45 ∧ (Cause.ofCode 0x45).isSome = true ∧ Cause.ofCode 0x7F = none) ∧
    ((tHostKept.outside.find? fun r => r.id == 12).any fun r => r.cause.isSome) = true ∧
    (tD.outside.find? (fun r => r.id == 9) = none ∧ tD.ownFault 9 = none) ∧
    tQ.plexCause = none ∧ (tGrp tQ).request? 11 = some (tEng .matrix (some .pageAbsent)) ∧
    Cause.ofCode Cause.pageAbsent.code = some .pageAbsent ∧ (∃ s : State, s.group? 0 = some { tQ with ended := true }) ∧
    tD.job? 20 = none ∧
    ((tRve (tJob 1 0 0 0) true).job? 20 = some (tJob 1 0 0 0) ∧
      ((tRve (tJob 1 0 0 0) true).startRun (tJob 1 0 0 0) .replay (tJob 1 0 0 0).team.ran).isSome = true) ∧
    (∀ i ∈ (tJob 3 5 5 0).selected, digestOf (tJob 3 5 5 0).original i = digestOf (tJob 3 5 5 0).replayed i) ∧
    ((tJob 3 5 6 0).differing ≠ [] ∧ ((tRve (tJob 3 5 6 0) true).startRun (tJob 3 5 6 0) .arbiter (tJob 3 5 6 0).team.ran).isSome = true) ∧
    ((tRve (tJob 6 5 6 7) false).job? 20 = some (tJob 6 5 6 7) ∧ Table.find (tRve (tJob 6 5 6 7) false).grids 7 = none) ∧
    (Table.find (tRve (tJob 6 5 6 7) true).grids 7 = some (tGrid 0 true) ∧
      ∀ i ∈ (tJob 6 5 6 7).differing, digestOf (tJob 6 5 6 7).arbitrated i ≠ digestOf (tJob 6 5 6 7).replayed i) ∧
    (((tQuar Ctx.reset.part).core 0).suspScore ≠ 0 ∧ ((tQuar Ctx.reset.part).core 0).decays < (tQuar Ctx.reset.part).cyc 0 / 2 ^ 20) ∧
    (tD.core 0).suspScore = 0 ∧ tD.gangLead 9 = none ∧ migrateMet (tQuar Ctx.reset.part) 0 true = true ∧ migrateMet (tQuar 0) 0 false = true ∧
    (∃ x, (tD.setBinding 0 5 { tBnd with wait := some .pageAbsent }).binding? 0 5 = some x ∧ x.wait.isSome = true) ∧ tD.team? 0 = some tT ∧
    (∃ l t, (tQuar 0).gangLead 0 = some (l, t) ∧ t.migrateSince = some 0 ∧ t.migratePosted = false ∧ 0 + 2000000 ≤ (tQuar 0).clock ∧
      (tQuar 0).migrating 0 = true ∧
      ((tQuar 0).removeGang ((tQuar 0).savedOf 0 0 0 [])).savedFit ((tQuar 0).savedOf 0 0 0 []) (fun _ => true) = none) ∧
    (∀ t ∈ tD.teamsOf 0, ∀ c ∈ t.2.cores, (tD.core c).quarantined = false) :=
  ⟨by decide +kernel, ⟨{ cause := .ueEngine, pc := 0, lane := 0, addr := 0, kind := 0 }, rfl, by decide +kernel, rfl, rfl, rfl, by decide +kernel⟩,
    ⟨by decide +kernel, rfl, rfl, by decide +kernel⟩, ⟨rfl, by decide⟩, ⟨by decide +kernel, by decide +kernel⟩, rfl,
    ⟨rfl, rfl, rfl, by decide, by decide +kernel, by decide +kernel⟩, by decide +kernel, ⟨by decide +kernel, by decide +kernel⟩, rfl,
    by decide +kernel, by decide, ⟨tGrp { tQ with ended := true }, rfl⟩, by decide +kernel, ⟨by decide +kernel, by decide +kernel⟩,
    by decide, ⟨by decide, by decide +kernel⟩, ⟨by decide +kernel, rfl⟩, ⟨rfl, by decide⟩, ⟨by decide +kernel, by decide +kernel⟩,
    by decide +kernel, by decide +kernel, by decide +kernel, by decide +kernel, ⟨_, rfl, rfl⟩, rfl,
    ⟨_, _, rfl, rfl, rfl, by decide +kernel, by decide +kernel, by decide +kernel⟩, by decide +kernel⟩

theorem test_witness_Decode_encode : (fieldWords.all fun x => x.2.wf Mode.handler && !(encode x.2).isEmpty) = true := by decide +kernel

theorem test_witness_Encode_decode : (fieldWords.all fun x => x.1.length == wordCount (wordAt x.1 0) && reads x) = true := by decide +kernel

/-- The state from reset that steps `sadd s3, s4, 100` next. -/
def tStep : State := State.reset.withFetchWord 96 0x640400000000100C81

/-- The words that the current slot of group 0 fetches next, decoded, where its slot may issue and nothing is taken before. -/
noncomputable def fetches (s : State) (p : Instr → Bool) : Bool :=
  let s1 : State := { s.passTime.noteReady with agenda := s.agenda.tail }
  let s2 : State := { s1 with cur := 0, curSlot := false }
  (s.agenda.head? == some (.issue 0 false)) && s1.mayIssue 0 false && (s2.boundary 0 false).isNone &&
    match s2.group? 0 with
    | some g => match s2.nextWords 0 g false with
      | .words ws _ => match decode g.mode ws with
        | .ok i => p i
        | .error _ => false
      | _ => false
    | none => false

theorem test_witness_Step_runs_decoded : fetches tStep (fun i => decide (i = .saddExt { zA with d := 3, a := 4, mod := 1, w2 := 100 })) = true ∧
    (∃ (s : State) (rest : List Action), s.agenda = .issue 5 false :: rest ∧
      ({ s.passTime.noteReady with agenda := rest } : State).mayIssue 5 false = false) :=
  ⟨by decide +kernel, ⟨{ State.reset with agenda := [.issue 5 false] }, [], rfl, by decide +kernel⟩⟩

theorem test_witness_Memory_laws : Memory.wf tTables = true ∧ Memory.wf [] = true := by decide +kernel

theorem test_witness_Memories_stay_canonical : ∃ t, State.reset.memOk = true ∧ step State.reset = .next t := ⟨_, by decide +kernel, rfl⟩

theorem test_witness_Tables_stay_sorted : ∃ t, tablesOk State.reset ∧ step State.reset = .next t := ⟨_, ⟨rfl, rfl⟩, rfl⟩

end Sys2Proof.Tests
end

section
/-! SUPPORT. The canonical form of a byte memory determines it (R7, R30): addresses rise and no listed byte is the unlisted
one, so two memories in canonical form that read alike are one list. -/

namespace Sys2Proof.Machine

/-- A memory is in canonical form when its first entry stands below the others, lists a byte that has to be listed, and what
follows is in canonical form. -/
theorem Memory.wf_cons (a : Nat) (b : Byte) (m : Memory) :
    Memory.wf ((a, b) :: m) = true ↔ Table.above a m ∧ b ≠ Memory.unlisted ∧ Memory.wf m = true := by
  simp only [Memory.wf, Bool.and_eq_true, Table.sorted_cons, List.all_cons, bne_iff_ne]
  tauto

theorem Memory.byte_cons (a : Nat) (b : Byte) (m : Memory) (c : Nat) :
    Memory.byte ((a, b) :: m) c = if a = c then b else Memory.byte m c := by
  simp only [Memory.byte, Table.findD, Table.find_cons]
  split <;> rfl

/-- Below its first entry a memory reads as the unlisted byte. -/
theorem Memory.byte_of_above (m : Memory) (c : Nat) (h : Table.above c m) : Memory.byte m c = Memory.unlisted := by
  induction m with
  | nil => rfl
  | cons e m ih =>
    obtain ⟨a, b⟩ := e
    have ha : c < a := h (a, b) List.mem_cons_self
    rw [Memory.byte_cons, if_neg (by omega)]
    exact ih fun e he => h e (List.mem_cons_of_mem _ he)

/-- The first address that a canonical memory lists is no higher than that of another one that reads alike. -/
theorem Memory.first_le_of_byte_eq (a a' : Nat) (b b' : Byte) (m m' : Memory) (hm : Memory.wf ((a, b) :: m) = true)
    (hm' : Memory.wf ((a', b') :: m') = true)
    (h : Memory.byte ((a, b) :: m) a' = Memory.byte ((a', b') :: m') a') : a ≤ a' := by
  obtain ⟨habove, _, _⟩ := (Memory.wf_cons a b m).1 hm
  obtain ⟨_, hlisted, _⟩ := (Memory.wf_cons a' b' m').1 hm'
  by_contra hlt
  have hunlisted : Memory.byte ((a, b) :: m) a' = Memory.unlisted :=
    Memory.byte_of_above _ _ fun e he => by
      rcases List.mem_cons.1 he with rfl | he
      · exact Nat.lt_of_not_le hlt
      · exact Nat.lt_trans (Nat.lt_of_not_le hlt) (habove e he)
  rw [hunlisted, Memory.byte_cons, if_pos rfl] at h
  exact hlisted h.symm

/-- Two memories in canonical form that read alike everywhere are one. -/
theorem Memory.eq_of_byte_eq (n m : Memory) (hn : Memory.wf n = true) (hm : Memory.wf m = true)
    (h : ∀ c, Memory.byte n c = Memory.byte m c) : n = m := by
  induction n generalizing m with
  | nil =>
    cases m with
    | nil => rfl
    | cons e m =>
      obtain ⟨a, b⟩ := e
      have hb := h a
      rw [Memory.byte_cons, if_pos rfl] at hb
      exact absurd hb.symm ((Memory.wf_cons a b m).1 hm).2.1
  | cons e n ih =>
    obtain ⟨a, b⟩ := e
    obtain ⟨hna, hnb, hnw⟩ := (Memory.wf_cons a b n).1 hn
    cases m with
    | nil =>
      have hb := h a
      rw [Memory.byte_cons, if_pos rfl] at hb
      exact absurd hb hnb
    | cons e m =>
      obtain ⟨a', b'⟩ := e
      obtain ⟨hma, -, hmw⟩ := (Memory.wf_cons a' b' m).1 hm
      obtain rfl : a = a' := Nat.le_antisymm (Memory.first_le_of_byte_eq _ _ _ _ _ _ hn hm (h a'))
        (Memory.first_le_of_byte_eq _ _ _ _ _ _ hm hn (h a).symm)
      have hb : b = b' := by simpa only [Memory.byte_cons, if_pos] using h a
      have ht : ∀ c, Memory.byte n c = Memory.byte m c := fun c => by
        by_cases hc : a = c
        · rw [← hc, Memory.byte_of_above n a hna, Memory.byte_of_above m a hma]
        · simpa only [Memory.byte_cons, if_neg hc] using h c
      rw [hb, ih m hnw hmw ht]

end Sys2Proof.Machine
end

section
/-! The laws of the byte memory (O58). -/

namespace Sys2Proof.Claims
open Sys2Proof.Machine

/-- Settles O58, by the laws of a written byte and by the canonical form, which determines a memory. -/
theorem memoryLaws : Obligations.Memory_laws := by
  intro m n a b hm
  exact ⟨Memory.wf_put m a b hm, Memory.byte_put_same m a b, fun c hc => Memory.byte_put_other m a c b hc,
    fun hn h => Memory.eq_of_byte_eq n m hn hm h⟩

end Sys2Proof.Claims
end

section
/-! SUPPORT. Memories in canonical form and tables in order, each where a premise asks for it, and what keeps
them so. -/

namespace Sys2Proof.Machine

/-- The numbers of a table rise, where `p` asks for it. -/
def Table.RisingIf {α : Type} (p : Prop) (t : Table α) : Prop := p → Table.sorted t = true

/-- A memory stands in canonical form, where `p` asks for it. -/
def Memory.WfIf (p : Prop) (m : Memory) : Prop := p → Memory.wf m = true

section Tables

variable {α : Type} {p : Prop} {t : Table α}

theorem Table.RisingIf.set (h : Table.RisingIf p t) {k : Nat} {a : α} : Table.RisingIf p (Table.set t k a) :=
  fun hp => Table.sorted_set t k a (h hp)

theorem Table.RisingIf.erase (h : Table.RisingIf p t) {k : Nat} : Table.RisingIf p (Table.erase t k) :=
  fun hp => Table.sorted_erase t k (h hp)

theorem Table.RisingIf.modify (h : Table.RisingIf p t) {k : Nat} {f : α → α} : Table.RisingIf p (Table.modify t k f) := by
  unfold Table.modify
  split
  · exact h.set
  · exact h

/-- A table keeps its order when entries leave it. -/
theorem Table.sorted_filter (t : Table α) (q : Nat × α → Bool) (h : Table.sorted t = true) :
    Table.sorted (t.filter q) = true := by
  induction t with
  | nil => rfl
  | cons e t ih =>
    obtain ⟨j, a⟩ := e
    obtain ⟨habove, hrest⟩ := (Table.sorted_cons j a t).1 h
    rw [List.filter_cons]
    split
    · exact (Table.sorted_cons j a _).2 ⟨fun e he => habove e (List.mem_filter.1 he).1, ih hrest⟩
    · exact ih hrest

theorem Table.RisingIf.filter (h : Table.RisingIf p t) {q : Nat × α → Bool} : Table.RisingIf p (t.filter q) :=
  fun hp => Table.sorted_filter t q (h hp)

/-- A table keeps its order when its entries change and their numbers stay. -/
theorem Table.sorted_map (t : Table α) (f : Nat × α → Nat × α) (hf : ∀ e, (f e).1 = e.1) (h : Table.sorted t = true) :
    Table.sorted (t.map f) = true := by
  induction t with
  | nil => rfl
  | cons e t ih =>
    obtain ⟨j, a⟩ := e
    obtain ⟨habove, hrest⟩ := (Table.sorted_cons j a t).1 h
    refine (Table.sorted_cons (f (j, a)).1 (f (j, a)).2 (t.map f)).2 ⟨fun e he => ?_, ih hrest⟩
    obtain ⟨e', he', rfl⟩ := List.mem_map.1 he
    rw [hf, hf]
    exact habove e' he'

theorem Table.RisingIf.map (h : Table.RisingIf p t) {f : Nat × α → Nat × α} (hf : ∀ e, (f e).1 = e.1) :
    Table.RisingIf p (t.map f) :=
  fun hp => Table.sorted_map t f hf (h hp)

end Tables

section Memories

variable {p : Prop} {m : Memory}

theorem Memory.WfIf.nil : Memory.WfIf p [] := fun _ => rfl

theorem Memory.WfIf.put (h : Memory.WfIf p m) {a : Nat} {b : Byte} : Memory.WfIf p (Memory.put m a b) :=
  fun hp => Memory.wf_put m a b (h hp)

theorem Memory.WfIf.store (h : Memory.WfIf p m) {a n v : Nat} : Memory.WfIf p (Memory.store m a n v) :=
  fun hp => Memory.wf_store n m a v (h hp)

theorem Memory.WfIf.putBytes (h : Memory.WfIf p m) {a : Nat} {bs : List Byte} : Memory.WfIf p (Memory.putBytes m a bs) :=
  fun hp => Memory.wf_putBytes bs m a (h hp)

theorem Memory.WfIf.filter (h : Memory.WfIf p m) {q : Nat × Byte → Bool} : Memory.WfIf p (m.filter q) := by
  intro hp
  obtain ⟨hs, ha⟩ := Bool.and_eq_true_iff.1 (h hp)
  refine Bool.and_eq_true_iff.2 ⟨Table.sorted_filter m q hs, List.all_eq_true.2 fun e he => ?_⟩
  exact List.all_eq_true.1 ha e (List.mem_filter.1 he).1

theorem Memory.WfIf.foldl {β : Type} {l : List β} {f : Memory → β → Memory} (h : Memory.WfIf p m)
    (hf : ∀ m b, Memory.WfIf p m → Memory.WfIf p (f m b)) : Memory.WfIf p (l.foldl f m) :=
  List.foldlRecOn l f h fun m hm b _ => hf m b hm

end Memories

/-- What `Table.set` lists is the new entry, or was listed. -/
theorem Table.mem_set {α : Type} {t : Table α} {k : Nat} {a : α} {e : Nat × α} (h : e ∈ Table.set t k a) :
    e = (k, a) ∨ e ∈ t := by
  induction t with
  | nil => exact .inl (by simpa [Table.set] using h)
  | cons x t ih =>
    unfold Table.set at h
    split at h
    · simpa using h
    · split at h
      · rcases List.mem_cons.1 h with rfl | h
        · exact .inl rfl
        · exact .inr (List.mem_cons_of_mem _ h)
      · rcases List.mem_cons.1 h with rfl | h
        · exact .inr List.mem_cons_self
        · exact (ih h).imp_right (List.mem_cons_of_mem _)

/-- What `Table.findD` answers is a listed entry, or its default. -/
theorem Table.findD_mem {α : Type} (t : Table α) (k : Nat) (d : α) :
    (∃ j, (j, Table.findD t k d) ∈ t) ∨ Table.findD t k d = d := by
  induction t with
  | nil => exact .inr rfl
  | cons x t ih =>
    obtain ⟨j, a⟩ := x
    by_cases hj : j = k
    · exact .inl ⟨j, by simp [Table.findD, Table.find, hj]⟩
    · have he : Table.findD ((j, a) :: t) k d = Table.findD t k d := by simp [Table.findD, Table.find, hj]
      rw [he]
      exact ih.imp_left fun ⟨i, hi⟩ => ⟨i, List.mem_cons_of_mem _ hi⟩

end Sys2Proof.Machine
end

section
/-! SUPPORT. What a step keeps of a state (R7, R30): the canonical form of every byte memory, and the
order of the groups and the teams. It is one predicate, `State.Tidy`, so that each operation of the model is walked through
once, by a lemma that carries the name of the operation. -/

namespace Sys2Proof.Machine

/-- The scratchpads of a core stand in canonical form, where `mem` asks for it. -/
structure Core.Tidy (mem : Prop) (c : Core) : Prop where
  spad : ∀ e ∈ c.spad, Memory.WfIf mem e.2

/-- The cores of a table are tidy. -/
def CoresTidy (mem : Prop) (t : Table Core) : Prop := ∀ e ∈ t, e.2.Tidy mem

/-- What a step keeps of the whole device, in one predicate, so that one walk through the operations of the model serves
each part: the byte memories stand in canonical form where `mem` asks for it, and the groups and the teams stand by rising
numbers where `tab` asks for it. -/
structure State.Tidy (mem tab : Prop) (s : State) : Prop where
  groups : Table.RisingIf tab s.groups
  teams : Table.RisingIf tab s.teams
  cores : CoresTidy mem s.cores
  home : Memory.WfIf mem s.home
  hbm : Memory.WfIf mem s.hbm
  nvme : Memory.WfIf mem s.nvme

/-- The memories of a tidy state are those of `State.memOk`. -/
theorem State.memOk_iff_tidy (s : State) : s.memOk = true ↔ s.Tidy True False := by
  simp only [State.memOk, Bool.and_eq_true, List.all_eq_true]
  constructor
  · rintro ⟨⟨⟨hhome, hhbm⟩, hnvme⟩, hcores⟩
    have hspad : CoresTidy True s.cores := fun e he => ⟨fun x hx _ => hcores e he x hx⟩
    exact ⟨False.elim, False.elim, hspad, fun _ => hhome, fun _ => hhbm, fun _ => hnvme⟩
  · intro h
    exact ⟨⟨⟨h.home trivial, h.hbm trivial⟩, h.nvme trivial⟩, fun e he x hx => (h.cores e he).spad x hx trivial⟩

/-- The tables of a tidy state are those of `Claims.tablesOk`. -/
theorem State.tablesOk_iff_tidy (s : State) : Claims.tablesOk s ↔ s.Tidy False True :=
  ⟨fun h => ⟨fun _ => h.1, fun _ => h.2, fun _ _ => ⟨fun _ _ => False.elim⟩, False.elim, False.elim, False.elim⟩,
    fun h => ⟨h.groups trivial, h.teams trivial⟩⟩

section Cores

variable {mem : Prop} {c : Core} {t : Table Core}

theorem Core.tidy_reset : Core.reset.Tidy mem := ⟨fun _ h => by cases h⟩

theorem Core.tidy_ite {c d : Core} {q : Prop} [Decidable q] (hc : c.Tidy mem) (hd : d.Tidy mem) :
    (if q then c else d).Tidy mem := by
  split
  · exact hc
  · exact hd

theorem CoresTidy.set (h : CoresTidy mem t) {k : Nat} (hc : c.Tidy mem) : CoresTidy mem (Table.set t k c) := by
  intro e he
  rcases Table.mem_set he with rfl | he
  · exact hc
  · exact h e he

theorem CoresTidy.map (h : CoresTidy mem t) {f : Nat × Core → Nat × Core} (hf : ∀ e, e.2.Tidy mem → (f e).2.Tidy mem) :
    CoresTidy mem (t.map f) := by
  intro e he
  obtain ⟨e', he', rfl⟩ := List.mem_map.1 he
  exact hf e' (h e' he')

/-- A core of the table is tidy; one that is not listed stands at reset. -/
theorem CoresTidy.findD (h : CoresTidy mem t) {k : Nat} : (Table.findD t k Core.reset).Tidy mem := by
  rcases Table.findD_mem t k Core.reset with ⟨j, hj⟩ | h0
  · exact h _ hj
  · rw [h0]
    exact Core.tidy_reset

end Cores

section States

variable {mem tab : Prop} {s : State}

theorem State.Tidy.core (h : s.Tidy mem tab) {c : Nat} : (s.core c).Tidy mem := h.cores.findD

theorem State.tidy_ite {s u : State} {q : Prop} [Decidable q] (hs : s.Tidy mem tab) (hu : u.Tidy mem tab) :
    (if q then s else u).Tidy mem tab := by
  split
  · exact hs
  · exact hu

theorem State.tidy_foldl {β : Type} {l : List β} {f : State → β → State} (h : s.Tidy mem tab)
    (hf : ∀ u b, u.Tidy mem tab → (f u b).Tidy mem tab) : (l.foldl f s).Tidy mem tab :=
  List.foldlRecOn l f h fun u hu b _ => hf u b hu

/-! What stands in a state apart from the memories and from the tables of groups and teams can be written freely. -/

theorem State.Tidy.withPosted {w : List FabWait} {p : List Posted} (h : s.Tidy mem tab) :
    State.Tidy mem tab { s with fabWaits := w, posted := p } := { h with }

theorem State.Tidy.withBootFails {n : Nat} (h : s.Tidy mem tab) :
    State.Tidy mem tab { s with bootFails := n } := { h with }

theorem State.Tidy.withMessages {t : Table ActiveMsg} (h : s.Tidy mem tab) :
    State.Tidy mem tab { s with messages := t } := { h with }

theorem State.Tidy.withGrids {t : Table Grid} (h : s.Tidy mem tab) :
    State.Tidy mem tab { s with grids := t } := { h with }

theorem State.Tidy.withSaved {t : Table Saved} (h : s.Tidy mem tab) :
    State.Tidy mem tab { s with saved := t } := { h with }

theorem State.Tidy.withImages {t : Table (List Saved)} (h : s.Tidy mem tab) :
    State.Tidy mem tab { s with images := t } := { h with }

theorem State.Tidy.withPoison {t : Table PoisonLevel} (h : s.Tidy mem tab) :
    State.Tidy mem tab { s with poison := t } := { h with }

theorem State.Tidy.withAgenda {l : List Action} (h : s.Tidy mem tab) :
    State.Tidy mem tab { s with agenda := l } := { h with }

theorem State.Tidy.withNvme {m : Memory} (h : s.Tidy mem tab) (hm : Memory.WfIf mem m) :
    State.Tidy mem tab { s with nvme := m } := { h with nvme := hm }

end States

end Sys2Proof.Machine
end

section
/-! SUPPORT. An answer of the model is tidy when every state in it is. Tidiness of an answer is inductive, not defined by a
match, so that to apply a lemma never evaluates the operation that answers; the lemmas `of_…` give the state of the case that
was met. -/

namespace Sys2Proof.Machine

/-- What an instruction's meaning answers is tidy: its next state is, where it goes on. -/
inductive Out.Tidy (mem tab : Prop) : Out → Prop where
  | next {s : State} (h : s.Tidy mem tab) : Out.Tidy mem tab (.next s)
  | fault {r : Fault} : Out.Tidy mem tab (.fault r)
  | refused {r : Refusal} : Out.Tidy mem tab (.refused r)

/-- The state in the answer of an instruction's body is tidy. -/
inductive Res.Tidy (mem tab : Prop) : Res → Prop where
  | ok {s : State} (h : s.Tidy mem tab) : Res.Tidy mem tab (.ok s)
  | stall {w : Wait} {s : State} (h : s.Tidy mem tab) : Res.Tidy mem tab (.stall w s)
  | trap {t : TrapInfo} {s : State} (h : s.Tidy mem tab) : Res.Tidy mem tab (.trap t s)

/-- The state in the answer of a fetch is tidy. -/
inductive Fetched.Tidy (mem tab : Prop) : Fetched → Prop where
  | words {ws : List Word} {s : State} (h : s.Tidy mem tab) : Fetched.Tidy mem tab (.words ws s)
  | fail {t : TrapInfo} {s : State} (h : s.Tidy mem tab) : Fetched.Tidy mem tab (.fail t s)

/-- The state in the answer of an access through the fabric's way in is tidy. -/
inductive Exported.Tidy (mem tab : Prop) : Exported → Prop where
  | place {asid dpa : Nat} {nc : Bool} {s : State} (h : s.Tidy mem tab) : Exported.Tidy mem tab (.place asid dpa nc s)
  | refused {c : Cause} {s : State} (h : s.Tidy mem tab) : Exported.Tidy mem tab (.refused c s)

/-- The state in the answer of a record's read is tidy. -/
inductive Rec.Tidy (mem tab : Prop) : Rec → Prop where
  | dwords {ds : List Nat} {p : Option Cause} {s : State} (h : s.Tidy mem tab) : Rec.Tidy mem tab (.dwords ds p s)
  | stall {s : State} (h : s.Tidy mem tab) : Rec.Tidy mem tab (.stall s)
  | trap {t : TrapInfo} {s : State} (h : s.Tidy mem tab) : Rec.Tidy mem tab (.trap t s)
  | refused {s : State} (h : s.Tidy mem tab) : Rec.Tidy mem tab (.refused s)

/-- The state in the answer of a system register's write is tidy. -/
inductive SysWrite.Tidy (mem tab : Prop) : SysWrite → Prop where
  | done {s : State} (h : s.Tidy mem tab) : SysWrite.Tidy mem tab (.done s)
  | refused {s : State} (h : s.Tidy mem tab) : SysWrite.Tidy mem tab (.refused s)
  | handOff {s : State} (h : s.Tidy mem tab) : SysWrite.Tidy mem tab (.handOff s)
  | command {s : State} (h : s.Tidy mem tab) : SysWrite.Tidy mem tab (.command s)

/-- The state in the answer of an engine's access is tidy. -/
inductive EngAns.Tidy {α : Type} (mem tab : Prop) : EngAns α → Prop where
  | done {a : α} {s : State} (h : s.Tidy mem tab) : EngAns.Tidy mem tab (.done a s)
  | wait {s : State} (h : s.Tidy mem tab) : EngAns.Tidy mem tab (.wait s)
  | fail {c : Cause} {a : DWord} {s : State} (h : s.Tidy mem tab) : EngAns.Tidy mem tab (.fail c a s)

/-- The state in the answer of an access from outside is tidy, where it was performed. -/
inductive ExtAns.Tidy {α : Type} (mem tab : Prop) : ExtAns α → Prop where
  | done {a : α} {s : State} (h : s.Tidy mem tab) : ExtAns.Tidy mem tab (.done a s)
  | wait : ExtAns.Tidy mem tab .wait
  | fault {c : Cause} : ExtAns.Tidy mem tab (.fault c)
  | refused {c : Cause} : ExtAns.Tidy mem tab (.refused c)

/-- The state that an operation answers is tidy, where it answers one. -/
inductive OptTidy (mem tab : Prop) : Option State → Prop where
  | some {s : State} (h : s.Tidy mem tab) : OptTidy mem tab (.some s)
  | none : OptTidy mem tab .none

/-- The state that an operation answers is tidy, where it answers no error. -/
inductive ExceptTidy {ε : Type} (mem tab : Prop) : Except ε State → Prop where
  | ok {s : State} (h : s.Tidy mem tab) : ExceptTidy mem tab (.ok s)
  | error {e : ε} : ExceptTidy mem tab (.error e)

/-- The state after a read of the scalar pipe is tidy. -/
structure PipeRead.Tidy (mem tab : Prop) (r : PipeRead) : Prop where
  after : r.after.Tidy mem tab

section Answers

variable {mem tab : Prop} {s : State}

theorem State.Tidy.pair {α : Type} {r : α × State} {a : α} (h : r.2.Tidy mem tab) (e : r = (a, s)) : s.Tidy mem tab := by
  subst e; exact h

theorem State.Tidy.triple {α β : Type} {r : α × β × State} {a : α} {b : β} (h : r.2.2.Tidy mem tab) (e : r = (a, b, s)) :
    s.Tidy mem tab := by
  subst e; exact h

theorem State.Tidy.of_some_triple {α β : Type} {u : State} {a a' : α} {b b' : β} (h : s.Tidy mem tab)
    (e : some (a, b, s) = some (a', b', u)) : u.Tidy mem tab := by
  cases e; exact h

theorem Out.Tidy.of_next {r : Out} (h : Out.Tidy mem tab r) (e : r = .next s) :
    s.Tidy mem tab := by
  subst e; cases h; assumption

theorem Res.Tidy.of_ok {r : Res} (h : Res.Tidy mem tab r) (e : r = .ok s) :
    s.Tidy mem tab := by
  subst e; cases h; assumption

theorem Res.Tidy.of_stall {r : Res} {w : Wait} (h : Res.Tidy mem tab r) (e : r = .stall w s) :
    s.Tidy mem tab := by
  subst e; cases h; assumption

theorem Res.Tidy.of_trap {r : Res} {t : TrapInfo} (h : Res.Tidy mem tab r) (e : r = .trap t s) :
    s.Tidy mem tab := by
  subst e; cases h; assumption

theorem Fetched.Tidy.of_words {r : Fetched} {ws : List Word} (h : Fetched.Tidy mem tab r) (e : r = .words ws s) :
    s.Tidy mem tab := by
  subst e; cases h; assumption

theorem Fetched.Tidy.of_fail {r : Fetched} {t : TrapInfo} (h : Fetched.Tidy mem tab r) (e : r = .fail t s) :
    s.Tidy mem tab := by
  subst e; cases h; assumption

theorem Exported.Tidy.of_place {r : Exported} {asid dpa : Nat} {nc : Bool} (h : Exported.Tidy mem tab r)
    (e : r = .place asid dpa nc s) :
    s.Tidy mem tab := by
  subst e; cases h; assumption

theorem Exported.Tidy.of_refused {r : Exported} {c : Cause} (h : Exported.Tidy mem tab r) (e : r = .refused c s) :
    s.Tidy mem tab := by
  subst e; cases h; assumption

theorem Rec.Tidy.of_dwords {r : Rec} {ds : List Nat} {p : Option Cause} (h : Rec.Tidy mem tab r) (e : r = .dwords ds p s) :
    s.Tidy mem tab := by
  subst e; cases h; assumption

theorem Rec.Tidy.of_stall {r : Rec} (h : Rec.Tidy mem tab r) (e : r = .stall s) :
    s.Tidy mem tab := by
  subst e; cases h; assumption

theorem Rec.Tidy.of_trap {r : Rec} {t : TrapInfo} (h : Rec.Tidy mem tab r) (e : r = .trap t s) :
    s.Tidy mem tab := by
  subst e; cases h; assumption

theorem Rec.Tidy.of_refused {r : Rec} (h : Rec.Tidy mem tab r) (e : r = .refused s) :
    s.Tidy mem tab := by
  subst e; cases h; assumption

theorem SysWrite.Tidy.of_done {r : SysWrite} (h : SysWrite.Tidy mem tab r) (e : r = .done s) :
    s.Tidy mem tab := by
  subst e; cases h; assumption

theorem SysWrite.Tidy.of_refused {r : SysWrite} (h : SysWrite.Tidy mem tab r) (e : r = .refused s) :
    s.Tidy mem tab := by
  subst e; cases h; assumption

theorem SysWrite.Tidy.of_handOff {r : SysWrite} (h : SysWrite.Tidy mem tab r) (e : r = .handOff s) :
    s.Tidy mem tab := by
  subst e; cases h; assumption

theorem SysWrite.Tidy.of_command {r : SysWrite} (h : SysWrite.Tidy mem tab r) (e : r = .command s) :
    s.Tidy mem tab := by
  subst e; cases h; assumption

theorem EngAns.Tidy.of_done {α : Type} {r : EngAns α} {a : α} (h : EngAns.Tidy mem tab r) (e : r = .done a s) :
    s.Tidy mem tab := by
  subst e; cases h; assumption

theorem EngAns.Tidy.of_wait {α : Type} {r : EngAns α} (h : EngAns.Tidy mem tab r) (e : r = .wait s) :
    s.Tidy mem tab := by
  subst e; cases h; assumption

theorem EngAns.Tidy.of_fail {α : Type} {r : EngAns α} {c : Cause} {a : DWord} (h : EngAns.Tidy mem tab r)
    (e : r = .fail c a s) :
    s.Tidy mem tab := by
  subst e; cases h; assumption

theorem ExtAns.Tidy.of_done {α : Type} {r : ExtAns α} {a : α} (h : ExtAns.Tidy mem tab r) (e : r = .done a s) :
    s.Tidy mem tab := by
  subst e; cases h; assumption

theorem OptTidy.of_some {r : Option State} (h : OptTidy mem tab r) (e : r = .some s) :
    s.Tidy mem tab := by
  subst e; cases h; assumption

theorem ExceptTidy.of_ok {ε : Type} {r : Except ε State} (h : ExceptTidy mem tab r) (e : r = .ok s) :
    s.Tidy mem tab := by
  subst e; cases h; assumption

theorem State.tidy_ite_snd {α : Type} {r r' : α × State} {q : Prop} [Decidable q] (hr : r.2.Tidy mem tab)
    (hr' : r'.2.Tidy mem tab) :
    (if q then r else r').2.Tidy mem tab := by
  split
  · exact hr
  · exact hr'

theorem State.tidy_ite_thd {α β : Type} {r r' : α × β × State} {q : Prop} [Decidable q] (hr : r.2.2.Tidy mem tab)
    (hr' : r'.2.2.Tidy mem tab) :
    (if q then r else r').2.2.Tidy mem tab := by
  split
  · exact hr
  · exact hr'

theorem Res.tidy_ite {r r' : Res} {q : Prop} [Decidable q] (hr : Res.Tidy mem tab r) (hr' : Res.Tidy mem tab r') :
    Res.Tidy mem tab (if q then r else r') := by
  split
  · exact hr
  · exact hr'

theorem Out.tidy_ite {r r' : Out} {q : Prop} [Decidable q] (hr : Out.Tidy mem tab r) (hr' : Out.Tidy mem tab r') :
    Out.Tidy mem tab (if q then r else r') := by
  split
  · exact hr
  · exact hr'

theorem SysWrite.tidy_ite {r r' : SysWrite} {q : Prop} [Decidable q] (hr : SysWrite.Tidy mem tab r)
    (hr' : SysWrite.Tidy mem tab r') :
    SysWrite.Tidy mem tab (if q then r else r') := by
  split
  · exact hr
  · exact hr'

theorem EngAns.tidy_ite {α : Type} {r r' : EngAns α} {q : Prop} [Decidable q] (hr : EngAns.Tidy mem tab r)
    (hr' : EngAns.Tidy mem tab r') :
    EngAns.Tidy mem tab (if q then r else r') := by
  split
  · exact hr
  · exact hr'

theorem ExtAns.tidy_ite {α : Type} {r r' : ExtAns α} {q : Prop} [Decidable q] (hr : ExtAns.Tidy mem tab r)
    (hr' : ExtAns.Tidy mem tab r') :
    ExtAns.Tidy mem tab (if q then r else r') := by
  split
  · exact hr
  · exact hr'

/-- A fold over a state with something beside it. -/
theorem State.tidy_foldl_snd {α β : Type} {l : List β} {f : α × State → β → α × State} {r : α × State}
    (h : r.2.Tidy mem tab) (hf : ∀ r b, r.2.Tidy mem tab → (f r b).2.Tidy mem tab) : (l.foldl f r).2.Tidy mem tab :=
  List.foldlRecOn (motive := fun r => r.2.Tidy mem tab) l f h fun r hr b _ => hf r b hr

/-- A fold over a state with two things beside it. -/
theorem State.tidy_foldl_thd {α β γ : Type} {l : List γ} {f : α × β × State → γ → α × β × State} {r : α × β × State}
    (h : r.2.2.Tidy mem tab) (hf : ∀ r c, r.2.2.Tidy mem tab → (f r c).2.2.Tidy mem tab) :
    (l.foldl f r).2.2.Tidy mem tab :=
  List.foldlRecOn (motive := fun r => r.2.2.Tidy mem tab) l f h fun r hr c _ => hf r c hr

end Answers

end Sys2Proof.Machine
end

section
/-! SUPPORT. What Machine/Access.lean defines keeps a state tidy: the accessors of the state. -/

namespace Sys2Proof.Machine

variable {mem tab : Prop} {s : State}

theorem State.Tidy.setGroup {gid : Nat} {g : Group} (h : s.Tidy mem tab) : (s.setGroup gid g).Tidy mem tab :=
  { h with groups := h.groups.set }

theorem State.Tidy.modGroup {gid : Nat} {f : Group → Group} (h : s.Tidy mem tab) : (s.modGroup gid f).Tidy mem tab :=
  { h with groups := h.groups.modify }

/-- A core is written through a function that keeps its scratchpads in canonical form. -/
theorem State.Tidy.modCore {c : Nat} {f : Core → Core} (h : s.Tidy mem tab) (hf : ∀ c, c.Tidy mem → (f c).Tidy mem) :
    (s.modCore c f).Tidy mem tab :=
  { h with cores := h.cores.set (hf _ h.core) }

theorem State.Tidy.modBh {b : Nat} {f : Bulkhead → Bulkhead} (h : s.Tidy mem tab) : (s.modBh b f).Tidy mem tab :=
  { h with }

theorem State.Tidy.modCtx {asid : Nat} {f : Ctx → Ctx} (h : s.Tidy mem tab) : (s.modCtx asid f).Tidy mem tab :=
  { h with }

theorem State.Tidy.modInst {asid b : Nat} {f : CtxBh → CtxBh} (h : s.Tidy mem tab) : (s.modInst asid b f).Tidy mem tab :=
  h.modCtx

theorem State.Tidy.modTeam {tid : Nat} {f : Team → Team} (h : s.Tidy mem tab) : (s.modTeam tid f).Tidy mem tab :=
  { h with teams := h.teams.modify }

theorem State.Tidy.modUnit {core part : Nat} {f : MatUnit → MatUnit} (h : s.Tidy mem tab) :
    (s.modUnit core part f).Tidy mem tab :=
  { h with }

theorem State.Tidy.fresh (h : s.Tidy mem tab) : s.fresh.2.Tidy mem tab :=
  { h with }

theorem State.Tidy.free (h : s.Tidy mem tab) : s.free.2.Tidy mem tab :=
  { h with }

end Sys2Proof.Machine
end

section
/-! SUPPORT. What Machine/Home.lean defines keeps a state tidy: the coherence point. -/

namespace Sys2Proof.Machine

variable {mem tab : Prop} {s : State}

theorem State.Tidy.rawStore {dpa n v : Nat} (h : s.Tidy mem tab) : (s.rawStore dpa n v).Tidy mem tab :=
  { h with home := h.home.store }

theorem State.Tidy.postSupRecord {kind cause data0 data1 : Nat} (h : s.Tidy mem tab) :
    (s.postSupRecord kind cause data0 data1).Tidy mem tab := by
  unfold State.postSupRecord
  extract_lets a s1 s2
  have h2 : s2.Tidy mem tab := h.rawStore.rawStore.rawStore.rawStore
  clear_value s2
  exact State.tidy_ite { h with } { h2 with }

theorem State.Tidy.postSup {c : Cause} {data0 data1 : Nat} (h : s.Tidy mem tab) : (s.postSup c data0 data1).Tidy mem tab :=
  h.postSupRecord

theorem State.Tidy.molt {ring kind cause core asid time data : Nat} (h : s.Tidy mem tab) :
    (s.molt ring kind cause core asid time data).Tidy mem tab := by
  unfold State.molt
  extract_lets q a s1 s2
  have h2 : s2.Tidy mem tab := h.rawStore.rawStore.rawStore.rawStore
  clear_value s2
  exact { h2 with }

theorem State.Tidy.copyMolt (h : s.Tidy mem tab) : s.copyMolt.Tidy mem tab := by
  unfold State.copyMolt
  generalize Memory.bytes s.home 0x020000700000 0x12000 = bs
  exact { h with nvme := h.nvme.putBytes }

theorem State.Tidy.setL1 {core w : Nat} {x : L1Word} (h : s.Tidy mem tab) : (s.setL1 core w x).Tidy mem tab :=
  h.modCore fun _ h1 => { h1 with }

theorem State.Tidy.dropL1 {core w : Nat} (h : s.Tidy mem tab) : (s.dropL1 core w).Tidy mem tab :=
  h.modCore fun _ h1 => { h1 with }

theorem State.Tidy.holeCheck {dpa who : Nat} (h : s.Tidy mem tab) : (s.holeCheck dpa who).Tidy mem tab :=
  State.tidy_ite h h.postSup

theorem State.Tidy.setLine {l : Nat} {x : Line} (h : s.Tidy mem tab) : (s.setLine l x).Tidy mem tab :=
  State.tidy_ite { h with } { h with }

theorem State.Tidy.touchDirty {dpa stamp : Nat} (h : s.Tidy mem tab) : (s.touchDirty dpa stamp).Tidy mem tab :=
  h.setLine

theorem State.Tidy.setPoison {w : Nat} {p : Option PoisonLevel} (h : s.Tidy mem tab) : (s.setPoison w p).Tidy mem tab := by
  unfold State.setPoison
  split
  · exact { h with }
  · exact { h with }

theorem State.Tidy.setLcs {b slice v : Nat} (h : s.Tidy mem tab) : (s.setLcs b slice v).Tidy mem tab :=
  State.tidy_ite h.modBh.postSup h.modBh

theorem State.Tidy.sliceTake {b slice counter : Nat} (h : s.Tidy mem tab) : (s.sliceTake b slice counter).Tidy mem tab :=
  h.setLcs

theorem State.Tidy.lcsTakeAt {dpa slice counter : Nat} (h : s.Tidy mem tab) :
    (s.lcsTakeAt dpa slice counter).Tidy mem tab :=
  h.sliceTake

theorem State.Tidy.lcsTake {dpa counter : Nat} (h : s.Tidy mem tab) : (s.lcsTake dpa counter).Tidy mem tab :=
  h.lcsTakeAt

theorem State.Tidy.lccTake {core v : Nat} (h : s.Tidy mem tab) : (s.lccTake core v).Tidy mem tab :=
  h.modCore fun _ h1 => { h1 with }

theorem State.Tidy.meetAt {core dpa slice : Nat} (h : s.Tidy mem tab) : (s.meetAt core dpa slice).Tidy mem tab :=
  h.lcsTakeAt.lccTake

theorem State.Tidy.meet {core dpa : Nat} (h : s.Tidy mem tab) : (s.meet core dpa).Tidy mem tab :=
  h.meetAt

theorem State.Tidy.announce {core : Nat} {cores : List Nat} (h : s.Tidy mem tab) : (s.announce core cores).Tidy mem tab :=
  State.tidy_foldl h fun _ _ h1 => h1.sliceTake

theorem State.Tidy.hear {core : Nat} {cores : List Nat} (h : s.Tidy mem tab) : (s.hear core cores).Tidy mem tab :=
  State.tidy_ite h h.lccTake

theorem State.Tidy.relay {core target : Nat} (h : s.Tidy mem tab) : (s.relay core target).Tidy mem tab :=
  State.tidy_ite h h.announce.hear.sliceTake.lccTake

theorem State.Tidy.engTake {b ni v : Nat} (h : s.Tidy mem tab) : (s.engTake b ni v).Tidy mem tab :=
  h.modBh

theorem State.Tidy.engMeet {b ni dpa slice : Nat} (h : s.Tidy mem tab) : (s.engMeet b ni dpa slice).Tidy mem tab :=
  h.lcsTakeAt.engTake

theorem State.Tidy.takeBack {w : Nat} (h : s.Tidy mem tab) : (s.takeBack w).Tidy mem tab := by
  unfold State.takeBack
  split
  · exact h
  · next c stamp _ =>
    extract_lets s1
    have h1 : s1.Tidy mem tab := { h with }
    split
    · exact h1.touchDirty
    · next x _ =>
      extract_lets s2
      have h2 : s2.Tidy mem tab := { h1 with home := h1.home.store }
      exact State.tidy_ite h2.setPoison.touchDirty.dropL1 h1.touchDirty

theorem State.Tidy.setMsg {m : Msg} (h : s.Tidy mem tab) : (s.setMsg m).Tidy mem tab :=
  { h with }

theorem State.Tidy.recall {m : Msg} (h : s.Tidy mem tab) : (s.recall m).Tidy mem tab := by
  unfold State.recall
  extract_lets s1 old s2 r
  have h1 : s1.Tidy mem tab := State.tidy_foldl h fun _ _ h1 => h1.takeBack
  have h2 : s2.Tidy mem tab := { h1 with home := h1.home.store }
  refine State.tidy_ite h2.setMsg ?_
  split
  · split
    · exact h1.setMsg
    · next new _ =>
      have h3 : State.Tidy mem tab { s1 with home := Memory.store s1.home m.dpa m.size new } :=
        { h1 with home := h1.home.store }
      exact (State.tidy_foldl h3 fun _ _ h4 => h4.setPoison).setMsg
  · exact h1.setMsg

theorem State.Tidy.settle {w : Nat} (h : s.Tidy mem tab) : (s.settle w).Tidy mem tab := by
  unfold State.settle
  split
  · exact h
  · split
    · exact h.meet.recall
    · exact h.meet.takeBack

theorem State.Tidy.handBack {core w : Nat} (h : s.Tidy mem tab) : (s.handBack core w).Tidy mem tab :=
  h.lcsTake.takeBack

theorem State.Tidy.settleAll {dpa n : Nat} (h : s.Tidy mem tab) : (s.settleAll dpa n).Tidy mem tab :=
  State.tidy_foldl h fun _ _ h1 => h1.settle

theorem State.Tidy.settleLine {l : Nat} (h : s.Tidy mem tab) : (s.settleLine l).Tidy mem tab :=
  State.tidy_foldl h fun _ _ h1 => State.tidy_ite h1.settle h1

theorem State.Tidy.writeBackLine {l : Nat} (h : s.Tidy mem tab) : (s.writeBackLine l).Tidy mem tab := by
  unfold State.writeBackLine
  extract_lets s1 x s2
  have h1 : s1.Tidy mem tab := h.settleLine
  have h2 : s2.Tidy mem tab := h1.setLine
  clear_value s2
  generalize Memory.bytes s1.home (128 * l) 128 = bs
  exact State.tidy_ite { h2 with hbm := h1.hbm.putBytes } h1

theorem State.Tidy.evictL2 {l : Nat} (h : s.Tidy mem tab) : (s.evictL2 l).Tidy mem tab := by
  unfold State.evictL2
  extract_lets s1
  have h1 : s1.Tidy mem tab := h.writeBackLine
  clear_value s1
  exact { h1 with }

theorem State.Tidy.makeRoom {l : Nat} (h : s.Tidy mem tab) : (s.makeRoom l).2.Tidy mem tab := by
  unfold State.makeRoom
  dsimp only
  split
  · exact h
  · split
    · exact h.evictL2
    · exact h

theorem State.Tidy.markDirty {dpa stamp : Nat} (h : s.Tidy mem tab) : (s.markDirty dpa stamp).Tidy mem tab :=
  State.tidy_ite h.makeRoom.touchDirty h.makeRoom.touchDirty.writeBackLine

theorem State.Tidy.lcsStep {dpa : Nat} (h : s.Tidy mem tab) : (s.lcsStep dpa).2.Tidy mem tab :=
  h.setLcs

theorem State.Tidy.captureOne {o : Obj} {dpa off e : Nat} (h : s.Tidy mem tab) : (s.captureOne o dpa off e).Tidy mem tab := by
  unfold State.captureOne
  exact h.lcsStep.modBh

theorem State.Tidy.capture {o : Obj} {va dpa n : Nat} (h : s.Tidy mem tab) : (s.capture o va dpa n).Tidy mem tab :=
  State.tidy_foldl h fun _ _ h1 => h1.captureOne

theorem State.Tidy.testWatches {dpa n : Nat} (h : s.Tidy mem tab) : (s.testWatches dpa n).Tidy mem tab :=
  State.tidy_ite h { h with }

/-- A write at the home slice stores into the home memory; what follows marks poison, the line and the watches. -/
theorem State.Tidy.homeWrite {who : Who} {dpa n v : Nat} (h : s.Tidy mem tab) :
    ExceptTidy mem tab (s.homeWrite who dpa n v) := by
  unfold State.homeWrite
  split
  · exact .ok h.holeCheck
  · split
    · exact .error
    · extract_lets s1
      have h1 : s1.Tidy mem tab := h.settleAll
      split
      next stamp s2 heq =>
      have h2 : s2.Tidy mem tab := h1.lcsStep.pair heq
      extract_lets s3 s4 s5 s6
      have h3 : s3.Tidy mem tab := { h2 with home := h2.home.store }
      have h4 : s4.Tidy mem tab := State.tidy_foldl h3 fun _ _ hu => hu.setPoison
      have h5 : s5.Tidy mem tab := h4.markDirty
      clear_value s5
      have h6 : s6.Tidy mem tab := by
        unfold s6
        split
        · exact h5.capture
        · exact h5
      exact .ok h6.testWatches

theorem State.Tidy.devWrite {dpa n v : Nat} (h : s.Tidy mem tab) : (s.devWrite dpa n v).Tidy mem tab := by
  unfold State.devWrite
  split
  · exact h.homeWrite.of_ok ‹_›
  · exact h

theorem State.Tidy.fdRead {frame : Nat} (h : s.Tidy mem tab) : (s.fdRead frame).Tidy mem tab :=
  h.holeCheck

theorem State.Tidy.setFd {frame v : Nat} (h : s.Tidy mem tab) : (s.setFd frame v).Tidy mem tab :=
  h.devWrite

end Sys2Proof.Machine
end

section
/-! SUPPORT. What Machine/Translate.lean defines keeps a state tidy: translation and the store filter. -/

namespace Sys2Proof.Machine

variable {mem tab : Prop} {s : State}

theorem State.Tidy.fillTlb {v : Via} {write : Bool} {e level addr va : Nat} (h : s.Tidy mem tab) :
    (s.fillTlb v write e level addr va).Tidy mem tab := by
  unfold State.fillTlb
  extract_lets want e1 s1
  have h1 : s1.Tidy mem tab := State.tidy_ite h h.devWrite
  clear_value s1
  split
  · exact h1
  · exact { h1 with }

theorem State.Tidy.translate {v : Via} {k : AccessKind} {va : Nat} (h : s.Tidy mem tab) :
    (s.translate v k va).2.Tidy mem tab := by
  unfold State.translate
  split
  · exact h
  · split
    · exact h
    · split
      · exact h
      · split
        · exact h
        · exact h.fillTlb

theorem State.Tidy.placeGlobal {q : Asker} {k : AccessKind} {pv : Bool} {va : Nat} {shown : DWord} (h : s.Tidy mem tab) :
    (s.placeGlobal q k pv va shown).2.Tidy mem tab := by
  unfold State.placeGlobal
  split
  · exact h.translate.pair ‹_›
  · split
    · exact h.translate.pair ‹_›
    · exact h.translate.pair ‹_›

theorem State.Tidy.place {q : Asker} {k : AccessKind} {lane : Nat} {w : Window} {a : DWord} (h : s.Tidy mem tab) :
    (s.place q k lane w a).2.Tidy mem tab := by
  unfold State.place
  split
  · split
    · exact h
    · exact h
  · exact h
  · exact h.placeGlobal
  · exact h
  · exact h
  · exact h.placeGlobal

theorem State.Tidy.placeAll {q : Asker} {k : AccessKind} {lane : Nat} {w : Window} {a : DWord} {l : List (Nat × Nat)}
    (h : s.Tidy mem tab) : (s.placeAll q k lane w a l).2.Tidy mem tab := by
  induction l generalizing s with
  | nil => exact h
  | cons p t ih =>
    unfold State.placeAll
    split
    · exact h.place.pair ‹_›
    · have h1 := ih (h.place.pair ‹_›)
      split
      · exact h1.pair ‹_›
      · exact h1.pair ‹_›

theorem State.Tidy.resolve {q : Asker} {r : Reach} {k : AccessKind} {align : Bool} {lane : Nat} {a : DWord} {n : Nat}
    (h : s.Tidy mem tab) : (s.resolve q r k align lane a n).2.Tidy mem tab := by
  unfold State.resolve
  split
  · exact h
  · split
    · dsimp only
      split
      · exact h
      · exact State.tidy_ite_snd h (State.tidy_ite_snd h h)
    · dsimp only
      split
      · exact h
      · exact State.tidy_ite_snd h (State.tidy_ite_snd h h.placeAll)

theorem State.Tidy.resolveT {q : Asker} {t : TransReg} {r : Reach} {k : AccessKind} {align : Bool} {lane : Nat}
    {o : DWord} {n : Nat} (h : s.Tidy mem tab) : (s.resolveT q t r k align lane o n).2.Tidy mem tab := by
  unfold State.resolveT
  split
  · split
    · exact State.tidy_ite_snd h h
    · dsimp only
      split
      · exact h
      · split
        · exact h
        · exact h
  · dsimp only
    split
    · exact h.resolve
    · exact h
    · exact h

end Sys2Proof.Machine
end

section
/-! SUPPORT. What Machine/Ops.lean defines keeps a state tidy: retirement, event records, quarantine and traps. -/

namespace Sys2Proof.Machine

variable {mem tab : Prop} {s : State}

theorem Res.tidy_andThen {r : Res} {f : State → Res} (hr : r.Tidy mem tab)
    (hf : ∀ u, u.Tidy mem tab → (f u).Tidy mem tab) : (Res.andThen r f).Tidy mem tab := by
  unfold Res.andThen
  split
  · exact hf _ (hr.of_ok rfl)
  · exact hr
  · exact hr

theorem State.Tidy.putRecord {dpa d0 d1 d2 d3 : Nat} (h : s.Tidy mem tab) : (s.putRecord dpa d0 d1 d2 d3).Tidy mem tab :=
  h.devWrite.devWrite.devWrite.devWrite

theorem State.Tidy.postCtx {asid b kind cause source tag d0 d1 : Nat} (h : s.Tidy mem tab) :
    (s.postCtx asid b kind cause source tag d0 d1).Tidy mem tab :=
  State.tidy_ite h.modInst.postSup h.putRecord.modInst

theorem State.Tidy.quarantine {core : Nat} (h : s.Tidy mem tab) : (s.quarantine core).Tidy mem tab :=
  State.tidy_ite h (State.Tidy.molt (State.Tidy.postSup (State.Tidy.modBh (h.modCore fun _ h1 => { h1 with }))))

theorem Core.tidy_score {c : Core} {v cyc : Nat} (hc : c.Tidy mem) : (Core.score c v cyc).Tidy mem :=
  { hc with }

theorem State.Tidy.suspect {core amount : Nat} (h : s.Tidy mem tab) : (s.suspect core amount).Tidy mem tab :=
  State.tidy_ite (h.modCore fun _ h1 => Core.tidy_score h1).quarantine (h.modCore fun _ h1 => Core.tidy_score h1)

theorem State.Tidy.plexWait {gid : Nat} {c : Cause} (h : s.Tidy mem tab) : (s.plexWait gid c).Tidy mem tab :=
  h.modGroup

theorem State.Tidy.fetchWord {gid : Nat} {g : Group} {a : DWord} {mask : Mask} (h : s.Tidy mem tab) :
    (s.fetchWord gid g a mask).Tidy mem tab := by
  unfold State.fetchWord
  split
  · exact .fail h
  · split
    · exact .fail h
    · dsimp only
      split
      · exact .fail (h.translate.pair ‹_›)
      · split
        · exact .fail (h.translate.pair ‹_›)
        · split
          · split
            · exact .fail (h.translate.pair ‹_›)
            · exact .words (h.translate.pair ‹_›)
          · split
            · exact .fail (h.translate.pair ‹_›).holeCheck
            · split
              · exact .fail ((h.translate.pair ‹_›).modCore fun _ h1 => { h1 with })
              · exact .words ((h.translate.pair ‹_›).modCore fun _ h1 => { h1 with })

theorem State.Tidy.fetchWords {gid : Nat} {g : Group} {mask : Mask} {n : Nat} {a : DWord} (h : s.Tidy mem tab) :
    (s.fetchWords gid g mask n a).Tidy mem tab := by
  induction n generalizing s a with
  | zero => exact .words h
  | succ n ih =>
    unfold State.fetchWords
    split
    · exact .fail (h.fetchWord.of_fail ‹_›)
    · have h1 := ih (a := a + 4) (h.fetchWord.of_words ‹_›)
      split
      · exact .fail (h1.of_fail ‹_›)
      · exact .words (h1.of_words ‹_›)

theorem State.Tidy.fetchInstr {gid : Nat} {g : Group} {slot : Bool} (h : s.Tidy mem tab) :
    (s.fetchInstr gid g slot).Tidy mem tab := by
  unfold State.fetchInstr
  dsimp only
  split
  · exact .fail (h.fetchWord.of_fail ‹_›)
  · split
    · exact .fail ((h.fetchWord.of_words ‹_›).fetchWords.of_fail ‹_›)
    · exact .words ((h.fetchWord.of_words ‹_›).fetchWords.of_words ‹_›)

theorem State.Tidy.toPlex {gid : Nat} {slot : Bool} {t : TrapInfo} (h : s.Tidy mem tab) :
    (s.toPlex gid slot t).Tidy mem tab := by
  unfold State.toPlex
  refine State.Tidy.plexWait ?_
  split
  · exact h.modGroup
  · exact h

theorem State.Tidy.vectorTo {gid : Nat} {slot : Bool} {t : TrapInfo} {vec : DWord} (h : s.Tidy mem tab) :
    (s.vectorTo gid slot t vec).Tidy mem tab := by
  unfold State.vectorTo
  split
  · exact h
  · exact State.tidy_ite { h with groups := h.groups.set } h.toPlex

theorem State.Tidy.beginRestart {gid : Nat} {c : Cause} (h : s.Tidy mem tab) : (s.beginRestart gid c).Tidy mem tab :=
  { h with groups := h.groups.modify }

theorem State.Tidy.uncorrectable {gid : Nat} {c : Cause} (h : s.Tidy mem tab) : (s.uncorrectable gid c).Tidy mem tab := by
  unfold State.uncorrectable
  split
  · exact h
  · exact State.tidy_ite h.beginRestart h.suspect.plexWait

theorem State.Tidy.finishRestart {gid : Nat} {g : Group} {c : Cause} (h : s.Tidy mem tab) :
    (s.finishRestart gid g c).Tidy mem tab :=
  State.tidy_ite h.suspect.modGroup.plexWait h.suspect.modGroup

theorem State.Tidy.takeTrap {gid : Nat} {slot : Bool} {t : TrapInfo} (h : s.Tidy mem tab) :
    (s.takeTrap gid slot t).Tidy mem tab := by
  unfold State.takeTrap
  split
  · exact h
  · split
    · exact State.tidy_ite h.plexWait h.suspect.modGroup.plexWait
    · split
      · exact State.tidy_ite h.vectorTo h.toPlex
      · exact State.tidy_ite h.vectorTo h.toPlex
      · exact State.tidy_ite h.vectorTo h.plexWait
      · exact h.uncorrectable
      · exact h.plexWait

theorem State.Tidy.consume {gid : Nat} {p : Option Cause} (h : s.Tidy mem tab) : (s.consume gid p).Tidy mem tab := by
  unfold State.consume
  split
  · exact h
  · exact h.modGroup

theorem Res.Tidy.readRegs {g : Group} {regs : List Nat} {m : Mask} {c : Cause} {r : Res} (hr : r.Tidy mem tab) :
    (s.readRegs g regs m c r).Tidy mem tab :=
  Res.tidy_ite (Res.tidy_andThen hr fun _ h1 => .ok h1.consume) hr

theorem State.Tidy.leaveHandler {gid : Nat} (h : s.Tidy mem tab) : (s.leaveHandler gid).Tidy mem tab :=
  h.modGroup

theorem State.Tidy.endHandler {gid : Nat} (h : s.Tidy mem tab) : (s.endHandler gid).Tidy mem tab :=
  h.leaveHandler.modCore fun _ h1 => { h1 with }

theorem State.Tidy.returnFromTrap {gid : Nat} (h : s.Tidy mem tab) : (s.returnFromTrap gid).Tidy mem tab :=
  h.modGroup.endHandler

theorem State.Tidy.retired {gid : Nat} {slot : Bool} (h : s.Tidy mem tab) : (s.retired gid slot).Tidy mem tab := by
  unfold State.retired
  split
  · exact h
  · exact h.setGroup.modTeam

theorem State.Tidy.retire {gid : Nat} {slot : Bool} {op : Byte} {words : Nat} (h : s.Tidy mem tab) :
    (s.retire gid slot op words).Tidy mem tab :=
  h.modGroup.retired

theorem State.Tidy.stalled {gid : Nat} {w : Wait} (h : s.Tidy mem tab) : (s.stalled gid w).Tidy mem tab :=
  h.modGroup

theorem tidy_finish {gid : Nat} {slot : Bool} {op : Byte} {words : Nat} {r : Res} (hr : r.Tidy mem tab) :
    (finish gid slot op words r).Tidy mem tab := by
  unfold finish
  split
  · exact (hr.of_ok rfl).retire
  · exact (hr.of_stall rfl).stalled
  · exact (hr.of_trap rfl).takeTrap

theorem State.Tidy.issueWith {op : Byte} {words : Nat} {used : List Nat} {body : Group → State → Res} (h : s.Tidy mem tab)
    (hbody : ∀ g u, u.Tidy mem tab → (body g u).Tidy mem tab) : Out.Tidy mem tab (s.issueWith op words used body) := by
  unfold State.issueWith
  split
  · exact .fault
  · exact Out.tidy_ite (.next h.stalled) (.next (tidy_finish (hbody _ _ h)))

theorem State.Tidy.execA {op : Byte} {f : ExtA} {body : Group → State → Res} (h : s.Tidy mem tab)
    (hbody : ∀ g u, u.Tidy mem tab → (body g u).Tidy mem tab) : Out.Tidy mem tab (s.execA op f body) :=
  h.issueWith fun _ _ h1 => hbody _ _ h1

theorem State.Tidy.execC {op : Byte} {f : Word0} {body : ExtA → Group → State → Res} (h : s.Tidy mem tab)
    (hbody : ∀ e g u, u.Tidy mem tab → (body e g u).Tidy mem tab) : Out.Tidy mem tab (s.execC op f body) :=
  h.issueWith fun _ _ h1 => hbody _ _ _ h1

theorem State.Tidy.execM {op : Byte} {f : ExtM} {body : Group → State → Res} (h : s.Tidy mem tab)
    (hbody : ∀ g u, u.Tidy mem tab → (body g u).Tidy mem tab) : Out.Tidy mem tab (s.execM op f body) :=
  h.issueWith fun _ _ h1 => hbody _ _ h1

theorem State.Tidy.execCM {op : Byte} {f : Word0} {body : Group → State → Res} (h : s.Tidy mem tab)
    (hbody : ∀ g u, u.Tidy mem tab → (body g u).Tidy mem tab) : Out.Tidy mem tab (s.execCM op f body) :=
  h.issueWith fun _ _ h1 => hbody _ _ h1

theorem tidy_groupBody {f : Group → Except TrapInfo Group} {g : Group} (h : s.Tidy mem tab) :
    (groupBody f g s).Tidy mem tab := by
  unfold groupBody
  split
  · exact .ok h.setGroup
  · exact .trap h

theorem State.Tidy.releaseLeave {tid : Nat} (h : s.Tidy mem tab) : (s.releaseLeave tid).Tidy mem tab := by
  unfold State.releaseLeave
  split
  · exact h
  · exact h.modTeam.modBh

end Sys2Proof.Machine
end

section
/-! SUPPORT. What Machine/Barrier.lean defines keeps a state tidy: barriers and the wait at `detm`. -/

namespace Sys2Proof.Machine

variable {mem tab : Prop} {s : State}

theorem State.Tidy.settleBarrier {tid n : Nat} (h : s.Tidy mem tab) : (s.settleBarrier tid n).Tidy mem tab :=
  h.modTeam

theorem State.Tidy.settleGang {gang : Nat} (h : s.Tidy mem tab) : (s.settleGang gang).Tidy mem tab := by
  unfold State.settleGang
  split
  · exact h
  · exact h.modTeam

theorem State.Tidy.tryMbar {tid core part : Nat} (h : s.Tidy mem tab) : (s.tryMbar tid core part).Tidy mem tab := by
  unfold State.tryMbar
  split
  · exact h
  · exact State.tidy_ite { h with teams := h.teams.modify } h

theorem State.Tidy.endDetm {gid : Nat} {slot : Bool} {words : Nat} {ok : Bool} (h : s.Tidy mem tab) :
    (s.endDetm gid slot words ok).Tidy mem tab :=
  State.tidy_ite h.retire.modGroup h.takeTrap

theorem State.Tidy.endDetms {tid : Nat} {gs : List (Nat × Group)} {on same : Bool} (h : s.Tidy mem tab) :
    (s.endDetms tid gs on same).Tidy mem tab := by
  unfold State.endDetms
  split
  · refine (State.tidy_foldl h fun _ _ h1 => ?_).modTeam
    split
    · exact h1.endDetm
    · exact h1
  · refine State.tidy_foldl h fun _ _ h1 => ?_
    split
    · exact h1.endDetm
    · exact h1

theorem State.Tidy.settleDetm {tid : Nat} (h : s.Tidy mem tab) : (s.settleDetm tid).Tidy mem tab := by
  unfold State.settleDetm
  dsimp only
  split
  · exact State.tidy_ite h.endDetms h
  · exact h

theorem State.Tidy.groupGone {gid : Nat} (h : s.Tidy mem tab) : (s.groupGone gid).Tidy mem tab := by
  unfold State.groupGone
  split
  · exact h
  · exact (State.tidy_foldl h fun _ _ h1 => h1.settleBarrier).settleGang.tryMbar.settleDetm

end Sys2Proof.Machine
end

section
/-! SUPPORT. What Machine/Operands.lean defines keeps a state tidy: operand forms. -/

namespace Sys2Proof.Machine

variable {mem tab : Prop} {s : State}

theorem tidy_vecBody {op : Byte} {f : ExtA} {eff : VEff} {g : Group} (h : s.Tidy mem tab) :
    (vecBody op f eff g s).Tidy mem tab := by
  unfold vecBody
  dsimp only
  split
  · exact .trap h
  · exact .stall h
  · split
    · exact .trap h
    · exact Res.Tidy.readRegs (.ok h.setGroup)

theorem State.Tidy.execV {op : Byte} {f : ExtA} {eff : VEff} (h : s.Tidy mem tab) : Out.Tidy mem tab (s.execV op f eff) :=
  h.execA fun _ _ h1 => tidy_vecBody h1

theorem State.Tidy.execVC {op : Byte} {f : Word0} {eff : VEff} (h : s.Tidy mem tab) :
    Out.Tidy mem tab (s.execVC op f eff) :=
  h.execC fun _ _ _ h1 => tidy_vecBody h1

theorem Res.tidy_inSegment {r : Res} {seg : Nat} (hr : r.Tidy mem tab) : (Res.inSegment r seg).Tidy mem tab := by
  unfold Res.inSegment
  split
  · exact .trap (hr.of_trap rfl)
  · exact hr

theorem State.Tidy.segmentDone {gid : Nat} {slot : Bool} {seg : Nat} (h : s.Tidy mem tab) :
    (s.segmentDone gid slot seg).Tidy mem tab :=
  h.modGroup

theorem State.Tidy.sweep {op : Byte} {used : List Nat} {regs : Group → List (List Nat)} {w2 : Word}
    {body : Nat → Group → State → Res} (h : s.Tidy mem tab)
    (hbody : ∀ x g u, u.Tidy mem tab → (body x g u).Tidy mem tab) : Out.Tidy mem tab (s.sweep op used regs w2 body) := by
  unfold State.sweep
  split
  · exact .fault
  · next g _ =>
    extract_lets n seg
    have hseg : ((body seg g s).inSegment seg).Tidy mem tab := Res.tidy_inSegment (hbody _ _ _ h)
    clear_value seg
    refine Out.tidy_ite (.next h.stalled) (Out.tidy_ite (.next (State.tidy_ite h.retire h.takeTrap)) ?_)
    split
    · exact .next (State.tidy_ite (hseg.of_ok ‹_›).segmentDone (hseg.of_ok ‹_›).retire)
    · exact .next (tidy_finish hseg)

end Sys2Proof.Machine
end

section
/-! SUPPORT. What Machine/Coherence.lean defines keeps a state tidy: messages between the cores and the home slices. -/

namespace Sys2Proof.Machine

variable {mem tab : Prop} {s : State}

theorem State.Tidy.setRedirects {bh ni : Nat} {rs : List Redirect} (h : s.Tidy mem tab) :
    (s.setRedirects bh ni rs).Tidy mem tab :=
  State.tidy_ite (h.modCore fun _ h1 => { h1 with }) h.modBh

theorem State.Tidy.route {bh ni dpa : Nat} (h : s.Tidy mem tab) : (s.route bh ni dpa).2.Tidy mem tab :=
  State.tidy_ite_snd h h.setRedirects

theorem State.Tidy.send {m : Msg} (h : s.Tidy mem tab) : (s.send m).Tidy mem tab :=
  { (State.tidy_ite_snd h.route h).fresh with }

theorem State.Tidy.dropMsg {id : Nat} (h : s.Tidy mem tab) : (s.dropMsg id).Tidy mem tab :=
  { h with }

theorem State.Tidy.resend {m : Msg} (h : s.Tidy mem tab) : (s.resend m).Tidy mem tab :=
  h.setMsg

theorem State.Tidy.dropValid {core : Nat} (h : s.Tidy mem tab) : (s.dropValid core).Tidy mem tab :=
  { h with cores := h.cores.set { h.core with } }

theorem State.Tidy.setPend {p : Pend} (h : s.Tidy mem tab) : (s.setPend p).Tidy mem tab :=
  { h with }

theorem State.Tidy.dropPend {id : Nat} (h : s.Tidy mem tab) : (s.dropPend id).Tidy mem tab :=
  { h with }

theorem State.Tidy.engineDone {id : Nat} {c : Option Cause} (h : s.Tidy mem tab) : (s.engineDone id c).Tidy mem tab :=
  { h with }

theorem State.Tidy.land {p : Pend} (h : s.Tidy mem tab) : (s.land p).Tidy mem tab := by
  unfold State.land
  extract_lets s1 s2 s3
  have h1 : s1.Tidy mem tab := h.dropPend
  have h2 : s2.Tidy mem tab := State.tidy_ite h1.modGroup (State.tidy_ite h1 h1.modGroup.consume)
  have h3 : s3.Tidy mem tab := State.tidy_ite h2.dropValid h2
  clear_value s3
  split
  · exact h3.engineDone
  · exact h3

theorem State.Tidy.arrive {m : Msg} {v : Nat} {p : Option PoisonLevel} {failed : Bool} (h : s.Tidy mem tab) :
    (s.arrive m v p failed).Tidy mem tab := by
  unfold State.arrive
  split
  · exact h
  · exact State.tidy_ite h.setPend.land h.setPend

theorem State.Tidy.deferFailure {gid : Nat} {p : Pending} (h : s.Tidy mem tab) : (s.deferFailure gid p).Tidy mem tab :=
  h.modGroup

theorem State.Tidy.deferTo {owner : Nat} {p : Pending} (h : s.Tidy mem tab) : (s.deferTo owner p).Tidy mem tab :=
  { h with groups := h.groups.map fun _ => rfl }

theorem State.Tidy.dropV {core w : Nat} (h : s.Tidy mem tab) : (s.dropV core w).Tidy mem tab := by
  unfold State.dropV
  split
  · exact State.tidy_ite h.dropL1 h
  · exact h

theorem State.Tidy.clearLazy {core w : Nat} (h : s.Tidy mem tab) : (s.clearLazy core w).Tidy mem tab := by
  unfold State.clearLazy
  split
  · exact h.setL1
  · exact h

theorem State.Tidy.flushWord {core w : Nat} (h : s.Tidy mem tab) : (s.flushWord core w).Tidy mem tab := by
  unfold State.flushWord
  split
  · exact h
  · split
    · exact h
    · exact State.tidy_ite h.clearLazy.clearLazy.send (State.tidy_foldl h.clearLazy fun _ _ h1 => h1.send)

theorem State.Tidy.flushOwn {core : Nat} {words : List Nat} (h : s.Tidy mem tab) : (s.flushOwn core words).Tidy mem tab :=
  State.tidy_foldl h fun _ _ h1 => State.tidy_ite h1.flushWord h1

theorem State.Tidy.leaveWord {core w : Nat} (h : s.Tidy mem tab) : (s.leaveWord core w).Tidy mem tab :=
  State.tidy_ite h.handBack h.dropL1

theorem State.Tidy.markLeaving {core w : Nat} (h : s.Tidy mem tab) : (s.markLeaving core w).Tidy mem tab := by
  unfold State.markLeaving
  split
  · exact State.tidy_ite h.setL1 h
  · exact h

theorem State.Tidy.evictL1 {core line : Nat} (h : s.Tidy mem tab) : (s.evictL1 core line).Tidy mem tab :=
  State.tidy_foldl (State.tidy_foldl (State.tidy_foldl h fun _ _ h1 => h1.dropV) fun _ _ h1 => State.tidy_ite h1.leaveWord
    h1) fun _ _ h1 => h1.flushWord.markLeaving

theorem State.Tidy.l1Room {core l : Nat} (h : s.Tidy mem tab) : (s.l1Room core l).2.Tidy mem tab := by
  unfold State.l1Room
  extract_lets mates done
  split
  · exact h
  · split
    · dsimp only
      exact h.evictL1
    · cases mates.head? with
      | none => exact h
      | some v =>
        dsimp only [Option.elim_some]
        exact h.evictL1

theorem State.Tidy.endPending {core : Nat} {words : List Nat} {data : Table Word} {poison : Option PoisonLevel}
    (h : s.Tidy mem tab) : (s.endPending core words data poison).Tidy mem tab := by
  unfold State.endPending
  refine State.tidy_foldl h fun _ _ h1 => ?_
  split
  · split
    · exact h1
    · split
      · exact State.tidy_ite h1.setL1 h1.dropL1
      · split
        · exact State.tidy_ite h1.setL1 (State.tidy_ite h1 h1.dropV).setL1
        · exact State.tidy_ite h1.setL1 h1.dropL1
  · exact h1

theorem State.Tidy.refuseMsg {m : Msg} {c : Cause} (h : s.Tidy mem tab) : (s.refuseMsg m c).Tidy mem tab := by
  unfold State.refuseMsg
  refine State.Tidy.arrive ?_
  split
  · exact h.dropMsg.endPending.flushOwn.deferFailure
  · exact h.dropMsg.endPending.flushOwn

theorem State.Tidy.answer {m : Msg} (h : s.Tidy mem tab) : (s.answer m).Tidy mem tab :=
  { h with }

theorem State.Tidy.countRoom {l : Nat} (h : s.Tidy mem tab) : (s.countRoom l).Tidy mem tab := by
  unfold State.countRoom
  dsimp only
  split
  · exact h
  · split
    · exact h.setLine
    · exact h

theorem State.Tidy.countRead {dpa obj version : Nat} (h : s.Tidy mem tab) : (s.countRead dpa obj version).Tidy mem tab :=
  State.tidy_ite h.countRoom.setLine (State.tidy_foldl h.countRoom.setLine fun _ _ h1 => h1.setRedirects)

theorem State.Tidy.noteRead {who : Who} {dpa : Nat} (h : s.Tidy mem tab) : (s.noteRead who dpa).Tidy mem tab := by
  unfold State.noteRead
  split
  · exact State.tidy_ite h.countRead h
  · exact h

theorem State.Tidy.routedRead {bh ni : Nat} {who : Who} {dpa : Nat} (h : s.Tidy mem tab) :
    (s.routedRead bh ni who dpa).2.Tidy mem tab := by
  unfold State.routedRead
  split
  · split
    · exact (h.route.pair ‹_›).holeCheck
    · exact (h.route.pair ‹_›).noteRead.holeCheck

theorem State.Tidy.serveLoad {m : Msg} {keep : Bool} (h : s.Tidy mem tab) : (s.serveLoad m keep).Tidy mem tab :=
  (State.tidy_ite h.holeCheck.noteRead h.holeCheck).answer

theorem State.Tidy.writeOwned {core dpa n v : Nat} (h : s.Tidy mem tab) : (s.writeOwned core dpa n v).Tidy mem tab := by
  unfold State.writeOwned
  refine State.tidy_foldl h fun _ _ h1 => ?_
  split
  · exact h1.setL1
  · exact h1

theorem State.Tidy.register {m : Msg} (h : s.Tidy mem tab) : (s.register m).Tidy mem tab :=
  State.Tidy.answer (State.tidy_foldl (State.tidy_foldl h.lcsStep fun _ _ h1 => { h1 with home := h1.home.store })
    fun _ _ h1 => h1.setPoison)

theorem State.Tidy.serveStore {m : Msg} (h : s.Tidy mem tab) : (s.serveStore m).Tidy mem tab := by
  unfold State.serveStore
  split
  · exact h.refuseMsg
  · exact (h.homeWrite.of_ok ‹_›).answer

theorem State.Tidy.serveAtomic {m : Msg} {sc : Bool} (h : s.Tidy mem tab) : (s.serveAtomic m sc).Tidy mem tab := by
  unfold State.serveAtomic
  split
  · exact h.refuseMsg
  · extract_lets s1
    have h1 : s1.Tidy mem tab := h.settleAll
    clear_value s1
    split
    extract_lets p
    split
    · exact (State.tidy_ite h1.lcsStep h1).answer
    · split
      · exact h1.refuseMsg
      · exact (h1.homeWrite.of_ok ‹_›).answer

theorem State.Tidy.standWatch {m : Msg} (h : s.Tidy mem tab) : (s.standWatch m).Tidy mem tab :=
  State.tidy_ite h.settleAll.answer (State.tidy_ite h.settleAll.dropMsg.modBh h.settleAll.setMsg)

theorem State.Tidy.registerOr {m : Msg} {f : State → State} (h : s.Tidy mem tab)
    (hf : ∀ u, u.Tidy mem tab → (f u).Tidy mem tab) : (s.registerOr m f).Tidy mem tab :=
  State.tidy_ite h.makeRoom.register (hf _ h.makeRoom)

theorem State.Tidy.perform {m : Msg} (h : s.Tidy mem tab) : (s.perform m).Tidy mem tab := by
  unfold State.perform
  split
  · exact h.serveLoad
  · exact h.serveLoad
  · exact h.serveLoad
  · exact State.tidy_ite h.serveLoad (h.registerOr fun _ h1 => h1.serveLoad)
  · split
    · exact h.refuseMsg
    · exact State.tidy_ite h.serveStore (h.registerOr fun _ h1 => h1.serveStore)
  · exact h.serveStore
  · exact h.serveStore
  · exact h.serveStore
  · exact h.serveStore
  · split
    · exact h.refuseMsg
    · exact State.tidy_ite h.serveAtomic (h.registerOr fun _ h1 => h1.serveAtomic)
  · exact h.serveAtomic
  · exact h.serveAtomic
  · exact h.settleAll.lcsStep.serveLoad
  · exact h.standWatch
  · exact h

theorem State.Tidy.ownersMeet {core dpa n : Nat} (h : s.Tidy mem tab) : (s.ownersMeet core dpa n).Tidy mem tab := by
  unfold State.ownersMeet
  refine State.tidy_foldl h fun _ _ h1 => ?_
  split
  · exact h1.meet
  · exact h1

theorem State.Tidy.revoke {m : Msg} (h : s.Tidy mem tab) : (s.revoke m).Tidy mem tab :=
  State.tidy_ite h (State.tidy_foldl h fun _ _ h1 => h1.settle).perform

theorem State.Tidy.forward {m : Msg} (h : s.Tidy mem tab) : (s.forward m).Tidy mem tab :=
  h.ownersMeet.perform

theorem State.Tidy.ownWords {core : Nat} {words : Table Word} {p : Option PoisonLevel} (h : s.Tidy mem tab) :
    (s.ownWords core words p).Tidy mem tab :=
  State.tidy_foldl h fun _ _ h1 => h1.setL1

theorem State.Tidy.atomicOwned {core dpa n : Nat} {op : AtOp} {x cmp : Nat} (h : s.Tidy mem tab) :
    (s.atomicOwned core dpa n op x cmp).2.Tidy mem tab := by
  unfold State.atomicOwned
  dsimp only
  split
  · exact h.writeOwned
  · exact h

theorem State.Tidy.performOwned {m : Msg} (h : s.Tidy mem tab) : (s.performOwned m).Tidy mem tab :=
  State.tidy_ite h.atomicOwned.arrive (State.tidy_ite h.writeOwned.arrive h.arrive)

theorem State.Tidy.performWaiting {core : Nat} (h : s.Tidy mem tab) : (s.performWaiting core).Tidy mem tab :=
  State.tidy_foldl_snd h fun _ _ h1 => State.tidy_ite_snd h1 (State.tidy_ite_snd h1.dropMsg.performOwned h1)

theorem State.Tidy.serve {m : Msg} (h : s.Tidy mem tab) : (s.serve m).Tidy mem tab := by
  unfold State.serve
  split
  · exact h.dropMsg.performOwned
  · split
    · exact h.resend
    · split
      · exact h
      · split
        · exact State.tidy_ite h.lcsTakeAt.serveLoad h.setMsg
        · exact State.tidy_ite h.lcsTake.perform h.lcsTake.setMsg

theorem State.Tidy.landGrant {m : Msg} (h : s.Tidy mem tab) : (s.landGrant m).Tidy mem tab :=
  State.tidy_ite (State.tidy_foldl h.lccTake.dropMsg.l1Room fun _ _ h1 =>
    h1.flushWord).ownWords.performOwned.performWaiting (State.tidy_foldl
    (State.tidy_foldl h.lccTake.dropMsg.l1Room fun _ _ h1 => h1.flushWord).ownWords.performOwned.performWaiting
    fun _ _ h1 => h1.leaveWord)

theorem State.Tidy.fillWords {m : Msg} (h : s.Tidy mem tab) : (s.fillWords m).Tidy mem tab :=
  State.tidy_ite (State.tidy_ite_snd h h.l1Room) (State.tidy_foldl
    ((State.tidy_ite_snd h h.l1Room).modCore fun _ h1 => { h1 with }) fun _ _ h1 => State.tidy_ite h1 h1.setL1)

theorem State.Tidy.dropVs {core dpa n : Nat} (h : s.Tidy mem tab) : (s.dropVs core dpa n).Tidy mem tab :=
  State.tidy_foldl h fun _ _ h1 => h1.dropV

theorem State.Tidy.landFill {m : Msg} (h : s.Tidy mem tab) : (s.landFill m).Tidy mem tab :=
  (State.tidy_ite h.lccTake.dropMsg.dropVs.fillWords h.lccTake.dropMsg.dropVs).flushOwn.arrive

theorem State.Tidy.landAck {m : Msg} (h : s.Tidy mem tab) : (s.landAck m).Tidy mem tab :=
  h.lccTake.dropMsg.dropVs.endPending.flushOwn.arrive

theorem State.Tidy.landWhenFirst {m : Msg} {f : State → Msg → State} (h : s.Tidy mem tab)
    (hf : ∀ u m, u.Tidy mem tab → (f u m).Tidy mem tab) : (s.landWhenFirst m f).Tidy mem tab :=
  State.tidy_ite (hf _ _ h) h

theorem State.Tidy.onMsg {id : Nat} {ok : MsgKind → Bool} {f : Msg → State} (h : s.Tidy mem tab)
    (hf : ∀ m, (f m).Tidy mem tab) : Out.Tidy mem tab (s.onMsg id ok f) := by
  unfold State.onMsg
  split
  · exact Out.tidy_ite (.next (hf _)) (.next h)
  · exact .next h

theorem State.Tidy.flushCore {core : Nat} (h : s.Tidy mem tab) : (s.flushCore core).Tidy mem tab :=
  State.tidy_foldl h fun _ _ h1 => State.tidy_ite h1 h1.flushWord

theorem State.Tidy.addPend {p : Pend} (h : s.Tidy mem tab) : (s.addPend p).Tidy mem tab :=
  { h with }

theorem State.Tidy.inParts {g : Group} {w : Wait} {start : Nat → State → Nat × State} {done : Pend → State → Res}
    (h : s.Tidy mem tab) (hstart : ∀ n u, u.Tidy mem tab → (start n u).2.Tidy mem tab)
    (hdone : ∀ p u, u.Tidy mem tab → (done p u).Tidy mem tab) : (s.inParts g w start done).Tidy mem tab := by
  unfold State.inParts
  extract_lets pc
  split
  · exact Res.tidy_ite (hdone _ _ h.dropPend) (.stall h)
  · have h2 := hstart s.fresh.1 s.fresh.2 h.fresh
    exact Res.tidy_ite (hdone _ _ h2) (.stall h2.addPend)

end Sys2Proof.Machine
end

section
/-! SUPPORT. What Machine/Paging.lean defines keeps a state tidy: frames, write-backs, shootdown and revocation. -/

namespace Sys2Proof.Machine

variable {mem tab : Prop} {s : State}

theorem State.Tidy.revertLine {l : Nat} (h : s.Tidy mem tab) : (s.revertLine l).Tidy mem tab := by
  unfold State.revertLine
  extract_lets s1 x s2
  have h1 : s1.Tidy mem tab := h.settleLine
  have h2 : s2.Tidy mem tab := h1.setLine
  clear_value s2
  generalize Memory.bytes s1.hbm (128 * l) 128 = bs
  exact State.tidy_ite { h2 with home := h1.home.putBytes } h1

theorem State.Tidy.syncPins {f : Nat} (h : s.Tidy mem tab) : (s.syncPins f).Tidy mem tab :=
  State.tidy_ite h.fdRead h.fdRead.setFd

theorem State.Tidy.postPinRevoked {asid b page n : Nat} (h : s.Tidy mem tab) :
    (s.postPinRevoked asid b page n).Tidy mem tab :=
  h.postCtx

theorem State.Tidy.dropFrame {f : Nat} (h : s.Tidy mem tab) : (s.dropFrame f).Tidy mem tab := by
  unfold State.dropFrame
  extract_lets s1
  have h1 : s1.Tidy mem tab := State.tidy_foldl h fun _ _ hu => hu.settle
  exact { h1 with cores := h1.cores.map fun _ hc => { hc with } }

theorem State.Tidy.freeFrame {f d : Nat} {zr : Bool} (h : s.Tidy mem tab) : (s.freeFrame f d zr).2.Tidy mem tab := by
  unfold State.freeFrame
  extract_lets b s0 s1 pins s2 s3 d1
  have h1 : s1.Tidy mem tab := State.tidy_foldl h.dropFrame fun _ _ hu => hu.revertLine
  clear_value s1
  have h2 : s2.Tidy mem tab := { h1 with }
  have h3 : s3.Tidy mem tab := State.tidy_foldl h2 fun _ _ hu => hu.free.postPinRevoked
  dsimp only
  exact h3.setFd.modBh

theorem State.Tidy.fdCommand {gid op frame : Nat} {zf : Bool} (h : s.Tidy mem tab) :
    (s.fdCommand gid op frame zf).Tidy mem tab := by
  unfold State.fdCommand
  refine State.Tidy.modGroup ?_
  split
  · exact State.tidy_ite h.fdRead h
  · split
    · exact (State.tidy_ite h.fdRead h).setFd
    · exact State.tidy_ite_thd (State.tidy_ite h.fdRead h).freeFrame (State.tidy_ite h.fdRead h).setFd
    · exact (State.tidy_ite h.fdRead h).freeFrame
    · exact State.tidy_ite h.fdRead h

theorem State.Tidy.poolPop {b : Nat} (h : s.Tidy mem tab) : (s.poolPop b).2.Tidy mem tab :=
  State.tidy_ite_snd h (State.tidy_ite h.fdRead.setFd.modBh.postSup h.fdRead.setFd.modBh)

theorem State.Tidy.engineFrames {b n : Nat} (h : s.Tidy mem tab) : (s.engineFrames b n).2.Tidy mem tab := by
  induction n generalizing s with
  | zero => exact h
  | succ n ih => exact ih h.poolPop.fdRead.setFd

theorem State.Tidy.freeEngineFrames {fs : List Nat} (h : s.Tidy mem tab) : (s.freeEngineFrames fs).Tidy mem tab :=
  State.tidy_foldl h fun _ _ h1 => h1.fdRead.freeFrame

theorem State.Tidy.purge {asid : Option Nat} {first count : Nat} (h : s.Tidy mem tab) :
    (s.purge asid first count).Tidy mem tab :=
  { h with groups := h.groups.map fun _ => rfl }

theorem State.Tidy.startShoot {x : Shoot} (h : s.Tidy mem tab) : (s.startShoot x).Tidy mem tab :=
  { (State.tidy_foldl h fun _ _ h1 => h1.flushCore).purge.fresh with }

theorem State.Tidy.mapTeams {f : Team → Team} (h : s.Tidy mem tab) : (s.mapTeams f).Tidy mem tab :=
  { h with teams := h.teams.map fun _ => rfl }

theorem State.Tidy.syncMirror {f : Nat} (h : s.Tidy mem tab) : (s.syncMirror f).Tidy mem tab :=
  State.tidy_ite h.fdRead h.fdRead.setFd

theorem State.Tidy.revokePins {asid : Option Nat} {frames : List (Nat × Nat)} (h : s.Tidy mem tab) :
    (s.revokePins asid frames).Tidy mem tab :=
  State.tidy_foldl (State.tidy_foldl (State.tidy_foldl h fun _ _ h1 => h1.writeBackLine.setLine) fun _ _ h1 =>
    h1.postPinRevoked) fun _ _ h1 => h1.syncPins

theorem State.Tidy.revokeMirrors {asid : Option Nat} {first count : Nat} (h : s.Tidy mem tab) :
    (s.revokeMirrors asid first count).Tidy mem tab :=
  State.tidy_foldl (State.tidy_foldl h.mapTeams fun _ _ h1 => h1.engineDone) fun _ _ h1 => h1.syncMirror

theorem State.Tidy.finishShoot {x : Shoot} (h : s.Tidy mem tab) : (s.finishShoot x).Tidy mem tab :=
  State.tidy_ite (State.Tidy.revokeMirrors (State.Tidy.revokePins { h with groups := h.groups.map fun _ => rfl }))
    { h with groups := h.groups.map fun _ => rfl }

theorem State.Tidy.entryRead {e level : Nat} (h : s.Tidy mem tab) : (s.entryRead e level).Tidy mem tab :=
  State.tidy_ite h.fdRead h

theorem State.Tidy.ptCommand {gid : Nat} {v : DWord} {pend : Option Nat} (h : s.Tidy mem tab) :
    (s.ptCommand gid v pend).Tidy mem tab := by
  unfold State.ptCommand
  split
  · exact h
  · dsimp only
    split
    · exact h.modGroup
    · split
      · exact h.modGroup
      · split
        · exact h.modGroup
        · exact State.tidy_ite h.entryRead.modGroup (State.tidy_ite h.entryRead.modGroup
            (State.tidy_ite h.entryRead.devWrite.modGroup h.entryRead.devWrite.modGroup.startShoot))

theorem State.tidy_onCurrent {f : Nat → State} (hf : ∀ x, (f x).Tidy mem tab) : Out.Tidy mem tab (s.onCurrent f) := by
  unfold State.onCurrent
  split
  · exact .fault
  · exact .next (hf _)

theorem tidy_execPtCmd {v : DWord} (h : s.Tidy mem tab) : Out.Tidy mem tab (execPtCmd v s) :=
  State.tidy_onCurrent fun _ => h.ptCommand

theorem tidy_execFdRead {frame : BitVec 23} (h : s.Tidy mem tab) : Out.Tidy mem tab (execFdRead frame s) :=
  State.tidy_onCurrent fun _ => h.fdCommand

theorem tidy_execFdInc {frame : BitVec 23} (h : s.Tidy mem tab) : Out.Tidy mem tab (execFdInc frame s) :=
  State.tidy_onCurrent fun _ => h.fdCommand

theorem tidy_execFdDec {frame : BitVec 23} (h : s.Tidy mem tab) : Out.Tidy mem tab (execFdDec frame s) :=
  State.tidy_onCurrent fun _ => h.fdCommand

theorem tidy_execFdFree {frame : BitVec 23} {zf : Bool} (h : s.Tidy mem tab) : Out.Tidy mem tab (execFdFree frame zf s) :=
  State.tidy_onCurrent fun _ => h.fdCommand

theorem tidy_execFpPop {d : BitVec 8} (h : s.Tidy mem tab) : Out.Tidy mem tab (execFpPop d s) :=
  State.tidy_onCurrent fun _ => h.poolPop.modGroup

theorem tidy_execTlbShoot {word : Nat} {v : DWord} (h : s.Tidy mem tab) : Out.Tidy mem tab (execTlbShoot word v s) :=
  Out.tidy_ite (.next { h with }) (Out.tidy_ite (.next h)
    (Out.tidy_ite (.next { h with }) (.next (State.Tidy.startShoot { h with }))))

theorem tidy_execShootdownComplete {id : Nat} (h : s.Tidy mem tab) : Out.Tidy mem tab (execShootdownComplete id s) := by
  unfold execShootdownComplete
  split
  · exact .next (State.tidy_ite h.finishShoot h)
  · exact .next h

end Sys2Proof.Machine
end

section
/-! SUPPORT. What Machine/LaneAccess.lean defines keeps a state tidy: the accesses of the lanes and the scratchpads. -/

namespace Sys2Proof.Machine

variable {mem tab : Prop} {s : State}

theorem State.Tidy.resolveLanes {go : State → Nat → Except AddrFault Pieces × State} {l : List Nat} (h : s.Tidy mem tab)
    (hgo : ∀ u i, u.Tidy mem tab → (go u i).2.Tidy mem tab) : (s.resolveLanes go l).2.Tidy mem tab := by
  induction l generalizing s with
  | nil => exact h
  | cons i t ih =>
    have h1 := ih (hgo s i h)
    unfold State.resolveLanes
    dsimp only
    split
    · exact h1
    · exact h1

/-- A scratchpad is replaced by a memory in canonical form. -/
theorem State.Tidy.setSpad {core asid : Nat} {m : Memory} (h : s.Tidy mem tab) (hm : Memory.WfIf mem m) :
    (s.setSpad core asid m).Tidy mem tab :=
  h.modCore fun _ hc => ⟨fun e he => (Table.mem_set he).elim (fun heq => heq ▸ hm) (hc.spad e)⟩

theorem State.Tidy.spad (h : s.Tidy mem tab) {core asid : Nat} : Memory.WfIf mem (s.spad core asid) := by
  unfold State.spad
  rcases Table.findD_mem (s.core core).spad asid [] with ⟨j, hj⟩ | h0
  · exact h.core.spad _ hj
  · rw [h0]
    exact .nil

theorem State.Tidy.spadStore {core asid off n v : Nat} (h : s.Tidy mem tab) :
    (s.spadStore core asid off n v).Tidy mem tab :=
  State.tidy_foldl (h.setSpad h.spad.store) fun _ _ h1 => h1.modCore fun _ h2 => { h2 with }

theorem State.Tidy.pipeRead {core asid dpa va n : Nat} {via : Bool} (h : s.Tidy mem tab) :
    (s.pipeRead core asid dpa va n via).2.2.Tidy mem tab :=
  State.tidy_ite_thd h (State.tidy_ite_snd h.ownersMeet.noteRead.holeCheck h.ownersMeet.routedRead).meetAt

theorem State.Tidy.resolvePipe {gid : Nat} {g : Group} {r : Reach} {k : AccessKind} {align : Bool} {a : DWord} {n : Nat}
    (h : s.Tidy mem tab) : (s.resolvePipe gid g r k align a n).2.Tidy mem tab :=
  State.tidy_ite_snd h h.resolve

theorem State.Tidy.linkDone {key : Nat} (h : s.Tidy mem tab) : (s.linkDone key).Tidy mem tab :=
  { h with }

theorem State.Tidy.linkHold {key : Nat} {pc : DWord} {p : Pieces} (h : s.Tidy mem tab) :
    (s.linkHold key pc p).Tidy mem tab := by
  unfold State.linkHold
  split
  · exact h
  · exact State.tidy_ite h { h with }

theorem State.Tidy.exported {bh : Nat} {k : AccessKind} {off : Nat} (h : s.Tidy mem tab) :
    (s.exported bh k off).Tidy mem tab := by
  unfold State.exported
  split
  · exact .refused h
  · split
    · exact .refused (h.translate.pair ‹_›)
    · split
      · exact .refused (h.translate.pair ‹_›)
      · exact .place (h.translate.pair ‹_›)

theorem State.Tidy.peerRead {n : Nat} (h : s.Tidy mem tab) : (s.peerRead n).2.Tidy mem tab := by
  unfold State.peerRead
  split
  · split
    · split
      · exact (h.free.pair ‹_›).free.pair ‹_›
      · exact (h.free.pair ‹_›).free.pair ‹_›

theorem PipeRead.tidy_of {r : Nat × Option Cause × State} (hr : r.2.2.Tidy mem tab) : (PipeRead.of r).Tidy mem tab :=
  ⟨hr⟩

theorem State.Tidy.readPiece {core asid : Nat} {x : Nat × Nat × Place} (h : s.Tidy mem tab) :
    (s.readPiece core asid x).Tidy mem tab := by
  unfold State.readPiece
  split
  · exact PipeRead.tidy_of h.pipeRead
  · exact PipeRead.tidy_of h.relay
  · split
    · split
      · exact PipeRead.tidy_of (h.exported.of_place ‹_›).pipeRead
      · exact PipeRead.tidy_of (h.exported.of_refused ‹_›)
    · split
      · exact PipeRead.tidy_of h
      · split
        · exact PipeRead.tidy_of (h.peerRead.pair ‹_›)
        · exact ⟨h.peerRead.pair ‹_›⟩
  · exact PipeRead.tidy_of h

theorem State.Tidy.readPieces {core asid : Nat} {p : Pieces} (h : s.Tidy mem tab) :
    (s.readPieces core asid p).Tidy mem tab :=
  List.foldlRecOn (motive := PipeRead.Tidy mem tab) p _ ⟨h⟩ fun _ hr _ _ => ⟨hr.after.readPiece.after⟩

theorem State.Tidy.recordRefused {gid : Nat} {pc a : DWord} {c : Cause} (h : s.Tidy mem tab) :
    (s.recordRefused gid pc a c).Tidy mem tab :=
  .refused h.deferFailure.linkDone

theorem State.Tidy.readRecord {gid : Nat} {g : Group} {pc : DWord} {n : Nat} {a : DWord} (h : s.Tidy mem tab) :
    (s.readRecord gid g pc n a).Tidy mem tab := by
  induction n generalizing s a with
  | zero => exact .dwords h
  | succ n ih =>
    unfold State.readRecord
    split
    · exact .trap (h.resolvePipe.pair ‹_›)
    · next p s1 heq =>
      have h1 : s1.Tidy mem tab := h.resolvePipe.pair heq
      dsimp only
      split
      · exact h1.recordRefused
      · split
        · exact .stall h1.linkHold
        · have h2 : (s1.readPieces (coreOf gid) g.asid p).after.Tidy mem tab := h1.readPieces.after
          split
          · exact h2.recordRefused
          · have h3 := ih (a := a + 8) (h2.linkDone (key := pipeKey gid s.curSlot))
            split
            · exact .dwords (h3.of_dwords ‹_›)
            · exact .stall (h3.of_stall ‹_›)
            · exact .trap (h3.of_trap ‹_›)
            · exact .refused (h3.of_refused ‹_›)

/-- The read of a record that is refused stops at a fault or runs through; both leave a tidy state. -/
theorem State.Tidy.recordFault {u : State} {gid : Nat} {g : Group} {n : Nat} {a : DWord} (h : s.Tidy mem tab)
    (he : s.recordFault gid g n a = .ok u ∨ ∃ t, s.recordFault gid g n a = .error (t, u)) : u.Tidy mem tab := by
  induction n generalizing s a with
  | zero =>
    rcases he with he | ⟨_, he⟩
    · exact Except.ok.inj he ▸ h
    · cases he
  | succ n ih =>
    unfold State.recordFault at he
    split at he
    · next f s1 heq =>
      rcases he with he | ⟨_, he⟩
      · cases he
      · cases he
        exact h.resolvePipe.pair heq
    · exact ih (h.resolvePipe.pair ‹_›) he

end Sys2Proof.Machine
end

section
/-! SUPPORT. What Machine/MemAccess.lean defines keeps a state tidy: loads, stores and fences, piece by piece. -/

namespace Sys2Proof.Machine

variable {mem tab : Prop} {s : State}

theorem State.Tidy.resolveAt {q : Asker} {r : Reach} {k : AccessKind} {align : Bool} {lane : Nat} {x : LaneAt} {n : Nat}
    (h : s.Tidy mem tab) : (s.resolveAt q r k align lane x n).2.Tidy mem tab := by
  unfold State.resolveAt
  split
  · exact h.resolve
  · exact h.resolveT
  · refine State.tidy_foldl_snd h fun _ _ h1 => ?_
    split
    · exact h1
    · split
      · exact h1.placeGlobal.pair ‹_›
      · exact h1.placeGlobal.pair ‹_›
  · exact h

theorem State.Tidy.flushWords {core dpa n : Nat} (h : s.Tidy mem tab) : (s.flushWords core dpa n).Tidy mem tab :=
  State.tidy_foldl h fun _ _ h1 => h1.flushWord

theorem State.Tidy.loadMem {c : Acc} {pend lane : Nat} {rq : ReqType} {acq : Bool} {off n dpa va : Nat}
    (h : s.Tidy mem tab) : (s.loadMem c pend lane rq acq off n dpa va).2.Tidy mem tab :=
  State.tidy_ite_snd h (State.tidy_ite h.flushWords.dropVs h.flushWords).send

theorem State.Tidy.askFabric {m : Msg} {device off : Nat} (h : s.Tidy mem tab) : (s.askFabric m device off).Tidy mem tab :=
  { h.fresh with }

/-- An access that the fabric turns back to this device is answered like one from the fabric. -/
theorem State.Tidy.localFabric {u : State} {c c1 : Acc} {k : AccessKind} {device off n dpa : Nat} {nc : Bool}
    (h : s.Tidy mem tab) (he : s.localFabric c k device off n = some (c1, dpa, nc, u)) : u.Tidy mem tab := by
  unfold State.localFabric at he
  split at he
  · cases he
  · split at he
    · next heq =>
      cases he
      exact h.exported.of_place heq
    · cases he

theorem State.Tidy.loadFabric {c : Acc} {q : Pend} {rq : ReqType} {acq : Bool} {lane off n device target : Nat}
    (h : s.Tidy mem tab) : (s.loadFabric c q rq acq lane off n device target).2.Tidy mem tab :=
  State.tidy_ite_snd h (State.tidy_ite h.dropVs h).askFabric

theorem State.Tidy.loadAt {c : Acc} {q : Pend} {mode : LoadMode} {lane off n dpa va : Nat} {nc priv : Bool}
    (h : s.Tidy mem tab) : (s.loadAt c q mode lane off n dpa va nc priv).2.Tidy mem tab := by
  unfold State.loadAt
  split
  · split
    · exact h.loadMem.pair ‹_›
    · exact h.loadMem.pair ‹_›
  · dsimp only
    exact h.flushWords.send
  · dsimp only
    exact h.flushWords.send

theorem State.Tidy.loadPiece {c : Acc} {q : Pend} {mode : LoadMode} {lane : Nat} {p : Nat × Nat × Place}
    (h : s.Tidy mem tab) : (s.loadPiece c q mode lane p).2.Tidy mem tab := by
  unfold State.loadPiece
  split
  · exact h.loadAt
  · exact h.relay
  · split
    · exact (h.localFabric ‹_›).loadAt
    · split
      · exact h.loadFabric
      · exact h.askFabric
      · exact h.askFabric
  · exact h

theorem State.Tidy.loadLanes {c : Acc} {mode : LoadMode} {q : Pend} {lanes : List (Nat × Pieces)} (h : s.Tidy mem tab) :
    (s.loadLanes c mode q lanes).2.Tidy mem tab :=
  State.tidy_foldl_snd h fun _ _ h1 => State.tidy_foldl_snd h1 fun _ _ h2 => h2.loadPiece

theorem State.Tidy.begin {q : Pend} (h : s.Tidy mem tab) : (s.begin q).Tidy mem tab :=
  State.tidy_ite h.land h.modGroup.addPend

theorem State.Tidy.beginLoad {c : Acc} {g : Group} {dest : Dest} {m : Mask} {mode : LoadMode}
    {lanes : List (Nat × Pieces)} (h : s.Tidy mem tab) : (s.beginLoad c g dest m mode lanes).Tidy mem tab :=
  h.fresh.loadLanes.begin

theorem State.Tidy.overlayWord {core w dpa n v : Nat} {lazy : Option Lazy} (h : s.Tidy mem tab) :
    (s.overlayWord core w dpa n v lazy).Tidy mem tab :=
  State.tidy_ite h h.setL1

theorem State.Tidy.overlay {core dpa n v : Nat} (h : s.Tidy mem tab) : (s.overlay core dpa n v).Tidy mem tab :=
  State.tidy_foldl h fun _ _ h1 => h1.overlayWord

theorem State.Tidy.sendStore {c : Acc} {kind : MsgKind} {lane off n dpa va v : Nat} (h : s.Tidy mem tab) :
    (s.sendStore c kind lane off n dpa va v).Tidy mem tab :=
  (State.tidy_ite h.flushWords.l1Room.overlay h.flushWords.l1Room).send

theorem State.Tidy.keepStore {c : Acc} {own : Bool} {lane off n dpa va v : Nat} (h : s.Tidy mem tab) :
    (s.keepStore c own lane off n dpa va v).Tidy mem tab :=
  State.tidy_ite (State.tidy_ite h.flushWords h).l1Room.send
    (State.tidy_foldl (State.tidy_ite h.flushWords h).l1Room fun _ _ h1 => h1.overlayWord)

theorem State.Tidy.storeMem {c : Acc} {rq : ReqType} {lane off n dpa va v : Nat} (h : s.Tidy mem tab) :
    (s.storeMem c rq lane off n dpa va v).Tidy mem tab := by
  unfold State.storeMem
  split
  · exact h.writeOwned
  · split
    · exact State.tidy_ite h.sendStore (State.tidy_ite h.keepStore h.sendStore)
    · exact State.tidy_ite h.sendStore h.sendStore
    · exact State.tidy_ite h.sendStore (State.tidy_ite (State.tidy_ite h.keepStore h.sendStore) h.dropVs.send)
    · exact State.tidy_ite h.sendStore h.keepStore

theorem State.Tidy.dropFabric {core device off n : Nat} (h : s.Tidy mem tab) :
    (s.dropFabric core device off n).Tidy mem tab :=
  State.tidy_foldl h fun _ _ h1 => h1.dropL1

theorem State.Tidy.post {c : Acc} {lane off n v device target : Nat} {a : DWord} (h : s.Tidy mem tab) :
    (s.post c lane off n v device target a).Tidy mem tab := by
  have h2 : (s.fresh.2.dropFabric c.core device target n).Tidy mem tab := h.fresh.dropFabric
  exact State.Tidy.withPosted h2

theorem State.Tidy.postEach {c : Acc} {members : List Nat} {put : State → Nat → State} {refuse : State → State}
    (h : s.Tidy mem tab) (hput : ∀ u x, u.Tidy mem tab → (put u x).Tidy mem tab)
    (hrefuse : ∀ u, u.Tidy mem tab → (refuse u).Tidy mem tab) : (s.postEach c members put refuse).Tidy mem tab :=
  State.tidy_ite (State.tidy_foldl h fun _ _ h1 => hput _ _ h1) (hrefuse _ (State.tidy_foldl h fun _ _ h1 => hput _ _ h1))

theorem State.Tidy.storePiece {c : Acc} {mode : StoreMode} {lane v : Nat} {a : DWord} {p : Nat × Nat × Place}
    (h : s.Tidy mem tab) : (s.storePiece c mode lane v a p).2.Tidy mem tab := by
  unfold State.storePiece
  dsimp only
  split
  · split
    · exact h.storeMem
    · dsimp only
      exact h.flushWords.dropVs.send
    · dsimp only
      exact h.flushWords.dropVs.send
  · exact h.spadStore.relay
  · split
    · exact h.askFabric
    · exact h.post
  · exact h.postEach (fun _ _ h1 => h1.post) fun _ h1 => h1.deferFailure

theorem State.Tidy.logStore {j : RveJob} {x : LogEntry} (h : s.Tidy mem tab) : (s.logStore j x).2.Tidy mem tab :=
  State.tidy_ite_snd h (State.tidy_ite_snd h.engineFrames h).devWrite.devWrite.devWrite.devWrite

theorem State.Tidy.noteStore {gid : Nat} {g : Group} {a : DWord} {n v : Nat} (h : s.Tidy mem tab) :
    (s.noteStore gid g a n v).Tidy mem tab := by
  unfold State.noteStore
  split
  · dsimp only
    split
    · exact h.modGroup.logStore.modBh
    · exact h.modGroup
  · exact h.modGroup

theorem State.Tidy.storeLanes {c : Acc} {g : Group} {mode : StoreMode} {n : Nat} {at_ : Nat → LaneAt} {val : Nat → Nat}
    {lanes : List (Nat × Pieces)} (h : s.Tidy mem tab) : (s.storeLanes c g mode n at_ val lanes).2.Tidy mem tab :=
  State.tidy_foldl_snd h fun _ _ h1 => State.tidy_ite_snd (State.tidy_ite h1.noteStore h1)
    (State.tidy_foldl_snd (State.tidy_ite h1.noteStore h1) fun _ _ h2 => h2.storePiece)

theorem State.Tidy.sysDone {c : Acc} (h : s.Tidy mem tab) : (s.sysDone c).Tidy mem tab := by
  unfold State.sysDone
  split
  · dsimp only
    split
    · exact State.Tidy.deferFailure (State.Tidy.modGroup { h with })
    · exact State.Tidy.modGroup { h with }
  · dsimp only
    split
    · exact State.Tidy.modGroup { h with }
    · exact State.Tidy.modGroup { h with }

theorem State.Tidy.release {c : Acc} {sys : Bool} {go : State → Res} (h : s.Tidy mem tab)
    (hgo : ∀ u, u.Tidy mem tab → (go u).Tidy mem tab) : (s.release c sys go).Tidy mem tab := by
  unfold State.release
  split
  · dsimp only
    split
    · exact .ok h.flushCore
    · exact Res.tidy_ite (.stall h.flushCore) (hgo _ h.flushCore)
  · dsimp only
    split
    · exact .ok h.flushCore
    · exact Res.tidy_ite (.stall h.flushCore) (Res.tidy_ite (.stall h.flushCore.modGroup)
        (hgo _ h.flushCore.modGroup.sysDone))

theorem State.Tidy.releaseIf {c : Acc} {rel sys : Bool} {go : State → Res} (h : s.Tidy mem tab)
    (hgo : ∀ u, u.Tidy mem tab → (go u).Tidy mem tab) : (s.releaseIf c rel sys go).Tidy mem tab :=
  Res.tidy_ite (h.release fun _ h1 => hgo _ h1) (hgo _ h)

theorem State.Tidy.fence {c : Acc} {sys : Bool} {go : State → Res} (h : s.Tidy mem tab)
    (hgo : ∀ u, u.Tidy mem tab → (go u).Tidy mem tab) : (s.fence c sys go).Tidy mem tab :=
  h.release fun _ h1 => Res.tidy_ite (.stall h1) (hgo _ h1.dropValid.modGroup)

theorem State.Tidy.memGo {g : Group} {srcs : List (List Nat × Bool)} {dst : List Nat} {go : State → Res}
    (h : s.Tidy mem tab) (hgo : ∀ u, u.Tidy mem tab → (go u).Tidy mem tab) : (s.memGo g srcs dst go).Tidy mem tab := by
  unfold State.memGo
  split
  · exact .trap h
  · exact .stall h
  · exact Res.tidy_ite (.stall h) (Res.Tidy.readRegs (hgo _ h))

theorem State.Tidy.withLanes {g : Group} {r : Reach} {k : AccessKind} {align : Bool} {m : Mask} {n : Nat}
    {at_ : Nat → LaneAt} {go : List (Nat × Pieces) → State → Res} (h : s.Tidy mem tab)
    (hgo : ∀ l u, u.Tidy mem tab → (go l u).Tidy mem tab) : (s.withLanes g r k align m n at_ go).Tidy mem tab :=
  Res.tidy_ite (hgo _ _ (h.resolveLanes fun _ _ h1 => h1.resolveAt)) (.trap (h.resolveLanes fun _ _ h1 => h1.resolveAt))

end Sys2Proof.Machine
end

section
/-! SUPPORT. What Machine/Control.lean defines keeps a state tidy: control and system instructions. -/

namespace Sys2Proof.Machine

variable {mem tab : Prop} {s : State}

theorem State.Tidy.issueAfter {op : Byte} {words : Nat} {used : List Nat} {body : Group → State → Res}
    {after : State → State} (h : s.Tidy mem tab) (hbody : ∀ g u, u.Tidy mem tab → (body g u).Tidy mem tab)
    (hafter : ∀ u, u.Tidy mem tab → (after u).Tidy mem tab) : Out.Tidy mem tab (s.issueAfter op words used body after) := by
  unfold State.issueAfter
  split
  · exact .fault
  · split
    · exact .next h.stalled
    · split
      · exact .next (hafter _ ((hbody _ _ h).of_ok ‹_›).retire)
      · exact .next (tidy_finish (hbody _ _ h))

theorem tidy_execNop {f : Word0} (h : s.Tidy mem tab) : Out.Tidy mem tab (execNop f s) :=
  h.issueWith fun _ _ h1 => .ok h1

theorem tidy_execNopExt {f : ExtA} (h : s.Tidy mem tab) : Out.Tidy mem tab (execNopExt f s) :=
  h.issueWith fun _ _ h1 => .ok h1

theorem State.Tidy.onlyTrap {c : Cause} (h : s.Tidy mem tab) : Out.Tidy mem tab (s.onlyTrap c) := by
  unfold State.onlyTrap
  split
  · exact .fault
  · exact .next h.takeTrap

theorem tidy_execTrap0 (h : s.Tidy mem tab) : Out.Tidy mem tab (execTrap0 s) :=
  h.onlyTrap

theorem tidy_execIll {w : Word} (h : s.Tidy mem tab) : Out.Tidy mem tab (execIll w s) :=
  h.onlyTrap

theorem State.Tidy.execE {op : Byte} {f : ExtE} {used : List Nat} {body : Group → State → Res} (h : s.Tidy mem tab)
    (hbody : ∀ g u, u.Tidy mem tab → (body g u).Tidy mem tab) : Out.Tidy mem tab (s.execE op f used body) := by
  unfold State.execE
  split
  · exact .fault
  · split
    · exact .next h.stalled
    · dsimp only
      split
      · exact .next h.setGroup.takeTrap
      · split
        · exact .next ((hbody _ _ h.setGroup).of_ok ‹_›).retired
        · exact .next ((hbody _ _ h.setGroup).of_stall ‹_›).modGroup.stalled
        · exact .next (State.tidy_ite ((hbody _ _ h.setGroup).of_trap ‹_›).modGroup
            ((hbody _ _ h.setGroup).of_trap ‹_›)).takeTrap

theorem State.Tidy.goto {a : DWord} (h : s.Tidy mem tab) : (s.goto a).Tidy mem tab :=
  h.modGroup

theorem State.Tidy.transfer {a : DWord} (h : s.Tidy mem tab) : (s.transfer a).Tidy mem tab :=
  Res.tidy_ite (.ok h.goto) (.trap h)

theorem tidy_branchBody {w2 : Word} {taken : Bool} {g : Group} (h : s.Tidy mem tab) :
    (branchBody w2 taken g s).Tidy mem tab :=
  Res.tidy_ite h.transfer (.ok h.goto)

theorem tidy_execBr {f : ExtE} (h : s.Tidy mem tab) : Out.Tidy mem tab (execBr f s) :=
  h.execE fun _ _ h1 => tidy_branchBody h1

theorem State.Tidy.execBc {op : Byte} {f : ExtE} {cond : DWord → DWord → Bool} (h : s.Tidy mem tab) :
    Out.Tidy mem tab (s.execBc op f cond) :=
  h.execE fun _ _ h1 => tidy_branchBody h1

theorem tidy_execBcEq {f : ExtE} (h : s.Tidy mem tab) : Out.Tidy mem tab (execBcEq f s) :=
  h.execBc

theorem tidy_execBcNe {f : ExtE} (h : s.Tidy mem tab) : Out.Tidy mem tab (execBcNe f s) :=
  h.execBc

theorem tidy_execBcLt {f : ExtE} (h : s.Tidy mem tab) : Out.Tidy mem tab (execBcLt f s) :=
  h.execBc

theorem tidy_execBcGe {f : ExtE} (h : s.Tidy mem tab) : Out.Tidy mem tab (execBcGe f s) :=
  h.execBc

theorem tidy_execBcLtn {f : ExtE} (h : s.Tidy mem tab) : Out.Tidy mem tab (execBcLtn f s) :=
  h.execBc

theorem tidy_execBcGen {f : ExtE} (h : s.Tidy mem tab) : Out.Tidy mem tab (execBcGen f s) :=
  h.execBc

theorem State.Tidy.execBmask {op : Byte} {f : ExtE} {cond : Mask → Mask → Bool} (h : s.Tidy mem tab) :
    Out.Tidy mem tab (s.execBmask op f cond) :=
  h.execE fun _ _ h1 => tidy_branchBody h1

theorem tidy_execBany {f : ExtE} (h : s.Tidy mem tab) : Out.Tidy mem tab (execBany f s) :=
  h.execBmask

theorem tidy_execBall {f : ExtE} (h : s.Tidy mem tab) : Out.Tidy mem tab (execBall f s) :=
  h.execBmask

theorem tidy_execBnone {f : ExtE} (h : s.Tidy mem tab) : Out.Tidy mem tab (execBnone f s) :=
  h.execBmask

theorem Res.tidy_orKeep {r : Res} {gid : Nat} {g : Group} (hr : r.Tidy mem tab) : (Res.orKeep r gid g).Tidy mem tab := by
  unfold Res.orKeep
  split
  · exact hr
  · exact .stall (hr.of_stall rfl).setGroup
  · exact .trap (hr.of_trap rfl).setGroup

theorem State.Tidy.stackPieces {gid : Nat} {g : Group} {k : AccessKind} {level : Nat} (h : s.Tidy mem tab) :
    (s.stackPieces gid g k level).2.Tidy mem tab := by
  unfold State.stackPieces
  dsimp only
  split
  · exact h.resolveLanes fun _ _ h1 => h1.resolve
  · exact h.resolveLanes fun _ _ h1 => h1.resolve

theorem State.Tidy.readStack {gid : Nat} {g : Group} {level : Nat} {f : List Nat → State → Res} (h : s.Tidy mem tab)
    (hf : ∀ l u, u.Tidy mem tab → (f l u).Tidy mem tab) : (s.readStack gid g level f).Tidy mem tab := by
  unfold State.readStack
  split
  · exact .trap (h.stackPieces.pair ‹_›)
  · have h1 := h.stackPieces.pair ‹_›
    split
    · exact .stall h1
    · exact hf _ _ (State.Tidy.consume (State.tidy_foldl_thd h1 fun r _ hr => hr.readPieces.after))

theorem State.Tidy.writeStack {gid : Nat} {g : Group} {level : Nat} {ws : List Nat} (h : s.Tidy mem tab) :
    (s.writeStack gid g level ws).Tidy mem tab := by
  unfold State.writeStack
  split
  · exact .trap (h.stackPieces.pair ‹_›)
  · exact Res.tidy_ite (.stall (h.stackPieces.pair ‹_›)) (.ok
      (State.tidy_foldl (h.stackPieces.pair ‹_›) fun _ _ h1 => State.tidy_foldl h1 fun _ _ h2 => h2.storePiece))

theorem State.Tidy.endRegion {gid : Nat} (h : s.Tidy mem tab) : (s.endRegion gid).Tidy mem tab :=
  h.modGroup

theorem tidy_bdivBody {f : ExtE} {g : Group} (h : s.Tidy mem tab) : (bdivBody f g s).Tidy mem tab :=
  Res.tidy_ite (.ok h.endRegion.goto) (Res.tidy_ite (.trap h)
    (Res.tidy_ite (.ok h.endRegion.goto) (Res.tidy_ite (.ok h.endRegion.modGroup)
    (Res.tidy_ite (.trap h) (Res.tidy_andThen h.writeStack fun _ h1 => .ok h1.endRegion.modGroup.modGroup)))))

theorem tidy_execBdiv {f : ExtE} (h : s.Tidy mem tab) : Out.Tidy mem tab (execBdiv f s) :=
  h.execE fun _ _ h1 => tidy_bdivBody h1

theorem State.Tidy.joinTable {gid : Nat} {slot : Bool} {fuel : Nat} (h : s.Tidy mem tab) :
    (s.joinTable gid slot fuel).Tidy mem tab := by
  induction fuel generalizing s with
  | zero => exact .ok h
  | succ fuel ih =>
    unfold State.joinTable
    split
    · exact .ok h
    · extract_lets p q wait goOn
      have hwait : (wait s).Tidy mem tab := h.modGroup
      have hgo : ∀ m, (goOn m).Tidy mem tab := fun m =>
        Res.tidy_ite (.ok h.modGroup) (h.readStack fun _ _ h1 => .ok h1.modGroup)
      refine Res.tidy_ite (Res.tidy_ite (.ok hwait) (Res.tidy_ite (hgo _) (.trap hwait)))
        (Res.tidy_ite (hgo _) (h.readStack fun _ _ h1 => ?_))
      refine Res.tidy_ite (.trap h1) (Res.tidy_ite ?_ (.ok h1.modGroup))
      exact Res.tidy_ite (ih h1.modGroup) (.ok h1.modGroup)

theorem tidy_execJoin {f : ExtE} (h : s.Tidy mem tab) : Out.Tidy mem tab (execJoin f s) := by
  unfold execJoin
  refine h.execE fun _ _ h1 => ?_
  split
  · exact Res.tidy_ite (.ok (h1.joinTable.of_trap ‹_›).takeTrap) (Res.tidy_orKeep (.trap (h1.joinTable.of_trap ‹_›)))
  · exact Res.tidy_orKeep h1.joinTable

theorem State.Tidy.afterExit {gid : Nat} {slot : Bool} (h : s.Tidy mem tab) : (s.afterExit gid slot).Tidy mem tab := by
  unfold State.afterExit
  split
  · exact .ok h
  · exact Res.tidy_ite (Res.tidy_ite (State.tidy_ite h.leaveHandler h).joinTable (.ok (State.tidy_ite h.leaveHandler h)))
      (Res.tidy_ite (h.readStack fun _ _ h1 => Res.tidy_ite (.trap h1)
      (Res.tidy_ite (State.tidy_ite h1.modGroup.leaveHandler h1.modGroup).joinTable
      (.ok (State.tidy_ite h1.modGroup.leaveHandler h1.modGroup)))) (.ok h.modGroup.groupGone.flushCore))

theorem tidy_execExit {f : ExtE} (h : s.Tidy mem tab) : Out.Tidy mem tab (execExit f s) := by
  unfold execExit
  refine h.execE fun _ _ h1 => ?_
  split
  · exact Res.tidy_ite (.ok (h1.endRegion.modGroup.afterExit.of_trap ‹_›).takeTrap)
      (Res.tidy_orKeep (.trap (h1.endRegion.modGroup.afterExit.of_trap ‹_›)))
  · exact Res.tidy_orKeep h1.endRegion.modGroup.afterExit

theorem tidy_callBody {d : Byte} {link tgt : DWord} (h : s.Tidy mem tab) : (callBody d link tgt s).Tidy mem tab :=
  Res.tidy_ite (.ok h.modGroup.endRegion.goto) (.trap h)

theorem tidy_execCall {f : ExtE} (h : s.Tidy mem tab) : Out.Tidy mem tab (execCall f s) :=
  h.execE fun _ _ h1 => tidy_callBody h1

theorem tidy_execCallAbsolute {f : ExtE} {lit : DWord} (h : s.Tidy mem tab) :
    Out.Tidy mem tab (execCallAbsolute f lit s) :=
  h.execE fun _ _ h1 => tidy_callBody h1

theorem tidy_execRet {f : ExtE} (h : s.Tidy mem tab) : Out.Tidy mem tab (execRet f s) :=
  h.execE fun _ _ h1 => h1.transfer

theorem tidy_execJmp {f : ExtE} (h : s.Tidy mem tab) : Out.Tidy mem tab (execJmp f s) :=
  h.execE fun _ _ h1 => h1.transfer

theorem tidy_execJmpAbsolute {f : ExtE} {lit : DWord} (h : s.Tidy mem tab) : Out.Tidy mem tab (execJmpAbsolute f lit s) :=
  h.execE fun _ _ h1 => h1.transfer

theorem tidy_idemBody {words : Nat} {g : Group} (h : s.Tidy mem tab) : (idemBody words g s).Tidy mem tab :=
  Res.tidy_ite (.trap h) (.ok h.setGroup)

theorem tidy_execIdem {f : Word0} (h : s.Tidy mem tab) : Out.Tidy mem tab (execIdem f s) :=
  h.issueWith fun _ _ h1 => tidy_idemBody h1

theorem tidy_execIdemExt {f : ExtA} (h : s.Tidy mem tab) : Out.Tidy mem tab (execIdemExt f s) :=
  h.issueWith fun _ _ h1 => tidy_idemBody h1

theorem tidy_stepBody {n : DWord} {g : Group} (h : s.Tidy mem tab) : (stepBody n g s).Tidy mem tab :=
  Res.tidy_ite (.trap h) (.ok h.setGroup)

theorem State.Tidy.stopAtCut {gid : Nat} (h : s.Tidy mem tab) : (s.stopAtCut gid).Tidy mem tab := by
  unfold State.stopAtCut
  split
  · exact h
  · exact State.tidy_ite h.modGroup h

theorem tidy_execStep {f : Word0} (h : s.Tidy mem tab) : Out.Tidy mem tab (execStep f s) :=
  h.issueAfter (fun _ _ h1 => tidy_stepBody h1) fun _ h1 => h1.stopAtCut

theorem tidy_execStepExt {f : ExtA} (h : s.Tidy mem tab) : Out.Tidy mem tab (execStepExt f s) :=
  h.issueAfter (fun _ _ h1 => tidy_stepBody h1) fun _ h1 => h1.stopAtCut

theorem tidy_execTrap {f : ExtE} (h : s.Tidy mem tab) : Out.Tidy mem tab (execTrap f s) :=
  h.execE fun _ _ h1 => .trap h1

theorem tidy_brkBody {n : DWord} {g : Group} {words : Nat} (h : s.Tidy mem tab) : (brkBody n g s words).Tidy mem tab :=
  Res.tidy_ite (.trap h) (Res.tidy_ite (.trap h.modGroup) (.ok h))

theorem tidy_execBrk {f : Word0} (h : s.Tidy mem tab) : Out.Tidy mem tab (execBrk f s) :=
  h.issueWith fun _ _ h1 => tidy_brkBody h1

theorem tidy_execBrkExt {f : ExtA} (h : s.Tidy mem tab) : Out.Tidy mem tab (execBrkExt f s) :=
  h.issueWith fun _ _ h1 => tidy_brkBody h1

theorem tidy_execEret {f : ExtE} (h : s.Tidy mem tab) : Out.Tidy mem tab (execEret f s) :=
  h.execE fun _ _ h1 => Res.tidy_ite (.trap h1) (Res.tidy_ite (.trap h1) (.ok h1.returnFromTrap))

theorem tidy_mfsysBody {f : ExtA} {g : Group} (h : s.Tidy mem tab) : (mfsysBody f g s).Tidy mem tab :=
  Res.tidy_ite (.trap h) (Res.tidy_ite (.trap h) (Res.tidy_ite (.ok h.poolPop.modGroup) (.ok h.setGroup)))

theorem tidy_execMfsys {f : ExtA} (h : s.Tidy mem tab) : Out.Tidy mem tab (execMfsys f s) :=
  h.execA fun _ _ h1 => tidy_mfsysBody h1

theorem State.Tidy.evqReads {b : Nat} {v : DWord} (h : s.Tidy mem tab) : (s.evqReads b v).Tidy mem tab :=
  State.tidy_ite (State.tidy_foldl h fun _ _ h1 => h1.fdRead) h

theorem State.Tidy.writeEvq {asid b : Nat} {v : DWord} (h : s.Tidy mem tab) : OptTidy mem tab (s.writeEvq asid b v) := by
  unfold State.writeEvq
  split
  · exact .none
  · split
    · dsimp only
      split
      · exact .some h.modInst
      · exact .none
    · exact .some h.modInst

theorem State.Tidy.writeScore {core v : Nat} (h : s.Tidy mem tab) : (s.writeScore core v).Tidy mem tab := by
  unfold State.writeScore
  extract_lets s1 s2
  have h1 : s1.Tidy mem tab := h.modCore fun _ hc => Core.tidy_score hc
  have h2 : s2.Tidy mem tab := h1.modCore fun _ hc => { hc with }
  exact State.tidy_ite h1.quarantine { h2 with teams := h2.teams.map fun _ => rfl }

theorem State.Tidy.writeLimit {core v : Nat} (h : s.Tidy mem tab) : (s.writeLimit core v).Tidy mem tab :=
  State.tidy_ite (State.Tidy.quarantine (h.modCore fun _ h1 => { h1 with })) (h.modCore fun _ h1 => { h1 with })

theorem State.Tidy.handOff {gid : Nat} {v : DWord} (h : s.Tidy mem tab) : (s.handOff gid v).Tidy mem tab := by
  unfold State.handOff
  split
  · exact h
  · exact h.modGroup.endHandler.plexWait.modGroup

theorem State.Tidy.sysWrite {gid : Nat} {g : Group} {n : Nat} {v : DWord} (h : s.Tidy mem tab) :
    (s.sysWrite gid g n v).Tidy mem tab := by
  unfold State.sysWrite
  split
  · exact SysWrite.tidy_ite (.done h.modGroup) (.refused h)
  · exact .done h.modGroup
  · exact .done h.modGroup
  · exact .done h.modGroup
  · exact SysWrite.tidy_ite (.command h) (.refused h)
  · exact SysWrite.tidy_ite (.done h.fdCommand) (.refused h)
  · exact SysWrite.tidy_ite (.handOff h.handOff) (.refused h)
  · dsimp only
    split
    · exact .done (h.evqReads.writeEvq.of_some ‹_›)
    · exact .refused h.evqReads
  · exact SysWrite.tidy_ite (.done h.writeScore) (.refused h)
  · exact SysWrite.tidy_ite (.done h.writeLimit) (.refused h)
  · split
    · exact .done h.modCtx
    · exact .refused h

theorem tidy_ptCmdBody {v : DWord} {g : Group} (h : s.Tidy mem tab) : (ptCmdBody v g s).Tidy mem tab :=
  h.inParts (fun _ _ h1 => h1.ptCommand) fun _ _ h1 => .ok h1

theorem tidy_execMtsys {f : ExtA} (h : s.Tidy mem tab) : Out.Tidy mem tab (execMtsys f s) := by
  unfold execMtsys
  split
  · exact .fault
  · split
    · exact .next h.stalled
    · dsimp only
      split
      · exact .next h.takeTrap
      · split
        · exact .next (h.sysWrite.of_done ‹_›).retire
        · exact .next (h.sysWrite.of_refused ‹_›).takeTrap
        · exact .next (h.sysWrite.of_handOff ‹_›)
        · exact .next (tidy_finish (tidy_ptCmdBody (h.sysWrite.of_command ‹_›)))

theorem tidy_execFtHandoff {v : DWord} (h : s.Tidy mem tab) : Out.Tidy mem tab (execFtHandoff v s) := by
  unfold execFtHandoff
  split
  · exact .fault
  · exact .next (State.tidy_ite h.handOff h.takeTrap)

theorem tidy_execYield {f : Word0} (h : s.Tidy mem tab) : Out.Tidy mem tab (execYield f s) :=
  h.issueWith fun _ _ h1 => .ok h1

theorem tidy_execYieldExt {f : ExtA} (h : s.Tidy mem tab) : Out.Tidy mem tab (execYieldExt f s) :=
  h.issueWith fun _ _ h1 => .ok h1

theorem tidy_tmsetBody {v : DWord} {g : Group} (h : s.Tidy mem tab) : (tmsetBody v g s).Tidy mem tab :=
  Res.tidy_ite (.trap h) (.ok h.setGroup)

theorem tidy_execTmset {f : Word0} (h : s.Tidy mem tab) : Out.Tidy mem tab (execTmset f s) :=
  h.issueWith fun _ _ h1 => tidy_tmsetBody h1

theorem tidy_execTmsetExt {f : ExtA} (h : s.Tidy mem tab) : Out.Tidy mem tab (execTmsetExt f s) :=
  h.issueWith fun _ _ h1 => tidy_tmsetBody h1

theorem tidy_rdcycBody {d : Byte} {g : Group} (h : s.Tidy mem tab) : (rdcycBody d g s).Tidy mem tab := by
  unfold rdcycBody
  split
  · exact .ok h.setGroup
  · exact Res.tidy_ite (.ok h.setGroup) (Res.tidy_ite (.stall h) (.ok h.setGroup))

theorem tidy_execRdcyc {f : Word0} (h : s.Tidy mem tab) : Out.Tidy mem tab (execRdcyc f s) :=
  h.issueWith fun _ _ h1 => tidy_rdcycBody h1

theorem tidy_execRdcycExt {f : ExtA} (h : s.Tidy mem tab) : Out.Tidy mem tab (execRdcycExt f s) :=
  h.issueWith fun _ _ h1 => tidy_rdcycBody h1

theorem tidy_detmBody {words : Nat} {m : DWord} {g : Group} (h : s.Tidy mem tab) : (detmBody words m g s).Tidy mem tab := by
  unfold detmBody
  split
  · exact .trap h
  · split
    · exact .ok h
    · exact Res.tidy_ite (.trap h) (Res.tidy_ite (.stall h) (Res.tidy_ite (.ok h.endDetms.modGroup) (.trap h.endDetms)))

theorem tidy_execDetm {f : Word0} (h : s.Tidy mem tab) : Out.Tidy mem tab (execDetm f s) :=
  h.issueWith fun _ _ h1 => tidy_detmBody h1

theorem tidy_execDetmExt {f : ExtA} (h : s.Tidy mem tab) : Out.Tidy mem tab (execDetmExt f s) :=
  h.issueWith fun _ _ h1 => tidy_detmBody h1

theorem tidy_execSigck {f : ExtE} (h : s.Tidy mem tab) : Out.Tidy mem tab (execSigck f s) :=
  h.execE fun _ _ h1 => .ok h1.goto

theorem Core.tidy_switch {c : Core} (hc : c.Tidy mem) : (Core.switch c).Tidy mem := by
  unfold Core.switch
  split
  · exact { hc with }
  · exact { hc with }

theorem State.Tidy.switchCore {core : Nat} (h : s.Tidy mem tab) : (s.switchCore core).Tidy mem tab := by
  unfold State.switchCore
  exact (State.tidy_foldl (h.modCore fun _ h1 => Core.tidy_switch h1) fun _ _ h1 => h1.releaseLeave).modBh

theorem tidy_execCtxsw {f : ExtA} (h : s.Tidy mem tab) : Out.Tidy mem tab (execCtxsw f s) :=
  h.execA fun _ _ h1 => Res.tidy_ite (.trap h1) (Res.tidy_ite (.trap h1)
    (.ok (State.tidy_foldl h1.setGroup fun _ _ h2 => h2.switchCore)))

theorem State.Tidy.poisonWord {w : Nat} (h : s.Tidy mem tab) : (s.poisonWord w).Tidy mem tab := by
  have h1 : (s.settle w).Tidy mem tab := h.settle
  exact { h1 with cores := h1.cores.map fun _ hc => { hc with } }

theorem tidy_finjBody {f : ExtA} {g : Group} (h : s.Tidy mem tab) : (finjBody f g s).Tidy mem tab := by
  unfold finjBody
  split
  · exact .trap h
  · split
    · dsimp only
      split
      · exact .trap h
      · split
        · exact .trap (h.resolvePipe.pair ‹_›)
        · split
          · split
            · exact .ok (h.resolvePipe.pair ‹_›).deferFailure
            · exact .ok (h.resolvePipe.pair ‹_›).poisonWord
          · exact .ok (h.resolvePipe.pair ‹_›)
    · exact .ok h.suspect
    · exact .ok h

theorem tidy_execFinj {f : ExtA} (h : s.Tidy mem tab) : Out.Tidy mem tab (execFinj f s) :=
  h.issueAfter (fun _ _ h1 => tidy_finjBody h1) fun _ h1 => State.tidy_ite h1.modGroup h1

end Sys2Proof.Machine
end

section
/-! SUPPORT. What Machine/Engine.lean defines keeps a state tidy: what the engines share. -/

namespace Sys2Proof.Machine

variable {mem tab : Prop} {s : State}

theorem State.Tidy.enginePieces {q : Asker} {k : AccessKind} {need : Nat} {a : DWord} {n : Nat} (h : s.Tidy mem tab) :
    (s.enginePieces q k need a n).Tidy mem tab := by
  unfold State.enginePieces
  split
  · exact .fail (h.resolve.pair ‹_›)
  · split
    · exact .fail (h.resolve.pair ‹_›)
    · exact .done (h.resolve.pair ‹_›)

theorem State.Tidy.engineRead {q : Asker} {dpa va n : Nat} (h : s.Tidy mem tab) :
    (s.engineRead q dpa va n).2.2.Tidy mem tab :=
  h.routedRead.engMeet

theorem State.Tidy.engHome {q : Asker} {dpa : Nat} (h : s.Tidy mem tab) : (s.engHome q dpa).Tidy mem tab :=
  h.engMeet

theorem State.Tidy.engineFabric {q : Asker} {device off n : Nat} (h : s.Tidy mem tab) :
    (s.engineFabric q device off n).2.Tidy mem tab := by
  unfold State.engineFabric
  split
  · split
    · exact (h.exported.of_place ‹_›).noteRead.holeCheck.engHome
    · exact h.exported.of_refused ‹_›
  · exact h.peerRead

theorem State.Tidy.enginePiece {q : Asker} {x : Nat × Nat × Place} (h : s.Tidy mem tab) :
    (s.enginePiece q x).2.Tidy mem tab := by
  unfold State.enginePiece
  split
  · split
    next heq => exact h.engineRead.triple heq
  · exact h
  · exact h.engineFabric
  · exact h

theorem State.Tidy.engineLoad {q : Asker} {a : DWord} {n : Nat} (h : s.Tidy mem tab) : (s.engineLoad q a n).Tidy mem tab := by
  unfold State.engineLoad
  split
  · exact .wait (h.enginePieces.of_wait ‹_›)
  · exact .fail (h.enginePieces.of_fail ‹_›)
  · have h1 := h.enginePieces.of_done ‹_›
    refine EngAns.tidy_ite (.fail h1.linkDone) (EngAns.tidy_ite (.wait (State.tidy_ite h1.linkHold h1)) ?_)
    extract_lets r
    have hr : r.2.Tidy mem tab := State.tidy_foldl_snd h1.linkDone fun acc x hacc => by
      split
      · exact hacc
      · split
        · exact hacc.enginePiece.pair ‹_›
        · exact hacc.enginePiece.pair ‹_›
    clear_value r
    split
    · exact .done hr
    · exact .fail hr

theorem State.Tidy.postWords {c : Acc} {a : DWord} {at_ n v device off : Nat} (h : s.Tidy mem tab) :
    (s.postWords c a at_ n v device off).Tidy mem tab :=
  State.tidy_foldl h fun _ _ h1 => h1.post

theorem State.Tidy.enginePut {q : Asker} {c : Acc} {a : DWord} {x : Nat × Nat × Place} {v : Nat} (h : s.Tidy mem tab) :
    (s.enginePut q c a x v).2.Tidy mem tab := by
  unfold State.enginePut
  split
  · split
    · exact (h.engHome.homeWrite.of_ok ‹_›).engHome
    · exact h
  · exact h.spadStore
  · exact h.postWords
  · exact h.postEach (fun _ _ h1 => h1.postWords) fun _ h1 => h1

theorem State.Tidy.engineStore {q : Asker} {c : Acc} {a : DWord} {n v : Nat} (h : s.Tidy mem tab) :
    (s.engineStore q c a n v).Tidy mem tab := by
  unfold State.engineStore
  split
  · exact .wait (h.enginePieces.of_wait ‹_›)
  · exact .fail (h.enginePieces.of_fail ‹_›)
  · next p s1 heq =>
    have h1 : s1.Tidy mem tab := h.enginePieces.of_done heq
    split
    · exact .wait h1
    · have h2 : ∀ l : Pieces, (l.foldl (fun (acc : Option Cause × State) x =>
          if acc.1.isSome then acc else acc.2.enginePut q c a x (pieceOf v x.1 x.2.1)) (none, s1)).2.Tidy mem tab :=
        fun l => State.tidy_foldl_snd h1 fun _ _ hr => State.tidy_ite_snd hr hr.enginePut
      split
      · exact .fail ((h2 p).pair ‹_›)
      · exact .done ((h2 p).pair ‹_›)

theorem State.Tidy.engineAdd {q : Asker} {a x : DWord} (h : s.Tidy mem tab) : (s.engineAdd q a x).Tidy mem tab := by
  unfold State.engineAdd
  split
  · exact .wait (h.enginePieces.of_wait ‹_›)
  · exact .fail (h.enginePieces.of_fail ‹_›)
  · split
    · exact .wait (h.enginePieces.of_done ‹_›)
    · split
      · dsimp only
        split
        · exact .done ((h.enginePieces.of_done ‹_›).engHome.settleAll.homeWrite.of_ok ‹_›).engHome
        · exact .fail (h.enginePieces.of_done ‹_›).engHome.settleAll
      · exact .fail (h.enginePieces.of_done ‹_›)

theorem State.Tidy.issueRequest {g : Group} {cls : Nat} {kind : EngKind} (h : s.Tidy mem tab) :
    (s.issueRequest g cls kind).2.Tidy mem tab :=
  { h.fresh with groups := h.fresh.groups.modify }

theorem State.Tidy.setRequest {r : EngReq} (h : s.Tidy mem tab) : (s.setRequest r).Tidy mem tab :=
  { h with }

theorem State.Tidy.waited {t : State} (h : s.Tidy mem tab) : (s.waited t).Tidy mem tab :=
  { h with }

theorem State.Tidy.requestWaits {id : Nat} {c : Cause} (h : s.Tidy mem tab) : (s.requestWaits id c).Tidy mem tab := by
  unfold State.requestWaits
  split
  · exact h.setRequest
  · exact h

theorem State.Tidy.requestFails {id : Nat} {c : Cause} {a : DWord} {k : BitVec 2} (h : s.Tidy mem tab) :
    (s.requestFails id c a k).Tidy mem tab := by
  unfold State.requestFails
  split
  · exact State.tidy_ite h.setRequest.requestWaits h.setRequest.engineDone
  · exact h

theorem State.Tidy.signalFor {bh asid : Nat} {sup : Bool} {addr : DWord} {task : Option Nat} (h : s.Tidy mem tab) :
    (s.signalFor bh asid sup addr task).Tidy mem tab :=
  { h.fresh with }

theorem State.Tidy.signal {bh asid : Nat} {sup : Bool} {addr : DWord} (h : s.Tidy mem tab) :
    (s.signal bh asid sup addr).Tidy mem tab :=
  State.tidy_ite h h.signalFor

theorem State.Tidy.modTender {bh seq : Nat} {f : Tender → Tender} (h : s.Tidy mem tab) :
    (s.modTender bh seq f).Tidy mem tab :=
  h.modBh

theorem State.Tidy.dropRequest {id : Nat} (h : s.Tidy mem tab) : (s.dropRequest id).Tidy mem tab :=
  { h with }

theorem State.Tidy.endSignal {r : EngReq} {task : Option Nat} (h : s.Tidy mem tab) : (s.endSignal r task).Tidy mem tab := by
  unfold State.endSignal
  split
  · exact h.dropRequest.modTender
  · exact h.dropRequest

theorem State.Tidy.signalLost {r : EngReq} {addr : DWord} {task : Option Nat} (h : s.Tidy mem tab) :
    (s.signalLost r addr task).Tidy mem tab :=
  h.postSup.endSignal

theorem State.Tidy.trySignal {r : EngReq} {addr : DWord} {task : Option Nat} (h : s.Tidy mem tab) :
    (s.trySignal r addr task).Tidy mem tab := by
  unfold State.trySignal
  split
  · exact h.signalLost
  · split
    · exact (h.engineAdd.of_done ‹_›).endSignal
    · exact h.engineAdd.of_wait ‹_›
    · exact State.tidy_ite (h.engineAdd.of_fail ‹_›).requestWaits (h.engineAdd.of_fail ‹_›).signalLost

theorem State.Tidy.rowCodes {q : Asker} {sh : Shape} {r c0 n key step : Nat} {acc : Codes} (h : s.Tidy mem tab) :
    (s.rowCodes q sh r c0 n key step acc).2.Tidy mem tab := by
  unfold State.rowCodes
  split
  · exact h
  · dsimp only
    split
    · exact h.engineLoad.of_done ‹_›
    · exact h.engineLoad.of_wait ‹_›
    · exact h.engineLoad.of_fail ‹_›

theorem State.Tidy.askLeave {tid cls : Nat} (h : s.Tidy mem tab) : (s.askLeave tid cls).Tidy mem tab := by
  unfold State.askLeave
  split
  · exact h
  · exact State.tidy_ite h h.modTeam.modBh

theorem State.Tidy.withLeave {g : Group} {cls : Option Nat} {go : State → Res} (h : s.Tidy mem tab)
    (hgo : ∀ u, u.Tidy mem tab → (go u).Tidy mem tab) : (s.withLeave g cls go).Tidy mem tab := by
  unfold State.withLeave
  split
  · exact Res.tidy_ite (hgo _ h) (.stall h.askLeave)
  · exact hgo _ h

end Sys2Proof.Machine
end

section
/-! SUPPORT. What Machine/Scalar.lean defines keeps a state tidy: the scalar instructions. -/

namespace Sys2Proof.Machine

variable {mem tab : Prop} {s : State}

theorem tidy_scalarOp {op : DWord → DWord → DWord} {f : ExtA} {g : Group} (h : s.Tidy mem tab) :
    (scalarOp op f g s).Tidy mem tab :=
  tidy_groupBody h

theorem tidy_scalarSat {op : Int → Int → Int} {f : ExtA} {g : Group} (h : s.Tidy mem tab) :
    (scalarSat op f g s).Tidy mem tab :=
  tidy_groupBody h

theorem tidy_execSadd {f : Word0} (h : s.Tidy mem tab) : Out.Tidy mem tab (execSadd f s) :=
  h.execC fun _ _ _ h1 => tidy_scalarSat h1

theorem tidy_execSaddExt {f : ExtA} (h : s.Tidy mem tab) : Out.Tidy mem tab (execSaddExt f s) :=
  h.execA fun _ _ h1 => tidy_scalarSat h1

theorem tidy_execSsub {f : Word0} (h : s.Tidy mem tab) : Out.Tidy mem tab (execSsub f s) :=
  h.execC fun _ _ _ h1 => tidy_scalarSat h1

theorem tidy_execSsubExt {f : ExtA} (h : s.Tidy mem tab) : Out.Tidy mem tab (execSsubExt f s) :=
  h.execA fun _ _ h1 => tidy_scalarSat h1

theorem tidy_execSmul {f : Word0} (h : s.Tidy mem tab) : Out.Tidy mem tab (execSmul f s) :=
  h.execC fun _ _ _ h1 => tidy_scalarOp h1

theorem tidy_execSmulExt {f : ExtA} (h : s.Tidy mem tab) : Out.Tidy mem tab (execSmulExt f s) :=
  h.execA fun _ _ h1 => tidy_scalarOp h1

theorem tidy_smulhBody {f : ExtA} {g : Group} (h : s.Tidy mem tab) : (smulhBody f g s).Tidy mem tab :=
  tidy_scalarOp h

theorem tidy_execSmulh {f : Word0} (h : s.Tidy mem tab) : Out.Tidy mem tab (execSmulh f s) :=
  h.execC fun _ _ _ h1 => tidy_smulhBody h1

theorem tidy_execSmulhExt {f : ExtA} (h : s.Tidy mem tab) : Out.Tidy mem tab (execSmulhExt f s) :=
  h.execA fun _ _ h1 => tidy_smulhBody h1

theorem tidy_execSand {f : Word0} (h : s.Tidy mem tab) : Out.Tidy mem tab (execSand f s) :=
  h.execC fun _ _ _ h1 => tidy_scalarOp h1

theorem tidy_execSandExt {f : ExtA} (h : s.Tidy mem tab) : Out.Tidy mem tab (execSandExt f s) :=
  h.execA fun _ _ h1 => tidy_scalarOp h1

theorem tidy_execSor {f : Word0} (h : s.Tidy mem tab) : Out.Tidy mem tab (execSor f s) :=
  h.execC fun _ _ _ h1 => tidy_scalarOp h1

theorem tidy_execSorExt {f : ExtA} (h : s.Tidy mem tab) : Out.Tidy mem tab (execSorExt f s) :=
  h.execA fun _ _ h1 => tidy_scalarOp h1

theorem tidy_execSxor {f : Word0} (h : s.Tidy mem tab) : Out.Tidy mem tab (execSxor f s) :=
  h.execC fun _ _ _ h1 => tidy_scalarOp h1

theorem tidy_execSxorExt {f : ExtA} (h : s.Tidy mem tab) : Out.Tidy mem tab (execSxorExt f s) :=
  h.execA fun _ _ h1 => tidy_scalarOp h1

theorem tidy_execSshl {f : Word0} (h : s.Tidy mem tab) : Out.Tidy mem tab (execSshl f s) :=
  h.execC fun _ _ _ h1 => tidy_scalarOp h1

theorem tidy_execSshlExt {f : ExtA} (h : s.Tidy mem tab) : Out.Tidy mem tab (execSshlExt f s) :=
  h.execA fun _ _ h1 => tidy_scalarOp h1

theorem tidy_execSshr {f : Word0} (h : s.Tidy mem tab) : Out.Tidy mem tab (execSshr f s) :=
  h.execC fun _ _ _ h1 => tidy_scalarOp h1

theorem tidy_execSshrExt {f : ExtA} (h : s.Tidy mem tab) : Out.Tidy mem tab (execSshrExt f s) :=
  h.execA fun _ _ h1 => tidy_scalarOp h1

theorem tidy_execSsra {f : Word0} (h : s.Tidy mem tab) : Out.Tidy mem tab (execSsra f s) :=
  h.execC fun _ _ _ h1 => tidy_scalarOp h1

theorem tidy_execSsraExt {f : ExtA} (h : s.Tidy mem tab) : Out.Tidy mem tab (execSsraExt f s) :=
  h.execA fun _ _ h1 => tidy_scalarOp h1

theorem tidy_execSmin {f : Word0} (h : s.Tidy mem tab) : Out.Tidy mem tab (execSmin f s) :=
  h.execC fun _ _ _ h1 => tidy_scalarOp h1

theorem tidy_execSminExt {f : ExtA} (h : s.Tidy mem tab) : Out.Tidy mem tab (execSminExt f s) :=
  h.execA fun _ _ h1 => tidy_scalarOp h1

theorem tidy_execSmax {f : Word0} (h : s.Tidy mem tab) : Out.Tidy mem tab (execSmax f s) :=
  h.execC fun _ _ _ h1 => tidy_scalarOp h1

theorem tidy_execSmaxExt {f : ExtA} (h : s.Tidy mem tab) : Out.Tidy mem tab (execSmaxExt f s) :=
  h.execA fun _ _ h1 => tidy_scalarOp h1

theorem tidy_execSminn {f : Word0} (h : s.Tidy mem tab) : Out.Tidy mem tab (execSminn f s) :=
  h.execC fun _ _ _ h1 => tidy_scalarOp h1

theorem tidy_execSminnExt {f : ExtA} (h : s.Tidy mem tab) : Out.Tidy mem tab (execSminnExt f s) :=
  h.execA fun _ _ h1 => tidy_scalarOp h1

theorem tidy_execSmaxn {f : Word0} (h : s.Tidy mem tab) : Out.Tidy mem tab (execSmaxn f s) :=
  h.execC fun _ _ _ h1 => tidy_scalarOp h1

theorem tidy_execSmaxnExt {f : ExtA} (h : s.Tidy mem tab) : Out.Tidy mem tab (execSmaxnExt f s) :=
  h.execA fun _ _ h1 => tidy_scalarOp h1

theorem tidy_smovBody {f : ExtA} {g : Group} (h : s.Tidy mem tab) : (smovBody f g s).Tidy mem tab :=
  tidy_groupBody h

theorem tidy_sliBody {f : ExtA} {g : Group} (h : s.Tidy mem tab) : (sliBody f g s).Tidy mem tab :=
  tidy_groupBody h

theorem tidy_ssetBody {f : ExtA} {g : Group} (h : s.Tidy mem tab) : (ssetBody f g s).Tidy mem tab :=
  tidy_scalarOp h

theorem tidy_sselBody {f : ExtA} {g : Group} (h : s.Tidy mem tab) : (sselBody f g s).Tidy mem tab :=
  tidy_groupBody h

theorem tidy_sdivBody {f : ExtA} {g : Group} (h : s.Tidy mem tab) : (sdivBody f g s).Tidy mem tab :=
  tidy_scalarOp h

theorem tidy_execSmov {f : Word0} (h : s.Tidy mem tab) : Out.Tidy mem tab (execSmov f s) :=
  h.execC fun _ _ _ h1 => tidy_smovBody h1

theorem tidy_execSmovExt {f : ExtA} (h : s.Tidy mem tab) : Out.Tidy mem tab (execSmovExt f s) :=
  h.execA fun _ _ h1 => tidy_smovBody h1

theorem tidy_execSli {f : Word0} (h : s.Tidy mem tab) : Out.Tidy mem tab (execSli f s) :=
  h.execC fun _ _ _ h1 => tidy_sliBody h1

theorem tidy_execSliExt {f : ExtA} (h : s.Tidy mem tab) : Out.Tidy mem tab (execSliExt f s) :=
  h.execA fun _ _ h1 => tidy_sliBody h1

theorem tidy_execSliLiteral {f : Word0} {lit : DWord} (h : s.Tidy mem tab) : Out.Tidy mem tab (execSliLiteral f lit s) :=
  h.issueWith fun _ _ h1 => tidy_groupBody h1

theorem tidy_execSset {f : Word0} (h : s.Tidy mem tab) : Out.Tidy mem tab (execSset f s) :=
  h.execC fun _ _ _ h1 => tidy_ssetBody h1

theorem tidy_execSsetExt {f : ExtA} (h : s.Tidy mem tab) : Out.Tidy mem tab (execSsetExt f s) :=
  h.execA fun _ _ h1 => tidy_ssetBody h1

theorem tidy_execSsel {f : Word0} (h : s.Tidy mem tab) : Out.Tidy mem tab (execSsel f s) :=
  h.execC fun _ _ _ h1 => tidy_sselBody h1

theorem tidy_execSselExt {f : ExtA} (h : s.Tidy mem tab) : Out.Tidy mem tab (execSselExt f s) :=
  h.execA fun _ _ h1 => tidy_sselBody h1

theorem tidy_execSdiv {f : Word0} (h : s.Tidy mem tab) : Out.Tidy mem tab (execSdiv f s) :=
  h.execC fun _ _ _ h1 => tidy_sdivBody h1

theorem tidy_execSdivExt {f : ExtA} (h : s.Tidy mem tab) : Out.Tidy mem tab (execSdivExt f s) :=
  h.execA fun _ _ h1 => tidy_sdivBody h1

theorem tidy_shsetBody {f : ExtA} {g : Group} (h : s.Tidy mem tab) : (shsetBody f g s).Tidy mem tab :=
  tidy_groupBody h

theorem tidy_shgetBody {f : ExtA} {g : Group} (h : s.Tidy mem tab) : (shgetBody f g s).Tidy mem tab :=
  tidy_groupBody h

theorem tidy_lssetBody {f : ExtA} {g : Group} (h : s.Tidy mem tab) : (lssetBody f g s).Tidy mem tab :=
  tidy_groupBody h

theorem tidy_lsgetBody {f : ExtA} {g : Group} (h : s.Tidy mem tab) : (lsgetBody f g s).Tidy mem tab :=
  tidy_groupBody h

theorem tidy_ovfrdBody {f : ExtA} {g : Group} (h : s.Tidy mem tab) : (ovfrdBody f g s).Tidy mem tab :=
  tidy_groupBody h

theorem tidy_kpopBody {f : ExtA} {g : Group} (h : s.Tidy mem tab) : (kpopBody f g s).Tidy mem tab :=
  .ok h.setGroup

theorem tidy_kffsBody {f : ExtA} {g : Group} (h : s.Tidy mem tab) : (kffsBody f g s).Tidy mem tab :=
  tidy_groupBody h

theorem tidy_vtosBody {f : ExtA} {g : Group} (h : s.Tidy mem tab) : (vtosBody f g s).Tidy mem tab := by
  unfold vtosBody
  extract_lets regs
  split
  · exact .trap h
  · exact .stall h
  · exact Res.Tidy.readRegs (.ok h.setGroup)

theorem tidy_stovBody {f : ExtA} {g : Group} (h : s.Tidy mem tab) : (stovBody f g s).Tidy mem tab := by
  unfold stovBody
  dsimp only
  split
  · exact .trap h
  · exact .stall h
  · exact .ok h.setGroup

theorem tidy_execShset {f : ExtA} (h : s.Tidy mem tab) : Out.Tidy mem tab (execShset f s) :=
  h.execA fun _ _ h1 => tidy_shsetBody h1

theorem tidy_execShget {f : ExtA} (h : s.Tidy mem tab) : Out.Tidy mem tab (execShget f s) :=
  h.execA fun _ _ h1 => tidy_shgetBody h1

theorem tidy_execLsset {f : Word0} (h : s.Tidy mem tab) : Out.Tidy mem tab (execLsset f s) :=
  h.execC fun _ _ _ h1 => tidy_lssetBody h1

theorem tidy_execLssetExt {f : ExtA} (h : s.Tidy mem tab) : Out.Tidy mem tab (execLssetExt f s) :=
  h.execA fun _ _ h1 => tidy_lssetBody h1

theorem tidy_execLsget {f : Word0} (h : s.Tidy mem tab) : Out.Tidy mem tab (execLsget f s) :=
  h.execC fun _ _ _ h1 => tidy_lsgetBody h1

theorem tidy_execLsgetExt {f : ExtA} (h : s.Tidy mem tab) : Out.Tidy mem tab (execLsgetExt f s) :=
  h.execA fun _ _ h1 => tidy_lsgetBody h1

theorem tidy_execOvfrd {f : Word0} (h : s.Tidy mem tab) : Out.Tidy mem tab (execOvfrd f s) :=
  h.execC fun _ _ _ h1 => tidy_ovfrdBody h1

theorem tidy_execOvfrdExt {f : ExtA} (h : s.Tidy mem tab) : Out.Tidy mem tab (execOvfrdExt f s) :=
  h.execA fun _ _ h1 => tidy_ovfrdBody h1

theorem tidy_execKpop {f : Word0} (h : s.Tidy mem tab) : Out.Tidy mem tab (execKpop f s) :=
  h.execC fun _ _ _ h1 => tidy_kpopBody h1

theorem tidy_execKpopExt {f : ExtA} (h : s.Tidy mem tab) : Out.Tidy mem tab (execKpopExt f s) :=
  h.execA fun _ _ h1 => tidy_kpopBody h1

theorem tidy_execKffs {f : Word0} (h : s.Tidy mem tab) : Out.Tidy mem tab (execKffs f s) :=
  h.execC fun _ _ _ h1 => tidy_kffsBody h1

theorem tidy_execKffsExt {f : ExtA} (h : s.Tidy mem tab) : Out.Tidy mem tab (execKffsExt f s) :=
  h.execA fun _ _ h1 => tidy_kffsBody h1

theorem tidy_execVtos {f : Word0} (h : s.Tidy mem tab) : Out.Tidy mem tab (execVtos f s) :=
  h.execC fun _ _ _ h1 => tidy_vtosBody h1

theorem tidy_execVtosExt {f : ExtA} (h : s.Tidy mem tab) : Out.Tidy mem tab (execVtosExt f s) :=
  h.execA fun _ _ h1 => tidy_vtosBody h1

theorem tidy_execStov {f : Word0} (h : s.Tidy mem tab) : Out.Tidy mem tab (execStov f s) :=
  h.execC fun _ _ _ h1 => tidy_stovBody h1

theorem tidy_execStovExt {f : ExtA} (h : s.Tidy mem tab) : Out.Tidy mem tab (execStovExt f s) :=
  h.execA fun _ _ h1 => tidy_stovBody h1

end Sys2Proof.Machine
end

section
/-! SUPPORT. What Machine/MemInstr.lean defines keeps a state tidy: the memory instructions. -/

namespace Sys2Proof.Machine

variable {mem tab : Prop} {s : State}

theorem Rec.tidy_run {r : Rec} {gid : Nat} {go : List Nat → State → Res} (hr : r.Tidy mem tab)
    (hgo : ∀ l u, u.Tidy mem tab → (go l u).Tidy mem tab) : (Rec.run r gid go).Tidy mem tab := by
  unfold Rec.run
  split
  · exact hgo _ _ (hr.of_dwords rfl).consume
  · exact .stall (hr.of_stall rfl)
  · exact .trap (hr.of_trap rfl)
  · exact .ok (hr.of_refused rfl)

theorem State.Tidy.withRecord {g : Group} {n : Nat} {a : DWord} {other : Option Cause} {go : List Nat → State → Res}
    (h : s.Tidy mem tab) (hgo : ∀ l u, u.Tidy mem tab → (go l u).Tidy mem tab) :
    (s.withRecord g n a other go).Tidy mem tab := by
  unfold State.withRecord
  split
  · split
    · exact .trap (h.recordFault (.inr ⟨_, ‹_›⟩))
    · exact .trap (h.recordFault (.inl ‹_›))
  · exact Res.tidy_ite (.stall h) (Rec.tidy_run h.readRecord hgo)

theorem tidy_execShld {f : ExtA} (h : s.Tidy mem tab) : Out.Tidy mem tab (execShld f s) := by
  unfold execShld
  refine h.execA fun _ _ h1 => h1.withRecord fun _ _ h2 => ?_
  split
  · exact .ok h2.modGroup
  · exact .trap h2

theorem tidy_sldBody {f : ExtM} {g : Group} (h : s.Tidy mem tab) : (sldBody f g s).Tidy mem tab := by
  unfold sldBody
  split
  · exact .stall h
  · split
    · exact .trap (h.resolvePipe.pair ‹_›)
    · exact .ok (h.resolvePipe.pair ‹_›).beginLoad

theorem tidy_execSld {f : ExtM} (h : s.Tidy mem tab) : Out.Tidy mem tab (execSld f s) :=
  h.execM fun _ _ h1 => tidy_sldBody h1

theorem tidy_sstBody {f : ExtM} {g : Group} (h : s.Tidy mem tab) : (sstBody f g s).Tidy mem tab := by
  unfold sstBody
  split
  · exact .stall h
  · dsimp only
    split
    · exact .trap (h.resolvePipe.pair ‹_›)
    · exact (h.resolvePipe.pair ‹_›).releaseIf fun _ h1 => .ok h1.storeLanes

theorem tidy_execSst {f : ExtM} (h : s.Tidy mem tab) : Out.Tidy mem tab (execSst f s) :=
  h.execM fun _ _ h1 => tidy_sstBody h1

theorem tidy_xlatBody {f : ExtM} {g : Group} (h : s.Tidy mem tab) : (xlatBody f g s).Tidy mem tab := by
  unfold xlatBody
  split
  · exact .stall h
  · dsimp only
    split
    · exact .trap h
    · split
      · exact .trap h
      · split
        · exact .trap (h.translate.pair ‹_›)
        · exact .ok (h.translate.pair ‹_›).modGroup

theorem tidy_execXlat {f : ExtM} (h : s.Tidy mem tab) : Out.Tidy mem tab (execXlat f s) :=
  h.execM fun _ _ h1 => tidy_xlatBody h1

theorem Res.tidy_unless {other : Option Cause} {r : Res} (h : s.Tidy mem tab) (hr : r.Tidy mem tab) :
    (Res.unless other s r).Tidy mem tab := by
  unfold Res.unless
  split
  · exact .trap h
  · exact hr

theorem tidy_loadBody {f : ExtM} {r : Reach} {align : Bool} {mode : LoadMode} {other : Option Cause}
    {at_ : Group → Nat → LaneAt} {g : Group} (h : s.Tidy mem tab) : (loadBody f r align mode other at_ g s).Tidy mem tab :=
  h.memGo fun _ h1 => h1.withLanes fun _ _ h2 => Res.tidy_unless h2 (.ok h2.beginLoad)

theorem tidy_storeBody {f : ExtM} {r : Reach} {other : Option Cause} {at_ : Group → Nat → LaneAt} {g : Group}
    (h : s.Tidy mem tab) : (storeBody f r other at_ g s).Tidy mem tab :=
  h.memGo fun _ h1 => h1.withLanes fun _ _ h2 => Res.tidy_unless h2 (h2.releaseIf fun _ h3 => .ok h3.storeLanes)

theorem tidy_execLd {f : ExtM} (h : s.Tidy mem tab) : Out.Tidy mem tab (execLd f s) :=
  h.execM fun _ _ h1 => tidy_loadBody h1

theorem tidy_execSt {f : ExtM} (h : s.Tidy mem tab) : Out.Tidy mem tab (execSt f s) :=
  h.execM fun _ _ h1 => tidy_storeBody h1

theorem tidy_execLds {f : ExtM} (h : s.Tidy mem tab) : Out.Tidy mem tab (execLds f s) :=
  h.execM fun _ _ h1 => tidy_loadBody h1

theorem tidy_execSts {f : ExtM} (h : s.Tidy mem tab) : Out.Tidy mem tab (execSts f s) :=
  h.execM fun _ _ h1 => tidy_storeBody h1

theorem tidy_execLdc {f : ExtM} (h : s.Tidy mem tab) : Out.Tidy mem tab (execLdc f s) :=
  h.execM fun _ _ h1 => tidy_loadBody h1

theorem tidy_execStc {f : ExtM} (h : s.Tidy mem tab) : Out.Tidy mem tab (execStc f s) :=
  h.execM fun _ _ h1 => tidy_storeBody h1

theorem tidy_execLdp {f : ExtM} (h : s.Tidy mem tab) : Out.Tidy mem tab (execLdp f s) :=
  h.execM fun _ _ h1 => tidy_loadBody h1

theorem tidy_execStp {f : ExtM} (h : s.Tidy mem tab) : Out.Tidy mem tab (execStp f s) :=
  h.execM fun _ _ h1 => tidy_storeBody h1

theorem tidy_execStmc {f : ExtM} (h : s.Tidy mem tab) : Out.Tidy mem tab (execStmc f s) :=
  h.execM fun _ _ h1 => tidy_storeBody h1

theorem tidy_qualBody {f : ExtM} {body : Option Cause → Group → State → Res} {g : Group}
    (hbody : ∀ o g u, u.Tidy mem tab → (body o g u).Tidy mem tab) (h : s.Tidy mem tab) :
    (qualBody f body g s).Tidy mem tab :=
  Res.tidy_ite (.trap h) (hbody _ _ _ h)

theorem tidy_execLdx {f : ExtM} (h : s.Tidy mem tab) : Out.Tidy mem tab (execLdx f s) :=
  h.execM fun _ _ h1 => tidy_qualBody (fun _ _ _ h2 => tidy_loadBody h2) h1

theorem tidy_execStx {f : ExtM} (h : s.Tidy mem tab) : Out.Tidy mem tab (execStx f s) :=
  h.execM fun _ _ h1 => tidy_qualBody (fun _ _ _ h2 => tidy_storeBody h2) h1

theorem State.Tidy.segLanes {g : Group} {k : AccessKind} {m : Mask} {n count : Nat} {at_ : Nat → Nat → LaneAt}
    {go : List (List (Nat × Pieces)) → State → Res} (h : s.Tidy mem tab)
    (hgo : ∀ l u, u.Tidy mem tab → (go l u).Tidy mem tab) : (s.segLanes g k m n count at_ go).Tidy mem tab :=
  Res.tidy_ite (hgo _ _ (State.tidy_foldl_thd h fun _ _ h1 => h1.resolveLanes fun _ _ h2 => h2.resolveAt))
    (.trap (State.tidy_foldl_thd h fun _ _ h1 => h1.resolveLanes fun _ _ h2 => h2.resolveAt))

theorem State.Tidy.beginLoads {c : Acc} {g : Group} {dests : List Dest} {m : Mask} {mode : LoadMode}
    {elems : List (List (Nat × Pieces))} (h : s.Tidy mem tab) : (s.beginLoads c g dests m mode elems).Tidy mem tab :=
  State.tidy_foldl (State.tidy_foldl_snd (State.tidy_foldl_snd h fun _ _ h1 => h1.fresh) fun _ _ h1 =>
    State.tidy_foldl_snd h1 fun _ _ h2 => h2.loadLanes) fun _ _ h1 => h1.begin

theorem tidy_ldswSegment {f : ExtM} {lit : DWord} {seg : Nat} {g : Group} (h : s.Tidy mem tab) :
    (ldswSegment f lit seg g s).Tidy mem tab := by
  unfold ldswSegment
  split
  · exact h.memGo fun _ h1 => h1.segLanes fun _ _ h2 => .ok h2.beginLoads
  · exact .trap h

theorem tidy_stswSegment {f : ExtM} {lit : DWord} {seg : Nat} {g : Group} (h : s.Tidy mem tab) :
    (stswSegment f lit seg g s).Tidy mem tab := by
  unfold stswSegment
  split
  · exact h.memGo fun _ h1 => h1.segLanes fun _ _ h2 => h2.releaseIf fun _ h3 => .ok
      (State.tidy_foldl h3 fun _ _ h4 => State.tidy_foldl h4 fun _ _ h5 => h5.storeLanes)
  · exact .trap h

theorem tidy_execLdsw {f : ExtM} {lit : DWord} (h : s.Tidy mem tab) : Out.Tidy mem tab (execLdsw f lit s) :=
  h.sweep fun _ _ _ h1 => tidy_ldswSegment h1

theorem tidy_execStsw {f : ExtM} {lit : DWord} (h : s.Tidy mem tab) : Out.Tidy mem tab (execStsw f lit s) :=
  h.sweep fun _ _ _ h1 => tidy_stswSegment h1

theorem tidy_gatherBody {f : ExtM} {g : Group} (h : s.Tidy mem tab) : (gatherBody f g s).Tidy mem tab :=
  h.memGo fun _ h1 => Res.tidy_ite (.stall h1) (h1.withLanes fun _ _ h2 => h2.release fun _ h3 => .ok
    h3.fresh.issueRequest.loadLanes.begin)

theorem tidy_execGather {f : ExtM} (h : s.Tidy mem tab) : Out.Tidy mem tab (execGather f s) :=
  h.execM fun _ _ h1 => tidy_gatherBody h1

theorem tidy_scatterBody {f : ExtM} {g : Group} (h : s.Tidy mem tab) : (scatterBody f g s).Tidy mem tab := by
  refine h.memGo fun _ h1 => Res.tidy_ite (.stall h1) (h1.withLanes fun _ _ h2 => h2.release fun u h3 => ?_)
  dsimp only
  exact .ok h3.fresh.issueRequest.storeLanes.begin

theorem tidy_execScatter {f : ExtM} (h : s.Tidy mem tab) : Out.Tidy mem tab (execScatter f s) :=
  h.execM fun _ _ h1 => tidy_scatterBody h1

theorem tidy_ldscBody {f : ExtM} {g : Group} (h : s.Tidy mem tab) : (ldscBody f g s).Tidy mem tab :=
  Res.tidy_ite (.stall h) (h.memGo fun _ h1 => h1.withLanes fun _ _ h2 => h2.release fun _ h3 => .ok h3.beginLoad)

theorem tidy_execLdsc {f : ExtM} (h : s.Tidy mem tab) : Out.Tidy mem tab (execLdsc f s) :=
  h.execM fun _ _ h1 => tidy_ldscBody h1

theorem tidy_stscBody {f : ExtM} {g : Group} (h : s.Tidy mem tab) : (stscBody f g s).Tidy mem tab := by
  refine Res.tidy_ite (.stall h) (h.memGo fun _ h1 => h1.withLanes fun _ _ h2 => h2.release fun u h3 => ?_)
  dsimp only
  exact .ok h3.fresh.storeLanes.begin

theorem tidy_execStsc {f : ExtM} (h : s.Tidy mem tab) : Out.Tidy mem tab (execStsc f s) :=
  h.execM fun _ _ h1 => tidy_stscBody h1

theorem State.Tidy.prefetchMem {c : Acc} {rq : ReqType} {dpa va n : Nat} (h : s.Tidy mem tab) :
    (s.prefetchMem c rq dpa va n).Tidy mem tab :=
  State.tidy_ite h h.send

theorem State.Tidy.prefetch {c : Acc} {rq : Nat} {p : Nat × Nat × Place} (h : s.Tidy mem tab) :
    (s.prefetch c rq p).Tidy mem tab := by
  unfold State.prefetch
  split
  · exact h.prefetchMem
  · split
    · exact (h.localFabric ‹_›).prefetchMem
    · exact State.tidy_ite h h.askFabric
  · exact h

theorem tidy_prefBody {f : ExtM} {g : Group} (h : s.Tidy mem tab) : (prefBody f g s).Tidy mem tab :=
  h.memGo fun _ h1 => Res.tidy_ite (.trap (h1.resolveLanes fun _ _ h2 => h2.resolveAt))
    (Res.tidy_ite (.ok (h1.resolveLanes fun _ _ h2 => h2.resolveAt))
    (.ok (State.tidy_foldl (h1.resolveLanes fun _ _ h2 => h2.resolveAt) fun _ _ h2 => State.tidy_foldl h2 fun _ _ h3 =>
    h3.prefetch)))

theorem tidy_execPref {f : ExtM} (h : s.Tidy mem tab) : Out.Tidy mem tab (execPref f s) :=
  h.execM fun _ _ h1 => tidy_prefBody h1

theorem tidy_fenceBody {sys : Bool} {g : Group} (h : s.Tidy mem tab) : (fenceBody sys g s).Tidy mem tab :=
  h.fence fun _ h1 => .ok h1

theorem tidy_acqBody {g : Group} (h : s.Tidy mem tab) : (acqBody g s).Tidy mem tab :=
  Res.tidy_ite (.stall h) (.ok h.dropValid)

theorem tidy_relBody {sys : Bool} {g : Group} (h : s.Tidy mem tab) : (relBody sys g s).Tidy mem tab :=
  h.release fun _ h1 => .ok h1

theorem tidy_execFence {f : Word0} (h : s.Tidy mem tab) : Out.Tidy mem tab (execFence f s) :=
  h.execCM fun _ _ h1 => tidy_fenceBody h1

theorem tidy_execFenceExt {f : ExtM} (h : s.Tidy mem tab) : Out.Tidy mem tab (execFenceExt f s) :=
  h.execM fun _ _ h1 => tidy_fenceBody h1

theorem tidy_execAcq {f : Word0} (h : s.Tidy mem tab) : Out.Tidy mem tab (execAcq f s) :=
  h.execCM fun _ _ h1 => tidy_acqBody h1

theorem tidy_execAcqExt {f : ExtM} (h : s.Tidy mem tab) : Out.Tidy mem tab (execAcqExt f s) :=
  h.execM fun _ _ h1 => tidy_acqBody h1

theorem tidy_execRel {f : Word0} (h : s.Tidy mem tab) : Out.Tidy mem tab (execRel f s) :=
  h.execCM fun _ _ h1 => tidy_relBody h1

theorem tidy_execRelExt {f : ExtM} (h : s.Tidy mem tab) : Out.Tidy mem tab (execRelExt f s) :=
  h.execM fun _ _ h1 => tidy_relBody h1

end Sys2Proof.Machine
end

section
/-! SUPPORT. What Machine/Atomics.lean defines keeps a state tidy: atomics and the wait on a word. -/

namespace Sys2Proof.Machine

variable {mem tab : Prop} {s : State}

theorem State.Tidy.atMem {c : Acc} {q : Pend} {k : AtKind} {rq lane x cmp off n dpa va : Nat} {nc priv : Bool}
    (h : s.Tidy mem tab) : (s.atMem c q k rq lane x cmp off n dpa va nc priv).2.Tidy mem tab :=
  State.tidy_ite_snd h.atomicOwned (State.tidy_ite h.flushWords h.flushWords.dropVs).send

theorem State.Tidy.atPiece {c : Acc} {q : Pend} {k : AtKind} {rq lane x cmp : Nat} {p : Nat × Nat × Place}
    (h : s.Tidy mem tab) : (s.atPiece c q k rq lane x cmp p).2.Tidy mem tab := by
  unfold State.atPiece
  split
  · exact h.atMem
  · refine State.Tidy.relay ?_
    split
    · exact h.spadStore
    · exact h
  · split
    · exact (h.localFabric ‹_›).atMem
    · dsimp only
      exact h.dropFabric.askFabric
  · exact h

theorem State.Tidy.atLanes {c : Acc} {g : Group} {k : AtKind} {f : ExtM} {q : Pend} {lanes : List (Nat × Pieces)}
    (h : s.Tidy mem tab) : (s.atLanes c g k f q lanes).2.Tidy mem tab :=
  State.tidy_foldl_snd h fun _ _ h1 => State.tidy_foldl_snd h1 fun _ _ h2 => h2.atPiece

theorem tidy_atomicBody {k : AtKind} {f : ExtM} {g : Group} (h : s.Tidy mem tab) : (atomicBody k f g s).Tidy mem tab :=
  Res.tidy_ite (.stall h) (h.memGo fun _ h1 => h1.withLanes fun _ _ h2 => h2.releaseIf fun _ h3 => .ok
    h3.fresh.atLanes.begin)

theorem tidy_execAtaddI32 {f : ExtM} (h : s.Tidy mem tab) : Out.Tidy mem tab (execAtaddI32 f s) :=
  h.execM fun _ _ h1 => tidy_atomicBody h1

theorem tidy_execAtaddI64 {f : ExtM} (h : s.Tidy mem tab) : Out.Tidy mem tab (execAtaddI64 f s) :=
  h.execM fun _ _ h1 => tidy_atomicBody h1

theorem tidy_execAtaddfF32 {f : ExtM} (h : s.Tidy mem tab) : Out.Tidy mem tab (execAtaddfF32 f s) :=
  h.execM fun _ _ h1 => tidy_atomicBody h1

theorem tidy_execAtmin {f : ExtM} (h : s.Tidy mem tab) : Out.Tidy mem tab (execAtmin f s) :=
  h.execM fun _ _ h1 => tidy_atomicBody h1

theorem tidy_execAtmax {f : ExtM} (h : s.Tidy mem tab) : Out.Tidy mem tab (execAtmax f s) :=
  h.execM fun _ _ h1 => tidy_atomicBody h1

theorem tidy_execAtand {f : ExtM} (h : s.Tidy mem tab) : Out.Tidy mem tab (execAtand f s) :=
  h.execM fun _ _ h1 => tidy_atomicBody h1

theorem tidy_execAtor {f : ExtM} (h : s.Tidy mem tab) : Out.Tidy mem tab (execAtor f s) :=
  h.execM fun _ _ h1 => tidy_atomicBody h1

theorem tidy_execAtxor {f : ExtM} (h : s.Tidy mem tab) : Out.Tidy mem tab (execAtxor f s) :=
  h.execM fun _ _ h1 => tidy_atomicBody h1

theorem tidy_execAtxchg {f : ExtM} (h : s.Tidy mem tab) : Out.Tidy mem tab (execAtxchg f s) :=
  h.execM fun _ _ h1 => tidy_atomicBody h1

theorem tidy_execAtcasI32 {f : ExtM} (h : s.Tidy mem tab) : Out.Tidy mem tab (execAtcasI32 f s) :=
  h.execM fun _ _ h1 => tidy_atomicBody h1

theorem tidy_execAtcasI64 {f : ExtM} (h : s.Tidy mem tab) : Out.Tidy mem tab (execAtcasI64 f s) :=
  h.execM fun _ _ h1 => tidy_atomicBody h1

theorem tidy_execAtinc {f : ExtM} (h : s.Tidy mem tab) : Out.Tidy mem tab (execAtinc f s) :=
  h.execM fun _ _ h1 => tidy_atomicBody h1

theorem tidy_execAtdec {f : ExtM} (h : s.Tidy mem tab) : Out.Tidy mem tab (execAtdec f s) :=
  h.execM fun _ _ h1 => tidy_atomicBody h1

theorem tidy_execAtaddsc {f : ExtM} (h : s.Tidy mem tab) : Out.Tidy mem tab (execAtaddsc f s) :=
  h.execM fun _ _ h1 => tidy_atomicBody h1

theorem tidy_execAtcassc {f : ExtM} (h : s.Tidy mem tab) : Out.Tidy mem tab (execAtcassc f s) :=
  h.execM fun _ _ h1 => tidy_atomicBody h1

theorem State.Tidy.watchPiece {c : Acc} {q : Pend} {cond : WatchCond} {lane w : Nat} {p : Nat × Nat × Place}
    (h : s.Tidy mem tab) : (s.watchPiece c q cond lane w p).2.Tidy mem tab := by
  unfold State.watchPiece
  split
  · dsimp only
    exact h.flushWords.send
  · split
    · dsimp only
      exact (h.localFabric ‹_›).flushWords.send
    · exact h.askFabric
  · exact h

theorem State.Tidy.beginWait {g : Group} {f : ExtM} {m : Mask} {ps : List (Nat × Pieces)} (h : s.Tidy mem tab) :
    (s.beginWait g f m ps).Tidy mem tab := by
  have hfold : ∀ (q : Pend) (l : List (Nat × Pieces)), (l.foldl (fun acc l => l.2.foldl (fun a p =>
      a.2.watchPiece (s.acc g) a.1 (atCond f) l.1 (g.atValue (wideTy f) f.c.toNat l.1) p) acc) (q, s.fresh.2)).2.Tidy mem
        tab :=
    fun _ _ => State.tidy_foldl_snd h.fresh fun _ _ h1 => State.tidy_foldl_snd h1 fun _ _ h2 => h2.watchPiece
  unfold State.beginWait
  dsimp only
  split
  · exact .ok (State.Tidy.land (hfold _ _))
  · exact .stall (State.Tidy.addPend (State.Tidy.modGroup (hfold _ _)))

theorem tidy_atwaitBody {f : ExtM} {g : Group} (h : s.Tidy mem tab) : (atwaitBody f g s).Tidy mem tab := by
  unfold atwaitBody
  split
  · exact Res.tidy_ite (.stall h) (Res.tidy_ite (.stall h.dropPend) (.ok h.land))
  · exact h.memGo fun _ h1 => h1.withLanes fun _ _ h2 => h2.beginWait

theorem tidy_execAtwait {f : ExtM} (h : s.Tidy mem tab) : Out.Tidy mem tab (execAtwait f s) :=
  h.execM fun _ _ h1 => tidy_atwaitBody h1

end Sys2Proof.Machine
end

section
/-! SUPPORT. What Machine/Matrix.lean defines keeps a state tidy: the matrix instructions. -/

namespace Sys2Proof.Machine

variable {mem tab : Prop} {s : State}

theorem State.Tidy.setTile {tid core part n : Nat} {x : Tile} (h : s.Tidy mem tab) :
    (s.setTile tid core part n x).Tidy mem tab :=
  h.modTeam

theorem State.Tidy.issueMatrix {g : Group} {reads : Bool} {ver : Option (BitVec 16)} {kind : MatKind}
    {done : Nat → State → Res} (h : s.Tidy mem tab) (hdone : ∀ x u, u.Tidy mem tab → (done x u).Tidy mem tab) :
    (s.issueMatrix g reads ver kind done).Tidy mem tab :=
  Res.tidy_ite (.stall h) (Res.tidy_ite (.stall h) (h.releaseIf fun _ h1 => hdone _ _ h1.issueRequest.modUnit))

theorem tidy_mwldBody {f : ExtA} {g : Group} (h : s.Tidy mem tab) : (mwldBody f g s).Tidy mem tab :=
  Res.tidy_ite (.trap h) (Res.tidy_ite (.trap h) (Res.tidy_ite (.trap h)
    (h.issueMatrix fun _ _ h1 => .ok (State.tidy_ite h1.modUnit h1))))

theorem tidy_execMwld {f : ExtA} (h : s.Tidy mem tab) : Out.Tidy mem tab (execMwld f s) :=
  h.execA fun _ _ h1 => tidy_mwldBody h1

theorem tidy_macBody {op : Byte} {f : ExtA} {g : Group} (h : s.Tidy mem tab) : (macBody op f g s).Tidy mem tab := by
  unfold macBody
  extract_lets w v
  refine Res.tidy_ite (.trap h) (Res.tidy_ite (.trap h) ?_)
  split
  · exact Res.tidy_ite (.trap h) (h.withLeave fun _ h1 => h1.issueMatrix fun _ _ h2 => .ok h2)
  · exact .trap h

theorem tidy_execMmac {f : ExtA} (h : s.Tidy mem tab) : Out.Tidy mem tab (execMmac f s) :=
  h.execA fun _ _ h1 => tidy_macBody h1

theorem tidy_execMtri {f : ExtA} (h : s.Tidy mem tab) : Out.Tidy mem tab (execMtri f s) :=
  h.execA fun _ _ h1 => tidy_macBody h1

theorem tidy_execMlut {f : ExtA} (h : s.Tidy mem tab) : Out.Tidy mem tab (execMlut f s) :=
  h.execA fun _ _ h1 => tidy_macBody h1

theorem tidy_execMtern {f : ExtA} (h : s.Tidy mem tab) : Out.Tidy mem tab (execMtern f s) :=
  h.execA fun _ _ h1 => tidy_macBody h1

theorem tidy_execMzero {f : ExtA} (h : s.Tidy mem tab) : Out.Tidy mem tab (execMzero f s) :=
  h.execA fun _ _ h1 => Res.tidy_ite (.trap h1) (h1.issueMatrix fun _ _ h2 => .ok h2)

theorem tidy_execMscale {f : ExtA} (h : s.Tidy mem tab) : Out.Tidy mem tab (execMscale f s) :=
  h.execA fun _ _ h1 => Res.tidy_ite (.trap h1) (h1.issueMatrix fun _ _ h2 => .ok h2)

theorem tidy_execMaccadd {f : ExtA} (h : s.Tidy mem tab) : Out.Tidy mem tab (execMaccadd f s) :=
  h.execA fun _ _ h1 => Res.tidy_ite (.trap h1) (h1.issueMatrix fun _ _ h2 => .ok h2)

theorem State.Tidy.awaitRegs {g : Group} {id : Nat} {regs : List Nat} (h : s.Tidy mem tab) :
    (s.awaitRegs g id regs).Tidy mem tab :=
  State.tidy_foldl h fun _ _ h1 => h1.fresh.modGroup.addPend

theorem tidy_mrdBody {f : ExtA} {g : Group} (h : s.Tidy mem tab) : (mrdBody f g s).Tidy mem tab := by
  unfold mrdBody
  extract_lets regs
  split
  · exact .trap h
  · exact .stall h
  · exact Res.tidy_ite (.trap h) (h.issueMatrix fun _ _ h1 => .ok h1.awaitRegs.modGroup)

theorem tidy_execMrd {f : ExtA} (h : s.Tidy mem tab) : Out.Tidy mem tab (execMrd f s) :=
  h.execA fun _ _ h1 => tidy_mrdBody h1

theorem tidy_mwrBody {f : ExtA} {g : Group} (h : s.Tidy mem tab) : (mwrBody f g s).Tidy mem tab := by
  unfold mwrBody
  split
  · dsimp only
    split
    · exact .trap h
    · exact .stall h
    · exact .trap h
  · dsimp only
    split
    · exact .trap h
    · exact .stall h
    · exact Res.Tidy.readRegs (h.issueMatrix fun _ _ h1 => .ok h1)

theorem tidy_execMwr {f : ExtA} (h : s.Tidy mem tab) : Out.Tidy mem tab (execMwr f s) :=
  h.execA fun _ _ h1 => tidy_mwrBody h1

theorem tidy_execMver {f : ExtA} (h : s.Tidy mem tab) : Out.Tidy mem tab (execMver f s) := by
  unfold execMver
  refine h.execA fun _ _ h1 => ?_
  split
  · exact .trap h1
  · split
    · exact .ok h1.modGroup
    · exact .ok h1

theorem tidy_execMverSet {f : ExtA} (h : s.Tidy mem tab) : Out.Tidy mem tab (execMverSet f s) := by
  unfold execMverSet
  refine h.execA fun _ _ h1 => ?_
  split
  · exact .trap h1
  · split
    · exact .stall h1
    · split
      · exact .ok h1.setTile
      · exact .ok h1

theorem tidy_execMstream {f : ExtA} (h : s.Tidy mem tab) : Out.Tidy mem tab (execMstream f s) :=
  h.execA fun _ _ h1 => Res.tidy_ite (.trap h1) (.ok h1.setGroup)

theorem State.Tidy.freePair {core part pair : Nat} (h : s.Tidy mem tab) : (s.freePair core part pair).Tidy mem tab := by
  unfold State.freePair
  dsimp only
  split
  · exact State.tidy_ite h h.modUnit
  · exact h

theorem tidy_execMwrel {f : ExtA} (h : s.Tidy mem tab) : Out.Tidy mem tab (execMwrel f s) :=
  h.execA fun _ _ h1 => Res.tidy_ite (.ok h1.modUnit.freePair) (.ok h1)

theorem tidy_mbarBody {g : Group} (h : s.Tidy mem tab) : (mbarBody g s).Tidy mem tab :=
  Res.tidy_ite (.stall h.tryMbar) (h.tryMbar.inParts (fun _ _ h1 => h1.modTeam) fun _ _ h1 => .ok h1)

theorem tidy_execMbar {f : ExtA} (h : s.Tidy mem tab) : Out.Tidy mem tab (execMbar f s) :=
  h.execA fun _ _ h1 => tidy_mbarBody h1

theorem tidy_mpeekBody {f : ExtA} {g : Group} (h : s.Tidy mem tab) : (mpeekBody f g s).Tidy mem tab := by
  unfold mpeekBody
  split
  · exact Res.tidy_ite (.stall h) (.ok (State.tidy_ite h.dropPend h.dropPend.modGroup))
  · exact Res.tidy_ite (.trap h) (Res.tidy_ite (.trap h) (h.issueMatrix fun _ _ h1 => .stall h1.fresh.addPend))

theorem tidy_execMpeek {f : ExtA} (h : s.Tidy mem tab) : Out.Tidy mem tab (execMpeek f s) :=
  h.execA fun _ _ h1 => tidy_mpeekBody h1

theorem tidy_mfmtBody {f : ExtA} {g : Group} (h : s.Tidy mem tab) : (mfmtBody f g s).Tidy mem tab :=
  Res.tidy_ite (.stall h) (.ok h.modGroup)

theorem tidy_execMfmt {f : ExtA} (h : s.Tidy mem tab) : Out.Tidy mem tab (execMfmt f s) :=
  h.execA fun _ _ h1 => tidy_mfmtBody h1

end Sys2Proof.Machine
end

section
/-! SUPPORT. What Machine/Range.lean defines keeps a state tidy: ranges, coherence objects and mirror windows. -/

namespace Sys2Proof.Machine

variable {mem tab : Prop} {s : State}

theorem State.Tidy.rangePages {g : Group} {k : AccessKind} {l : List Nat} (h : s.Tidy mem tab) :
    (s.rangePages g k l).2.Tidy mem tab := by
  induction l generalizing s with
  | nil => exact h
  | cons va t ih =>
    unfold State.rangePages
    split
    · exact h.translate.pair ‹_›
    · have h1 := ih (h.translate.pair ‹_›)
      split
      · exact h1.pair ‹_›
      · exact h1.pair ‹_›

theorem State.Tidy.withRange {g : Group} {k : AccessKind} {a : DWord} {n : Nat} {go : List (Nat × Nat) → State → Res}
    (h : s.Tidy mem tab) (hgo : ∀ l u, u.Tidy mem tab → (go l u).Tidy mem tab) : (s.withRange g k a n go).Tidy mem tab := by
  unfold State.withRange
  split
  · exact .trap h
  · split
    · exact .trap h
    · split
      · exact .trap (h.rangePages.pair ‹_›)
      · exact hgo _ _ (h.rangePages.pair ‹_›)

theorem State.Tidy.withBytes {f : ExtM} {g : Group} {k : AccessKind} {go : Nat → Nat → List (Nat × Nat) → State → Res}
    (h : s.Tidy mem tab) (hgo : ∀ x x1 l u, u.Tidy mem tab → (go x x1 l u).Tidy mem tab) :
    (s.withBytes f g k go).Tidy mem tab :=
  Res.tidy_ite (.ok h) (Res.tidy_ite (.stall h) (h.withRange fun _ _ h1 => Res.tidy_ite (.trap h1) (hgo _ _ _ _ h1)))

theorem State.Tidy.gatedLines {g : Group} {need a n : Nat} {kind : BitVec 2} {ps : List (Nat × Nat)}
    (h : s.Tidy mem tab) : (s.gatedLines g need a n kind ps).2.Tidy mem tab := by
  unfold State.gatedLines
  refine State.tidy_foldl_snd h fun _ _ h1 => ?_
  split
  · exact h1.deferFailure
  · exact h1

theorem State.Tidy.pin {asid page l : Nat} (h : s.Tidy mem tab) : OptTidy mem tab (s.pin asid page l) := by
  unfold State.pin
  split
  · split
    · dsimp only
      split
      · exact .some h
      · split
        · exact .none
        · exact .some (h.makeRoom.pair ‹_›).setLine
    · dsimp only
      split
      · exact .some h
      · split
        · exact .none
        · exact .none

theorem State.Tidy.pinAll {asid : Nat} {l : List (Nat × Nat)} {n : Nat} (h : s.Tidy mem tab) :
    (s.pinAll asid l n).2.2.Tidy mem tab := by
  induction l generalizing s n with
  | nil => exact h
  | cons p t ih =>
    unfold State.pinAll
    split
    · exact h
    · exact ih (h.pin.of_some ‹_›)

theorem tidy_execL2pin {f : ExtM} (h : s.Tidy mem tab) : Out.Tidy mem tab (execL2pin f s) :=
  h.execM fun _ _ h1 => h1.withBytes fun _ _ _ _ h2 => .ok
    (State.tidy_foldl h2.gatedLines.pinAll fun _ _ h3 => h3.syncPins).modGroup

theorem tidy_execL2unpin {f : ExtM} (h : s.Tidy mem tab) : Out.Tidy mem tab (execL2unpin f s) :=
  h.execM fun _ _ h1 => h1.withBytes fun _ _ _ _ h2 => .ok
    (State.tidy_foldl (State.tidy_foldl h2.gatedLines fun _ _ h3 => h3.setLine) fun _ _ h3 => h3.syncPins).modGroup

theorem tidy_execWback {f : ExtM} (h : s.Tidy mem tab) : Out.Tidy mem tab (execWback f s) :=
  h.execM fun _ _ h1 => h1.withBytes fun _ _ _ _ h2 => Res.tidy_ite (.stall h2.gatedLines.flushCore)
    (.ok (State.tidy_foldl h2.gatedLines.flushCore fun _ _ h3 => h3.writeBackLine))

theorem State.Tidy.discardLine {core asid stamp : Nat} {l : Nat × Nat} (h : s.Tidy mem tab) :
    (s.discardLine core asid stamp l).Tidy mem tab :=
  State.tidy_ite h (State.tidy_ite (State.Tidy.revertLine (State.Tidy.settleLine (h.modCore fun _ h1 => { h1 with })))
    (State.Tidy.settleLine (h.modCore fun _ h1 => { h1 with })))

theorem tidy_execDiscard {f : ExtM} (h : s.Tidy mem tab) : Out.Tidy mem tab (execDiscard f s) :=
  h.execM fun _ _ h1 => h1.withBytes fun _ _ _ _ h2 => Res.tidy_ite (.stall h2.gatedLines)
    (.ok (State.tidy_foldl h2.gatedLines fun _ _ h3 => h3.discardLine))

theorem State.Tidy.setObj {b i : Nat} {o : Obj} (h : s.Tidy mem tab) : (s.setObj b i o).Tidy mem tab :=
  h.modBh

theorem State.Tidy.dropObj {b i : Nat} (h : s.Tidy mem tab) : (s.dropObj b i).Tidy mem tab :=
  h.modBh

theorem State.Tidy.settleBh {b : Nat} (h : s.Tidy mem tab) : (s.settleBh b).Tidy mem tab :=
  State.tidy_foldl h fun _ _ h1 => h1.settle

theorem State.Tidy.storesDone {b : Nat} (h : s.Tidy mem tab) : (s.storesDone b).2.Tidy mem tab := by
  unfold State.storesDone
  dsimp only
  exact State.tidy_foldl h fun _ _ h1 => h1.flushCore

theorem State.Tidy.makeReadOnly {b i : Nat} {o : Obj} {st : ObjState} {go : State → Res} (h : s.Tidy mem tab)
    (hgo : ∀ u, u.Tidy mem tab → (go u).Tidy mem tab) : (s.makeReadOnly b i o st go).Tidy mem tab := by
  unfold State.makeReadOnly
  split
  next done s1 heq =>
  have h1 : s1.Tidy mem tab := h.storesDone.pair heq
  exact Res.tidy_ite (.stall h1) (hgo _ h1.settleBh.setObj)

theorem State.Tidy.leaveReadOnly {b i : Nat} {o : Obj} {pend : Option Nat} (h : s.Tidy mem tab) :
    (s.leaveReadOnly b i o pend).Tidy mem tab :=
  State.tidy_foldl (State.tidy_foldl h.setObj fun _ _ h1 => h1.setLine).modBh fun _ _ h1 => { h1.fresh with }

theorem tidy_objdeclBody {f : ExtM} {g : Group} (h : s.Tidy mem tab) : (objdeclBody f g s).Tidy mem tab := by
  unfold objdeclBody
  extract_lets a b fail
  have hfail : ∀ u n, u.Tidy mem tab → (fail u n).Tidy mem tab := fun _ _ hu => .ok hu.modGroup
  clear_value fail
  refine Res.tidy_ite (hfail _ _ h) (h.withRecord fun ds s1 h1 => ?_)
  extract_lets x
  split
  · exact hfail _ _ h1
  · exact hfail _ _ h1
  · next i done _ _ _ _ _ _ =>
    have hdone : ∀ u, u.Tidy mem tab → (done u).Tidy mem tab := fun _ hu => .ok hu.modGroup
    clear_value done
    exact Res.tidy_ite (hdone _ h1.setObj) (h1.fence fun u h2 => h2.makeReadOnly hdone)

theorem tidy_execObjdecl {f : ExtM} (h : s.Tidy mem tab) : Out.Tidy mem tab (execObjdecl f s) :=
  h.execM fun _ _ h1 => tidy_objdeclBody h1

theorem State.Tidy.departObj {g : Group} {b i : Nat} {o : Obj} {done : State → State} (h : s.Tidy mem tab)
    (hdone : ∀ u, u.Tidy mem tab → (done u).Tidy mem tab) : (s.departObj g b i o done).Tidy mem tab :=
  h.inParts (fun _ _ h1 => h1.leaveReadOnly) fun _ _ h1 => .ok (hdone _ h1)

theorem State.Tidy.fenceOnce {g : Group} {go : State → Res} (h : s.Tidy mem tab)
    (hgo : ∀ u, u.Tidy mem tab → (go u).Tidy mem tab) : (s.fenceOnce g go).Tidy mem tab := by
  unfold State.fenceOnce
  split
  · exact hgo _ h
  · exact h.fence fun _ h1 => hgo _ h1

theorem tidy_objsetBody {f : ExtM} {g : Group} (h : s.Tidy mem tab) : (objsetBody f g s).Tidy mem tab := by
  unfold objsetBody
  extract_lets v b st
  split
  · exact .trap h
  · split
    · exact h.departObj fun _ h1 => h1
    · split
      · exact .trap h
      · refine Res.tidy_ite (.trap h) (h.fenceOnce fun s1 h1 => ?_)
        split
        · exact .ok h1
        · split
          · exact h1.departObj fun _ h2 => h2
          · split
            · exact .ok h1.setObj
            · exact h1.makeReadOnly fun _ h2 => .ok h2

theorem tidy_execObjset {f : ExtM} (h : s.Tidy mem tab) : Out.Tidy mem tab (execObjset f s) :=
  h.execM fun _ _ h1 => tidy_objsetBody h1

theorem tidy_objrelBody {f : ExtM} {g : Group} (h : s.Tidy mem tab) : (objrelBody f g s).Tidy mem tab := by
  unfold objrelBody
  split
  · exact Res.tidy_ite (.trap h) (h.departObj fun _ h1 => h1.dropObj)
  · dsimp only
    split
    · exact .trap h
    · split
      · exact .trap h
      · exact h.fenceOnce fun _ h1 => Res.tidy_ite (h1.departObj fun _ h2 => h2.dropObj) (.ok h1.dropObj)

theorem tidy_execObjrel {f : ExtM} (h : s.Tidy mem tab) : Out.Tidy mem tab (execObjrel f s) :=
  h.execM fun _ _ h1 => tidy_objrelBody h1

theorem State.Tidy.issueMirror {g : Group} {w : Mirror} {toSpad : Bool} (h : s.Tidy mem tab) :
    (s.issueMirror g w toSpad).Tidy mem tab :=
  h.issueRequest

theorem tidy_winmapBody {f : ExtM} {g : Group} (h : s.Tidy mem tab) : (winmapBody f g s).Tidy mem tab := by
  unfold winmapBody
  split
  · exact .ok h
  · exact h.withRange fun _ _ h1 => Res.tidy_ite (.trap h1)
      (Res.tidy_ite (.trap h1) (Res.tidy_ite (.stall h1) (Res.tidy_ite (.ok h1.modGroup)
      (Res.tidy_ite (.stall h1) (h1.release fun _ h2 => .ok
      (State.tidy_foldl h2.modTeam fun _ _ h3 => h3.syncMirror).issueMirror.modGroup)))))

theorem tidy_execWinmap {f : ExtM} (h : s.Tidy mem tab) : Out.Tidy mem tab (execWinmap f s) :=
  h.execM fun _ _ h1 => tidy_winmapBody h1

theorem State.Tidy.closeWindow {tid i : Nat} (h : s.Tidy mem tab) : (s.closeWindow tid i).Tidy mem tab := by
  unfold State.closeWindow
  split
  · exact h
  · exact State.tidy_foldl h.modTeam fun _ _ h1 => h1.syncMirror

theorem tidy_winsyncBody {f : ExtM} {go : Nat → Mirror → Group → State → Res} {g : Group}
    (hgo : ∀ x m g u, u.Tidy mem tab → (go x m g u).Tidy mem tab) (h : s.Tidy mem tab) :
    (winsyncBody f go g s).Tidy mem tab := by
  unfold winsyncBody
  dsimp only
  split
  · exact Res.tidy_ite (.trap h) (hgo _ _ _ _ h)
  · exact .trap h

theorem tidy_winsyncCopy {toSpad : Bool} {i : Nat} {w : Mirror} {g : Group} (h : s.Tidy mem tab) :
    (winsyncCopy toSpad i w g s).Tidy mem tab :=
  Res.tidy_ite (.trap h.closeWindow) (Res.tidy_ite (.stall h)
    (Res.tidy_ite (.stall h) (h.withRange fun _ _ h1 => h1.release fun _ h2 => .ok h2.issueMirror)))

theorem tidy_execWinsyncWb {f : ExtM} (h : s.Tidy mem tab) : Out.Tidy mem tab (execWinsyncWb f s) :=
  h.execM fun _ _ h1 => tidy_winsyncBody (fun _ _ _ _ h2 => tidy_winsyncCopy h2) h1

theorem tidy_execWinsyncFill {f : ExtM} (h : s.Tidy mem tab) : Out.Tidy mem tab (execWinsyncFill f s) :=
  h.execM fun _ _ h1 => tidy_winsyncBody (fun _ _ _ _ h2 => tidy_winsyncCopy h2) h1

theorem tidy_execWinsyncClose {f : ExtM} (h : s.Tidy mem tab) : Out.Tidy mem tab (execWinsyncClose f s) :=
  h.execM fun _ _ h1 => tidy_winsyncBody (fun _ _ _ _ h2 => .ok h2.closeWindow) h1

theorem tidy_tlbinvBody {f : ExtM} {g : Group} (h : s.Tidy mem tab) : (tlbinvBody f g s).Tidy mem tab :=
  Res.tidy_ite (.trap h) (Res.tidy_ite (.trap h) (Res.tidy_ite (.trap h)
    (h.inParts (fun _ _ h1 => h1.startShoot) fun _ _ h1 => .ok h1)))

theorem tidy_execTlbinv {f : ExtM} (h : s.Tidy mem tab) : Out.Tidy mem tab (execTlbinv f s) :=
  h.execM fun _ _ h1 => tidy_tlbinvBody h1

theorem tidy_xlatqBody {f : ExtM} {g : Group} (h : s.Tidy mem tab) : (xlatqBody f g s).Tidy mem tab := by
  unfold xlatqBody
  dsimp only
  split
  · exact .trap h
  · exact Res.tidy_ite (.trap h) (.ok h.modGroup)

theorem tidy_execXlatq {f : ExtM} (h : s.Tidy mem tab) : Out.Tidy mem tab (execXlatq f s) :=
  h.execM fun _ _ h1 => tidy_xlatqBody h1

end Sys2Proof.Machine
end

section
/-! SUPPORT. What Machine/DevCoh.lean defines keeps a state tidy: the steps of the memory system. -/

namespace Sys2Proof.Machine

variable {mem tab : Prop} {s : State}

theorem tidy_execSiLoadRequest {m : Nat} (h : s.Tidy mem tab) : Out.Tidy mem tab (execSiLoadRequest m s) :=
  h.onMsg fun _ => h.serve

theorem tidy_execOwnLoadRequest {m : Nat} (h : s.Tidy mem tab) : Out.Tidy mem tab (execOwnLoadRequest m s) :=
  h.onMsg fun _ => h.serve

theorem tidy_execRegistration {m : Nat} (h : s.Tidy mem tab) : Out.Tidy mem tab (execRegistration m s) :=
  h.onMsg fun _ => h.serve

theorem tidy_execWriteThrough {m : Nat} (h : s.Tidy mem tab) : Out.Tidy mem tab (execWriteThrough m s) :=
  h.onMsg fun _ => h.serve

theorem tidy_execNcAtomic {m : Nat} (h : s.Tidy mem tab) : Out.Tidy mem tab (execNcAtomic m s) :=
  h.onMsg fun _ => h.serve

theorem tidy_execScOperation {m : Nat} (h : s.Tidy mem tab) : Out.Tidy mem tab (execScOperation m s) :=
  h.onMsg fun _ => h.serve

theorem tidy_execGatherLane {m : Nat} (h : s.Tidy mem tab) : Out.Tidy mem tab (execGatherLane m s) :=
  h.onMsg fun _ => State.tidy_ite h.serve h

theorem tidy_execGrant {m : Nat} (h : s.Tidy mem tab) : Out.Tidy mem tab (execGrant m s) :=
  h.onMsg fun _ => h.landWhenFirst fun _ _ h1 => h1.landGrant

theorem tidy_execRevocation {m : Nat} (h : s.Tidy mem tab) : Out.Tidy mem tab (execRevocation m s) :=
  h.onMsg fun _ => h.revoke

theorem tidy_execForwardedRead {m : Nat} (h : s.Tidy mem tab) : Out.Tidy mem tab (execForwardedRead m s) :=
  h.onMsg fun _ => h.forward

theorem tidy_execFill {m : Nat} (h : s.Tidy mem tab) : Out.Tidy mem tab (execFill m s) :=
  h.onMsg fun _ => h.landWhenFirst fun _ _ h1 => h1.landFill

theorem tidy_execWriteThroughAck {m : Nat} (h : s.Tidy mem tab) : Out.Tidy mem tab (execWriteThroughAck m s) :=
  h.onMsg fun _ => h.landWhenFirst fun _ _ h1 => h1.landAck

theorem tidy_execWatchArrival {m : Nat} (h : s.Tidy mem tab) : Out.Tidy mem tab (execWatchArrival m s) :=
  h.onMsg fun _ => h.serve

theorem tidy_execWatchRetry {m : Nat} (h : s.Tidy mem tab) : Out.Tidy mem tab (execWatchRetry m s) :=
  h.onMsg fun _ => State.tidy_ite h.setMsg h

theorem tidy_execGateRequest {m : Nat} (h : s.Tidy mem tab) : Out.Tidy mem tab (execGateRequest m s) := by
  unfold execGateRequest
  refine h.onMsg fun _ => ?_
  split
  · exact h
  · dsimp only
    split
    · exact h.setMsg
    · exact h.refuseMsg

theorem tidy_execL1LineEviction {core line : Nat} (h : s.Tidy mem tab) :
    Out.Tidy mem tab (execL1LineEviction core line s) :=
  .next h.evictL1

theorem tidy_execL2LineEviction {line : Nat} (h : s.Tidy mem tab) : Out.Tidy mem tab (execL2LineEviction line s) :=
  .next (State.tidy_ite h.evictL2 h)

theorem State.Tidy.evictReplica {l slice : Nat} (h : s.Tidy mem tab) : (s.evictReplica l slice).Tidy mem tab :=
  h.setLine

theorem State.Tidy.invalidateObj {m : Msg} {obj version : Nat} (h : s.Tidy mem tab) :
    (s.invalidateObj m obj version).Tidy mem tab :=
  State.Tidy.arrive { h with cores := h.cores.set { h.dropMsg.core with } }

theorem tidy_execObjectInvalidation {m : Nat} (h : s.Tidy mem tab) : Out.Tidy mem tab (execObjectInvalidation m s) := by
  unfold execObjectInvalidation
  split
  · split
    · exact .next h.invalidateObj
    · exact .next h
  · exact .next h

theorem tidy_execAbsmaxDrain {g : Nat} (h : s.Tidy mem tab) : Out.Tidy mem tab (execAbsmaxDrain g s) :=
  .next h.modGroup

theorem State.Tidy.raiseLcs {b old new : Nat} (h : s.Tidy mem tab) : (s.raiseLcs b old new).Tidy mem tab :=
  State.tidy_foldl h fun _ _ h1 => h1.setLcs

theorem tidy_execHmaskWrite {bh : Nat} {v : DWord} (h : s.Tidy mem tab) : Out.Tidy mem tab (execHmaskWrite bh v s) :=
  Out.tidy_ite (.next (State.tidy_foldl h fun _ _ h1 => h1.raiseLcs).modBh) (.next h.modBh)

theorem tidy_execL2QuiesceWrite {bh : Nat} {v : DWord} (h : s.Tidy mem tab) :
    Out.Tidy mem tab (execL2QuiesceWrite bh v s) :=
  .next h.modBh

theorem tidy_execQuiesceComplete {bh : Nat} (h : s.Tidy mem tab) : Out.Tidy mem tab (execQuiesceComplete bh s) :=
  Out.tidy_ite (.next h) (.next (State.tidy_foldl (State.tidy_foldl h fun _ _ h1 => h1.writeBackLine.setLine)
    fun _ _ h1 => h1.setRedirects).modBh)

theorem tidy_execL2Wbcmd {bh word : Nat} {v : DWord} (h : s.Tidy mem tab) : Out.Tidy mem tab (execL2Wbcmd bh word v s) :=
  Out.tidy_ite (.next h) (Out.tidy_ite (.next h.modBh) (Out.tidy_ite (.next h.modBh) (.next h.modBh)))

theorem tidy_execWritebackComplete {bh : Nat} (h : s.Tidy mem tab) : Out.Tidy mem tab (execWritebackComplete bh s) :=
  Out.tidy_ite (.next h) (.next (State.tidy_foldl h fun _ _ h1 => h1.writeBackLine).modBh)

theorem tidy_execGateEntryWrite {bh : Nat} {ingress : Bool} {n word : Nat} {v : DWord} (h : s.Tidy mem tab) :
    Out.Tidy mem tab (execGateEntryWrite bh ingress n word v s) :=
  Out.tidy_ite (.next h.modBh) (.next h.modBh)

theorem State.Tidy.countEcc {site : ErrorSite} (h : s.Tidy mem tab) : (s.countEcc site).Tidy mem tab := by
  unfold State.countEcc
  split
  · exact h.modCore fun _ h1 => { h1 with }
  · exact h.modCore fun _ h1 => { h1 with }
  · exact h.modCore fun _ h1 => { h1 with }
  · exact h.modCore fun _ h1 => { h1 with }
  · exact h.modBh
  · exact h.modBh
  · exact h

theorem State.Tidy.strike {site : ErrorSite} (h : s.Tidy mem tab) : (s.strike site).Tidy mem tab := by
  unfold State.strike
  split
  · exact h.modCore fun _ h1 => { h1 with }
  · exact h.modCore fun _ h1 => { h1 with }
  · exact State.tidy_ite h.setPoison h
  · exact State.tidy_ite h.setPoison h
  · exact h.modGroup
  · exact h.modTeam
  · exact h.modGroup

theorem tidy_execSoftError {site : ErrorSite} {correctable : Bool} (h : s.Tidy mem tab) :
    Out.Tidy mem tab (execSoftError site correctable s) :=
  .next (State.tidy_ite h.countEcc h.strike)

end Sys2Proof.Machine
end

section
/-! SUPPORT. What Machine/DevTable.lean defines keeps a state tidy: the writes of the device registers. -/

namespace Sys2Proof.Machine

variable {mem tab : Prop} {s : State}

theorem State.Tidy.putShape {n : Nat} {v : DWord} (h : s.Tidy mem tab) : (s.putShape n v).Tidy mem tab :=
  State.tidy_ite { h with } { h with }

theorem tidy_execTntShapeWrite {n : Nat} {v : DWord} (h : s.Tidy mem tab) : Out.Tidy mem tab (execTntShapeWrite n v s) :=
  .next h.putShape

theorem State.Tidy.putFab {n : Nat} {v : DWord} (h : s.Tidy mem tab) : (s.putFab n v).Tidy mem tab :=
  State.tidy_ite { h with } { h with }

theorem tidy_execTntFabWrite {n : Nat} {v : DWord} (h : s.Tidy mem tab) : Out.Tidy mem tab (execTntFabWrite n v s) :=
  .next h.putFab

theorem tidy_execMcSetWrite {n m : Nat} {v : DWord} (h : s.Tidy mem tab) : Out.Tidy mem tab (execMcSetWrite n m v s) :=
  Out.tidy_ite (.next { h with }) (.next { h with })

theorem State.Tidy.writeWdog {b : Nat} {v : DWord} (h : s.Tidy mem tab) : (s.writeWdog b v).Tidy mem tab :=
  h.modBh

theorem State.Tidy.writeCtx {asid n : Nat} {v : DWord} (h : s.Tidy mem tab) : (s.writeCtx asid n v).Tidy mem tab := by
  unfold State.writeCtx
  split
  · exact { h with }
  · exact h

theorem State.Tidy.writeReg {r : DevReg} {v : DWord} (h : s.Tidy mem tab) : (s.writeReg r v).Tidy mem tab := by
  unfold State.writeReg
  split
  · exact h.writeWdog
  · exact h.modBh
  · exact h.modBh
  · exact h.modBh
  · exact h.modBh
  · exact h.modBh
  · exact h.modBh
  · exact h.modBh
  · exact h.modBh
  · exact { h with }
  · exact h.putShape
  · exact h.putFab
  · exact { h with }
  · exact State.tidy_ite h { h with }
  · exact { h with }
  · exact h.writeCtx

theorem tidy_execRegisterWrite {r : DevReg} {v : DWord} (h : s.Tidy mem tab) :
    Out.Tidy mem tab (execRegisterWrite r v s) :=
  .next h.writeReg

theorem tidy_execWatchdogKick {bh : Nat} (h : s.Tidy mem tab) : Out.Tidy mem tab (execWatchdogKick bh s) :=
  .next (State.tidy_ite h h.modBh)

theorem tidy_execCtxEvqWrite {bh asid : Nat} {v : DWord} (h : s.Tidy mem tab) :
    Out.Tidy mem tab (execCtxEvqWrite bh asid v s) := by
  unfold execCtxEvqWrite
  extract_lets w
  have h1 : OptTidy mem tab ((s.evqReads bh w).writeEvq asid bh w) := h.evqReads.writeEvq
  cases hw : (s.evqReads bh w).writeEvq asid bh w with
  | none => exact .next h.evqReads
  | some t => exact .next (h1.of_some hw)

theorem tidy_execSevqGetWrite {v : DWord} (h : s.Tidy mem tab) : Out.Tidy mem tab (execSevqGetWrite v s) :=
  Out.tidy_ite (.next { h with }) (.next h)

theorem tidy_execSuspScoreWrite {core : Nat} {v : DWord} (h : s.Tidy mem tab) :
    Out.Tidy mem tab (execSuspScoreWrite core v s) :=
  .next h.writeScore

theorem tidy_execSuspLimitWrite {core : Nat} {v : DWord} (h : s.Tidy mem tab) :
    Out.Tidy mem tab (execSuspLimitWrite core v s) :=
  .next h.writeLimit

end Sys2Proof.Machine
end

section
/-! SUPPORT. What Machine/DevBoot.lean defines keeps a state tidy: the starts of the device and its mailbox. -/

namespace Sys2Proof.Machine

variable {mem tab : Prop} {s : State}

theorem State.tidy_reset : State.reset.Tidy mem tab :=
  { groups := fun _ => rfl, teams := fun _ => rfl, cores := (fun _ he => nomatch he), home := .nil, hbm := .nil, nvme :=
    .nil }

/-- A device reset keeps part of the home memory and the NVMe bytes; the rest stands at reset. -/
theorem State.Tidy.deviceReset (h : s.Tidy mem tab) : s.deviceReset.Tidy mem tab :=
  { State.tidy_reset with home := h.home.filter, nvme := h.nvme }

theorem State.Tidy.tadpole (h : s.Tidy mem tab) : s.tadpole.Tidy mem tab := by
  unfold State.tadpole
  extract_lets s1
  have h1 : s1.Tidy mem tab := h.copyMolt
  clear_value s1
  exact { h1 with }

theorem State.Tidy.start {again : Bool} (h : s.Tidy mem tab) : (s.start again).Tidy mem tab := by
  unfold State.start
  extract_lets s0 s1
  have h0 : s0.Tidy mem tab := { h with }
  have h1 : s1.Tidy mem tab := h0.tadpole
  clear_value s1 s0
  exact State.tidy_ite { h1 with } (State.tidy_ite h0.tadpole { h0 with })

theorem tidy_execPowerOn (h : s.Tidy mem tab) : Out.Tidy mem tab (execPowerOn s) :=
  .next h.deviceReset.withBootFails.start

theorem State.Tidy.failStart {reason : Byte} (h : s.Tidy mem tab) : (s.failStart reason).Tidy mem tab :=
  State.Tidy.molt { h with }

theorem tidy_execImageVerify (h : s.Tidy mem tab) : Out.Tidy mem tab (execImageVerify s) := by
  unfold execImageVerify
  split
  · exact .next h
  · split
    · exact .next h.failStart
    · exact .next { h with }

theorem tidy_execRonuriStart {writes : List (DevReg × DWord)} (h : s.Tidy mem tab) :
    Out.Tidy mem tab (execRonuriStart writes s) :=
  Out.tidy_ite (.next h) (.next { State.tidy_foldl h.copyMolt fun _ _ h1 => h1.writeReg with })

theorem State.Tidy.buildPool {b : Nat} (h : s.Tidy mem tab) : (s.buildPool b).Tidy mem tab :=
  State.tidy_foldl h fun _ _ h1 => h1.freeFrame

theorem tidy_execBulkheadBringup (h : s.Tidy mem tab) : Out.Tidy mem tab (execBulkheadBringup s) :=
  Out.tidy_ite (.next h) (Out.tidy_ite (.next (State.tidy_foldl_snd h fun _ _ h1 =>
    (State.tidy_foldl h1.free fun _ _ h2 => h2.quarantine).modBh.buildPool).failStart)
    (.next { State.tidy_foldl_snd h fun _ _ h1 => (State.tidy_foldl h1.free fun _ _ h2 => h2.quarantine).modBh.buildPool
    with }))

theorem tidy_execHostStage (h : s.Tidy mem tab) : Out.Tidy mem tab (execHostStage s) :=
  .next (State.tidy_ite { h with } h)

theorem tidy_execBootOkWrite {v : DWord} (h : s.Tidy mem tab) : Out.Tidy mem tab (execBootOkWrite v s) :=
  .next (State.tidy_ite { h with } h)

theorem tidy_execBootTimeout (h : s.Tidy mem tab) : Out.Tidy mem tab (execBootTimeout s) :=
  .next (State.tidy_ite h.failStart.deviceReset h)

theorem tidy_execFunctionLevelReset (h : s.Tidy mem tab) : Out.Tidy mem tab (execFunctionLevelReset s) :=
  .next h.deviceReset.start

theorem State.Tidy.mbxEnd {code reason : Byte} (h : s.Tidy mem tab) : (s.mbxEnd code reason).Tidy mem tab :=
  { h with }

theorem State.Tidy.mbx {v : DWord} {op : Nat} {ok : Bool} {go : State} (hs : s.Tidy mem tab) (hgo : go.Tidy mem tab) :
    (s.mbx v op ok go).Tidy mem tab :=
  State.tidy_ite hs (State.tidy_ite { hs with } (State.tidy_ite hs (State.tidy_ite { hs with } { hgo with })))

theorem tidy_execMbxBegin {v : DWord} (h : s.Tidy mem tab) : Out.Tidy mem tab (execMbxBegin v s) :=
  .next (h.mbx { h with })

theorem tidy_execMbxWrite {v : DWord} {data : List Byte} (h : s.Tidy mem tab) : Out.Tidy mem tab (execMbxWrite v data s) := by
  unfold execMbxWrite
  extract_lets d s1
  have h1 : s1.Tidy mem tab := State.tidy_ite { h with } h
  have hend : (s1.mbxEnd 0 0).Tidy mem tab := h1.mbxEnd
  clear_value s1 d
  exact .next (h1.mbx (State.tidy_ite h1.mbxEnd (hend.withNvme h.nvme.putBytes)))

theorem tidy_execMbxCommit {v : DWord} (h : s.Tidy mem tab) : Out.Tidy mem tab (execMbxCommit v s) := by
  unfold execMbxCommit
  refine .next (h.mbx ?_)
  split
  · exact { h with }
  · exact State.Tidy.mbxEnd { h with }
  · exact { h with }

theorem tidy_execMbxAbort {v : DWord} (h : s.Tidy mem tab) : Out.Tidy mem tab (execMbxAbort v s) :=
  .next (h.mbx { h with })

theorem tidy_execTadreq {v : DWord} (h : s.Tidy mem tab) : Out.Tidy mem tab (execTadreq v s) :=
  .next (State.tidy_ite { h with } h)

theorem tidy_execSpdmRequest {index : BitVec 8} (h : s.Tidy mem tab) : Out.Tidy mem tab (execSpdmRequest index s) :=
  .next { h with }

end Sys2Proof.Machine
end

section
/-! SUPPORT. What Machine/Schedule.lean defines keeps a state tidy: issue, fetch and the passage of time. -/

namespace Sys2Proof.Machine

variable {mem tab : Prop} {s : State}

theorem State.Tidy.takeDeferred {gid : Nat} {slot : Bool} (h : s.Tidy mem tab) : (s.takeDeferred gid slot).Tidy mem tab := by
  unfold State.takeDeferred
  split
  · exact h
  · split
    · exact h
    · exact h.setGroup.takeTrap

theorem State.Tidy.takeTimer {gid : Nat} {slot : Bool} (h : s.Tidy mem tab) : (s.takeTimer gid slot).Tidy mem tab := by
  unfold State.takeTimer
  split
  · exact h
  · exact h.setGroup.takeTrap

theorem State.Tidy.stopGroup {gid : Nat} {c : Cause} {pc : DWord} (h : s.Tidy mem tab) :
    (s.stopGroup gid c pc).Tidy mem tab := by
  unfold State.stopGroup
  split
  · exact h
  · exact State.Tidy.molt (State.Tidy.groupGone (State.Tidy.setGroup { h with }))

theorem State.Tidy.boundary {gid : Nat} {slot : Bool} (h : s.Tidy mem tab) : OptTidy mem tab (s.boundary gid slot) := by
  unfold State.boundary
  split
  · exact .none
  · split
    · exact .some h.stopGroup
    · split
      · exact .none
      · split
        · exact .some h.setGroup.takeTrap
        · split
          · exact .some h.takeDeferred
          · exact .none

theorem State.Tidy.nextWords {gid : Nat} {g : Group} {slot : Bool} (h : s.Tidy mem tab) :
    (s.nextWords gid g slot).Tidy mem tab := by
  unfold State.nextWords
  split
  · exact .words h
  · exact h.fetchInstr

theorem State.Tidy.fetchNext {gid : Nat} {slot : Bool} (h : s.Tidy mem tab) : (s.fetchNext gid slot).2.Tidy mem tab := by
  unfold State.fetchNext
  extract_lets s0
  have h0 : s0.Tidy mem tab := { h with }
  clear_value s0
  split
  · exact h0.boundary.of_some ‹_›
  · split
    · exact h0
    · dsimp only
      split
      · exact (h0.nextWords.of_fail ‹_›).takeTrap
      · have h1 := h0.nextWords.of_words ‹_›
        split
        · exact h1.takeTrap
        · exact State.tidy_ite h1.modGroup h1

theorem State.Tidy.passTime (h : s.Tidy mem tab) : s.passTime.Tidy mem tab :=
  { h with groups := h.groups.map fun _ => rfl }

theorem State.Tidy.rotate {before after : State} {g : Group} {slot : Bool} {gid : Nat} (h : after.Tidy mem tab) :
    (before.rotate after g slot gid).Tidy mem tab :=
  State.tidy_ite h.modTeam (State.tidy_ite h.modTeam.modGroup h)

theorem State.Tidy.afterIssue {before after : State} {gid : Nat} {slot : Bool} (h : after.Tidy mem tab) :
    (before.afterIssue after gid slot).Tidy mem tab := by
  unfold State.afterIssue
  split
  · exact State.tidy_ite h.modGroup.rotate h.modGroup
  · exact h

end Sys2Proof.Machine
end

section
/-! SUPPORT. What Machine/StandingProduct.lean defines keeps a state tidy: standing products. -/

namespace Sys2Proof.Machine

variable {mem tab : Prop} {s : State}

theorem State.Tidy.setBinding {bh b : Nat} {x : Binding} (h : s.Tidy mem tab) : (s.setBinding bh b x).Tidy mem tab :=
  h.modBh

theorem State.Tidy.writeCells {q : Asker} {c : Acc} {sh : Shape} {n : Nat} {refused : Bool} {val : Nat → Nat}
    {l : List Nat} {e : Option Cause} (h : s.Tidy mem tab) : (s.writeCells q c sh n refused val l e).Tidy mem tab := by
  induction l generalizing s e with
  | nil => exact .done h
  | cons x t ih =>
    unfold State.writeCells
    split
    · exact ih (h.engineStore.of_done ‹_›)
    · exact .wait (h.engineStore.of_wait ‹_›)
    · have h1 := h.engineStore.of_fail ‹_›
      exact EngAns.tidy_ite (.fail h1) (ih h1)

theorem State.Tidy.writeC {bh : Nat} {b : Binding} {cells : List Nat} (h : s.Tidy mem tab) :
    (s.writeC bh b cells).Tidy mem tab :=
  h.writeCells

theorem State.Tidy.postSp {bh : Nat} {b : Binding} {c : Cause} {data1 : Nat} (h : s.Tidy mem tab) :
    (s.postSp bh b c data1).Tidy mem tab :=
  h.postCtx

theorem State.Tidy.breakBinding {bh num : Nat} {c : Cause} (h : s.Tidy mem tab) : (s.breakBinding bh num c).Tidy mem tab := by
  unfold State.breakBinding
  split
  · exact h.setBinding.postSp
  · exact h

theorem State.Tidy.afterWrite {bh num : Nat} {b : Binding} {r : EngAns (Option Cause)} {go : State → State}
    (h : s.Tidy mem tab) (hr : r.Tidy mem tab) (hgo : ∀ u, u.Tidy mem tab → (go u).Tidy mem tab) :
    (s.afterWrite bh num b r go).Tidy mem tab := by
  unfold State.afterWrite
  split
  · exact hgo _ (hr.of_done rfl).setBinding
  · exact (hgo _ (hr.of_done rfl).setBinding).breakBinding
  · exact h
  · split
    · exact h.setBinding
    · exact h

theorem State.Tidy.refresh {bh num : Nat} {b : Binding} {go : State → State} (h : s.Tidy mem tab)
    (hgo : ∀ u, u.Tidy mem tab → (go u).Tidy mem tab) : (s.refresh bh num b go).Tidy mem tab :=
  h.afterWrite h.writeC fun _ h1 => hgo _ h1

theorem State.Tidy.postApplied {bh : Nat} {old new : Binding} (h : s.Tidy mem tab) :
    (s.postApplied bh old new).Tidy mem tab :=
  State.tidy_ite (State.tidy_ite (State.tidy_ite h.postSp h).postSp (State.tidy_ite h.postSp h)).postSp
    (State.tidy_ite (State.tidy_ite h.postSp h).postSp (State.tidy_ite h.postSp h))

theorem State.Tidy.applyNext {bh : Nat} {r : Delta} (h : s.Tidy mem tab) : (s.applyNext bh r).Tidy mem tab := by
  unfold State.applyNext
  split
  · exact h.modBh
  · exact State.tidy_ite h.setBinding.postSp (h.afterWrite h.writeC fun _ h1 => h1.modBh.postApplied)

theorem State.Tidy.takeSnap {r : EngReq} {dst : Shape} {b : Binding} (h : s.Tidy mem tab) :
    (s.takeSnap r dst b).Tidy mem tab := by
  unfold State.takeSnap
  split
  · exact h.engineDone
  · split
    · exact (h.writeCells.of_done ‹_›).engineDone
    · exact h.writeCells.of_wait ‹_›
    · exact (h.writeCells.of_fail ‹_›).requestFails

theorem State.Tidy.dueRefresh {bh num : Nat} {b : Binding} (h : s.Tidy mem tab) : (s.dueRefresh bh num b).Tidy mem tab :=
  State.tidy_ite (h.refresh fun _ h1 => h1) (State.tidy_ite h h.setBinding.modBh)

theorem tidy_execDeltaApply {bh : Nat} (h : s.Tidy mem tab) : Out.Tidy mem tab (execDeltaApply bh s) := by
  unfold execDeltaApply
  split
  · exact .next h
  · split
    · exact .next h.dueRefresh
    · split
      · exact .next h.takeSnap
      · split
        · exact .next h.applyNext
        · exact .next h

theorem tidy_execCaptureQueueSend {bh slice : Nat} (h : s.Tidy mem tab) :
    Out.Tidy mem tab (execCaptureQueueSend bh slice s) := by
  unfold execCaptureQueueSend
  dsimp only
  split
  · exact .next h
  · split
    · exact .next h.modBh
    · exact Out.tidy_ite (.next h.modBh) (Out.tidy_ite (.next h.modBh.setBinding)
        (Out.tidy_ite (.next h) (.next h.setBinding.postSp)))

theorem tidy_execLcsHeartbeat {bh slice : Nat} (h : s.Tidy mem tab) : Out.Tidy mem tab (execLcsHeartbeat bh slice s) :=
  Out.tidy_ite (.next h) (.next h.setLcs.modBh)

theorem State.Tidy.bindPages {gid : Nat} {g : Group} {l : List (Nat × AccessKind)} (h : s.Tidy mem tab) :
    (s.bindPages gid g l).2.Tidy mem tab := by
  induction l generalizing s with
  | nil => exact h
  | cons p t ih =>
    unfold State.bindPages
    dsimp only
    split
    · exact h.translate.pair ‹_›
    · have h1 := ih (h.translate.pair ‹_›)
      split
      · exact h1.pair ‹_›
      · exact h1.pair ‹_›

theorem State.Tidy.makeBinding {u : State} {g : Group} {r : BindRec} {frames : List (Nat × Nat)} {a b : Nat}
    (h : s.Tidy mem tab) (he : s.makeBinding g r frames = some (a, b, u)) : u.Tidy mem tab := by
  unfold State.makeBinding at he
  extract_lets bh id num objA s1 stand s2 objB s3 at he
  have h3 : s3.Tidy mem tab := h.settleBh.setObj.setObj
  clear_value s3
  split at he
  next fs s4 heq =>
  have h4 : s4.Tidy mem tab := h3.engineFrames.pair heq
  split at he
  split at he
  extract_lets b0 s5 b1 at he
  have h5 : s5.Tidy mem tab := h4.modCtx
  clear_value s5
  split at he
  · exact h5.setBinding.postSp.of_some_triple he
  · split at he
    · exact (h5.writeC.of_done ‹_›).setBinding.of_some_triple he
    · exact (h5.writeC.of_done ‹_›).setBinding.breakBinding.of_some_triple he
    · cases he
    · exact (h5.writeC.of_fail ‹_›).setBinding.breakBinding.of_some_triple he

theorem tidy_spbindBody {f : ExtA} {g : Group} (h : s.Tidy mem tab) : (spbindBody f g s).Tidy mem tab := by
  unfold spbindBody
  extract_lets a put
  have hput : ∀ v u, u.Tidy mem tab → (put v u).Tidy mem tab := fun _ _ hu => .ok hu.modGroup
  clear_value put
  refine Res.tidy_ite (hput _ _ h) (h.withRecord fun ds s1 h1 => ?_)
  split
  · exact hput _ _ h1
  · split
    · exact .trap (h1.bindPages.pair ‹_›)
    · have h2 := h1.bindPages.pair ‹_›
      split
      · exact hput _ _ h2
      · refine h2.release fun s3 h3 => Res.tidy_ite (.stall h3) ?_
        split
        · exact .stall h3
        · exact hput _ _ (h3.makeBinding ‹_›).dropValid

theorem tidy_execSpbind {f : ExtA} (h : s.Tidy mem tab) : Out.Tidy mem tab (execSpbind f s) :=
  h.execA fun _ _ h1 => tidy_spbindBody h1

theorem State.Tidy.withBinding {g : Group} {v : DWord} {unbind : Bool} {go : Nat → Binding → Res} (h : s.Tidy mem tab)
    (hgo : ∀ x b, (go x b).Tidy mem tab) : (s.withBinding g v unbind go).Tidy mem tab := by
  unfold State.withBinding
  split
  · exact .trap h
  · split
    · exact .trap h
    · split
      · exact .trap h
      · split
        · exact .trap h
        · exact Res.tidy_ite (.trap h) (hgo _ _)

theorem State.Tidy.settling {g : Group} {num : Nat} {b : Binding} {done : State → Res} (h : s.Tidy mem tab)
    (hdone : ∀ u, u.Tidy mem tab → (done u).Tidy mem tab) : (s.settling g num b done).Tidy mem tab := by
  unfold State.settling
  split
  · dsimp only
    split
    · exact Res.tidy_ite (.stall h) (.ok ((hdone _ h).of_ok ‹_›).dropPend)
    · exact h.release fun _ h1 => Res.tidy_ite (hdone _ h1) (.stall h1.fresh.addPend)
  · dsimp only
    split
    · exact Res.tidy_ite (.stall h) (hdone _ h)
    · exact h.release fun _ h1 => Res.tidy_ite (hdone _ h1) (.stall h1.fresh.addPend)

theorem State.Tidy.refreshNow {bh num : Nat} {b : Binding} {go : State → Res} (h : s.Tidy mem tab)
    (hgo : ∀ u, u.Tidy mem tab → (go u).Tidy mem tab) : (s.refreshNow bh num b go).Tidy mem tab := by
  unfold State.refreshNow
  dsimp only
  split
  · exact hgo _ (h.writeC.of_done ‹_›).setBinding
  · exact hgo _ (h.writeC.of_done ‹_›).setBinding.breakBinding
  · exact .stall h
  · exact .stall h.setBinding

theorem State.Tidy.dueFirst {num : Nat} {b : Binding} {go : State → Binding → Res} (h : s.Tidy mem tab)
    (hgo : ∀ u b, u.Tidy mem tab → (go u b).Tidy mem tab) : (s.dueFirst num b go).Tidy mem tab :=
  Res.tidy_ite (Res.tidy_ite (.stall h) (h.refreshNow fun _ h1 => hgo _ _ h1)) (hgo _ _ h)

theorem State.Tidy.dueUnbroken {num : Nat} {b : Binding} {go : State → Binding → Res} (h : s.Tidy mem tab)
    (hgo : ∀ u b, u.Tidy mem tab → (go u b).Tidy mem tab) : (s.dueUnbroken num b go).Tidy mem tab :=
  h.dueFirst fun _ _ h1 => Res.tidy_ite (.trap h1) (hgo _ _ h1)

theorem tidy_execSpsettle {f : ExtA} (h : s.Tidy mem tab) : Out.Tidy mem tab (execSpsettle f s) :=
  h.execA fun _ _ h1 => h1.withBinding fun _ _ => Res.tidy_ite
    (h1.settling fun _ h2 => Res.tidy_ite (.stall h2) (.ok h2.dropValid))
    (h1.dueUnbroken fun _ _ h2 => h2.settling fun _ h3 => Res.tidy_ite (.stall h3) (.ok h3.dropValid))

theorem tidy_execSprefresh {f : ExtA} (h : s.Tidy mem tab) : Out.Tidy mem tab (execSprefresh f s) :=
  h.execA fun _ _ h1 => h1.withBinding fun _ _ => h1.withLeave fun _ h2 => h2.settling fun _ h3 => Res.tidy_ite
    (.stall h3) (h3.refreshNow fun _ h4 => .ok h4.modGroup.dropValid)

theorem tidy_execSpquery {f : ExtA} (h : s.Tidy mem tab) : Out.Tidy mem tab (execSpquery f s) :=
  h.execA fun _ _ h1 => h1.withBinding fun _ _ => .ok h1.modGroup

theorem tidy_execSppause {f : ExtA} (h : s.Tidy mem tab) : Out.Tidy mem tab (execSppause f s) :=
  h.execA fun _ _ h1 => h1.withBinding fun _ _ => .ok h1.setBinding

theorem tidy_execSpresume {f : ExtA} (h : s.Tidy mem tab) : Out.Tidy mem tab (execSpresume f s) :=
  h.execA fun _ _ h1 => h1.withBinding fun _ _ => .ok h1.setBinding

theorem tidy_execSpsnap {f : ExtA} (h : s.Tidy mem tab) : Out.Tidy mem tab (execSpsnap f s) :=
  h.execA fun _ _ h1 => h1.withBinding fun _ _ => Res.tidy_ite (.trap h1)
    (Res.tidy_ite (.stall h1) (h1.dueUnbroken fun _ _ h2 => h2.release fun _ h3 => .ok h3.issueRequest))

theorem State.Tidy.stopCapture {bh num : Nat} (h : s.Tidy mem tab) : (s.stopCapture bh num).Tidy mem tab := by
  unfold State.stopCapture
  split
  · exact h.setBinding
  · exact h

theorem State.Tidy.endSnaps {bh num : Nat} (h : s.Tidy mem tab) : (s.endSnaps bh num).Tidy mem tab :=
  State.tidy_foldl h fun _ _ h1 => h1.setRequest.engineDone

theorem State.Tidy.endBinding {bh num : Nat} {b : Binding} (h : s.Tidy mem tab) : (s.endBinding bh num b).Tidy mem tab :=
  h.endSnaps.modBh.modCtx.freeEngineFrames

theorem State.Tidy.unbinding {num : Nat} {finish : State → Res} (h : s.Tidy mem tab)
    (hfinish : ∀ u, u.Tidy mem tab → (finish u).Tidy mem tab) : (s.unbinding num finish).Tidy mem tab := by
  unfold State.unbinding
  dsimp only
  split
  · exact hfinish _ h
  · exact Res.tidy_ite (.stall h) (hfinish _ h)

theorem tidy_spunbindBody {f : ExtA} {g : Group} (h : s.Tidy mem tab) : (spunbindBody f g s).Tidy mem tab :=
  h.withBinding fun _ _ => Res.tidy_ite (.ok h.endBinding.dropValid)
    (Res.tidy_ite (.stall h) (Res.tidy_ite (h.unbinding fun _ h1 => .ok h1.endBinding.dropValid)
    (h.dueFirst fun _ _ h1 => Res.tidy_ite (.ok h1.endBinding.dropValid)
    (h1.release fun _ h2 => h2.stopCapture.unbinding fun _ h3 => .ok h3.endBinding.dropValid))))

theorem tidy_execSpunbind {f : ExtA} (h : s.Tidy mem tab) : Out.Tidy mem tab (execSpunbind f s) :=
  h.execA fun _ _ h1 => tidy_spunbindBody h1

end Sys2Proof.Machine
end

section
/-! SUPPORT. What Machine/Launch.lean defines keeps a state tidy: launches, placement and teams. -/

namespace Sys2Proof.Machine

variable {mem tab : Prop} {s : State}

/-- A core that takes a context in keeps the scratchpads of its residents only. -/
theorem State.Tidy.takeIn {core asid : Nat} (h : s.Tidy mem tab) : (s.takeIn core asid).Tidy mem tab :=
  State.tidy_ite h (h.modCore fun _ h1 => ⟨fun e he => h1.spad e (List.mem_filter.1 he).1⟩)

theorem State.Tidy.seatGroup {gid : Nat} {g : Group} (h : s.Tidy mem tab) : (s.seatGroup gid g).Tidy mem tab :=
  h.setGroup

theorem State.Tidy.openCores {grid asid : Nat} {cores : List Nat} (h : s.Tidy mem tab) :
    (s.openCores grid asid cores).Tidy mem tab := by
  unfold State.openCores
  refine State.tidy_foldl h fun _ _ h1 => ?_
  dsimp only
  split
  · exact h1.takeIn
  · exact State.tidy_ite h1.takeIn { h1.takeIn with cores := h1.takeIn.cores.set { h1.takeIn.core with } }

theorem State.Tidy.startTeam {t : Team} {f : Fit} {sup : Bool} {regs rate : Nat} {seed entry : DWord} {run : RunKind}
    {args : List (Nat × DWord)} (h : s.Tidy mem tab) :
    (s.startTeam t f sup regs rate seed entry run args).2.Tidy mem tab := by
  unfold State.startTeam
  split
  next tid s0 heq =>
  have h0 : s0.Tidy mem tab := h.fresh.pair heq
  extract_lets s1 s2 s3
  have h1 : s1.Tidy mem tab := State.tidy_foldl h0 fun _ _ hu => hu.lccTake
  have h2 : s2.Tidy mem tab := { h1 with teams := h1.teams.set }
  have h3 : s3.Tidy mem tab := State.tidy_foldl h2.openCores fun _ _ hu => hu.dropValid
  exact State.tidy_foldl h3 fun _ _ hu => hu.fresh.seatGroup

theorem State.Tidy.reportGrid {asid bh number : Nat} {sup : Bool} {done : DWord} {c : Option Cause} (h : s.Tidy mem tab) :
    (s.reportGrid asid bh number sup done c).Tidy mem tab :=
  h.signal.postCtx

theorem State.Tidy.acceptLaunch {asid bh q : Nat} {sup : Bool} {ds : List Nat} (h : s.Tidy mem tab) :
    (s.acceptLaunch asid bh q sup ds).2.Tidy mem tab := by
  unfold State.acceptLaunch
  split
  · exact h.reportGrid
  · dsimp only
    exact State.Tidy.modInst { h.fresh with }

theorem State.Tidy.unqueue {id : Nat} (h : s.Tidy mem tab) : (s.unqueue id).Tidy mem tab := by
  unfold State.unqueue
  split
  · exact h
  · exact h.modInst

theorem State.Tidy.modGrid {id : Nat} {f : Grid → Grid} (h : s.Tidy mem tab) : (s.modGrid id f).Tidy mem tab :=
  { h with }

theorem State.Tidy.failGrid {id : Nat} {c : Cause} (h : s.Tidy mem tab) : (s.failGrid id c).Tidy mem tab :=
  h.modGrid.unqueue

theorem tidy_execLaunchReady {bh asid q : Nat} (h : s.Tidy mem tab) : Out.Tidy mem tab (execLaunchReady bh asid q s) := by
  unfold execLaunchReady
  split
  · exact .next h
  · split
    · exact .next h
    · split
      · exact .next (h.engineLoad.of_wait ‹_›)
      · exact .next (h.engineLoad.of_fail ‹_›).failGrid
      · exact Out.tidy_ite (.next (h.engineLoad.of_done ‹_›).failGrid)
          (Out.tidy_ite (.next (h.engineLoad.of_done ‹_›).modGrid) (.next (h.engineLoad.of_done ‹_›)))

theorem tidy_execOperatingPointChange {bh : Nat} (h : s.Tidy mem tab) : Out.Tidy mem tab (execOperatingPointChange bh s) :=
  .next h.modBh

theorem State.Tidy.startGang {bh q id : Nat} {gr : Grid} {fits : List Fit} (h : s.Tidy mem tab) :
    (s.startGang bh q id gr fits).Tidy mem tab :=
  State.tidy_ite (State.tidy_foldl h.fresh fun _ _ h1 => h1.startTeam).modGrid.modBh.unqueue
    (State.tidy_foldl h.fresh fun _ _ h1 => h1.startTeam).modGrid.modBh

theorem tidy_execActiveSetExchange {out into : Nat} (h : s.Tidy mem tab) :
    Out.Tidy mem tab (execActiveSetExchange out into s) := by
  unfold execActiveSetExchange
  split
  · exact .next h
  · split
    · exact .next h
    · split
      · exact .next h.modGroup
      · split
        · exact .next h
        · exact Out.tidy_ite (.next h.modGroup.modGroup) (.next h)

theorem State.Tidy.releaseClaims {tid : Nat} (h : s.Tidy mem tab) : (s.releaseClaims tid).Tidy mem tab :=
  { h with }

theorem State.Tidy.modJobs {bh : Nat} {f : RveJob → RveJob} (h : s.Tidy mem tab) : (s.modJobs bh f).Tidy mem tab :=
  h.modBh

theorem State.Tidy.noteRun {t : Team} {g : Group} (h : s.Tidy mem tab) : (s.noteRun t g).Tidy mem tab :=
  State.tidy_ite h (State.tidy_ite h.modJobs h.fresh.modBh)

theorem State.Tidy.noteReplay {t : Team} {g : Group} (h : s.Tidy mem tab) : (s.noteReplay t g).Tidy mem tab := by
  unfold State.noteReplay
  split
  · exact h.modJobs
  · exact h

theorem State.Tidy.sendReply {token : Nat} {v : DWord} (h : s.Tidy mem tab) : (s.sendReply token v).Tidy mem tab := by
  unfold State.sendReply
  split
  · exact h
  · split
    · exact h
    · split
      next id s1 heq =>
      extract_lets done
      have h1 : s1.Tidy mem tab := h.fresh.pair heq
      have hdone : done.Tidy mem tab := { h1 with }
      clear_value done
      split
      · exact hdone
      · exact { hdone with }

theorem State.Tidy.endCommand {bh status : Nat} (h : s.Tidy mem tab) : (s.endCommand bh status).Tidy mem tab :=
  h.modBh

theorem State.Tidy.drainCheck {bh : Nat} (h : s.Tidy mem tab) : (s.drainCheck bh).Tidy mem tab :=
  State.tidy_ite h.endCommand h

theorem State.Tidy.retireGang {gang bh : Nat} (h : s.Tidy mem tab) : (s.retireGang gang bh).Tidy mem tab := by
  unfold State.retireGang
  extract_lets ts s1
  have h1 : s1.Tidy mem tab := State.tidy_foldl h fun u t hu => by
    split
    · exact hu.modGrid
    · exact hu.modGrid
    · exact hu
  clear_value s1
  exact State.tidy_ite h (State.Tidy.drainCheck { h1 with teams := h1.teams.filter })

theorem State.Tidy.endTeam {tid : Nat} {t : Team} (h : s.Tidy mem tab) : (s.endTeam tid t).Tidy mem tab := by
  unfold State.endTeam
  extract_lets s1 s2 s3 s4
  have h1 : s1.Tidy mem tab := State.tidy_foldl h fun _ _ hu => hu.closeWindow
  have h3 : s3.Tidy mem tab := h1.releaseLeave.releaseClaims.modTeam
  clear_value s3
  have h4 : s4.Tidy mem tab := by
    unfold s4
    split
    · exact h3.modJobs
    · exact h3.modJobs
    · exact h3.sendReply.withMessages
    · exact h3.modJobs
  exact h4.retireGang

theorem tidy_execGroupEnd {gid : Nat} (h : s.Tidy mem tab) : Out.Tidy mem tab (execGroupEnd gid s) := by
  unfold execGroupEnd
  split
  · exact .next h
  · next g _ =>
    refine Out.tidy_ite (.next h) ?_
    split
    · exact .next { h with groups := h.groups.erase }
    · next t _ =>
      have h1 : ((s.noteRun t g).noteReplay t g).Tidy mem tab := h.noteRun.noteReplay
      have h2 : State.Tidy mem tab { (s.noteRun t g).noteReplay t g with
          groups := Table.erase ((s.noteRun t g).noteReplay t g).groups gid } := { h1 with groups := h1.groups.erase }
      exact Out.tidy_ite (.next h2.endTeam) (.next h2)

theorem State.Tidy.closeObjects {id : Nat} {gr : Grid} (h : s.Tidy mem tab) : (s.closeObjects id gr).Tidy mem tab :=
  State.tidy_foldl h fun _ _ h1 => h1.leaveReadOnly

theorem State.Tidy.releaseObjects {id : Nat} {gr : Grid} (h : s.Tidy mem tab) : (s.releaseObjects id gr).Tidy mem tab :=
  State.tidy_foldl h fun _ _ h1 => h1.dropObj

theorem State.Tidy.reportTask {seq : Nat} {gr : Grid} (h : s.Tidy mem tab) : (s.reportTask seq gr).Tidy mem tab := by
  unfold State.reportTask
  split
  · exact State.tidy_ite h.postCtx.modTender h.postCtx.signalFor
  · exact State.tidy_ite h.modTender h.signalFor

theorem State.Tidy.reportEnd {id : Nat} {gr : Grid} (h : s.Tidy mem tab) : (s.reportEnd id gr).Tidy mem tab := by
  unfold State.reportEnd
  split
  · exact h
  · refine State.Tidy.modGrid ?_
    split
    · exact h.reportTask
    · exact h.reportGrid

theorem tidy_execGridCompletion {id : Nat} (h : s.Tidy mem tab) : Out.Tidy mem tab (execGridCompletion id s) := by
  unfold execGridCompletion
  split
  · exact .next h
  · exact Out.tidy_ite (.next h) (Out.tidy_ite (.next h.reportEnd)
      (Out.tidy_ite (.next h.closeObjects) (Out.tidy_ite (.next h) (.next { h.reportEnd.releaseObjects with }))))

end Sys2Proof.Machine
end

section
/-! SUPPORT. What Machine/External.lean defines keeps a state tidy: accesses from outside the device. -/

namespace Sys2Proof.Machine

variable {mem tab : Prop} {s : State}

theorem State.Tidy.outsidePieces {host : Bool} {asid : Nat} {k : AccessKind} {va : Nat} {l : List (Nat × Nat)}
    (h : s.Tidy mem tab) : (s.outsidePieces host asid k va l).Tidy mem tab := by
  induction l generalizing s with
  | nil => exact .done h
  | cons p t ih =>
    unfold State.outsidePieces
    split
    · exact ExtAns.tidy_ite .fault .refused
    · refine ExtAns.tidy_ite .refused ?_
      have h1 := ih (h.translate.pair ‹_›)
      split
      · exact .done (h1.of_done ‹_›)
      · exact h1

theorem State.Tidy.outsideHoles {host : Bool} {ps : List (Nat × Nat × Nat)} (h : s.Tidy mem tab) :
    (s.outsideHoles host ps).Tidy mem tab :=
  State.tidy_foldl h fun _ _ h1 => h1.holeCheck

theorem State.Tidy.reach {host : Bool} {asid : Nat} {k : AccessKind} {va n : Nat} (h : s.Tidy mem tab) :
    (s.reach host asid k va n).Tidy mem tab :=
  h.outsidePieces

theorem State.Tidy.outsideNotes {asid va : Nat} {ps : List (Nat × Nat × Nat)} (h : s.Tidy mem tab) :
    (s.outsideNotes asid va ps).Tidy mem tab :=
  State.tidy_foldl h fun _ _ h1 => h1.noteRead

theorem State.Tidy.outsideRead {host : Bool} {asid va n : Nat} (h : s.Tidy mem tab) :
    (s.outsideRead host asid va n).Tidy mem tab := by
  unfold State.outsideRead
  split
  · exact ExtAns.tidy_ite .wait (.done (h.reach.of_done ‹_›).outsideHoles.outsideNotes)
  · exact .wait
  · exact .fault
  · exact .refused

theorem State.Tidy.poisonWords {poison : Bool} {dpa n : Nat} (h : s.Tidy mem tab) :
    (s.poisonWords poison dpa n).Tidy mem tab :=
  State.tidy_ite (State.tidy_foldl h fun _ _ h1 => h1.setPoison) h

theorem State.Tidy.outsideWrite {host : Bool} {asid va n v : Nat} {poison : Bool} (h : s.Tidy mem tab) :
    (s.outsideWrite host asid va n v poison).Tidy mem tab := by
  unfold State.outsideWrite
  split
  · split
    · exact .wait
    · refine .done (State.tidy_foldl_snd (h.reach.of_done ‹_›).outsideHoles fun _ _ h1 => ?_)
      split
      · exact (h1.homeWrite.of_ok ‹_›).poisonWords
      · exact h1
  · exact .wait
  · exact .fault
  · exact .refused

theorem State.Tidy.outsideScRead {host : Bool} {asid va n : Nat} (h : s.Tidy mem tab) :
    (s.outsideScRead host asid va n).Tidy mem tab := by
  unfold State.outsideScRead
  split
  · exact ExtAns.tidy_ite .wait (State.tidy_foldl (h.reach.of_done ‹_›) fun _ _ h1 => h1.settleAll.lcsStep).outsideRead
  · exact .wait
  · exact .fault
  · exact .refused

theorem State.Tidy.outsideAtomic {host : Bool} {asid va n : Nat} {op : AtOp} {sc : Bool} {x cmp : Nat}
    (h : s.Tidy mem tab) : (s.outsideAtomic host asid va n op sc x cmp).Tidy mem tab := by
  unfold State.outsideAtomic
  split
  · have h1 := h.reach.of_done ‹_›
    refine ExtAns.tidy_ite .wait ?_
    split
    · refine ExtAns.tidy_ite (.done h1.outsideHoles) ?_
      extract_lets s2
      have h2 : s2.Tidy mem tab := h1.settleAll
      clear_value s2
      split
      split
      · exact .done (State.tidy_ite h2.lcsStep h2)
      · split
        · exact .done (h2.homeWrite.of_ok ‹_›)
        · exact .refused
    · exact .refused
  · exact .wait
  · exact .fault
  · exact .refused

theorem State.Tidy.keepOutside {vf : Option Nat} {asid va size : Nat} {kind : OutKind} {cause : Option Cause}
    (h : s.Tidy mem tab) : (s.keepOutside vf asid va size kind cause).Tidy mem tab :=
  { h.fresh with }

theorem State.Tidy.dropOutside {id : Nat} (h : s.Tidy mem tab) : (s.dropOutside id).Tidy mem tab :=
  { h with }

theorem State.Tidy.outsideWaits {id : Nat} {c : Option Cause} (h : s.Tidy mem tab) : (s.outsideWaits id c).Tidy mem tab :=
  { h with }

theorem State.Tidy.launchOutside {host : Bool} {asid bh q : Nat} {record : DWord} (h : s.Tidy mem tab) :
    (s.launchOutside host asid bh q record).Tidy mem tab := by
  unfold State.launchOutside
  split
  · exact .refused
  · split
    · exact .refused
    · split
      · exact .refused
      · split
        · exact ExtAns.tidy_ite .refused (.done (h.outsideRead.of_done ‹_›).acceptLaunch)
        · exact .wait
        · exact .fault
        · exact .refused

end Sys2Proof.Machine
end

section
/-! SUPPORT. What Machine/Sync.lean defines keeps a state tidy: barriers, waits, messages, launches, leave and events. -/

namespace Sys2Proof.Machine

variable {mem tab : Prop} {s : State}

theorem State.Tidy.execN {op : Byte} {f : Word0} {body : DWord → Group → State → Res} (h : s.Tidy mem tab)
    (hbody : ∀ d g u, u.Tidy mem tab → (body d g u).Tidy mem tab) : Out.Tidy mem tab (s.execN op f body) :=
  h.execC fun _ _ _ h1 => hbody _ _ _ h1

theorem State.Tidy.execNExt {op : Byte} {f : ExtA} {body : DWord → Group → State → Res} (h : s.Tidy mem tab)
    (hbody : ∀ d g u, u.Tidy mem tab → (body d g u).Tidy mem tab) : Out.Tidy mem tab (s.execNExt op f body) :=
  h.execA fun _ _ h1 => hbody _ _ _ h1

theorem State.Tidy.arriveBar {g : Group} {n : Nat} (h : s.Tidy mem tab) : (s.arriveBar g n).Tidy mem tab :=
  h.settleBarrier.announce.modTeam.modGroup.settleBarrier

theorem State.Tidy.waitBar {g : Group} {n : Nat} {done : State → State} (h : s.Tidy mem tab)
    (hdone : ∀ u, u.Tidy mem tab → (done u).Tidy mem tab) : (s.waitBar g n done).Tidy mem tab := by
  unfold State.waitBar
  dsimp only
  split
  · exact .ok h.settleBarrier
  · exact Res.tidy_ite (.ok (hdone _ h.settleBarrier).modGroup.hear.dropValid) (.stall h.settleBarrier)

theorem tidy_bararBody {v : DWord} {g : Group} (h : s.Tidy mem tab) : (bararBody v g s).Tidy mem tab :=
  Res.tidy_ite (.trap h) (Res.tidy_ite (.trap h) (h.release fun _ h1 => .ok h1.arriveBar))

theorem tidy_barwtBody {v : DWord} {g : Group} (h : s.Tidy mem tab) : (barwtBody v g s).Tidy mem tab :=
  Res.tidy_ite (.trap h) (Res.tidy_ite (.trap h) (h.waitBar fun _ h1 => h1))

theorem tidy_barBody {v : DWord} {g : Group} (h : s.Tidy mem tab) : (barBody v g s).Tidy mem tab := by
  unfold barBody
  split
  · exact h.waitBar fun _ h1 => h1.dropPend
  · exact Res.tidy_ite (.trap h) (Res.tidy_ite (.trap h) (h.release fun _ h1 => h1.fresh.arriveBar.addPend.waitBar
      fun _ h2 => h2.dropPend))

theorem tidy_execBar {f : Word0} (h : s.Tidy mem tab) : Out.Tidy mem tab (execBar f s) :=
  h.execN fun _ _ _ h1 => tidy_barBody h1

theorem tidy_execBarExt {f : ExtA} (h : s.Tidy mem tab) : Out.Tidy mem tab (execBarExt f s) :=
  h.execNExt fun _ _ _ h1 => tidy_barBody h1

theorem tidy_execBarar {f : Word0} (h : s.Tidy mem tab) : Out.Tidy mem tab (execBarar f s) :=
  h.execN fun _ _ _ h1 => tidy_bararBody h1

theorem tidy_execBararExt {f : ExtA} (h : s.Tidy mem tab) : Out.Tidy mem tab (execBararExt f s) :=
  h.execNExt fun _ _ _ h1 => tidy_bararBody h1

theorem tidy_execBarwt {f : Word0} (h : s.Tidy mem tab) : Out.Tidy mem tab (execBarwt f s) :=
  h.execN fun _ _ _ h1 => tidy_barwtBody h1

theorem tidy_execBarwtExt {f : ExtA} (h : s.Tidy mem tab) : Out.Tidy mem tab (execBarwtExt f s) :=
  h.execNExt fun _ _ _ h1 => tidy_barwtBody h1

theorem State.Tidy.waitGang {g : Group} {done : State → State} (h : s.Tidy mem tab)
    (hdone : ∀ u, u.Tidy mem tab → (done u).Tidy mem tab) : (s.waitGang g done).Tidy mem tab := by
  unfold State.waitGang
  dsimp only
  split
  · exact Res.tidy_ite (.ok (hdone _ h.settleGang).modGroup.hear.dropValid) (.stall h.settleGang)
  · exact .ok (hdone _ h.settleGang)

theorem tidy_gangsyncBody {g : Group} (h : s.Tidy mem tab) : (gangsyncBody g s).Tidy mem tab := by
  unfold gangsyncBody
  split
  · exact h.waitGang fun _ h1 => h1.dropPend
  · split
    · exact .trap h
    · refine h.release fun _ h1 => ?_
      dsimp only
      split
      · exact .ok h1.settleGang
      · exact h1.settleGang.announce.fresh.modTeam.modGroup.addPend.waitGang fun _ h2 => h2.dropPend

theorem tidy_execGangsync {f : ExtA} (h : s.Tidy mem tab) : Out.Tidy mem tab (execGangsync f s) :=
  h.execA fun _ _ h1 => tidy_gangsyncBody h1

theorem State.Tidy.watchBody {g : Group} {why : Wait} {cond : WatchCond} {a cmp : DWord} (h : s.Tidy mem tab) :
    (s.watchBody g why cond a cmp).Tidy mem tab := by
  unfold State.watchBody
  split
  · exact Res.tidy_ite (.stall h) (Res.tidy_ite (.stall h.dropPend) (.ok h.land))
  · refine Res.tidy_ite (.stall h) ?_
    split
    · exact .trap (h.resolvePipe.pair ‹_›)
    · next ps s1 heq =>
      have h1 : s1.Tidy mem tab := h.resolvePipe.pair heq
      dsimp only
      refine .stall (State.Tidy.addPend ?_)
      exact State.tidy_foldl_snd h1.fresh fun _ _ h2 => h2.watchPiece

theorem tidy_execCwait {f : ExtA} (h : s.Tidy mem tab) : Out.Tidy mem tab (execCwait f s) :=
  h.execA fun _ _ h1 => h1.watchBody

theorem tidy_execQwait {f : ExtA} (h : s.Tidy mem tab) : Out.Tidy mem tab (execQwait f s) :=
  h.execA fun _ _ h1 => h1.watchBody

theorem tidy_ecwaitBody {e : Nat} {v : DWord} {g : Group} (h : s.Tidy mem tab) : (ecwaitBody e v g s).Tidy mem tab :=
  Res.tidy_ite (.trap h) (Res.tidy_ite (.ok h.dropValid) (.stall h))

theorem tidy_execEcwait {f : Word0} (h : s.Tidy mem tab) : Out.Tidy mem tab (execEcwait f s) :=
  h.execN fun _ _ _ h1 => tidy_ecwaitBody h1

theorem tidy_execEcwaitExt {f : ExtA} (h : s.Tidy mem tab) : Out.Tidy mem tab (execEcwaitExt f s) :=
  h.execNExt fun _ _ _ h1 => tidy_ecwaitBody h1

theorem State.Tidy.kickAll {g : Group} {a : DWord} {n : Nat} (h : s.Tidy mem tab) : (s.kickAll g a n).Tidy mem tab :=
  State.tidy_foldl h fun _ _ h1 => h1.issueRequest

theorem tidy_execKick {f : ExtA} (h : s.Tidy mem tab) : Out.Tidy mem tab (execKick f s) :=
  h.execA fun _ _ h1 => Res.tidy_ite (.trap h1) (Res.tidy_ite (.stall h1) (h1.release fun _ h2 => .ok h2.kickAll))

theorem tidy_execColl {f : ExtA} (h : s.Tidy mem tab) : Out.Tidy mem tab (execColl f s) :=
  h.execA fun _ _ h1 => Res.tidy_ite (.trap h1) (Res.tidy_ite (.stall h1)
    (h1.withLeave fun _ h2 => h2.release fun _ h3 => .ok h3.issueRequest))

theorem State.Tidy.freshToken {id : Nat} (h : s.Tidy mem tab) : (s.freshToken id).2.Tidy mem tab :=
  h.free

theorem State.Tidy.sendMessage {g : Group} {d : Option Nat} {m : DWord × Nat × Nat × List DWord} (h : s.Tidy mem tab) :
    (s.sendMessage g d m).Tidy mem tab := by
  unfold State.sendMessage
  split
  next id s1 heq1 =>
  have h1 : s1.Tidy mem tab := h.fresh.pair heq1
  split
  next tok s2 heq2 =>
  have h2 : s2.Tidy mem tab := (State.tidy_ite_snd h1.freshToken h1).pair heq2
  extract_lets core x s3
  have h3 : s3.Tidy mem tab := h2.withMessages.relay.modCore fun _ hc => { hc with }
  clear_value s3
  split
  · exact h3
  · exact h3.modGroup.addPend

theorem tidy_amsgBody {f : ExtA} {g : Group} (h : s.Tidy mem tab) : (amsgBody f g s).Tidy mem tab := by
  unfold amsgBody
  dsimp only
  split
  · exact .trap h
  · exact .stall h
  · split
    · exact .stall h
    · refine h.withRecord fun _ _ h1 => h1.release fun _ h2 => ?_
      split
      · exact .ok h2.sendMessage
      · exact .ok (State.tidy_ite h2.deferFailure h2.deferFailure.modGroup)

theorem tidy_execAmsg {f : ExtA} (h : s.Tidy mem tab) : Out.Tidy mem tab (execAmsg f s) :=
  h.execA fun _ _ h1 => tidy_amsgBody h1

theorem tidy_execAmreply {f : ExtA} (h : s.Tidy mem tab) : Out.Tidy mem tab (execAmreply f s) := by
  unfold execAmreply
  refine h.execA fun _ _ h1 => h1.release fun _ h2 => ?_
  dsimp only
  split
  · exact .ok h2.sendReply
  · exact .ok h2

theorem tidy_execLaunch {f : ExtA} (h : s.Tidy mem tab) : Out.Tidy mem tab (execLaunch f s) :=
  h.execA fun _ _ h1 => h1.withRecord fun _ _ h2 => h2.release fun _ h3 => .ok h3.engTake.acceptLaunch.modGroup

theorem tidy_execLeave {f : ExtA} (h : s.Tidy mem tab) : Out.Tidy mem tab (execLeave f s) :=
  h.execA fun _ _ h1 => .ok h1.askLeave

theorem tidy_execLeaveQ {f : ExtA} (h : s.Tidy mem tab) : Out.Tidy mem tab (execLeaveQ f s) :=
  h.execA fun _ _ h1 => .ok h1.setGroup

theorem tidy_execEvpost {f : ExtA} (h : s.Tidy mem tab) : Out.Tidy mem tab (execEvpost f s) :=
  h.execA fun _ _ h1 => h1.release fun _ h2 => Res.tidy_ite (.ok h2.lcsTake.postSup.modGroup)
    (.ok h2.lcsTake.postCtx.modGroup)

theorem State.Tidy.takeEvent {asid b : Nat} (h : s.Tidy mem tab) : (s.takeEvent asid b).2.2.Tidy mem tab := by
  unfold State.takeEvent
  dsimp only
  exact h.modInst

theorem tidy_execEvget {f : ExtA} (h : s.Tidy mem tab) : Out.Tidy mem tab (execEvget f s) :=
  h.execA fun _ _ h1 => Res.tidy_ite (Res.tidy_ite (.stall h1) (.ok h1.setGroup))
    (.ok h1.meet.takeEvent.modGroup.consume.dropValid)

theorem tidy_execQsig {f : ExtA} (h : s.Tidy mem tab) : Out.Tidy mem tab (execQsig f s) := by
  refine h.execA fun g u h1 => Res.tidy_ite (.stall h1) ?_
  split
  · exact .trap (h1.resolvePipe.pair ‹_›)
  · refine (h1.resolvePipe.pair ‹_›).release fun v h2 => ?_
    dsimp only
    exact .ok (State.Tidy.begin (State.tidy_foldl_snd h2.fresh fun _ _ h3 => h3.atPiece))

theorem tidy_parkBody {v : DWord} {g : Group} (h : s.Tidy mem tab) : (parkBody v g s).Tidy mem tab := by
  unfold parkBody
  split
  · exact Res.tidy_ite (.ok h.dropPend) (.stall h)
  · exact Res.tidy_ite (.trap h) (Res.tidy_ite (.ok h) (.stall h.fresh.addPend))

theorem tidy_execPark {f : Word0} (h : s.Tidy mem tab) : Out.Tidy mem tab (execPark f s) :=
  h.execN fun _ _ _ h1 => tidy_parkBody h1

theorem tidy_execParkExt {f : ExtA} (h : s.Tidy mem tab) : Out.Tidy mem tab (execParkExt f s) :=
  h.execNExt fun _ _ _ h1 => tidy_parkBody h1

theorem tidy_execParkExpiry {gid : Nat} (h : s.Tidy mem tab) : Out.Tidy mem tab (execParkExpiry gid s) :=
  .next { h with }

theorem tidy_execReplay {f : ExtA} (h : s.Tidy mem tab) : Out.Tidy mem tab (execReplay f s) :=
  h.execA fun _ _ h1 => .ok h1.setGroup

theorem tidy_execDigest {f : ExtA} (h : s.Tidy mem tab) : Out.Tidy mem tab (execDigest f s) :=
  h.execA fun _ _ h1 => tidy_groupBody h1

theorem tidy_execCutq {f : ExtA} (h : s.Tidy mem tab) : Out.Tidy mem tab (execCutq f s) :=
  h.execA fun _ _ h1 => .ok h1.setGroup

end Sys2Proof.Machine
end

section
/-! SUPPORT. What Machine/DevFabric.lean defines keeps a state tidy: the fabric. -/

namespace Sys2Proof.Machine

variable {mem tab : Prop} {s : State}

theorem State.Tidy.toPeer {r : PeerReply} (h : s.Tidy mem tab) : (s.toPeer r).Tidy mem tab :=
  { h with }

theorem State.Tidy.answerPeer {r : FabReq} {dpas : List Nat} {cause : Option Cause} {v : Nat} {poison : Bool}
    (h : s.Tidy mem tab) : (s.answerPeer r dpas cause v poison).Tidy mem tab :=
  h.toPeer

theorem State.Tidy.serveFabric {r : FabReq} {asid : Nat} {keep : Cause → State} {wait : State} (h : s.Tidy mem tab)
    (hkeep : ∀ c, (keep c).Tidy mem tab) (hwait : wait.Tidy mem tab) : (s.serveFabric r asid keep wait).Tidy mem tab := by
  unfold State.serveFabric
  extract_lets dpas s1
  have h1 : s1.Tidy mem tab := State.tidy_foldl h fun _ _ hu => hu.lcsTake
  clear_value s1 dpas
  split
  · have hread : ∀ q : Prop, ∀ _ : Decidable q, (if q then s1.outsideScRead false asid r.offset r.size
        else s1.outsideRead false asid r.offset r.size).Tidy mem tab :=
      fun _ _ => ExtAns.tidy_ite h1.outsideScRead h1.outsideRead
    split
    · exact ((hread _ _).of_done ‹_›).answerPeer
    · exact h1.answerPeer
    · exact hkeep _
    · exact hwait
  · split
    · exact (h1.outsideWrite.of_done ‹_›).answerPeer
    · exact h1.answerPeer
    · exact hkeep _
    · exact hwait
  · split
    · exact (h1.outsideAtomic.of_done ‹_›).answerPeer
    · exact h1.answerPeer
    · exact hkeep _
    · exact hwait

theorem tidy_execFabricRequest {r : FabReq} (h : s.Tidy mem tab) : Out.Tidy mem tab (execFabricRequest r s) := by
  unfold execFabricRequest
  split
  · exact .next h.answerPeer
  · exact .next (State.tidy_ite h (h.serveFabric (fun _ => h.keepOutside) h.keepOutside))

theorem State.Tidy.postedRefused {p : Posted} {c : Cause} (h : s.Tidy mem tab) : (s.postedRefused p c).Tidy mem tab := by
  unfold State.postedRefused
  split
  · exact h.deferFailure
  · split
    · exact h.setRequest.engineDone
    · exact h

theorem State.Tidy.dropPosted {id : Nat} (h : s.Tidy mem tab) : (s.dropPosted id).Tidy mem tab :=
  { h with }

theorem State.Tidy.performPosted {p : Posted} (h : s.Tidy mem tab) : (s.performPosted p).Tidy mem tab := by
  unfold State.performPosted
  split
  · exact h.dropPosted.postedRefused
  · extract_lets core ds
    clear_value ds
    have h1 : ∀ l : List Nat, (l.foldl (fun s d => s.lcsTake d (s.core core).lcc) s).Tidy mem tab :=
      fun _ => State.tidy_foldl h fun _ _ hu => hu.lcsTake
    refine State.tidy_ite h ?_
    split
    · refine State.tidy_foldl ((h1 ds).outsideWrite.of_done ‹_›).dropPosted fun u d hu => ?_
      split
      · exact hu.engMeet
      · exact hu.meet
    · exact ((h1 ds).outsideWrite.of_done ‹_›).dropPosted.postedRefused
    · exact h
    · exact h
    · exact h.dropPosted.postedRefused

theorem tidy_execFabricAck {id : Nat} (h : s.Tidy mem tab) : Out.Tidy mem tab (execFabricAck id s) := by
  unfold execFabricAck
  split
  · exact .next h
  · split
    · exact .next h.performPosted
    · split
      · split
        · split
          · exact .next (h.dropPosted.free.pair ‹_›).engTake
          · exact .next (h.dropPosted.free.pair ‹_›).lccTake
      · exact .next h

theorem State.Tidy.dropFabWait {id : Nat} (h : s.Tidy mem tab) : (s.dropFabWait id).Tidy mem tab :=
  { h with }

theorem State.Tidy.packetDone {w : FabWait} {v : DWord} (h : s.Tidy mem tab) : (s.packetDone w v).Tidy mem tab := by
  unfold State.packetDone
  dsimp only
  split
  · exact h.dropFabWait.setPend
  · exact h.dropFabWait

theorem State.Tidy.failFabric {w : FabWait} {c : Cause} (h : s.Tidy mem tab) : (s.failFabric w c).Tidy mem tab := by
  unfold State.failFabric
  split
  · exact h.packetDone
  · refine State.Tidy.arrive ?_
    split
    · exact h.dropFabWait.deferFailure
    · exact h.dropFabWait

theorem State.Tidy.serveOwnFabric {w : FabWait} (h : s.Tidy mem tab) : (s.serveOwnFabric w).Tidy mem tab := by
  unfold State.serveOwnFabric
  split
  · exact h
  · split
    · exact State.tidy_ite h h.failFabric
    · exact (h.exported.of_place ‹_›).dropFabWait.send

theorem State.Tidy.keepFabric {w : FabWait} {v : Nat} {poison : Option PoisonLevel} (h : s.Tidy mem tab) :
    (s.keepFabric w v poison).Tidy mem tab :=
  State.tidy_ite h (State.tidy_ite (State.tidy_ite h.l1Room h.l1Room.free.ownWords) h.fillWords)

theorem State.Tidy.peerReply {w : FabWait} {poison : Bool} (h : s.Tidy mem tab) : (s.peerReply w poison).Tidy mem tab :=
  State.tidy_ite h.free.free h.free.free.dropFabWait.lccTake.keepFabric.arrive

theorem State.Tidy.fabReply {w : FabWait} {poison : Bool} (h : s.Tidy mem tab) : (s.fabReply w poison).Tidy mem tab :=
  State.tidy_ite h (State.tidy_ite h.serveOwnFabric (State.tidy_ite h.peerReply h))

theorem State.Tidy.fabRefused {id : Nat} {c : Cause} (h : s.Tidy mem tab) : (s.fabRefused id c).Tidy mem tab := by
  unfold State.fabRefused
  split
  · exact State.tidy_ite h.dropPosted.postedRefused h
  · exact State.tidy_ite h.failFabric h
  · exact h

theorem State.Tidy.loseLink {p : Nat → Bool} {loads : FabWait → Bool} (h : s.Tidy mem tab) :
    (s.loseLink p loads).Tidy mem tab :=
  State.tidy_foldl { h with } fun _ _ h1 => h1.failFabric

theorem tidy_execRetrainBudgetExpiry {device : Nat} (h : s.Tidy mem tab) :
    Out.Tidy mem tab (execRetrainBudgetExpiry device s) :=
  Out.tidy_ite (.next h) (Out.tidy_ite (.next (State.Tidy.loseLink { h with }))
    (.next (State.tidy_foldl { h with } fun _ _ h1 => h1.failFabric)))

theorem State.Tidy.setPort {port : Nat} {st : PortState} (h : s.Tidy mem tab) : (s.setPort port st).Tidy mem tab :=
  { h with }

theorem State.Tidy.downPort {port : Nat} (h : s.Tidy mem tab) : (s.downPort port).Tidy mem tab :=
  h.setPort.loseLink

theorem State.Tidy.trainPort {port : Nat} (h : s.Tidy mem tab) : (s.trainPort port).Tidy mem tab :=
  State.tidy_ite h.setPort h

theorem State.Tidy.assignPeer {device port : Nat} (h : s.Tidy mem tab) : (s.assignPeer device port).Tidy mem tab :=
  State.tidy_ite { h with } h

theorem tidy_execPortRetraining {port : Nat} (h : s.Tidy mem tab) : Out.Tidy mem tab (execPortRetraining port s) :=
  .next (State.tidy_ite h.setPort h)

theorem tidy_execPortUp {port : Nat} (h : s.Tidy mem tab) : Out.Tidy mem tab (execPortUp port s) :=
  .next h.setPort

theorem tidy_execPortDown {port : Nat} (h : s.Tidy mem tab) : Out.Tidy mem tab (execPortDown port s) :=
  .next (State.tidy_ite h h.downPort)

theorem tidy_execForcedn {ports : BitVec 16} (h : s.Tidy mem tab) : Out.Tidy mem tab (execForcedn ports s) :=
  .next (State.tidy_foldl h fun _ _ h1 => h1.downPort)

theorem State.Tidy.refill {n : Nat} (h : s.Tidy mem tab) : (s.refill n).Tidy mem tab :=
  State.tidy_ite h { h with }

theorem tidy_execTokenRefill {n : Nat} (h : s.Tidy mem tab) : Out.Tidy mem tab (execTokenRefill n s) :=
  .next h.refill

theorem State.Tidy.takeToken {n bh : Nat} (h : s.Tidy mem tab) : (s.takeToken n bh).Tidy mem tab :=
  { h.refill with }

theorem State.Tidy.launchPacket {device : Nat} {ds : List Nat} (h : s.Tidy mem tab) :
    (s.launchPacket device ds).Tidy mem tab := by
  unfold State.launchPacket
  dsimp only
  split
  · exact .done h
  · split
    · exact .done h
    · split
      · exact .done h
      · split
        · exact .done h
        · split
          · exact .done h
          · split
            · exact .done (h.launchOutside.of_done ‹_›).takeToken
            · exact .done h
            · exact h.launchOutside

theorem State.Tidy.packetReply {device : Nat} {ds : List Nat} {r : Except Cause Nat} (h : s.Tidy mem tab) :
    (s.packetReply device ds r).Tidy mem tab :=
  h.toPeer

theorem State.Tidy.takePacket {device : Nat} {ds : List Nat} {keep : Cause → State} {wait : State} (hs : s.Tidy mem tab)
    (hkeep : ∀ c, (keep c).Tidy mem tab) (hwait : wait.Tidy mem tab) : (s.takePacket device ds keep wait).Tidy mem tab := by
  unfold State.takePacket
  split
  · exact (hs.launchPacket.of_done ‹_›).packetReply
  · exact hs.packetReply
  · exact hkeep _
  · exact hwait

theorem tidy_execFabricLaunchPacket {device : Nat} {packet : List Byte} (h : s.Tidy mem tab) :
    Out.Tidy mem tab (execFabricLaunchPacket device packet s) :=
  Out.tidy_ite (.next h) (.next (h.takePacket (fun _ => h.keepOutside) h.keepOutside))

theorem tidy_execFabricLaunchReply {g : Nat} {cause : BitVec 7} {number : BitVec 48} (h : s.Tidy mem tab) :
    Out.Tidy mem tab (execFabricLaunchReply g cause number s) := by
  unfold execFabricLaunchReply
  split
  · exact .next h
  · exact Out.tidy_ite (.next h) (.next h.packetDone)

theorem State.Tidy.sendPacket {g : Group} {d : Byte} {device : Nat} {ds : List Nat} (h : s.Tidy mem tab) :
    (s.sendPacket g d device ds).Tidy mem tab := by
  unfold State.sendPacket
  split
  · split
    · exact .ok (h.launchPacket.of_done ‹_›).modGroup
    · exact .stall h
    · exact .stall h
    · exact .ok h.modGroup
  · exact .stall h.fresh.addPend.askFabric

theorem tidy_launchFabBody {f : ExtA} {g : Group} (h : s.Tidy mem tab) : (launchFabBody f g s).Tidy mem tab := by
  unfold launchFabBody
  split
  · exact Res.tidy_ite (.ok h.dropPend.modGroup) (.stall h)
  · exact h.withRecord fun _ _ h1 => h1.release fun _ h2 => Res.tidy_ite (.trap h2) h2.sendPacket

theorem tidy_execLaunchFab {f : ExtA} (h : s.Tidy mem tab) : Out.Tidy mem tab (execLaunchFab f s) :=
  h.execA fun _ _ h1 => tidy_launchFabBody h1

end Sys2Proof.Machine
end

section
/-! SUPPORT. What Machine/DevEngine.lean defines keeps a state tidy: the copy and collective engines. -/

namespace Sys2Proof.Machine

variable {mem tab : Prop} {s : State}

theorem tidy_execCopyRequest {id : Nat} (h : s.Tidy mem tab) : Out.Tidy mem tab (execCopyRequest id s) := by
  unfold execCopyRequest
  split
  · exact .next h
  · split
    · split
      · exact .next h
      · split
        · exact .next (h.engineLoad.of_wait ‹_›)
        · exact .next (h.engineLoad.of_fail ‹_›).requestFails
        · split
          · exact .next (h.engineLoad.of_done ‹_›).engineDone
          · dsimp only
            split
            · exact .next (State.tidy_ite (h.engineLoad.of_done ‹_›).setRequest.engineDone
                (h.engineLoad.of_done ‹_›).setRequest)
            · exact .next (h.engineLoad.of_done ‹_›).setRequest.engineDone
    · exact .next h

theorem State.Tidy.poisonPosted {device off n : Nat} (h : s.Tidy mem tab) : (s.poisonPosted device off n).Tidy mem tab := by
  unfold State.poisonPosted
  split
  · exact { h with }
  · exact h

theorem State.Tidy.poisonPosts {at_ n off device : Nat} {poison : Nat → Nat → Option PoisonLevel} (h : s.Tidy mem tab) :
    (s.poisonPosts at_ n off device poison).Tidy mem tab :=
  State.tidy_foldl h fun _ _ h1 => State.tidy_ite h1.poisonPosted h1

theorem State.Tidy.spreadPoison {bh asid : Nat} {ps : Pieces} {at_ : Nat → Nat → Option PoisonLevel}
    (h : s.Tidy mem tab) : (s.spreadPoison bh asid ps at_).Tidy mem tab := by
  unfold State.spreadPoison
  refine State.tidy_foldl h fun _ _ h1 => ?_
  split
  · refine State.tidy_foldl h1 fun _ _ h2 => ?_
    dsimp only
    split
    · exact h2.setPoison
    · exact h2
  · refine State.tidy_foldl h1 fun _ _ h2 => ?_
    dsimp only
    split
    · exact h2.modCore fun _ h3 => { h3 with }
    · exact h2
  · exact h1.poisonPosts
  · exact State.tidy_foldl h1 fun _ _ h2 => h2.poisonPosts

theorem State.Tidy.engineCopy {r : EngReq} {acc : Acc} {src dst : DWord} {n : Nat} (h : s.Tidy mem tab) :
    (s.engineCopy r acc src dst n).Tidy mem tab := by
  unfold State.engineCopy
  dsimp only
  split
  · exact .wait (h.enginePieces.of_wait ‹_›)
  · exact .fail (h.enginePieces.of_fail ‹_›)
  · split
    · exact .wait ((h.enginePieces.of_done ‹_›).engineLoad.of_wait ‹_›)
    · exact .fail ((h.enginePieces.of_done ‹_›).engineLoad.of_fail ‹_›)
    · split
      · split
        · split
          · exact .done ((((h.enginePieces.of_done ‹_›).engineLoad.of_done ‹_›).engineStore.of_done
              ‹_›).enginePieces.of_done ‹_›).spreadPoison
          · exact .done (((h.enginePieces.of_done ‹_›).engineLoad.of_done ‹_›).engineStore.of_done ‹_›)
        · exact .done (((h.enginePieces.of_done ‹_›).engineLoad.of_done ‹_›).engineStore.of_done ‹_›)
      · exact ((h.enginePieces.of_done ‹_›).engineLoad.of_done ‹_›).engineStore

theorem State.Tidy.copyEnd {id : Nat} (h : s.Tidy mem tab) : (s.copyEnd id).Tidy mem tab := by
  unfold State.copyEnd
  split
  · split
    · exact State.tidy_ite h.engineDone h
    · exact h
  · exact h

theorem State.Tidy.pieceDone {r : EngReq} {addr : DWord} {x : CopyRec} {row pos written n : Nat} {owe : Bool}
    (h : s.Tidy mem tab) : (s.pieceDone r addr x row pos written n owe).Tidy mem tab :=
  h.setRequest.copyEnd

theorem State.Tidy.payPiece {r : EngReq} {cntdn : DWord} {w : Nat × Nat} (h : s.Tidy mem tab) :
    (s.payPiece r cntdn w).Tidy mem tab := by
  unfold State.payPiece
  split
  · exact h.setRequest.copyEnd
  · split
    · exact h
    · exact (h.engineAdd.of_done ‹_›).setRequest.copyEnd
    · exact State.tidy_ite (h.engineAdd.of_fail ‹_›).setRequest.copyEnd
        (State.tidy_ite h.requestFails (h.engineAdd.of_fail ‹_›).setRequest.engineDone)

theorem State.Tidy.copyStep {r : EngReq} {addr : DWord} {x : CopyRec} {row pos written : Nat} (h : s.Tidy mem tab) :
    (s.copyStep r addr x row pos written).Tidy mem tab := by
  unfold State.copyStep
  extract_lets dst src n base c r1
  have hr : r1.Tidy mem tab := EngAns.tidy_ite h.engineStore h.engineCopy
  clear_value r1
  split
  · exact h.waited
  · exact (hr.of_fail rfl).requestFails
  · have h1 := hr.of_done rfl
    refine State.tidy_ite h1.pieceDone (State.tidy_ite h1.pieceDone ?_)
    split
    · exact h
    · exact (h1.engineAdd.of_done ‹_›).pieceDone
    · exact (State.tidy_ite h (h1.engineAdd.of_fail ‹_›)).requestFails

theorem State.Tidy.mirrorStep {r : EngReq} {va : DWord} {offset units : Nat} {toSpad : Bool} {pos : Nat}
    (h : s.Tidy mem tab) : (s.mirrorStep r va offset units toSpad pos).Tidy mem tab := by
  unfold State.mirrorStep
  split
  · exact h.engineDone
  · extract_lets part off pad q a next
    have hnext : ∀ u, u.Tidy mem tab → (next u).Tidy mem tab := fun _ hu =>
      State.tidy_ite hu.setRequest.engineDone hu.setRequest
    clear_value next
    split
    · split
      · next ps _ v p s1 _ heq =>
        extract_lets s2
        have h1 : s1.Tidy mem tab := h.engineLoad.of_done heq
        have h2 : s2.Tidy mem tab := State.tidy_foldl h1 fun u x hu => by
          split
          · exact hu.spadStore
          · exact hu
        clear_value s2
        exact hnext _ (State.tidy_ite h2.spreadPoison h2)
      · exact (h.enginePieces.of_fail ‹_›).requestFails
      · exact (h.engineLoad.of_fail ‹_›).requestFails
      · exact h.waited
      · exact h
    · split
      · exact h
      · exact (h.engineStore.of_fail ‹_›).requestFails
      · next s1 heq =>
        have h1 : s1.Tidy mem tab := h.engineStore.of_done heq
        split
        · exact hnext _ (h1.enginePieces.of_done ‹_›).spreadPoison
        · exact hnext _ h1

theorem tidy_execCopyPiece {id : Nat} (h : s.Tidy mem tab) : Out.Tidy mem tab (execCopyPiece id s) := by
  unfold execCopyPiece
  split
  · exact .next h
  · split
    · exact .next h
    · split
      · split
        · exact .next h.payPiece
        · exact .next (State.tidy_ite h h.copyStep)
      · exact .next (State.tidy_ite h h.mirrorStep)
      · exact .next h

theorem State.Tidy.collEntries {r : EngReq} {table : DWord} {parts : Nat} (h : s.Tidy mem tab) :
    (s.collEntries r table parts).Tidy mem tab := by
  unfold State.collEntries
  split
  · exact .wait (h.engineLoad.of_wait ‹_›)
  · exact .fail (h.engineLoad.of_fail ‹_›)
  · exact EngAns.tidy_ite (.fail (h.engineLoad.of_done ‹_›)) (.done (h.engineLoad.of_done ‹_›))

theorem State.Tidy.collTable {r : EngReq} {x : CollRec} (h : s.Tidy mem tab) : (s.collTable r x).Tidy mem tab := by
  unfold State.collTable
  split
  · exact .wait (h.collEntries.of_wait ‹_›)
  · exact .fail (h.collEntries.of_fail ‹_›)
  · exact .done (h.collEntries.of_done ‹_›)

theorem State.Tidy.collKeep {id rank v : Nat} (h : s.Tidy mem tab) : (s.collKeep id rank v).Tidy mem tab := by
  unfold State.collKeep
  split
  · split
    · exact h.setRequest
    · exact h
  · exact h

theorem State.Tidy.collFail {r : EngReq} {tag : Word} {others : List (Nat × Nat)} (h : s.Tidy mem tab) :
    (s.collFail r tag others).Tidy mem tab := by
  unfold State.collFail
  refine State.tidy_foldl h.engineDone fun _ _ h1 => ?_
  split
  · exact h1.setRequest.engineDone
  · exact h1.modBh

theorem State.Tidy.collRefuse {r : EngReq} {x : CollRec} (h : s.Tidy mem tab) : (s.collRefuse r x).Tidy mem tab :=
  h.collFail

theorem State.Tidy.collBegin {r : EngReq} {addr : DWord} (h : s.Tidy mem tab) : (s.collBegin r addr).Tidy mem tab := by
  unfold State.collBegin
  split
  · exact h.engineLoad.of_wait ‹_›
  · exact (h.engineLoad.of_fail ‹_›).requestFails
  · split
    · exact (h.engineLoad.of_done ‹_›).setRequest.engineDone
    · dsimp only
      split
      · exact (h.engineLoad.of_done ‹_›).modBh.setRequest.engineDone
      · split
        · exact (h.engineLoad.of_done ‹_›).setRequest.collRefuse
        · split
          · exact (h.engineLoad.of_done ‹_›).collTable.of_wait ‹_›
          · exact State.tidy_ite ((h.engineLoad.of_done ‹_›).collTable.of_fail ‹_›).requestFails
              ((h.engineLoad.of_done ‹_›).collTable.of_fail ‹_›).setRequest.engineDone
          · exact ((h.engineLoad.of_done ‹_›).collTable.of_done ‹_›).setRequest.collRefuse
          · exact State.tidy_ite ((h.engineLoad.of_done ‹_›).collTable.of_done ‹_›).setRequest.collRefuse
              (State.tidy_ite ((h.engineLoad.of_done ‹_›).collTable.of_done ‹_›).setRequest.engineDone
              ((h.engineLoad.of_done ‹_›).collTable.of_done ‹_›).setRequest)

theorem State.Tidy.collSource {r : EngReq} {x : CollRec} {rank : Nat} (h : s.Tidy mem tab) :
    (s.collSource r x rank).Tidy mem tab := by
  unfold State.collSource
  split
  · exact h.engineLoad.of_wait ‹_›
  · exact (h.engineLoad.of_fail ‹_›).requestFails
  · exact State.tidy_ite (h.engineLoad.of_done ‹_›).engineDone (h.engineLoad.of_done ‹_›).collKeep

theorem State.Tidy.collShare {x : CollRec} {d : Table Nat} (h : s.Tidy mem tab) : (s.collShare x d).Tidy mem tab :=
  { h with }

theorem State.Tidy.collFinish {r : EngReq} {x : CollRec} {d : Table Nat} (h : s.Tidy mem tab) :
    (s.collFinish r x d).Tidy mem tab := by
  unfold State.collFinish
  split
  · dsimp only
    split
    · exact h
    · exact (h.engineStore.of_fail ‹_›).requestFails
    · exact (h.engineStore.of_done ‹_›).collShare.engineDone
  · dsimp only
    split
    · exact h
    · exact (h.engineStore.of_fail ‹_›).requestFails
    · split
      · exact h
      · exact ((h.engineStore.of_done ‹_›).engineStore.of_fail ‹_›).requestFails
      · exact ((h.engineStore.of_done ‹_›).engineStore.of_done ‹_›).collShare.engineDone

theorem State.Tidy.collMismatch {r p : EngReq} {x y : CollRec} {es fs : List (Nat × Nat)} (h : s.Tidy mem tab) :
    (s.collMismatch r p x y es fs).Tidy mem tab :=
  h.collFail.engineDone

theorem State.Tidy.collTake {r : EngReq} {x : CollRec} {rank : Nat} {data : List DWord} (h : s.Tidy mem tab) :
    (s.collTake r x rank data).Tidy mem tab := by
  unfold State.collTake
  refine State.tidy_ite h.collSource ?_
  split
  · exact h.collTable.of_wait ‹_›
  · exact (h.collTable.of_fail ‹_›).requestFails
  · exact (h.collTable.of_done ‹_›).collRefuse
  · have h1 := h.collTable.of_done ‹_›
    split
    · exact h1
    · refine State.tidy_ite ?_ (State.tidy_ite h1 (State.tidy_ite h1.collRefuse h1.collKeep))
      split
      · exact h1
      · split
        · exact h1
        · split
          · refine State.tidy_ite h1.collMismatch ?_
            split
            · exact State.tidy_ite (h1.engineLoad.of_done ‹_›).engineDone (h1.engineLoad.of_done ‹_›).collKeep
            · exact h1
          · exact h1

theorem tidy_execCollectiveStep {id rank : Nat} {data : List DWord} (h : s.Tidy mem tab) :
    Out.Tidy mem tab (execCollectiveStep id rank data s) := by
  unfold execCollectiveStep
  split
  · exact .next h
  · split
    · exact .next h
    · split
      · exact .next h.collBegin
      · exact Out.tidy_ite (.next h.collFinish) (Out.tidy_ite (.next h) (.next h.collTake))
      · exact .next h

theorem tidy_execCollCancel {id : Nat} (h : s.Tidy mem tab) : Out.Tidy mem tab (execCollCancel id s) := by
  unfold execCollCancel
  split
  · split
    · exact .next (State.tidy_ite h h.setRequest.engineDone)
    · exact .next h
  · exact .next h

theorem State.Tidy.failCollOf {mine : EngReq → Bool} {device bh : Nat} {c : Cause} (h : s.Tidy mem tab) :
    (s.failCollOf mine device bh c).Tidy mem tab :=
  State.tidy_foldl h fun _ _ h1 => h1.setRequest.engineDone

theorem State.Tidy.failCollPeers {mine : EngReq → Bool} {bh : Nat} {c : Cause} (h : s.Tidy mem tab) :
    (s.failCollPeers mine bh c).Tidy mem tab :=
  h.failCollOf

theorem State.Tidy.peerFailed {device bh : Nat} {c : Cause} (h : s.Tidy mem tab) :
    (s.peerFailed device bh c).Tidy mem tab :=
  State.tidy_ite h h.failCollOf

theorem State.Tidy.retireRequest {r : EngReq} (h : s.Tidy mem tab) : (s.retireRequest r).Tidy mem tab := by
  unfold State.retireRequest
  extract_lets failure c n s0 s' s1 s2 s3 quiet s4
  have h0 : s0.Tidy mem tab := by
    unfold s0
    cases r.gid with
    | none => exact h
    | some gid => exact h.lccTake
  have h' : s'.Tidy mem tab := h0.engTake.lcsTake
  clear_value s' s0
  have h1 : s1.Tidy mem tab := State.Tidy.dropRequest { h' with }
  clear_value s1
  have h2 : s2.Tidy mem tab := { h1 with }
  clear_value s2
  have h3 : s3.Tidy mem tab := by
    unfold s3
    split
    · exact h2.modGroup
    · exact h2
  clear_value s3
  have h4 : s4.Tidy mem tab := by
    unfold s4
    split
    · exact State.tidy_ite h3 h3.deferFailure
    · exact h3
  clear_value s4
  split
  · exact State.tidy_ite h4.signal.postCtx h4.signal
  · exact h4

theorem tidy_execEngineRetirement {id : Nat} (h : s.Tidy mem tab) : Out.Tidy mem tab (execEngineRetirement id s) := by
  unfold execEngineRetirement
  split
  · exact .next h
  · split
    · exact .next (State.tidy_ite h h.trySignal)
    · exact .next (State.tidy_ite h.retireRequest h)

end Sys2Proof.Machine
end

section
/-! SUPPORT. What Machine/DevHost.lean defines keeps a state tidy: the host port. -/

namespace Sys2Proof.Machine

variable {mem tab : Prop} {s : State}

theorem State.Tidy.toHost {vf : Nat} {bs : List Byte} (h : s.Tidy mem tab) : (s.toHost vf bs).Tidy mem tab :=
  { h with }

theorem tidy_execHostRead {vf offset bytes : Nat} (h : s.Tidy mem tab) :
    Out.Tidy mem tab (execHostRead vf offset bytes s) := by
  unfold execHostRead
  split
  · exact .next h
  · split
    · exact .next h.postSup.toHost
    · split
      · exact .next h.keepOutside
      · split
        · exact .next (h.outsideRead.of_done ‹_›).toHost
        · exact .next h.keepOutside
        · exact .next h.keepOutside
        · exact .next h.toHost

theorem tidy_execHostWrite {vf offset : Nat} {data : List Byte} (h : s.Tidy mem tab) :
    Out.Tidy mem tab (execHostWrite vf offset data s) := by
  unfold execHostWrite
  split
  · exact .next h
  · split
    · exact .next h.postSup
    · split
      · exact .next h.keepOutside
      · split
        · exact .next (h.outsideWrite.of_done ‹_›)
        · exact .next h.keepOutside
        · exact .next h.keepOutside
        · exact .next h

theorem State.Tidy.ring {vf q index : Nat} (h : s.Tidy mem tab) : (s.ring vf q index).Tidy mem tab :=
  { h with }

theorem tidy_execDoorbell {vf q index : Nat} (h : s.Tidy mem tab) : Out.Tidy mem tab (execDoorbell vf q index s) :=
  .next (State.tidy_ite h (State.tidy_ite h.keepOutside h.ring))

theorem State.Tidy.tellHost {vf : Nat} {c : Cause} (h : s.Tidy mem tab) : (s.tellHost vf c).Tidy mem tab :=
  { h with }

theorem tidy_execHostLaunch {vf q : Nat} {record : DWord} {bh : Nat} (h : s.Tidy mem tab) :
    Out.Tidy mem tab (execHostLaunch vf q record bh s) := by
  unfold execHostLaunch
  extract_lets taken kept s0 shape rate asid
  have h0 : s0.Tidy mem tab := { h with }
  clear_value s0
  refine Out.tidy_ite (.next h) (Out.tidy_ite (.next h0.tellHost) ?_)
  split
  · exact .next (h0.launchOutside.of_done ‹_›)
  · exact .next (h0.launchOutside.of_done ‹_›).tellHost
  · exact .next h
  · exact .next h0.keepOutside
  · exact .next h0.tellHost

theorem State.Tidy.mapAperture {vf offset bytes asid : Nat} {va : DWord} (h : s.Tidy mem tab) :
    (s.mapAperture vf offset bytes asid va).Tidy mem tab :=
  State.tidy_ite h { h with }

theorem State.Tidy.unmapAperture {vf offset : Nat} (h : s.Tidy mem tab) : (s.unmapAperture vf offset).Tidy mem tab :=
  { h with }

theorem State.Tidy.setMsix {function vector : Nat} {m : Msix} (h : s.Tidy mem tab) :
    (s.setMsix function vector m).Tidy mem tab :=
  { h with }

theorem State.Tidy.msixSend {function vector : Nat} (h : s.Tidy mem tab) : (s.msixSend function vector).Tidy mem tab :=
  State.tidy_ite h (State.tidy_ite h.setMsix { h with })

theorem State.Tidy.msixWrite {function vector : Nat} {addr : DWord} {data : Word} {masked : Bool} (h : s.Tidy mem tab) :
    (s.msixWrite function vector addr data masked).Tidy mem tab :=
  State.tidy_ite h (State.tidy_ite h.setMsix.msixSend h.setMsix)

theorem State.Tidy.answerUnsupported {function : Nat} {ats : Bool} (h : s.Tidy mem tab) :
    (s.answerUnsupported function ats).Tidy mem tab :=
  State.tidy_ite { h with } h

theorem tidy_execZeroLengthReadCompletion {g : Nat} (h : s.Tidy mem tab) :
    Out.Tidy mem tab (execZeroLengthReadCompletion g s) :=
  .next (State.Tidy.modGroup { h with })

end Sys2Proof.Machine
end

section
/-! SUPPORT. What Machine/DevPower.lean defines keeps a state tidy: the power governor. -/

namespace Sys2Proof.Machine

variable {mem tab : Prop} {s : State}

theorem State.Tidy.give {bh key cls : Nat} (h : s.Tidy mem tab) : (s.give bh key cls).Tidy mem tab := by
  unfold State.give
  split
  · dsimp only
    split
    · exact h.setBinding
    · exact h
  · exact h.modTeam

theorem tidy_execLeaveGrant {bh : Nat} (h : s.Tidy mem tab) : Out.Tidy mem tab (execLeaveGrant bh s) := by
  unfold execLeaveGrant
  dsimp only
  split
  · exact .next h
  · exact Out.tidy_ite (.next h.give.modBh) (.next h)

theorem tidy_execGovernorThrottle {bh : Nat} {draw : BitVec 16} (h : s.Tidy mem tab) :
    Out.Tidy mem tab (execGovernorThrottle bh draw s) :=
  Out.tidy_ite (.next h.modBh) (.next h.modBh.modBh.postSup.molt)

theorem tidy_execGovernorRecover {bh : Nat} (h : s.Tidy mem tab) : Out.Tidy mem tab (execGovernorRecover bh s) :=
  .next h.free.modBh

theorem tidy_execBhPwrWrite {bh : Nat} {v : DWord} (h : s.Tidy mem tab) : Out.Tidy mem tab (execBhPwrWrite bh v s) :=
  .next h.modBh

end Sys2Proof.Machine
end

section
/-! SUPPORT. What Machine/Tender.lean defines keeps a state tidy: tendered tasks and active messages. -/

namespace Sys2Proof.Machine

variable {mem tab : Prop} {s : State}

theorem tidy_execBidld {f : ExtA} (h : s.Tidy mem tab) : Out.Tidy mem tab (execBidld f s) := by
  refine h.execA fun g u h1 => Res.tidy_ite (.trap h1) (h1.withRecord fun ds u2 h2 => ?_)
  split
  · exact .trap h2
  · exact .ok h2.modBh

theorem State.Tidy.broadcast {bh : Nat} {t : Tender} (h : s.Tidy mem tab) : (s.broadcast bh t).Tidy mem tab := by
  unfold State.broadcast
  extract_lets b q word
  have hword : ∀ u i, u.Tidy mem tab → (word u i).2.Tidy mem tab := fun u i hu => by
    unfold word
    split
    · exact hu.engineLoad.of_done ‹_›
    · exact hu.engineLoad.of_wait ‹_›
    · exact hu.engineLoad.of_fail ‹_›
  clear_value word
  exact State.Tidy.modTender (hword _ _ (hword _ _ (hword _ _ h)))

theorem tidy_execTenderBroadcast {bh : Nat} (h : s.Tidy mem tab) : Out.Tidy mem tab (execTenderBroadcast bh s) := by
  unfold execTenderBroadcast
  dsimp only
  split
  · exact .next h
  · split
    · exact .next h.broadcast
    · exact .next h

theorem State.Tidy.unplace {bh : Nat} {t : Tender} {c : Cause} (h : s.Tidy mem tab) : (s.unplace bh t c).Tidy mem tab :=
  h.modTender.deferTo

theorem tidy_execBidWindowEnd {bh : Nat} (h : s.Tidy mem tab) : Out.Tidy mem tab (execBidWindowEnd bh s) := by
  unfold execBidWindowEnd
  split
  · split
    · exact .next h
    · split
      · exact .next h.modTender
      · exact .next h.unplace
  · exact .next h

theorem tidy_execAwardAccept {bh : Nat} (h : s.Tidy mem tab) : Out.Tidy mem tab (execAwardAccept bh s) := by
  unfold execAwardAccept
  split
  · exact .next h
  · exact Out.tidy_ite (.next h) (.next (State.Tidy.modTender (State.Tidy.dropValid (h.modCore fun _ h1 => { h1 with }))))

theorem State.Tidy.countWithdrawal {core lim : Nat} (h : s.Tidy mem tab) : (s.countWithdrawal core lim).Tidy mem tab :=
  State.tidy_ite (State.Tidy.suspect (State.Tidy.postSup (h.modCore fun _ h1 => { h1 with })))
    (h.modCore fun _ h1 => { h1 with })

theorem tidy_execBidWithdrawal {bh : Nat} (h : s.Tidy mem tab) : Out.Tidy mem tab (execBidWithdrawal bh s) := by
  unfold execBidWithdrawal
  split
  · exact .next h
  · exact Out.tidy_ite (.next h) (.next h.countWithdrawal.modTender.broadcast)

theorem tidy_execChorusFault {bh : Nat} (h : s.Tidy mem tab) : Out.Tidy mem tab (execChorusFault bh s) :=
  .next (State.tidy_foldl h.postSup fun _ _ h1 => h1.unplace)

theorem tidy_tenderBody {f : ExtA} {g : Group} (h : s.Tidy mem tab) : (tenderBody f g s).Tidy mem tab :=
  Res.tidy_ite (.stall h) (h.withRecord fun _ _ h1 => h1.release fun _ h2 => .ok h2.modBh.modGroup)

theorem tidy_execTender {f : ExtA} (h : s.Tidy mem tab) : Out.Tidy mem tab (execTender f s) :=
  h.execA fun _ _ h1 => tidy_tenderBody h1

theorem tidy_execTquery {f : ExtA} (h : s.Tidy mem tab) : Out.Tidy mem tab (execTquery f s) :=
  h.execA fun _ _ h1 => Res.tidy_ite (.trap h1) (.ok h1.setGroup)

theorem tidy_execTaskStart {core : Nat} (h : s.Tidy mem tab) : Out.Tidy mem tab (execTaskStart core s) := by
  unfold execTaskStart
  split
  · exact .next h
  · extract_lets gr
    split
    · exact .next h
    · dsimp only
      exact .next (State.Tidy.modTender (State.Tidy.startTeam
        (State.Tidy.modCore h.fresh.fresh.withGrids fun _ h1 => { h1 with })))

theorem State.Tidy.refuseMessage {id : Nat} {m : ActiveMsg} {c : Cause} (h : s.Tidy mem tab) :
    (s.refuseMessage id m c).Tidy mem tab := by
  unfold State.refuseMessage
  split
  · exact State.tidy_ite (State.Tidy.deferTo { h with }) (State.Tidy.modGroup
      (State.Tidy.dropPend (State.Tidy.deferTo { h with })))
  · exact State.Tidy.deferTo { h with }

theorem State.Tidy.startHandler {core id : Nat} {m : ActiveMsg} {f : Fit} (h : s.Tidy mem tab) :
    (s.startHandler core id m f).Tidy mem tab :=
  h.fresh.startTeam.dropValid

theorem State.Tidy.dispatchOne {core id : Nat} (h : s.Tidy mem tab) : OptTidy mem tab (s.dispatchOne core id) := by
  unfold State.dispatchOne
  extract_lets taken
  have htaken : (taken s).Tidy mem tab := h.modCore fun _ h1 => { h1 with }
  clear_value taken
  split
  · exact .some htaken
  · split
    · exact .some htaken.refuseMessage
    · split
      · exact .none
      · cases s.fitOn core _ _ with
        | none => exact .none
        | some f => exact .some htaken.startHandler

theorem tidy_execAmDispatch {core : Nat} (h : s.Tidy mem tab) : Out.Tidy mem tab (execAmDispatch core s) := by
  unfold execAmDispatch
  cases hd : ((s.core core).inbox.take 64).findSome? fun id => s.dispatchOne core id with
  | none => exact .next h
  | some u =>
    obtain ⟨id, -, hid⟩ := List.exists_of_findSome?_eq_some hd
    exact .next (h.dispatchOne.of_some hid)

theorem tidy_execAmReplyLanding {id : Nat} (h : s.Tidy mem tab) : Out.Tidy mem tab (execAmReplyLanding id s) := by
  unfold execAmReplyLanding
  refine h.onMsg fun _ => ?_
  split
  · exact h.dropMsg.lccTake
  · exact h.dropMsg.lccTake.setPend.land.modGroup

end Sys2Proof.Machine
end

section
/-! SUPPORT. What Machine/Image.lean defines keeps a state tidy: context images. -/

namespace Sys2Proof.Machine

variable {mem tab : Prop} {s : State}

theorem Saved.tidy_teamImage {x : Saved} {stage rate tid : Nat} {t : Team} {m : Memory} {o : Nat} (h : s.Tidy mem tab) :
    (Saved.teamImage x stage rate tid t m o s).2.2.Tidy mem tab :=
  { h with }

/-- An image is built beside the state: only the reads of the home memory move it. -/
theorem State.Tidy.imageOf {asid bh : Nat} {xs : List Saved} (h : s.Tidy mem tab) :
    (s.imageOf asid bh xs).2.2.Tidy mem tab := by
  unfold State.imageOf
  extract_lets dir r
  have hr : r.2.2.2.Tidy mem tab := by
    refine List.foldlRecOn (motive := fun r : List (Nat × Nat) × Memory × Nat × State => r.2.2.2.Tidy mem tab) xs _ h ?_
    exact fun r hr x _ => State.tidy_foldl_thd hr fun _ _ hu => Saved.tidy_teamImage hu
  clear_value r
  dsimp only
  exact hr

theorem State.Tidy.writeImage {frames : List Nat} {xs : List Saved} {m : Memory} {len : Nat} (h : s.Tidy mem tab) :
    (s.writeImage frames xs m len).Tidy mem tab :=
  (State.tidy_foldl (State.tidy_foldl h fun _ _ h1 => h1.devWrite) fun _ _ h1 => h1.setPoison).devWrite

theorem State.Tidy.removeGang {x : Saved} (h : s.Tidy mem tab) : (s.removeGang x).Tidy mem tab := by
  unfold State.removeGang
  extract_lets gone ids watching s1
  have h1 : s1.Tidy mem tab := State.tidy_foldl h fun _ _ hu => hu.releaseLeave.releaseClaims
  exact { h1 with groups := h1.groups.filter, teams := h1.teams.filter }

theorem State.Tidy.exchangePage {asid gid a b : Nat} (h : s.Tidy mem tab) : (s.exchangePage asid gid a b).2.Tidy mem tab := by
  unfold State.exchangePage
  dsimp only
  split
  · exact h.devWrite.devWrite.startShoot.startShoot
  · exact h

theorem State.Tidy.exchange {asid old new : Nat} (h : s.Tidy mem tab) : (s.exchange asid old new).2.Tidy mem tab :=
  State.tidy_ite_snd h (State.tidy_foldl_snd h fun _ _ h1 => h1.exchangePage)

/-- The scratchpads of a saved team come back byte by byte over what the cores' scratchpads held. -/
theorem State.Tidy.loadSpad {t : Team} {m : Memory} {p : Table PoisonLevel} (h : s.Tidy mem tab) :
    (s.loadSpad t m p).Tidy mem tab := by
  refine State.tidy_foldl (State.tidy_foldl h fun _ _ h1 => h1.setSpad ?_) fun _ _ h1 => h1.modCore fun _ h2 =>
    { h2 with }
  exact h1.spad.filter.foldl fun _ _ hm => hm.put

theorem State.Tidy.returnTeam {x : Saved} {fits : List Fit} {gang tid : Nat} {t : Team} {f : Fit} (h : s.Tidy mem tab) :
    (s.returnTeam x fits gang tid t f).Tidy mem tab := by
  unfold State.returnTeam
  extract_lets moves
  split
  next new s1 heq =>
  extract_lets s2 s3 s4 s5
  have h1 : s1.Tidy mem tab := h.fresh.pair heq
  have h2 : s2.Tidy mem tab := { h1 with teams := h1.teams.set }
  have h3 : s3.Tidy mem tab := h2.openCores
  have h4 : s4.Tidy mem tab := State.tidy_foldl h3 fun u e hu => by
    split
    · exact hu
    · exact hu.seatGroup
  have h5 : s5.Tidy mem tab := State.tidy_foldl h4 fun u e hu => by
    split
    · exact hu.modUnit
    · exact hu
  clear_value s5
  split
  · exact State.tidy_ite h5 h5.loadSpad
  · exact h5

theorem State.Tidy.movePrivate {asid : Nat} {moves : List (Nat × Nat)} (h : s.Tidy mem tab) :
    (s.movePrivate asid moves).Tidy mem tab :=
  State.tidy_foldl_snd h fun _ _ h1 => State.tidy_ite h1.exchange h1.exchange.plexWait

theorem State.Tidy.returnGang {x : Saved} {fits : List Fit} (h : s.Tidy mem tab) : (s.returnGang x fits).Tidy mem tab :=
  State.Tidy.movePrivate (State.tidy_foldl { State.tidy_foldl h.fresh fun _ _ h1 => h1.returnTeam with } fun _ _ h1 =>
    h1.dropValid)

theorem tidy_execGangPlacement {bh asid q : Nat} (h : s.Tidy mem tab) : Out.Tidy mem tab (execGangPlacement bh asid q s) := by
  unfold execGangPlacement
  split
  · exact Out.tidy_ite (.next h.startGang) (.next h)
  · exact .next h

end Sys2Proof.Machine
end

section
/-! SUPPORT. What Machine/Preempt.lean defines keeps a state tidy: swaps, drains, evictions and restores. -/

namespace Sys2Proof.Machine

variable {mem tab : Prop} {s : State}

theorem State.Tidy.abortPeers {gang gid : Nat} (h : s.Tidy mem tab) : (s.abortPeers gang gid).Tidy mem tab :=
  State.tidy_foldl h fun _ _ h1 => State.tidy_ite h1.stopGroup h1.modGroup

theorem State.Tidy.failWork {t : Team} {c : Cause} (h : s.Tidy mem tab) : (s.failWork t c).Tidy mem tab := by
  unfold State.failWork
  split
  · exact h.failGrid
  · exact h.failGrid
  · split
    · exact h.refuseMessage
    · exact h
  · exact h

theorem State.Tidy.fatal {gid : Nat} {c : Cause} (h : s.Tidy mem tab) : (s.fatal gid c).Tidy mem tab := by
  unfold State.fatal
  split
  · exact h
  · split
    · exact h.stopGroup
    · exact h.stopGroup.abortPeers.failWork

theorem State.Tidy.swapFailed {gang : Nat} (h : s.Tidy mem tab) : (s.swapFailed gang).Tidy mem tab := by
  unfold State.swapFailed
  dsimp only
  split
  · exact State.Tidy.fatal (State.tidy_foldl { h with groups := h.groups.map fun _ => rfl, teams := h.teams.map fun _ =>
      rfl } fun _ _ h1 => State.tidy_foldl h1 fun _ _ h2 => h2.modCore fun _ h3 => { h3 with })
  · exact State.tidy_foldl { h with groups := h.groups.map fun _ => rfl, teams := h.teams.map fun _ => rfl } fun _ _ h1 =>
      State.tidy_foldl h1 fun _ _ h2 => h2.modCore fun _ h3 => { h3 with }

theorem tidy_execGangSwapOut {gang : Nat} (h : s.Tidy mem tab) : Out.Tidy mem tab (execGangSwapOut gang s) := by
  unfold execGangSwapOut
  split
  · exact .next h
  · next t _ =>
    extract_lets s0 x
    have h0 : s0.Tidy mem tab := State.tidy_foldl h fun _ _ hu => hu.flushCore
    clear_value s0
    refine Out.tidy_ite (.next h) ?_
    split
    next m len s1 heq =>
    have h1 : s1.Tidy mem tab := h0.imageOf.triple heq
    refine Out.tidy_ite (.next h) ?_
    split
    next fs s2 heq =>
    have h2 : s2.Tidy mem tab := h1.engineFrames.pair heq
    exact Out.tidy_ite (.next h2.writeImage.freeEngineFrames.swapFailed) (.next h2.writeImage.removeGang.withSaved)

theorem tidy_execGangSwapIn {gang : Nat} (h : s.Tidy mem tab) : Out.Tidy mem tab (execGangSwapIn gang s) := by
  unfold execGangSwapIn
  split
  · exact .next h
  · split
    · exact .next h
    · split
      · exact .next h
      · exact .next (State.Tidy.returnGang { h.freeEngineFrames with })

theorem State.Tidy.preWrite {bh : Nat} {w0 w1 w2 : DWord} (h : s.Tidy mem tab) : (s.preWrite bh w0 w1 w2).Tidy mem tab :=
  h.modBh

theorem State.Tidy.preStart {bh : Nat} {w0 w2 : DWord} (h : s.Tidy mem tab) : (s.preStart bh w0 w2).Tidy mem tab :=
  h.modBh

theorem State.Tidy.preCommand {bh : Nat} {w0 w1 w2 : DWord} {grade : Nat} {go : Nat → State → State} (h : s.Tidy mem tab)
    (hgo : ∀ x u, u.Tidy mem tab → (go x u).Tidy mem tab) : (s.preCommand bh w0 w1 w2 grade go).Tidy mem tab :=
  State.tidy_ite h.preWrite (State.tidy_ite h.preWrite.endCommand (State.tidy_ite h (hgo _ _ h.preWrite.preStart)))

theorem State.Tidy.cancelTenders {asid bh : Nat} (h : s.Tidy mem tab) : (s.cancelTenders asid bh).Tidy mem tab :=
  State.tidy_foldl h fun _ _ h1 => h1.unplace

theorem tidy_execPreDrain {bh : Nat} {w0 w1 w2 : DWord} (h : s.Tidy mem tab) :
    Out.Tidy mem tab (execPreDrain bh w0 w1 w2 s) :=
  .next (h.preCommand fun _ _ h1 => h1.modInst.cancelTenders.modBh.drainCheck)

theorem tidy_execPreCut {bh : Nat} {w0 w1 w2 : DWord} (h : s.Tidy mem tab) : Out.Tidy mem tab (execPreCut bh w0 w1 w2 s) :=
  .next (h.preCommand fun _ _ h1 => State.tidy_ite h1.endCommand h1.modInst.modBh)

theorem tidy_execCutDone {bh : Nat} (h : s.Tidy mem tab) : Out.Tidy mem tab (execCutDone bh s) :=
  Out.tidy_ite (.next h.modInst.endCommand) (.next h)

theorem State.Tidy.resumeCut {asid bh : Nat} (h : s.Tidy mem tab) : (s.resumeCut asid bh).Tidy mem tab :=
  { h with groups := h.groups.map fun _ => rfl }

theorem tidy_execCutTimeout {bh : Nat} (h : s.Tidy mem tab) : Out.Tidy mem tab (execCutTimeout bh s) :=
  Out.tidy_ite (.next h.resumeCut.endCommand) (.next h)

theorem tidy_execPreReleaseCut {bh : Nat} {w0 w1 w2 : DWord} (h : s.Tidy mem tab) :
    Out.Tidy mem tab (execPreReleaseCut bh w0 w1 w2 s) :=
  .next (h.preCommand fun _ _ h1 => h1.resumeCut.endCommand)

theorem tidy_execPreEvict {bh : Nat} {w0 w1 w2 : DWord} (h : s.Tidy mem tab) :
    Out.Tidy mem tab (execPreEvict bh w0 w1 w2 s) :=
  .next (h.preCommand fun _ _ h1 => (State.tidy_foldl h1 fun _ _ h2 => h2.flushCore).modBh)

theorem tidy_execCtxEvictTimeout {bh : Nat} (h : s.Tidy mem tab) : Out.Tidy mem tab (execCtxEvictTimeout bh s) :=
  Out.tidy_ite (.next h.endCommand) (.next h)

theorem Core.tidy_leave {c : Core} {asid : Nat} (hc : c.Tidy mem) : (Core.leave c asid).Tidy mem :=
  { hc with }

theorem State.Tidy.vacate {asid : Nat} {cores : List Nat} (h : s.Tidy mem tab) : (s.vacate asid cores).Tidy mem tab :=
  State.tidy_foldl h fun _ _ h1 => State.tidy_ite h1 (h1.modCore fun _ h2 => Core.tidy_leave h2)

theorem tidy_execEvictionDrainDone {bh : Nat} (h : s.Tidy mem tab) : Out.Tidy mem tab (execEvictionDrainDone bh s) := by
  unfold execEvictionDrainDone
  extract_lets b asid xs cores
  refine Out.tidy_ite (.next h) (Out.tidy_ite (.next h.modBh) ?_)
  split
  next m len s1 heq =>
  have h1 : s1.Tidy mem tab := h.imageOf.triple heq
  exact .next (State.tidy_foldl h1.writeImage fun _ _ hu => hu.removeGang).withImages.vacate.endCommand

theorem State.Tidy.imageHoles {imgf asid : Nat} (h : s.Tidy mem tab) : (s.imageHoles imgf asid).Tidy mem tab :=
  State.tidy_foldl h fun _ _ h1 => h1.holeCheck

theorem State.Tidy.placeSaved {bh : Nat} {allow : Nat → Bool} {l : List Saved} (h : s.Tidy mem tab) :
    OptTidy mem tab (s.placeSaved bh allow l) := by
  induction l generalizing s with
  | nil => exact .some h
  | cons x t ih =>
    unfold State.placeSaved
    dsimp only
    split
    · exact .none
    · exact ih h.returnGang

theorem State.Tidy.restored {bh : Nat} (h : s.Tidy mem tab) : OptTidy mem tab (s.restored bh) :=
  h.placeSaved

theorem State.Tidy.tryRestore {bh : Nat} (h : s.Tidy mem tab) : (s.tryRestore bh).Tidy mem tab := by
  unfold State.tryRestore
  split
  · exact h
  · split
    · dsimp only
      split
      · exact h.imageHoles.endCommand
      · exact (h.restored.of_some ‹_›).endCommand
    · dsimp only
      split
      · exact h.imageHoles.endCommand
      · exact h

theorem tidy_execPreRestore {bh : Nat} {w0 w1 w2 : DWord} (h : s.Tidy mem tab) :
    Out.Tidy mem tab (execPreRestore bh w0 w1 w2 s) :=
  .next (h.preCommand fun _ _ h1 => h1.modInst.tryRestore)

theorem State.Tidy.failRequests {asid bh : Nat} (h : s.Tidy mem tab) : (s.failRequests asid bh).Tidy mem tab :=
  { h with }

theorem State.Tidy.dropGroups {asid bh : Nat} (h : s.Tidy mem tab) : (s.dropGroups asid bh).Tidy mem tab := by
  unfold State.dropGroups
  extract_lets mine ts marked s1 s2
  have h1 : s1.Tidy mem tab := State.tidy_foldl h fun _ _ hu => hu.releaseLeave.releaseClaims
  have h2 : s2.Tidy mem tab := { h1 with groups := h1.groups.filter, teams := h1.teams.filter }
  exact State.tidy_foldl h2 fun _ _ hu => hu.syncMirror

theorem State.Tidy.dropHoldings {asid bh : Nat} (h : s.Tidy mem tab) : (s.dropHoldings asid bh).Tidy mem tab :=
  State.tidy_foldl (State.tidy_foldl (State.tidy_foldl (State.tidy_foldl h fun _ _ h1 => h1.endBinding) fun _ _ h1 =>
    (State.tidy_ite h1.leaveReadOnly h1).dropObj) fun _ _ h1 => h1.setLine) fun _ _ h1 => h1.syncPins

theorem State.Tidy.failGrids {asid bh : Nat} {c : Cause} (h : s.Tidy mem tab) : (s.failGrids asid bh c).Tidy mem tab := by
  unfold State.failGrids
  exact (State.tidy_foldl h fun _ _ h1 => h1.failGrid.modGrid).modInst.freeEngineFrames.modBh

theorem State.Tidy.dropTasks {asid bh : Nat} {c : Cause} (h : s.Tidy mem tab) : (s.dropTasks asid bh c).Tidy mem tab := by
  unfold State.dropTasks
  extract_lets tasks s1 gone
  have h1 : s1.Tidy mem tab := State.tidy_foldl h fun _ _ hu => State.tidy_ite hu.postCtx.modTender hu.postCtx.signalFor
  exact { h1 with cores := h1.cores.map fun _ hc => Core.tidy_ite { hc with } hc }

theorem State.Tidy.endTenders {asid bh : Nat} (h : s.Tidy mem tab) : (s.endTenders asid bh).Tidy mem tab :=
  h.modBh

theorem State.Tidy.destroyContext {asid bh : Nat} {c : Cause} (h : s.Tidy mem tab) :
    (s.destroyContext asid bh c).Tidy mem tab :=
  h.cancelTenders.endTenders.failCollPeers.failRequests.dropTasks.dropGroups.dropHoldings.failGrids.vacate

theorem tidy_execPreForcedReset {bh : Nat} {w0 w1 w2 : DWord} (h : s.Tidy mem tab) :
    Out.Tidy mem tab (execPreForcedReset bh w0 w1 w2 s) :=
  .next (h.preCommand fun _ _ h1 => h1.destroyContext.endCommand)

theorem tidy_execDrainDeadline {bh : Nat} (h : s.Tidy mem tab) : Out.Tidy mem tab (execDrainDeadline bh s) :=
  Out.tidy_ite (.next h.destroyContext.endCommand) (.next h)

end Sys2Proof.Machine
end

section
/-! SUPPORT. What Machine/DevReset.lean defines keeps a state tidy: resets of a bulkhead. -/

namespace Sys2Proof.Machine

variable {mem tab : Prop} {s : State}

theorem State.Tidy.beginReset {b : Nat} {cause : BitVec 4} (h : s.Tidy mem tab) : (s.beginReset b cause).Tidy mem tab :=
  State.tidy_ite h { h with }

theorem tidy_execBulkheadReset {bh : Nat} {cause : BitVec 4} (h : s.Tidy mem tab) :
    Out.Tidy mem tab (execBulkheadReset bh cause s) :=
  .next (State.tidy_ite h.beginReset h)

theorem tidy_execRailFault {bh : Nat} (h : s.Tidy mem tab) : Out.Tidy mem tab (execRailFault bh s) :=
  .next h.beginReset

theorem tidy_execPllLockLoss {bh : Nat} (h : s.Tidy mem tab) : Out.Tidy mem tab (execPllLockLoss bh s) :=
  .next h.beginReset

theorem tidy_execSliceGateFault {bh : Nat} (h : s.Tidy mem tab) : Out.Tidy mem tab (execSliceGateFault bh s) :=
  .next h.beginReset

theorem tidy_execWatchdogExpiry {bh : Nat} (h : s.Tidy mem tab) : Out.Tidy mem tab (execWatchdogExpiry bh s) :=
  .next (State.tidy_ite h.beginReset h)

theorem tidy_execVfBhreset {n : Nat} {v : DWord} (h : s.Tidy mem tab) : Out.Tidy mem tab (execVfBhreset n v s) :=
  Out.tidy_ite (.next h) (.next { State.tidy_foldl h fun _ _ h1 => h1.beginReset with })

theorem State.Tidy.answerPeers {b : Nat} (h : s.Tidy mem tab) : (s.answerPeers b).Tidy mem tab := by
  unfold State.answerPeers
  refine State.tidy_foldl ((State.tidy_foldl h fun _ _ h1 => ?_).modBh) fun _ _ h1 => State.tidy_ite h1 h1.refuseMsg
  split
  · exact h1
  · exact State.tidy_ite h1.settleAll.perform h1.refuseMsg

theorem State.Tidy.loseValues {l : Nat} (h : s.Tidy mem tab) : (s.loseValues l).Tidy mem tab := by
  unfold State.loseValues
  refine State.tidy_foldl h fun _ _ h1 => ?_
  split
  · exact h1
  · exact State.tidy_ite (State.Tidy.dropL1 { h1.free with }) h1.free

theorem State.Tidy.settleLines {b : Nat} (h : s.Tidy mem tab) : (s.settleLines b).Tidy mem tab := by
  refine State.tidy_foldl h fun u l hu => ?_
  extract_lets s1
  have h1 : s1.Tidy mem tab := (State.tidy_ite hu.loseValues hu).settleLine
  clear_value s1
  exact State.tidy_ite (State.tidy_ite h1.free.setLine.withPoison h1.free.writeBackLine) h1.writeBackLine

theorem State.Tidy.settlePhase {b : Nat} (h : s.Tidy mem tab) : (s.settlePhase b).Tidy mem tab :=
  State.Tidy.settleLines { h.answerPeers with }

theorem tidy_execResetSettle {bh : Nat} (h : s.Tidy mem tab) : Out.Tidy mem tab (execResetSettle bh s) :=
  .next (State.tidy_ite h.settlePhase.modBh h)

theorem State.Tidy.orphanWords {b : Nat} (h : s.Tidy mem tab) : (s.orphanWords b).Tidy mem tab :=
  { h with }

theorem Core.tidy_logicReset {c : Core} : (Core.logicReset c).Tidy mem :=
  { Core.tidy_reset with }

theorem State.Tidy.reportLoss {b : Nat} (h : s.Tidy mem tab) : (s.reportLoss b).Tidy mem tab :=
  State.tidy_foldl (State.tidy_foldl (State.tidy_foldl h fun _ _ h1 => h1.failRequests.failGrids) fun _ _ h1 =>
    h1.retireRequest) fun _ _ h1 => h1.reportEnd

theorem State.Tidy.destroyGroups {b : Nat} (h : s.Tidy mem tab) : (s.destroyGroups b).Tidy mem tab :=
  { h with groups := h.groups.filter, teams := h.teams.filter }

theorem State.Tidy.logicReset {b : Nat} (h : s.Tidy mem tab) : (s.logicReset b).Tidy mem tab := by
  unfold State.logicReset
  extract_lets own s1 s2 pinned marked s3 s4 s5
  have h1 : s1.Tidy mem tab := State.tidy_foldl h fun u m hu => by
    split
    · exact hu.settleAll.perform
    · exact hu
  have h2 : s2.Tidy mem tab := h1.failCollPeers.reportLoss.settlePhase.orphanWords
  have h3 : s3.Tidy mem tab := h2.destroyGroups
  clear_value s3
  have h4 : s4.Tidy mem tab := { h3 with cores := h3.cores.map fun _ hc => Core.tidy_ite Core.tidy_logicReset hc }
  clear_value s4
  have h5 : s5.Tidy mem tab := State.tidy_foldl (State.tidy_foldl h4 fun _ _ hu => hu.syncPins) fun _ _ hu =>
    hu.syncMirror
  exact h5.settleLines

theorem tidy_execLogicReset {bh : Nat} (h : s.Tidy mem tab) : Out.Tidy mem tab (execLogicReset bh s) :=
  .next (State.tidy_ite h.logicReset h)

theorem tidy_execPllRelock {bh : Nat} (h : s.Tidy mem tab) : Out.Tidy mem tab (execPllRelock bh s) :=
  .next h.modBh

theorem tidy_execMemoryReinit {bh : Nat} (h : s.Tidy mem tab) : Out.Tidy mem tab (execMemoryReinit bh s) :=
  .next h.modBh

theorem State.Tidy.beginSelfTest {b : Nat} (h : s.Tidy mem tab) : (s.beginSelfTest b).Tidy mem tab :=
  h.modBh

theorem State.Tidy.vfResetDone {b : Nat} (h : s.Tidy mem tab) : (s.vfResetDone b).Tidy mem tab :=
  { h with }

theorem tidy_execSelfTest {bh : Nat} {failed : BitVec 24} {us : BitVec 32} (h : s.Tidy mem tab) :
    Out.Tidy mem tab (execSelfTest bh failed us s) :=
  Out.tidy_ite (.next h) (.next (State.tidy_foldl h fun _ _ h1 =>
    h1.quarantine).modBh.vfResetDone.molt.postSupRecord.copyMolt)

end Sys2Proof.Machine
end

section
/-! SUPPORT. What Machine/MatrixUnit.lean defines keeps a state tidy: the matrix unit. -/

namespace Sys2Proof.Machine

variable {mem tab : Prop} {s : State}

theorem State.Tidy.dropOp {core part id : Nat} (h : s.Tidy mem tab) : (s.dropOp core part id).Tidy mem tab :=
  h.modUnit

theorem State.Tidy.failOp {core part : Nat} {o : MatOp} {c : Cause} (h : s.Tidy mem tab) :
    (s.failOp core part o c).Tidy mem tab :=
  { h with }

theorem tidy_execMatrixOpStart {core part : Nat} (h : s.Tidy mem tab) : Out.Tidy mem tab (execMatrixOpStart core part s) := by
  unfold execMatrixOpStart
  dsimp only
  split
  · exact .next h
  · split
    · exact .next h
    · exact Out.tidy_ite (.next h.failOp) (.next h.modUnit)

theorem State.Tidy.readStream {q : Asker} {st : Stream} {row0 kbase depth : Nat} (h : s.Tidy mem tab) :
    (s.readStream q st row0 kbase depth).2.Tidy mem tab := by
  unfold State.readStream
  split
  · split
    · exact (State.tidy_foldl_snd h fun _ _ h1 => h1.rowCodes).pair ‹_›
    · dsimp only
      exact State.tidy_foldl_snd ((State.tidy_foldl_snd h fun _ _ h1 => h1.rowCodes).pair ‹_›) fun _ _ h1 => h1.rowCodes

theorem State.Tidy.readWeights {q : Asker} {sh : Shape} {lut kbase nbase : Nat} (h : s.Tidy mem tab) :
    (s.readWeights q sh lut kbase nbase).2.Tidy mem tab :=
  State.tidy_ite_snd (State.tidy_foldl_snd h fun _ _ h1 => h1.rowCodes) (State.tidy_foldl_snd h fun _ _ h1 => h1.rowCodes)

theorem State.Tidy.readScales {q : Asker} {sh : Option Shape} {kbase nbase depth : Nat} (h : s.Tidy mem tab) :
    (s.readScales q sh kbase nbase depth).2.Tidy mem tab := by
  unfold State.readScales
  split
  · exact h
  · exact State.tidy_foldl_snd h fun _ _ h1 => h1.rowCodes

theorem State.Tidy.matOut {core part : Nat} {o : MatOp} {t : Team} {r : EngReq} (h : s.Tidy mem tab) :
    (s.matOut core part o t r).2.Tidy mem tab := by
  unfold State.matOut
  extract_lets q tile
  refine State.tidy_ite_snd h ?_
  split
  · exact h.readWeights.readScales
  · split
    · exact h
    · refine State.tidy_ite_snd h ?_
      split
      next i s1 heq =>
      have h1 : s1.Tidy mem tab := h.readStream.pair heq
      split
      · exact h1
      · split
        exact h1
  · exact h
  · exact h
  · exact h
  · exact h
  · exact h
  · exact h

theorem State.Tidy.advance {core part tid : Nat} {k : MatKind} (h : s.Tidy mem tab) :
    (s.advance core part tid k).Tidy mem tab :=
  State.tidy_foldl h fun _ _ h1 => h1.modTeam

theorem State.Tidy.landRead {id : Nat} {vals : List (Lanes Word)} (h : s.Tidy mem tab) :
    (s.landRead id vals).Tidy mem tab :=
  State.tidy_foldl h fun _ _ h1 => h1.land

theorem State.Tidy.applyOut {core part tid : Nat} {o : MatOp} {out : MatOut} (h : s.Tidy mem tab) :
    (s.applyOut core part tid o out).Tidy mem tab := by
  unfold State.applyOut
  split
  · exact h.modUnit.advance.dropOp.engineDone
  · exact h.setTile.modGroup.advance.dropOp.engineDone
  · exact h.landRead.modGroup.advance.dropOp.engineDone
  · exact State.Tidy.engineDone (State.Tidy.dropOp (State.Tidy.advance { h with }))
  · exact h.consume.advance.dropOp.engineDone
  · exact h
  · split
    · exact State.tidy_ite h.setRequest.requestWaits h.setRequest.advance.dropOp.engineDone
    · exact State.tidy_ite h.requestWaits h.advance.dropOp.engineDone

theorem tidy_execMatrixOpComplete {core part : Nat} (h : s.Tidy mem tab) :
    Out.Tidy mem tab (execMatrixOpComplete core part s) := by
  unfold execMatrixOpComplete
  split
  · exact .next h
  · split
    · split
      · exact .next h
      · split
        · exact .next h.applyOut
        · exact .next h.matOut.applyOut
    · exact .next h.dropOp

theorem tidy_execSlotPairFree {core part pair : Nat} (h : s.Tidy mem tab) :
    Out.Tidy mem tab (execSlotPairFree core part pair s) := by
  unfold execSlotPairFree
  dsimp only
  split
  · exact .next h.freePair
  · split
    · exact .next h.freePair.modUnit
    · exact .next h.freePair

end Sys2Proof.Machine
end

section
/-! SUPPORT. What Machine/Outside.lean defines keeps a state tidy: the accesses kept for the plex. -/

namespace Sys2Proof.Machine

variable {mem tab : Prop} {s : State}

theorem State.Tidy.runOutside {id : Nat} (h : s.Tidy mem tab) : (s.runOutside id).Tidy mem tab := by
  unfold State.runOutside
  split
  · exact h
  · split
    · dsimp only
      split
      · exact (h.dropOutside.outsideRead.of_done ‹_›).toHost
      · exact h
      · exact h.outsideWaits
      · exact h.dropOutside.toHost
    · dsimp only
      split
      · exact h.dropOutside.outsideWrite.of_done ‹_›
      · exact h
      · exact h.outsideWaits
      · exact h.dropOutside
    · dsimp only
      split
      · exact h.dropOutside.launchOutside.of_done ‹_›
      · exact (h.dropOutside.launchOutside.of_done ‹_›).tellHost
      · exact h
      · exact h.outsideWaits
      · exact h.dropOutside.tellHost
    · exact h.dropOutside.ring
    · exact h.dropOutside.serveFabric (fun _ => h.outsideWaits) h
    · exact h.dropOutside.takePacket (fun _ => h.outsideWaits) h

theorem State.Tidy.refuseOutside {r : OutReq} {c : Cause} (h : s.Tidy mem tab) : (s.refuseOutside r c).Tidy mem tab := by
  unfold State.refuseOutside
  split
  · exact h.dropOutside.toHost
  · exact h.dropOutside.tellHost
  · exact h.dropOutside.answerPeer
  · exact h.dropOutside.packetReply
  · exact h.dropOutside
  · exact h.dropOutside.ring

theorem State.Tidy.refuseOwn {id : Nat} {c : Cause} (h : s.Tidy mem tab) : (s.refuseOwn id c).Tidy mem tab := by
  unfold State.refuseOwn
  split
  · exact h.dropPosted.postedRefused
  · exact h.failFabric
  · exact h

end Sys2Proof.Machine
end

section
/-! SUPPORT. What Machine/Reliab.lean defines keeps a state tidy: faults, replay, quarantine and migration. -/

namespace Sys2Proof.Machine

variable {mem tab : Prop} {s : State}

theorem tidy_execFatalFault {g : Nat} {cause : BitVec 7} (h : s.Tidy mem tab) :
    Out.Tidy mem tab (execFatalFault g cause s) := by
  unfold execFatalFault
  split
  · exact Out.tidy_ite (.next h.fatal) (.next h)
  · exact .next h

theorem State.Tidy.writeTables {ts : List (Nat × DWord)} (h : s.Tidy mem tab) : (s.writeTables ts).Tidy mem tab :=
  State.tidy_foldl h fun _ _ h1 => h1.devWrite

theorem State.Tidy.refuseRequest {r : EngReq} {c : Cause} (h : s.Tidy mem tab) : (s.refuseRequest r c).Tidy mem tab := by
  unfold State.refuseRequest
  split
  · exact h.signalLost
  · exact h.setRequest
  · exact h.setRequest.engineDone

theorem tidy_execPlexResume {who : Waiter} {tables : List (Nat × DWord)} {resume : Bool} (h : s.Tidy mem tab) :
    Out.Tidy mem tab (execPlexResume who tables resume s) := by
  unfold execPlexResume
  split
  · split
    · exact .next h
    · exact Out.tidy_ite (.next h.writeTables.setGroup) (.next h.fatal)
  · split
    · exact .next h
    · exact Out.tidy_ite (.next h.writeTables.setRequest) (.next h.refuseRequest)
  · split
    · split
      · exact .next h
      · exact .next (State.tidy_ite h.writeTables h.refuseOwn)
    · exact Out.tidy_ite (.next h.writeTables.outsideWaits) (.next h.refuseOutside)
  · split
    · exact .next h
    · exact Out.tidy_ite (.next h) (Out.tidy_ite (.next h.writeTables.setBinding) (.next h.setBinding))

theorem tidy_execDeferredMemoryTrap {g : Nat} (h : s.Tidy mem tab) : Out.Tidy mem tab (execDeferredMemoryTrap g s) := by
  unfold execDeferredMemoryTrap
  split
  · exact Out.tidy_ite (.next h) (.next h.takeDeferred)
  · exact .next h

theorem tidy_execTimerExpired {g : Nat} (h : s.Tidy mem tab) : Out.Tidy mem tab (execTimerExpired g s) := by
  unfold execTimerExpired
  split
  · exact Out.tidy_ite (.next h) (.next h.takeTimer)
  · exact .next h

theorem State.Tidy.setJob {j : RveJob} (h : s.Tidy mem tab) : (s.setJob j).Tidy mem tab :=
  h.modJobs

theorem State.Tidy.dropJob {j : RveJob} (h : s.Tidy mem tab) : (s.dropJob j).Tidy mem tab :=
  h.freeEngineFrames.modBh

theorem State.Tidy.startRun {u : State} {j : RveJob} {run : RunKind} {used l : List Nat} (h : s.Tidy mem tab)
    (he : s.startRun j run used = some (l, u)) : u.Tidy mem tab := by
  unfold State.startRun at he
  split at he
  · cases he
  · dsimp only at he
    split at he
    · cases he
      exact h.fresh.startTeam
    · cases he

theorem tidy_execReplayRun {id : Nat} (h : s.Tidy mem tab) : Out.Tidy mem tab (execReplayRun id s) := by
  unfold execReplayRun
  split
  · exact .next h
  · refine Out.tidy_ite (.next h) ?_
    split
    · exact .next (h.startRun ‹_›).setJob
    · exact .next h

theorem tidy_execDigestCompare {id : Nat} (h : s.Tidy mem tab) : Out.Tidy mem tab (execDigestCompare id s) := by
  unfold execDigestCompare
  split
  · exact .next h
  · refine Out.tidy_ite (.next h) (Out.tidy_ite (.next h.dropJob) ?_)
    split
    · exact .next (h.startRun ‹_›).setJob
    · exact .next h

theorem State.Tidy.commitLog {j : RveJob} {sup : Bool} {i : Nat} (h : s.Tidy mem tab) :
    (s.commitLog j sup i).2.Tidy mem tab := by
  unfold State.commitLog
  refine State.tidy_foldl_snd h fun _ _ h1 => ?_
  split
  · exact h1.engineStore.of_done ‹_›
  · exact h1.engineStore.of_wait ‹_›
  · exact h1.engineStore.of_fail ‹_›

theorem State.Tidy.postReplay {j : RveJob} {gr : Grid} {c : Cause} {i : Nat} (h : s.Tidy mem tab) :
    (s.postReplay j gr c i).Tidy mem tab :=
  h.postCtx

theorem State.Tidy.judge {j : RveJob} {gr : Grid} {i : Nat} (h : s.Tidy mem tab) : (s.judge j gr i).Tidy mem tab := by
  unfold State.judge
  split
  · exact State.tidy_ite h.suspect.postReplay (State.tidy_ite h.suspect.commitLog.postReplay
      (State.tidy_foldl h fun _ _ h1 => h1.suspect).failGrid.postReplay)
  · exact State.tidy_ite h.suspect.postReplay (State.tidy_ite h.suspect.commitLog.postReplay
      (State.tidy_ite (State.tidy_foldl h fun _ _ h1 => h1.suspect).failGrid.postCtx
      (State.tidy_foldl h fun _ _ h1 => h1.suspect).failGrid))

theorem tidy_execArbiterDecision {id : Nat} (h : s.Tidy mem tab) : Out.Tidy mem tab (execArbiterDecision id s) := by
  unfold execArbiterDecision
  split
  · exact .next h
  · split
    · exact .next h.dropJob
    · exact Out.tidy_ite (.next h) (.next (State.tidy_foldl h fun _ _ h1 => h1.judge).dropJob)

theorem tidy_execSuspicionDecay {core : Nat} (h : s.Tidy mem tab) : Out.Tidy mem tab (execSuspicionDecay core s) :=
  Out.tidy_ite (.next (h.modCore fun _ h1 => { h1 with })) (.next h)

theorem State.Tidy.modGang {gang : Nat} {f : Team → Team} (h : s.Tidy mem tab) : (s.modGang gang f).Tidy mem tab :=
  { h with teams := h.teams.map fun _ => rfl }

theorem tidy_execQuarantineMigration {gang : Nat} (h : s.Tidy mem tab) :
    Out.Tidy mem tab (execQuarantineMigration gang s) := by
  unfold execQuarantineMigration
  split
  · exact .next h
  · next t _ =>
    extract_lets s0 x
    have h0 : s0.Tidy mem tab := State.tidy_foldl h fun _ _ hu => hu.flushCore
    clear_value s0
    refine Out.tidy_ite (.next h0) ?_
    split
    next m len s1 heq =>
    have h1 : s1.Tidy mem tab := h0.imageOf.triple heq
    refine Out.tidy_ite (.next h) ?_
    split
    next fs s2 heq =>
    have h2 : s2.Tidy mem tab := h1.engineFrames.pair heq
    split
    · exact .next h.modGang
    · exact Out.tidy_ite (.next h2.writeImage.freeEngineFrames.swapFailed)
        (.next h2.writeImage.removeGang.freeEngineFrames.returnGang)

theorem tidy_execMigrateFail {gang : Nat} (h : s.Tidy mem tab) : Out.Tidy mem tab (execMigrateFail gang s) := by
  unfold execMigrateFail
  split
  · exact .next h
  · split
    · exact .next h
    · exact Out.tidy_ite (.next h) (.next h.modGang.postSup)

theorem State.Tidy.packCore {core : Nat} (h : s.Tidy mem tab) : (s.packCore core).Tidy mem tab :=
  List.foldlRecOn (motive := fun r : State × Nat => r.1.Tidy mem tab) _ _ h fun _ hr _ _ => hr.modGroup

theorem tidy_execCompaction {core : Nat} (h : s.Tidy mem tab) : Out.Tidy mem tab (execCompaction core s) := by
  unfold execCompaction
  split
  · exact .next h
  · exact Out.tidy_ite (.next h) (.next h.packCore)

end Sys2Proof.Machine
end

section
/-! SUPPORT. What Machine/Sweep.lean defines keeps a state tidy: the vector sweep. -/

namespace Sys2Proof.Machine

variable {mem tab : Prop} {s : State}

theorem tidy_sweepSegment {op : Byte} {f : ExtA} {lit : DWord} {seg : Nat} {g : Group} (h : s.Tidy mem tab) :
    (sweepSegment op f lit seg g s).Tidy mem tab := by
  unfold sweepSegment
  split
  · exact .trap h
  · exact tidy_vecBody h

theorem tidy_execVectorSweep {op : Byte} {f : ExtA} {lit : DWord} (h : s.Tidy mem tab) :
    Out.Tidy mem tab (execVectorSweep op f lit s) :=
  h.sweep fun _ _ _ h1 => tidy_sweepSegment h1

end Sys2Proof.Machine
end

section
/-! SUPPORT. What Machine/VecFloat.lean defines keeps a state tidy: the floating-point vector instructions. -/

namespace Sys2Proof.Machine

variable {mem tab : Prop} {s : State}

theorem tidy_absrdBody {f : ExtA} {g : Group} (h : s.Tidy mem tab) : (absrdBody f g s).Tidy mem tab :=
  Res.tidy_ite (.stall h) (.ok h.setGroup)

theorem tidy_absclrBody {f : ExtA} {g : Group} (h : s.Tidy mem tab) : (absclrBody f g s).Tidy mem tab :=
  Res.tidy_ite (.stall h) (.ok h.setGroup)

theorem tidy_execVfaddF32 {f : Word0} (h : s.Tidy mem tab) : Out.Tidy mem tab (execVfaddF32 f s) :=
  h.execVC

theorem tidy_execVfaddF32Ext {f : ExtA} (h : s.Tidy mem tab) : Out.Tidy mem tab (execVfaddF32Ext f s) :=
  h.execV

theorem tidy_execVfsubF32 {f : Word0} (h : s.Tidy mem tab) : Out.Tidy mem tab (execVfsubF32 f s) :=
  h.execVC

theorem tidy_execVfsubF32Ext {f : ExtA} (h : s.Tidy mem tab) : Out.Tidy mem tab (execVfsubF32Ext f s) :=
  h.execV

theorem tidy_execVfmulF32 {f : Word0} (h : s.Tidy mem tab) : Out.Tidy mem tab (execVfmulF32 f s) :=
  h.execVC

theorem tidy_execVfmulF32Ext {f : ExtA} (h : s.Tidy mem tab) : Out.Tidy mem tab (execVfmulF32Ext f s) :=
  h.execV

theorem tidy_execVffmaF32 {f : Word0} (h : s.Tidy mem tab) : Out.Tidy mem tab (execVffmaF32 f s) :=
  h.execVC

theorem tidy_execVffmaF32Ext {f : ExtA} (h : s.Tidy mem tab) : Out.Tidy mem tab (execVffmaF32Ext f s) :=
  h.execV

theorem tidy_execVfaddF64 {f : Word0} (h : s.Tidy mem tab) : Out.Tidy mem tab (execVfaddF64 f s) :=
  h.execVC

theorem tidy_execVfaddF64Ext {f : ExtA} (h : s.Tidy mem tab) : Out.Tidy mem tab (execVfaddF64Ext f s) :=
  h.execV

theorem tidy_execVfmulF64 {f : Word0} (h : s.Tidy mem tab) : Out.Tidy mem tab (execVfmulF64 f s) :=
  h.execVC

theorem tidy_execVfmulF64Ext {f : ExtA} (h : s.Tidy mem tab) : Out.Tidy mem tab (execVfmulF64Ext f s) :=
  h.execV

theorem tidy_execVffmaF64 {f : Word0} (h : s.Tidy mem tab) : Out.Tidy mem tab (execVffmaF64 f s) :=
  h.execVC

theorem tidy_execVffmaF64Ext {f : ExtA} (h : s.Tidy mem tab) : Out.Tidy mem tab (execVffmaF64Ext f s) :=
  h.execV

theorem tidy_execVfaddF16x2 {f : Word0} (h : s.Tidy mem tab) : Out.Tidy mem tab (execVfaddF16x2 f s) :=
  h.execVC

theorem tidy_execVfaddF16x2Ext {f : ExtA} (h : s.Tidy mem tab) : Out.Tidy mem tab (execVfaddF16x2Ext f s) :=
  h.execV

theorem tidy_execVffmaF16x2 {f : Word0} (h : s.Tidy mem tab) : Out.Tidy mem tab (execVffmaF16x2 f s) :=
  h.execVC

theorem tidy_execVffmaF16x2Ext {f : ExtA} (h : s.Tidy mem tab) : Out.Tidy mem tab (execVffmaF16x2Ext f s) :=
  h.execV

theorem tidy_execVfaddB16x2 {f : Word0} (h : s.Tidy mem tab) : Out.Tidy mem tab (execVfaddB16x2 f s) :=
  h.execVC

theorem tidy_execVfaddB16x2Ext {f : ExtA} (h : s.Tidy mem tab) : Out.Tidy mem tab (execVfaddB16x2Ext f s) :=
  h.execV

theorem tidy_execVffmaB16x2 {f : Word0} (h : s.Tidy mem tab) : Out.Tidy mem tab (execVffmaB16x2 f s) :=
  h.execVC

theorem tidy_execVffmaB16x2Ext {f : ExtA} (h : s.Tidy mem tab) : Out.Tidy mem tab (execVffmaB16x2Ext f s) :=
  h.execV

theorem tidy_execVfmin {f : ExtA} (h : s.Tidy mem tab) : Out.Tidy mem tab (execVfmin f s) :=
  h.execV

theorem tidy_execVfmax {f : ExtA} (h : s.Tidy mem tab) : Out.Tidy mem tab (execVfmax f s) :=
  h.execV

theorem tidy_execVfabs {f : ExtA} (h : s.Tidy mem tab) : Out.Tidy mem tab (execVfabs f s) :=
  h.execV

theorem tidy_execVfneg {f : ExtA} (h : s.Tidy mem tab) : Out.Tidy mem tab (execVfneg f s) :=
  h.execV

theorem tidy_execVfcmp {f : ExtA} (h : s.Tidy mem tab) : Out.Tidy mem tab (execVfcmp f s) :=
  h.execV

theorem tidy_execVfdivF32 {f : Word0} (h : s.Tidy mem tab) : Out.Tidy mem tab (execVfdivF32 f s) :=
  h.execVC

theorem tidy_execVfdivF32Ext {f : ExtA} (h : s.Tidy mem tab) : Out.Tidy mem tab (execVfdivF32Ext f s) :=
  h.execV

theorem tidy_execVfsqrtF32 {f : Word0} (h : s.Tidy mem tab) : Out.Tidy mem tab (execVfsqrtF32 f s) :=
  h.execVC

theorem tidy_execVfsqrtF32Ext {f : ExtA} (h : s.Tidy mem tab) : Out.Tidy mem tab (execVfsqrtF32Ext f s) :=
  h.execV

theorem tidy_execVfrcp {f : ExtA} (h : s.Tidy mem tab) : Out.Tidy mem tab (execVfrcp f s) :=
  h.execV

theorem tidy_execVfrsqrt {f : ExtA} (h : s.Tidy mem tab) : Out.Tidy mem tab (execVfrsqrt f s) :=
  h.execV

theorem tidy_execVfexp2 {f : ExtA} (h : s.Tidy mem tab) : Out.Tidy mem tab (execVfexp2 f s) :=
  h.execV

theorem tidy_execVflog2 {f : ExtA} (h : s.Tidy mem tab) : Out.Tidy mem tab (execVflog2 f s) :=
  h.execV

theorem tidy_execVfclass {f : ExtA} (h : s.Tidy mem tab) : Out.Tidy mem tab (execVfclass f s) :=
  h.execV

theorem tidy_execVcvtF {f : ExtA} (h : s.Tidy mem tab) : Out.Tidy mem tab (execVcvtF f s) :=
  h.execV

theorem tidy_execVcvtFi {f : ExtA} (h : s.Tidy mem tab) : Out.Tidy mem tab (execVcvtFi f s) :=
  h.execV

theorem tidy_execVcvtIf {f : ExtA} (h : s.Tidy mem tab) : Out.Tidy mem tab (execVcvtIf f s) :=
  h.execV

theorem tidy_execVqblk {f : Word0} (h : s.Tidy mem tab) : Out.Tidy mem tab (execVqblk f s) :=
  h.execVC

theorem tidy_execVqblkExt {f : ExtA} (h : s.Tidy mem tab) : Out.Tidy mem tab (execVqblkExt f s) :=
  h.execV

theorem tidy_execVdqblk {f : Word0} (h : s.Tidy mem tab) : Out.Tidy mem tab (execVdqblk f s) :=
  h.execVC

theorem tidy_execVdqblkExt {f : ExtA} (h : s.Tidy mem tab) : Out.Tidy mem tab (execVdqblkExt f s) :=
  h.execV

theorem tidy_execVhad {f : ExtA} (h : s.Tidy mem tab) : Out.Tidy mem tab (execVhad f s) :=
  h.execV

theorem tidy_execVtern {f : Word0} (h : s.Tidy mem tab) : Out.Tidy mem tab (execVtern f s) :=
  h.execVC

theorem tidy_execVternExt {f : ExtA} (h : s.Tidy mem tab) : Out.Tidy mem tab (execVternExt f s) :=
  h.execV

theorem tidy_execVrand {f : Word0} (h : s.Tidy mem tab) : Out.Tidy mem tab (execVrand f s) :=
  h.execVC

theorem tidy_execVrandExt {f : ExtA} (h : s.Tidy mem tab) : Out.Tidy mem tab (execVrandExt f s) :=
  h.execV

theorem tidy_execAbsupd {f : Word0} (h : s.Tidy mem tab) : Out.Tidy mem tab (execAbsupd f s) :=
  h.execVC

theorem tidy_execAbsupdExt {f : ExtA} (h : s.Tidy mem tab) : Out.Tidy mem tab (execAbsupdExt f s) :=
  h.execV

theorem tidy_execVfscale {f : ExtA} (h : s.Tidy mem tab) : Out.Tidy mem tab (execVfscale f s) :=
  h.execV

theorem tidy_execVlscale {f : ExtA} (h : s.Tidy mem tab) : Out.Tidy mem tab (execVlscale f s) :=
  h.execV

theorem tidy_execVfchk {f : ExtA} (h : s.Tidy mem tab) : Out.Tidy mem tab (execVfchk f s) :=
  h.execV

theorem tidy_execVfsum {f : ExtA} (h : s.Tidy mem tab) : Out.Tidy mem tab (execVfsum f s) :=
  h.execV

theorem tidy_execVfdot2F16 {f : Word0} (h : s.Tidy mem tab) : Out.Tidy mem tab (execVfdot2F16 f s) :=
  h.execVC

theorem tidy_execVfdot2F16Ext {f : ExtA} (h : s.Tidy mem tab) : Out.Tidy mem tab (execVfdot2F16Ext f s) :=
  h.execV

theorem tidy_execVfdot2B16 {f : Word0} (h : s.Tidy mem tab) : Out.Tidy mem tab (execVfdot2B16 f s) :=
  h.execVC

theorem tidy_execVfdot2B16Ext {f : ExtA} (h : s.Tidy mem tab) : Out.Tidy mem tab (execVfdot2B16Ext f s) :=
  h.execV

theorem tidy_execVfpack {f : ExtA} (h : s.Tidy mem tab) : Out.Tidy mem tab (execVfpack f s) :=
  h.execV

theorem tidy_execVfunpk {f : ExtA} (h : s.Tidy mem tab) : Out.Tidy mem tab (execVfunpk f s) :=
  h.execV

theorem tidy_execVfrint {f : ExtA} (h : s.Tidy mem tab) : Out.Tidy mem tab (execVfrint f s) :=
  h.execV

theorem tidy_execVfcopysign {f : ExtA} (h : s.Tidy mem tab) : Out.Tidy mem tab (execVfcopysign f s) :=
  h.execV

theorem tidy_execVfmaxabs {f : ExtA} (h : s.Tidy mem tab) : Out.Tidy mem tab (execVfmaxabs f s) :=
  h.execV

theorem tidy_execVnorm2 {f : ExtA} (h : s.Tidy mem tab) : Out.Tidy mem tab (execVnorm2 f s) :=
  h.execV

theorem tidy_execVcvtE8 {f : Word0} (h : s.Tidy mem tab) : Out.Tidy mem tab (execVcvtE8 f s) :=
  h.execVC

theorem tidy_execVcvtE8Ext {f : ExtA} (h : s.Tidy mem tab) : Out.Tidy mem tab (execVcvtE8Ext f s) :=
  h.execV

theorem tidy_execVcvtE4 {f : Word0} (h : s.Tidy mem tab) : Out.Tidy mem tab (execVcvtE4 f s) :=
  h.execVC

theorem tidy_execVcvtE4Ext {f : ExtA} (h : s.Tidy mem tab) : Out.Tidy mem tab (execVcvtE4Ext f s) :=
  h.execV

theorem tidy_execAbsrd {f : Word0} (h : s.Tidy mem tab) : Out.Tidy mem tab (execAbsrd f s) :=
  h.execC fun _ _ _ h1 => tidy_absrdBody h1

theorem tidy_execAbsrdExt {f : ExtA} (h : s.Tidy mem tab) : Out.Tidy mem tab (execAbsrdExt f s) :=
  h.execA fun _ _ h1 => tidy_absrdBody h1

theorem tidy_execAbsclr {f : Word0} (h : s.Tidy mem tab) : Out.Tidy mem tab (execAbsclr f s) :=
  h.execC fun _ _ _ h1 => tidy_absclrBody h1

theorem tidy_execAbsclrExt {f : ExtA} (h : s.Tidy mem tab) : Out.Tidy mem tab (execAbsclrExt f s) :=
  h.execA fun _ _ h1 => tidy_absclrBody h1

end Sys2Proof.Machine
end

section
/-! SUPPORT. What Machine/VecInt.lean defines keeps a state tidy: the integer vector instructions. -/

namespace Sys2Proof.Machine

variable {mem tab : Prop} {s : State}

theorem tidy_execVaddI32 {f : Word0} (h : s.Tidy mem tab) : Out.Tidy mem tab (execVaddI32 f s) :=
  h.execVC

theorem tidy_execVaddI32Ext {f : ExtA} (h : s.Tidy mem tab) : Out.Tidy mem tab (execVaddI32Ext f s) :=
  h.execV

theorem tidy_execVsubI32 {f : Word0} (h : s.Tidy mem tab) : Out.Tidy mem tab (execVsubI32 f s) :=
  h.execVC

theorem tidy_execVsubI32Ext {f : ExtA} (h : s.Tidy mem tab) : Out.Tidy mem tab (execVsubI32Ext f s) :=
  h.execV

theorem tidy_execVmulI32 {f : Word0} (h : s.Tidy mem tab) : Out.Tidy mem tab (execVmulI32 f s) :=
  h.execVC

theorem tidy_execVmulI32Ext {f : ExtA} (h : s.Tidy mem tab) : Out.Tidy mem tab (execVmulI32Ext f s) :=
  h.execV

theorem tidy_execVmulhI32 {f : Word0} (h : s.Tidy mem tab) : Out.Tidy mem tab (execVmulhI32 f s) :=
  h.execVC

theorem tidy_execVmulhI32Ext {f : ExtA} (h : s.Tidy mem tab) : Out.Tidy mem tab (execVmulhI32Ext f s) :=
  h.execV

theorem tidy_execVmadI32 {f : Word0} (h : s.Tidy mem tab) : Out.Tidy mem tab (execVmadI32 f s) :=
  h.execVC

theorem tidy_execVmadI32Ext {f : ExtA} (h : s.Tidy mem tab) : Out.Tidy mem tab (execVmadI32Ext f s) :=
  h.execV

theorem tidy_execVaddI64 {f : Word0} (h : s.Tidy mem tab) : Out.Tidy mem tab (execVaddI64 f s) :=
  h.execVC

theorem tidy_execVaddI64Ext {f : ExtA} (h : s.Tidy mem tab) : Out.Tidy mem tab (execVaddI64Ext f s) :=
  h.execV

theorem tidy_execVsubI64 {f : Word0} (h : s.Tidy mem tab) : Out.Tidy mem tab (execVsubI64 f s) :=
  h.execVC

theorem tidy_execVsubI64Ext {f : ExtA} (h : s.Tidy mem tab) : Out.Tidy mem tab (execVsubI64Ext f s) :=
  h.execV

theorem tidy_execVmin {f : Word0} (h : s.Tidy mem tab) : Out.Tidy mem tab (execVmin f s) :=
  h.execVC

theorem tidy_execVminExt {f : ExtA} (h : s.Tidy mem tab) : Out.Tidy mem tab (execVminExt f s) :=
  h.execV

theorem tidy_execVmax {f : Word0} (h : s.Tidy mem tab) : Out.Tidy mem tab (execVmax f s) :=
  h.execVC

theorem tidy_execVmaxExt {f : ExtA} (h : s.Tidy mem tab) : Out.Tidy mem tab (execVmaxExt f s) :=
  h.execV

theorem tidy_execVabsI32 {f : Word0} (h : s.Tidy mem tab) : Out.Tidy mem tab (execVabsI32 f s) :=
  h.execVC

theorem tidy_execVabsI32Ext {f : ExtA} (h : s.Tidy mem tab) : Out.Tidy mem tab (execVabsI32Ext f s) :=
  h.execV

theorem tidy_execVand {f : Word0} (h : s.Tidy mem tab) : Out.Tidy mem tab (execVand f s) :=
  h.execVC

theorem tidy_execVandExt {f : ExtA} (h : s.Tidy mem tab) : Out.Tidy mem tab (execVandExt f s) :=
  h.execV

theorem tidy_execVor {f : Word0} (h : s.Tidy mem tab) : Out.Tidy mem tab (execVor f s) :=
  h.execVC

theorem tidy_execVorExt {f : ExtA} (h : s.Tidy mem tab) : Out.Tidy mem tab (execVorExt f s) :=
  h.execV

theorem tidy_execVxor {f : Word0} (h : s.Tidy mem tab) : Out.Tidy mem tab (execVxor f s) :=
  h.execVC

theorem tidy_execVxorExt {f : ExtA} (h : s.Tidy mem tab) : Out.Tidy mem tab (execVxorExt f s) :=
  h.execV

theorem tidy_execVandn {f : Word0} (h : s.Tidy mem tab) : Out.Tidy mem tab (execVandn f s) :=
  h.execVC

theorem tidy_execVandnExt {f : ExtA} (h : s.Tidy mem tab) : Out.Tidy mem tab (execVandnExt f s) :=
  h.execV

theorem tidy_execVshl {f : Word0} (h : s.Tidy mem tab) : Out.Tidy mem tab (execVshl f s) :=
  h.execVC

theorem tidy_execVshlExt {f : ExtA} (h : s.Tidy mem tab) : Out.Tidy mem tab (execVshlExt f s) :=
  h.execV

theorem tidy_execVshr {f : Word0} (h : s.Tidy mem tab) : Out.Tidy mem tab (execVshr f s) :=
  h.execVC

theorem tidy_execVshrExt {f : ExtA} (h : s.Tidy mem tab) : Out.Tidy mem tab (execVshrExt f s) :=
  h.execV

theorem tidy_execVsra {f : Word0} (h : s.Tidy mem tab) : Out.Tidy mem tab (execVsra f s) :=
  h.execVC

theorem tidy_execVsraExt {f : ExtA} (h : s.Tidy mem tab) : Out.Tidy mem tab (execVsraExt f s) :=
  h.execV

theorem tidy_execVrot {f : Word0} (h : s.Tidy mem tab) : Out.Tidy mem tab (execVrot f s) :=
  h.execVC

theorem tidy_execVrotExt {f : ExtA} (h : s.Tidy mem tab) : Out.Tidy mem tab (execVrotExt f s) :=
  h.execV

theorem tidy_execVbfe {f : Word0} (h : s.Tidy mem tab) : Out.Tidy mem tab (execVbfe f s) :=
  h.execVC

theorem tidy_execVbfeExt {f : ExtA} (h : s.Tidy mem tab) : Out.Tidy mem tab (execVbfeExt f s) :=
  h.execV

theorem tidy_execVbfi {f : Word0} (h : s.Tidy mem tab) : Out.Tidy mem tab (execVbfi f s) :=
  h.execVC

theorem tidy_execVbfiExt {f : ExtA} (h : s.Tidy mem tab) : Out.Tidy mem tab (execVbfiExt f s) :=
  h.execV

theorem tidy_execVpopc {f : Word0} (h : s.Tidy mem tab) : Out.Tidy mem tab (execVpopc f s) :=
  h.execVC

theorem tidy_execVpopcExt {f : ExtA} (h : s.Tidy mem tab) : Out.Tidy mem tab (execVpopcExt f s) :=
  h.execV

theorem tidy_execVclz {f : Word0} (h : s.Tidy mem tab) : Out.Tidy mem tab (execVclz f s) :=
  h.execVC

theorem tidy_execVclzExt {f : ExtA} (h : s.Tidy mem tab) : Out.Tidy mem tab (execVclzExt f s) :=
  h.execV

theorem tidy_execVcmp {f : ExtA} (h : s.Tidy mem tab) : Out.Tidy mem tab (execVcmp f s) :=
  h.execV

theorem tidy_execVsel {f : Word0} (h : s.Tidy mem tab) : Out.Tidy mem tab (execVsel f s) :=
  h.execVC

theorem tidy_execVselExt {f : ExtA} (h : s.Tidy mem tab) : Out.Tidy mem tab (execVselExt f s) :=
  h.execV

theorem tidy_execVmov {f : Word0} (h : s.Tidy mem tab) : Out.Tidy mem tab (execVmov f s) :=
  h.execVC

theorem tidy_execVmovExt {f : ExtA} (h : s.Tidy mem tab) : Out.Tidy mem tab (execVmovExt f s) :=
  h.execV

theorem tidy_execVli {f : Word0} (h : s.Tidy mem tab) : Out.Tidy mem tab (execVli f s) :=
  h.execVC

theorem tidy_execVliExt {f : ExtA} (h : s.Tidy mem tab) : Out.Tidy mem tab (execVliExt f s) :=
  h.execV

theorem tidy_vliPair {d : Byte} {lit : DWord} {g : Group} (h : s.Tidy mem tab) : (vliPair d lit g s).Tidy mem tab := by
  unfold vliPair
  split
  · exact .trap h
  · exact .stall h
  · exact .ok h.setGroup

theorem tidy_execVliLiteral {f : Word0} {lit : DWord} (h : s.Tidy mem tab) : Out.Tidy mem tab (execVliLiteral f lit s) :=
  h.issueWith fun _ _ h1 => tidy_vliPair h1

theorem tidy_execVid {f : Word0} (h : s.Tidy mem tab) : Out.Tidy mem tab (execVid f s) :=
  h.execVC

theorem tidy_execVidExt {f : ExtA} (h : s.Tidy mem tab) : Out.Tidy mem tab (execVidExt f s) :=
  h.execV

theorem tidy_maskOp {op : Mask → Mask → Mask} {f : ExtA} {g : Group} (h : s.Tidy mem tab) :
    (maskOp op f g s).Tidy mem tab :=
  tidy_groupBody h

theorem tidy_maskQuarter {f : ExtA} {g : Group} (h : s.Tidy mem tab) : (maskQuarter f g s).Tidy mem tab :=
  tidy_groupBody h

theorem tidy_maskActive {f : ExtA} {g : Group} (h : s.Tidy mem tab) : (maskActive f g s).Tidy mem tab :=
  .ok h.setGroup

theorem tidy_execKand {f : Word0} (h : s.Tidy mem tab) : Out.Tidy mem tab (execKand f s) :=
  h.execC fun _ _ _ h1 => tidy_maskOp h1

theorem tidy_execKandExt {f : ExtA} (h : s.Tidy mem tab) : Out.Tidy mem tab (execKandExt f s) :=
  h.execA fun _ _ h1 => tidy_maskOp h1

theorem tidy_execKor {f : Word0} (h : s.Tidy mem tab) : Out.Tidy mem tab (execKor f s) :=
  h.execC fun _ _ _ h1 => tidy_maskOp h1

theorem tidy_execKorExt {f : ExtA} (h : s.Tidy mem tab) : Out.Tidy mem tab (execKorExt f s) :=
  h.execA fun _ _ h1 => tidy_maskOp h1

theorem tidy_execKxor {f : Word0} (h : s.Tidy mem tab) : Out.Tidy mem tab (execKxor f s) :=
  h.execC fun _ _ _ h1 => tidy_maskOp h1

theorem tidy_execKxorExt {f : ExtA} (h : s.Tidy mem tab) : Out.Tidy mem tab (execKxorExt f s) :=
  h.execA fun _ _ h1 => tidy_maskOp h1

theorem tidy_execKnot {f : Word0} (h : s.Tidy mem tab) : Out.Tidy mem tab (execKnot f s) :=
  h.execC fun _ _ _ h1 => tidy_maskOp h1

theorem tidy_execKnotExt {f : ExtA} (h : s.Tidy mem tab) : Out.Tidy mem tab (execKnotExt f s) :=
  h.execA fun _ _ h1 => tidy_maskOp h1

theorem tidy_execKmov {f : Word0} (h : s.Tidy mem tab) : Out.Tidy mem tab (execKmov f s) :=
  h.execC fun _ _ _ h1 => tidy_maskOp h1

theorem tidy_execKmovExt {f : ExtA} (h : s.Tidy mem tab) : Out.Tidy mem tab (execKmovExt f s) :=
  h.execA fun _ _ h1 => tidy_maskOp h1

theorem tidy_execKmovQ {f : ExtA} (h : s.Tidy mem tab) : Out.Tidy mem tab (execKmovQ f s) :=
  h.execA fun _ _ h1 => tidy_maskQuarter h1

theorem tidy_execKmovAct {f : ExtA} (h : s.Tidy mem tab) : Out.Tidy mem tab (execKmovAct f s) :=
  h.execA fun _ _ h1 => tidy_maskActive h1

theorem tidy_execVmatch {f : Word0} (h : s.Tidy mem tab) : Out.Tidy mem tab (execVmatch f s) :=
  h.execVC

theorem tidy_execVmatchExt {f : ExtA} (h : s.Tidy mem tab) : Out.Tidy mem tab (execVmatchExt f s) :=
  h.execV

theorem tidy_execVmrank {f : Word0} (h : s.Tidy mem tab) : Out.Tidy mem tab (execVmrank f s) :=
  h.execVC

theorem tidy_execVmrankExt {f : ExtA} (h : s.Tidy mem tab) : Out.Tidy mem tab (execVmrankExt f s) :=
  h.execV

theorem tidy_execVbfly {f : Word0} (h : s.Tidy mem tab) : Out.Tidy mem tab (execVbfly f s) :=
  h.execVC

theorem tidy_execVbflyExt {f : ExtA} (h : s.Tidy mem tab) : Out.Tidy mem tab (execVbflyExt f s) :=
  h.execV

theorem tidy_execVshfl {f : Word0} (h : s.Tidy mem tab) : Out.Tidy mem tab (execVshfl f s) :=
  h.execVC

theorem tidy_execVshflExt {f : ExtA} (h : s.Tidy mem tab) : Out.Tidy mem tab (execVshflExt f s) :=
  h.execV

theorem tidy_execVbcast {f : Word0} (h : s.Tidy mem tab) : Out.Tidy mem tab (execVbcast f s) :=
  h.execVC

theorem tidy_execVbcastExt {f : ExtA} (h : s.Tidy mem tab) : Out.Tidy mem tab (execVbcastExt f s) :=
  h.execV

theorem tidy_execVscan {f : Word0} (h : s.Tidy mem tab) : Out.Tidy mem tab (execVscan f s) :=
  h.execVC

theorem tidy_execVscanExt {f : ExtA} (h : s.Tidy mem tab) : Out.Tidy mem tab (execVscanExt f s) :=
  h.execV

theorem tidy_execVred {f : Word0} (h : s.Tidy mem tab) : Out.Tidy mem tab (execVred f s) :=
  h.execVC

theorem tidy_execVredExt {f : ExtA} (h : s.Tidy mem tab) : Out.Tidy mem tab (execVredExt f s) :=
  h.execV

theorem tidy_execVsat {f : Word0} (h : s.Tidy mem tab) : Out.Tidy mem tab (execVsat f s) :=
  h.execVC

theorem tidy_execVsatExt {f : ExtA} (h : s.Tidy mem tab) : Out.Tidy mem tab (execVsatExt f s) :=
  h.execV

theorem tidy_vxldBody {f : ExtA} {g : Group} (h : s.Tidy mem tab) : (vxldBody f g s).Tidy mem tab := by
  unfold vxldBody
  extract_lets m x c
  split
  · exact .trap h
  · refine Res.tidy_ite (Res.tidy_ite (.trap h) (.stall h)) (Res.tidy_ite (.stall h) ?_)
    exact Res.tidy_ite (Res.tidy_andThen (.ok h.setGroup) fun _ h1 => .ok h1.consume) (.ok h.setGroup)

theorem tidy_vxstBody {f : ExtA} {g : Group} (h : s.Tidy mem tab) : (vxstBody f g s).Tidy mem tab := by
  unfold vxstBody
  extract_lets m x c regs
  split
  · exact .trap h
  · exact Res.tidy_ite (Res.tidy_ite (.trap h) (.stall h)) (Res.tidy_ite (.stall h) (Res.Tidy.readRegs (.ok h.setGroup)))

theorem tidy_xsetBody {f : ExtA} {g : Group} (h : s.Tidy mem tab) : (xsetBody f g s).Tidy mem tab := by
  unfold xsetBody
  split
  · exact .ok h.setGroup
  · split
    · exact .trap h
    · exact .stall h
    · exact Res.Tidy.readRegs (.ok h.setGroup)

theorem tidy_xwinBody {f : ExtA} {g : Group} (h : s.Tidy mem tab) : (xwinBody f g s).Tidy mem tab :=
  Res.tidy_ite (.trap h) (Res.tidy_ite (.ok h) (.ok h.setGroup))

theorem tidy_execVxld {f : ExtA} (h : s.Tidy mem tab) : Out.Tidy mem tab (execVxld f s) :=
  h.execA fun _ _ h1 => tidy_vxldBody h1

theorem tidy_execVxst {f : ExtA} (h : s.Tidy mem tab) : Out.Tidy mem tab (execVxst f s) :=
  h.execA fun _ _ h1 => tidy_vxstBody h1

theorem tidy_execXset {f : Word0} (h : s.Tidy mem tab) : Out.Tidy mem tab (execXset f s) :=
  h.execC fun _ _ _ h1 => tidy_xsetBody h1

theorem tidy_execXsetExt {f : ExtA} (h : s.Tidy mem tab) : Out.Tidy mem tab (execXsetExt f s) :=
  h.execA fun _ _ h1 => tidy_xsetBody h1

theorem tidy_execXwin {compact : Bool} {f : ExtA} (h : s.Tidy mem tab) : Out.Tidy mem tab (execXwin compact f s) :=
  h.issueWith fun _ _ h1 => tidy_xwinBody h1

theorem tidy_execVdot4I8 {f : Word0} (h : s.Tidy mem tab) : Out.Tidy mem tab (execVdot4I8 f s) :=
  h.execVC

theorem tidy_execVdot4I8Ext {f : ExtA} (h : s.Tidy mem tab) : Out.Tidy mem tab (execVdot4I8Ext f s) :=
  h.execV

theorem tidy_execVmulw {f : Word0} (h : s.Tidy mem tab) : Out.Tidy mem tab (execVmulw f s) :=
  h.execVC

theorem tidy_execVmulwExt {f : ExtA} (h : s.Tidy mem tab) : Out.Tidy mem tab (execVmulwExt f s) :=
  h.execV

theorem tidy_execVclamp {f : Word0} (h : s.Tidy mem tab) : Out.Tidy mem tab (execVclamp f s) :=
  h.execVC

theorem tidy_execVclampExt {f : ExtA} (h : s.Tidy mem tab) : Out.Tidy mem tab (execVclampExt f s) :=
  h.execV

theorem tidy_execVhash {f : Word0} (h : s.Tidy mem tab) : Out.Tidy mem tab (execVhash f s) :=
  h.execVC

theorem tidy_execVhashExt {f : ExtA} (h : s.Tidy mem tab) : Out.Tidy mem tab (execVhashExt f s) :=
  h.execV

end Sys2Proof.Machine
end

section
/-! SUPPORT. What Machine/Dispatch.lean defines keeps a state tidy: the meaning of every instruction and device step. -/

namespace Sys2Proof.Machine

variable {mem tab : Prop} {s : State}

/-- Every instruction and every device step keeps a tidy state, each by the lemma of its own meaning. -/
theorem tidy_exec {i : Instr} (h : s.Tidy mem tab) : Out.Tidy mem tab (exec i s) := by
  cases i with
  | trap0 => exact tidy_execTrap0 h
  | ill w => exact tidy_execIll (w := w) h
  | nop f => exact tidy_execNop (f := f) h
  | nopExt f => exact tidy_execNopExt (f := f) h
  | br => exact tidy_execBr h
  | bcEq => exact tidy_execBcEq h
  | bcNe => exact tidy_execBcNe h
  | bcLt => exact tidy_execBcLt h
  | bcGe => exact tidy_execBcGe h
  | bcLtn => exact tidy_execBcLtn h
  | bcGen => exact tidy_execBcGen h
  | bany => exact tidy_execBany h
  | ball => exact tidy_execBall h
  | bnone => exact tidy_execBnone h
  | bdiv => exact tidy_execBdiv h
  | join => exact tidy_execJoin h
  | call => exact tidy_execCall h
  | callAbsolute => exact tidy_execCallAbsolute h
  | ret => exact tidy_execRet h
  | jmp => exact tidy_execJmp h
  | jmpAbsolute => exact tidy_execJmpAbsolute h
  | exit => exact tidy_execExit h
  | idem f => exact tidy_execIdem (f := f) h
  | idemExt f => exact tidy_execIdemExt (f := f) h
  | step => exact tidy_execStep h
  | stepExt => exact tidy_execStepExt h
  | trap => exact tidy_execTrap h
  | eret => exact tidy_execEret h
  | mfsys => exact tidy_execMfsys h
  | mtsys => exact tidy_execMtsys h
  | yield f => exact tidy_execYield (f := f) h
  | yieldExt f => exact tidy_execYieldExt (f := f) h
  | tmset => exact tidy_execTmset h
  | tmsetExt => exact tidy_execTmsetExt h
  | rdcyc => exact tidy_execRdcyc h
  | rdcycExt => exact tidy_execRdcycExt h
  | detm => exact tidy_execDetm h
  | detmExt => exact tidy_execDetmExt h
  | sigck => exact tidy_execSigck h
  | ctxsw => exact tidy_execCtxsw h
  | finj => exact tidy_execFinj h
  | brk => exact tidy_execBrk h
  | brkExt => exact tidy_execBrkExt h
  | sadd => exact tidy_execSadd h
  | saddExt => exact tidy_execSaddExt h
  | ssub => exact tidy_execSsub h
  | ssubExt => exact tidy_execSsubExt h
  | smul => exact tidy_execSmul h
  | smulExt => exact tidy_execSmulExt h
  | smulh => exact tidy_execSmulh h
  | smulhExt => exact tidy_execSmulhExt h
  | sand => exact tidy_execSand h
  | sandExt => exact tidy_execSandExt h
  | sor => exact tidy_execSor h
  | sorExt => exact tidy_execSorExt h
  | sxor => exact tidy_execSxor h
  | sxorExt => exact tidy_execSxorExt h
  | sshl => exact tidy_execSshl h
  | sshlExt => exact tidy_execSshlExt h
  | sshr => exact tidy_execSshr h
  | sshrExt => exact tidy_execSshrExt h
  | ssra => exact tidy_execSsra h
  | ssraExt => exact tidy_execSsraExt h
  | smin => exact tidy_execSmin h
  | sminExt => exact tidy_execSminExt h
  | smax => exact tidy_execSmax h
  | smaxExt => exact tidy_execSmaxExt h
  | sminn => exact tidy_execSminn h
  | sminnExt => exact tidy_execSminnExt h
  | smaxn => exact tidy_execSmaxn h
  | smaxnExt => exact tidy_execSmaxnExt h
  | smov => exact tidy_execSmov h
  | smovExt => exact tidy_execSmovExt h
  | sli => exact tidy_execSli h
  | sliExt => exact tidy_execSliExt h
  | sliLiteral => exact tidy_execSliLiteral h
  | sset => exact tidy_execSset h
  | ssetExt => exact tidy_execSsetExt h
  | ssel => exact tidy_execSsel h
  | sselExt => exact tidy_execSselExt h
  | sld => exact tidy_execSld h
  | sst => exact tidy_execSst h
  | xlat => exact tidy_execXlat h
  | shld => exact tidy_execShld h
  | shset => exact tidy_execShset h
  | shget => exact tidy_execShget h
  | lsset => exact tidy_execLsset h
  | lssetExt => exact tidy_execLssetExt h
  | lsget => exact tidy_execLsget h
  | lsgetExt => exact tidy_execLsgetExt h
  | ovfrd => exact tidy_execOvfrd h
  | ovfrdExt => exact tidy_execOvfrdExt h
  | kpop => exact tidy_execKpop h
  | kpopExt => exact tidy_execKpopExt h
  | kffs => exact tidy_execKffs h
  | kffsExt => exact tidy_execKffsExt h
  | vtos => exact tidy_execVtos h
  | vtosExt => exact tidy_execVtosExt h
  | stov => exact tidy_execStov h
  | stovExt => exact tidy_execStovExt h
  | sdiv => exact tidy_execSdiv h
  | sdivExt => exact tidy_execSdivExt h
  | vaddI32 => exact tidy_execVaddI32 h
  | vaddI32Ext => exact tidy_execVaddI32Ext h
  | vsubI32 => exact tidy_execVsubI32 h
  | vsubI32Ext => exact tidy_execVsubI32Ext h
  | vmulI32 => exact tidy_execVmulI32 h
  | vmulI32Ext => exact tidy_execVmulI32Ext h
  | vmulhI32 => exact tidy_execVmulhI32 h
  | vmulhI32Ext => exact tidy_execVmulhI32Ext h
  | vmadI32 => exact tidy_execVmadI32 h
  | vmadI32Ext => exact tidy_execVmadI32Ext h
  | vaddI64 => exact tidy_execVaddI64 h
  | vaddI64Ext => exact tidy_execVaddI64Ext h
  | vsubI64 => exact tidy_execVsubI64 h
  | vsubI64Ext => exact tidy_execVsubI64Ext h
  | vmin => exact tidy_execVmin h
  | vminExt => exact tidy_execVminExt h
  | vmax => exact tidy_execVmax h
  | vmaxExt => exact tidy_execVmaxExt h
  | vabsI32 => exact tidy_execVabsI32 h
  | vabsI32Ext => exact tidy_execVabsI32Ext h
  | vand => exact tidy_execVand h
  | vandExt => exact tidy_execVandExt h
  | vor => exact tidy_execVor h
  | vorExt => exact tidy_execVorExt h
  | vxor => exact tidy_execVxor h
  | vxorExt => exact tidy_execVxorExt h
  | vandn => exact tidy_execVandn h
  | vandnExt => exact tidy_execVandnExt h
  | vshl => exact tidy_execVshl h
  | vshlExt => exact tidy_execVshlExt h
  | vshr => exact tidy_execVshr h
  | vshrExt => exact tidy_execVshrExt h
  | vsra => exact tidy_execVsra h
  | vsraExt => exact tidy_execVsraExt h
  | vrot => exact tidy_execVrot h
  | vrotExt => exact tidy_execVrotExt h
  | vbfe => exact tidy_execVbfe h
  | vbfeExt => exact tidy_execVbfeExt h
  | vbfi => exact tidy_execVbfi h
  | vbfiExt => exact tidy_execVbfiExt h
  | vpopc => exact tidy_execVpopc h
  | vpopcExt => exact tidy_execVpopcExt h
  | vclz => exact tidy_execVclz h
  | vclzExt => exact tidy_execVclzExt h
  | vcmp => exact tidy_execVcmp h
  | vsel => exact tidy_execVsel h
  | vselExt => exact tidy_execVselExt h
  | vmov => exact tidy_execVmov h
  | vmovExt => exact tidy_execVmovExt h
  | vli => exact tidy_execVli h
  | vliExt => exact tidy_execVliExt h
  | vliLiteral => exact tidy_execVliLiteral h
  | vid => exact tidy_execVid h
  | vidExt => exact tidy_execVidExt h
  | kand => exact tidy_execKand h
  | kandExt => exact tidy_execKandExt h
  | kor => exact tidy_execKor h
  | korExt => exact tidy_execKorExt h
  | kxor => exact tidy_execKxor h
  | kxorExt => exact tidy_execKxorExt h
  | knot => exact tidy_execKnot h
  | knotExt => exact tidy_execKnotExt h
  | kmov => exact tidy_execKmov h
  | kmovExt => exact tidy_execKmovExt h
  | kmovQ => exact tidy_execKmovQ h
  | kmovAct => exact tidy_execKmovAct h
  | vmatch => exact tidy_execVmatch h
  | vmatchExt => exact tidy_execVmatchExt h
  | vmrank => exact tidy_execVmrank h
  | vmrankExt => exact tidy_execVmrankExt h
  | vbfly => exact tidy_execVbfly h
  | vbflyExt => exact tidy_execVbflyExt h
  | vshfl => exact tidy_execVshfl h
  | vshflExt => exact tidy_execVshflExt h
  | vbcast => exact tidy_execVbcast h
  | vbcastExt => exact tidy_execVbcastExt h
  | vscan => exact tidy_execVscan h
  | vscanExt => exact tidy_execVscanExt h
  | vred => exact tidy_execVred h
  | vredExt => exact tidy_execVredExt h
  | vsat => exact tidy_execVsat h
  | vsatExt => exact tidy_execVsatExt h
  | vxld => exact tidy_execVxld h
  | vxst => exact tidy_execVxst h
  | xset => exact tidy_execXset h
  | xsetExt => exact tidy_execXsetExt h
  | xwin => exact tidy_execXwin h
  | vdot4I8 => exact tidy_execVdot4I8 h
  | vdot4I8Ext => exact tidy_execVdot4I8Ext h
  | vmulw => exact tidy_execVmulw h
  | vmulwExt => exact tidy_execVmulwExt h
  | vclamp => exact tidy_execVclamp h
  | vclampExt => exact tidy_execVclampExt h
  | vhash => exact tidy_execVhash h
  | vhashExt => exact tidy_execVhashExt h
  | vfaddF32 => exact tidy_execVfaddF32 h
  | vfaddF32Ext => exact tidy_execVfaddF32Ext h
  | vfsubF32 => exact tidy_execVfsubF32 h
  | vfsubF32Ext => exact tidy_execVfsubF32Ext h
  | vfmulF32 => exact tidy_execVfmulF32 h
  | vfmulF32Ext => exact tidy_execVfmulF32Ext h
  | vffmaF32 => exact tidy_execVffmaF32 h
  | vffmaF32Ext => exact tidy_execVffmaF32Ext h
  | vfaddF64 => exact tidy_execVfaddF64 h
  | vfaddF64Ext => exact tidy_execVfaddF64Ext h
  | vfmulF64 => exact tidy_execVfmulF64 h
  | vfmulF64Ext => exact tidy_execVfmulF64Ext h
  | vffmaF64 => exact tidy_execVffmaF64 h
  | vffmaF64Ext => exact tidy_execVffmaF64Ext h
  | vfaddF16x2 => exact tidy_execVfaddF16x2 h
  | vfaddF16x2Ext => exact tidy_execVfaddF16x2Ext h
  | vffmaF16x2 => exact tidy_execVffmaF16x2 h
  | vffmaF16x2Ext => exact tidy_execVffmaF16x2Ext h
  | vfaddB16x2 => exact tidy_execVfaddB16x2 h
  | vfaddB16x2Ext => exact tidy_execVfaddB16x2Ext h
  | vffmaB16x2 => exact tidy_execVffmaB16x2 h
  | vffmaB16x2Ext => exact tidy_execVffmaB16x2Ext h
  | vfmin => exact tidy_execVfmin h
  | vfmax => exact tidy_execVfmax h
  | vfabs => exact tidy_execVfabs h
  | vfneg => exact tidy_execVfneg h
  | vfcmp => exact tidy_execVfcmp h
  | vfdivF32 => exact tidy_execVfdivF32 h
  | vfdivF32Ext => exact tidy_execVfdivF32Ext h
  | vfsqrtF32 => exact tidy_execVfsqrtF32 h
  | vfsqrtF32Ext => exact tidy_execVfsqrtF32Ext h
  | vfrcp => exact tidy_execVfrcp h
  | vfrsqrt => exact tidy_execVfrsqrt h
  | vfexp2 => exact tidy_execVfexp2 h
  | vflog2 => exact tidy_execVflog2 h
  | vfclass => exact tidy_execVfclass h
  | vcvtF => exact tidy_execVcvtF h
  | vcvtFi => exact tidy_execVcvtFi h
  | vcvtIf => exact tidy_execVcvtIf h
  | vqblk => exact tidy_execVqblk h
  | vqblkExt => exact tidy_execVqblkExt h
  | vdqblk => exact tidy_execVdqblk h
  | vdqblkExt => exact tidy_execVdqblkExt h
  | vhad => exact tidy_execVhad h
  | vtern => exact tidy_execVtern h
  | vternExt => exact tidy_execVternExt h
  | vrand => exact tidy_execVrand h
  | vrandExt => exact tidy_execVrandExt h
  | absrd => exact tidy_execAbsrd h
  | absrdExt => exact tidy_execAbsrdExt h
  | absclr => exact tidy_execAbsclr h
  | absclrExt => exact tidy_execAbsclrExt h
  | absupd => exact tidy_execAbsupd h
  | absupdExt => exact tidy_execAbsupdExt h
  | vfscale => exact tidy_execVfscale h
  | vlscale => exact tidy_execVlscale h
  | vfchk => exact tidy_execVfchk h
  | vfsum => exact tidy_execVfsum h
  | vfdot2F16 => exact tidy_execVfdot2F16 h
  | vfdot2F16Ext => exact tidy_execVfdot2F16Ext h
  | vfdot2B16 => exact tidy_execVfdot2B16 h
  | vfdot2B16Ext => exact tidy_execVfdot2B16Ext h
  | vfpack => exact tidy_execVfpack h
  | vfunpk => exact tidy_execVfunpk h
  | vfrint => exact tidy_execVfrint h
  | vfcopysign => exact tidy_execVfcopysign h
  | vfmaxabs => exact tidy_execVfmaxabs h
  | vnorm2 => exact tidy_execVnorm2 h
  | vcvtE8 => exact tidy_execVcvtE8 h
  | vcvtE8Ext => exact tidy_execVcvtE8Ext h
  | vcvtE4 => exact tidy_execVcvtE4 h
  | vcvtE4Ext => exact tidy_execVcvtE4Ext h
  | vectorSweep => exact tidy_execVectorSweep h
  | ld => exact tidy_execLd h
  | st => exact tidy_execSt h
  | ldsw => exact tidy_execLdsw h
  | stsw => exact tidy_execStsw h
  | gather => exact tidy_execGather h
  | scatter => exact tidy_execScatter h
  | lds => exact tidy_execLds h
  | sts => exact tidy_execSts h
  | ldc => exact tidy_execLdc h
  | stc => exact tidy_execStc h
  | ldp => exact tidy_execLdp h
  | stp => exact tidy_execStp h
  | pref => exact tidy_execPref h
  | l2pin => exact tidy_execL2pin h
  | l2unpin => exact tidy_execL2unpin h
  | discard => exact tidy_execDiscard h
  | wback => exact tidy_execWback h
  | objdecl => exact tidy_execObjdecl h
  | objset => exact tidy_execObjset h
  | objrel => exact tidy_execObjrel h
  | fence => exact tidy_execFence h
  | fenceExt => exact tidy_execFenceExt h
  | acq => exact tidy_execAcq h
  | acqExt => exact tidy_execAcqExt h
  | rel => exact tidy_execRel h
  | relExt => exact tidy_execRelExt h
  | ldsc => exact tidy_execLdsc h
  | stsc => exact tidy_execStsc h
  | stmc => exact tidy_execStmc h
  | ldx => exact tidy_execLdx h
  | stx => exact tidy_execStx h
  | winmap => exact tidy_execWinmap h
  | winsyncWb => exact tidy_execWinsyncWb h
  | winsyncFill => exact tidy_execWinsyncFill h
  | winsyncClose => exact tidy_execWinsyncClose h
  | tlbinv => exact tidy_execTlbinv h
  | xlatq => exact tidy_execXlatq h
  | ataddI32 => exact tidy_execAtaddI32 h
  | ataddI64 => exact tidy_execAtaddI64 h
  | ataddfF32 => exact tidy_execAtaddfF32 h
  | atmin => exact tidy_execAtmin h
  | atmax => exact tidy_execAtmax h
  | atand => exact tidy_execAtand h
  | ator => exact tidy_execAtor h
  | atxor => exact tidy_execAtxor h
  | atxchg => exact tidy_execAtxchg h
  | atcasI32 => exact tidy_execAtcasI32 h
  | atcasI64 => exact tidy_execAtcasI64 h
  | atinc => exact tidy_execAtinc h
  | atdec => exact tidy_execAtdec h
  | ataddsc => exact tidy_execAtaddsc h
  | atcassc => exact tidy_execAtcassc h
  | atwait => exact tidy_execAtwait h
  | mwld => exact tidy_execMwld h
  | mmac => exact tidy_execMmac h
  | mtri => exact tidy_execMtri h
  | mlut => exact tidy_execMlut h
  | mtern => exact tidy_execMtern h
  | mzero => exact tidy_execMzero h
  | mrd => exact tidy_execMrd h
  | mwr => exact tidy_execMwr h
  | mver => exact tidy_execMver h
  | mverSet => exact tidy_execMverSet h
  | mscale => exact tidy_execMscale h
  | mstream => exact tidy_execMstream h
  | mwrel => exact tidy_execMwrel h
  | spbind => exact tidy_execSpbind h
  | spunbind => exact tidy_execSpunbind h
  | spsettle => exact tidy_execSpsettle h
  | spquery => exact tidy_execSpquery h
  | sprefresh => exact tidy_execSprefresh h
  | sppause => exact tidy_execSppause h
  | spresume => exact tidy_execSpresume h
  | spsnap => exact tidy_execSpsnap h
  | mbar => exact tidy_execMbar h
  | maccadd => exact tidy_execMaccadd h
  | mpeek => exact tidy_execMpeek h
  | mfmt => exact tidy_execMfmt h
  | bar => exact tidy_execBar h
  | barExt => exact tidy_execBarExt h
  | barar => exact tidy_execBarar h
  | bararExt => exact tidy_execBararExt h
  | barwt => exact tidy_execBarwt h
  | barwtExt => exact tidy_execBarwtExt h
  | cwait => exact tidy_execCwait h
  | ecwait => exact tidy_execEcwait h
  | ecwaitExt => exact tidy_execEcwaitExt h
  | kick => exact tidy_execKick h
  | coll => exact tidy_execColl h
  | amsg => exact tidy_execAmsg h
  | amreply => exact tidy_execAmreply h
  | tender => exact tidy_execTender h
  | bidld => exact tidy_execBidld h
  | tquery => exact tidy_execTquery h
  | launch => exact tidy_execLaunch h
  | launchFab => exact tidy_execLaunchFab h
  | leave => exact tidy_execLeave h
  | leaveQ => exact tidy_execLeaveQ h
  | evpost => exact tidy_execEvpost h
  | evget => exact tidy_execEvget h
  | qwait => exact tidy_execQwait h
  | qsig => exact tidy_execQsig h
  | gangsync => exact tidy_execGangsync h
  | replay => exact tidy_execReplay h
  | digest => exact tidy_execDigest h
  | park => exact tidy_execPark h
  | parkExt => exact tidy_execParkExt h
  | cutq => exact tidy_execCutq h
  | deferredMemoryTrap => exact tidy_execDeferredMemoryTrap h
  | timerExpired => exact tidy_execTimerExpired h
  | ptCmd => exact tidy_execPtCmd h
  | fdRead => exact tidy_execFdRead h
  | fdInc => exact tidy_execFdInc h
  | fdDec => exact tidy_execFdDec h
  | fdFree => exact tidy_execFdFree h
  | fpPop => exact tidy_execFpPop h
  | ftHandoff => exact tidy_execFtHandoff h
  | tlbShoot => exact tidy_execTlbShoot h
  | shootdownComplete => exact tidy_execShootdownComplete h
  | plexResume => exact tidy_execPlexResume h
  | siLoadRequest => exact tidy_execSiLoadRequest h
  | ownLoadRequest => exact tidy_execOwnLoadRequest h
  | registration => exact tidy_execRegistration h
  | writeThrough => exact tidy_execWriteThrough h
  | ncAtomic => exact tidy_execNcAtomic h
  | scOperation => exact tidy_execScOperation h
  | grant => exact tidy_execGrant h
  | revocation => exact tidy_execRevocation h
  | forwardedRead => exact tidy_execForwardedRead h
  | fill => exact tidy_execFill h
  | writeThroughAck => exact tidy_execWriteThroughAck h
  | l1LineEviction => exact tidy_execL1LineEviction h
  | l2LineEviction => exact tidy_execL2LineEviction h
  | objectInvalidation => exact tidy_execObjectInvalidation h
  | captureQueueSend => exact tidy_execCaptureQueueSend h
  | lcsHeartbeat => exact tidy_execLcsHeartbeat h
  | deltaApply => exact tidy_execDeltaApply h
  | watchArrival => exact tidy_execWatchArrival h
  | watchRetry => exact tidy_execWatchRetry h
  | absmaxDrain => exact tidy_execAbsmaxDrain h
  | hmaskWrite => exact tidy_execHmaskWrite h
  | l2QuiesceWrite => exact tidy_execL2QuiesceWrite h
  | quiesceComplete => exact tidy_execQuiesceComplete h
  | l2Wbcmd => exact tidy_execL2Wbcmd h
  | writebackComplete => exact tidy_execWritebackComplete h
  | gateEntryWrite => exact tidy_execGateEntryWrite h
  | gateRequest => exact tidy_execGateRequest h
  | tntShapeWrite => exact tidy_execTntShapeWrite h
  | tntFabWrite => exact tidy_execTntFabWrite h
  | mcSetWrite => exact tidy_execMcSetWrite h
  | registerWrite => exact tidy_execRegisterWrite h
  | bulkheadReset => exact tidy_execBulkheadReset h
  | resetSettle => exact tidy_execResetSettle h
  | logicReset => exact tidy_execLogicReset h
  | pllRelock => exact tidy_execPllRelock h
  | memoryReinit => exact tidy_execMemoryReinit h
  | selfTest => exact tidy_execSelfTest h
  | railFault => exact tidy_execRailFault h
  | pllLockLoss => exact tidy_execPllLockLoss h
  | sliceGateFault => exact tidy_execSliceGateFault h
  | watchdogKick => exact tidy_execWatchdogKick h
  | watchdogExpiry => exact tidy_execWatchdogExpiry h
  | vfBhreset => exact tidy_execVfBhreset h
  | launchReady => exact tidy_execLaunchReady h
  | gangPlacement => exact tidy_execGangPlacement h
  | operatingPointChange => exact tidy_execOperatingPointChange h
  | compaction => exact tidy_execCompaction h
  | activeSetExchange => exact tidy_execActiveSetExchange h
  | gangSwapOut => exact tidy_execGangSwapOut h
  | gangSwapIn => exact tidy_execGangSwapIn h
  | groupEnd => exact tidy_execGroupEnd h
  | gridCompletion => exact tidy_execGridCompletion h
  | copyRequest => exact tidy_execCopyRequest h
  | copyPiece => exact tidy_execCopyPiece h
  | engineRetirement => exact tidy_execEngineRetirement h
  | gatherLane => exact tidy_execGatherLane h
  | collectiveStep => exact tidy_execCollectiveStep h
  | matrixOpStart => exact tidy_execMatrixOpStart h
  | matrixOpComplete => exact tidy_execMatrixOpComplete h
  | slotPairFree => exact tidy_execSlotPairFree h
  | tenderBroadcast => exact tidy_execTenderBroadcast h
  | bidWindowEnd => exact tidy_execBidWindowEnd h
  | awardAccept => exact tidy_execAwardAccept h
  | bidWithdrawal => exact tidy_execBidWithdrawal h
  | taskStart => exact tidy_execTaskStart h
  | amDispatch => exact tidy_execAmDispatch h
  | amReplyLanding => exact tidy_execAmReplyLanding h
  | replayRun => exact tidy_execReplayRun h
  | digestCompare => exact tidy_execDigestCompare h
  | arbiterDecision => exact tidy_execArbiterDecision h
  | suspicionDecay => exact tidy_execSuspicionDecay h
  | quarantineMigration => exact tidy_execQuarantineMigration h
  | migrateFail => exact tidy_execMigrateFail h
  | suspScoreWrite => exact tidy_execSuspScoreWrite h
  | suspLimitWrite => exact tidy_execSuspLimitWrite h
  | fatalFault => exact tidy_execFatalFault h
  | preDrain => exact tidy_execPreDrain h
  | preCut => exact tidy_execPreCut h
  | preEvict => exact tidy_execPreEvict h
  | preRestore => exact tidy_execPreRestore h
  | preForcedReset => exact tidy_execPreForcedReset h
  | preReleaseCut => exact tidy_execPreReleaseCut h
  | drainDeadline => exact tidy_execDrainDeadline h
  | cutDone => exact tidy_execCutDone h
  | cutTimeout => exact tidy_execCutTimeout h
  | ctxEvictTimeout => exact tidy_execCtxEvictTimeout h
  | evictionDrainDone => exact tidy_execEvictionDrainDone h
  | ctxEvqWrite => exact tidy_execCtxEvqWrite h
  | sevqGetWrite => exact tidy_execSevqGetWrite h
  | fabricRequest => exact tidy_execFabricRequest h
  | fabricAck => exact tidy_execFabricAck h
  | retrainBudgetExpiry => exact tidy_execRetrainBudgetExpiry h
  | portRetraining => exact tidy_execPortRetraining h
  | portUp => exact tidy_execPortUp h
  | portDown => exact tidy_execPortDown h
  | forcedn => exact tidy_execForcedn h
  | fabricLaunchPacket => exact tidy_execFabricLaunchPacket h
  | fabricLaunchReply => exact tidy_execFabricLaunchReply h
  | tokenRefill => exact tidy_execTokenRefill h
  | hostRead => exact tidy_execHostRead h
  | hostWrite => exact tidy_execHostWrite h
  | doorbell => exact tidy_execDoorbell h
  | hostLaunch => exact tidy_execHostLaunch h
  | leaveGrant => exact tidy_execLeaveGrant h
  | governorThrottle => exact tidy_execGovernorThrottle h
  | governorRecover => exact tidy_execGovernorRecover h
  | bhPwrWrite => exact tidy_execBhPwrWrite h
  | powerOn => exact tidy_execPowerOn h
  | imageVerify => exact tidy_execImageVerify h
  | ronuriStart => exact tidy_execRonuriStart h
  | bulkheadBringup => exact tidy_execBulkheadBringup h
  | hostStage => exact tidy_execHostStage h
  | bootOkWrite => exact tidy_execBootOkWrite h
  | bootTimeout => exact tidy_execBootTimeout h
  | functionLevelReset => exact tidy_execFunctionLevelReset h
  | mbxBegin => exact tidy_execMbxBegin h
  | mbxWrite => exact tidy_execMbxWrite h
  | mbxCommit => exact tidy_execMbxCommit h
  | mbxAbort => exact tidy_execMbxAbort h
  | tadreq => exact tidy_execTadreq h
  | spdmRequest => exact tidy_execSpdmRequest h
  | parkExpiry => exact tidy_execParkExpiry h
  | softError => exact tidy_execSoftError h
  | chorusFault => exact tidy_execChorusFault h
  | zeroLengthReadCompletion => exact tidy_execZeroLengthReadCompletion h
  | collCancel => exact tidy_execCollCancel h

end Sys2Proof.Machine
end

section
/-! SUPPORT. What Machine/Auto.lean defines keeps a state tidy: which agent moves. -/

namespace Sys2Proof.Machine

variable {mem tab : Prop} {s : State}

/-- The steps that the device takes by itself keep a tidy state. -/
theorem State.Tidy.ownStep {o : Own} (h : s.Tidy mem tab) : (s.ownStep o).Tidy mem tab := by
  unfold State.ownStep
  split
  · split
    · split
      · exact State.tidy_ite h.finishRestart h
      · exact h
    · exact h
  · split
    · exact h.fabReply
    · exact h
  · exact h.fabRefused
  · exact h.evictReplica
  · exact h.runOutside
  · exact State.tidy_ite h.loseLink h
  · exact h.tryRestore
  · exact h.trainPort
  · exact h.assignPeer
  · exact h.peerFailed
  · exact h.mapAperture
  · exact h.unmapAperture
  · exact h.msixWrite
  · exact h.msixSend
  · exact h.answerUnsupported
  · exact h.acceptLaunch
  · exact h.beginSelfTest
  · exact { h with }

end Sys2Proof.Machine
end

section
/-! SUPPORT. What Machine/Step.lean defines keeps a state tidy: one step of the device. -/

namespace Sys2Proof.Machine

variable {mem tab : Prop} {s : State}

theorem State.Tidy.runNext {gid : Nat} {slot : Bool} (h : s.Tidy mem tab) : Out.Tidy mem tab (s.runNext gid slot) := by
  unfold State.runNext
  split
  · exact .next (h.fetchNext.pair ‹_›)
  · exact tidy_exec (h.fetchNext.pair ‹_›)

theorem State.Tidy.timerFirst {s1 : State} {gid : Nat} {slot : Bool} (hs : s.Tidy mem tab) (hs1 : s1.Tidy mem tab) :
    (s.timerFirst s1 gid slot).Tidy mem tab :=
  State.tidy_ite (State.Tidy.takeTimer { hs with }) hs1

theorem State.Tidy.issue {gid : Nat} {slot : Bool} (h : s.Tidy mem tab) : Out.Tidy mem tab (s.issue gid slot) := by
  unfold State.issue
  split
  · exact .next h
  · split
    · exact Out.tidy_ite (.next h) (.next (h.timerFirst (h.runNext.of_next ‹_›)).afterIssue)
    · exact h.runNext

theorem State.Tidy.noteReady (h : s.Tidy mem tab) : s.noteReady.Tidy mem tab :=
  { h with groups := h.groups.map fun _ => rfl }

/-- Every agent keeps a tidy state. -/
theorem State.Tidy.act {a : Action} (h : s.Tidy mem tab) : Out.Tidy mem tab (s.act a) := by
  unfold State.act
  split
  · exact tidy_exec h
  · exact h.issue
  · exact .next h.ownStep

/-- A step of the device, whichever agent takes it, keeps a tidy state. -/
theorem tidy_step (h : s.Tidy mem tab) : Out.Tidy mem tab (step s) := by
  unfold step
  extract_lets s0
  have h0 : s0.Tidy mem tab := h.passTime.noteReady
  clear_value s0
  split
  · exact h0.withAgenda.act
  · split
    · exact h0.act
    · exact .next h0

end Sys2Proof.Machine
end

section
/-! Every step keeps the memories of the device in canonical form (O59). -/

namespace Sys2Proof.Claims
open Sys2Proof.Machine

/-- Settles O59: the memories are in canonical form exactly when the state is tidy with them, and a step,
whichever agent takes it, keeps a tidy state. -/
theorem memoriesStayCanonical : Obligations.Memories_stay_canonical := by
  intro s t hs hstep
  have htidy : s.Tidy True False := (State.memOk_iff_tidy s).1 hs
  exact (State.memOk_iff_tidy t).2 ((tidy_step htidy).of_next hstep)

end Sys2Proof.Claims
end

section
/-! SUPPORT. What the memory system leaves of a state: every operation of the home slices, of the L1s and of the translation
caches changes only what they hold, and what they post to the supervisor. It is one relation, `State.MemStep`, so that each
operation is walked through once, by a lemma that carries its name. -/

namespace Sys2Proof.Machine

/-- What a state keeps when only the memory system moves: the groups, the teams, the contexts, what is outstanding, the
shootdowns, and what the fabric and the hosts see. -/
structure State.MemStep (s t : State) : Prop where
  groups : t.groups = s.groups
  teams : t.teams = s.teams
  ctxs : t.ctxs = s.ctxs
  cur : t.cur = s.cur
  curSlot : t.curSlot = s.curSlot
  pends : t.pends = s.pends
  shoots : t.shoots = s.shoots
  shootGo : t.shootGo = s.shootGo
  shoot0 : t.shoot0 = s.shoot0
  shoot1 : t.shoot1 = s.shoot1
  fabCfg : t.fabCfg = s.fabCfg
  hostData : t.hostData = s.hostData

variable {s t : State}

theorem State.MemStep.refl (s : State) : s.MemStep s := ⟨rfl, rfl, rfl, rfl, rfl, rfl, rfl, rfl, rfl, rfl, rfl, rfl⟩

theorem State.MemStep.ite {u v : State} {q : Prop} [Decidable q] (hu : s.MemStep u) (hv : s.MemStep v) :
    s.MemStep (if q then u else v) := by
  split
  · exact hu
  · exact hv

theorem State.MemStep.foldl {β : Type} {l : List β} {f : State → β → State} (h : s.MemStep t)
    (hf : ∀ u b, s.MemStep u → s.MemStep (f u b)) : s.MemStep (l.foldl f t) :=
  List.foldlRecOn l f h fun u hu b _ => hf u b hu

theorem State.MemStep.group? (h : s.MemStep t) (gid : Nat) : t.group? gid = s.group? gid :=
  congrArg (Table.find · gid) h.groups

theorem State.MemStep.ctx (h : s.MemStep t) (asid : Nat) : t.ctx asid = s.ctx asid :=
  congrArg (Table.findD · asid Ctx.reset) h.ctxs

/-! What is written freely. -/

theorem State.MemStep.withHome {m : Memory} (h : s.MemStep t) : s.MemStep { t with home := m } := { h with }
theorem State.MemStep.withLines {l : Table Line} (h : s.MemStep t) : s.MemStep { t with lines := l } := { h with }
theorem State.MemStep.withOwners {o : Table (Nat × Nat)} (h : s.MemStep t) : s.MemStep { t with owners := o } := { h with }
theorem State.MemStep.withNet {n : List Msg} (h : s.MemStep t) : s.MemStep { t with net := n } := { h with }

theorem State.MemStep.fresh (h : s.MemStep t) : s.MemStep t.fresh.2 := { h with }

theorem State.MemStep.modCore {c : Nat} {f : Core → Core} (h : s.MemStep t) : s.MemStep (t.modCore c f) := { h with }

theorem State.MemStep.modBh {b : Nat} {f : Bulkhead → Bulkhead} (h : s.MemStep t) : s.MemStep (t.modBh b f) := { h with }

/-! The home slices. -/

theorem State.MemStep.rawStore {a n v : Nat} (h : s.MemStep t) : s.MemStep (t.rawStore a n v) := h.withHome

theorem State.MemStep.postSupRecord {kind cause d0 d1 : Nat} (h : s.MemStep t) :
    s.MemStep (t.postSupRecord kind cause d0 d1) := by
  unfold State.postSupRecord
  extract_lets a s1 s2
  have h2 : s.MemStep s2 := h.rawStore.rawStore.rawStore.rawStore
  clear_value s2
  exact .ite { h with } { h2 with }

theorem State.MemStep.postSup {c : Cause} {d0 d1 : Nat} (h : s.MemStep t) : s.MemStep (t.postSup c d0 d1) := h.postSupRecord

theorem State.MemStep.holeCheck {dpa who : Nat} (h : s.MemStep t) : s.MemStep (t.holeCheck dpa who) := .ite h h.postSup

theorem State.MemStep.setLine {l : Nat} {x : Line} (h : s.MemStep t) : s.MemStep (t.setLine l x) := .ite h.withLines h.withLines

theorem State.MemStep.touchDirty {dpa stamp : Nat} (h : s.MemStep t) : s.MemStep (t.touchDirty dpa stamp) := h.setLine

theorem State.MemStep.setPoison {w : Nat} {p : Option PoisonLevel} (h : s.MemStep t) : s.MemStep (t.setPoison w p) := by
  unfold State.setPoison
  split <;> exact { h with }

theorem State.MemStep.setLcs {b slice v : Nat} (h : s.MemStep t) : s.MemStep (t.setLcs b slice v) :=
  .ite h.modBh.postSup h.modBh

theorem State.MemStep.lcsStep {dpa : Nat} (h : s.MemStep t) : s.MemStep (t.lcsStep dpa).2 := h.setLcs

theorem State.MemStep.lcsTake {dpa counter : Nat} (h : s.MemStep t) : s.MemStep (t.lcsTake dpa counter) := h.setLcs

theorem State.MemStep.lccTake {core v : Nat} (h : s.MemStep t) : s.MemStep (t.lccTake core v) := h.modCore

theorem State.MemStep.meet {core dpa : Nat} (h : s.MemStep t) : s.MemStep (t.meet core dpa) := h.setLcs.lccTake

theorem State.MemStep.setMsg {m : Msg} (h : s.MemStep t) : s.MemStep (t.setMsg m) := h.withNet

theorem State.MemStep.dropL1 {core w : Nat} (h : s.MemStep t) : s.MemStep (t.dropL1 core w) := h.modCore

theorem State.MemStep.setL1 {core w : Nat} {x : L1Word} (h : s.MemStep t) : s.MemStep (t.setL1 core w x) := h.modCore

theorem State.MemStep.takeBack {w : Nat} (h : s.MemStep t) : s.MemStep (t.takeBack w) := by
  unfold State.takeBack
  split
  · exact h
  · extract_lets s1
    have h1 : s.MemStep s1 := h.withOwners
    clear_value s1
    split
    · exact h1.touchDirty
    · exact .ite h1.withHome.setPoison.touchDirty.dropL1 h1.touchDirty

theorem State.MemStep.recall {m : Msg} (h : s.MemStep t) : s.MemStep (t.recall m) := by
  unfold State.recall
  extract_lets s1 old s2 r
  have h1 : s.MemStep s1 := h.foldl fun _ _ hu => hu.takeBack
  clear_value s1
  refine .ite h1.withHome.setMsg (.ite ?_ h1.setMsg)
  split
  · exact h1.setMsg
  · exact (h1.withHome.foldl fun _ _ hu => hu.setPoison).setMsg

theorem State.MemStep.settle {w : Nat} (h : s.MemStep t) : s.MemStep (t.settle w) := by
  unfold State.settle
  split
  · exact h
  · split
    · exact h.meet.recall
    · exact h.meet.takeBack

theorem State.MemStep.settleAll {dpa n : Nat} (h : s.MemStep t) : s.MemStep (t.settleAll dpa n) := h.foldl fun _ _ hu => hu.settle

theorem State.MemStep.settleLine {l : Nat} (h : s.MemStep t) : s.MemStep (t.settleLine l) :=
  h.foldl fun _ _ hu => .ite hu.settle hu

theorem State.MemStep.writeBackLine {l : Nat} (h : s.MemStep t) : s.MemStep (t.writeBackLine l) := by
  unfold State.writeBackLine
  extract_lets s1 x s2
  have h1 : s.MemStep s1 := h.settleLine
  have h2 : s.MemStep s2 := h1.setLine
  clear_value s2
  generalize Memory.bytes s1.home (128 * l) 128 = bs
  exact .ite { h2 with } h1

theorem State.MemStep.evictL2 {l : Nat} (h : s.MemStep t) : s.MemStep (t.evictL2 l) := h.writeBackLine.withLines

theorem State.MemStep.makeRoom {l : Nat} (h : s.MemStep t) : s.MemStep (t.makeRoom l).2 := by
  unfold State.makeRoom
  extract_lets mates loose
  split
  · exact h
  · split
    · exact h.evictL2
    · exact h

theorem State.MemStep.markDirty {dpa stamp : Nat} (h : s.MemStep t) : s.MemStep (t.markDirty dpa stamp) :=
  .ite h.makeRoom.touchDirty h.makeRoom.touchDirty.writeBackLine

theorem State.MemStep.testWatches {dpa n : Nat} (h : s.MemStep t) : s.MemStep (t.testWatches dpa n) :=
  .ite h h.modBh.withNet

/-- A write of the device outside populated memory is dropped (R30). -/
theorem State.devWrite_hole {dpa n v : Nat} (h : dpaPopulated dpa = false) : s.devWrite dpa n v = s.holeCheck dpa 0 := by
  simp only [State.devWrite, State.homeWrite, h]
  rfl

/-- A write of the device meets no object (R100): its words return to the home slice, which stores and stamps them. -/
theorem State.devWrite_populated {dpa n v : Nat} (h : dpaPopulated dpa = true) :
    s.devWrite dpa n v =
      let s2 := ((s.settleAll dpa n).lcsStep dpa).2
      let s4 := (wholeWords dpa n).foldl (fun s w => s.setPoison w none) { s2 with home := Memory.store s2.home dpa n v }
      (s4.markDirty dpa ((s.settleAll dpa n).lcsStep dpa).1).testWatches dpa n := by
  simp only [State.devWrite, State.homeWrite, h]
  rfl

theorem State.MemStep.devWrite {dpa n v : Nat} (h : s.MemStep t) : s.MemStep (t.devWrite dpa n v) := by
  cases hp : dpaPopulated dpa
  · rw [State.devWrite_hole hp]
    exact h.holeCheck
  · rw [State.devWrite_populated hp]
    extract_lets s2 s4
    have h2 : s.MemStep s2 := h.settleAll.lcsStep
    have h4 : s.MemStep s4 := h2.withHome.foldl fun _ _ hu => hu.setPoison
    exact h4.markDirty.testWatches

/-! Translation and the checks of an address. -/

theorem State.MemStep.fillTlb {v : Via} {write : Bool} {e level addr va : Nat} (h : s.MemStep t) :
    s.MemStep (t.fillTlb v write e level addr va) := by
  unfold State.fillTlb
  extract_lets want e1 s1
  have h1 : s.MemStep s1 := .ite h h.devWrite
  clear_value s1
  split
  · exact h1
  · extract_lets
    exact { h1 with }

theorem State.MemStep.translate {v : Via} {k : AccessKind} {va : Nat} (h : s.MemStep t) : s.MemStep (t.translate v k va).2 := by
  unfold State.translate
  split
  · exact h
  · split
    · exact h
    · split
      · exact h
      · split
        · exact h
        · exact h.fillTlb

theorem State.MemStep.placeGlobal {q : Asker} {k : AccessKind} {pv : Bool} {va : Nat} {shown : DWord} (h : s.MemStep t) :
    s.MemStep (t.placeGlobal q k pv va shown).2 := by
  have h1 := h.translate (v := q.via pv) (k := k) (va := va)
  unfold State.placeGlobal
  generalize t.translate (q.via pv) k va = x at h1 ⊢
  obtain ⟨_ | _, s1⟩ := x
  · dsimp only
    split <;> exact h1
  · exact h1

theorem State.MemStep.place {q : Asker} {k : AccessKind} {lane : Nat} {w : Window} {a : DWord} (h : s.MemStep t) :
    s.MemStep (t.place q k lane w a).2 := by
  unfold State.place
  split
  · split <;> exact h
  · exact h
  · exact h.placeGlobal
  · exact h
  · exact h
  · exact h.placeGlobal

theorem State.MemStep.placeAll {q : Asker} {k : AccessKind} {lane : Nat} {w : Window} {a : DWord} {ps : List (Nat × Nat)}
    (h : s.MemStep t) : s.MemStep (t.placeAll q k lane w a ps).2 := by
  induction ps generalizing t with
  | nil => exact h
  | cons p ps ih =>
    obtain ⟨off, n⟩ := p
    have h1 := h.place (q := q) (k := k) (lane := lane) (w := w) (a := a + BitVec.ofNat 64 off)
    unfold State.placeAll
    generalize t.place q k lane w (a + BitVec.ofNat 64 off) = x at h1 ⊢
    obtain ⟨_ | _, s1⟩ := x
    · exact h1
    · have h2 := ih h1
      dsimp only
      generalize s1.placeAll q k lane w a ps = y at h2 ⊢
      obtain ⟨_ | _, s2⟩ := y <;> exact h2

theorem State.MemStep.resolve {q : Asker} {r : Reach} {k : AccessKind} {align : Bool} {lane : Nat} {a : DWord} {n : Nat}
    (h : s.MemStep t) : s.MemStep (t.resolve q r k align lane a n).2 := by
  unfold State.resolve
  extract_lets last bad
  split
  · exact h
  · split
    · exact h
    · split
      · exact h
      · split
        · exact h
        · split
          · exact h
          · exact h.placeAll

theorem State.MemStep.resolveT {q : Asker} {x : TransReg} {r : Reach} {k : AccessKind} {align : Bool} {lane : Nat} {o : DWord}
    {n : Nat} (h : s.MemStep t) : s.MemStep (t.resolveT q x r k align lane o n).2 := by
  unfold State.resolveT
  extract_lets va
  split
  · split
    · exact h
    · split
      · exact h
      · split <;> exact h
  · split
    · exact h.resolve
    · exact h
    · exact h

/-- A lane's element resolved moves only the memory system, whether its checks pass or not. -/
theorem State.MemStep.resolveAt {q : Asker} {r : Reach} {k : AccessKind} {align : Bool} {lane : Nat} {x : LaneAt} {n : Nat}
    (h : s.MemStep t) : s.MemStep (t.resolveAt q r k align lane x n).2 := by
  unfold State.resolveAt
  split
  · exact h.resolve
  · exact h.resolveT
  · next va =>
    refine List.foldlRecOn (motive := fun acc : Except AddrFault Pieces × State => s.MemStep acc.2) _ _ h ?_
    intro acc hacc p _
    obtain ⟨_ | l, u⟩ := acc
    · exact hacc
    · have h1 := State.MemStep.placeGlobal (q := q) (k := k) (pv := true) (va := va + p.1) (shown := BitVec.ofNat 64 va) hacc
      dsimp only at h1 ⊢
      generalize u.placeGlobal q k true (va + p.1) (BitVec.ofNat 64 va) = y at h1 ⊢
      obtain ⟨_ | _, v⟩ := y <;> exact h1
  · exact h

theorem State.MemStep.resolveLanes {go : State → Nat → Except AddrFault Pieces × State} {lanes : List Nat}
    (h : s.MemStep t) (hgo : ∀ u i, s.MemStep u → s.MemStep (go u i).2) : s.MemStep (t.resolveLanes go lanes).2 := by
  induction lanes generalizing t with
  | nil => exact h
  | cons i lanes ih =>
    have h1 := ih (hgo t i h)
    unfold State.resolveLanes
    dsimp only
    split <;> exact h1

end Sys2Proof.Machine
end

section
/-! SUPPORT. The host port (R143, R425, R427): what each access of a host answers, case by case. -/

namespace Sys2Proof.Machine
open Sys2Proof.Claims

section HostPort

variable {s : State} {vf q offset n : Nat} {data : List Byte}

/-! An access through the aperture. -/

theorem execHostRead_down (h : s.endpointUp = false) : execHostRead vf offset n s = .next s := by
  simp [execHostRead, h]

theorem execHostWrite_down (h : s.endpointUp = false) : execHostWrite vf offset data s = .next s := by
  simp [execHostWrite, h]

theorem execHostRead_unmapped (h : s.endpointUp = true) (hm : hostMaps s vf offset n = none) :
    execHostRead vf offset n s = .next ((s.postSup .dpaHole offset 1).toHost vf (List.replicate n 0xFF)) := by
  have hm' : (if s.vfShape vf then s.mapped vf offset n else none) = none := hm
  simp [execHostRead, h, hm']

theorem execHostWrite_unmapped (h : s.endpointUp = true) (hm : hostMaps s vf offset data.length = none) :
    execHostWrite vf offset data s = .next (s.postSup .dpaHole offset 1) := by
  have hm' : (if s.vfShape vf then s.mapped vf offset data.length else none) = none := hm
  simp [execHostWrite, h, hm']

section Mapped

variable {asid va : Nat}

theorem execHostRead_done (h : s.endpointUp = true) (hm : hostMaps s vf offset n = some (asid, va))
    (hb : s.hostBehind = false) {v : Nat} {p : Bool} {s1 : State} (hr : s.outsideRead true asid va n = .done (v, p) s1) :
    execHostRead vf offset n s = .next (s1.toHost vf (bytesFrom v n)) := by
  have hm' : (if s.vfShape vf then s.mapped vf offset n else none) = some (asid, va) := hm
  simp [execHostRead, h, hm', hb, hr]

theorem execHostRead_fault (h : s.endpointUp = true) (hm : hostMaps s vf offset n = some (asid, va))
    (hb : s.hostBehind = false) {c : Cause} (hr : s.outsideRead true asid va n = .fault c) :
    execHostRead vf offset n s = .next (s.keepOutside (some vf) asid va n .read (some c)) := by
  have hm' : (if s.vfShape vf then s.mapped vf offset n else none) = some (asid, va) := hm
  simp [execHostRead, h, hm', hb, hr]

theorem execHostWrite_done (h : s.endpointUp = true) (hm : hostMaps s vf offset data.length = some (asid, va))
    (hb : s.hostBehind = false) {c : Option Cause} {s1 : State}
    (hw : s.outsideWrite true asid va data.length (fromBytes data) false = .done c s1) :
    execHostWrite vf offset data s = .next s1 := by
  have hm' : (if s.vfShape vf then s.mapped vf offset data.length else none) = some (asid, va) := hm
  simp [execHostWrite, h, hm', hb, hw]

theorem execHostWrite_behind (h : s.endpointUp = true) (hm : hostMaps s vf offset data.length = some (asid, va))
    (hb : s.hostBehind = true) :
    execHostWrite vf offset data s = .next (s.keepOutside (some vf) asid va data.length (.write data) none) := by
  have hm' : (if s.vfShape vf then s.mapped vf offset data.length else none) = some (asid, va) := hm
  simp [execHostWrite, h, hm', hb]

end Mapped

/-! A doorbell. -/

theorem execDoorbell_idle (h : s.endpointUp = false ∨ (entry8 s.tntShape vf).getLsbD 63 = false) :
    execDoorbell vf q n s = .next s := by
  have hs : (s.endpointUp && s.vfShape vf) = false := Bool.and_eq_false_iff.2 h
  simp [execDoorbell, hs]

theorem execDoorbell_behind (h : s.endpointUp = true) (hs : (entry8 s.tntShape vf).getLsbD 63 = true)
    (hb : s.hostBehind = true) : execDoorbell vf q n s = .next (s.keepOutside (some vf) 0 0 0 (.doorbell q n) none) := by
  have hs' : s.vfShape vf = true := hs
  simp [execDoorbell, h, hs', hb]

theorem execDoorbell_rings (h : s.endpointUp = true) (hs : (entry8 s.tntShape vf).getLsbD 63 = true)
    (hb : s.hostBehind = false) : execDoorbell vf q n s = .next (s.ring vf q n) := by
  have hs' : s.vfShape vf = true := hs
  simp [execDoorbell, h, hs', hb]

/-! A launch. -/

theorem bellKey_rung (vf q : Nat) : bellKey vf q false = 16 * (vf % 8) + q % 16 := by simp [bellKey]

theorem bellKey_taken (vf q : Nat) : bellKey vf q true = 256 + 16 * (vf % 8) + q % 16 := by simp [bellKey]

theorem execHostLaunch_down {r : DWord} {b : Nat} (h : s.endpointUp = false) : execHostLaunch vf q r b s = .next s := by
  simp [execHostLaunch, h]

/-- The dispatcher takes the next entry of a queue that a doorbell has filled and of which no launch waits for the plex: it is
refused outside the tenant's shape, and else launched. -/
theorem execHostLaunch_taken {r : DWord} {b : Nat} (h : s.endpointUp = true) (hk : noKeptLaunch s vf q)
    (hb : Table.findD s.doorbells (bellKey vf q true) 0 ≠ Table.findD s.doorbells (bellKey vf q false) 0) :
    let s0 : State := { s with
      doorbells := Table.set s.doorbells (bellKey vf q true) (Table.findD s.doorbells (bellKey vf q true) 0 + 1) }
    (b ∉ shapeBulkheads (entry8 s.tntShape vf) → execHostLaunch vf q r b s = .next (s0.tellHost vf .launchRefused)) ∧
    ((entry8 s.tntShape vf).getLsbD 63 = true → b ∈ shapeBulkheads (entry8 s.tntShape vf) →
      (entry8 s.tntQrate vf).getLsbD (48 + q % 16) = true → ∀ k s1,
      s0.launchOutside true (bits (s.fabEntry (vf % 8)) 63 48) b q r = .done (.ok k) s1 →
      execHostLaunch vf q r b s = .next s1) := by
  unfold execHostLaunch
  extract_lets s0 taken kept s0' shape rate asid
  have hkept : kept = false := List.any_eq_false.2 fun x hx hq => by
    obtain ⟨hvf, hkind⟩ := Bool.and_eq_true_iff.1 hq
    split at hkind
    · next b' k' hx' => exact hk x hx (eq_of_beq hvf) b' (by rw [hx', eq_of_beq hkind])
    · cases hkind
  have hopen : (!s.endpointUp || kept || taken == Table.findD s.doorbells (bellKey vf q false) 0) = false := by
    simp [h, hkept, taken, hb]
  rw [hopen, if_neg Bool.false_ne_true]
  refine ⟨fun hout => ?_, fun hv hin hm k s1 hl => ?_⟩
  · have hr : (shapeBulkheads shape).contains b = false := Bool.eq_false_iff.2 fun hc => hout (List.contains_iff_mem.1 hc)
    rw [hr, if_pos (by simp)]
  · have hshape : shape.getLsbD 63 = true := hv
    have hbh : (shapeBulkheads shape).contains b = true := List.contains_iff_mem.2 hin
    have hmask : rate.getLsbD (48 + q % 16) = true := hm
    rw [hshape, hbh, hmask, if_neg (by decide), hl]

/-- The zero-length read flushes the posted writes, and ends the wait of a group at a `.sys` operation (R143). -/
theorem execZeroLengthReadCompletion_flushes {g : Nat} : ∃ t, execZeroLengthReadCompletion g s = .next t ∧
    t.hostWrites = 0 ∧ t.home = s.home ∧
      ∀ x, s.group? g = some x → x.wait = .sysRelease → t.group? g = some { x with zeroRead := true } := by
  refine ⟨_, rfl, rfl, rfl, fun x hx hw => ?_⟩
  have hx' : State.group? { s with hostWrites := 0 } g = some x := hx
  rw [State.group_modGroup, hx', Option.map_some]
  simp [hw]

end HostPort
end Sys2Proof.Machine
end

section
/-! The host port (O47). -/

namespace Sys2Proof.Claims
open Sys2Proof.Machine

/-- Settles O47: each access of a host answers as its case of the host port says. -/
theorem hostPort : Obligations.Host_port := by
  intro s vf q offset n data
  refine ⟨fun h => ⟨execHostRead_down h, execHostWrite_down h, execDoorbell_idle (.inl h), fun _ _ => execHostLaunch_down h⟩,
    fun h hm => ?_, fun asid va v p s1 h hm hb hr => execHostRead_done h hm hb hr, fun asid va c h hm hb hr => ?_,
    fun h hm => execHostWrite_unmapped h hm, fun asid va c s1 h hm hb hw => execHostWrite_done h hm hb hw,
    fun asid va h hm hb => ?_, fun h hs hb => ?_, fun h hs hb => ?_, fun hs => execDoorbell_idle (.inr hs),
    fun r b h hk hb hout => ?_, fun r b k s1 h hk hb hv hin hm hl => ?_, fun g => execZeroLengthReadCompletion_flushes⟩
  · have hp : s.MemStep (s.postSup .dpaHole offset 1) := (State.MemStep.refl s).postSup
    exact ⟨_, execHostRead_unmapped h hm, congrArg (· ++ _) hp.hostData, hp.groups, hp.teams⟩
  · exact ⟨_, execHostRead_fault h hm hb hr, rfl, rfl, _, rfl, rfl, rfl, rfl⟩
  · exact ⟨_, execHostWrite_behind h hm hb, rfl, _, rfl, rfl, rfl, rfl⟩
  · exact ⟨_, execDoorbell_behind h hs hb, rfl, _, rfl, rfl, rfl⟩
  · refine ⟨_, execDoorbell_rings h hs hb, ?_, rfl, rfl⟩
    rw [← bellKey_rung]
    exact Table.find_set_same _ _ _
  · rw [← bellKey_rung, ← bellKey_taken] at hb
    exact ⟨_, (execHostLaunch_taken h hk hb).1 hout, rfl, rfl⟩
  · rw [← bellKey_rung, ← bellKey_taken] at hb
    rw [← bellKey_taken] at hl
    exact (execHostLaunch_taken h hk hb).2 hv hin hm k s1 hl

end Sys2Proof.Claims
end

section
/-! SUPPORT. What retiring leaves (R222): the slot's PC and SIG move on, the waits are over, and nothing else of any group
changes. -/

namespace Sys2Proof.Machine

@[simp] theorem PcSlot.feed_mask (p : PcSlot) (op : Byte) : (p.feed op).mask = p.mask := by
  unfold PcSlot.feed
  split <;> rfl

/-- A slot after an instruction of some words: its byte is fed and its PC has passed it. -/
def PcSlot.passed (p : PcSlot) (op : Byte) (words age : Nat) : PcSlot :=
  { p.feed op with pc := p.pc + BitVec.ofNat 64 (4 * words), segment := none, age := age }

@[simp] theorem PcSlot.passed_pc (p : PcSlot) (op : Byte) (words age : Nat) :
    (p.passed op words age).pc = p.pc + BitVec.ofNat 64 (4 * words) := rfl

@[simp] theorem PcSlot.passed_sig (p : PcSlot) (op : Byte) (words age : Nat) :
    (p.passed op words age).sig = (p.feed op).sig := rfl

@[simp] theorem PcSlot.passed_mask (p : PcSlot) (op : Byte) (words age : Nat) : (p.passed op words age).mask = p.mask :=
  p.feed_mask op

/-- A group whose slot has passed an instruction, with the wait that it then has. -/
def Group.passed (g : Group) (slot : Bool) (op : Byte) (words age : Nat) (w : Wait) (ws wc : Nat) : Group :=
  { g.setPc slot ((g.pc slot).passed op words age) with wait := w, waitSince := ws, waitClock := wc }

section Passed

variable (g : Group) (slot : Bool) (op : Byte) (words age : Nat) (w : Wait) (ws wc : Nat)

@[simp] theorem Group.passed_s : (g.passed slot op words age w ws wc).s = g.s := by cases slot <;> rfl
@[simp] theorem Group.passed_v : (g.passed slot op words age w ws wc).v = g.v := by cases slot <;> rfl
@[simp] theorem Group.passed_k : (g.passed slot op words age w ws wc).k = g.k := by cases slot <;> rfl
@[simp] theorem Group.passed_e : (g.passed slot op words age w ws wc).e = g.e := by cases slot <;> rfl
@[simp] theorem Group.passed_rdT (n : Nat) : (g.passed slot op words age w ws wc).rdT n = g.rdT n := by cases slot <;> rfl

end Passed

variable {s : State} {gid : Nat} {slot : Bool} {op : Byte} {words : Nat}

/-- A slot counted as retired: its ready age restarts and its waits are over (R162, R440). -/
theorem State.group?_retired {g : Group} (h : s.group? gid = some g) : (s.retired gid slot).group? gid =
    some { g.modPc slot fun p => { p with age := s.tick } with
      wait := if g.wait.blocks then g.wait else .none, waitSince := s.cyc (coreOf gid), waitClock := s.clock } := by
  unfold State.retired
  rw [h]
  exact State.group_setGroup _ gid _

theorem State.group?_retired_other {j : Nat} (h : j ≠ gid) : (s.retired gid slot).group? j = s.group? j := by
  unfold State.retired
  split
  · rfl
  · exact State.group_setGroup_other _ _ _ _ h

/-- The group that retires has passed its instruction. -/
theorem State.group?_retire {g : Group} (h : s.group? gid = some g) : (s.retire gid slot op words).group? gid =
    some (g.passed slot op words s.tick (if g.wait.blocks then g.wait else .none) (s.cyc (coreOf gid)) s.clock) := by
  unfold State.retire
  rw [State.group?_retired (by rw [State.group_modGroup, h, Option.map_some])]
  cases slot <;> rfl

theorem State.group?_retire_other {j : Nat} (h : j ≠ gid) : (s.retire gid slot op words).group? j = s.group? j :=
  (State.group?_retired_other h).trans (State.group_modGroup_other _ _ _ _ h)

end Sys2Proof.Machine

namespace Sys2Proof.Claims
open Sys2Proof.Machine

variable {s : State} {g h : Group} {op : Byte} {words age ws wc : Nat} {w : Wait}

/-- A group that differs from the current one outside its slots, once it has passed its instruction. -/
theorem passes_passed (h0 : h.slot0 = g.slot0) (h1 : h.slot1 = g.slot1) :
    passes s g (h.passed s.curSlot op words age w ws wc) op words := by
  cases hb : s.curSlot <;> simp [passes, Group.passed, Group.setPc, Group.pc, pcOf, hb, h0, h1]

theorem keepsOthers_passed {slot : Bool} {ds : List Byte} {vs : List Nat} (hk : keepsOthers g h ds vs) :
    keepsOthers g (h.passed slot op words age w ws wc) ds vs := by
  cases slot <;> exact hk

end Sys2Proof.Claims
end

section
/-! SUPPORT. The translation instructions `xlat` and `xlatq` (R62, R257, R327). -/

namespace Sys2Proof.Machine
open Sys2Proof.Claims

variable {s : State} {g : Group} {f : ExtM}

/-- An instruction of class M that is ready runs its body. -/
theorem State.execM_ready {op : Byte} {body : Group → State → Res} (h : ready s g (namedM op f)) :
    s.execM op f body = .next (finish s.cur s.curSlot op 3 (body g s)) :=
  State.issueWith_run h.1 h.2

/-- No acquire of the group is outstanding (R127). -/
theorem State.acquiring_eq_false (h : ∀ q ∈ s.pends, q.gid = s.cur → q.acq = true → q.hold = true) :
    s.acquiring (s.acc g) = false := by
  refine List.any_eq_false.2 fun q hq hb => ?_
  obtain ⟨⟨hgid, hacq⟩, hhold⟩ : (q.gid = s.cur ∧ q.acq = true) ∧ q.hold = false := by simpa [State.acc] using hb
  rw [h q hq hgid hacq] at hhold
  cases hhold

/-- A group changed where it is present. -/
theorem State.modGroup_eq_setGroup {gid : Nat} {fn : Group → Group} (h : s.group? gid = some g) :
    s.modGroup gid fn = s.setGroup gid (fn g) := by
  have h' : Table.find s.groups gid = some g := h
  simp only [State.modGroup, State.setGroup, Table.modify, h']

/-! The window checks of the instructions that accept only the global window (R15, R28). -/

theorem State.windowCheck_global {k : AccessKind} {a : DWord} (hc : canonical a = true) (hw : windowOf a = .global) :
    s.windowCheck (s.asker s.cur g) .globalOnly k a = .ok .global := by
  simp [State.windowCheck, State.asker, hc, hw, mbzOk, windowAdmits]

theorem State.windowCheck_outside {q : Asker} {k : AccessKind} {a : DWord} (hc : canonical a = true)
    (hw : windowOf a ≠ .global) : s.windowCheck q .globalOnly k a = .error .addrWindow := by
  have hadmits : windowAdmits (windowOf a) .globalOnly k = false := by
    cases h : windowOf a <;> simp_all [windowAdmits]
  simp [State.windowCheck, hc, hadmits]

/-- The trap of an address that a scalar-pipe instruction refuses has its cause. -/
theorem pipeTrap_cause (kind : BitVec 2) (x : AddrFault) : (pipeTrap kind x).cause = x.cause := rfl

/-! `xlat` -/

theorem xlatBody_ok {dpa e l : Nat} {s1 : State} (ha : s.acquiring (s.acc g) = false)
    (hc : canonical (g.rdS f.a + dispOf f) = true) (hw : windowOf (g.rdS f.a + dispOf f) = .global)
    (ht : s.translate ((s.asker s.cur g).via false) .xlat (g.rdS f.a + dispOf f).toNat = (.ok dpa e l, s1)) :
    xlatBody f g s = .ok (s1.modGroup s.cur fun h => h.wrT f.d.toNat (transOf e l (g.rdS f.a + dispOf f).toNat)) := by
  simp only [xlatBody, ha, State.windowCheck_global hc hw, ht, bne_self_eq_false, Bool.false_eq_true, if_false]

theorem xlatBody_outside (ha : s.acquiring (s.acc g) = false) (hc : canonical (g.rdS f.a + dispOf f) = true)
    (hw : windowOf (g.rdS f.a + dispOf f) ≠ .global) : xlatBody f g s =
      .trap (pipeTrap 3 { cause := .addrWindow, addr := g.rdS f.a + dispOf f, level := 0 }) s := by
  simp only [xlatBody, ha, State.windowCheck_outside hc hw]
  rfl

/-! `xlatq` -/

theorem xlatqBody_ok (hc : canonical (g.rdS f.a + dispOf f) = true) (hw : windowOf (g.rdS f.a + dispOf f) = .global) :
    xlatqBody f g s = .ok (s.modGroup s.cur fun h => h.wrS f.d (BitVec.ofNat 64 (s.xlatq h (g.rdS f.a + dispOf f).toNat))) := by
  simp only [xlatqBody, State.windowCheck_global hc hw]
  rfl

theorem xlatqBody_outside (hc : canonical (g.rdS f.a + dispOf f) = true)
    (hw : windowOf (g.rdS f.a + dispOf f) ≠ .global) : xlatqBody f g s =
      .trap (pipeTrap 0 { cause := .addrWindow, addr := g.rdS f.a + dispOf f, level := 0 }) s := by
  simp only [xlatqBody, State.windowCheck_outside hc hw]

end Sys2Proof.Machine

namespace Sys2Proof.Claims
open Sys2Proof.Machine

variable {s : State} {g : Group} {f : ExtM}

/-- The register that `xlat` fills reads back the leaf's bits (R62). -/
theorem rdT_wrT_transOf (e l : Nat) (a : DWord) (d : Nat) :
    let r := (g.wrT d (transOf e l a.toNat)).rdT d
    r.v = true ∧ r.w = leafW e ∧ r.cw = leafCW e ∧ r.fz = leafFZ e ∧ r.nc = leafNC e ∧ r.s = leafS e ∧
      r.va = a.extractLsb' 0 56 ∧ r.frame = BitVec.ofNat 23 (leafDpa e l a.toNat / 2 ^ 16) := by
  rw [Group.rdT_wrT]
  refine ⟨rfl, rfl, rfl, rfl, rfl, rfl, ?_, rfl⟩
  apply BitVec.eq_of_toNat_eq
  simp [transOf, BitVec.extractLsb'_toNat]

theorem rdT_wrT_other {d k : Nat} {r : TransReg} (hk : k < 8) (h : k ≠ d % 8) : (g.wrT d r).rdT k = g.rdT k := by
  have h' : d % 8 ≠ k % 8 := by omega
  simp [Group.rdT, Group.wrT, h']

/-- `xlat` of a leaf retires with its translation register filled. -/
theorem exec_xlat {dpa e l : Nat} {s1 : State} (hr : ready s g (namedM 0x34 f))
    (hcalm : ∀ q ∈ s.pends, q.gid = s.cur → q.acq = true → q.hold = true) (hc : canonical (g.rdS f.a + dispOf f) = true)
    (hw : windowOf (g.rdS f.a + dispOf f) = .global)
    (ht : s.translate ((s.asker s.cur g).via false) .xlat (g.rdS f.a + dispOf f).toNat = (.ok dpa e l, s1)) :
    exec (.xlat f) s = retires s (s1.setGroup s.cur (g.wrT f.d.toNat (transOf e l (g.rdS f.a + dispOf f).toNat))) 0x34 3 ∧
      s.MemStep s1 := by
  have hstep : s.MemStep s1 := by
    have h := State.MemStep.translate (v := (s.asker s.cur g).via false) (k := .xlat) (va := (g.rdS f.a + dispOf f).toNat)
      (State.MemStep.refl s)
    rwa [ht] at h
  have hg1 : s1.group? s.cur = some g := (hstep.group? s.cur).trans (State.current_eq hr.1).1
  refine ⟨(State.execM_ready hr).trans ?_, hstep⟩
  rw [xlatBody_ok (State.acquiring_eq_false hcalm) hc hw ht, State.modGroup_eq_setGroup hg1]
  rfl

/-- R62, R257, R327: the translation instructions. -/
theorem translations_hold : translations := by
  intro s g f
  refine ⟨fun dpa e l s1 hr hcalm hc hw ht => ?_, fun hr hc hw => ?_, fun hc hw => ⟨fun hr hcalm => ?_, fun hr => ?_⟩⟩
  · obtain ⟨hexec, hstep⟩ := exec_xlat hr hcalm hc hw ht
    obtain ⟨hv, hw', hcw, hfz, hnc, hs, hva, hfr⟩ := rdT_wrT_transOf (g := g) e l (g.rdS f.a + dispOf f) f.d.toNat
    refine ⟨_, _, hexec, State.group?_retire (State.group_setGroup _ _ _), passes_passed rfl rfl, ?_⟩
    simp only [Group.passed_rdT, Group.passed_s, Group.passed_v, Group.passed_k]
    exact ⟨hv, hw', hcw, hfz, hnc, hs, hva, hfr, fun k hk hne => rdT_wrT_other hk hne, rfl, rfl, rfl, fun n hn =>
      (State.group?_retire_other hn).trans ((State.group_setGroup_other _ _ _ _ hn).trans (hstep.group? n))⟩
  · refine (State.execM_ready hr).trans ?_
    rw [xlatqBody_ok hc hw, State.modGroup_eq_setGroup (State.current_eq hr.1).1]
    rfl
  · exact ⟨_, rfl, (State.execM_ready hr).trans (by rw [xlatBody_outside (State.acquiring_eq_false hcalm) hc hw]; rfl)⟩
  · exact ⟨_, rfl, (State.execM_ready hr).trans (by rw [xlatqBody_outside hc hw]; rfl)⟩

end Sys2Proof.Claims
end

section
/-! SUPPORT. What sending a message leaves (R89, R115, R141, R315): only the network, the redirect entries and what waits for
the fabric change, so that every word reads as before. -/

namespace Sys2Proof.Machine

/-- Every word of memory is held as before: at home, by its owner, and in every L1. -/
structure State.SameWords (s t : State) : Prop where
  home : t.home = s.home
  owners : t.owners = s.owners
  l1 : ∀ core, (t.core core).l1 = (s.core core).l1

variable {s t : State}

theorem State.SameWords.refl (s : State) : s.SameWords s := ⟨rfl, rfl, fun _ => rfl⟩

theorem State.SameWords.wordNow (h : s.SameWords t) (w : Nat) : t.wordNow w = s.wordNow w := by
  simp only [State.wordNow, State.owner, State.l1, State.homeWord, h.home, h.owners, h.l1]

theorem State.SameWords.byteNow (h : s.SameWords t) (a : Nat) : t.byteNow a = s.byteNow a := by
  simp only [State.byteNow, h.wordNow]

theorem State.SameWords.ite {u v : State} {q : Prop} [Decidable q] (hu : s.SameWords u) (hv : s.SameWords v) :
    s.SameWords (if q then u else v) := by
  split
  · exact hu
  · exact hv

theorem State.SameWords.modCore {c : Nat} {f : Core → Core} (h : s.SameWords t) (hf : (f (t.core c)).l1 = (t.core c).l1) :
    s.SameWords (t.modCore c f) := by
  refine ⟨h.home, h.owners, fun core => ?_⟩
  by_cases hc : core = c
  · subst hc
    rw [State.core_modCore, hf, h.l1]
  · rw [State.core_modCore_other _ _ _ _ hc, h.l1]

theorem State.SameWords.modBh {b : Nat} {f : Bulkhead → Bulkhead} (h : s.SameWords t) : s.SameWords (t.modBh b f) := { h with }

theorem State.SameWords.modGroup {gid : Nat} {f : Group → Group} (h : s.SameWords t) : s.SameWords (t.modGroup gid f) := { h with }

theorem State.SameWords.consume {gid : Nat} {c : Option Cause} (h : s.SameWords t) : s.SameWords (t.consume gid c) := by
  unfold State.consume
  split
  · exact h
  · exact h.modGroup

theorem State.SameWords.retire {gid : Nat} {slot : Bool} {op : Byte} {words : Nat} (h : s.SameWords t) :
    s.SameWords (t.retire gid slot op words) := by
  unfold State.retire State.retired
  split
  · exact h.modGroup
  · exact { h with }

/-! A message sent. -/

theorem State.SameWords.setRedirects {bh ni : Nat} {rs : List Redirect} (h : s.SameWords t) :
    s.SameWords (t.setRedirects bh ni rs) := .ite (h.modCore rfl) h.modBh

theorem State.MemStep.setRedirects {bh ni : Nat} {rs : List Redirect} (h : s.MemStep t) :
    s.MemStep (t.setRedirects bh ni rs) := .ite h.modCore h.modBh

theorem State.MemStep.ite_snd {α : Type} {x y : α × State} {q : Prop} [Decidable q] (hx : s.MemStep x.2) (hy : s.MemStep y.2) :
    s.MemStep (if q then x else y).2 := by
  split
  · exact hx
  · exact hy

theorem State.SameWords.ite_snd {α : Type} {x y : α × State} {q : Prop} [Decidable q] (hx : s.SameWords x.2)
    (hy : s.SameWords y.2) : s.SameWords (if q then x else y).2 := by
  split
  · exact hx
  · exact hy

theorem State.MemStep.route {bh ni dpa : Nat} (h : s.MemStep t) : s.MemStep (t.route bh ni dpa).2 := .ite_snd h h.setRedirects

theorem State.SameWords.route {bh ni dpa : Nat} (h : s.SameWords t) : s.SameWords (t.route bh ni dpa).2 :=
  .ite_snd h h.setRedirects

theorem State.MemStep.send {m : Msg} (h : s.MemStep t) : s.MemStep (t.send m) := { (State.MemStep.ite_snd h.route h).fresh with }

theorem State.SameWords.send {m : Msg} (h : s.SameWords t) : s.SameWords (t.send m) := { (State.SameWords.ite_snd h.route h) with }

theorem State.MemStep.askFabric {m : Msg} {device off : Nat} (h : s.MemStep t) : s.MemStep (t.askFabric m device off) :=
  { h with }

theorem State.SameWords.askFabric {m : Msg} {device off : Nat} (h : s.SameWords t) : s.SameWords (t.askFabric m device off) :=
  { h with }

/-! A prefetch. -/

theorem State.MemStep.prefetchMem {c : Acc} {rq : ReqType} {dpa va n : Nat} (h : s.MemStep t) :
    s.MemStep (t.prefetchMem c rq dpa va n) := .ite h h.send

theorem State.SameWords.prefetchMem {c : Acc} {rq : ReqType} {dpa va n : Nat} (h : s.SameWords t) :
    s.SameWords (t.prefetchMem c rq dpa va n) := .ite h h.send

/-- An access to this device through the fabric window is translated as a peer's would be (R26). -/
theorem State.MemStep.localFabric {u : State} {c c1 : Acc} {k : AccessKind} {device off n dpa : Nat} {nc : Bool}
    (h : s.MemStep t) (he : t.localFabric c k device off n = some (c1, dpa, nc, u)) : s.MemStep u := by
  unfold State.localFabric State.exported at he
  split at he
  · cases he
  · split at he
    next asid _ _ s1 heq =>
      cases he
      split at heq
      · cases heq
      next id _ =>
        have h1 := h.translate (v := outsideVia false id) (k := k) (va := off)
        split at heq
        · cases heq
        next heq' =>
          rw [heq'] at h1
          split at heq
          · cases heq
          · cases heq
            exact h1
    · cases he

/-- An access to another device is not one to this device (R26). -/
theorem State.localFabric_peer {c : Acc} {k : AccessKind} {device off n : Nat} (h : device ≠ s.devId) :
    s.localFabric c k device off n = none := by
  simp [State.localFabric, h]

theorem State.MemStep.prefetch {c : Acc} {rq : Nat} {p : Nat × Nat × Place} (h : s.MemStep t) : s.MemStep (t.prefetch c rq p) := by
  unfold State.prefetch
  split
  · exact h.prefetchMem
  · split
    next heq => exact (h.localFabric heq).prefetchMem
    · extract_lets m
      exact .ite h h.askFabric
  · exact h

/-- A prefetch of a place that is not of this device behind the fabric window brings no word into an L1 yet. -/
theorem State.SameWords.prefetch {c : Acc} {rq : Nat} {p : Nat × Nat × Place} (h : s.SameWords t)
    (hp : ∀ d off, p.2.2 = .fabric d off → d ≠ t.devId) : s.SameWords (t.prefetch c rq p) := by
  unfold State.prefetch
  split
  · exact h.prefetchMem
  next d off heq =>
    rw [State.localFabric_peer (hp d off heq)]
    exact .ite h h.askFabric
  · exact h

end Sys2Proof.Machine
end

section
/-! SUPPORT. `pref` (R315): it sends requests and changes nothing of its group, whatever its lanes' pages are. -/

namespace Sys2Proof.Machine
open Sys2Proof.Claims

variable {s t : State} {g : Group} {f : ExtM}

/-- A vector memory instruction whose registers are ready runs on, and consumes the poison that it reads (R83, R127, R266). -/
theorem State.memGo_ready {srcs : List (List Nat × Bool)} {dst : List Nat} {go : State → Res} (h : memReady s g srcs dst) :
    s.memGo g srcs dst go = s.readRegs g (srcs.flatMap fun p => p.1) (g.pc s.curSlot).mask .uePool (go s) := by
  obtain ⟨hcheck, hcalm⟩ := h
  simp only [State.memGo, hcheck, State.acquiring_eq_false hcalm]
  rfl

theorem State.readRegs_ok {regs : List Nat} {m : Mask} {c : Cause} {u : State} :
    s.readRegs g regs m c (.ok u) = .ok u ∨ s.readRegs g regs m c (.ok u) = .ok (u.consume s.cur (some c)) := by
  unfold State.readRegs
  split
  · exact .inr rfl
  · exact .inl rfl

/-- The lanes' addresses are those of R306. -/
theorem plainAt_eq_baseAt (i : Nat) : plainAt f g i = baseAt f g i := by
  simp [plainAt, Group.laneAt, Group.laneOff, baseAt, offsetOf, dispOf]

theorem offSrc_eq_offReg : offSrc f = offReg f := by
  simp [offSrc, offReg]

/-- The pieces of the lanes prefetched. -/
def State.prefetchLanes (s : State) (g : Group) (rq : Nat) (x : List (Nat × Pieces)) : State :=
  x.foldl (fun s l => l.2.foldl (fun s p => s.prefetch (s.acc g) rq p) s) s

theorem State.MemStep.prefetchLanes {rq : Nat} {x : List (Nat × Pieces)} (h : s.MemStep t) :
    s.MemStep (t.prefetchLanes g rq x) :=
  h.foldl fun _ _ hu => hu.foldl fun _ _ hv => hv.prefetch

theorem State.sameWords_prefetchLanes {rq : Nat} {x : List (Nat × Pieces)} (h : s.MemStep t) (hx : offDevice s x) :
    t.SameWords (t.prefetchLanes g rq x) := by
  have hdev : ∀ u, s.MemStep u → u.devId = s.devId := fun u hu => congrArg (fun c : DWord => bits c.toNat 9 0) hu.fabCfg
  refine And.right (List.foldlRecOn (motive := fun u => s.MemStep u ∧ t.SameWords u) x _ ⟨h, .refl t⟩ fun u hu l hl => ?_)
  refine List.foldlRecOn (motive := fun u => s.MemStep u ∧ t.SameWords u) l.2 _ hu fun v hv p hp => ?_
  refine ⟨hv.1.prefetch, hv.2.prefetch fun d off hd => ?_⟩
  rw [hdev v hv.1]
  exact hx l hl p hp d off hd

/-- What `pref` does when no lane fails a window check: nothing with its hint to do nothing, and else its requests. -/
theorem prefBody_ok {y : Resolved} {s1 : State} (hm : memReady s g (offReg f) [])
    (hy : s.resolveLanes (fun s i => s.resolveAt (s.asker s.cur g) .all .prefetch false i (baseAt f g i) (tySize f.ty.toNat))
      (Mask.lanes (activeMask g s.curSlot f.gn f.g)) = (y, s1))
    (hbad : ∀ b ∈ y.bad, b.2.cause ≠ .addrNoncanonical ∧ b.2.cause ≠ .addrWindow ∧ b.2.cause ≠ .fabricDevice ∧
      b.2.cause ≠ .windowRange) :
    ∃ u v, prefBody f g s = .ok v ∧ (v = u ∨ v = u.consume s.cur (some .uePool)) ∧
      (u = s1 ∨ u = s1.prefetchLanes g f.rq.toNat y.ok) := by
  have hnone : y.bad.filter (fun b => b.2.cause.isWindowCheck) = [] := by
    refine List.filter_eq_nil_iff.2 fun b hb => ?_
    obtain ⟨h1, h2, h3, h4⟩ := hbad b hb
    simp [Cause.isWindowCheck, h1, h2, h3, h4]
  rw [← offSrc_eq_offReg] at hm
  simp only [← plainAt_eq_baseAt] at hy
  unfold prefBody
  rw [State.memGo_ready hm, show s.maskOf g f = activeMask g s.curSlot f.gn f.g from rfl, hy]
  simp only [hnone, List.isEmpty_nil, Bool.not_true, Bool.false_eq_true, if_false]
  by_cases hnop : (f.modm == 1) = true
  · rw [if_pos hnop]
    exact ⟨s1, State.readRegs_ok.elim (fun h => ⟨_, h, .inl rfl, .inl rfl⟩) fun h => ⟨_, h, .inr rfl, .inl rfl⟩⟩
  · rw [if_neg hnop]
    exact ⟨s1.prefetchLanes g f.rq.toNat y.ok, State.readRegs_ok.elim (fun h => ⟨_, h, .inl rfl, .inr rfl⟩) fun h =>
      ⟨_, h, .inr rfl, .inr rfl⟩⟩

end Sys2Proof.Machine

namespace Sys2Proof.Claims
open Sys2Proof.Machine

/-- A state that has consumed poison, or not, has the same groups but for what pends on the current one. -/
theorem group?_consumed {s u v : State} {g : Group} {c : Cause} (hg : u.group? s.cur = some g)
    (hv : v = u ∨ v = u.consume s.cur (some c)) : (∃ cs, v.group? s.cur = some { g with consumed := cs }) ∧
      ∀ n, n ≠ s.cur → v.group? n = u.group? n := by
  rcases hv with rfl | rfl
  · exact ⟨⟨g.consumed, hg⟩, fun _ _ => rfl⟩
  · exact ⟨⟨_, by rw [State.consume, State.group_modGroup, hg, Option.map_some]⟩,
      fun n hn => State.group_modGroup_other _ _ _ _ hn⟩

theorem keepsOthers_consumed {g : Group} {cs : List Cause} : keepsOthers g { g with consumed := cs } [] [] :=
  ⟨fun _ _ => rfl, fun _ _ _ => rfl, rfl, rfl, rfl, rfl, rfl, rfl, rfl, rfl, rfl, rfl, rfl, rfl, rfl, rfl⟩

/-- R315: `pref` retires, and changes no register and no byte of memory. -/
theorem prefetch_holds : prefetch := by
  intro s g f y s1 hr hm hy hbad
  obtain ⟨hg, -, -⟩ := State.current_eq hr.1
  have hs1 : s.MemStep s1 := by
    have h := State.MemStep.resolveLanes (State.MemStep.refl s) (lanes := Mask.lanes (activeMask g s.curSlot f.gn f.g))
      (go := fun s i => s.resolveAt (s.asker s.cur g) .all .prefetch false i (baseAt f g i) (tySize f.ty.toNat))
      fun _ _ hu => hu.resolveAt
    rwa [hy] at h
  obtain ⟨u, v, hbody, hv, hu⟩ := prefBody_ok hm hy hbad
  have hsu : s.MemStep u := by
    rcases hu with rfl | rfl
    · exact hs1
    · exact hs1.prefetchLanes
  obtain ⟨⟨cs, hgv⟩, hother⟩ := group?_consumed ((hsu.group? s.cur).trans hg) hv
  refine ⟨v.retire s.cur s.curSlot 0xAC 3, _, (State.execM_ready hr).trans (by rw [hbody]; rfl), State.group?_retire hgv,
    passes_passed rfl rfl, keepsOthers_passed keepsOthers_consumed, Group.passed_e .., fun n hn => ?_, fun hx a => ?_⟩
  · rw [State.group?_retire_other hn, hother n hn, hsu.group? n]
  · have hwu : s1.SameWords u := by
      rcases hu with rfl | rfl
      · exact .refl _
      · exact State.sameWords_prefetchLanes hs1 hx
    have hwv : s1.SameWords v := by
      rcases hv with rfl | rfl
      · exact hwu
      · exact hwu.consume
    exact hwv.retire.byteNow a

end Sys2Proof.Claims
end

section
/-! SUPPORT. How a shootdown begins (R66): the lazy words of every core are sent, and its range leaves every translation cache
and translation register. -/

namespace Sys2Proof.Machine

/-- The bits of a word as a number. -/
theorem toNat_extractLsb' {w : Nat} (a : BitVec w) (lo n : Nat) : (a.extractLsb' lo n).toNat = a.toNat / 2 ^ lo % 2 ^ n := by
  rw [BitVec.extractLsb'_toNat, Nat.shiftRight_eq_div_pow]

variable {s t : State}

theorem State.MemStep.clearLazy {core w : Nat} (h : s.MemStep t) : s.MemStep (t.clearLazy core w) := by
  unfold State.clearLazy
  split
  · exact h.setL1
  · exact h

theorem State.MemStep.flushWord {core w : Nat} (h : s.MemStep t) : s.MemStep (t.flushWord core w) := by
  unfold State.flushWord
  split
  · exact h
  · split
    · exact h
    · exact .ite h.clearLazy.clearLazy.send (h.clearLazy.foldl fun _ _ hu => hu.send)

theorem State.MemStep.flushCore {core : Nat} (h : s.MemStep t) : s.MemStep (t.flushCore core) :=
  h.foldl fun _ _ hu => .ite hu hu.flushWord

/-- The lazy words of every core sent (R66, R89). -/
def State.flushAll (s : State) : State := s.cores.foldl (fun s c => s.flushCore c.1) s

theorem State.memStep_flushAll (s : State) : s.MemStep s.flushAll := (State.MemStep.refl s).foldl fun _ _ hu => hu.flushCore

/-- A shootdown that begins sends the lazy words, purges its range, and stands last among the shootdowns. -/
theorem State.startShoot_eq (s : State) (x : Shoot) : ∃ id b, s.startShoot x =
    { s.flushAll.purge x.asid x.first x.count with
      nextId := id + 1, shoots := s.shoots ++ [{ x with id := id, barrier := b }] } :=
  ⟨_, _, by rw [← s.memStep_flushAll.shoots]; rfl⟩

/-- The entries of a table changed one by one. -/
theorem Table.find_map {α β : Type} (t : Table α) (f : α → β) (k : Nat) :
    Table.find (t.map fun e => (e.1, f e.2)) k = (Table.find t k).map f := by
  induction t with
  | nil => rfl
  | cons e t ih =>
    obtain ⟨j, a⟩ := e
    rw [List.map_cons, Table.find_cons, Table.find_cons, ih]
    split <;> rfl

/-- A purge takes translations from a group and nothing else. -/
theorem State.group?_purge {asid : Option Nat} {first count gid : Nat} {g : Group} (h : s.group? gid = some g) :
    ∃ ts, (s.purge asid first count).group? gid = some { g with t := ts } := by
  have hfind := Table.find_map s.groups
    (fun g => if s.concerns asid g.asid then { g with t := g.t.map fun t => t.shoot first count } else g) gid
  rw [show Table.find s.groups gid = some g from h, Option.map_some] at hfind
  by_cases hc : s.concerns asid g.asid = true
  · exact ⟨_, hfind.trans (by rw [if_pos hc])⟩
  · exact ⟨g.t, hfind.trans (by rw [if_neg hc])⟩

/-- No translation cache holds an entry of a range that was purged (R66). -/
theorem State.purge_caches {asid : Option Nat} {first count : Nat} :
    ∀ c ∈ (s.purge asid first count).caches, (∀ e ∈ c.2.leaves, e.inRange asid first count = false) ∧
      ∀ e ∈ c.2.tables, e.inRange asid first count = false := by
  intro c hc
  obtain ⟨c', -, rfl⟩ := List.mem_map.1 hc
  exact ⟨fun e he => by simpa using (List.mem_filter.1 he).2, fun e he => by simpa using (List.mem_filter.1 he).2⟩

/-- What a shootdown that begins leaves: the current group keeps all but its translations, and the shootdown is listed. -/
theorem State.startShoot_spec (s : State) (x : Shoot) {gid : Nat} {g : Group} (h : s.group? gid = some g) :
    ∃ ts id b, (s.startShoot x).group? gid = some { g with t := ts } ∧
      (s.startShoot x).shoots = s.shoots ++ [{ x with id := id, barrier := b }] := by
  obtain ⟨id, b, he⟩ := s.startShoot_eq x
  obtain ⟨ts, hts⟩ := State.group?_purge (asid := x.asid) (first := x.first) (count := x.count)
    ((s.memStep_flushAll.group? gid).trans h)
  exact ⟨ts, id, b, he ▸ hts, he ▸ rfl⟩

theorem State.startShoot_pends (s : State) (x : Shoot) : (s.startShoot x).pends = s.pends := by
  obtain ⟨id, b, he⟩ := s.startShoot_eq x
  exact he ▸ s.memStep_flushAll.pends

end Sys2Proof.Machine
end

section
/-! SUPPORT. `tlbinv` (R326): its checks, and its two parts. -/

namespace Sys2Proof.Machine
open Sys2Proof.Claims

variable {s : State} {g : Group} {f : ExtM}

theorem tlbinvBody_user (h : g.sup = false) : tlbinvBody f g s = .trap (TrapInfo.of .privilege) s := by
  simp [tlbinvBody, h]

theorem tlbinvBody_noncanonical (h : g.sup = true) (hc : canonical (g.rdS f.a + dispOf f) = false) :
    tlbinvBody f g s = .trap (pipeTrap 0 { cause := .addrNoncanonical, addr := g.rdS f.a + dispOf f, level := 0 }) s := by
  simp [tlbinvBody, h, hc]

theorem tlbinvBody_range (h : g.sup = true) (hc : canonical (g.rdS f.a + dispOf f) = true) (hn : 2 ^ 32 ≤ (g.rdS f.c).toNat) :
    tlbinvBody f g s = .trap (TrapInfo.of .operandRange) s := by
  simp only [tlbinvBody, h, hc, if_pos hn]
  rfl

/-- Once its shootdown is complete, `tlbinv` has no further effect. -/
theorem tlbinvBody_done {p : Pend} (h : g.sup = true) (hc : canonical (g.rdS f.a + dispOf f) = true)
    (hn : (g.rdS f.c).toNat < 2 ^ 32) (hp : heldDone s g p) : tlbinvBody f g s = .ok (s.dropPend p.id) := by
  obtain ⟨hheld, hleft, -⟩ := hp
  have hheld' : s.held? s.cur s.curSlot (g.pc s.curSlot).pc = some p := hheld
  simp only [tlbinvBody, h, hc, if_neg (Nat.not_le.2 hn), State.inParts, hheld', hleft]
  rfl

/-- The shootdown that `tlbinv` begins. -/
def tlbinvShoot (s : State) (g : Group) (f : ExtM) : Shoot :=
  { Shoot.of (some (s.tagOf g.asid)) (bits (g.rdS f.a + dispOf f).toNat 55 16) (g.rdS f.c).toNat with
    revoke := f.modm == 1
    frames := s.knownFrames (some (s.tagOf g.asid)) (bits (g.rdS f.a + dispOf f).toNat 55 16) (g.rdS f.c).toNat
    gid := some s.cur, pend := some s.nextId }

/-- `tlbinv` begins its shootdown and waits in its slot for its one part. -/
theorem tlbinvBody_begins (h : g.sup = true) (hc : canonical (g.rdS f.a + dispOf f) = true)
    (hn : (g.rdS f.c).toNat < 2 ^ 32) (hp : s.held? s.cur s.curSlot (pcOf s g) = none) :
    tlbinvBody f g s = .stall .room ((s.fresh.2.startShoot (tlbinvShoot s g f)).addPend
      { Pend.of s.nextId s.cur s.curSlot (pcOf s g) 1 with why := .room }) := by
  have hp' : s.held? s.cur s.curSlot (g.pc s.curSlot).pc = none := hp
  simp only [tlbinvBody, h, hc, if_neg (Nat.not_le.2 hn), State.inParts, hp']
  rfl

end Sys2Proof.Machine

namespace Sys2Proof.Claims
open Sys2Proof.Machine

/-- A group that stalls keeps its slots. -/
theorem group?_stalled {s : State} {gid : Nat} {g : Group} {w : Wait} (h : s.group? gid = some g) (slot : Bool) :
    ∃ h, (s.stalled gid w).group? gid = some h ∧ h.pc slot = g.pc slot := by
  refine ⟨_, by rw [State.stalled, State.group_modGroup, h, Option.map_some], ?_⟩
  split <;> cases slot <;> rfl

/-- The access that an instruction has just begun is the one that its slot holds. -/
theorem held?_addPend {s : State} {gid : Nat} {slot : Bool} {pc : DWord} {p : Pend} (h : s.held? gid slot pc = none)
    (hp : p.hold = true) (hg : p.gid = gid) (hs : p.slot = slot) (hpc : p.pc = pc) :
    (s.addPend p).held? gid slot pc = some p := by
  have h' : s.pends.find? (fun p => p.hold && p.gid == gid && p.slot == slot && p.pc == pc) = none := h
  simp [State.held?, State.addPend, List.find?_append, h', hp, hg, hs, hpc]

/-- R326, R66: `tlbinv` traps at its checks, begins its shootdown, and retires when that is complete. -/
theorem tlbInvalidate_holds : tlbInvalidate := by
  intro s g f p hr
  refine ⟨fun hu => ?_, fun hs hc => ?_, fun hs hc hn => ?_, fun hs hc hn hp => ?_, fun hs hn hc hp => ?_⟩
  · exact (State.execM_ready hr).trans (by rw [tlbinvBody_user hu]; rfl)
  · exact ⟨_, rfl, (State.execM_ready hr).trans (by rw [tlbinvBody_noncanonical hs hc]; rfl)⟩
  · exact (State.execM_ready hr).trans (by rw [tlbinvBody_range hs hc hn]; rfl)
  · obtain ⟨ts, id, b, hgroup, hshoots⟩ :=
      s.fresh.2.startShoot_spec (tlbinvShoot s g f) (gid := s.cur) (g := g) (State.current_eq hr.1).1
    have hpends : (s.fresh.2.startShoot (tlbinvShoot s g f)).pends = s.pends := s.fresh.2.startShoot_pends _
    have hheld : (s.fresh.2.startShoot (tlbinvShoot s g f)).held? s.cur s.curSlot (pcOf s g) = none :=
      (congrArg (List.find? _) hpends).trans hp
    obtain ⟨h, hh, hpc⟩ := group?_stalled (w := .room) (s := (s.fresh.2.startShoot (tlbinvShoot s g f)).addPend
      { Pend.of s.nextId s.cur s.curSlot (pcOf s g) 1 with why := .room }) hgroup s.curSlot
    refine ⟨_, h, _, (State.execM_ready hr).trans (by rw [tlbinvBody_begins hs hc hn hp]; rfl), hh, hpc.trans ?_,
      held?_addPend hheld rfl rfl rfl rfl, rfl, { tlbinvShoot s g f with id := id, barrier := b }, ?_, rfl, rfl, ?_, rfl, rfl⟩
    · cases s.curSlot <;> rfl
    · exact hshoots ▸ List.mem_append_right _ (List.mem_singleton_self _)
    · exact (toNat_extractLsb' (g.rdS f.a + dispOf f) 16 40).symm
  · exact (State.execM_ready hr).trans (by rw [tlbinvBody_done hs hc hn hp]; rfl)

end Sys2Proof.Claims
end

section
/-! Translation registers, translation queries, prefetches and invalidation (O30). -/

namespace Sys2Proof
open Sys2Proof.Claims

/-- Settles O30, by what each of its instructions does. -/
theorem translations : Obligations.Translations := ⟨translations_hold, prefetch_holds, tlbInvalidate_holds⟩

end Sys2Proof
end

section
/-! SUPPORT. What a byte memory reads after a store of several bytes (R7). -/

namespace Sys2Proof.Machine

/-- A byte after a store: one of those stored, or as before. -/
theorem Memory.byte_store (n : Nat) (m : Memory) (a v c : Nat) : Memory.byte (Memory.store m a n v) c =
    if a ≤ c ∧ c < a + n then BitVec.ofNat 8 (v / 2 ^ (8 * (c - a))) else Memory.byte m c := by
  induction n generalizing m a v with
  | zero => rw [if_neg (by omega)]; rfl
  | succ n ih =>
    rw [Memory.store, ih]
    by_cases hin : a + 1 ≤ c ∧ c < a + 1 + n
    · rw [if_pos hin, if_pos (by omega), Nat.div_div_eq_div_mul, show 256 = 2 ^ 8 from rfl, ← Nat.pow_add,
        show 8 + 8 * (c - (a + 1)) = 8 * (c - a) by omega]
    · rw [if_neg hin]
      by_cases hc : c = a
      · subst hc
        rw [if_pos (by omega), Memory.byte_put_same, Nat.sub_self]
        simp
      · rw [if_neg (by omega), Memory.byte_put_other _ _ _ _ hc]

/-- Memories that read alike in a range load alike there. -/
theorem Memory.load_congr (n : Nat) (m m' : Memory) (a : Nat)
    (h : ∀ c, a ≤ c → c < a + n → Memory.byte m c = Memory.byte m' c) :
    Memory.load m a n = Memory.load m' a n := by
  induction n generalizing a with
  | zero => rfl
  | succ n ih => rw [Memory.load, Memory.load, h a (Nat.le_refl a) (by omega), ih (a + 1) fun c h1 h2 => h c (by omega) (by omega)]

theorem Memory.load_lt (n : Nat) (m : Memory) (a : Nat) : Memory.load m a n < 2 ^ (8 * n) := by
  induction n generalizing a with
  | zero => simp [Memory.load]
  | succ n ih =>
    have h1 := ih (a + 1)
    have h2 := (Memory.byte m a).isLt
    rw [Memory.load, show 8 * (n + 1) = 8 * n + 8 by omega, Nat.pow_add]
    omega

/-- The bytes of what is loaded are those of the memory. -/
theorem Memory.load_byte (n : Nat) (m : Memory) (a k : Nat) (h : k < n) :
    Memory.load m a n / 2 ^ (8 * k) % 256 = (Memory.byte m (a + k)).toNat := by
  induction n generalizing a k with
  | zero => omega
  | succ n ih =>
    have hb := (Memory.byte m a).isLt
    cases k with
    | zero => simp [Memory.load]; omega
    | succ k =>
      have hdiv : Memory.load m a (n + 1) / 256 = Memory.load m (a + 1) n := by rw [Memory.load]; omega
      rw [show 8 * (k + 1) = 8 + 8 * k by omega, Nat.pow_add, ← Nat.div_div_eq_div_mul, show 2 ^ 8 = 256 from rfl, hdiv,
        ih (a + 1) k (by omega), show a + 1 + k = a + (k + 1) by omega]

/-- What was stored is loaded back. -/
theorem Memory.load_store (n : Nat) (m : Memory) (a v : Nat) : Memory.load (Memory.store m a n v) a n = v % 2 ^ (8 * n) := by
  induction n generalizing m a v with
  | zero => simp [Memory.load, Nat.mod_one]
  | succ n ih =>
    rw [Memory.load, Memory.store, ih, Memory.byte_store, if_neg (by omega), Memory.byte_put_same, BitVec.toNat_ofNat,
      show 8 * (n + 1) = 8 + 8 * n by omega, Nat.pow_add, Nat.mod_mul]

end Sys2Proof.Machine
end

section
/-! SUPPORT. The current value of every word (R92) while words return to their home slices, lines are evicted and lazy words are
sent: none of these changes a value. It is one relation, `State.WordsKept`, so that each operation is walked through once. -/

namespace Sys2Proof.Machine
open Sys2Proof.Claims

variable {s t u : State} {w : Nat}

theorem State.homeWord_toNat (s : State) (w : Nat) : (s.homeWord w).toNat = Memory.load s.home (4 * w) 4 := by
  rw [State.homeWord, BitVec.toNat_ofNat]
  exact Nat.mod_eq_of_lt (Memory.load_lt 4 s.home (4 * w))

/-- A word reads from its home slice where no owner holds it. -/
theorem State.wordNow_home (h : ∀ c x, s.owner w = some c → s.l1 c w = some x → x.st ≠ .owned) : s.wordNow w = s.homeWord w := by
  unfold State.wordNow
  split
  · split
    · rw [if_neg (by simpa using h _ _ ‹_› ‹_›)]
    · rfl
  · rfl

theorem State.wordNow_owned {c : Nat} {x : L1Word} (ho : s.owner w = some c) (hx : s.l1 c w = some x) (hs : x.st = .owned) :
    s.wordNow w = x.data := by
  simp [State.wordNow, ho, hx, hs]

/-- A byte that no core owns reads from the home memory. -/
theorem State.byteNow_unowned {a : Nat} (h : s.owner (a / 4) = none) : s.byteNow a = (Memory.byte s.home a).toNat := by
  rw [State.byteNow, State.wordNow_home (by simp [h]), State.homeWord_toNat,
    Memory.load_byte 4 _ _ _ (Nat.mod_lt _ (by decide)), Nat.div_add_mod]

theorem State.wordNow_congr (ho : t.owner w = s.owner w) (hl : ∀ c, s.owner w = some c → t.l1 c w = s.l1 c w)
    (hh : t.homeWord w = s.homeWord w) : t.wordNow w = s.wordNow w := by
  unfold State.wordNow
  rw [ho]
  split
  next c hc => rw [hl c hc, hh]
  · exact hh

/-- Home words are as before where the bytes of the home memory are. -/
theorem State.homeWord_congr (h : ∀ c, 4 * w ≤ c → c < 4 * w + 4 → Memory.byte t.home c = Memory.byte s.home c) :
    t.homeWord w = s.homeWord w := by
  rw [State.homeWord, State.homeWord, Memory.load_congr 4 _ _ _ h]

theorem State.homeWord_store {v : Nat} (ht : t.home = Memory.store s.home (4 * w) 4 v) {w' : Nat} :
    t.homeWord w' = if w' = w then BitVec.ofNat 32 v else s.homeWord w' := by
  split
  next h =>
    subst h
    apply BitVec.eq_of_toNat_eq
    rw [State.homeWord_toNat, ht, Memory.load_store, BitVec.toNat_ofNat]
  next h => exact State.homeWord_congr fun c h1 h2 => by rw [ht, Memory.byte_store, if_neg (by omega)]

/-! What changes no word, and no message. -/

/-- Every word is held as before, and the messages on their way are the same. -/
structure State.Books (s t : State) : Prop extends s.SameWords t where
  net : t.net = s.net

/-- The books of a state change when neither its home memory, its owners, its cores nor its messages do. -/
theorem State.Books.of_cores (hh : t.home = s.home) (ho : t.owners = s.owners) (hc : t.cores = s.cores) (hn : t.net = s.net) :
    s.Books t :=
  ⟨⟨hh, ho, fun core => congrArg (fun cs => (Table.findD cs core Core.reset).l1) hc⟩, hn⟩

theorem State.Books.refl (s : State) : s.Books s := ⟨.refl s, rfl⟩

theorem State.Books.ite {v : State} {q : Prop} [Decidable q] (hu : s.Books u) (hv : s.Books v) :
    s.Books (if q then u else v) := by
  split
  · exact hu
  · exact hv

theorem State.Books.modBh {b : Nat} {f : Bulkhead → Bulkhead} (h : s.Books t) : s.Books (t.modBh b f) := { h with }

theorem State.Books.lccTake {core v : Nat} (h : s.Books t) : s.Books (t.lccTake core v) :=
  ⟨h.toSameWords.modCore rfl, h.net⟩

theorem State.Books.setLine {l : Nat} {x : Line} (h : s.Books t) : s.Books (t.setLine l x) := .ite { h with } { h with }

theorem State.Books.touchDirty {dpa stamp : Nat} (h : s.Books t) : s.Books (t.touchDirty dpa stamp) := h.setLine

theorem State.Books.setPoison {p : Option PoisonLevel} (h : s.Books t) : s.Books (t.setPoison w p) := by
  unfold State.setPoison
  split <;> exact { h with }

/-! What keeps the value of every word, while no grant is on its way. -/

/-- The words of HBM have their values, those without an owner stay without one, and no grant is on its way: a revocation of a
word whose grant is on its way also performs the operation that asked for it (R90, R130). -/
structure State.WordsKept (s t : State) : Prop where
  words : ∀ w < 2 ^ 37, t.wordNow w = s.wordNow w
  unowned : ∀ w, s.owner w = none → t.owner w = none
  noGrants : Claims.noGrants t

theorem State.WordsKept.refl (h : Claims.noGrants s) : s.WordsKept s := ⟨fun _ _ => rfl, fun _ h => h, h⟩

theorem State.WordsKept.byteNow (h : s.WordsKept t) {b : Nat} (hb : b < 2 ^ 39) : t.byteNow b = s.byteNow b := by
  rw [State.byteNow, State.byteNow, h.words (b / 4) (by omega)]

theorem State.WordsKept.sameWords (h : s.WordsKept t) (hw : t.SameWords u) (hn : Claims.noGrants u) : s.WordsKept u := by
  refine ⟨fun w h' => (hw.wordNow w).trans (h.words w h'), fun w h' => ?_, hn⟩
  rw [← h.unowned w h', State.owner, State.owner, hw.owners]

theorem State.WordsKept.books (h : s.WordsKept t) (hb : t.Books u) : s.WordsKept u :=
  h.sameWords hb.toSameWords fun m hm => h.noGrants m (hb.net ▸ hm)

theorem State.WordsKept.ite {v : State} {q : Prop} [Decidable q] (hu : s.WordsKept u) (hv : s.WordsKept v) :
    s.WordsKept (if q then u else v) := by
  split
  · exact hu
  · exact hv

theorem State.WordsKept.foldl {β : Type} {l : List β} {f : State → β → State} (h : s.WordsKept t)
    (hf : ∀ u b, s.WordsKept u → s.WordsKept (f u b)) : s.WordsKept (l.foldl f t) :=
  List.foldlRecOn l f h fun u hu b _ => hf u b hu

/-- A record in the plex SRAM lies beyond the words of HBM (R30, R31). -/
theorem State.WordsKept.rawStore {a n v : Nat} (h : s.WordsKept t) (ha : 2 ^ 39 ≤ a) : s.WordsKept (t.rawStore a n v) := by
  refine ⟨fun w hw => .trans ?_ (h.words w hw), h.unowned, h.noGrants⟩
  refine State.wordNow_congr rfl (fun _ _ => rfl) (State.homeWord_congr fun c _ hc => ?_)
  rw [State.rawStore, Memory.byte_store, if_neg (by omega)]

theorem State.WordsKept.postSup {c : Cause} {d0 d1 : Nat} (h : s.WordsKept t) : s.WordsKept (t.postSup c d0 d1) := by
  unfold State.postSup State.postSupRecord
  extract_lets a s1 s2
  have ha : 2 ^ 39 ≤ a := Nat.le_add_right_of_le (by decide)
  clear_value a
  have h2 : s.WordsKept s2 :=
    (((h.rawStore ha).rawStore (by omega)).rawStore (by omega)).rawStore (by omega)
  clear_value s2
  exact .ite (h.books (.of_cores rfl rfl rfl rfl)) (h2.books (.of_cores rfl rfl rfl rfl))

theorem State.WordsKept.holeCheck {dpa who : Nat} (h : s.WordsKept t) : s.WordsKept (t.holeCheck dpa who) := .ite h h.postSup

theorem State.WordsKept.setLcs {b slice v : Nat} (h : s.WordsKept t) : s.WordsKept (t.setLcs b slice v) :=
  .ite (h.books (State.Books.refl t).modBh).postSup (h.books (State.Books.refl t).modBh)

theorem State.WordsKept.lcsStep {dpa : Nat} (h : s.WordsKept t) : s.WordsKept (t.lcsStep dpa).2 := h.setLcs

theorem State.WordsKept.meet {core dpa : Nat} (h : s.WordsKept t) : s.WordsKept (t.meet core dpa) :=
  h.setLcs.books (State.Books.refl _).lccTake

theorem State.l1_dropL1_other (s : State) (core c : Nat) {w' : Nat} (h : w' ≠ w) : (s.dropL1 core w).l1 c w' = s.l1 c w' := by
  unfold State.l1 State.dropL1
  by_cases hc : c = core
  · rw [hc, State.core_modCore, Table.find_erase_other _ _ _ h]
  · rw [State.core_modCore_other _ _ _ _ hc]

theorem State.owner_erase (h : t.owners = Table.erase s.owners w) :
    t.owner w = none ∧ ∀ w', w' ≠ w → t.owner w' = s.owner w' := by
  unfold State.owner
  rw [h]
  exact ⟨by rw [Table.find_erase_same, Option.map_none], fun w' hw => by rw [Table.find_erase_other _ _ _ hw]⟩

/-- A state in which a word has no owner any more, and which otherwise reads as before (R92). -/
structure State.Returned (s t : State) (w : Nat) : Prop where
  gone : t.owner w = none
  others : ∀ w', w' ≠ w → t.owner w' = s.owner w'
  words : ∀ w', t.wordNow w' = s.wordNow w'
  net : t.net = s.net

/-- A word whose owner no longer holds it reads from its home slice, registered or not. -/
theorem State.Returned.of_not_held (hn : ∀ c x, s.owner w = some c → s.l1 c w = some x → x.st ≠ .owned)
    (hb : ({ s with owners := Table.erase s.owners w } : State).Books t) : s.Returned t w := by
  obtain ⟨hnone, hother⟩ := State.owner_erase hb.owners
  have hhome (w : Nat) : t.homeWord w = s.homeWord w := State.homeWord_congr fun _ _ _ => by rw [hb.home]
  have hl1 (c w : Nat) : t.l1 c w = s.l1 c w := congrArg (Table.find · w) (hb.l1 c)
  refine ⟨hnone, hother, fun w' => ?_, hb.net⟩
  by_cases hw : w' = w
  · rw [hw, State.wordNow_home (by simp [hnone]), State.wordNow_home hn, hhome]
  · exact State.wordNow_congr (hother w' hw) (fun c _ => hl1 c w') (hhome w')

/-- A word that its owner returns reads from its home slice what the owner held. -/
theorem State.Returned.of_held {c : Nat} {x : L1Word} (hc : s.owner w = some c) (hx : s.l1 c w = some x) (hs : x.st = .owned)
    (hb : ({ s with owners := Table.erase s.owners w, home := Memory.store s.home (4 * w) 4 x.data.toNat } : State).Books t) :
    s.Returned (t.dropL1 c w) w := by
  have ho : (t.dropL1 c w).owners = Table.erase s.owners w := hb.owners
  have hh : (t.dropL1 c w).home = Memory.store s.home (4 * w) 4 x.data.toNat := hb.home
  obtain ⟨hnone, hother⟩ := State.owner_erase ho
  refine ⟨hnone, hother, fun w' => ?_, hb.net⟩
  by_cases hw : w' = w
  · rw [hw, State.wordNow_home (by simp [hnone]), State.homeWord_store hh, if_pos rfl, State.wordNow_owned hc hx hs,
      BitVec.ofNat_toNat, BitVec.setWidth_eq]
  · exact State.wordNow_congr (hother w' hw)
      (fun c' _ => (t.l1_dropL1_other c c' hw).trans (congrArg (Table.find · w') (hb.l1 c')))
      (by rw [State.homeWord_store hh, if_neg hw])

theorem State.Returned.takeBack (s : State) (w : Nat) : s.Returned (s.takeBack w) w := by
  unfold State.takeBack
  split
  next hnone => exact ⟨by rw [State.owner, hnone, Option.map_none], fun _ _ => rfl, fun _ => rfl, rfl⟩
  next c stamp hown =>
    have hc : s.owner w = some c := by rw [State.owner, hown, Option.map_some]
    have holder (c' : Nat) (h : s.owner w = some c') : c' = c := Option.some.inj (h.symm.trans hc)
    split
    next hnone =>
      refine .of_not_held (fun c' x hc' hx => ?_) (State.Books.refl _).touchDirty
      rw [holder c' hc', hnone] at hx
      cases hx
    next x hx =>
      split
      next hst => exact .of_held hc hx (eq_of_beq hst) (State.Books.refl _).setPoison.touchDirty
      next hst =>
        refine .of_not_held (fun c' y hc' hy => ?_) (State.Books.refl _).touchDirty
        rw [holder c' hc', hx] at hy
        cases hy
        simpa using hst

theorem State.WordsKept.returned (h : s.WordsKept t) (hr : t.Returned u w) : s.WordsKept u := by
  refine ⟨fun w' hw' => (hr.words w').trans (h.words w' hw'), fun w' hw' => ?_, fun m hm => h.noGrants m (hr.net ▸ hm)⟩
  by_cases hw : w' = w
  · rw [hw, hr.gone]
  · rw [hr.others w' hw, h.unowned w' hw']

/-- While no grant is on its way, a revocation takes the word back (R130). -/
theorem State.settle_noGrants {e : Nat × Nat} (h : Claims.noGrants s) (ho : Table.find s.owners w = some e) :
    s.settle w = (s.meet e.1 (4 * w)).takeBack w := by
  have hnone : s.grantFor e.1 w = none := List.find?_eq_none.2 fun m hm hb => by simp [h m hm] at hb
  simp only [State.settle, ho, hnone]

theorem State.WordsKept.settle (h : s.WordsKept t) : s.WordsKept (t.settle w) := by
  cases ho : Table.find t.owners w with
  | none => rwa [State.settle, ho]
  | some e =>
    rw [State.settle_noGrants h.noGrants ho]
    exact h.meet.returned (.takeBack _ w)

/-- A word that was settled has no owner. -/
theorem State.owner_settle (h : Claims.noGrants s) : (s.settle w).owner w = none := by
  cases ho : Table.find s.owners w with
  | none => rw [State.settle, ho, State.owner, ho, Option.map_none]
  | some e =>
    rw [State.settle_noGrants h ho]
    exact (State.Returned.takeBack _ w).gone

/-- Once the words of a list are settled, none of them has an owner. -/
theorem State.WordsKept.settleList (l : List Nat) (h : s.WordsKept t) :
    s.WordsKept (l.foldl (fun s w => s.settle w) t) ∧ ∀ w ∈ l, (l.foldl (fun s w => s.settle w) t).owner w = none := by
  induction l generalizing t with
  | nil => exact ⟨h, nofun⟩
  | cons w l ih =>
    obtain ⟨hk, hl⟩ := ih h.settle
    refine ⟨hk, fun w' hw' => ?_⟩
    obtain rfl | hw' := List.mem_cons.1 hw'
    · exact ((State.WordsKept.refl h.settle.noGrants).foldl fun _ _ hu => hu.settle).unowned _ (State.owner_settle h.noGrants)
    · exact hl w' hw'

theorem State.WordsKept.settleLine {l : Nat} (h : s.WordsKept t) : s.WordsKept (t.settleLine l) :=
  h.foldl fun _ _ hu => .ite hu.settle hu

theorem State.WordsKept.writeBackLine {l : Nat} (h : s.WordsKept t) : s.WordsKept (t.writeBackLine l) := by
  unfold State.writeBackLine
  extract_lets s1 x s2
  have h1 : s.WordsKept s1 := h.settleLine
  have h2 : s1.Books s2 := (State.Books.refl s1).setLine
  clear_value s2
  generalize Memory.bytes s1.home (128 * l) 128 = bs
  exact .ite (h1.books { h2 with }) h1

theorem State.WordsKept.evictL2 {l : Nat} (h : s.WordsKept t) : s.WordsKept (t.evictL2 l) := by
  have h1 := h.writeBackLine (l := l)
  unfold State.evictL2
  generalize t.writeBackLine l = u at h1 ⊢
  exact h1.books { State.Books.refl u with }

theorem State.WordsKept.makeRoom {l : Nat} (h : s.WordsKept t) : s.WordsKept (t.makeRoom l).2 := by
  unfold State.makeRoom
  extract_lets mates loose
  split
  · exact h
  · split
    · exact h.evictL2
    · exact h

theorem State.WordsKept.markDirty {dpa stamp : Nat} (h : s.WordsKept t) : s.WordsKept (t.markDirty dpa stamp) :=
  have h1 := h.makeRoom.books (State.Books.refl _).touchDirty
  .ite h1 h1.writeBackLine

/-- Messages that are no grants may come on their way. -/
theorem State.WordsKept.addNet {ms : List Msg} (h : s.WordsKept t) (hm : ∀ m ∈ ms, m.kind ≠ .grant) :
    s.WordsKept { t with net := t.net ++ ms } := by
  refine h.sameWords ⟨rfl, rfl, fun _ => rfl⟩ fun m hm' => ?_
  exact (List.mem_append.1 hm').elim (h.noGrants m) (hm m)

theorem State.WordsKept.testWatches {dpa n : Nat} (h : s.WordsKept t) : s.WordsKept (t.testWatches dpa n) := by
  unfold State.testWatches
  extract_lets b hit done s1
  have h1 : s.WordsKept s1 := h.books (State.Books.refl t).modBh
  clear_value s1
  refine .ite h (h1.addNet fun m hm => ?_)
  obtain ⟨m', -, rfl⟩ := List.mem_map.1 hm
  exact nofun

/-! What a write of the device leaves in every byte. -/

theorem mem_wordsOf {dpa n b : Nat} (h : dpa ≤ b) (hb : b < dpa + n) : b / 4 ∈ wordsOf dpa n :=
  List.mem_map.2 ⟨b / 4 - dpa / 4, List.mem_range.2 (by omega), by omega⟩

/-- A store to the home memory, whose words no core owns, changes the bytes stored and no other. -/
theorem State.byteNow_store {a n v : Nat} (ht : t.home = Memory.store s.home a n v) (ho : t.owners = s.owners)
    (hl : ∀ core, (t.core core).l1 = (s.core core).l1) (hn : ∀ w ∈ wordsOf a n, s.owner w = none) (b : Nat) :
    t.byteNow b = if a ≤ b ∧ b < a + n then v / 2 ^ (8 * (b - a)) % 256 else s.byteNow b := by
  have howner : t.owner (b / 4) = s.owner (b / 4) := by rw [State.owner, State.owner, ho]
  cases hs : s.owner (b / 4) with
  | none =>
    rw [State.byteNow_unowned (howner.trans hs), ht, Memory.byte_store]
    split
    · rw [BitVec.toNat_ofNat]
    · exact (State.byteNow_unowned hs).symm
  | some c =>
    have hout (k : Nat) (h1 : 4 * (b / 4) ≤ k) (h2 : k < 4 * (b / 4) + 4) : ¬ (a ≤ k ∧ k < a + n) := by
      rintro ⟨h3, h4⟩
      have h5 := hn _ (mem_wordsOf h3 h4)
      rw [show k / 4 = b / 4 by omega, hs] at h5
      cases h5
    rw [if_neg (hout b (by omega) (by omega)), State.byteNow, State.byteNow]
    rw [State.wordNow_congr howner (fun c _ => congrArg (Table.find · (b / 4)) (hl c))
      (State.homeWord_congr fun k h1 h2 => by rw [ht, Memory.byte_store, if_neg (hout k h1 h2)])]

/-- A write of the device to populated memory writes its bytes and no other byte of HBM (R92, R100). -/
theorem State.devWrite_bytes {dpa n v : Nat} (hp : dpaPopulated dpa = true) (h : Claims.noGrants s) :
    Claims.noGrants (s.devWrite dpa n v) ∧ ∀ b < 2 ^ 39, (s.devWrite dpa n v).byteNow b =
      if dpa ≤ b ∧ b < dpa + n then v / 2 ^ (8 * (b - dpa)) % 256 else s.byteNow b := by
  rw [State.devWrite_populated hp]
  extract_lets s2 s4
  obtain ⟨h1, hun⟩ := (State.WordsKept.refl h).settleList (wordsOf dpa n)
  have h2 : s.WordsKept s2 := h1.lcsStep
  have hun2 : ∀ w ∈ wordsOf dpa n, s2.owner w = none := fun w hw =>
    (State.WordsKept.refl h1.noGrants).lcsStep.unowned w (hun w hw)
  clear_value s2
  have hstore := State.byteNow_store (t := { s2 with home := Memory.store s2.home dpa n v }) rfl rfl (fun _ => rfl) hun2
  have hng : Claims.noGrants { s2 with home := Memory.store s2.home dpa n v } := h2.noGrants
  have h4 : State.WordsKept { s2 with home := Memory.store s2.home dpa n v } s4 :=
    (State.WordsKept.refl hng).foldl fun _ _ hu => hu.books (State.Books.refl _).setPoison
  clear_value s4
  have h5 := (h4.markDirty (dpa := dpa) (stamp := ((s.settleAll dpa n).lcsStep dpa).1)).testWatches (dpa := dpa) (n := n)
  exact ⟨h5.noGrants, fun b hb => by rw [h5.byteNow hb, hstore b, h2.byteNow hb]⟩

/-! The lazy words sent, and a range purged. -/

theorem State.net_ite_snd {α : Type} {x y : α × State} {q : Prop} [Decidable q] (hx : x.2.net = s.net) (hy : y.2.net = s.net) :
    (if q then x else y).2.net = s.net := by
  split
  · exact hx
  · exact hy

theorem State.net_setRedirects (s : State) (bh ni : Nat) (rs : List Redirect) : (s.setRedirects bh ni rs).net = s.net := by
  unfold State.setRedirects
  split <;> rfl

theorem State.net_route (s : State) (bh ni dpa : Nat) : (s.route bh ni dpa).2.net = s.net :=
  State.net_ite_snd rfl (s.net_setRedirects bh ni _)

/-- A message sent is the last on its way, with its kind. -/
theorem State.net_send (s : State) (m : Msg) : ∃ m', m'.kind = m.kind ∧ (s.send m).net = s.net ++ [m'] := by
  refine ⟨_, ?_, congrArg₂ (· ++ ·) (State.net_ite_snd (y := (none, s)) (s.net_route _ _ _) rfl) rfl⟩
  rfl

theorem State.WordsKept.send {m : Msg} (h : s.WordsKept t) (hm : m.kind ≠ .grant) : s.WordsKept (t.send m) := by
  obtain ⟨m1, hkind, hnet⟩ := t.net_send m
  refine h.sameWords (State.SameWords.refl t).send fun m' hm' => ?_
  rw [hnet] at hm'
  obtain hm' | hm' := List.mem_append.1 hm'
  · exact h.noGrants m' hm'
  · rwa [List.mem_singleton.1 hm', hkind]

theorem State.l1_setL1_same (s : State) (core w : Nat) (x : L1Word) : (s.setL1 core w x).l1 core w = some x := by
  rw [State.l1, State.setL1, State.core_modCore, Table.find_set_same]

theorem State.l1_setL1_other (s : State) {core w c w' : Nat} {x : L1Word} (h : c ≠ core ∨ w' ≠ w) :
    (s.setL1 core w x).l1 c w' = s.l1 c w' := by
  rw [State.l1, State.l1, State.setL1]
  by_cases hc : c = core
  · rw [hc, State.core_modCore, Table.find_set_other _ _ _ _ (h.resolve_left fun hn => hn hc)]
  · rw [State.core_modCore_other _ _ _ _ hc]

/-- A word reads by the state and the data of its owner's entry. -/
theorem State.wordNow_setL1 {core v : Nat} {x y : L1Word} (hx : t.l1 core v = some x) (hst : y.st = x.st) (hd : y.data = x.data)
    (w : Nat) : (t.setL1 core v y).wordNow w = t.wordNow w := by
  have hhome : (t.setL1 core v y).homeWord w = t.homeWord w := State.homeWord_congr fun _ _ _ => rfl
  by_cases h : t.owner w = some core ∧ w = v
  · obtain ⟨ho, rfl⟩ := h
    have ho' : (t.setL1 core w y).owner w = some core := ho
    simp only [State.wordNow, ho, ho', hx, State.l1_setL1_same, hst, hd, hhome]
  · refine State.wordNow_congr rfl (fun c hc => State.l1_setL1_other t ?_) hhome
    by_contra hn
    obtain ⟨rfl, rfl⟩ := not_or.1 hn |>.imp not_not.1 not_not.1
    exact h ⟨hc, rfl⟩

theorem State.WordsKept.clearLazy {core : Nat} (h : s.WordsKept t) : s.WordsKept (t.clearLazy core w) := by
  unfold State.clearLazy
  split
  next x hx =>
    exact ⟨fun w' hw' => (State.wordNow_setL1 (y := { x with lazy := none, unsent := 0 }) hx rfl rfl w').trans (h.words w' hw'),
      h.unowned, h.noGrants⟩
  · exact h

theorem State.WordsKept.flushWord {core : Nat} (h : s.WordsKept t) : s.WordsKept (t.flushWord core w) := by
  unfold State.flushWord
  split
  · exact h
  · split
    · exact h
    next z _ =>
      have hm : (if z.own then MsgKind.ownStore else .wtStore) ≠ .grant := by split <;> exact nofun
      exact .ite (h.clearLazy.clearLazy.send hm) (h.clearLazy.foldl fun _ _ hu => hu.send hm)

theorem State.WordsKept.flushAll (h : Claims.noGrants s) : s.WordsKept s.flushAll :=
  (State.WordsKept.refl h).foldl fun _ _ hu => hu.foldl fun _ _ hu => .ite hu hu.flushWord

theorem State.WordsKept.startShoot (x : Shoot) (h : Claims.noGrants s) : s.WordsKept (s.startShoot x) := by
  obtain ⟨id, b, he⟩ := s.startShoot_eq x
  rw [he]
  exact (State.WordsKept.flushAll h).books (.of_cores rfl rfl rfl rfl)

end Sys2Proof.Machine
end

section
/-! SUPPORT. The commands of the frame table and of the frame pool (R59, R60): what FD_CMD answers in each case of its rules, and
what a pop leaves. -/

namespace Sys2Proof.Machine

variable {s : State} {g : Group}

/-- A step of the current group's own runs where there is one. -/
theorem State.onCurrent_eq (h : s.current = some g) (fn : Nat → State) : s.onCurrent fn = .next (fn s.cur) := by
  rw [State.onCurrent, h]

/-- FD_RESULT of a group written: the descriptor, with the status in its place (R60). -/
def State.fdAnswer (s : State) (gid d st : Nat) : State :=
  s.modGroup gid fun g => { g with fdResult := BitVec.ofNat 64 (setBits (setBits d 47 39 0) 41 39 st) }

/-- The read of a descriptor in populated memory records nothing (R30). -/
theorem State.fdRead_populated {f : Nat} (h : dpaPopulated (s.fdAddr f) = true) : s.fdRead f = s := if_pos h

section FdCommand

variable {gid op f : Nat} {zf : Bool}

theorem State.fdCommand_unpopulated (hp : framePopulated f = false) : s.fdCommand gid op f zf = s.fdAnswer gid 0 5 := by
  simp [State.fdCommand, fdRefusal, hp, State.fdAnswer]

variable (hp : framePopulated f = true)
include hp

/-- A command refused returns the descriptor that it read, with the status of its refusal. -/
theorem State.fdCommand_refused {c : Nat} (h : fdRefusal op f (s.fd f) = some c) :
    s.fdCommand gid op f zf = (s.fdRead f).fdAnswer gid (s.fd f) c := by
  simp [State.fdCommand, hp, h, State.fdAnswer]

theorem State.fdCommand_read : s.fdCommand gid 0 f zf = (s.fdRead f).fdAnswer gid (s.fd f) 0 := by
  simp [State.fdCommand, fdRefusal, hp, State.fdAnswer]

theorem State.fdCommand_inc (hs : fdSt (s.fd f) = 1) (hr : fdRef (s.fd f) ≠ 0xFFFF) : s.fdCommand gid 1 f zf =
    ((s.fdRead f).setFd f (s.fd f + 1)).fdAnswer gid (s.fd f + 1) 0 := by
  simp [State.fdCommand, fdRefusal, hp, hs, hr, State.fdAnswer]

theorem State.fdCommand_dec (hs : fdSt (s.fd f) = 1) (hr : 1 < fdRef (s.fd f)) : s.fdCommand gid 2 f zf =
    ((s.fdRead f).setFd f (s.fd f - 1)).fdAnswer gid (s.fd f - 1) 0 := by
  have h0 : fdRef (s.fd f) ≠ 0 := by omega
  have h1 : fdRef (s.fd f) ≠ 1 := by omega
  simp [State.fdCommand, fdRefusal, hp, hs, h0, h1, State.fdAnswer]

/-- The last reference given up frees the frame. -/
theorem State.fdCommand_decLast (hs : fdSt (s.fd f) = 1) (hr : fdRef (s.fd f) = 1) : s.fdCommand gid 2 f zf =
    ((s.fdRead f).freeFrame f (s.fd f - 1) false).2.fdAnswer gid ((s.fdRead f).freeFrame f (s.fd f - 1) false).1 0 := by
  simp [State.fdCommand, fdRefusal, hp, hs, hr, State.fdAnswer]

theorem State.fdCommand_free (hs : fdSt (s.fd f) = 1) (hr : fdRef (s.fd f) = 0) : s.fdCommand gid 3 f zf =
    ((s.fdRead f).freeFrame f (s.fd f) zf).2.fdAnswer gid ((s.fdRead f).freeFrame f (s.fd f) zf).1 0 := by
  simp [State.fdCommand, fdRefusal, hp, hs, hr, State.fdAnswer]

/-! The refusals, with their statuses. -/

theorem fdRefusal_overflow {d : Nat} (hs : fdSt d = 1) (hr : fdRef d = 0xFFFF) : fdRefusal 1 f d = some 1 := by
  simp [fdRefusal, hp, hs, hr]

theorem fdRefusal_underflow {d : Nat} (hs : fdSt d = 1) (hr : fdRef d = 0) : fdRefusal 2 f d = some 2 := by
  simp [fdRefusal, hp, hs, hr]

theorem fdRefusal_state {d : Nat} (hs : fdSt d ≠ 1) : fdRefusal 1 f d = some 4 ∧ fdRefusal 2 f d = some 4 := by
  simp [fdRefusal, hp, hs]

theorem fdRefusal_inUse {d : Nat} (h : fdSt d ≠ 1 ∨ fdRef d ≠ 0) : fdRefusal 3 f d = some 3 := by
  simp [fdRefusal, hp, h]

end FdCommand

/-! The frame pool. -/

theorem State.poolPop_empty {b : Nat} (h : (s.bh b).poolCount = 0) : s.poolPop b = (0x8000000000000000, s) := by
  have htop : (2 ^ 63 : DWord) = 0x8000000000000000 := BitVec.eq_of_toNat_eq (by simp [BitVec.toNat_pow])
  simp only [State.poolPop, h, htop, beq_self_eq_true, Bool.true_or, if_true]

theorem State.rawStore_bhs (s : State) (a n v : Nat) : (s.rawStore a n v).bhs = s.bhs := rfl

/-- A record for the supervisor changes no bulkhead. -/
theorem State.postSup_bhs (s : State) (c : Cause) (d0 d1 : Nat) : (s.postSup c d0 d1).bhs = s.bhs := by
  unfold State.postSup State.postSupRecord
  extract_lets a s1 s2
  have h2 : s2.bhs = s.bhs := (((State.rawStore_bhs _ _ _ _).trans (State.rawStore_bhs _ _ _ _)).trans
    (State.rawStore_bhs _ _ _ _)).trans (s.rawStore_bhs _ _ _)
  clear_value s2
  rw [apply_ite State.bhs, h2]
  exact ite_self _

theorem State.bh_postSup (s : State) (c : Cause) (d0 d1 b : Nat) : (s.postSup c d0 d1).bh b = s.bh b := by
  rw [State.bh, State.bh, State.postSup_bhs]

/-- A pop takes the head of the pool, and the frame that its link names becomes the head (R59). -/
theorem State.poolPop_bh {b : Nat} (hn : (s.bh b).poolCount ≠ 0) (hh : (s.bh b).poolHead ≠ 0x7FFFFF) :
    ((s.poolPop b).2.bh b).poolCount = (s.bh b).poolCount - 1 ∧
      ((s.poolPop b).2.bh b).poolHead = fdLink (s.fd (s.bh b).poolHead) := by
  have hne : ((s.bh b).poolCount == 0 || (s.bh b).poolHead == 0x7FFFFF) = false := by simp [hn, hh]
  unfold State.poolPop
  extract_lets x f d n s1 s2
  rw [if_neg (by simpa using hne)]
  have h2 : s2.bh b = s1.bh b := by
    unfold s2
    split
    · exact s1.bh_postSup _ _ _ _
    · rfl
  have h1 : (s1.bh b).poolCount = n ∧ (s1.bh b).poolHead = fdLink d := by
    unfold s1
    rw [State.bh_modBh]
    exact ⟨rfl, rfl⟩
  rwa [← h2] at h1

end Sys2Proof.Machine
end

section
/-! SUPPORT. PT_CMD (R68): each of its refusals, and what a command that succeeds writes and starts. -/

namespace Sys2Proof.Machine
open Sys2Proof.Claims

variable {s : State} {g : Group} {v : DWord} {gid : Nat} {pend : Option Nat}

/-- The level of a command, the low two bits of its word. -/
theorem bits_level (v : DWord) : bits v.toNat 1 0 = (v.extractLsb' 0 2).toNat := (toNat_extractLsb' v 0 2).symm

/-- The part of PT_VA above the global window. -/
theorem bits_above (v : DWord) : bits v.toNat 63 55 = (v.extractLsb' 55 9).toNat := (toNat_extractLsb' v 55 9).symm

theorem toNat_level_ne (h : v.extractLsb' 0 2 ≠ 3) : (v.extractLsb' 0 2).toNat ≠ 3 := fun hn => h (BitVec.eq_of_toNat_eq hn)

/-- The read of the descriptor of a frame that a new leaf names moves only the memory system. -/
theorem State.memStep_entryRead (s : State) (e level : Nat) : s.MemStep (s.entryRead e level) :=
  .ite (State.MemStep.refl s).holeCheck (.refl s)

theorem State.modGroup_entryRead {e level : Nat} {fn : Group → Group} (hg : s.group? gid = some g) :
    (s.entryRead e level).modGroup gid fn = (s.entryRead e level).setGroup gid (fn g) :=
  State.modGroup_eq_setGroup (((s.memStep_entryRead e level).group? gid).trans hg)

theorem State.setGroup_entryRead {e level : Nat} {h : Group} :
    (s.entryRead e level).setGroup s.cur h = withGroup (s.entryRead e level) h := by
  rw [withGroup, (s.memStep_entryRead e level).cur]

/-- The state in which PT_CMD of a group has replaced the entry at an address, with STAT OK (R68). -/
def State.ptWritten (s : State) (gid a new level : Nat) : State :=
  ((s.entryRead new level).devWrite a 8 new).modGroup gid fun g => g.ptStatus 0

section PtCommand

variable (hg : s.group? gid = some g)
include hg

theorem State.ptCommand_level (h : v.extractLsb' 0 2 = 3) : s.ptCommand gid v pend = s.setGroup gid (g.ptStatus 3) := by
  simp only [State.ptCommand, hg, bits_level, h, State.modGroup_eq_setGroup hg]
  rfl

variable (hl : v.extractLsb' 0 2 ≠ 3)
include hl

theorem State.ptCommand_above (ha : g.ptVa.extractLsb' 55 9 ≠ 0) :
    s.ptCommand gid v pend = s.setGroup gid (g.ptStatus 4) := by
  have ha' : (g.ptVa.extractLsb' 55 9).toNat ≠ 0 := fun hn => ha (BitVec.eq_of_toNat_eq hn)
  simp only [State.ptCommand, hg, bits_level, bits_above, State.modGroup_eq_setGroup hg]
  rw [if_neg (by simpa using toNat_level_ne hl), if_pos (by simpa using ha')]

variable (ha : g.ptVa.extractLsb' 55 9 = 0)
include ha

/-- The search for the entry that a command names fails: no table stands at the root, or above the level. -/
theorem State.ptCommand_noTable
    (he : (if tableOk (s.ctx g.asid).root then s.entryAt g.ptVa.toNat (v.extractLsb' 0 2).toNat 4 (s.ctx g.asid).root
      else none) = none) : s.ptCommand gid v pend = s.setGroup gid (g.ptStatus 2) := by
  simp only [State.ptCommand, hg, bits_level, bits_above, ha, he, State.modGroup_eq_setGroup hg]
  rw [if_neg (by simpa using toNat_level_ne hl)]
  rfl

/-! The entry that the command names stands at an address. -/

variable {a : Nat} (ht : tableOk (s.ctx g.asid).root = true)
  (he : s.entryAt g.ptVa.toNat (v.extractLsb' 0 2).toNat 4 (s.ctx g.asid).root = some a)
include ht he

/-- PT_NEW may not stand at the level. -/
theorem State.ptCommand_format (hk : s.entryOk g.ptNew.toNat (v.extractLsb' 0 2).toNat = false) : s.ptCommand gid v pend =
    (s.entryRead g.ptNew.toNat (v.extractLsb' 0 2).toNat).setGroup gid (g.ptStatus 3) := by
  simp only [State.ptCommand, hg, bits_level, bits_above, ha, ht, he, hk, if_true, State.modGroup_entryRead hg]
  rw [if_neg (by simpa using toNat_level_ne hl)]
  rfl

variable (hk : s.entryOk g.ptNew.toNat (v.extractLsb' 0 2).toNat = true)
include hk

/-- The entry in place is not PT_OLD, which then takes it. -/
theorem State.ptCommand_differs (hd : sameEntry (BitVec.ofNat 64 (s.loadNow a 8)) g.ptOld = false) : s.ptCommand gid v pend =
    (s.entryRead g.ptNew.toNat (v.extractLsb' 0 2).toNat).setGroup gid
      { g.ptStatus 1 with ptOld := BitVec.ofNat 64 (s.loadNow a 8) } := by
  simp only [State.ptCommand, hg, bits_level, bits_above, ha, ht, he, hk, hd, if_true, State.modGroup_entryRead hg]
  rw [if_neg (by simpa using toNat_level_ne hl)]
  rfl

variable (hd : sameEntry (BitVec.ofNat 64 (s.loadNow a 8)) g.ptOld = true)
include hd

/-- An entry that was not valid is replaced, and no more. -/
theorem State.ptCommand_fills (hv : (BitVec.ofNat 64 (s.loadNow a 8)).getLsbD 63 = false) : s.ptCommand gid v pend =
    s.ptWritten gid a g.ptNew.toNat (v.extractLsb' 0 2).toNat := by
  simp only [State.ptCommand, hg, bits_level, bits_above, ha, ht, he, hk, hd, hv, if_true]
  rw [if_neg (by simpa using toNat_level_ne hl)]
  rfl

/-- A valid entry replaced starts a shootdown of the pages that it covers. -/
theorem State.ptCommand_replaces (hv : (BitVec.ofNat 64 (s.loadNow a 8)).getLsbD 63 = true) :
    ∃ x : Shoot, s.ptCommand gid v pend = (s.ptWritten gid a g.ptNew.toNat (v.extractLsb' 0 2).toNat).startShoot x ∧
      x.gid = some gid ∧ x.asid = some (s.tagOf g.asid) ∧ x.count = 2 ^ (10 * (v.extractLsb' 0 2).toNat) ∧
        x.first = g.ptVa.toNat / 65536 / x.count * x.count := by
  simp only [State.ptCommand, hg, bits_level, bits_above, ha, ht, he, hk, hd, hv, if_true]
  rw [if_neg (by simpa using toNat_level_ne hl)]
  exact ⟨_, rfl, rfl, rfl, rfl, rfl⟩

end PtCommand

/-! What a command that succeeds leaves. -/

section PtWritten

variable {a new level : Nat}

theorem State.wordsKept_entryRead {e level : Nat} (h : noGrants s) : s.WordsKept (s.entryRead e level) :=
  .ite (State.WordsKept.refl h).holeCheck (.refl h)

theorem State.group?_ptWritten (hg : s.group? gid = some g) :
    (s.ptWritten gid a new level).group? gid = some (g.ptStatus 0) := by
  rw [State.ptWritten, State.group_modGroup, (s.memStep_entryRead new level).devWrite.group? gid, hg, Option.map_some]

theorem State.shoots_ptWritten : (s.ptWritten gid a new level).shoots = s.shoots :=
  (s.memStep_entryRead new level).devWrite.shoots

/-- The entry's eight bytes are written, and no other byte of HBM. -/
theorem State.byteNow_ptWritten (hp : dpaPopulated a = true) (h : noGrants s) : noGrants (s.ptWritten gid a new level) ∧
    ∀ b < 2 ^ 39, (s.ptWritten gid a new level).byteNow b =
      if a ≤ b ∧ b < a + 8 then new / 2 ^ (8 * (b - a)) % 256 else s.byteNow b := by
  have h0 := s.wordsKept_entryRead (e := new) (level := level) h
  obtain ⟨hn, hb⟩ := State.devWrite_bytes (n := 8) (v := new) hp h0.noGrants
  have hw := (State.SameWords.refl ((s.entryRead new level).devWrite a 8 new)).modGroup (gid := gid)
    (f := fun g => g.ptStatus 0)
  exact ⟨hn, fun b hlt => by rw [State.ptWritten, hw.byteNow, hb b hlt, h0.byteNow hlt]⟩

/-- STAT and the translations are all of a group that PT_CMD changes. -/
theorem keepsButTrans_ptStatus (g : Group) (n : Nat) (ts : Vector TransReg 8) : keepsButTrans g { g.ptStatus n with t := ts } :=
  ⟨rfl, fun _ _ => rfl, rfl, rfl, rfl, rfl, rfl, rfl, rfl, rfl, rfl⟩

/-- What a command that succeeds leaves: STAT, its entry, and a shootdown where the entry was valid (R68). -/
theorem State.ptCommand_succeeds {v : DWord} {pend : Option Nat} (hg : s.group? gid = some g) (hl : v.extractLsb' 0 2 ≠ 3)
    (ha : g.ptVa.extractLsb' 55 9 = 0) (ht : tableOk (s.ctx g.asid).root = true)
    (he : s.entryAt g.ptVa.toNat (v.extractLsb' 0 2).toNat 4 (s.ctx g.asid).root = some a)
    (hk : s.entryOk g.ptNew.toNat (v.extractLsb' 0 2).toNat = true)
    (hd : sameEntry (BitVec.ofNat 64 (s.loadNow a 8)) g.ptOld = true) (hp : dpaPopulated a = true) (hn : noGrants s) :
    let t := s.ptCommand gid v pend
    (∃ h, t.group? gid = some h ∧ h.ptStat = 0 ∧ keepsButTrans g h) ∧
      (∀ b < 2 ^ 39, t.byteNow b =
        if a ≤ b ∧ b < a + 8 then g.ptNew.toNat / 2 ^ (8 * (b - a)) % 256 else s.byteNow b) ∧
      ((BitVec.ofNat 64 (s.loadNow a 8)).getLsbD 63 = false → t.shoots = s.shoots) ∧
      ((BitVec.ofNat 64 (s.loadNow a 8)).getLsbD 63 = true → ∃ x, t.shoots = s.shoots ++ [x] ∧
        x.gid = some gid ∧ x.asid = some (s.tagOf g.asid) ∧ x.count = 1024 ^ (v.extractLsb' 0 2).toNat ∧
        x.first = g.ptVa.toNat / 65536 / x.count * x.count) := by
  intro t
  have hgroup := State.group?_ptWritten (a := a) (new := g.ptNew.toNat) (level := (v.extractLsb' 0 2).toNat) hg
  obtain ⟨hnet, hbytes⟩ := State.byteNow_ptWritten (gid := gid) (new := g.ptNew.toNat)
    (level := (v.extractLsb' 0 2).toNat) hp hn
  cases hv : (BitVec.ofNat 64 (s.loadNow a 8)).getLsbD 63 with
  | false =>
    rw [show t = _ from State.ptCommand_fills hg hl ha ht he hk hd hv]
    exact ⟨⟨_, hgroup, rfl, keepsButTrans_ptStatus g 0 g.t⟩, hbytes, fun _ => State.shoots_ptWritten, nofun⟩
  | true =>
    obtain ⟨x, hstart, hgid, hasid, hcount, hfirst⟩ := State.ptCommand_replaces (pend := pend) hg hl ha ht he hk hd hv
    obtain ⟨ts, id, b, hgroup', hshoots⟩ := State.startShoot_spec _ x hgroup
    rw [show t = _ from hstart]
    refine ⟨⟨_, hgroup', rfl, keepsButTrans_ptStatus g 0 ts⟩,
      fun b hb => ((State.WordsKept.startShoot x hnet).byteNow hb).trans (hbytes b hb), nofun,
      fun _ => ⟨{ x with id := id, barrier := b }, hshoots.trans (by rw [State.shoots_ptWritten]), hgid, hasid, ?_, hfirst⟩⟩
    rw [hcount, Nat.pow_mul]

end PtWritten

end Sys2Proof.Machine
end

section
/-! SUPPORT. Shootdowns by command (R66) and the hand-off of a trap (R72). -/

namespace Sys2Proof.Machine

variable {s : State} {g : Group} {v : DWord}

theorem execTlbShoot_busy (h : s.shootGo = true) : execTlbShoot 0 v s = .next s := by
  simp [execTlbShoot, h]

theorem execTlbShoot_idle (h : s.shootGo = false) (hv : v.getLsbD 63 = false) :
    execTlbShoot 0 v s = .next { s with shoot0 := v &&& 0x60FFFFFFFFFFFFFF } := by
  simp only [execTlbShoot, h, hv]
  rfl

/-- GO starts the shootdown that words 0 and 1 of TLB_SHOOT name. -/
theorem execTlbShoot_go (h : s.shootGo = false) (hv : v.getLsbD 63 = true) : ∃ x : Shoot,
    execTlbShoot 0 v s = .next (({ s with shoot0 := v &&& 0x60FFFFFFFFFFFFFF, shootGo := true } : State).startShoot x) ∧
      x.first = (v.extractLsb' 0 40).toNat ∧ x.count = (s.shoot1.extractLsb' 0 32).toNat := by
  simp only [execTlbShoot, h, hv, toNat_extractLsb']
  refine ⟨_, rfl, rfl, ?_⟩
  simp [Shoot.of]

/-- A shootdown that begins is listed, and its range has left every translation cache (R66). -/
theorem State.startShoot_listed (s : State) (x : Shoot) : (s.startShoot x).shootGo = s.shootGo ∧
    (s.startShoot x).shoot0 = s.shoot0 ∧ ∃ y ∈ (s.startShoot x).shoots, y.first = x.first ∧ y.count = x.count ∧
      ∀ c ∈ (s.startShoot x).caches, (∀ e ∈ c.2.leaves, e.inRange y.asid y.first y.count = false) ∧
        ∀ e ∈ c.2.tables, e.inRange y.asid y.first y.count = false := by
  obtain ⟨id, b, he⟩ := s.startShoot_eq x
  rw [he]
  exact ⟨s.memStep_flushAll.shootGo, s.memStep_flushAll.shoot0, { x with id := id, barrier := b },
    List.mem_append_right _ (List.mem_singleton_self _), rfl, rfl, State.purge_caches⟩

theorem execShootdownComplete_found {id : Nat} {x : Shoot} (h : s.shoots.find? (fun y => y.id == id) = some x) :
    execShootdownComplete id s = .next (if s.shootReady x then s.finishShoot x else s) := by
  rw [execShootdownComplete, h]

/-- A group that ends handler mode is no longer in it (R72). -/
theorem State.group?_endHandler {gid : Nat} (hg : s.group? gid = some g) :
    ∃ h, (s.endHandler gid).group? gid = some h ∧ h.hnd = false := by
  have hleave : (s.endHandler gid).group? gid = (s.leaveHandler gid).group? gid := rfl
  rw [hleave, State.leaveHandler, State.group_modGroup, hg, Option.map_some]
  exact ⟨_, rfl, rfl⟩

/-- A group that hands its trap off leaves handler mode, with what it hands to the plex (R72). -/
theorem State.group?_handOff {gid : Nat} (hg : s.group? gid = some g) :
    ∃ h, (s.handOff gid v).group? gid = some h ∧ h.hnd = false ∧ h.handoff = some (v.extractLsb' 0 7) := by
  simp only [State.handOff, hg]
  generalize hback : s.modGroup gid _ = s1
  have hg1 : ∃ h, s1.group? gid = some h := ⟨_, by rw [← hback, State.group_modGroup, hg, Option.map_some]⟩
  obtain ⟨g1, hg1⟩ := hg1
  obtain ⟨h, hend, hhnd⟩ := State.group?_endHandler hg1
  rw [State.group_modGroup, State.plexWait, State.group_modGroup, hend, Option.map_some, Option.map_some]
  exact ⟨_, rfl, hhnd, rfl⟩

end Sys2Proof.Machine
end

section
/-! Frame-table, frame-pool and page-table commands, shootdowns and the hand-off of a trap (O43). -/

namespace Sys2Proof.Claims
open Sys2Proof.Machine

section Commands

variable {s t u : State} {g : Group} (hc : s.current = some g)

theorem goes_of_eq {i : Instr} (he : exec i s = .next t) (h : t = u) : goes i s u := he.trans (congrArg _ h)

include hc

theorem exec_fdRead (f : BitVec 23) : exec (.fdRead f) s = .next (s.fdCommand s.cur 0 f.toNat false) :=
  State.onCurrent_eq hc fun gid => s.fdCommand gid 0 f.toNat false

theorem exec_fdInc (f : BitVec 23) : exec (.fdInc f) s = .next (s.fdCommand s.cur 1 f.toNat false) :=
  State.onCurrent_eq hc fun gid => s.fdCommand gid 1 f.toNat false

theorem exec_fdDec (f : BitVec 23) : exec (.fdDec f) s = .next (s.fdCommand s.cur 2 f.toNat false) :=
  State.onCurrent_eq hc fun gid => s.fdCommand gid 2 f.toNat false

theorem exec_fdFree (f : BitVec 23) (zf : Bool) : exec (.fdFree f zf) s = .next (s.fdCommand s.cur 3 f.toNat zf) :=
  State.onCurrent_eq hc fun gid => s.fdCommand gid 3 f.toNat zf

theorem exec_fpPop (d : Byte) : exec (.fpPop d) s = .next ((s.poolPop (bhOf s.cur)).2.modGroup s.cur fun g =>
    g.wrS d (s.poolPop (bhOf s.cur)).1) :=
  State.onCurrent_eq hc fun gid => (s.poolPop (bhOf gid)).2.modGroup gid fun g => g.wrS d (s.poolPop (bhOf gid)).1

theorem exec_ptCmd (v : DWord) : exec (.ptCmd v) s = .next (s.ptCommand s.cur v none) :=
  State.onCurrent_eq hc fun gid => s.ptCommand gid v none

/-- FT_HANDOFF hands the trap off in handler mode, and traps outside it. -/
theorem exec_ftHandoff (v : DWord) : exec (.ftHandoff v) s =
    .next (if g.hnd then s.handOff s.cur v else s.takeTrap s.cur s.curSlot (TrapInfo.of .sysregValue)) := by
  have he : exec (.ftHandoff v) s = execFtHandoff v s := rfl
  rw [he, execFtHandoff, hc]

end Commands

/-- Settles O43, by what each command does in each case of its rules. -/
theorem translationCommands : Obligations.Translation_commands := by
  intro s g hc
  obtain ⟨hg, -, -⟩ := State.current_eq hc
  have stat {v : DWord} {n : Nat} (h : s.ptCommand s.cur v none = s.setGroup s.cur (g.ptStatus n)) :
      goes (.ptCmd v) s (withGroup s (g.ptStatus n)) := goes_of_eq (exec_ptCmd hc v) h
  refine ⟨fun f hp => ?_, fun f hp => ?_, fun d h => goes_of_eq (exec_fpPop hc d) ?_,
    fun d hn hh => ⟨_, exec_fpPop hc d, State.poolPop_bh hn hh⟩, fun v h => stat (State.ptCommand_level hg h),
    fun v h ha ht => stat (State.ptCommand_noTable hg h ha (by rw [if_neg (by simp [ht])])),
    fun v h ha => stat (State.ptCommand_above hg h ha),
    fun v h ha ht he => stat (State.ptCommand_noTable hg h ha (by rw [if_pos ht, he])), fun v a h ha ht he => ?_,
    fun v => ⟨rfl, execTlbShoot_busy, execTlbShoot_idle, fun h hv => ?_⟩,
    fun id x hx hr => (execShootdownComplete_found hx).trans (by rw [if_pos hr]),
    fun id x hx hr => (execShootdownComplete_found hx).trans (by rw [hr]; rfl), fun v hh => ⟨?_, fun t ht => ?_⟩,
    fun v hh => (exec_ftHandoff hc v).trans (by rw [hh]; rfl)⟩
  · have refused {op c : Nat} {zf : Bool} (hr : fdRefusal op f.toNat (s.fd f.toNat) = some c) :=
      State.fdCommand_refused (gid := s.cur) (zf := zf) hp hr
    exact ⟨State.fdRead_populated, goes_of_eq (exec_fdRead hc f) (State.fdCommand_read hp),
      fun hs hr => goes_of_eq (exec_fdInc hc f) (State.fdCommand_inc hp hs hr),
      fun hs hr => goes_of_eq (exec_fdInc hc f) (refused (fdRefusal_overflow hp hs hr)),
      fun hs => ⟨goes_of_eq (exec_fdInc hc f) (refused (fdRefusal_state hp hs).1),
        goes_of_eq (exec_fdDec hc f) (refused (fdRefusal_state hp hs).2)⟩,
      fun hs hr => goes_of_eq (exec_fdDec hc f) (refused (fdRefusal_underflow hp hs hr)),
      fun hs hr => goes_of_eq (exec_fdDec hc f) (State.fdCommand_dec hp hs hr),
      fun hs hr => goes_of_eq (exec_fdDec hc f) (State.fdCommand_decLast hp hs hr),
      fun zf => ⟨fun hs hr => goes_of_eq (exec_fdFree hc f zf) (State.fdCommand_free hp hs hr),
        fun h => goes_of_eq (exec_fdFree hc f zf) (refused (fdRefusal_inUse hp h))⟩⟩
  · exact ⟨goes_of_eq (exec_fdRead hc f) (State.fdCommand_unpopulated hp),
      goes_of_eq (exec_fdInc hc f) (State.fdCommand_unpopulated hp),
      goes_of_eq (exec_fdDec hc f) (State.fdCommand_unpopulated hp),
      fun zf => goes_of_eq (exec_fdFree hc f zf) (State.fdCommand_unpopulated hp)⟩
  · rw [State.poolPop_empty h]
    exact State.modGroup_eq_setGroup hg
  · exact ⟨fun hk => goes_of_eq (exec_ptCmd hc v) ((State.ptCommand_format hg h ha ht he hk).trans State.setGroup_entryRead),
      fun hk hd => goes_of_eq (exec_ptCmd hc v) ((State.ptCommand_differs hg h ha ht he hk hd).trans State.setGroup_entryRead),
      fun hk hd hp _ hn => ⟨_, exec_ptCmd hc v, State.ptCommand_succeeds hg h ha ht he hk hd hp hn⟩⟩
  · obtain ⟨x, hexec, hfirst, hcount⟩ := execTlbShoot_go h hv
    obtain ⟨hgo, h0, y, hy, hyf, hyc, hcaches⟩ := State.startShoot_listed
      { s with shoot0 := v &&& 0x60FFFFFFFFFFFFFF, shootGo := true } x
    exact ⟨_, hexec, hgo, h0, y, hy, hyf.trans hfirst, hyc.trans hcount, hcaches⟩
  · exact (exec_ftHandoff hc v).trans (by rw [if_pos hh])
  · rw [exec_ftHandoff hc v, if_pos hh] at ht
    cases ht
    exact State.group?_handOff hg

end Sys2Proof.Claims
end

section
/-! SUPPORT. What the issue of loads and stores leaves of memory (R89, R96, R115, R141): which bytes keep their value, which words
an L1 still lacks, and that what is on its way stays on its way. Unlike `State.WordsKept` it asks nothing of the grants that are on
their way: no word is recalled here. -/

namespace Sys2Proof.Machine

/-- What decides which devices and multicast sets a bulkhead reaches (R26, R27, R416, R417). -/
structure State.SameDomain (s t : State) : Prop where
  fabCfg : t.fabCfg = s.fabCfg
  tntShape : t.tntShape = s.tntShape
  tntFab : t.tntFab = s.tntFab
  mcSet : t.mcSet = s.mcSet
  phase : ∀ b, (t.bh b).rstPhase = (s.bh b).rstPhase

/-- What stands apart from the words of memory: the domain, the messages and the posted writes. -/
structure State.Apart (s t : State) : Prop extends State.SameDomain s t where
  net : t.net = s.net
  posted : t.posted = s.posted

/-- The bytes of HBM outside `B` have their values, the words that `core` lacked and that hold no byte of `B` it still lacks, and
the messages and posted writes on their way stay so. -/
structure State.MemKept (core : Nat) (B : Nat → Prop) (s t : State) : Prop extends State.SameDomain s t where
  bytes : ∀ b < 2 ^ 39, ¬ B b → t.byteNow b = s.byteNow b
  absent : ∀ w, (∀ k < 4, ¬ B (4 * w + k)) → s.l1 core w = none → t.l1 core w = none
  net : s.net <+: t.net
  posted : s.posted <+: t.posted

section Domain

variable {s t : State}

theorem State.SameDomain.refl (s : State) : s.SameDomain s := ⟨rfl, rfl, rfl, rfl, fun _ => rfl⟩

theorem State.SameDomain.tenantOf (h : s.SameDomain t) (b : Nat) : t.tenantOf b = s.tenantOf b := by
  simp only [State.tenantOf, h.tntShape]

theorem State.SameDomain.mcEntry (h : s.SameDomain t) (b set : Nat) : t.mcEntry b set = s.mcEntry b set := by
  simp only [State.mcEntry, h.tenantOf, h.mcSet]

theorem State.SameDomain.deviceOk (h : s.SameDomain t) (b d : Nat) : t.deviceOk b d = s.deviceOk b d := by
  have hentry (n : Nat) : t.fabEntry n = s.fabEntry n := by simp only [State.fabEntry, h.tntFab]
  simp only [State.deviceOk, State.fabricOpen, hentry, h.tenantOf, h.fabCfg, h.phase]

theorem State.SameDomain.devId (h : s.SameDomain t) : t.devId = s.devId := by
  simp only [State.devId, h.fabCfg]

theorem State.Apart.refl (s : State) : s.Apart s := ⟨.refl s, rfl, rfl⟩

theorem State.Apart.ite {u v : State} {q : Prop} [Decidable q] (hu : s.Apart u) (hv : s.Apart v) :
    s.Apart (if q then u else v) := by
  split
  · exact hu
  · exact hv

theorem State.Apart.modCore {c : Nat} {f : Core → Core} (h : s.Apart t) : s.Apart (t.modCore c f) := { h with }

theorem State.Apart.modBh {b : Nat} {f : Bulkhead → Bulkhead} (h : s.Apart t)
    (hf : (f (t.bh b)).rstPhase = (t.bh b).rstPhase) : s.Apart (t.modBh b f) := by
  refine { h with phase := fun j => .trans ?_ (h.phase j) }
  by_cases hj : j = b
  · rw [hj, State.bh_modBh, hf]
  · rw [State.bh_modBh_other _ _ _ _ hj]

theorem State.Apart.setLine {l : Nat} {x : Line} (h : s.Apart t) : s.Apart (t.setLine l x) := .ite { h with } { h with }

theorem State.Apart.touchDirty {dpa stamp : Nat} (h : s.Apart t) : s.Apart (t.touchDirty dpa stamp) := h.setLine

theorem State.Apart.setPoison {w : Nat} {p : Option PoisonLevel} (h : s.Apart t) : s.Apart (t.setPoison w p) := by
  unfold State.setPoison
  split <;> exact { h with }

theorem State.Apart.takeBack {w : Nat} (h : s.Apart t) : s.Apart (t.takeBack w) := by
  unfold State.takeBack
  split
  · exact h
  · extract_lets s1
    have h1 : s.Apart s1 := { h with }
    clear_value s1
    split
    · exact h1.touchDirty
    next x _ =>
      extract_lets s2
      have h2 : s.Apart s2 := { h1 with }
      clear_value s2
      exact .ite h2.setPoison.touchDirty.modCore h1.touchDirty

theorem State.Apart.setRedirects {bh ni : Nat} {rs : List Redirect} (h : s.Apart t) : s.Apart (t.setRedirects bh ni rs) :=
  .ite h.modCore (h.modBh rfl)

theorem State.Apart.ite_snd {α : Type} {x y : α × State} {q : Prop} [Decidable q] (hx : s.Apart x.2) (hy : s.Apart y.2) :
    s.Apart (if q then x else y).2 := by
  split
  · exact hx
  · exact hy

theorem State.Apart.route {bh ni dpa : Nat} (h : s.Apart t) : s.Apart (t.route bh ni dpa).2 := .ite_snd h h.setRedirects

end Domain

variable {core : Nat} {B : Nat → Prop} {s t u : State}

theorem State.MemKept.refl (s : State) : State.MemKept core B s s :=
  ⟨.refl s, fun _ _ _ => rfl, fun _ _ h => h, List.prefix_rfl, List.prefix_rfl⟩

theorem State.MemKept.trans (h : State.MemKept core B s t) (h' : State.MemKept core B t u) :
    State.MemKept core B s u where
  fabCfg := h'.fabCfg.trans h.fabCfg
  tntShape := h'.tntShape.trans h.tntShape
  tntFab := h'.tntFab.trans h.tntFab
  mcSet := h'.mcSet.trans h.mcSet
  phase b := (h'.phase b).trans (h.phase b)
  bytes b hb hB := (h'.bytes b hb hB).trans (h.bytes b hb hB)
  absent w hw hn := h'.absent w hw (h.absent w hw hn)
  net := h.net.trans h'.net
  posted := h.posted.trans h'.posted

theorem State.MemKept.ite {v : State} {q : Prop} [Decidable q] (hu : State.MemKept core B s u) (hv : State.MemKept core B s v) :
    State.MemKept core B s (if q then u else v) := by
  split
  · exact hu
  · exact hv

theorem State.MemKept.foldl {β : Type} {l : List β} {f : State → β → State} (h : State.MemKept core B s t)
    (hf : ∀ u, ∀ b ∈ l, State.MemKept core B s u → State.MemKept core B s (f u b)) : State.MemKept core B s (l.foldl f t) :=
  List.foldlRecOn l f h fun u hu b hb => hf u b hb hu

/-- A step that keeps every word of HBM and brings none into an L1. -/
theorem State.MemKept.words (h : State.MemKept core B s t) (hd : t.SameDomain u) (hw : ∀ w < 2 ^ 37, u.wordNow w = t.wordNow w)
    (hl : ∀ w, t.l1 core w = none → u.l1 core w = none) (hn : t.net <+: u.net) (hp : t.posted <+: u.posted) :
    State.MemKept core B s u :=
  h.trans ⟨hd, fun b hb _ => by rw [State.byteNow, State.byteNow, hw (b / 4) (by omega)], fun w _ => hl w, hn, hp⟩

/-- A change of what stands apart from the words, the L1s and what is on its way. -/
theorem State.MemKept.aside (h : State.MemKept core B s t) (ha : t.Apart u) (hw : t.SameWords u) : State.MemKept core B s u :=
  h.words ha.toSameDomain (fun w _ => hw.wordNow w) (fun w hl => (congrArg (Table.find · w) (hw.l1 core)).trans hl)
    (ha.net ▸ List.prefix_rfl) (ha.posted ▸ List.prefix_rfl)

theorem State.MemKept.modGroup {gid : Nat} {f : Group → Group} (h : State.MemKept core B s t) :
    State.MemKept core B s (t.modGroup gid f) := { h with }

theorem State.MemKept.modBh {b : Nat} {f : Bulkhead → Bulkhead} (h : State.MemKept core B s t)
    (hf : (f (t.bh b)).rstPhase = (t.bh b).rstPhase) : State.MemKept core B s (t.modBh b f) :=
  h.aside ((State.Apart.refl t).modBh hf) (State.SameWords.refl t).modBh

/-- A change of a core apart from its L1. -/
theorem State.MemKept.modCore {c : Nat} {f : Core → Core} (h : State.MemKept core B s t)
    (hf : (f (t.core c)).l1 = (t.core c).l1) : State.MemKept core B s (t.modCore c f) :=
  h.aside (State.Apart.refl t).modCore ((State.SameWords.refl t).modCore hf)

/-- A record in the plex SRAM lies beyond the words of HBM (R30, R31). -/
theorem State.MemKept.rawStore {a n v : Nat} (h : State.MemKept core B s t) (ha : 2 ^ 39 ≤ a) :
    State.MemKept core B s (t.rawStore a n v) := by
  refine h.words { State.SameDomain.refl t with } (fun w hw => ?_) (fun _ hn => hn) List.prefix_rfl List.prefix_rfl
  refine State.wordNow_congr rfl (fun _ _ => rfl) (State.homeWord_congr fun c _ hc => ?_)
  rw [State.rawStore, Memory.byte_store, if_neg (by omega)]

/-- The pointers of the supervisor's event ring. -/
theorem State.MemKept.sevq {put count gap : Nat} (h : State.MemKept core B s t) :
    State.MemKept core B s { t with sevqPut := put, sevqCount := count, sevqGap := gap } := { h with }

theorem State.MemKept.postSup {c : Cause} {d0 d1 : Nat} (h : State.MemKept core B s t) :
    State.MemKept core B s (t.postSup c d0 d1) := by
  unfold State.postSup State.postSupRecord
  extract_lets a s1 s2
  have ha : 2 ^ 39 ≤ a := Nat.le_add_right_of_le (by decide)
  clear_value a
  have h2 : State.MemKept core B s s2 :=
    (((h.rawStore ha).rawStore (by omega)).rawStore (by omega)).rawStore (by omega)
  clear_value s2
  exact .ite { h with } h2.sevq

/-! The counters of the slices and of the cores. -/

theorem State.MemKept.setLcs {b slice v : Nat} (h : State.MemKept core B s t) : State.MemKept core B s (t.setLcs b slice v) :=
  .ite (h.modBh rfl).postSup (h.modBh rfl)

theorem State.MemKept.lccTake {c v : Nat} (h : State.MemKept core B s t) : State.MemKept core B s (t.lccTake c v) := h.modCore rfl

theorem State.MemKept.announce {c : Nat} {cs : List Nat} (h : State.MemKept core B s t) :
    State.MemKept core B s (t.announce c cs) := h.foldl fun _ _ _ hu => hu.setLcs

theorem State.MemKept.hear {c : Nat} {cs : List Nat} (h : State.MemKept core B s t) : State.MemKept core B s (t.hear c cs) :=
  .ite h h.lccTake

theorem State.MemKept.relay {c target : Nat} (h : State.MemKept core B s t) : State.MemKept core B s (t.relay c target) :=
  .ite h h.announce.hear.setLcs.lccTake

theorem State.MemStep.announce {c : Nat} {cs : List Nat} (h : s.MemStep t) : s.MemStep (t.announce c cs) :=
  h.foldl fun _ _ hu => hu.setLcs

theorem State.MemStep.relay {c target : Nat} (h : s.MemStep t) : s.MemStep (t.relay c target) :=
  .ite h (State.MemStep.ite h.announce h.announce.lccTake).setLcs.lccTake

end Sys2Proof.Machine
end

section
/-! SUPPORT. Words that leave an L1 (R89, R90): what is evicted, returned or sent brings no word into an L1 and changes the state of
none that stays. -/

namespace Sys2Proof.Machine

/-- Every word of an L1 stood there before, in the same state. -/
def State.L1Within (s t : State) : Prop :=
  ∀ core w x, t.l1 core w = some x → ∃ y, s.l1 core w = some y ∧ y.st = x.st

variable {s t u : State} {w : Nat}

theorem State.L1Within.refl (s : State) : s.L1Within s := fun _ _ x hx => ⟨x, hx, rfl⟩

theorem State.L1Within.absent {core : Nat} (h : s.L1Within t) (hn : s.l1 core w = none) : t.l1 core w = none := by
  cases ht : t.l1 core w with
  | none => rfl
  | some x =>
    obtain ⟨y, hy, -⟩ := h core w x ht
    rw [hn] at hy
    cases hy

theorem State.L1Within.ite {v : State} {q : Prop} [Decidable q] (hu : s.L1Within u) (hv : s.L1Within v) :
    s.L1Within (if q then u else v) := by
  split
  · exact hu
  · exact hv

theorem State.L1Within.foldl {β : Type} {l : List β} {f : State → β → State} (h : s.L1Within t)
    (hf : ∀ u b, s.L1Within u → s.L1Within (f u b)) : s.L1Within (l.foldl f t) :=
  List.foldlRecOn l f h fun u hu b _ => hf u b hu

theorem State.L1Within.sameL1 (h : s.L1Within t) (hl : ∀ core, (u.core core).l1 = (t.core core).l1) : s.L1Within u :=
  fun core w x hx => h core w x ((congrArg (Table.find · w) (hl core)).symm.trans hx)

theorem State.L1Within.books (h : s.L1Within t) (hb : t.Books u) : s.L1Within u := h.sameL1 hb.l1

theorem State.l1_dropL1_same (s : State) (core w : Nat) : (s.dropL1 core w).l1 core w = none := by
  rw [State.l1, State.dropL1, State.core_modCore, Table.find_erase_same]

theorem State.l1_dropL1_core (s : State) {core w c w' : Nat} (h : c ≠ core) : (s.dropL1 core w).l1 c w' = s.l1 c w' := by
  rw [State.l1, State.l1, State.dropL1, State.core_modCore_other _ _ _ _ h]

theorem State.L1Within.dropL1 {core : Nat} (h : s.L1Within t) : s.L1Within (t.dropL1 core w) := fun c w' x hx => by
  by_cases hw : w' = w
  · subst hw
    by_cases hc : c = core
    · rw [hc, State.l1_dropL1_same] at hx
      cases hx
    · exact h c w' x ((t.l1_dropL1_core hc).symm.trans hx)
  · exact h c w' x ((t.l1_dropL1_other core c hw).symm.trans hx)

theorem State.L1Within.setL1 {core : Nat} {x y : L1Word} (h : s.L1Within t) (hx : t.l1 core w = some x) (hst : y.st = x.st) :
    s.L1Within (t.setL1 core w y) := fun c w' z hz => by
  by_cases hcw : c ≠ core ∨ w' ≠ w
  · exact h c w' z ((t.l1_setL1_other hcw).symm.trans hz)
  · obtain ⟨rfl, rfl⟩ := not_or.1 hcw |>.imp not_not.1 not_not.1
    rw [State.l1_setL1_same] at hz
    cases hz
    exact hst ▸ h c w' x hx

theorem State.L1Within.dropV {core : Nat} (h : s.L1Within t) : s.L1Within (t.dropV core w) := by
  unfold State.dropV
  split
  · exact .ite h.dropL1 h
  · exact h

theorem State.L1Within.clearLazy {core : Nat} (h : s.L1Within t) : s.L1Within (t.clearLazy core w) := by
  unfold State.clearLazy
  split
  next x hx => exact h.setL1 hx rfl
  · exact h

theorem State.L1Within.markLeaving {core : Nat} (h : s.L1Within t) : s.L1Within (t.markLeaving core w) := by
  unfold State.markLeaving
  split
  next x hx => exact .ite (h.setL1 hx rfl) h
  · exact h

theorem State.L1Within.send {m : Msg} (h : s.L1Within t) : s.L1Within (t.send m) := h.sameL1 (State.SameWords.refl t).send.l1

theorem State.L1Within.flushWord {core : Nat} (h : s.L1Within t) : s.L1Within (t.flushWord core w) := by
  unfold State.flushWord
  split
  · exact h
  · split
    · exact h
    · exact .ite h.clearLazy.clearLazy.send (h.clearLazy.foldl fun _ _ hu => hu.send)

/-- A record for the supervisor changes no core and no bulkhead. -/
theorem State.postSup_frame (s : State) (c : Cause) (d0 d1 : Nat) :
    (s.postSup c d0 d1).cores = s.cores ∧ (s.postSup c d0 d1).bhs = s.bhs := by
  have hraw (u : State) (a n v : Nat) : u.cores = s.cores ∧ u.bhs = s.bhs →
      (u.rawStore a n v).cores = s.cores ∧ (u.rawStore a n v).bhs = s.bhs := id
  have hring (u : State) (p k g : Nat) (hu : u.cores = s.cores ∧ u.bhs = s.bhs) :
      ({ u with sevqPut := p, sevqCount := k, sevqGap := g } : State).cores = s.cores ∧
        ({ u with sevqPut := p, sevqCount := k, sevqGap := g } : State).bhs = s.bhs := hu
  unfold State.postSup State.postSupRecord
  extract_lets a s1 s2
  have h2 : s2.cores = s.cores ∧ s2.bhs = s.bhs := hraw _ _ _ _ (hraw _ _ _ _ (hraw _ _ _ _ (hraw _ _ _ _ ⟨rfl, rfl⟩)))
  clear_value s2
  split
  · exact ⟨rfl, rfl⟩
  · exact hring s2 _ _ _ h2

theorem State.cores_setLcs (s : State) (b slice v : Nat) : (s.setLcs b slice v).cores = s.cores := by
  unfold State.setLcs
  extract_lets n s1
  split
  · exact (s1.postSup_frame _ _ _).1
  · rfl

theorem State.L1Within.setLcs {b slice v : Nat} (h : s.L1Within t) : s.L1Within (t.setLcs b slice v) :=
  h.sameL1 fun core => congrArg (fun cs => (Table.findD cs core Core.reset).l1) (t.cores_setLcs b slice v)

theorem State.L1Within.takeBack (h : s.L1Within t) : s.L1Within (t.takeBack w) := by
  unfold State.takeBack
  split
  · exact h
  next c stamp _ =>
    extract_lets s1
    have h1 : s.L1Within s1 := h
    clear_value s1
    split
    · exact h1.books (State.Books.refl _).touchDirty
    next x _ =>
      extract_lets s2
      have h2 : s.L1Within s2 := h1
      clear_value s2
      exact .ite (h2.books (State.Books.refl s2).setPoison.touchDirty).dropL1 (h1.books (State.Books.refl _).touchDirty)

theorem State.L1Within.handBack {core : Nat} (h : s.L1Within t) : s.L1Within (t.handBack core w) := h.setLcs.takeBack

theorem State.L1Within.leaveWord {core : Nat} (h : s.L1Within t) : s.L1Within (t.leaveWord core w) := .ite h.handBack h.dropL1

/-- A V word that is dropped is not there any more. -/
theorem State.l1_dropV_same {core : Nat} {x : L1Word} (hx : (s.dropV core w).l1 core w = some x) : x.st ≠ .valid := by
  unfold State.dropV at hx
  split at hx
  next y hy =>
    split at hx
    · rw [State.l1_dropL1_same] at hx
      cases hx
    next hst =>
      rw [hy] at hx
      cases hx
      simpa using hst
  next hn =>
    rw [hn] at hx
    cases hx

theorem State.l1_dropV_list {core : Nat} (l : List Nat) (s : State) :
    ∀ w ∈ l, ∀ x, (l.foldl (fun s w => s.dropV core w) s).l1 core w = some x → x.st ≠ .valid := by
  induction l generalizing s with
  | nil => exact nofun
  | cons v l ih =>
    intro w hw x hx
    obtain rfl | hw := List.mem_cons.1 hw
    · obtain ⟨y, hy, hst⟩ := ((State.L1Within.refl (s.dropV core w)).foldl (l := l) fun _ _ hu => hu.dropV) core w x hx
      exact hst ▸ State.l1_dropV_same hy
    · exact ih _ w hw x hx

/-- What an eviction leaves of an L1 once the line's V words are dropped. -/
theorem State.evictL1_within (s : State) (core line : Nat) :
    ((wordsOfLine line).foldl (fun s w => s.dropV core w) s).L1Within (s.evictL1 core line) :=
  ((State.L1Within.refl _).foldl fun _ _ hu => .ite hu.leaveWord hu).foldl fun _ _ hu => hu.flushWord.markLeaving

/-- No V word of a line that was evicted is left (R89). -/
theorem State.evictL1_noValid (s : State) (core line : Nat) :
    ∀ w ∈ wordsOfLine line, ∀ x, (s.evictL1 core line).l1 core w = some x → x.st ≠ .valid := fun w hw x hx => by
  obtain ⟨y, hy, hst⟩ := s.evictL1_within core line core w x hx
  exact hst ▸ State.l1_dropV_list _ s w hw y hy

end Sys2Proof.Machine
end

section
/-! SUPPORT. Interleave selectors (R109 to R111): the counters that a switch of selectors raises, and what it leaves of its
bulkhead. -/

namespace Sys2Proof.Machine

variable {s : State} {b : Nat} {v : DWord}

/-- A counter that is set is all that changes of its bulkhead. -/
theorem State.bh_setLcs (s : State) (b slice v : Nat) : ∃ l, (s.setLcs b slice v).bh b = { s.bh b with lcs := l } := by
  unfold State.setLcs
  extract_lets n s1
  have h1 : ∃ l, s1.bh b = { s.bh b with lcs := l } := ⟨_, State.bh_modBh _ _ _⟩
  split
  · rwa [State.bh, (s1.postSup_frame _ _ _).2]
  · exact h1

theorem State.bh_foldl_lcs {β : Type} {f : State → β → State} (l : List β) (s : State)
    (hf : ∀ u x, ∃ c, (f u x).bh b = { u.bh b with lcs := c }) : ∃ c, (l.foldl f s).bh b = { s.bh b with lcs := c } := by
  refine List.foldlRecOn (motive := fun u => ∃ c, u.bh b = { s.bh b with lcs := c }) l f ⟨_, rfl⟩ fun u hu x _ => ?_
  obtain ⟨c, hc⟩ := hu
  obtain ⟨c', hc'⟩ := hf u x
  exact ⟨c', by rw [hc', hc]⟩

theorem State.bh_raiseLcs (s : State) (b old new : Nat) : ∃ c, (s.raiseLcs b old new).bh b = { s.bh b with lcs := c } :=
  State.bh_foldl_lcs _ s fun u _ => u.bh_setLcs b _ _

theorem State.MemKept.raiseLcs {core : Nat} {B : Nat → Prop} {t : State} {old new : Nat} (h : State.MemKept core B s t) :
    State.MemKept core B s (t.raiseLcs b old new) := h.foldl fun _ _ _ hu => hu.setLcs

/-- The selectors that HMASK_WRITE accepts (R109, R111). -/
def State.hmaskOk (s : State) (b : Nat) (v : DWord) : Bool :=
  (changedRegions (s.bh b).hmask v).all fun r => selectorOk (selector v r) && (s.bh b).qReg.getLsbD r

theorem execHmaskWrite_eq : execHmaskWrite b v s = .next (if s.hmaskOk b v then
    ((changedRegions (s.bh b).hmask v).foldl (fun s' r => s'.raiseLcs b (selector (s.bh b).hmask r) (selector v r)) s).modBh b
      fun x => { x with hmask := v, gen := bumpGen x.gen (changedRegions (s.bh b).hmask v),
                        qBusy := x.qBusy || !(changedRegions (s.bh b).hmask v).isEmpty }
    else s.modBh b fun x => { x with qRefused := true }) :=
  (apply_ite Host.Outcome.next _ _ _).symm

end Sys2Proof.Machine
end

section
/-! Evictions, the drain of ABSMAX, interleave selectors, quiescing and ranged write-backs (O41). -/

namespace Sys2Proof.Claims
open Sys2Proof.Machine

variable {s : State} {b : Nat} {v : DWord}

/-- HMASK_WRITE of selectors that are well formed, for quiesced regions (R109 to R111). -/
theorem hmaskWrite_accepted (h : s.hmaskOk b v = true) :
    reaches (.hmaskWrite b v) s fun t => (t.bh b).hmask = v ∧ (t.bh b).qReg = (s.bh b).qReg ∧
      (∀ a < 2 ^ 39, t.byteNow a = s.byteNow a) ∧ (t.bh b).gen = bumpGen (s.bh b).gen (changedRegions (s.bh b).hmask v) := by
  refine ⟨_, execHmaskWrite_eq.trans (by rw [if_pos h]), ?_⟩
  obtain ⟨c, hc⟩ := State.bh_foldl_lcs (b := b) (f := fun s' r => s'.raiseLcs b (selector (s.bh b).hmask r) (selector v r))
    (changedRegions (s.bh b).hmask v) s fun u r => u.bh_raiseLcs b _ _
  have hbytes : State.MemKept 0 (fun _ => False) s ((changedRegions (s.bh b).hmask v).foldl
      (fun s' r => s'.raiseLcs b (selector (s.bh b).hmask r) (selector v r)) s) :=
    (State.MemKept.refl s).foldl fun _ _ _ hu => hu.raiseLcs
  rw [State.bh_modBh, hc]
  exact ⟨rfl, rfl, fun a ha => hbytes.bytes a ha id, rfl⟩

/-- HMASK_WRITE of a selector that is ill formed, or of a region that is not quiesced, is refused (R109, R111). -/
theorem hmaskWrite_refused (h : s.hmaskOk b v = false) :
    reaches (.hmaskWrite b v) s fun t => t.bh b = { s.bh b with qRefused := true } :=
  ⟨_, execHmaskWrite_eq.trans (by rw [if_neg (by simp [h])]), State.bh_modBh _ _ _⟩

theorem writebackComplete_idle (h : (s.bh b).wbGo = false) : goes (.writebackComplete b) s s := by
  have he : exec (.writebackComplete b) s = execWritebackComplete b s := rfl
  rw [goes, he, execWritebackComplete]
  simp [h]

/-- A write-back that GO has started ends, while no grant is on its way (R90, R117). -/
theorem writebackComplete_ends (h : (s.bh b).wbGo = true) (hn : noGrants s) :
    reaches (.writebackComplete b) s fun t => (t.bh b).wbGo = false := by
  have hnone (q : Msg → Bool) : (s.net.any fun m => m.kind == .grant && q m) = false :=
    List.any_eq_false.2 fun m hm => by simp [hn m hm]
  have he : exec (.writebackComplete b) s = execWritebackComplete b s := rfl
  rw [reaches, he, execWritebackComplete]
  simp only [h, hnone]
  exact ⟨_, rfl, by rw [State.bh_modBh]⟩

/-- The quiesce work is not complete while a capture or an accepted request is under way, and ends otherwise (R111). -/
theorem quiesceComplete_ends (h : (s.bh b).qBusy = true) (hc : (s.bh b).capturesSent = true) (ha : s.acceptedDone b = true) :
    reaches (.quiesceComplete b) s fun t => (t.bh b).qBusy = false := by
  have he : exec (.quiesceComplete b) s = execQuiesceComplete b s := rfl
  rw [reaches, he, execQuiesceComplete, h, hc, ha]
  exact ⟨_, rfl, by rw [State.bh_modBh]⟩

/-- A write of L2_WBCMD or of its COUNT while a write-back runs is ignored (log 53). -/
theorem l2Wbcmd_running (h : (s.bh b).wbGo = true) (word : Nat) : goes (.l2Wbcmd b word v) s s := by
  have he : exec (.l2Wbcmd b word v) s = execL2Wbcmd b word v s := rfl
  rw [goes, he, execL2Wbcmd]
  simp only [h, if_true]

theorem l2Wbcmd_count (h : (s.bh b).wbGo = false) :
    reaches (.l2Wbcmd b 1 v) s fun t => t.bh b = { s.bh b with wbCount := (v.extractLsb' 0 20).toNat } := by
  have he : execL2Wbcmd b 1 v s = .next (s.modBh b fun x => { x with wbCount := bits v.toNat 19 0 }) := if_neg (by simp [h])
  exact ⟨_, he, (State.bh_modBh _ _ _).trans (by rw [toNat_extractLsb']; rfl)⟩

/-- GO starts a write-back where its frames are those of the bulkhead, and sets ERR otherwise (R117). -/
theorem l2Wbcmd_go (h : (s.bh b).wbGo = false) (hv : v.getLsbD 63 = true) :
    reaches (.l2Wbcmd b 0 v) s fun t => (t.bh b).wbGo = !(t.bh b).wbErr ∧ (t.bh b).wbDrop = v.getLsbD 62 ∧
      (t.bh b).wbFrame = (v.extractLsb' 0 23).toNat := by
  have he : exec (.l2Wbcmd b 0 v) s = execL2Wbcmd b 0 v s := rfl
  rw [reaches, he, execL2Wbcmd]
  simp only [h, hv]
  refine ⟨_, rfl, ?_⟩
  rw [State.bh_modBh, toNat_extractLsb']
  exact ⟨(Bool.not_not _).symm, rfl, rfl⟩

/-- Settles O41, by what each of its steps does. -/
theorem cacheMaintenance : Obligations.Cache_maintenance := by
  intro s b v
  refine ⟨fun core line => ⟨_, rfl, s.evictL1_noValid core line⟩, fun line h => ?_, fun line hp hq => ?_,
    fun gid g x rest hg hx => ?_, fun h => hmaskWrite_accepted ?_, fun r hr h => hmaskWrite_refused ?_, ⟨_, rfl, ?_⟩, fun h => ?_,
    quiesceComplete_ends, l2Wbcmd_count, fun word h => l2Wbcmd_running h word, l2Wbcmd_go, writebackComplete_idle,
    writebackComplete_ends⟩
  · have hkeep : ((s.line line).pins.isEmpty && s.quiet (128 * line) 128) = false := by
      rcases h with h | h <;> simp [h]
    exact congrArg Host.Outcome.next (by rw [hkeep]; rfl)
  · exact congrArg Host.Outcome.next (by rw [hp, hq]; rfl)
  · exact congrArg Host.Outcome.next ((State.modGroup_eq_setGroup hg).trans (by rw [hx]; rfl))
  · exact List.all_eq_true.2 fun r hr => by rw [(h r hr).1, (h r hr).2]; rfl
  · exact List.all_eq_false.2 ⟨r, hr, by rcases h with h | h <;> simp [h]⟩
  · simp only [State.bh_modBh, true_and]
  · have he : exec (.quiesceComplete b) s = execQuiesceComplete b s := rfl
    rw [goes, he, execQuiesceComplete, h]
    rfl

end Sys2Proof.Claims
end

section
/-! SUPPORT. What a core does with the words of its L1 when it issues a load or a store (R87, R89, R119): the words that it returns,
sends or marks as stored keep their values, and a store changes the bytes that it covers and no others. -/

namespace Sys2Proof.Machine

variable {core : Nat} {B : Nat → Prop} {s t u : State} {w : Nat}

/-- A step that keeps the value of every word and at most takes words from the L1s. -/
theorem State.MemKept.within (h : State.MemKept core B s t) (ha : t.Apart u) (hw : ∀ w, u.wordNow w = t.wordNow w)
    (hl : t.L1Within u) : State.MemKept core B s u :=
  h.words ha.toSameDomain (fun w _ => hw w) (fun _ => hl.absent) (ha.net ▸ List.prefix_rfl) (ha.posted ▸ List.prefix_rfl)

/-! Words taken from an L1. -/

theorem State.MemKept.takeBack (h : State.MemKept core B s t) : State.MemKept core B s (t.takeBack w) :=
  h.within (State.Apart.refl t).takeBack (State.Returned.takeBack t w).words (State.L1Within.refl t).takeBack

/-- A word that its core does not own reads as before once it has left the L1. -/
theorem State.wordNow_dropL1 {c : Nat} (hn : ∀ x, s.owner w = some c → s.l1 c w = some x → x.st ≠ .owned) (w' : Nat) :
    (s.dropL1 c w).wordNow w' = s.wordNow w' := by
  have hhome : (s.dropL1 c w).homeWord w' = s.homeWord w' := State.homeWord_congr fun _ _ _ => rfl
  by_cases hcw : s.owner w' = some c ∧ w' = w
  · obtain ⟨ho, rfl⟩ := hcw
    have holder (c' : Nat) (h : s.owner w' = some c') : c' = c := Option.some.inj (h.symm.trans ho)
    rw [State.wordNow_home, State.wordNow_home, hhome]
    · exact fun c' x hc' hx => hn x ho (holder c' hc' ▸ hx)
    · intro c' x hc' hx
      rw [holder c' hc', State.l1_dropL1_same] at hx
      cases hx
  · refine State.wordNow_congr rfl (fun c' hc' => ?_) hhome
    by_cases hw : w' = w
    · exact s.l1_dropL1_core fun hc => hcw ⟨hc ▸ hc', hw⟩
    · exact s.l1_dropL1_other c c' hw

theorem State.MemKept.dropL1 {c : Nat} (h : State.MemKept core B s t)
    (hn : ∀ x, t.owner w = some c → t.l1 c w = some x → x.st ≠ .owned) : State.MemKept core B s (t.dropL1 c w) :=
  h.within (State.Apart.refl t).modCore (State.wordNow_dropL1 hn) (State.L1Within.refl t).dropL1

theorem State.MemKept.dropV {c : Nat} (h : State.MemKept core B s t) : State.MemKept core B s (t.dropV c w) := by
  unfold State.dropV
  split
  next x hx =>
    split
    next hst =>
      refine h.dropL1 fun y _ hy => ?_
      rw [hx] at hy
      cases hy
      rw [eq_of_beq hst]
      exact nofun
    · exact h
  · exact h

theorem State.MemKept.handBack {c : Nat} (h : State.MemKept core B s t) : State.MemKept core B s (t.handBack c w) :=
  h.setLcs.takeBack

theorem State.MemKept.leaveWord {c : Nat} (h : State.MemKept core B s t) : State.MemKept core B s (t.leaveWord c w) := by
  unfold State.leaveWord
  split
  · exact h.handBack
  next ho => exact h.dropL1 fun _ hc => absurd (beq_iff_eq.2 hc) ho

/-! Words that stay in an L1. -/

/-- A word whose state and data stay. -/
theorem State.MemKept.setL1 {c : Nat} {x y : L1Word} (h : State.MemKept core B s t) (hx : t.l1 c w = some x) (hst : y.st = x.st)
    (hd : y.data = x.data) : State.MemKept core B s (t.setL1 c w y) :=
  h.within (State.Apart.refl t).modCore (State.wordNow_setL1 hx hst hd) ((State.L1Within.refl t).setL1 hx hst)

theorem State.MemKept.clearLazy {c : Nat} (h : State.MemKept core B s t) : State.MemKept core B s (t.clearLazy c w) := by
  unfold State.clearLazy
  split
  next x hx => exact h.setL1 (y := { x with lazy := none, unsent := 0 }) hx rfl rfl
  · exact h

theorem State.MemKept.markLeaving {c : Nat} (h : State.MemKept core B s t) : State.MemKept core B s (t.markLeaving c w) := by
  unfold State.markLeaving
  split
  next x hx => exact .ite (h.setL1 (y := { x with leaving := true }) hx rfl rfl) h
  · exact h

theorem State.MemKept.send {m : Msg} (h : State.MemKept core B s t) : State.MemKept core B s (t.send m) := by
  obtain ⟨m1, -, hnet⟩ := t.net_send m
  have hroute : t.Apart (if m.kind.isLoad = true then
      t.route (bhOfCore m.core) (if m.kind == .gatherLoad then niGather else m.core % 24) m.dpa else (none, t)).2 :=
    .ite_snd (State.Apart.refl t).route (State.Apart.refl t)
  have hw : t.SameWords (t.send m) := (State.SameWords.refl t).send
  exact h.words { hroute with } (fun w _ => hw.wordNow w) (fun w hl => (congrArg (Table.find · w) (hw.l1 core)).trans hl)
    (hnet ▸ List.prefix_append _ _) (hroute.posted ▸ List.prefix_rfl)

theorem State.MemKept.flushWord {c : Nat} (h : State.MemKept core B s t) : State.MemKept core B s (t.flushWord c w) := by
  unfold State.flushWord
  split
  · exact h
  · split
    · exact h
    · exact .ite h.clearLazy.clearLazy.send (h.clearLazy.foldl fun _ _ _ hu => hu.send)

theorem State.MemKept.flushWords {c dpa n : Nat} (h : State.MemKept core B s t) : State.MemKept core B s (t.flushWords c dpa n) :=
  h.foldl fun _ _ _ hu => hu.flushWord

theorem State.MemKept.flushCore {c : Nat} (h : State.MemKept core B s t) : State.MemKept core B s (t.flushCore c) :=
  h.foldl fun _ _ _ hu => .ite hu hu.flushWord

theorem State.MemKept.dropVs {c dpa n : Nat} (h : State.MemKept core B s t) : State.MemKept core B s (t.dropVs c dpa n) :=
  h.foldl fun _ _ _ hu => hu.dropV

theorem State.MemKept.evictL1 {c line : Nat} (h : State.MemKept core B s t) : State.MemKept core B s (t.evictL1 c line) :=
  ((h.foldl fun _ _ _ hu => hu.dropV).foldl fun _ _ _ hu => .ite hu.leaveWord hu).foldl fun _ _ _ hu => hu.flushWord.markLeaving

theorem State.MemKept.l1Room {c l : Nat} (h : State.MemKept core B s t) : State.MemKept core B s (t.l1Room c l).2 := by
  unfold State.l1Room
  extract_lets mates done
  split
  · exact h
  · split
    · dsimp only
      exact h.evictL1
    · cases mates.head? with
      | none => exact h
      | some v =>
        dsimp only [Option.elim_some]
        exact h.evictL1

/-! Words stored into an L1. -/

/-- A word that no core owns reads from its home slice, whatever an L1 holds of it. -/
theorem State.wordNow_setL1_unowned {c : Nat} {y : L1Word} (hx : ∀ x, s.l1 c w = some x → x.st ≠ .owned) (hy : y.st ≠ .owned)
    (w' : Nat) : (s.setL1 c w y).wordNow w' = s.wordNow w' := by
  have hhome : (s.setL1 c w y).homeWord w' = s.homeWord w' := State.homeWord_congr fun _ _ _ => rfl
  by_cases hcw : s.owner w' = some c ∧ w' = w
  · obtain ⟨ho, rfl⟩ := hcw
    have holder (c' : Nat) (h : s.owner w' = some c') : c' = c := Option.some.inj (h.symm.trans ho)
    rw [State.wordNow_home, State.wordNow_home, hhome]
    · exact fun c' x hc' hx' => hx x (holder c' hc' ▸ hx')
    · intro c' x hc' hx'
      rw [holder c' hc', State.l1_setL1_same] at hx'
      cases hx'
      exact hy
  · refine State.wordNow_congr rfl (fun c' hc' => s.l1_setL1_other ?_) hhome
    by_contra hn
    obtain ⟨rfl, rfl⟩ := not_or.1 hn |>.imp not_not.1 not_not.1
    exact hcw ⟨hc', rfl⟩

/-- Every word of an access holds one of its bytes. -/
theorem exists_byte_of_mem_wordsOf {dpa n : Nat} (hn : 0 < n) (hw : w ∈ wordsOf dpa n) :
    ∃ k < 4, dpa ≤ 4 * w + k ∧ 4 * w + k < dpa + n := by
  obtain ⟨i, hi, rfl⟩ := List.mem_map.1 hw
  rw [List.mem_range] at hi
  by_cases h : dpa ≤ 4 * (dpa / 4 + i)
  · exact ⟨0, by omega, by omega, by omega⟩
  · exact ⟨dpa % 4, by omega, by omega, by omega⟩

/-- The words of an access have bytes in `B`: those that a store of it may bring into an L1. -/
def Covers (B : Nat → Prop) (dpa n : Nat) : Prop := 0 < n ∧ ∀ b, dpa ≤ b → b < dpa + n → B b

/-- A word of a store is brought into the L1 unless it is owned there. -/
theorem State.MemKept.overlayWord {c dpa n v : Nat} {z : Option Lazy} (h : State.MemKept core B s t) (hB : Covers B dpa n)
    (hw : w ∈ wordsOf dpa n) : State.MemKept core B s (t.overlayWord c w dpa n v z) := by
  unfold State.overlayWord
  extract_lets old b base
  split
  · exact h
  next hst =>
    refine h.trans ⟨{ State.SameDomain.refl t with }, fun a _ _ => ?_, fun w' hw' hl => ?_, List.prefix_rfl, List.prefix_rfl⟩
    · rw [State.byteNow, State.byteNow, State.wordNow_setL1_unowned (fun x hx => ?_) (by simpa using hst)]
      intro hxo
      refine hst (beq_iff_eq.2 ?_)
      simp only [base, old, hx, hxo]
      exact hxo
    · refine (t.l1_setL1_other (.inr ?_)).trans hl
      rintro rfl
      obtain ⟨k, hk, h1, h2⟩ := exists_byte_of_mem_wordsOf hB.1 hw
      exact hw' k hk (hB.2 _ h1 h2)

theorem State.MemKept.overlay {c dpa n v : Nat} (h : State.MemKept core B s t) (hB : Covers B dpa n) :
    State.MemKept core B s (t.overlay c dpa n v) := h.foldl fun _ _ hw hu => hu.overlayWord hB hw

/-! Bytes merged into a word. -/

theorem Memory.byte_foldl_put (m : Memory) (w dpa n v c : Nat) (hc : c / 4 = w) :
    Memory.byte ((List.range n).foldl (fun m i => if (dpa + i) / 4 == w then
      Memory.put m (dpa + i) (BitVec.ofNat 8 (v / 2 ^ (8 * i))) else m) m) c =
      if dpa ≤ c ∧ c < dpa + n then BitVec.ofNat 8 (v / 2 ^ (8 * (c - dpa))) else Memory.byte m c := by
  induction n with
  | zero => rw [if_neg (by omega)]; rfl
  | succ n ih =>
    rw [List.range_succ, List.foldl_append, List.foldl_cons, List.foldl_nil]
    by_cases h : c = dpa + n
    · rw [if_pos (by simp [← h, hc]), h, Memory.byte_put_same, if_pos (by omega), Nat.add_sub_cancel_left]
    · have hput : ∀ m : Memory, Memory.byte (if (dpa + n) / 4 == w then
          Memory.put m (dpa + n) (BitVec.ofNat 8 (v / 2 ^ (8 * n))) else m) c = Memory.byte m c := fun m => by
        split
        · exact Memory.byte_put_other _ _ _ _ h
        · rfl
      rw [hput, ih]
      by_cases hin : dpa ≤ c ∧ c < dpa + n
      · rw [if_pos hin, if_pos (by omega)]
      · rw [if_neg hin, if_neg (by omega)]

/-- A merged word has the bytes of the store where it covers them, and those of the old word elsewhere (R7). -/
theorem mergeWord_byte (old : Word) (w dpa n v : Nat) {k : Nat} (hk : k < 4) :
    (mergeWord old w dpa n v).toNat / 2 ^ (8 * k) % 256 =
      if dpa ≤ 4 * w + k ∧ 4 * w + k < dpa + n then v / 2 ^ (8 * (4 * w + k - dpa)) % 256
      else old.toNat / 2 ^ (8 * k) % 256 := by
  rw [mergeWord, BitVec.toNat_ofNat, Nat.mod_eq_of_lt (Memory.load_lt 4 _ _), Memory.load_byte 4 _ _ _ hk,
    Memory.byte_foldl_put _ _ _ _ _ _ (by omega), Memory.byte_store, if_pos (by omega : 4 * w ≤ 4 * w + k ∧ _),
    Nat.add_sub_cancel_left, apply_ite BitVec.toNat, BitVec.toNat_ofNat, BitVec.toNat_ofNat]

/-- A word whose owner's entry changes its data reads as these data. -/
theorem State.wordNow_setL1_data {c : Nat} {x y : L1Word} (hx : s.l1 c w = some x) (hst : y.st = x.st) (w' : Nat) :
    (s.owner w' = some c ∧ w' = w ∧ s.wordNow w' = x.data ∧ (s.setL1 c w y).wordNow w' = y.data) ∨
      (s.setL1 c w y).wordNow w' = s.wordNow w' := by
  by_cases ho : x.st = .owned
  · by_cases hcw : s.owner w' = some c ∧ w' = w
    · obtain ⟨hc, rfl⟩ := hcw
      exact .inl ⟨hc, rfl, State.wordNow_owned hc hx ho, State.wordNow_owned (x := y) hc (s.l1_setL1_same _ _ _) (hst.trans ho)⟩
    · refine .inr (State.wordNow_congr rfl (fun c' hc' => s.l1_setL1_other ?_) (State.homeWord_congr fun _ _ _ => rfl))
      by_contra hn
      obtain ⟨rfl, rfl⟩ := not_or.1 hn |>.imp not_not.1 not_not.1
      exact hcw ⟨hc', rfl⟩
  · refine .inr (State.wordNow_setL1_unowned (fun z hz => ?_) (hst ▸ ho) w')
    rw [hx] at hz
    cases hz
    exact ho

/-- Bytes written into a word of an L1 are the only ones that change. -/
theorem State.byteNow_setL1_merge {c dpa n v : Nat} {x y : L1Word} (hx : s.l1 c w = some x) (hst : y.st = x.st)
    (hd : y.data = mergeWord x.data w dpa n v) {b : Nat} (hb : ¬ (dpa ≤ b ∧ b < dpa + n)) :
    (s.setL1 c w y).byteNow b = s.byteNow b := by
  rw [State.byteNow, State.byteNow]
  obtain ⟨-, hw, hold, hnew⟩ | h := State.wordNow_setL1_data (y := y) hx hst (b / 4)
  · rw [hold, hnew, hd, mergeWord_byte _ _ _ _ _ (Nat.mod_lt _ (by decide)), if_neg]
    rwa [← hw, Nat.div_add_mod]
  · rw [h]

theorem State.MemKept.writeOwned {c dpa n v : Nat} (h : State.MemKept core B s t) (hB : Covers B dpa n) :
    State.MemKept core B s (t.writeOwned c dpa n v) := by
  refine h.foldl fun u w _ hu => ?_
  split
  next x hx =>
    refine hu.trans ⟨{ State.SameDomain.refl u with }, fun b _ hb => ?_, fun w' _ => ?_, List.prefix_rfl, List.prefix_rfl⟩
    · exact State.byteNow_setL1_merge hx (by rfl) (by rfl) fun hin => hb (hB.2 b hin.1 hin.2)
    · exact ((State.L1Within.refl u).setL1 hx (by rfl)).absent
  · exact hu

/-! A piece of a store. -/

theorem State.MemKept.sendStore {c : Acc} {k : MsgKind} {lane off n dpa va v : Nat} (h : State.MemKept core B s t)
    (hB : Covers B dpa n) : State.MemKept core B s (t.sendStore c k lane off n dpa va v) :=
  (State.MemKept.ite (h.flushWords.l1Room.overlay hB) h.flushWords.l1Room).send

theorem State.MemKept.keepStore {c : Acc} {own : Bool} {lane off n dpa va v : Nat} (h : State.MemKept core B s t)
    (hB : Covers B dpa n) : State.MemKept core B s (t.keepStore c own lane off n dpa va v) := by
  unfold State.keepStore
  extract_lets s1
  have h1 : State.MemKept core B s s1 := .ite h.flushWords h
  clear_value s1
  exact .ite h1.l1Room.send (h1.l1Room.foldl fun _ _ hw hu => hu.overlayWord hB hw)

theorem State.MemKept.storeMem {c : Acc} {rq : ReqType} {lane off n dpa va v : Nat} (h : State.MemKept core B s t)
    (hB : Covers B dpa n) : State.MemKept core B s (t.storeMem c rq lane off n dpa va v) := by
  unfold State.storeMem
  extract_lets ws own
  have hown (u : State) (hu : State.MemKept core B s u) : State.MemKept core B s (own u) := .ite (hu.keepStore hB) (hu.sendStore hB)
  refine .ite (h.writeOwned hB) (.ite (h.sendStore hB) ?_)
  cases rq with
  | own => exact hown t h
  | wt => exact h.sendStore hB
  | si => exact h.keepStore hB
  | nc => exact .ite (hown t h) h.dropVs.send

/-- A word that an L1 keeps of a peer device lies beyond the device's own addresses (R141). -/
theorem lt_of_mem_wordsOf_fabricKey {device off n : Nat} (hw : w ∈ wordsOf (fabricKey device off) n) : 2 ^ 37 ≤ w := by
  obtain ⟨i, -, rfl⟩ := List.mem_map.1 hw
  rw [fabricKey]
  omega

theorem State.MemKept.dropFabric {c device off n : Nat} (h : State.MemKept core B s t) :
    State.MemKept core B s (t.dropFabric c device off n) := by
  refine h.foldl fun u w hw hu => ?_
  have hlarge := lt_of_mem_wordsOf_fabricKey hw
  refine hu.words { State.SameDomain.refl u with } (fun w' hw' => ?_) (fun w' => (State.L1Within.refl u).dropL1.absent)
    List.prefix_rfl List.prefix_rfl
  exact State.wordNow_congr rfl (fun c' _ => u.l1_dropL1_other c c' (by omega)) (State.homeWord_congr fun _ _ _ => rfl)

/-- A posted write stands last among the posted writes. -/
theorem State.MemKept.addPosted {ws : List FabWait} {ps : List Posted} (h : State.MemKept core B s t) :
    State.MemKept core B s { t with fabWaits := ws, posted := t.posted ++ ps } :=
  { h with posted := h.posted.trans (List.prefix_append _ _) }

theorem State.MemKept.post {c : Acc} {lane off n v device target : Nat} {a : DWord} (h : State.MemKept core B s t) :
    State.MemKept core B s (t.post c lane off n v device target a) := by
  have h1 : State.MemKept core B s t.fresh.2 := { h with }
  exact h1.dropFabric.addPosted

theorem State.MemKept.spadStore {c asid off n v : Nat} (h : State.MemKept core B s t) :
    State.MemKept core B s (t.spadStore c asid off n v) :=
  (h.modCore rfl).foldl fun _ _ _ hu => hu.modCore rfl

theorem State.MemKept.askFabric {m : Msg} {device off : Nat} (h : State.MemKept core B s t) :
    State.MemKept core B s (t.askFabric m device off) := { h with }

end Sys2Proof.Machine
end

section
/-! SUPPORT. What the memory operations of a group leave of the groups (R29, R83, R142, R408): the group notes its digest, its
failures and its waits, and nothing else of any group changes. -/

namespace Sys2Proof.Machine

/-- What the memory operations of a group note in it. -/
structure Notes where
  digest : DWord
  deferred : List Pending
  consumed : List Cause
  zeroRead : Bool
  fenceLoss : Bool
  since0 : Option Nat
  since1 : Option Nat

/-- A group with its notes. -/
def Group.noting (g : Group) (n : Notes) : Group :=
  { g with digest := n.digest, deferred := n.deferred, consumed := n.consumed, zeroRead := n.zeroRead, fenceLoss := n.fenceLoss
           slot0 := { g.slot0 with sysSince := n.since0 }, slot1 := { g.slot1 with sysSince := n.since1 } }

/-- The notes that a group has. -/
def Group.notes (g : Group) : Notes :=
  { digest := g.digest, deferred := g.deferred, consumed := g.consumed, zeroRead := g.zeroRead, fenceLoss := g.fenceLoss
    since0 := g.slot0.sysSince, since1 := g.slot1.sysSince }

/-- Notes that are not of a wait leave the slots as they were. -/
theorem Group.pc_noting {g : Group} {n : Notes} (h0 : n.since0 = g.slot0.sysSince) (h1 : n.since1 = g.slot1.sysSince) (b : Bool) :
    (g.noting n).pc b = g.pc b := by
  cases b
  · simp only [Group.pc, Group.noting, h0]
    rfl
  · simp only [Group.pc, Group.noting, h1]
    rfl

/-- Of the groups, at most the notes of one change, and none of its other slot. -/
structure State.Noted (gid : Nat) (s t : State) : Prop where
  cur : t.cur = s.cur
  curSlot : t.curSlot = s.curSlot
  pends : t.pends = s.pends
  own : ∀ g, s.group? gid = some g →
    ∃ n, t.group? gid = some (g.noting n) ∧ (g.noting n).pc (!s.curSlot) = g.pc (!s.curSlot)
  others : ∀ j, j ≠ gid → t.group? j = s.group? j

variable {gid : Nat} {s t u : State}

theorem State.Noted.refl (s : State) : s.Noted gid s := ⟨rfl, rfl, rfl, fun g hg => ⟨g.notes, hg, rfl⟩, fun _ _ => rfl⟩

theorem State.Noted.trans (h : State.Noted gid s t) (h' : State.Noted gid t u) : State.Noted gid s u where
  cur := h'.cur.trans h.cur
  curSlot := h'.curSlot.trans h.curSlot
  pends := h'.pends.trans h.pends
  own g hg := by
    obtain ⟨n, hn, hpc⟩ := h.own g hg
    obtain ⟨m, hm, hpc'⟩ := h'.own _ hn
    rw [h.curSlot] at hpc'
    exact ⟨m, hm, hpc'.trans hpc⟩
  others j hj := (h'.others j hj).trans (h.others j hj)

theorem State.Noted.step (h : State.Noted gid s t) (hm : t.MemStep u) : State.Noted gid s u :=
  h.trans ⟨hm.cur, hm.curSlot, hm.pends, fun g hg => ⟨g.notes, (hm.group? gid).trans hg, rfl⟩, fun j _ => hm.group? j⟩

theorem State.Noted.ite {v : State} {q : Prop} [Decidable q] (hu : State.Noted gid s u) (hv : State.Noted gid s v) :
    State.Noted gid s (if q then u else v) := by
  split
  · exact hu
  · exact hv

theorem State.Noted.foldl {β : Type} {l : List β} {f : State → β → State} (h : State.Noted gid s t)
    (hf : ∀ u b, State.Noted gid s u → State.Noted gid s (f u b)) : State.Noted gid s (l.foldl f t) :=
  List.foldlRecOn l f h fun u hu b _ => hf u b hu

/-- The group notes something. -/
theorem State.Noted.modGroup {f : Group → Group} (h : State.Noted gid s t)
    (hf : ∀ g, ∃ n, f g = g.noting n ∧ (g.noting n).pc (!t.curSlot) = g.pc (!t.curSlot)) :
    State.Noted gid s (t.modGroup gid f) := by
  refine h.trans ⟨rfl, rfl, rfl, fun g hg => ?_, fun j hj => State.group_modGroup_other _ _ _ _ hj⟩
  obtain ⟨n, hn, hpc⟩ := hf g
  exact ⟨n, by rw [State.group_modGroup, hg, Option.map_some, hn], hpc⟩

theorem State.Noted.deferFailure {p : Pending} (h : State.Noted gid s t) : State.Noted gid s (t.deferFailure gid p) := by
  refine h.modGroup fun g => ?_
  unfold Group.failed
  split
  · exact ⟨{ g.notes with deferred := _ }, rfl, Group.pc_noting rfl rfl _⟩
  · exact ⟨{ g.notes with deferred := _ }, rfl, Group.pc_noting rfl rfl _⟩

/-! The stores of an arbiter run, which are logged in frames of the RVE (R411). -/

theorem State.MemStep.poolPop {b : Nat} (h : s.MemStep t) : s.MemStep (t.poolPop b).2 := by
  unfold State.poolPop
  extract_lets _ f d n s1 s2
  have h1 : s.MemStep s1 := h.holeCheck.devWrite.modBh
  have h2 : s.MemStep s2 := .ite h1.postSup h1
  exact .ite_snd h h2

theorem State.MemStep.engineFrames {b n : Nat} (h : s.MemStep t) : s.MemStep (t.engineFrames b n).2 := by
  induction n generalizing t with
  | zero => exact h
  | succ n ih => exact ih h.poolPop.holeCheck.devWrite

theorem State.MemStep.logStore {j : RveJob} {x : LogEntry} (h : s.MemStep t) : s.MemStep (t.logStore j x).2 := by
  unfold State.logStore
  extract_lets full
  refine .ite_snd h ?_
  have h1 : s.MemStep (if full = true then t.engineFrames j.bh 1 else ([], t)).2 := .ite_snd h.engineFrames h
  exact h1.devWrite.devWrite.devWrite.devWrite

theorem State.Noted.noteStore {g : Group} {a : DWord} {n v : Nat} (h : State.Noted gid s t) :
    State.Noted gid s (t.noteStore gid g a n v) := by
  unfold State.noteStore
  extract_lets s1
  have h1 : State.Noted gid s s1 :=
    h.modGroup fun g => ⟨{ g.notes with digest := g.digest + digestTerm a (BitVec.ofNat 64 v) }, rfl, Group.pc_noting rfl rfl _⟩
  clear_value s1
  split
  · split
    · exact h1.step (State.MemStep.refl s1).logStore.modBh
    · exact h1
  · exact h1

/-! The operations of a core on its L1 and on what it sends. -/

theorem State.MemStep.dropV {c w : Nat} (h : s.MemStep t) : s.MemStep (t.dropV c w) := by
  unfold State.dropV
  split
  · exact .ite h.dropL1 h
  · exact h

theorem State.MemStep.dropVs {c dpa n : Nat} (h : s.MemStep t) : s.MemStep (t.dropVs c dpa n) := h.foldl fun _ _ hu => hu.dropV

theorem State.MemStep.flushWords {c dpa n : Nat} (h : s.MemStep t) : s.MemStep (t.flushWords c dpa n) :=
  h.foldl fun _ _ hu => hu.flushWord

theorem State.MemStep.markLeaving {c w : Nat} (h : s.MemStep t) : s.MemStep (t.markLeaving c w) := by
  unfold State.markLeaving
  split
  · exact .ite h.setL1 h
  · exact h

theorem State.MemStep.evictL1 {c line : Nat} (h : s.MemStep t) : s.MemStep (t.evictL1 c line) :=
  ((h.foldl fun _ _ hu => hu.dropV).foldl fun _ _ hu => .ite (.ite hu.lcsTake.takeBack hu.dropL1) hu).foldl
    fun _ _ hu => hu.flushWord.markLeaving

theorem State.MemStep.l1Room {c l : Nat} (h : s.MemStep t) : s.MemStep (t.l1Room c l).2 := by
  unfold State.l1Room
  extract_lets mates done
  split
  · exact h
  · split
    · dsimp only
      exact h.evictL1
    · cases mates.head? with
      | none => exact h
      | some v =>
        dsimp only [Option.elim_some]
        exact h.evictL1

theorem State.MemStep.overlayWord {c w dpa n v : Nat} {z : Option Lazy} (h : s.MemStep t) :
    s.MemStep (t.overlayWord c w dpa n v z) := .ite h h.setL1

theorem State.MemStep.writeOwned {c dpa n v : Nat} (h : s.MemStep t) : s.MemStep (t.writeOwned c dpa n v) := by
  refine h.foldl fun u w hu => ?_
  split
  · exact hu.setL1
  · exact hu

theorem State.MemStep.sendStore {c : Acc} {k : MsgKind} {lane off n dpa va v : Nat} (h : s.MemStep t) :
    s.MemStep (t.sendStore c k lane off n dpa va v) :=
  (State.MemStep.ite (h.flushWords.l1Room.foldl fun _ _ hu => hu.overlayWord) h.flushWords.l1Room).send

theorem State.MemStep.keepStore {c : Acc} {own : Bool} {lane off n dpa va v : Nat} (h : s.MemStep t) :
    s.MemStep (t.keepStore c own lane off n dpa va v) := by
  unfold State.keepStore
  extract_lets s1
  have h1 : s.MemStep s1 := .ite h.flushWords h
  clear_value s1
  exact .ite h1.l1Room.send (h1.l1Room.foldl fun _ _ hu => hu.overlayWord)

theorem State.MemStep.storeMem {c : Acc} {rq : ReqType} {lane off n dpa va v : Nat} (h : s.MemStep t) :
    s.MemStep (t.storeMem c rq lane off n dpa va v) := by
  unfold State.storeMem
  extract_lets ws own
  have hown (u : State) (hu : s.MemStep u) : s.MemStep (own u) := .ite hu.keepStore hu.sendStore
  refine .ite h.writeOwned (.ite h.sendStore ?_)
  cases rq with
  | own => exact hown t h
  | wt => exact h.sendStore
  | si => exact h.keepStore
  | nc => exact .ite (hown t h) h.dropVs.send

theorem State.MemStep.addPosted {ws : List FabWait} {ps : List Posted} (h : s.MemStep t) :
    s.MemStep { t with fabWaits := ws, posted := ps } := { h with }

theorem State.MemStep.post {c : Acc} {lane off n v device target : Nat} {a : DWord} (h : s.MemStep t) :
    s.MemStep (t.post c lane off n v device target a) := by
  have h1 : s.MemStep (t.fresh.2.dropFabric c.core device target n) := h.fresh.foldl fun _ _ hu => hu.dropL1
  exact h1.addPosted

theorem State.MemStep.spadStore {c asid off n v : Nat} (h : s.MemStep t) : s.MemStep (t.spadStore c asid off n v) :=
  h.modCore.foldl fun _ _ hu => hu.modCore

end Sys2Proof.Machine
end

section
/-! SUPPORT. The pieces of a scalar store (R89, R120, R141, R308). -/

namespace Sys2Proof.Machine

variable {c : Acc} {rq : Nat} {rel : Bool} {lane v : Nat} {a : DWord} {B : Nat → Prop} {s t u : State}

/-- The pieces of an element that a plain store stores, one after the other. -/
def State.storePieces (s : State) (c : Acc) (rq : Nat) (rel : Bool) (lane v : Nat) (a : DWord) (p : Pieces) : State :=
  p.foldl (fun s q => (s.storePiece c (.plain rq rel) lane v a q).2) s

theorem State.Noted.storePiece {q : Nat × Nat × Place} (h : State.Noted c.gid s t) :
    State.Noted c.gid s (t.storePiece c (.plain rq rel) lane v a q).2 := by
  obtain ⟨off, n, pl⟩ := q
  cases pl with
  | mem dpa va nc priv => exact h.step (State.MemStep.refl t).storeMem
  | spad k o => exact h.step (State.MemStep.refl t).spadStore.relay
  | fabric d o => exact h.step (State.MemStep.refl t).post
  | multicast set o =>
    have h1 {l : List Nat} : State.Noted c.gid s (l.foldl (fun s d => s.post c lane off n (pieceOf v off n) d o a) t) :=
      h.step ((State.MemStep.refl t).foldl fun _ _ hu => hu.post)
    exact .ite h1 h1.deferFailure

theorem State.MemKept.storePiece {core : Nat} {q : Nat × Nat × Place} (h : State.MemKept core B s t)
    (hB : ∀ dpa va nc priv, q.2.2 = .mem dpa va nc priv → Covers B dpa q.2.1) :
    State.MemKept core B s (t.storePiece c (.plain rq rel) lane v a q).2 := by
  obtain ⟨off, n, pl⟩ := q
  cases pl with
  | mem dpa va nc priv => exact h.storeMem (hB _ _ _ _ rfl)
  | spad k o => exact h.spadStore.relay
  | fabric d o => exact h.post
  | multicast set o =>
    have h1 {l : List Nat} : State.MemKept core B s (l.foldl (fun s d => s.post c lane off n (pieceOf v off n) d o a) t) :=
      h.foldl fun _ _ _ hu => hu.post
    exact .ite h1 h1.modGroup

theorem State.Noted.storePieces {p : Pieces} (h : State.Noted c.gid s t) :
    State.Noted c.gid s (t.storePieces c rq rel lane v a p) := h.foldl fun _ _ hu => hu.storePiece

/-- The pieces that a store covers in memory. -/
def CoversAll (B : Nat → Prop) (p : Pieces) : Prop :=
  ∀ q ∈ p, ∀ dpa va nc priv, q.2.2 = .mem dpa va nc priv → Covers B dpa q.2.1

theorem State.MemKept.storePieces {core : Nat} {p : Pieces} (h : State.MemKept core B s t) (hB : CoversAll B p) :
    State.MemKept core B s (t.storePieces c rq rel lane v a p) := h.foldl fun _ q hq hu => hu.storePiece (hB q hq)

/-- A store of one lane: its element is noted, and its pieces are stored unless a replay or an arbiter run holds them back. -/
theorem State.storeLanes_one {g : Group} {n : Nat} {at_ : Nat → LaneAt} {val : Nat → Nat} {p : Pieces} :
    (s.storeLanes c g (.plain rq rel) n at_ val [(0, p)]).2 =
      let v := val 0 % 2 ^ (8 * n)
      let s1 := if (at_ 0).digested then s.noteStore c.gid g (at_ 0).shown n v else s
      if (at_ 0).digested && g.run != .original then s1 else s1.storePieces c rq rel 0 v (at_ 0).shown p := by
  have hfold (l : Pieces) (k : Nat) (v : Nat) (u : State) :
      (l.foldl (fun a p => ((a.1 + (a.2.storePiece c (.plain rq rel) 0 v (at_ 0).shown p).1),
        (a.2.storePiece c (.plain rq rel) 0 v (at_ 0).shown p).2)) (k, u)).2 =
        u.storePieces c rq rel 0 v (at_ 0).shown l := by
    induction l generalizing k u with
    | nil => rfl
    | cons q l ih => exact ih _ _
  simp only [State.storeLanes, List.foldl_cons, List.foldl_nil]
  split
  · rfl
  · exact hfold _ _ _ _

end Sys2Proof.Machine
end

section
/-! SUPPORT. A release that may complete (R89, R124, R126, R141): the lazy words of its core are sent, and the words that the core
owns stay at hand. -/

namespace Sys2Proof.Machine
open Sys2Proof.Claims

variable {core : Nat} {s t u : State} {w : Nat}

/-- A core's L1 owns a word whole (R89). -/
def State.Held (s : State) (core w : Nat) : Prop := ∃ x, s.l1 core w = some x ∧ x.st = .owned ∧ x.bytes = 15

theorem State.Held.sameL1 (h : s.Held core w) (hl : (t.core core).l1 = (s.core core).l1) : t.Held core w := by
  obtain ⟨x, hx, hst, hb⟩ := h
  exact ⟨x, (congrArg (Table.find · w) hl).trans hx, hst, hb⟩

theorem State.Held.setL1 {c v : Nat} {x y : L1Word} (h : s.Held core w) (hx : s.l1 c v = some x) (hst : y.st = x.st)
    (hb : y.bytes = x.bytes) : (s.setL1 c v y).Held core w := by
  obtain ⟨z, hz, hzst, hzb⟩ := h
  by_cases hcv : core ≠ c ∨ w ≠ v
  · exact ⟨z, (s.l1_setL1_other hcv).trans hz, hzst, hzb⟩
  · obtain ⟨rfl, rfl⟩ := not_or.1 hcv |>.imp not_not.1 not_not.1
    rw [hx] at hz
    cases hz
    exact ⟨y, s.l1_setL1_same _ _ _, hst.trans hzst, hb.trans hzb⟩

theorem State.Held.clearLazy {c v : Nat} (h : s.Held core w) : (s.clearLazy c v).Held core w := by
  unfold State.clearLazy
  split
  next x hx => exact h.setL1 (y := { x with lazy := none, unsent := 0 }) hx rfl rfl
  · exact h

theorem State.Held.send {m : Msg} (h : s.Held core w) : (s.send m).Held core w :=
  h.sameL1 ((State.SameWords.refl s).send.l1 core)

theorem State.Held.flushWord {c v : Nat} (h : s.Held core w) : (s.flushWord c v).Held core w := by
  unfold State.flushWord
  split
  · exact h
  · split
    · exact h
    · dsimp only
      split
      · exact h.clearLazy.clearLazy.send
      · exact List.foldlRecOn (motive := fun u => State.Held u core w) _ _ h.clearLazy fun _ hu _ _ => hu.send

theorem State.Held.flushCore {c : Nat} (h : s.Held core w) : (s.flushCore c).Held core w := by
  refine List.foldlRecOn (motive := fun u => State.Held u core w) _ _ h fun u hu e _ => ?_
  split
  · exact hu
  · exact hu.flushWord

/-- A message sent is the last on its way, as it was made but for what its sending adds. -/
theorem State.net_send_eq (s : State) (m : Msg) : ∃ id counter left passed target gen, (s.send m).net = s.net ++
    [{ m with id := id, origin := m.kind, counter := counter, left := left, passed := passed, target := target, gen := gen }] :=
  ⟨_, _, _, _, _, _, congrArg₂ (· ++ ·) (State.net_ite_snd (y := (none, s)) (s.net_route _ _ _) rfl) rfl⟩

/-- Every message that has come on its way asks its home slice for something, and is no watch. -/
def State.Asks (s t : State) : Prop := ∀ m ∈ t.net, m ∈ s.net ∨ m.kind.request = true ∧ m.origin.isWatching = false

theorem State.Asks.refl (s : State) : s.Asks s := fun _ => .inl

theorem State.Asks.send {m : Msg} (h : s.Asks t) (hm : m.kind.request = true) (hw : m.kind.isWatching = false) :
    s.Asks (t.send m) := fun x hx => by
  obtain ⟨id, counter, left, passed, target, gen, hnet⟩ := t.net_send_eq m
  rw [hnet] at hx
  obtain hx | hx := List.mem_append.1 hx
  · exact h x hx
  · rw [List.mem_singleton.1 hx]
    exact .inr ⟨hm, hw⟩

theorem State.Asks.clearLazy {c : Nat} (h : s.Asks t) : s.Asks (t.clearLazy c w) := by
  unfold State.clearLazy
  split <;> exact h

theorem State.Asks.flushWord {c : Nat} (h : s.Asks t) : s.Asks (t.flushWord c w) := by
  unfold State.flushWord
  split
  · exact h
  · split
    · exact h
    next z _ =>
      have hreq : (if z.own then MsgKind.ownStore else .wtStore).request = true := by split <;> rfl
      have hwat : (if z.own then MsgKind.ownStore else .wtStore).isWatching = false := by split <;> rfl
      dsimp only
      split
      · exact h.clearLazy.clearLazy.send hreq hwat
      · exact List.foldlRecOn (motive := fun u => s.Asks u) _ _ h.clearLazy fun _ hu _ _ => hu.send hreq hwat

theorem State.Asks.flushCore {c : Nat} (h : s.Asks t) : s.Asks (t.flushCore c) := by
  refine List.foldlRecOn (motive := fun u => s.Asks u) _ _ h fun u hu e _ => ?_
  split
  · exact hu
  · exact hu.flushWord

theorem ownedHere_iff {dpa n : Nat} : ownedHere s dpa n ↔
    (∀ w ∈ wordsOf dpa n, s.Held (coreOf s.cur) w) ∧ s.unperformed false s.cur dpa n = false := Iff.rfl

/-- What a group has on its way next to some words keeps it from them only where a message meets them (R120). -/
theorem State.unperformed_of_asks {gid dpa n : Nat} (h : s.Asks t) (hs : s.unperformed false gid dpa n = false)
    (hn : ∀ m ∈ t.net, m.gid = some gid → m.origin.isWatching = false → m.kind.request = false) :
    t.unperformed false gid dpa n = false := by
  refine List.any_eq_false.2 fun m hm hb => ?_
  obtain hms | ⟨hreq, hwat⟩ := h m hm
  · exact List.any_eq_false.1 hs m hms hb
  · have hgid : m.gid = some gid := by
      simp only [Bool.and_eq_true, beq_iff_eq] at hb
      exact hb.1.1.1.1
    rw [hn m hm hgid hwat] at hreq
    cases hreq

/-- Nothing that a group asked of a home slice is on its way when a release of it may complete (R124). -/
theorem State.releaseReady_requests {gid : Nat} (h : s.releaseReady gid = true) :
    ∀ m ∈ s.net, m.gid = some gid → m.origin.isWatching = false → m.kind.request = false := by
  intro m hm hgid hwat
  have h1 : (s.net.any fun m => m.gid == some gid && !m.origin.isWatching
      && (m.kind.request || (m.kind.access && (m.origin.isStore || m.origin.isAtomic)))) = false := by
    simp only [State.releaseReady, Bool.and_eq_true, Bool.not_eq_true'] at h
    exact h.1.1
  have h2 := List.any_eq_false.1 h1 m hm
  by_contra hreq
  exact h2 (by simp [hgid, hwat, Bool.eq_true_of_not_eq_false hreq])

/-- What a release leaves when it completes. -/
structure State.Released (s t : State) : Prop where
  noted : State.Noted s.cur s t
  domain : s.SameDomain t
  bytes : ∀ b < 2 ^ 39, t.byteNow b = s.byteNow b
  absent : ∀ w, s.l1 (coreOf s.cur) w = none → t.l1 (coreOf s.cur) w = none
  owned : ∀ dpa n, ownedHere s dpa n → ownedHere t dpa n

theorem State.Released.refl (s : State) : s.Released s := ⟨.refl s, .refl s, fun _ _ => rfl, fun _ h => h, fun _ _ h => h⟩

/-- A step that leaves the words, the messages and the domain as they are. -/
theorem State.Released.aside (h : s.Released t) (hn : State.Noted s.cur t u) (hd : t.SameDomain u) (hw : t.SameWords u)
    (hnet : u.net = t.net) : s.Released u where
  noted := h.noted.trans hn
  domain := ⟨hd.fabCfg.trans h.domain.fabCfg, hd.tntShape.trans h.domain.tntShape, hd.tntFab.trans h.domain.tntFab,
    hd.mcSet.trans h.domain.mcSet, fun b => (hd.phase b).trans (h.domain.phase b)⟩
  bytes b hb := (hw.byteNow b).trans (h.bytes b hb)
  absent w hl := (congrArg (Table.find · w) (hw.l1 _)).trans (h.absent w hl)
  owned dpa n ho := by
    obtain ⟨hheld, hunp⟩ := ownedHere_iff.1 (h.owned dpa n ho)
    rw [ownedHere_iff, hn.cur]
    refine ⟨fun w hw' => (hheld w hw').sameL1 (hw.l1 _), ?_⟩
    unfold State.unperformed at hunp ⊢
    rwa [hnet]

/-- The lazy words of the core are sent, and no request of the group is then on its way. -/
theorem State.Released.flushCore (h : (s.flushCore (coreOf s.cur)).releaseReady s.cur = true) :
    s.Released (s.flushCore (coreOf s.cur)) := by
  have hm : s.MemStep (s.flushCore (coreOf s.cur)) := (State.MemStep.refl s).flushCore
  have hk : State.MemKept (coreOf s.cur) (fun _ => False) s (s.flushCore (coreOf s.cur)) := (State.MemKept.refl s).flushCore
  refine ⟨(State.Noted.refl s).step hm, hk.toSameDomain, fun b hb => hk.bytes b hb id, fun w => hk.absent w fun _ _ => id,
    fun dpa n ho => ?_⟩
  obtain ⟨hheld, hunp⟩ := ownedHere_iff.1 ho
  rw [ownedHere_iff, hm.cur]
  exact ⟨fun w hw => (hheld w hw).flushCore,
    State.unperformed_of_asks (State.Asks.refl s).flushCore hunp (State.releaseReady_requests h)⟩

/-- A `.sys` operation that completes is done with the posted writes of its group (R141, R142). -/
theorem State.Released.sysDone {c : Acc} (h : s.Released t) (hc : c.gid = s.cur) : s.Released (t.sysDone c) := by
  unfold State.sysDone
  extract_lets lost s1 s2
  have h1 : s.Released s1 :=
    h.aside { State.Noted.refl t with } { State.SameDomain.refl t with } { State.SameWords.refl t with } rfl
  have hn2 : State.Noted s.cur s1 s2 := by
    rw [← hc]
    exact (State.Noted.refl s1).modGroup fun g =>
      ⟨{ g.notes with zeroRead := false, fenceLoss := g.fenceLoss || lost.isSome }, rfl, Group.pc_noting rfl rfl _⟩
  have h2 : s.Released s2 := h1.aside hn2 { State.SameDomain.refl s1 with } (State.SameWords.refl s1).modGroup rfl
  clear_value s2 lost
  cases lost with
  | none => exact h2
  | some p =>
    dsimp only
    split
    · refine h2.aside ?_ { State.SameDomain.refl s2 with } (State.SameWords.refl s2).modGroup rfl
      rw [← hc]
      exact (State.Noted.refl s2).deferFailure
    · exact h2

/-- The wait of a slot at its `.sys` operation is over (R142). -/
theorem State.Released.sysWait {since : Option Nat} (h : s.Released t) :
    s.Released (t.modGroup s.cur fun g => g.sysWait t.curSlot since) := by
  refine h.aside ((State.Noted.refl t).modGroup fun g => ?_) { State.SameDomain.refl t with } (State.SameWords.refl t).modGroup rfl
  cases t.curSlot
  · exact ⟨{ g.notes with since0 := since }, rfl, rfl⟩
  · exact ⟨{ g.notes with since1 := since }, rfl, rfl⟩

/-- A release that may complete goes on. -/
theorem State.releaseIf_ready {g : Group} {rel sys : Bool} (hg : s.group? s.cur = some g) (h : relReady s g rel sys) :
    ∃ t, (∀ go, s.releaseIf (s.acc g) rel sys go = go t) ∧ s.Released t := by
  cases rel with
  | false => exact ⟨s, fun _ => rfl, .refl s⟩
  | true =>
    obtain ⟨hcalm, hready, hsys⟩ := h rfl
    have hm : s.MemStep (s.flushCore (coreOf s.cur)) := (State.MemStep.refl s).flushCore
    have hacq : (s.flushCore (coreOf s.cur)).acquiring (s.acc g) = false := by
      rw [State.acquiring, hm.pends]
      exact State.acquiring_eq_false hcalm
    have hrel (go : State → Res) : s.releaseIf (s.acc g) true sys go = if !sys then go (s.flushCore (coreOf s.cur))
        else if !(s.flushCore (coreOf s.cur)).sysReady s.cur g then
          .stall .sysRelease ((s.flushCore (coreOf s.cur)).modGroup s.cur fun g' => g'.sysWait s.curSlot
            (firstOf (g'.pc s.curSlot).sysSince (some (s.flushCore (coreOf s.cur)).clock)))
        else go (((s.flushCore (coreOf s.cur)).modGroup s.cur fun g' => g'.sysWait s.curSlot none).sysDone (s.acc g)) := by
      have hg' : (s.flushCore (coreOf s.cur)).group? s.cur = some g := (hm.group? s.cur).trans hg
      simp only [State.releaseIf, State.release, Acc.core, State.acc, if_true] at hacq ⊢
      simp only [hg', hacq, hready]
      rfl
    cases sys with
    | false => exact ⟨_, fun go => (hrel go).trans rfl, .flushCore hready⟩
    | true =>
      have hdone := (State.Released.flushCore hready).sysWait (since := none)
      rw [hm.curSlot] at hdone
      exact ⟨_, fun go => (hrel go).trans (by rw [hsys rfl]; rfl), hdone.sysDone rfl⟩

end Sys2Proof.Machine
end

section
/-! SUPPORT. The pieces of an access of the scalar pipe (R12, R15, R119, R256): none is empty, and all lie in one window. -/

namespace Sys2Proof.Machine

/-- Whether a place is another device's, or this device's behind the fabric window (R26). -/
def Place.isFabric (p : Place) : Bool :=
  match p with
  | .fabric _ _ => true
  | _ => false

/-- Pieces of one window, none of them empty. -/
structure Uniform (p : Pieces) : Prop where
  pos : ∀ q ∈ p, 0 < q.2.1
  window : ∃ b, ∀ q ∈ p, q.2.2.isFabric = b

/-- With a piece in memory no piece is behind the fabric window. -/
theorem Uniform.offDevice {p : Pieces} {s : State} {q : Nat × Nat × Place} {dpa va : Nat} {nc priv : Bool} (h : Uniform p)
    (hq : q ∈ p) (hm : q.2.2 = .mem dpa va nc priv) : Claims.offDevice s [(0, p)] := by
  obtain ⟨b, hb⟩ := h.window
  have hfalse : b = false := by rw [← hb q hq, hm]; rfl
  intro l hl x hx d off hd
  rw [List.mem_singleton.1 hl] at hx
  have := hb x hx
  rw [hd, hfalse] at this
  cases this

theorem pieces_pos {fuel a off n : Nat} {x : Nat × Nat} (h : x ∈ pieces fuel a off n) : 0 < x.2 := by
  induction fuel generalizing off n with
  | zero => cases h
  | succ fuel ih =>
    unfold pieces at h
    split at h
    · cases h
    · obtain rfl | h := List.mem_cons.1 h
      · dsimp only
        split
        · decide
        · split
          · decide
          · split <;> decide
      · exact ih h

variable {s t : State} {q : Asker} {k : AccessKind} {lane : Nat} {w : Window} {a : DWord}

theorem State.placeGlobal_ok_isFabric {pv : Bool} {va : Nat} {pl : Place} (h : s.placeGlobal q k pv va a = (.ok pl, t)) :
    pl.isFabric = false := by
  unfold State.placeGlobal at h
  split at h
  · cases h
  · split at h
    · cases h
    · cases h
      rfl

/-- The window of an address tells whether its piece is behind the fabric window. -/
theorem State.place_ok_isFabric {pl : Place} (h : s.place q k lane w a = (.ok pl, t)) : pl.isFabric = (w == .fabric) := by
  unfold State.place at h
  split at h
  · split at h
    · cases h
      rfl
    · cases h
  · cases h
    rfl
  · exact State.placeGlobal_ok_isFabric h
  · cases h
    rfl
  · cases h
    rfl
  next _ _ _ hf _ =>
    rw [State.placeGlobal_ok_isFabric h]
    exact (beq_eq_false_iff_ne.2 hf).symm

/-- The pieces placed have the sizes asked for, and lie in the window. -/
theorem State.placeAll_ok {ps : List (Nat × Nat)} {p : Pieces} (h : s.placeAll q k lane w a ps = (.ok p, t)) :
    ∀ x ∈ p, (x.1, x.2.1) ∈ ps ∧ x.2.2.isFabric = (w == .fabric) := by
  induction ps generalizing s t p with
  | nil =>
    cases h
    exact fun _ hx => absurd hx List.not_mem_nil
  | cons y ps ih =>
    obtain ⟨off, n⟩ := y
    unfold State.placeAll at h
    split at h
    · cases h
    next pl s1 hpl =>
      split at h
      · cases h
      next l s2 hl =>
        cases h
        intro x hx
        obtain rfl | hx := List.mem_cons.1 hx
        · exact ⟨List.mem_cons_self, State.place_ok_isFabric hpl⟩
        · exact (ih hl x hx).imp_left (List.mem_cons_of_mem _)

theorem State.resolve_ok {r : Reach} {align : Bool} {n : Nat} {p : Pieces} (h : s.resolve q r k align lane a n = (.ok p, t)) :
    Uniform p := by
  unfold State.resolve at h
  extract_lets last bad at h
  split at h
  · cases h
  next w _ =>
    split at h
    · cases h
    · split at h
      · cases h
      · split at h
        · cases h
        · split at h
          · cases h
          · have hp := State.placeAll_ok h
            exact ⟨fun x hx => pieces_pos (hp x hx).1, w == .fabric, fun x hx => (hp x hx).2⟩

variable {gid n : Nat} {g : Group} {r : Reach} {align : Bool}

theorem State.resolvePipe_ok {p : Pieces} (h : s.resolvePipe gid g r k align a n = (.ok p, t)) : Uniform p := by
  unfold State.resolvePipe at h
  split at h
  · cases h
  · exact State.resolve_ok h

theorem State.MemStep.resolvePipe (h : s.MemStep t) : s.MemStep (t.resolvePipe gid g r k align a n).2 := .ite_snd h h.resolve

/-- The scalar pipe is no lane, and has no memory of a lane's own (R256). -/
theorem State.resolvePipe_priv (hc : canonical a = true) (hw : windowOf a = .priv) :
    s.resolvePipe gid g r k align a n = (.error { cause := .addrWindow, addr := a, level := 0 }, s) := by
  simp only [State.resolvePipe, hc, hw, beq_self_eq_true, Bool.and_self, if_true]

end Sys2Proof.Machine
end

section
/-! SUPPORT. What an access of the scalar pipe at hand sees (R78, R89, R96): the exchange of counters with the core of a scratchpad
leaves the L1s, the scratchpads and the messages as they are. -/

namespace Sys2Proof.Machine
open Sys2Proof.Claims

/-- The same L1s, scratchpads, messages and current group. -/
structure State.SameView (s t : State) : Prop where
  cur : t.cur = s.cur
  net : t.net = s.net
  l1 : ∀ c, (t.core c).l1 = (s.core c).l1
  spad : ∀ c, (t.core c).spad = (s.core c).spad

variable {s t : State}

theorem State.SameView.refl (s : State) : s.SameView s := ⟨rfl, rfl, fun _ => rfl, fun _ => rfl⟩

theorem State.SameView.ite {u v : State} {q : Prop} [Decidable q] (hu : s.SameView u) (hv : s.SameView v) :
    s.SameView (if q then u else v) := by
  split
  · exact hu
  · exact hv

theorem State.SameView.modBh {b : Nat} {f : Bulkhead → Bulkhead} (h : s.SameView t) : s.SameView (t.modBh b f) := { h with }

theorem State.SameView.modCore {c : Nat} {f : Core → Core} (h : s.SameView t) (hl : (f (t.core c)).l1 = (t.core c).l1)
    (hp : (f (t.core c)).spad = (t.core c).spad) : s.SameView (t.modCore c f) := by
  refine ⟨h.cur, h.net, fun core => ?_, fun core => ?_⟩ <;> by_cases hc : core = c
  · rw [hc, State.core_modCore, hl, h.l1]
  · rw [State.core_modCore_other _ _ _ _ hc, h.l1]
  · rw [hc, State.core_modCore, hp, h.spad]
  · rw [State.core_modCore_other _ _ _ _ hc, h.spad]

theorem State.SameView.rawStore {a n v : Nat} (h : s.SameView t) : s.SameView (t.rawStore a n v) := { h with }

theorem State.SameView.sevq {put count gap : Nat} (h : s.SameView t) :
    s.SameView { t with sevqPut := put, sevqCount := count, sevqGap := gap } := { h with }

theorem State.SameView.postSup {c : Cause} {d0 d1 : Nat} (h : s.SameView t) : s.SameView (t.postSup c d0 d1) := by
  unfold State.postSup State.postSupRecord
  exact .ite { h with } h.rawStore.rawStore.rawStore.rawStore.sevq

theorem State.SameView.setLcs {b slice v : Nat} (h : s.SameView t) : s.SameView (t.setLcs b slice v) :=
  .ite h.modBh.postSup h.modBh

theorem State.SameView.lccTake {c v : Nat} (h : s.SameView t) : s.SameView (t.lccTake c v) := h.modCore rfl rfl

theorem State.SameView.relay {c target : Nat} (h : s.SameView t) : s.SameView (t.relay c target) := by
  have h1 : s.SameView (t.announce c [target]) := List.foldlRecOn _ _ h fun _ hu _ _ => hu.setLcs
  exact .ite h (State.SameView.ite h1 h1.lccTake).setLcs.lccTake

theorem State.SameView.held {core w : Nat} (h : s.SameView t) (hw : s.Held core w) : t.Held core w := hw.sameL1 (h.l1 core)

theorem State.SameView.stillOwned {dpa n : Nat} (h : s.SameView t) (ho : ownedHere s dpa n) : ownedHere t dpa n := by
  obtain ⟨hheld, hunp⟩ := ownedHere_iff.1 ho
  rw [ownedHere_iff, h.cur]
  refine ⟨fun w hw => h.held (hheld w hw), ?_⟩
  unfold State.unperformed at hunp ⊢
  rwa [h.net]

/-- A piece lies in a scratchpad, or in words that the L1 owns. -/
def State.PieceAtHand (s : State) (p : Nat × Nat × Place) : Prop :=
  (∃ core off, p.2.2 = .spad core off) ∨ ∃ dpa va nc priv, p.2.2 = .mem dpa va nc priv ∧ ownedHere s dpa p.2.1

theorem atHand_iff {x : List (Nat × Pieces)} : atHand s x ↔ ∀ l ∈ x, ∀ p ∈ l.2, s.PieceAtHand p := Iff.rfl

theorem State.PieceAtHand.mono {p : Nat × Nat × Place} (hp : s.PieceAtHand p)
    (h : ∀ dpa n, Claims.ownedHere s dpa n → Claims.ownedHere t dpa n) : t.PieceAtHand p :=
  hp.imp_right fun ⟨dpa, va, nc, priv, hm, ho⟩ => ⟨dpa, va, nc, priv, hm, h dpa _ ho⟩

theorem State.SameView.atHand {x : List (Nat × Pieces)} (h : s.SameView t) (ha : Claims.atHand s x) : Claims.atHand t x :=
  fun l hl p hp => State.PieceAtHand.mono (ha l hl p hp) fun _ _ => h.stillOwned

/-- A byte of a word that a core owns whole is the byte of that word. -/
theorem State.Held.coreByte {core b : Nat} (h : s.Held core (b / 4)) :
    ∃ x, s.l1 core (b / 4) = some x ∧ s.coreByte core b = x.data.toNat / 2 ^ (8 * (b % 4)) % 256 := by
  obtain ⟨x, hx, -, hb⟩ := h
  refine ⟨x, hx, ?_⟩
  have hall : ∀ i < 4, (15 : BitVec 4).getLsbD i = true := by decide
  simp only [State.coreByte, hx, hb, hall (b % 4) (Nat.mod_lt _ (by decide)), if_true]

theorem State.Held.coreByte_congr {core b : Nat} (hw : s.Held core (b / 4)) (hl : (t.core core).l1 = (s.core core).l1) :
    t.coreByte core b = s.coreByte core b := by
  obtain ⟨x, hx, hs⟩ := hw.coreByte
  obtain ⟨y, hy, ht⟩ := (hw.sameL1 hl).coreByte
  have hxy : y = x := Option.some.inj (hy.symm.trans ((congrArg (Table.find · _) hl).trans hx))
  rw [hs, ht, hxy]

theorem State.coreLoad_congr {core dpa n : Nat} (h : ∀ j < n, t.coreByte core (dpa + j) = s.coreByte core (dpa + j)) :
    t.coreLoad core dpa n = s.coreLoad core dpa n := by
  induction n generalizing dpa with
  | zero => rfl
  | succ n ih =>
    have h0 : t.coreByte core dpa = s.coreByte core dpa := h 0 (Nat.zero_lt_succ _)
    rw [State.coreLoad, State.coreLoad, h0, ih fun j hj => ?_]
    rw [Nat.add_right_comm]
    exact h (j + 1) (Nat.succ_lt_succ hj)

/-- The word of a byte of an access is one of the words of the access. -/
theorem div_mem_wordsOf {dpa n b : Nat} (h1 : dpa ≤ b) (h2 : b < dpa + n) : b / 4 ∈ wordsOf dpa n :=
  List.mem_map.2 ⟨b / 4 - dpa / 4, List.mem_range.2 (by omega), by omega⟩

theorem State.SameView.coreLoad_owned {dpa n : Nat} (h : s.SameView t) (ho : ownedHere s dpa n) :
    t.coreLoad (coreOf s.cur) dpa n = s.coreLoad (coreOf s.cur) dpa n :=
  State.coreLoad_congr fun _ hj =>
    ((ownedHere_iff.1 ho).1 _ (div_mem_wordsOf (Nat.le_add_right _ _) (Nat.add_lt_add_left hj _))).coreByte_congr (h.l1 _)

theorem State.SameView.pieceNow_atHand {asid : Nat} {p : Nat × Nat × Place} (h : s.SameView t)
    (ha : s.PieceAtHand p) : pieceNow t asid p = pieceNow s asid p := by
  obtain ⟨core, off, hp⟩ | ⟨dpa, va, nc, priv, hp, ho⟩ := ha
  · simp only [pieceNow, hp, State.spad, h.spad]
  · simp only [pieceNow, hp, h.cur, h.coreLoad_owned ho]

end Sys2Proof.Machine
end

section
/-! SUPPORT. The pieces of a scalar load (R89, R93, R141, R256): a piece at hand gives its value at once, and a piece of which the
L1 holds no word is asked of its home slice. -/

namespace Sys2Proof.Machine
open Sys2Proof.Claims

/-- A pending access that has received values at issue, or waits for further replies. -/
def Pend.Fed (q r : Pend) : Prop := ∃ vs po l, r = { q with values := vs, poison := po, left := q.left + l }

theorem Pend.fed (q : Pend) : q.Fed q := ⟨q.values, q.poison, 0, rfl⟩

theorem Pend.Fed.trans {q r u : Pend} (h : q.Fed r) (h' : r.Fed u) : q.Fed u := by
  obtain ⟨vs, po, l, rfl⟩ := h
  obtain ⟨vs', po', l', rfl⟩ := h'
  exact ⟨vs', po', l + l', by simp only [Nat.add_assoc]⟩

theorem Pend.fed_put (q : Pend) (lane off v : Nat) (x : Option Cause) : q.Fed (q.put lane off v x) := ⟨_, _, 0, rfl⟩

theorem Pend.fed_more (q : Pend) : q.Fed q.more := ⟨_, _, 1, rfl⟩

theorem Pend.Fed.left_le {q r : Pend} (h : q.Fed r) : q.left ≤ r.left := by
  obtain ⟨vs, po, l, rfl⟩ := h
  exact Nat.le_add_right _ _

theorem Pend.Fed.id {q r : Pend} (h : q.Fed r) : r.id = q.id := by
  obtain ⟨vs, po, l, rfl⟩ := h
  rfl

variable {c : Acc} {q : Pend} {rq : Nat} {acq : Bool} {lane off n dpa va : Nat} {s t : State}

/-- The pieces of an element that a plain load loads, one after the other. -/
def State.loadPieces (s : State) (c : Acc) (q : Pend) (rq : Nat) (acq : Bool) (lane : Nat) (p : Pieces) : Pend × State :=
  p.foldl (fun a x => a.2.loadPiece c a.1 (.plain rq acq) lane x) (q, s)

/-! What a load of a piece leaves. -/

theorem State.MemStep.loadMem {r : ReqType} {id : Nat} (h : s.MemStep t) : s.MemStep (t.loadMem c id lane r acq off n dpa va).2 :=
  .ite_snd h (State.MemStep.ite h.flushWords.dropVs h.flushWords).send

theorem State.MemKept.ite_snd {core : Nat} {B : Nat → Prop} {α : Type} {x y : α × State} {q : Prop} [Decidable q]
    (hx : State.MemKept core B s x.2) (hy : State.MemKept core B s y.2) : State.MemKept core B s (if q then x else y).2 := by
  split
  · exact hx
  · exact hy

theorem State.MemKept.loadMem {core : Nat} {B : Nat → Prop} {r : ReqType} {id : Nat} (h : State.MemKept core B s t) :
    State.MemKept core B s (t.loadMem c id lane r acq off n dpa va).2 :=
  .ite_snd h (State.MemKept.ite h.flushWords.dropVs h.flushWords).send

theorem State.loadAt_plain {nc priv : Bool} : s.loadAt c q (.plain rq acq) lane off n dpa va nc priv =
    ((s.loadMem c q.id lane (reqTypeOf rq true nc priv) acq off n dpa va).1.elim q.more fun v => q.put lane off v.1 v.2,
      (s.loadMem c q.id lane (reqTypeOf rq true nc priv) acq off n dpa va).2) := by
  simp only [State.loadAt]
  generalize s.loadMem c q.id lane (reqTypeOf rq true nc priv) acq off n dpa va = r
  obtain ⟨_ | ⟨v, x⟩, u⟩ := r <;> rfl

theorem State.fed_loadAt {nc priv : Bool} : q.Fed (s.loadAt c q (.plain rq acq) lane off n dpa va nc priv).1 := by
  rw [State.loadAt_plain]
  dsimp only
  generalize (s.loadMem c q.id lane (reqTypeOf rq true nc priv) acq off n dpa va).1 = r
  cases r with
  | none => exact q.fed_more
  | some v => exact q.fed_put _ _ _ _

theorem State.MemStep.loadAt {nc priv : Bool} (h : s.MemStep t) :
    s.MemStep (t.loadAt c q (.plain rq acq) lane off n dpa va nc priv).2 := by
  rw [State.loadAt_plain]
  exact h.loadMem

theorem State.MemStep.loadFabric {r : ReqType} {d o : Nat} (h : s.MemStep t) :
    s.MemStep (t.loadFabric c q r acq lane off n d o).2 := .ite_snd h (State.MemStep.ite h.dropVs h).askFabric

/-- A load of a place that is not of this device behind the fabric window, and not at this device (R26). -/
theorem State.loadPiece_peer {d o : Nat} (hd : d ≠ s.devId) : s.loadPiece c q (.plain rq acq) lane (off, n, .fabric d o) =
    s.loadFabric c q (reqTypeOf rq true false false) acq lane off n d o := by
  simp only [State.loadPiece, State.localFabric_peer hd]

variable {x : Nat × Nat × Place} {p : Pieces}

theorem State.MemStep.loadPiece (h : s.MemStep t) : s.MemStep (t.loadPiece c q (.plain rq acq) lane x).2 := by
  obtain ⟨off, n, pl⟩ := x
  cases pl with
  | mem dpa va nc priv => exact h.loadAt
  | spad k o => exact h.relay
  | fabric d o =>
    unfold State.loadPiece
    dsimp only
    split
    next heq => exact (h.localFabric heq).loadAt
    · exact h.loadFabric
  | multicast set o => exact h

theorem State.fed_loadPiece : q.Fed (s.loadPiece c q (.plain rq acq) lane x).1 := by
  obtain ⟨off, n, pl⟩ := x
  cases pl with
  | mem dpa va nc priv => exact State.fed_loadAt
  | spad k o => exact q.fed_put _ _ _ _
  | fabric d o =>
    unfold State.loadPiece
    dsimp only
    split
    · exact State.fed_loadAt
    · simp only [State.loadFabric]
      split
      · exact q.fed_put _ _ _ _
      · exact q.fed_more
  | multicast set o => exact q.fed

/-- A load of a place that is not of this device behind the fabric window changes no byte of memory. -/
theorem State.MemKept.loadPiece {core : Nat} {B : Nat → Prop} (h : State.MemKept core B s t)
    (hx : ∀ d o, x.2.2 = .fabric d o → d ≠ t.devId) : State.MemKept core B s (t.loadPiece c q (.plain rq acq) lane x).2 := by
  obtain ⟨off, n, pl⟩ := x
  cases pl with
  | mem dpa va nc priv =>
    simp only [State.loadPiece, State.loadAt_plain]
    exact h.loadMem
  | spad k o => exact h.relay
  | fabric d o =>
    rw [State.loadPiece_peer (hx d o rfl)]
    exact .ite_snd h (State.MemKept.ite h.dropVs h).askFabric
  | multicast set o => exact h

theorem State.MemStep.loadPieces (h : s.MemStep t) : s.MemStep (t.loadPieces c q rq acq lane p).2 :=
  List.foldlRecOn (motive := fun a : Pend × State => s.MemStep a.2) _ _ h fun _ ha _ _ => ha.loadPiece

theorem State.fed_loadPieces : q.Fed (s.loadPieces c q rq acq lane p).1 :=
  List.foldlRecOn (motive := fun a : Pend × State => q.Fed a.1) _ _ q.fed fun _ ha _ _ => ha.trans State.fed_loadPiece

theorem State.MemKept.loadPieces {core : Nat} {B : Nat → Prop} (h : State.MemKept core B s t) (hp : offDevice s [(lane, p)]) :
    State.MemKept core B s (t.loadPieces c q rq acq lane p).2 := by
  refine List.foldlRecOn (motive := fun a : Pend × State => State.MemKept core B s a.2) _ _ h fun a ha x hx => ?_
  refine ha.loadPiece fun d o hd => ?_
  rw [ha.toSameDomain.devId]
  exact hp _ List.mem_cons_self x hx d o hd

/-! A piece at hand. -/

theorem State.unperformed_writes {gid : Nat} (h : s.unperformed false gid dpa n = false) :
    s.unperformed true gid dpa n = false := by
  refine List.any_eq_false.2 fun m hm hb => List.any_eq_false.1 h m hm ?_
  rw [Bool.and_eq_true] at hb
  simp only [hb.1, Bool.not_false, Bool.true_or, Bool.and_self]

theorem ownsAll_of_ownedHere (ho : ownedHere s dpa n) : s.ownsAll (coreOf s.cur) dpa n = true :=
  List.all_eq_true.2 fun w hw => by
    obtain ⟨x, hx, hst, -⟩ := (ownedHere_iff.1 ho).1 w hw
    simp only [hx, hst, beq_self_eq_true]

theorem State.loadMem_owned {r : ReqType} {id : Nat} (ho : ownedHere s dpa n) (hc : c.gid = s.cur) :
    ∃ po, s.loadMem c id lane r acq off n dpa va = (some (s.coreLoad (coreOf s.cur) dpa n, po), s) := by
  have hhit (r' : ReqType) : s.loadHits c dpa n acq r' = true := by
    simp only [State.loadHits, Acc.core, hc, ownsAll_of_ownedHere ho, State.unperformed_writes (ownedHere_iff.1 ho).2,
      Bool.not_false, Bool.and_self, Bool.true_or]
  simp only [State.loadMem, hhit, if_true, Acc.core, hc]
  exact ⟨_, rfl⟩

/-- A piece at hand is received at once. -/
theorem State.loadPiece_atHand (h : s.SameView t) (hc : c.gid = s.cur) (hx : s.PieceAtHand x) :
    s.SameView (t.loadPiece c q (.plain rq acq) lane x).2 ∧
      ∃ po, (t.loadPiece c q (.plain rq acq) lane x).1 = q.put lane x.1 (pieceNow s c.asid x) po := by
  have hnow := h.pieceNow_atHand (asid := c.asid) hx
  obtain ⟨off, n, pl⟩ := x
  obtain ⟨core, o, rfl⟩ | ⟨dpa, va, nc, priv, rfl, ho⟩ := hx
  · exact ⟨h.relay, _, by rw [← hnow]; rfl⟩
  · obtain ⟨po, hload⟩ := State.loadMem_owned (c := c) (lane := lane) (off := off) (va := va) (acq := acq) (id := q.id)
      (r := reqTypeOf rq true nc priv) (h.stillOwned ho) (hc.trans h.cur.symm)
    simp only [State.loadPiece, State.loadAt_plain, hload]
    exact ⟨h, po, by rw [← hnow]; rfl⟩

/-- Pieces at hand make up the element. -/
theorem State.loadPieces_atHand (h : s.SameView t) (hc : c.gid = s.cur) (hp : atHand s [(lane, p)]) :
    (t.loadPieces c q rq acq 0 p).1.left = q.left ∧ (t.loadPieces c q rq acq 0 p).1.values.lane 0 =
      p.foldl (fun v x => v ||| BitVec.ofNat 64 (pieceNow s c.asid x * 2 ^ (8 * x.1))) (q.values.lane 0) := by
  have hp' : ∀ x ∈ p, s.PieceAtHand x := atHand_iff.1 hp _ List.mem_cons_self
  clear hp
  induction p generalizing t q with
  | nil => exact ⟨rfl, rfl⟩
  | cons x p ih =>
    obtain ⟨hv, po, hq⟩ := State.loadPiece_atHand (q := q) (rq := rq) (acq := acq) (lane := 0) h hc (hp' x List.mem_cons_self)
    obtain ⟨hl, hval⟩ := ih (q := (t.loadPiece c q (.plain rq acq) 0 x).1) hv fun y hy => hp' y (List.mem_cons_of_mem _ hy)
    refine ⟨hl.trans (by rw [hq]; rfl), hval.trans ?_⟩
    rw [hq, List.foldl_cons]
    congr 1
    simp [Pend.put, Lanes.lane]

/-! A piece of which the L1 holds no word. -/

theorem exists_mem_wordsOf {dpa n : Nat} (h : 0 < n) : ∃ w, w ∈ wordsOf dpa n :=
  ⟨_, div_mem_wordsOf le_rfl (Nat.lt_add_of_pos_right h)⟩

theorem State.loadHits_cold {r : ReqType} (hcold : ∀ w ∈ wordsOf dpa n, s.l1 c.core w = none) (hn : 0 < n) :
    s.loadHits c dpa n acq r = false := by
  obtain ⟨w, hw⟩ := exists_mem_wordsOf (dpa := dpa) hn
  have hfalse (f : Nat → Bool) (hf : f w = false) : (wordsOf dpa n).all f = false :=
    List.all_eq_false.2 ⟨w, hw, by rw [hf]; exact Bool.false_ne_true⟩
  have h1 : s.ownsAll c.core dpa n = false := hfalse _ (by simp only [hcold w hw])
  have h2 : ((wordsOf dpa n).all fun w => s.pendHolds c.core w dpa n) = false :=
    hfalse _ (by simp only [State.pendHolds, hcold w hw])
  have h3 : ((wordsOf dpa n).all fun w => s.l1State c.core w == some .valid) = false :=
    hfalse _ (by simp only [State.l1State, hcold w hw]; rfl)
  simp only [State.loadHits, h1, h2, h3, Bool.false_and, Bool.and_false, Bool.or_false]

/-- A load of words that the L1 does not hold asks their home slice. -/
theorem State.loadPiece_cold {nc priv : Bool} (hx : x.2.2 = .mem dpa va nc priv)
    (hcold : ∀ w ∈ wordsOf dpa x.2.1, s.l1 c.core w = none) (hn : 0 < x.2.1) :
    ∃ (u : State) (kind : MsgKind), s.loadPiece c q (.plain rq acq) lane x =
        (q.more, u.send (c.msg kind (some q.id) lane x.1 dpa va x.2.1)) ∧
      kind.request = true ∧ kind.isStore = false ∧ kind.isAtomic = false := by
  simp only [State.loadPiece, hx, State.loadAt_plain, State.loadMem, State.loadHits_cold hcold hn]
  refine ⟨_, _, rfl, ?_⟩
  split
  · decide
  · split <;> decide

/-- What a load asks stays asked while its other pieces are loaded. -/
theorem State.loadPieces_cold {nc priv : Bool} (hp : Uniform p) (hxp : x ∈ p) (hx : x.2.2 = .mem dpa va nc priv)
    (hcold : ∀ w ∈ wordsOf dpa x.2.1, s.l1 c.core w = none) :
    0 < (s.loadPieces c q rq acq 0 p).1.left ∧ ∃ m ∈ (s.loadPieces c q rq acq 0 p).2.net,
      m.pend = some q.id ∧ m.lane = 0 ∧ m.off = x.1 ∧ m.dpa = dpa ∧ m.size = x.2.1 ∧
        m.kind.request = true ∧ m.kind.isStore = false ∧ m.kind.isAtomic = false := by
  obtain ⟨l, r, rfl⟩ := List.append_of_mem hxp
  have hoff (u : State) : offDevice u [(0, l ++ x :: r)] := hp.offDevice hxp hx
  have hoffl : offDevice s [(0, l)] := fun y hy z hz => hoff s _ List.mem_cons_self z
    (List.mem_append_left _ (by rwa [List.mem_singleton.1 hy] at hz))
  obtain ⟨q1, s1, h1, hk1, hf1⟩ : ∃ q1 s1, s.loadPieces c q rq acq 0 l = (q1, s1) ∧
      State.MemKept c.core (fun _ => False) s s1 ∧ q.Fed q1 :=
    ⟨_, _, rfl, (State.MemKept.refl s).loadPieces hoffl, State.fed_loadPieces⟩
  obtain ⟨u, kind, h2, hreq, hst, hat⟩ := s1.loadPiece_cold (c := c) (q := q1) (rq := rq) (acq := acq) (lane := 0) hx
    (fun w hw => hk1.absent w (fun _ _ => id) (hcold w hw)) (hp.pos x hxp)
  have hall : s.loadPieces c q rq acq 0 (l ++ x :: r) =
      (u.send (c.msg kind (some q1.id) 0 x.1 dpa va x.2.1)).loadPieces c q1.more rq acq 0 r := by
    unfold State.loadPieces at h1 ⊢
    rw [List.foldl_append, h1, List.foldl_cons, h2]
  rw [hall]
  have hoffr (u : State) : offDevice u [(0, r)] := fun y hy z hz => hoff u _ List.mem_cons_self z
    (List.mem_append_right _ (List.mem_cons_of_mem _ (by rwa [List.mem_singleton.1 hy] at hz)))
  refine ⟨Nat.lt_of_lt_of_le (Nat.succ_pos _) (State.fed_loadPieces (q := q1.more)).left_le, ?_⟩
  obtain ⟨id, counter, left, passed, target, gen, hnet⟩ := u.net_send_eq (c.msg kind (some q1.id) 0 x.1 dpa va x.2.1)
  refine ⟨_, ((State.MemKept.refl (core := c.core) (B := fun _ => False) _).loadPieces (hoffr _)).net.subset
    (hnet ▸ List.mem_append_right _ List.mem_cons_self), congrArg some hf1.id, rfl, rfl, rfl, rfl, hreq, hst, hat⟩

end Sys2Proof.Machine
end

section
/-! SUPPORT. A scalar load begins, and lands where it waits for nothing (R127, R256, R308). -/

namespace Sys2Proof.Machine

variable {s t : State} {gid core : Nat} {d : Byte} {ty : BitVec 4}

/-- An acquire takes from an L1 only words that are V. -/
theorem State.l1_dropValid (c w : Nat) : (s.dropValid core).l1 c w = s.l1 c w ∨
    ∃ x, s.l1 c w = some x ∧ x.st = .valid ∧ (s.dropValid core).l1 c w = none := by
  have hcore : (s.dropValid core).core c =
      (s.modCore core fun k => { k with l1 := Table.drop k.l1 fun _ x => x.st == .valid && x.tag.isNone }).core c := rfl
  by_cases hc : c = core
  · have hd : (s.dropValid core).l1 c w = (s.l1 c w).filter fun x => !(x.st == .valid && x.tag.isNone) := by
      rw [State.l1, hcore, hc, State.core_modCore]
      exact Table.find_drop (s.core core).l1 (fun _ x => x.st == .valid && x.tag.isNone) w
    rw [hd]
    cases hx : s.l1 c w with
    | none => exact .inl rfl
    | some x =>
      cases hp : x.st == .valid && x.tag.isNone with
      | false => exact .inl (by simp [Option.filter, hp])
      | true => exact .inr ⟨x, rfl, eq_of_beq (Bool.and_eq_true_iff.1 hp).1, by simp [Option.filter, hp]⟩
  · rw [State.core_modCore_other _ _ _ _ hc] at hcore
    exact .inl (congrArg (fun k : Core => Table.find k.l1 w) hcore)

/-- No owned word leaves an L1 by an acquire, so that every word reads as before (R89). -/
theorem State.wordNow_dropValid (w : Nat) : (s.dropValid core).wordNow w = s.wordNow w := by
  have hhome : (s.dropValid core).homeWord w = s.homeWord w := State.homeWord_congr fun _ _ _ => rfl
  have howner : (s.dropValid core).owner w = s.owner w := rfl
  unfold State.wordNow
  rw [howner, hhome]
  split
  next c _ =>
    obtain h | ⟨x, hx, hst, h⟩ := State.l1_dropValid (s := s) (core := core) c w
    · rw [h]
    · rw [h, hx]
      simp [hst]
  · rfl

theorem State.byteNow_dropValid (b : Nat) : (s.dropValid core).byteNow b = s.byteNow b := by
  rw [State.byteNow, State.byteNow, State.wordNow_dropValid]

/-- The destination of a scalar load written, and the poison of what it loaded consumed. -/
def State.landScalar (s : State) (q : Pend) (d : Byte) (ty : BitVec 4) : State :=
  ((s.dropPend q.id).modGroup q.gid fun g => g.landDest (.scalar d ty) q.lanes q.values).consume q.gid q.poison

theorem State.land_eq_landScalar {q : Pend} (hd : q.dest = .scalar d ty) (hf : q.failed = false) (hge : q.ge = none) :
    s.land q = if q.acq then (s.landScalar q d ty).dropValid (coreOf q.gid) else s.landScalar q d ty := by
  simp only [State.land, hd, hf, hge, Bool.not_false, Bool.and_true]
  rfl

theorem State.group?_landScalar {q : Pend} {g : Group} (hg : s.group? q.gid = some g) :
    ∃ cs, (s.landScalar q d ty).group? q.gid = some { g.landDest (.scalar d ty) q.lanes q.values with consumed := cs } := by
  have hg' : (s.dropPend q.id).group? q.gid = some g := hg
  unfold State.landScalar State.consume
  split
  · exact ⟨_, by rw [State.group_modGroup, hg', Option.map_some]⟩
  · exact ⟨_, by rw [State.group_modGroup, State.group_modGroup, hg', Option.map_some, Option.map_some]⟩

theorem State.group?_landScalar_other {q : Pend} {j : Nat} (hj : j ≠ q.gid) :
    (s.landScalar q d ty).group? j = s.group? j := by
  have h1 (f : Group → Group) : ((s.dropPend q.id).modGroup q.gid f).group? j = s.group? j := State.group_modGroup_other _ _ _ _ hj
  unfold State.landScalar State.consume
  split
  · exact h1 _
  · exact (State.group_modGroup_other _ _ _ _ hj).trans (h1 _)

/-- A scalar load that lands writes its register, and changes no other group and no byte of memory. -/
theorem State.land_scalar {q : Pend} {g : Group} (hd : q.dest = .scalar d ty) (hf : q.failed = false) (hge : q.ge = none)
    (hg : s.group? q.gid = some g) :
    (∃ cs, (s.land q).group? q.gid = some { g.landDest (.scalar d ty) q.lanes q.values with consumed := cs }) ∧
      (∀ j, j ≠ q.gid → (s.land q).group? j = s.group? j) ∧ ∀ b, (s.land q).byteNow b = s.byteNow b := by
  have hdrop (u : State) : (∀ j, (if q.acq = true then u.dropValid (coreOf q.gid) else u).group? j = u.group? j) ∧
      ∀ b, (if q.acq = true then u.dropValid (coreOf q.gid) else u).byteNow b = u.byteNow b := by
    split
    · exact ⟨fun _ => rfl, State.byteNow_dropValid⟩
    · exact ⟨fun _ => rfl, fun _ => rfl⟩
  obtain ⟨hgroup, hbyte⟩ := hdrop (s.landScalar q d ty)
  have hpend : s.SameWords (s.dropPend q.id) := ⟨rfl, rfl, fun _ => rfl⟩
  have hwords : s.SameWords (s.landScalar q d ty) := hpend.modGroup.consume
  rw [State.land_eq_landScalar hd hf hge]
  obtain ⟨cs, hcs⟩ := State.group?_landScalar (d := d) (ty := ty) hg
  exact ⟨⟨cs, (hgroup _).trans hcs⟩, fun j hj => (hgroup j).trans (State.group?_landScalar_other hj),
    fun b => (hbyte b).trans (hwords.byteNow b)⟩

end Sys2Proof.Machine
end

section
/-! SUPPORT. Scalar loads (R89, R256). -/

namespace Sys2Proof.Machine
open Sys2Proof.Claims

variable {s : State} {g : Group} {f : ExtM} {d : Byte} {ty : BitVec 4}

theorem loadValue_scalar (n raw : Nat) : loadValue true n raw = scalarForm n raw := by
  unfold loadValue scalarForm
  split <;> simp_all

theorem Group.rdS_congr {h : Group} {n : Byte} (hs : ∀ i (hi : i < 64), i = n.toNat → h.s[i] = g.s[i])
    (hy : ∀ i (hi : i < 8), ¬ n.toNat < 64 → i = n.toNat - 64 → h.y[i] = g.y[i]) : h.rdS n = g.rdS n := by
  unfold Group.rdS
  split
  · rfl
  · split
    · exact hs _ _ rfl
    next h64 =>
      split
      · exact hy _ _ h64 rfl
      · rfl

theorem Group.rdS_wrS_other {n : Byte} {v : DWord} (h : n ≠ d) : (g.wrS d v).rdS n = g.rdS n := by
  have hne : n.toNat ≠ d.toNat := fun he => h (BitVec.eq_of_toNat_eq he)
  unfold Group.wrS
  split
  · rfl
  · split
    next h64 =>
      have hd : d.toNat = 64 := by rw [eq_of_beq h64]; rfl
      exact Group.rdS_congr (fun _ _ _ => rfl) fun i hi hn he => Vector.getElem_set_ne (by decide) hi (by omega)
    · split
      next hd => exact Group.rdS_congr (fun i hi he => Vector.getElem_set_ne hd hi (by omega)) fun _ _ _ _ => rfl
      · split
        next hd => exact Group.rdS_congr (fun _ _ _ => rfl) fun i hi hn he => Vector.getElem_set_ne hd hi (by omega)
        · rfl

/-- What writing a scalar register leaves of its group. -/
theorem Group.wrS_eq (g : Group) (v : DWord) : ∃ x y, g.wrS d v = { g with s := x, y := y } := by
  unfold Group.wrS
  split
  · exact ⟨g.s, g.y, rfl⟩
  · split
    · exact ⟨g.s, _, rfl⟩
    · split
      · exact ⟨_, g.y, rfl⟩
      · split
        · exact ⟨g.s, _, rfl⟩
        · exact ⟨g.s, g.y, rfl⟩

/-- What a scalar load leaves of its group as it was. -/
structure Group.LoadKept (g h : Group) (d : Byte) : Prop where
  slot0 : h.slot0 = g.slot0
  slot1 : h.slot1 = g.slot1
  e : h.e = g.e
  others : keepsOthers g h [d] []

theorem Group.loadKept_landDest {m : Mask} {vals : Lanes DWord} {cs : List Cause} :
    g.LoadKept { g.landDest (.scalar d ty) m vals with consumed := cs } d := by
  have hs (n : Byte) (hn : n ≠ d) : (g.wrS d (loadValue true ty.toNat (vals.lane 0).toNat)).rdS n = g.rdS n :=
    Group.rdS_wrS_other hn
  obtain ⟨x, y, hw⟩ := g.wrS_eq (d := d) (loadValue true ty.toNat (vals.lane 0).toNat)
  unfold Group.landDest
  dsimp only
  rw [hw] at hs ⊢
  exact ⟨rfl, rfl, rfl, fun n hn => hs n fun he => hn (by rw [he]; exact List.mem_cons_self), fun _ _ _ => rfl,
    rfl, rfl, rfl, rfl, rfl, rfl, rfl, rfl, rfl, rfl, rfl, rfl, rfl, rfl⟩

theorem Group.loadKept_emptyDest : g.LoadKept (g.emptyDest (.scalar d ty)) d :=
  ⟨rfl, rfl, rfl, fun _ _ => rfl, fun _ _ _ => rfl, rfl, rfl, rfl, rfl, rfl, rfl, rfl, rfl, rfl, rfl, rfl, rfl, rfl, rfl⟩

/-! The load as a whole. -/

/-- The access of a scalar load. -/
def State.scalarPend (s : State) (g : Group) (f : ExtM) : Pend :=
  { (s.acc g).pend s.nextId g (.scalar f.d f.ty) 1 (f.ord == 1) with sc := LoadMode.plain f.rq.toNat (f.ord == 1) == .sc }

/-- What a scalar load has received and asked for once its pieces are through. -/
def State.scalarLoaded (s : State) (g : Group) (f : ExtM) (p : Pieces) : Pend × State :=
  s.fresh.2.loadPieces (s.acc g) (s.scalarPend g f) f.rq.toNat (f.ord == 1) 0 p

theorem sldBody_ok {p : Pieces} {s1 : State} (ha : s.acquiring (s.acc g) = false)
    (hr : s.resolvePipe s.cur g .all .load false (g.rdS f.a + f.w2.signExtend 64) (tySize f.ty.toNat) = (.ok p, s1)) :
    sldBody f g s = .ok ((s1.scalarLoaded g f p).2.begin (s1.scalarLoaded g f p).1) := by
  simp only [sldBody, ha, dispOf, hr]
  rfl

/-- A scalar load that waits for nothing lands, and another makes its register wait. -/
theorem State.begin_eq (q : Pend) :
    s.begin q = if q.left = 0 then s.land q else (s.modGroup q.gid fun g => g.emptyDest q.dest).addPend q := by
  simp only [State.begin, beq_iff_eq]

/-- What a scalar load leaves when it has begun. -/
structure State.LoadBegun (s t : State) (g h : Group) (q : Pend) (d : Byte) (ty : BitVec 4) : Prop where
  own : t.group? q.gid = some h
  others : ∀ j, j ≠ q.gid → t.group? j = s.group? j
  bytes : ∀ b, t.byteNow b = s.byteNow b
  kept : g.LoadKept h d
  landed : q.left = 0 → h.rdS d = (g.wrS d (loadValue true ty.toNat (q.values.lane 0).toNat)).rdS d ∧
    h.scalarBusy = g.scalarBusy.filter fun k => k != d.toNat
  waits : q.left ≠ 0 → d.toNat ∈ h.scalarBusy ∧ q ∈ t.pends ∧ t.net = s.net

theorem State.begin_scalar {q : Pend} (hd : q.dest = .scalar d ty) (hf : q.failed = false) (hge : q.ge = none)
    (hg : s.group? q.gid = some g) : ∃ h, s.LoadBegun (s.begin q) g h q d ty := by
  rw [State.begin_eq]
  by_cases hl : q.left = 0
  · rw [if_pos hl]
    obtain ⟨⟨cs, hcs⟩, hother, hbyte⟩ := State.land_scalar hd hf hge hg
    refine ⟨_, hcs, hother, hbyte, Group.loadKept_landDest, fun _ => ?_, fun h => absurd hl h⟩
    unfold Group.landDest
    dsimp only
    obtain ⟨x, y, hw⟩ := g.wrS_eq (d := d) (loadValue true ty.toNat (q.values.lane 0).toNat)
    rw [hw]
    exact ⟨rfl, rfl⟩
  · rw [if_neg hl, hd]
    have hg1 : ((s.modGroup q.gid fun g => g.emptyDest (.scalar d ty)).addPend q).group? q.gid =
        some (g.emptyDest (.scalar d ty)) := by
      rw [State.addPend, State.group?]
      exact (State.group_modGroup s q.gid _).trans (by rw [hg, Option.map_some])
    refine ⟨_, hg1, fun j hj => State.group_modGroup_other _ _ _ _ hj, fun _ => rfl, Group.loadKept_emptyDest,
      fun h => absurd h hl, fun _ => ⟨List.mem_append_right _ List.mem_cons_self, List.mem_append_right _ List.mem_cons_self, rfl⟩⟩

@[simp] theorem Group.rdS_passed {slot : Bool} {op : Byte} {words age ws wc : Nat} {w : Wait} (n : Byte) :
    (g.passed slot op words age w ws wc).rdS n = g.rdS n := by cases slot <;> rfl

@[simp] theorem Group.passed_scalarBusy {slot : Bool} {op : Byte} {words age ws wc : Nat} {w : Wait} :
    (g.passed slot op words age w ws wc).scalarBusy = g.scalarBusy := by cases slot <;> rfl

@[simp] theorem State.pends_retire {gid words : Nat} {slot : Bool} {op : Byte} :
    (s.retire gid slot op words).pends = s.pends := by
  unfold State.retire State.retired
  split <;> rfl

@[simp] theorem State.net_retire {gid words : Nat} {slot : Bool} {op : Byte} : (s.retire gid slot op words).net = s.net := by
  unfold State.retire State.retired
  split <;> rfl

/-- R89, R256: `sld`. -/
theorem sld_holds {p : Pieces} {s1 : State} (hr : ready s g (namedM 0x32 f))
    (hcalm : ∀ q ∈ s.pends, q.gid = s.cur → q.acq = true → q.hold = true)
    (hp : s.resolvePipe s.cur g .all .load false (g.rdS f.a + f.w2.signExtend 64) (tySize f.ty.toNat) = (.ok p, s1)) :
    ∃ (t : State) (h : Group), exec (.sld f) s = .next t ∧ t.group? s.cur = some h ∧ passes s g h 0x32 3 ∧
      keepsOthers g h [f.d] [] ∧ h.e = g.e ∧ othersKept s t ∧ (offDevice s [(0, p)] → ∀ b < 2 ^ 39, t.byteNow b = s1.byteNow b) ∧
      (atHand s1 [(0, p)] →
        h.rdS f.d = (g.wrS f.d (scalarForm f.ty.toNat (elementNow s1 g.asid p).toNat)).rdS f.d ∧ h.scalarBusy = g.scalarBusy) ∧
      ∀ q ∈ p, ∀ dpa va nc priv, q.2.2 = .mem dpa va nc priv → cold s1 dpa q.2.1 →
        f.d.toNat ∈ h.scalarBusy ∧ ∃ w ∈ t.pends, w.gid = s.cur ∧ w.dest = .scalar f.d f.ty ∧
          ∃ m ∈ t.net, m.pend = some w.id ∧ m.lane = 0 ∧ m.off = q.1 ∧ m.dpa = dpa ∧ m.size = q.2.1 ∧
            m.kind.request = true ∧ m.kind.isStore = false ∧ m.kind.isAtomic = false := by
  obtain ⟨hg, -, -⟩ := State.current_eq hr.1
  have hm : s.MemStep s1 := by
    have h := (State.MemStep.refl s).resolvePipe (gid := s.cur) (g := g) (r := .all) (k := .load) (align := false)
      (a := g.rdS f.a + f.w2.signExtend 64) (n := tySize f.ty.toNat)
    rwa [hp] at h
  have hml : s.MemStep (s1.scalarLoaded g f p).2 := hm.fresh.loadPieces
  obtain ⟨vs, po, l, hq⟩ : (s1.scalarPend g f).Fed (s1.scalarLoaded g f p).1 := State.fed_loadPieces
  have hgid : (s1.scalarLoaded g f p).1.gid = s.cur := by rw [hq]; exact hm.cur
  have hdest : (s1.scalarLoaded g f p).1.dest = .scalar f.d f.ty := by rw [hq]; rfl
  obtain ⟨h, hb⟩ := State.begin_scalar (s := (s1.scalarLoaded g f p).2) (g := g) hdest (by rw [hq]; rfl) (by rw [hq]; rfl)
    (by rw [hgid]; exact (hml.group? _).trans hg)
  obtain ⟨hown, hothers, hbytes, hkept, hland, hwait⟩ := hb
  rw [hgid] at hown hothers
  have hexec : exec (.sld f) s =
      .next (((s1.scalarLoaded g f p).2.begin (s1.scalarLoaded g f p).1).retire s.cur s.curSlot 0x32 3) :=
    (State.execM_ready hr).trans (by rw [sldBody_ok (State.acquiring_eq_false hcalm) hp]; rfl)
  refine ⟨_, _, hexec, State.group?_retire hown, passes_passed hkept.slot0 hkept.slot1, keepsOthers_passed hkept.others,
    (Group.passed_e ..).trans hkept.e, fun n hn => ?_, fun hoff b hlt => ?_, fun hat => ?_, fun x hx dpa va nc priv hxm hcold => ?_⟩
  · rw [State.group?_retire_other hn, hothers n hn, hml.group? n]
  · have hdev : s1.devId = s.devId := congrArg (fun c : DWord => bits c.toNat 9 0) hm.fabCfg
    have hk : State.MemKept (coreOf s.cur) (fun _ => False) s1.fresh.2 (s1.scalarLoaded g f p).2 :=
      (State.MemKept.refl _).loadPieces fun l hl x hx d o hd => by
        rw [State.fresh, show ({ s1 with nextId := s1.nextId + 1 } : State).devId = s1.devId from rfl, hdev]
        exact hoff l hl x hx d o hd
    exact ((State.SameWords.refl _).retire.byteNow b).trans ((hbytes b).trans (hk.bytes b hlt id))
  · obtain ⟨hleft, hval⟩ := State.loadPieces_atHand (s := s1) (t := s1.fresh.2) (c := s1.acc g) (q := s1.scalarPend g f)
      (rq := f.rq.toNat) (acq := f.ord == 1) ⟨rfl, rfl, fun _ => rfl, fun _ => rfl⟩ rfl hat
    obtain ⟨hrd, hbusy⟩ := hland hleft
    rw [Group.rdS_passed, Group.passed_scalarBusy, hrd, hbusy]
    refine ⟨?_, List.filter_eq_self.2 fun k hk => bne_iff_ne.2 fun hkd => hr.2 f.d.toNat List.mem_cons_self (hkd ▸ hk)⟩
    have hzero : (s1.scalarPend g f).values.lane 0 = 0 := by simp [State.scalarPend, Acc.pend, Pend.of, Lanes.lane, Lanes.all]
    rw [hzero] at hval
    rw [State.scalarLoaded, hval, loadValue_scalar]
    rfl
  · obtain ⟨hpos, m, hmem, hpend, hmsg⟩ := State.loadPieces_cold (s := s1.fresh.2) (c := s1.acc g) (q := s1.scalarPend g f)
      (rq := f.rq.toNat) (acq := f.ord == 1) (State.resolvePipe_ok hp) hx hxm hcold
    obtain ⟨hbusy, hw, hnet⟩ := hwait hpos.ne'
    rw [Group.passed_scalarBusy, State.pends_retire, State.net_retire, hnet]
    exact ⟨hbusy, _, hw, hgid, hdest, m, hmem, hpend.trans (by rw [hq]), hmsg⟩

end Sys2Proof.Machine
end

section
/-! SUPPORT. What the reads of a record leave (R26, R53, R96, R114, R115, R259): the memory system answers, and no group changes. -/

namespace Sys2Proof.Machine

variable {s t : State}

theorem State.MemStep.countRoom {l : Nat} (h : s.MemStep t) : s.MemStep (t.countRoom l) := by
  unfold State.countRoom
  extract_lets others last
  split
  · exact h
  · split
    · exact h.setLine
    · exact h

theorem State.MemStep.countRead {dpa obj version : Nat} (h : s.MemStep t) : s.MemStep (t.countRead dpa obj version) := by
  unfold State.countRead
  extract_lets l s1 x recent hs s2
  have h1 : s.MemStep s1 := h.countRoom
  clear_value s1
  exact .ite h1.setLine (h1.setLine.foldl fun _ _ hu => hu.setRedirects)

theorem State.MemStep.noteRead {who : Who} {dpa : Nat} (h : s.MemStep t) : s.MemStep (t.noteRead who dpa) := by
  unfold State.noteRead
  split
  · exact .ite h.countRead h
  · exact h

theorem State.MemStep.routedRead {bh ni dpa : Nat} {who : Who} (h : s.MemStep t) : s.MemStep (t.routedRead bh ni who dpa).2 := by
  unfold State.routedRead
  dsimp only
  split
  · exact h.route.holeCheck
  · exact h.route.noteRead.holeCheck

theorem State.MemStep.ownersMeet {core dpa n : Nat} (h : s.MemStep t) : s.MemStep (t.ownersMeet core dpa n) := by
  refine h.foldl fun u w hu => ?_
  split
  · exact hu.meet
  · exact hu

theorem State.MemStep.meetAt {core dpa k : Nat} (h : s.MemStep t) : s.MemStep (t.meetAt core dpa k) := h.setLcs.lccTake

theorem State.MemStep.pipeRead {core asid dpa va n : Nat} {via : Bool} (h : s.MemStep t) :
    s.MemStep (t.pipeRead core asid dpa va n via).2.2 := by
  unfold State.pipeRead
  dsimp only
  split
  · exact h
  · split
    · exact h.ownersMeet.noteRead.holeCheck.meetAt
    · exact h.ownersMeet.routedRead.meetAt

theorem State.MemStep.peerRead {n : Nat} (h : s.MemStep t) : s.MemStep (t.peerRead n).2 := by
  unfold State.peerRead
  dsimp only
  split <;> exact { h with }

theorem State.MemStep.linkDone {key : Nat} (h : s.MemStep t) : s.MemStep (t.linkDone key) := { h with }

/-- The state with which an access to the device itself goes on (R26). -/
def Exported.after (x : Exported) : State :=
  match x with
  | .place _ _ _ s => s
  | .refused _ s => s

theorem State.MemStep.exported {bh off : Nat} {k : AccessKind} (h : s.MemStep t) : s.MemStep (t.exported bh k off).after := by
  unfold State.exported
  split
  · exact h
  next asid _ =>
    have h1 := h.translate (v := outsideVia false asid) (k := k) (va := off)
    split
    next heq =>
      rw [heq] at h1
      exact h1
    next heq =>
      rw [heq] at h1
      split <;> exact h1

theorem State.MemStep.readPiece {core asid : Nat} {x : Nat × Nat × Place} (h : s.MemStep t) :
    s.MemStep (t.readPiece core asid x).after := by
  obtain ⟨off, n, pl⟩ := x
  cases pl with
  | mem dpa va nc priv => exact h.pipeRead
  | spad c o => exact h.relay
  | fabric d o =>
    have hx := h.exported (bh := bhOfCore core) (k := .load) (off := o)
    have hp := h.peerRead (n := n)
    unfold State.readPiece
    dsimp only
    split
    · generalize t.exported (bhOfCore core) .load o = x at hx ⊢
      cases x with
      | place a dpa nc u => exact State.MemStep.pipeRead hx
      | refused c u => exact hx
    · split
      · exact h
      · generalize t.peerRead n = x at hp ⊢
        obtain ⟨_ | _, u⟩ := x <;> exact hp
  | multicast set o => exact h

theorem State.MemStep.readPieces {core asid : Nat} {p : Pieces} (h : s.MemStep t) :
    s.MemStep (t.readPieces core asid p).after :=
  List.foldlRecOn (motive := fun a : PipeRead => s.MemStep a.after) _ _ h fun _ ha _ _ => ha.readPiece

/-- A record that has been read leaves the groups as they were. -/
theorem State.MemStep.readRecord {gid n : Nat} {g : Group} {pc a : DWord} {ds : List Nat} {c : Option Cause} {u : State}
    (h : s.MemStep t) (hr : t.readRecord gid g pc n a = .dwords ds c u) : s.MemStep u := by
  induction n generalizing t a ds c u with
  | zero =>
    cases hr
    exact h
  | succ n ih =>
    have h1 := h.resolvePipe (gid := gid) (g := g) (r := .all) (k := .load) (align := false) (a := a) (n := 8)
    unfold State.readRecord at hr
    split at hr
    · cases hr
    next p s1 heq =>
      rw [heq] at h1
      dsimp only at hr
      split at hr
      · cases hr
      · split at hr
        · cases hr
        · split at hr
          · cases hr
          · split at hr
            next hrest =>
              cases hr
              exact ih (State.MemStep.linkDone (State.MemStep.readPieces h1)) hrest
            · cases hr
            · cases hr
            · cases hr

end Sys2Proof.Machine
end

section
/-! SUPPORT. The loading of a shape record (R258, R259, R393). -/

namespace Sys2Proof.Machine
open Sys2Proof.Claims

variable {s s1 : State} {g : Group} {f : ExtA} {ds : List Nat}

/-- An instruction of class A that is ready runs its body. -/
theorem State.execA_ready {op : Byte} {body : Group → State → Res} (h : ready s g (namedA op f)) :
    s.execA op f body = .next (finish s.cur s.curSlot op 3 (body g s)) :=
  State.issueWith_run h.1 h.2

/-- A record that holds no poison is given to what follows. -/
theorem State.withRecord_dwords {n : Nat} {a : DWord} {go : List Nat → State → Res} (ha : s.acquiring (s.acc g) = false)
    (hr : s.readRecord s.cur g (pcOf s g) n a = .dwords ds none s1) : s.withRecord g n a none go = go ds s1 := by
  have hr' : s.readRecord s.cur g (s.pcNow g) n a = .dwords ds none s1 := hr
  simp only [State.withRecord, ha, hr']
  rfl

theorem shapeForm_aligned {a : DWord} (h : a.toNat % 32 = 0) : Cause.shapeForm.when (a.toNat % 32 != 0) = none := by
  simp [Cause.when, h]

theorem shapeForm_misaligned {a : DWord} (h : a.toNat % 32 ≠ 0) :
    Cause.shapeForm.when (a.toNat % 32 != 0) = some .shapeForm := by
  simp [Cause.when, h]

theorem Group.rdH_wrH_other {d k : Nat} {x : Shape} (hk : k < 16) (h : k ≠ d % 16) : (g.wrH d x).rdH k = g.rdH k := by
  have h' : d % 16 ≠ k % 16 := by omega
  simp [Group.rdH, Group.wrH, h']

@[simp] theorem Group.rdH_passed {slot : Bool} {op : Byte} {words age ws wc : Nat} {w : Wait} (n : Nat) :
    (g.passed slot op words age w ws wc).rdH n = g.rdH n := by cases slot <;> rfl

theorem exec_shld : exec (.shld f) s = execShld f s := rfl

/-- R258, R259, R393: `shld`. -/
theorem shapeLoad_holds : shapeLoad := by
  intro s g f
  refine ⟨fun ds s1 hs hr hcalm hal hrec hshape => ?_, fun ds s1 hr hcalm hal hrec hshape => ?_, fun s1 hr hmis hrec => ?_⟩
  · have hm : s.MemStep s1 := (State.MemStep.refl s).readRecord hrec
    have hg1 : s1.group? s.cur = some g := (hm.group? s.cur).trans (State.current_eq hr.1).1
    have hexec : exec (.shld f) s = retires s (s1.setGroup s.cur (g.wrH f.d.toNat hs)) 0x35 3 := by
      rw [exec_shld, execShld, State.execA_ready hr]
      dsimp only
      rw [shapeForm_aligned hal, State.withRecord_dwords (State.acquiring_eq_false hcalm) hrec, hshape]
      dsimp only
      rw [State.modGroup_eq_setGroup hg1]
      rfl
    refine ⟨_, _, hexec, State.group?_retire (State.group_setGroup _ _ _), passes_passed rfl rfl, ?_⟩
    simp only [Group.rdH_passed, Group.passed_s, Group.passed_v, Group.passed_k]
    exact ⟨Group.rdH_wrH _ _ _, fun k hk hne => Group.rdH_wrH_other hk hne, rfl, rfl, rfl, fun n hn =>
      (State.group?_retire_other hn).trans ((State.group_setGroup_other _ _ _ _ hn).trans (hm.group? n))⟩
  · rw [exec_shld, execShld, State.execA_ready hr]
    dsimp only
    rw [shapeForm_aligned hal, State.withRecord_dwords (State.acquiring_eq_false hcalm) hrec, hshape]
    rfl
  · rw [exec_shld, execShld, State.execA_ready hr]
    dsimp only
    rw [shapeForm_misaligned hmis, State.withRecord, hrec]
    rfl

end Sys2Proof.Machine
end

section
/-! SUPPORT. A scalar store at hand (R78, R89, R96, R308): in words that the L1 owns and in scratchpads the bytes stored are seen at
once. -/

namespace Sys2Proof.Machine
open Sys2Proof.Claims

/-- What one step of a fold brings about, and every step keeps, holds after the fold. -/
theorem foldl_brings {α β : Type} {f : α → β → α} {I P : α → Prop} {l : List β} {x : β} {a : α} (hx : x ∈ l) (hI : I a)
    (hstep : ∀ a, ∀ b ∈ l, I a → I (f a b)) (hbring : ∀ a, I a → P (f a x)) (hkeep : ∀ a, ∀ b ∈ l, I a → P a → P (f a b)) :
    P (l.foldl f a) := by
  obtain ⟨l1, l2, rfl⟩ := List.append_of_mem hx
  rw [List.foldl_append, List.foldl_cons]
  have h1 : I (l1.foldl f a) := List.foldlRecOn (motive := I) _ _ hI fun u hu b hb => hstep u b (List.mem_append_left _ hb) hu
  refine (List.foldlRecOn (motive := fun u => I u ∧ P u) _ _ ⟨hstep _ x hx h1, hbring _ h1⟩ fun u hu b hb => ?_).2
  have hb' : b ∈ l1 ++ x :: l2 := List.mem_append_right _ (List.mem_cons_of_mem _ hb)
  exact ⟨hstep u b hb' hu.1, hkeep u b hb' hu.1 hu.2⟩

variable {s t u : State} {c core dpa n v b w : Nat}

/-! Words that the L1 owns. -/

/-- A byte of an owned word after a store into a word of the L1. -/
theorem State.coreByte_setL1_merge {x y : L1Word} (hx : s.l1 c w = some x) (hst : y.st = x.st) (hby : y.bytes = x.bytes)
    (hd : y.data = mergeWord x.data w dpa n v) (hb : s.Held c (b / 4)) : (s.setL1 c w y).coreByte c b =
      if w = b / 4 ∧ dpa ≤ b ∧ b < dpa + n then v / 2 ^ (8 * (b - dpa)) % 256 else s.coreByte c b := by
  obtain ⟨z, hz, hs⟩ := hb.coreByte
  obtain ⟨z', hz', hs'⟩ := (hb.setL1 hx hst hby).coreByte
  rw [hs', hs]
  by_cases hw : w = b / 4
  · subst hw
    rw [State.l1_setL1_same] at hz'
    cases hz'
    rw [hx] at hz
    cases hz
    rw [hd, mergeWord_byte _ _ _ _ _ (Nat.mod_lt _ (by decide)), Nat.div_add_mod]
    exact if_congr (by simp) rfl rfl
  · rw [State.l1_setL1_other s (.inr (Ne.symm hw)), hz] at hz'
    cases hz'
    rw [if_neg fun h => hw h.1]

/-- The step of `State.writeOwned` for one word. -/
def State.writeWord (s : State) (c dpa n v w : Nat) : State :=
  match s.l1 c w with
  | some x => s.setL1 c w { x with data := mergeWord x.data w dpa n v
                                   poison := if (wholeWords dpa n).contains w then none else x.poison }
  | none => s

theorem State.writeOwned_eq : s.writeOwned c dpa n v = (wordsOf dpa n).foldl (fun s w => s.writeWord c dpa n v w) s := rfl

theorem State.Held.writeWord {w' : Nat} (h : s.Held core w') : (s.writeWord c dpa n v w).Held core w' := by
  unfold State.writeWord
  split
  next x hx => exact h.setL1 hx (by rfl) (by rfl)
  · exact h

theorem State.coreByte_writeWord (hb : s.Held c (b / 4)) : (s.writeWord c dpa n v w).coreByte c b =
    if w = b / 4 ∧ dpa ≤ b ∧ b < dpa + n then v / 2 ^ (8 * (b - dpa)) % 256 else s.coreByte c b := by
  unfold State.writeWord
  split
  next x hx => exact State.coreByte_setL1_merge hx (by rfl) (by rfl) (by rfl) hb
  next hnone =>
    rw [if_neg fun h => ?_]
    obtain ⟨x, hx, -⟩ := hb
    rw [h.1, hx] at hnone
    cases hnone

theorem State.Held.writeOwned {w' : Nat} (h : s.Held core w') : (s.writeOwned c dpa n v).Held core w' :=
  List.foldlRecOn (motive := fun u => State.Held u core w') _ _ h fun _ hu _ _ => hu.writeWord

theorem State.coreByte_writeOwned (hb : s.Held c (b / 4)) (hin : dpa ≤ b ∧ b < dpa + n) :
    (s.writeOwned c dpa n v).coreByte c b = v / 2 ^ (8 * (b - dpa)) % 256 := by
  rw [State.writeOwned_eq]
  refine foldl_brings (I := fun u => State.Held u c (b / 4))
    (P := fun u => State.coreByte u c b = v / 2 ^ (8 * (b - dpa)) % 256) (div_mem_wordsOf hin.1 hin.2) hb
    (fun _ _ _ hu => hu.writeWord) (fun u hu => ?_) fun u w _ hu hP => ?_
  · rw [State.coreByte_writeWord hu, if_pos ⟨rfl, hin⟩]
  · rw [State.coreByte_writeWord hu, hP, ite_self]

theorem State.coreByte_writeOwned_outside (hb : s.Held c (b / 4)) (hin : ¬ (dpa ≤ b ∧ b < dpa + n)) :
    (s.writeOwned c dpa n v).coreByte c b = s.coreByte c b := by
  rw [State.writeOwned_eq]
  refine (List.foldlRecOn (motive := fun u : State => u.Held c (b / 4) ∧ u.coreByte c b = s.coreByte c b) _ _ ⟨hb, rfl⟩
    fun u hu w _ => ⟨hu.1.writeWord, ?_⟩).2
  rw [State.coreByte_writeWord hu.1, if_neg fun h => hin h.2, hu.2]

/-! Scratchpads. -/

variable {asid off : Nat} {f : Core → Core}

theorem State.spad_modCore (hf : (f (s.core c)).spad = (s.core c).spad) (k : Nat) :
    (s.modCore c f).spad k asid = s.spad k asid := by
  by_cases hk : k = c
  · rw [State.spad, State.spad, hk, State.core_modCore, hf]
  · rw [State.spad, State.spad, State.core_modCore_other _ _ _ _ hk]

/-- The step of `State.spadStore` that writes the bytes. -/
theorem State.spad_spadStore (k : Nat) : (s.spadStore core asid off n v).spad k asid =
    if k = core then Memory.store (s.spad core asid) off n v else s.spad k asid := by
  have hset : (s.setSpad core asid (Memory.store (s.spad core asid) off n v)).spad k asid =
      if k = core then Memory.store (s.spad core asid) off n v else s.spad k asid := by
    split
    next hk => rw [hk, State.spad, State.setSpad, State.core_modCore, Table.findD_set_same]
    next hk => rw [State.spad, State.setSpad, State.core_modCore_other _ _ _ _ hk, State.spad]
  rw [← hset]
  exact List.foldlRecOn (motive := fun u : State => u.spad k asid = _) _ _ rfl fun _ hu _ _ =>
    (State.spad_modCore rfl k).trans hu

theorem State.l1_spadStore (k : Nat) : ((s.spadStore core asid off n v).core k).l1 = (s.core k).l1 :=
  List.foldlRecOn (motive := fun u : State => (u.core k).l1 = (s.core k).l1) _ _
    (((State.SameWords.refl s).modCore (by rfl)).l1 k) fun u hu _ _ => (((State.SameWords.refl u).modCore (by rfl)).l1 k).trans hu

/-- What stays while an access at hand is performed: the current group, the messages, and the words that the L1s own. -/
structure State.AtHandKept (s t : State) : Prop where
  cur : t.cur = s.cur
  net : t.net = s.net
  held : ∀ core w, s.Held core w → t.Held core w

theorem State.AtHandKept.refl (s : State) : s.AtHandKept s := ⟨rfl, rfl, fun _ _ => id⟩

theorem State.AtHandKept.trans (h : s.AtHandKept t) (h' : t.AtHandKept u) : s.AtHandKept u :=
  ⟨h'.cur.trans h.cur, h'.net.trans h.net, fun core w hw => h'.held core w (h.held core w hw)⟩

theorem State.AtHandKept.stillOwned (h : s.AtHandKept t) (ho : ownedHere s dpa n) : ownedHere t dpa n := by
  obtain ⟨hheld, hunp⟩ := ownedHere_iff.1 ho
  rw [ownedHere_iff, h.cur]
  refine ⟨fun w hw => h.held _ _ (hheld w hw), ?_⟩
  unfold State.unperformed at hunp ⊢
  rwa [h.net]

theorem State.AtHandKept.pieceAtHand {x : Nat × Nat × Place} (h : s.AtHandKept t) (hx : s.PieceAtHand x) : t.PieceAtHand x :=
  hx.mono fun _ _ => h.stillOwned

theorem State.SameView.atHandKept (h : s.SameView t) : s.AtHandKept t := ⟨h.cur, h.net, fun _ _ => h.held⟩

theorem State.AtHandKept.modCore (h : s.AtHandKept t) (hf : (f (t.core c)).l1 = (t.core c).l1) : s.AtHandKept (t.modCore c f) :=
  h.trans ⟨rfl, rfl, fun core _ hw => hw.sameL1 (((State.SameWords.refl t).modCore hf).l1 core)⟩

theorem State.AtHandKept.spadStore (h : s.AtHandKept t) : s.AtHandKept (t.spadStore core asid off n v) :=
  List.foldlRecOn (motive := fun u => s.AtHandKept u) _ _ (h.modCore rfl) fun _ hu _ _ => hu.modCore rfl

theorem State.AtHandKept.writeOwned (h : s.AtHandKept t) : s.AtHandKept (t.writeOwned c dpa n v) := by
  refine h.trans ⟨?_, ?_, fun _ _ hw => hw.writeOwned⟩
  · exact (State.MemStep.refl t).writeOwned.cur
  · refine List.foldlRecOn (motive := fun u : State => u.net = t.net) _ _ rfl fun u hu _ _ => ?_
    split <;> exact hu

theorem State.spad_writeOwned (k : Nat) : (s.writeOwned c dpa n v).spad k asid = s.spad k asid := by
  refine List.foldlRecOn (motive := fun u : State => u.spad k asid = _) _ _ rfl fun u hu _ _ => ?_
  split
  · exact (State.spad_modCore (by rfl) k).trans hu
  · exact hu

/-! A piece, and its bytes as the core sees them. -/

/-- A byte at hand: in a scratchpad, or in a word that the current core's L1 owns. -/
def State.Sees (s : State) (a : Option Nat × Nat) : Prop := a.1 = none → s.Held (coreOf s.cur) (a.2 / 4)

theorem State.AtHandKept.sees {a : Option Nat × Nat} (h : s.AtHandKept t) (ha : s.Sees a) : t.Sees a := fun hn => by
  rw [h.cur]
  exact h.held _ _ (ha hn)

theorem State.SameView.spotByte {a : Option Nat × Nat} (h : s.SameView t) (ha : s.Sees a) :
    spotByte t asid a = spotByte s asid a := by
  obtain ⟨_ | k, o⟩ := a
  · simp only [Claims.spotByte, h.cur]
    exact (ha rfl).coreByte_congr (h.l1 _)
  · simp only [Claims.spotByte, State.spad, h.spad]

/-- A piece of a store at hand: its bytes are seen, and every other byte at hand is as it was. -/
structure State.StoredHere (s t : State) (asid : Nat) (x : Nat × Nat × Place) (v : Nat) : Prop where
  kept : s.AtHandKept t
  bytes : ∀ j < x.2.1, ∀ a, spot x.2.2 j = some a → spotByte t asid a = pieceOf v x.1 x.2.1 / 2 ^ (8 * j) % 256
  others : ∀ a, s.Sees a → (∀ j < x.2.1, spot x.2.2 j ≠ some a) → spotByte t asid a = spotByte s asid a

theorem State.storedHere_writeOwned {va off : Nat} {nc priv : Bool} (ho : ownedHere s dpa n) :
    s.StoredHere (s.writeOwned (coreOf s.cur) dpa n (pieceOf v off n)) asid (off, n, .mem dpa va nc priv) v := by
  have hk : s.AtHandKept (s.writeOwned (coreOf s.cur) dpa n (pieceOf v off n)) := (State.AtHandKept.refl s).writeOwned
  refine ⟨hk, fun j hj a ha => ?_, fun a ha hout => ?_⟩
  · cases ha
    simp only [spotByte, hk.cur]
    rw [State.coreByte_writeOwned ((ownedHere_iff.1 ho).1 _ (div_mem_wordsOf (Nat.le_add_right _ _) (Nat.add_lt_add_left hj _)))
      ⟨Nat.le_add_right _ _, Nat.add_lt_add_left hj _⟩, Nat.add_sub_cancel_left]
  · obtain ⟨_ | k, o⟩ := a
    · simp only [spotByte, hk.cur]
      refine State.coreByte_writeOwned_outside (ha rfl) fun hin => hout (o - dpa) (Nat.sub_lt_left_of_lt_add hin.1 hin.2) ?_
      simp only [spot, Nat.add_sub_cancel' hin.1]
    · simp only [spotByte, State.spad_writeOwned]

theorem State.storedHere_spadStore {o off c : Nat} :
    s.StoredHere ((s.spadStore core asid o n (pieceOf v off n)).relay c core) asid (off, n, .spad core o) v := by
  have hk : s.AtHandKept (s.spadStore core asid o n (pieceOf v off n)) := (State.AtHandKept.refl s).spadStore
  have hv : (s.spadStore core asid o n (pieceOf v off n)).SameView ((s.spadStore core asid o n (pieceOf v off n)).relay c core) :=
    (State.SameView.refl _).relay
  refine ⟨hk.trans hv.atHandKept, fun j hj a ha => ?_, fun a ha hout => ?_⟩
  · cases ha
    rw [hv.spotByte (by rintro ⟨⟩)]
    simp only [spotByte, State.spad_spadStore, if_true, Memory.byte_store]
    rw [if_pos ⟨Nat.le_add_right _ _, Nat.add_lt_add_left hj _⟩, Nat.add_sub_cancel_left, BitVec.toNat_ofNat]
  · rw [hv.spotByte (hk.sees ha)]
    obtain ⟨_ | k, b⟩ := a
    · simp only [spotByte, hk.cur]
      exact (ha rfl).coreByte_congr (State.l1_spadStore _)
    · simp only [spotByte, State.spad_spadStore]
      split
      next hkc =>
        subst hkc
        rw [Memory.byte_store, if_neg fun hin => hout (b - o) (Nat.sub_lt_left_of_lt_add hin.1 hin.2) ?_]
        simp only [spot, Nat.add_sub_cancel' hin.1]
      · rfl

end Sys2Proof.Machine
end

section
/-! SUPPORT. What becomes of the pieces of a scalar store (R89, R91, R141, R308): those at hand are seen, those of which the L1
holds no word are on their way to the home slice, and those of other devices are posted. -/

namespace Sys2Proof.Machine
open Sys2Proof.Claims

variable {s t : State} {c : Acc} {rq : Nat} {rel : Bool} {lane v : Nat} {a : DWord} {p : Pieces} {x : Nat × Nat × Place}

theorem State.storePieces_append (l r : Pieces) : s.storePieces c rq rel lane v a (l ++ r) =
    (s.storePieces c rq rel lane v a l).storePieces c rq rel lane v a r := List.foldl_append

theorem State.storePieces_cons (r : Pieces) : s.storePieces c rq rel lane v a (x :: r) =
    (s.storePiece c (.plain rq rel) lane v a x).2.storePieces c rq rel lane v a r := rfl

/-! Pieces at hand. -/

theorem State.storeMem_owned {r : ReqType} {off n dpa va w : Nat} (ho : ownedHere s dpa n) (hc : c.gid = s.cur) :
    s.storeMem c r lane off n dpa va w = s.writeOwned (coreOf s.cur) dpa n w := by
  simp only [State.storeMem, Acc.core, hc, ownsAll_of_ownedHere ho, (ownedHere_iff.1 ho).2, Bool.not_false, Bool.and_self, if_true]

theorem State.storedHere_storePiece (hc : c.gid = s.cur) (hx : s.PieceAtHand x) :
    s.StoredHere (s.storePiece c (.plain rq rel) lane v a x).2 c.asid x v := by
  obtain ⟨off, n, pl⟩ := x
  obtain ⟨core, o, rfl⟩ | ⟨dpa, va, nc, priv, rfl, ho⟩ := hx
  · exact State.storedHere_spadStore
  · simp only [State.storePiece, State.storeMem_owned ho hc]
    exact State.storedHere_writeOwned ho

/-- A byte of a piece at hand is at hand. -/
theorem State.sees_spot {j : Nat} {b : Option Nat × Nat} (hx : s.PieceAtHand x) (hj : j < x.2.1) (hb : spot x.2.2 j = some b) :
    s.Sees b := by
  obtain ⟨core, o, hx⟩ | ⟨dpa, va, nc, priv, hx, ho⟩ := hx <;> rw [hx] at hb <;> cases hb
  · rintro ⟨⟩
  · exact fun _ => (ownedHere_iff.1 ho).1 _ (div_mem_wordsOf (Nat.le_add_right _ _) (Nat.add_lt_add_left hj _))

/-- Where every piece is at hand, the bytes of a piece are seen where no other piece covers them. -/
theorem State.storePieces_atHand {j : Nat} {b : Option Nat × Nat} (hc : c.gid = s.cur) (hp : atHand s [(0, p)]) (hx : x ∈ p)
    (hj : j < x.2.1) (hb : spot x.2.2 j = some b) (hlast : lastTo [(0, p)] (0, p) x j) :
    spotByte (s.storePieces c rq rel lane v a p) c.asid b = pieceOf v x.1 x.2.1 / 2 ^ (8 * j) % 256 := by
  have hat (u : State) (hu : s.AtHandKept u) (y) (hy : y ∈ p) : u.PieceAtHand y :=
    hu.pieceAtHand (atHand_iff.1 hp _ List.mem_cons_self y hy)
  have hst (u : State) (hu : s.AtHandKept u) (y) (hy : y ∈ p) :
      u.StoredHere (u.storePiece c (.plain rq rel) lane v a y).2 c.asid y v :=
    State.storedHere_storePiece (hc.trans hu.cur.symm) (hat u hu y hy)
  refine foldl_brings (I := fun u => s.AtHandKept u)
    (P := fun u => spotByte u c.asid b = pieceOf v x.1 x.2.1 / 2 ^ (8 * j) % 256) hx (.refl s)
    (fun u y hy hu => hu.trans (hst u hu y hy).kept) (fun u hu => (hst u hu x hx).bytes j hj b hb) fun u y hy hu hP => ?_
  by_cases hyx : y = x
  · rw [hyx]
    exact (hst u hu x hx).bytes j hj b hb
  · rw [(hst u hu y hy).others b (State.sees_spot (hat u hu x hx) hj hb) fun k hk hkb =>
      hlast _ List.mem_cons_self y hy (.inr ⟨rfl, hyx⟩) k hk (hkb.trans hb.symm), hP]

/-! A piece of which the L1 holds no word. -/

theorem storeType_ne_si {nc priv : Bool} (h : rq ≠ 3) : storeType rq rel nc priv ≠ .si := by
  have hreq : reqTypeOf rq false nc priv ≠ .si := by
    simp only [reqTypeOf, Bool.false_eq_true, if_false]
    split
    · exact nofun
    · split
      · exact nofun
      · split
        case h_3 => exact absurd rfl h
        all_goals exact nofun
  unfold storeType
  split
  · exact nofun
  · split
    · exact nofun
    · exact hreq

theorem State.l1State_cold {core w : Nat} (h : s.l1 core w = none) (x : L1State) : (s.l1State core w == some x) = false := by
  rw [State.l1State, h]
  rfl

/-- A store of words that the L1 does not hold, unless it is si, is sent to their home slice. -/
theorem State.storeMem_cold {r : ReqType} {off n dpa va w : Nat} (hcold : ∀ w ∈ wordsOf dpa n, s.l1 c.core w = none)
    (hn : 0 < n) (hr : r ≠ .si) : ∃ (u : State) (kind : MsgKind), s.storeMem c r lane off n dpa va w =
      u.send { c.msg kind none lane off dpa va n with data := BitVec.ofNat 64 w } ∧ kind.isStore = true := by
  obtain ⟨w0, hw0⟩ := exists_mem_wordsOf (dpa := dpa) hn
  have howns : s.ownsAll c.core dpa n = false := List.all_eq_false.2 ⟨w0, hw0, by rw [hcold w0 hw0]; exact Bool.false_ne_true⟩
  have hany : ((wordsOf dpa n).any fun w => s.l1State c.core w == some .owned) = false :=
    List.any_eq_false.2 fun w hw => by rw [State.l1State_cold (hcold w hw)]; exact Bool.false_ne_true
  have hall : ((wordsOf dpa n).all fun w => s.l1State c.core w == some .pend && s.registering c.core w) = false :=
    List.all_eq_false.2 ⟨w0, hw0, by rw [State.l1State_cold (hcold w0 hw0)]; exact Bool.false_ne_true⟩
  have hasOwn : s.asOwn c.core dpa n = false := List.any_eq_false.2 fun w hw => by
    rw [State.l1State_cold (hcold w hw), State.l1State_cold (hcold w hw)]
    exact Bool.false_ne_true
  simp only [State.storeMem, howns, hany, hall, hasOwn, Bool.false_and, Bool.false_eq_true, if_false]
  cases r with
  | own => exact ⟨_, .ownStore, rfl, rfl⟩
  | wt => exact ⟨_, .wtStore, rfl, rfl⟩
  | si => exact absurd rfl hr
  | nc => exact ⟨_, .ncStore, rfl, rfl⟩

/-- What an element's other pieces cover. -/
theorem coversAll_covers {l : Pieces} (hpos : ∀ q ∈ l, 0 < q.2.1) : CoversAll (covers [(0, l)]) l :=
  fun q hq dpa va nc priv hm => ⟨hpos q hq, fun _ h1 h2 => ⟨_, List.mem_cons_self, q, hq, dpa, va, nc, priv, hm, h1, h2⟩⟩

/-- A store stays sent while its other pieces are stored. -/
theorem State.storePieces_cold {dpa va : Nat} {nc priv : Bool} (hp : Uniform p) (hxp : x ∈ p)
    (hx : x.2.2 = .mem dpa va nc priv) (hcold : ∀ w ∈ wordsOf dpa x.2.1, s.l1 c.core w = none)
    (halone : aloneIn [(0, p)] (0, p) x dpa) (hrq : rq ≠ 3) :
    ∃ m ∈ (s.storePieces c rq rel lane v a p).net, m.gid = some c.gid ∧ m.lane = lane ∧ m.dpa = dpa ∧ m.size = x.2.1 ∧
      m.origin.isStore = true ∧ m.data = BitVec.ofNat 64 (pieceOf v x.1 x.2.1) := by
  obtain ⟨l, r, rfl, hxl⟩ := List.eq_append_cons_of_mem hxp
  have hl : State.MemKept c.core (covers [(0, l)]) s (s.storePieces c rq rel lane v a l) :=
    (State.MemKept.refl s).storePieces (coversAll_covers fun q hq => hp.pos q (List.mem_append_left _ hq))
  have hcold' (w : Nat) (hw : w ∈ wordsOf dpa x.2.1) : (s.storePieces c rq rel lane v a l).l1 c.core w = none := by
    refine hl.absent w (fun k hk hb => ?_) (hcold w hw)
    obtain ⟨e, he, q, hq, b, va', nc', priv', hqm, hb1, hb2⟩ := hb
    rw [List.mem_singleton.1 he] at hq
    have hne : ((0, l ++ x :: r), q) ≠ ((0, l ++ x :: r), x) := fun h => hxl ((Prod.mk.inj h).2 ▸ hq)
    refine halone _ List.mem_cons_self q (List.mem_append_left _ hq) hne b va' nc' priv' hqm w hw ?_
    have := div_mem_wordsOf hb1 hb2
    rwa [show (4 * w + k) / 4 = w by omega] at this
  obtain ⟨u, kind, hstore, hkind⟩ := State.storeMem_cold (lane := lane) (off := x.1) (va := va) (w := pieceOf v x.1 x.2.1)
    hcold' (hp.pos x hxp) (storeType_ne_si (rel := rel) (nc := nc) (priv := priv) hrq)
  obtain ⟨id, counter, left, passed, target, gen, hnet⟩ :=
    u.net_send_eq { c.msg kind none lane x.1 dpa va x.2.1 with data := BitVec.ofNat 64 (pieceOf v x.1 x.2.1) }
  have hstep : ((s.storePieces c rq rel lane v a l).storePiece c (.plain rq rel) lane v a x).2 =
      u.send { c.msg kind none lane x.1 dpa va x.2.1 with data := BitVec.ofNat 64 (pieceOf v x.1 x.2.1) } := by
    rw [← hstore]
    simp only [State.storePiece, hx]
  have hr : CoversAll (covers [(0, r)]) r :=
    coversAll_covers fun q hq => hp.pos q (List.mem_append_right _ (List.mem_cons_of_mem _ hq))
  rw [State.storePieces_append, State.storePieces_cons, hstep]
  exact ⟨_, ((State.MemKept.refl (core := c.core) _).storePieces hr).net.subset
    (hnet ▸ List.mem_append_right _ List.mem_cons_self), rfl, rfl, rfl, rfl, hkind, rfl⟩

/-! A piece of another device. -/

/-- A posted write of an access. -/
def Posted.Of (y : Posted) (gid lane d off n : Nat) (data : DWord) : Prop :=
  y.gid = gid ∧ y.lane = lane ∧ y.device = d ∧ y.offset = off ∧ y.size = n ∧ y.lost = false ∧ y.data = data

theorem State.posted_post {off n w d target : Nat} : ∃ y ∈ (s.post c lane off n w d target a).posted,
    y.Of c.gid lane d target n (BitVec.ofNat 64 w) :=
  ⟨_, List.mem_append_right _ List.mem_cons_self, rfl, rfl, rfl, rfl, rfl, rfl, rfl⟩

/-- A store to a set of devices is posted to each of them that lies in the domain (R421). -/
theorem State.posted_postEach {members : List Nat} {off n w d target : Nat} {put : State → Nat → State} {refuse : State → State}
    (hput : put = fun s d => s.post c lane off n w d target a) (hrefuse : ∀ u, (refuse u).posted = u.posted) (hd : d ∈ members)
    (hok : s.deviceOk (bhOf c.gid) d = true) :
    ∃ y ∈ (s.postEach c members put refuse).posted, y.Of c.gid lane d target n (BitVec.ofNat 64 w) := by
  have hmem : d ∈ (members.partition fun d => s.deviceOk (bhOf c.gid) d).1 := by
    rw [List.partition_eq_filter_filter]
    exact List.mem_filter.2 ⟨hd, hok⟩
  obtain ⟨l, r, hlr⟩ := List.append_of_mem hmem
  have hrest (u : State) : State.MemKept c.core (fun _ => False) u (r.foldl (fun s d => s.post c lane off n w d target a) u) :=
    (State.MemKept.refl u).foldl fun _ _ _ hu => hu.post
  have hfold (u : State) : ∃ y ∈ ((l ++ d :: r).foldl put u).posted, y.Of c.gid lane d target n (BitVec.ofNat 64 w) := by
    subst hput
    rw [List.foldl_append, List.foldl_cons]
    obtain ⟨y, hy, hof⟩ := State.posted_post (s := l.foldl (fun s d => s.post c lane off n w d target a) u) (c := c) (lane := lane)
      (a := a) (off := off) (n := n) (w := w) (d := d) (target := target)
    exact ⟨y, (hrest _).posted.subset hy, hof⟩
  unfold State.postEach
  dsimp only
  rw [hlr]
  split
  · exact hfold s
  · rw [hrefuse]
    exact hfold s

/-- Whether a piece goes to a place of a device: through the fabric window, or through a set of the domain (R26, R421). -/
def State.GoesTo (s : State) (b : Nat) (pl : Place) (d off : Nat) : Prop :=
  pl = .fabric d off ∨ ∃ set, pl = .multicast set off ∧ d ∈ mcMembers (s.mcEntry b set) ∧ s.deviceOk b d = true

theorem State.posted_storePiece {d off : Nat} (hx : s.GoesTo (bhOf c.gid) x.2.2 d off) :
    ∃ y ∈ (s.storePiece c (.plain rq rel) lane v a x).2.posted,
      y.Of c.gid lane d off x.2.1 (BitVec.ofNat 64 (pieceOf v x.1 x.2.1)) := by
  obtain ⟨o, n, pl⟩ := x
  obtain hf | ⟨set, hm, hd, hok⟩ := hx
  · cases hf
    exact State.posted_post
  · cases hm
    exact State.posted_postEach rfl (fun _ => rfl) hd hok

/-- A write stays posted while the other pieces of its element are stored. -/
theorem State.posted_storePieces {d off : Nat} (hp : Uniform p) (hxp : x ∈ p) (hx : s.GoesTo (bhOf c.gid) x.2.2 d off) :
    ∃ y ∈ (s.storePieces c rq rel lane v a p).posted,
      y.Of c.gid lane d off x.2.1 (BitVec.ofNat 64 (pieceOf v x.1 x.2.1)) := by
  obtain ⟨l, r, rfl⟩ := List.append_of_mem hxp
  have hl : State.MemKept c.core (covers [(0, l)]) s (s.storePieces c rq rel lane v a l) :=
    (State.MemKept.refl s).storePieces (coversAll_covers fun q hq => hp.pos q (List.mem_append_left _ hq))
  have hx' : (s.storePieces c rq rel lane v a l).GoesTo (bhOf c.gid) x.2.2 d off := by
    unfold State.GoesTo at hx ⊢
    simpa only [hl.toSameDomain.mcEntry, hl.toSameDomain.deviceOk] using hx
  have hr : CoversAll (covers [(0, r)]) r :=
    coversAll_covers fun q hq => hp.pos q (List.mem_append_right _ (List.mem_cons_of_mem _ hq))
  obtain ⟨y, hy, hof⟩ := State.posted_storePiece (rq := rq) (rel := rel) (lane := lane) (v := v) (a := a) hx'
  rw [State.storePieces_append, State.storePieces_cons]
  exact ⟨y, ((State.MemKept.refl (core := c.core) _).storePieces hr).posted.subset hy, hof⟩

end Sys2Proof.Machine
end

section
/-! SUPPORT. Scalar stores (R89, R256). -/

namespace Sys2Proof.Machine
open Sys2Proof.Claims

variable {s t : State} {g : Group} {f : ExtM} {p : Pieces}

/-! What a group that notes something and retires keeps. -/

theorem Group.noting_pc_feed (n : Notes) (b : Bool) (op : Byte) :
    (((g.noting n).pc b).feed op).sig = ((g.pc b).feed op).sig ∧ ((g.noting n).pc b).pc = (g.pc b).pc ∧
      ((g.noting n).pc b).mask = (g.pc b).mask := by
  cases b <;> unfold PcSlot.feed <;> exact ⟨by split <;> rfl, rfl, rfl⟩

/-- A group that has noted something, none of it of its other slot, once it has passed its instruction. -/
theorem passes_noting {n : Notes} {op : Byte} {words age ws wc : Nat} {w : Wait}
    (hpc : (g.noting n).pc (!s.curSlot) = g.pc (!s.curSlot)) :
    passes s g ((g.noting n).passed s.curSlot op words age w ws wc) op words := by
  obtain ⟨hsig, hp, hmask⟩ := g.noting_pc_feed n s.curSlot op
  have hself : ((g.noting n).passed s.curSlot op words age w ws wc).pc s.curSlot =
      ((g.noting n).pc s.curSlot).passed op words age := by
    cases s.curSlot <;> rfl
  have hother : ((g.noting n).passed s.curSlot op words age w ws wc).pc (!s.curSlot) = (g.noting n).pc (!s.curSlot) := by
    cases s.curSlot <;> rfl
  rw [passes, hself, hother, PcSlot.passed_pc, PcSlot.passed_sig, PcSlot.passed_mask, hp, hsig, hmask]
  exact ⟨rfl, rfl, rfl, hpc⟩

theorem keepsOthers_noting {n : Notes} : keepsOthers g (g.noting n) [] [] :=
  ⟨fun _ _ => rfl, fun _ _ _ => rfl, rfl, rfl, rfl, rfl, rfl, rfl, rfl, rfl, rfl, rfl, rfl, rfl, rfl, rfl⟩

theorem State.cur_retire {gid words : Nat} {slot : Bool} {op : Byte} : (s.retire gid slot op words).cur = s.cur := by
  unfold State.retire State.retired
  split <;> rfl

theorem State.posted_retire {gid words : Nat} {slot : Bool} {op : Byte} : (s.retire gid slot op words).posted = s.posted := by
  unfold State.retire State.retired
  split <;> rfl

theorem State.spotByte_retire {gid words asid : Nat} {slot : Bool} {op : Byte} (b : Option Nat × Nat) :
    spotByte (s.retire gid slot op words) asid b = spotByte s asid b := by
  have hw : s.SameWords (s.retire gid slot op words) := (State.SameWords.refl s).retire
  have hcore (k : Nat) : (s.retire gid slot op words).core k = s.core k := by
    rw [State.core, State.core, (State.retire_mem s gid slot op words).2.2.2]
  obtain ⟨_ | k, o⟩ := b
  · simp only [spotByte, State.cur_retire, State.coreByte, State.l1, hcore, hw.byteNow]
  · simp only [spotByte, State.spad, hcore]

/-! A store that its run performs notes its digest at most. -/

/-- Outside an arbiter run a store is noted in its group only (R408, R411). -/
theorem State.noteStore_eq {gid n v : Nat} {a : DWord} (h : g.run ≠ .arbiter) : s.noteStore gid g a n v =
    s.modGroup gid fun g => { g with digest := g.digest + digestTerm a (BitVec.ofNat 64 v) } := by
  unfold State.noteStore
  split
  next heq _ => exact absurd heq h
  · rfl

/-- The state in which the pieces of a scalar store are stored: its element is noted. -/
def State.scalarNoted (t : State) (g : Group) (f : ExtM) : State :=
  if (LaneAt.addr (g.rdS f.a + f.w2.signExtend 64)).digested then
    t.noteStore t.cur g (g.rdS f.a + f.w2.signExtend 64) (tySize f.ty.toNat) ((g.rdS f.d).toNat % 2 ^ (8 * tySize f.ty.toNat))
  else t

theorem State.SameView.scalarNoted (h : g.run ≠ .arbiter) : t.SameView (t.scalarNoted g f) := by
  unfold State.scalarNoted
  rw [State.noteStore_eq h]
  exact .ite ⟨rfl, rfl, fun _ => rfl, fun _ => rfl⟩ (.refl t)

theorem State.MemKept.scalarNoted {core : Nat} {B : Nat → Prop} (h : g.run ≠ .arbiter) :
    State.MemKept core B t (t.scalarNoted g f) := by
  unfold State.scalarNoted
  rw [State.noteStore_eq h]
  exact .ite (State.MemKept.refl t).modGroup (.refl t)

/-- What a scalar store leaves once its release is over. -/
def State.scalarStored (t : State) (g : Group) (f : ExtM) (p : Pieces) : State :=
  (t.storeLanes (t.acc g) g (.plain f.rq.toNat (f.ord == 2)) (tySize f.ty.toNat) (fun _ => .addr (g.rdS f.a + f.w2.signExtend 64))
    (fun _ => (g.rdS f.d).toNat) [(0, p)]).2

/-- The pieces of a scalar store stored. -/
def State.scalarPieces (u : State) (t : State) (g : Group) (f : ExtM) (p : Pieces) : State :=
  u.storePieces (t.acc g) f.rq.toNat (f.ord == 2) 0 ((g.rdS f.d).toNat % 2 ^ (8 * tySize f.ty.toNat))
    (g.rdS f.a + f.w2.signExtend 64) p

theorem State.scalarStored_eq : t.scalarStored g f p =
    if (LaneAt.addr (g.rdS f.a + f.w2.signExtend 64)).digested && g.run != .original then t.scalarNoted g f
    else (t.scalarNoted g f).scalarPieces t g f p := State.storeLanes_one

theorem State.scalarStored_original (h : g.run = .original) :
    t.scalarStored g f p = (t.scalarNoted g f).scalarPieces t g f p := by
  rw [State.scalarStored_eq, h]
  simp

theorem State.Noted.scalarStored : State.Noted t.cur t (t.scalarStored g f p) := by
  have h1 : State.Noted t.cur t (t.scalarNoted g f) := .ite (State.Noted.refl t).noteStore (.refl t)
  rw [State.scalarStored_eq]
  exact .ite h1 (State.Noted.storePieces (c := t.acc g) h1)

theorem State.MemKept.scalarStored {core : Nat} {B : Nat → Prop} (h : g.run ≠ .arbiter) (hB : CoversAll B p) :
    State.MemKept core B t (t.scalarStored g f p) := by
  rw [State.scalarStored_eq]
  exact .ite (.scalarNoted h) ((State.MemKept.scalarNoted h).storePieces hB)

/-! The store as a whole. -/

theorem sstBody_ok {s1 : State} (ha : s.acquiring (s.acc g) = false)
    (hr : s.resolvePipe s.cur g .all .store false (g.rdS f.a + f.w2.signExtend 64) (tySize f.ty.toNat) = (.ok p, s1))
    (ht : ∀ go, s1.releaseIf (s1.acc g) (f.ord == 2) (f.sys == 1) go = go t) :
    sstBody f g s = .ok (t.scalarStored g f p) := by
  simp only [sstBody, ha, dispOf, hr, ht]
  rfl

/-- What a scalar store stores reaches memory. -/
theorem stored_scalarStored {s1 : State} (hcur : s1.cur = s.cur) (hp : Uniform p) (hrel : s1.Released t) (hrun : g.run = .original)
    {op : Byte} {words : Nat} : stored f s s1 ((t.scalarStored g f p).retire s.cur s.curSlot op words) g [(0, p)]
      fun _ => (g.rdS f.d).toNat % 2 ^ (8 * tySize f.ty.toNat) := by
  have hrun' : g.run ≠ .arbiter := by rw [hrun]; exact nofun
  have hcur' : (t.acc g).gid = s.cur := hrel.noted.cur.trans hcur
  have hv : t.SameView (t.scalarNoted g f) := .scalarNoted hrun'
  have hk : State.MemKept (coreOf s1.cur) (fun _ => False) t (t.scalarNoted g f) := .scalarNoted hrun'
  rw [State.scalarStored_original hrun]
  intro l hl x hx
  rw [List.mem_singleton.1 hl] at hx ⊢
  refine ⟨fun hat j hj b hb hlast => ?_, fun dpa va nc priv hm hcold halone hrq => ?_, fun d off hd => ?_⟩
  · have hat' : atHand t [(0, p)] := fun e he q hq => State.PieceAtHand.mono (hat e he q hq) hrel.owned
    rw [State.spotByte_retire]
    exact State.storePieces_atHand (c := t.acc g) hv.cur.symm (hv.atHand hat') hx hj hb hlast
  · rw [State.net_retire, ← hcur']
    refine State.storePieces_cold (c := t.acc g) hp hx hm (fun w hw => ?_) halone fun he => hrq (BitVec.eq_of_toNat_eq he)
    have hcore : (t.acc g).core = coreOf s1.cur := congrArg coreOf hrel.noted.cur
    rw [hcore]
    exact hk.absent w (fun _ _ => id) (hrel.absent w (hcold w hw))
  · rw [State.posted_retire, ← hcur']
    refine State.posted_storePieces (c := t.acc g) hp hx ?_
    have hdom (b set : Nat) : (t.scalarNoted g f).mcEntry b set = s1.mcEntry b set :=
      (hk.toSameDomain.mcEntry b set).trans (hrel.domain.mcEntry b set)
    have hok (b e : Nat) : (t.scalarNoted g f).deviceOk b e = s1.deviceOk b e :=
      (hk.toSameDomain.deviceOk b e).trans (hrel.domain.deviceOk b e)
    rw [hcur', State.GoesTo]
    simpa only [hdom, hok] using hd

/-- R89, R256: `sst`. -/
theorem sst_holds {s1 : State} (hr : ready s g (namedM 0x33 f))
    (hcalm : ∀ q ∈ s.pends, q.gid = s.cur → q.acq = true → q.hold = true)
    (hp : s.resolvePipe s.cur g .all .store false (g.rdS f.a + f.w2.signExtend 64) (tySize f.ty.toNat) = (.ok p, s1))
    (hready : relReady s1 g (f.ord == 2) (f.sys == 1)) :
    ∃ (t : State) (h : Group), exec (.sst f) s = .next t ∧ t.group? s.cur = some h ∧ passes s g h 0x33 3 ∧
      keepsOthers g h [] [] ∧ h.e = g.e ∧ othersKept s t ∧
      (offDevice s [(0, p)] → g.run ≠ .arbiter → ∀ b < 2 ^ 39, ¬ covers [(0, p)] b → t.byteNow b = s1.byteNow b) ∧
      (g.run = .original → stored f s s1 t g [(0, p)] fun _ => (g.rdS f.d).toNat % 2 ^ (8 * tySize f.ty.toNat)) := by
  have hm : s.MemStep s1 := by
    have h := (State.MemStep.refl s).resolvePipe (gid := s.cur) (g := g) (r := .all) (k := .store) (align := false)
      (a := g.rdS f.a + f.w2.signExtend 64) (n := tySize f.ty.toNat)
    rwa [hp] at h
  have hg1 : s1.group? s1.cur = some g := by
    rw [hm.cur]
    exact (hm.group? s.cur).trans (State.current_eq hr.1).1
  obtain ⟨t, ht, hrel⟩ := State.releaseIf_ready hg1 hready
  have hexec : exec (.sst f) s = .next ((t.scalarStored g f p).retire s.cur s.curSlot 0x33 3) :=
    (State.execM_ready hr).trans (by rw [sstBody_ok (State.acquiring_eq_false hcalm) hp ht]; rfl)
  have hnoted : State.Noted s.cur s1 (t.scalarStored g f p) := by
    have h1 := hrel.noted
    have h2 : State.Noted t.cur t (t.scalarStored g f p) := .scalarStored
    rw [hrel.noted.cur, hm.cur] at h2
    rw [hm.cur] at h1
    exact h1.trans h2
  rw [hm.cur] at hg1
  obtain ⟨n, hown, hpc⟩ := hnoted.own g hg1
  rw [hm.curSlot] at hpc
  refine ⟨_, _, hexec, State.group?_retire hown, passes_noting hpc, keepsOthers_passed keepsOthers_noting, Group.passed_e ..,
    fun j hj => ?_, fun _ hrun b hb hcov => ?_, fun hrun => stored_scalarStored hm.cur (State.resolvePipe_ok hp) hrel hrun⟩
  · rw [State.group?_retire_other hj, hnoted.others j hj, hm.group? j]
  · have hkept : State.MemKept (coreOf s.cur) (covers [(0, p)]) t (t.scalarStored g f p) :=
      .scalarStored hrun (coversAll_covers (State.resolvePipe_ok hp).pos)
    exact ((State.SameWords.refl _).retire.byteNow b).trans ((hkept.bytes b hb hcov).trans (hrel.bytes b hb))

end Sys2Proof.Machine

namespace Sys2Proof.Claims
open Sys2Proof.Machine

variable {s : State} {g : Group} {f : ExtM}

/-- R256: a scalar load of a lane's own memory traps. -/
theorem sld_priv (hr : ready s g (namedM 0x32 f)) (hcalm : ∀ q ∈ s.pends, q.gid = s.cur → q.acq = true → q.hold = true)
    (hc : canonical (g.rdS f.a + f.w2.signExtend 64) = true) (hw : windowOf (g.rdS f.a + f.w2.signExtend 64) = .priv) :
    ∃ ti : TrapInfo, ti.cause = .addrWindow ∧ exec (.sld f) s = .next (s.takeTrap s.cur s.curSlot ti) := by
  refine ⟨pipeTrap 0 { cause := .addrWindow, addr := g.rdS f.a + f.w2.signExtend 64, level := 0 }, pipeTrap_cause _ _,
    (State.execM_ready hr).trans ?_⟩
  simp only [sldBody, dispOf, State.acquiring_eq_false hcalm, State.resolvePipe_priv hc hw]
  rfl

/-- R256: a scalar store to a lane's own memory traps. -/
theorem sst_priv (hr : ready s g (namedM 0x33 f)) (hcalm : ∀ q ∈ s.pends, q.gid = s.cur → q.acq = true → q.hold = true)
    (hc : canonical (g.rdS f.a + f.w2.signExtend 64) = true) (hw : windowOf (g.rdS f.a + f.w2.signExtend 64) = .priv) :
    ∃ ti : TrapInfo, ti.cause = .addrWindow ∧ exec (.sst f) s = .next (s.takeTrap s.cur s.curSlot ti) := by
  refine ⟨pipeTrap 1 { cause := .addrWindow, addr := g.rdS f.a + f.w2.signExtend 64, level := 0 }, pipeTrap_cause _ _,
    (State.execM_ready hr).trans ?_⟩
  simp only [sstBody, dispOf, State.acquiring_eq_false hcalm, State.resolvePipe_priv hc hw]
  rfl

/-- R89, R256: the scalar loads and stores. -/
theorem scalarMemory_holds : scalarMemory := by
  intro s g f p s1
  refine ⟨sld_holds, sst_holds, fun r hmem hr hcalm hc hw => ?_⟩
  obtain rfl | hmem := List.mem_cons.1 hmem
  · exact sld_priv hr hcalm hc hw
  · obtain rfl := List.mem_singleton.1 hmem
    exact sst_priv hr hcalm hc hw

end Sys2Proof.Claims

end

section
/-! Scalar loads and stores, and the loading of a shape record (O25). -/

namespace Sys2Proof

/-- Settles O25: a scalar load receives its pieces at hand and asks for the others, a scalar store goes on once its release is over,
and a shape record is read like four scalar loads. -/
theorem scalarMemory : Obligations.Scalar_memory := ⟨Claims.scalarMemory_holds, Machine.shapeLoad_holds⟩

end Sys2Proof
end

section
/-! SUPPORT. What releases, acquires and fences leave (R89, R124, R126, R127): the notes of their group and its fence stamp may
change, and every byte of memory reads as before. -/

namespace Sys2Proof.Machine
open Sys2Proof.Claims

variable {s t u : State} {g : Group} {sys : Bool}

/-- The lazy words that a core sends keep their value in its L1 (R89). -/
theorem State.wordNow_clearLazy (core w w' : Nat) : (s.clearLazy core w).wordNow w' = s.wordNow w' := by
  unfold State.clearLazy
  split
  next x hx => exact State.wordNow_setL1 (y := { x with lazy := none, unsent := 0 }) hx rfl rfl w'
  · rfl

theorem State.wordNow_send (m : Msg) (w : Nat) : (s.send m).wordNow w = s.wordNow w := (State.SameWords.refl s).send.wordNow w

theorem State.wordNow_flushWord (core w w' : Nat) : (s.flushWord core w).wordNow w' = s.wordNow w' := by
  unfold State.flushWord
  split
  · rfl
  · split
    · rfl
    · dsimp only
      split
      · rw [State.wordNow_send, State.wordNow_clearLazy, State.wordNow_clearLazy]
      · exact List.foldlRecOn (motive := fun (u : State) => u.wordNow w' = s.wordNow w') _ _ (State.wordNow_clearLazy core w w')
          fun u hu _ _ => (State.wordNow_send _ w').trans hu

theorem State.wordNow_flushCore (core w : Nat) : (s.flushCore core).wordNow w = s.wordNow w := by
  refine List.foldlRecOn (motive := fun (u : State) => u.wordNow w = s.wordNow w) _ _ rfl fun u hu e _ => ?_
  split
  · exact hu
  · exact (State.wordNow_flushWord core e.1 w).trans hu

/-- A `.sys` operation that completes moves no word and no message (R142). -/
theorem State.Books.sysDone {c : Acc} : s.Books (s.sysDone c) := by
  unfold State.sysDone
  extract_lets lost s1 s2
  have h2 : s.Books s2 := .of_cores rfl rfl rfl rfl
  clear_value s2
  cases lost with
  | none => exact h2
  | some p => exact .ite { h2 with } h2

/-- The state in which a release goes on (R89, R126, R142): the lazy words of its core are sent, and with `.sys` its posted writes
are over. -/
def State.releasedBy (s : State) (c : Acc) (sys : Bool) : State :=
  let s1 := s.flushCore c.core
  if sys then (s1.modGroup c.gid fun g => g.sysWait c.slot none).sysDone c else s1

theorem State.release_ready (hg : s.group? s.cur = some g) (h : relReady s g true sys) (go : State → Res) :
    s.release (s.acc g) sys go = go (s.releasedBy (s.acc g) sys) := by
  obtain ⟨hcalm, hready, hsys⟩ := h rfl
  have hm : s.MemStep (s.flushCore (coreOf s.cur)) := (State.MemStep.refl s).flushCore
  have hacq : (s.flushCore (coreOf s.cur)).acquiring (s.acc g) = false := by
    rw [State.acquiring, hm.pends]
    exact State.acquiring_eq_false hcalm
  have hg' : (s.flushCore (coreOf s.cur)).group? s.cur = some g := (hm.group? s.cur).trans hg
  cases sys with
  | false => simp only [State.release, State.releasedBy, Acc.core, State.acc, hg', hready] at hacq ⊢; rw [hacq]; rfl
  | true =>
    have hsys' := hsys rfl
    simp only [State.release, State.releasedBy, Acc.core, State.acc, hg', hready, hsys'] at hacq ⊢
    rw [hacq]
    rfl

theorem State.books_releasedBy : (s.flushCore (coreOf s.cur)).Books (s.releasedBy (s.acc g) sys) := by
  cases sys with
  | false => exact .refl _
  | true =>
    have h := State.Books.sysDone (s := (s.flushCore (coreOf s.cur)).modGroup s.cur fun g => g.sysWait s.curSlot none) (c := s.acc g)
    exact { h with }

theorem State.wordNow_releasedBy (w : Nat) : (s.releasedBy (s.acc g) sys).wordNow w = s.wordNow w :=
  (State.books_releasedBy.wordNow w).trans (State.wordNow_flushCore _ w)

theorem State.released_releasedBy (hg : s.group? s.cur = some g) (h : relReady s g true sys) :
    s.Released (s.releasedBy (s.acc g) sys) := by
  obtain ⟨t, ht, hrel⟩ := State.releaseIf_ready hg h
  have heq : Res.ok (s.releasedBy (s.acc g) sys) = .ok t := (State.release_ready hg h .ok).symm.trans (ht .ok)
  rw [Res.ok.inj heq]
  exact hrel

/-- A group with its notes and the stamp of its last fence (R118). -/
def Group.stamped (g : Group) (n : Notes) (v : Nat) : Group := { g.noting n with fenceStamp := v }

/-- What a release, an acquire or a fence of the current group leaves. -/
structure State.Ordered (s t : State) (g : Group) : Prop where
  own : ∃ n v, t.group? s.cur = some (g.stamped n v) ∧ (g.noting n).pc (!s.curSlot) = g.pc (!s.curSlot)
  others : ∀ j, j ≠ s.cur → t.group? j = s.group? j
  words : ∀ w, t.wordNow w = s.wordNow w

theorem State.Ordered.refl (hg : s.group? s.cur = some g) : s.Ordered s g :=
  ⟨⟨g.notes, g.fenceStamp, hg, rfl⟩, fun _ _ => rfl, fun _ => rfl⟩

theorem State.Ordered.release (hg : s.group? s.cur = some g) (h : relReady s g true sys) :
    s.Ordered (s.releasedBy (s.acc g) sys) g := by
  have hn := (State.released_releasedBy hg h).noted
  obtain ⟨n, hown, hpc⟩ := hn.own g hg
  exact ⟨⟨n, g.fenceStamp, hown, hpc⟩, hn.others, State.wordNow_releasedBy⟩

theorem State.Ordered.dropValid {core : Nat} (h : s.Ordered t g) : s.Ordered (t.dropValid core) g :=
  ⟨h.own, h.others, fun w => (State.wordNow_dropValid w).trans (h.words w)⟩

theorem State.Ordered.stamp {v : Nat} (h : s.Ordered t g) : s.Ordered (t.modGroup s.cur fun g => { g with fenceStamp := v }) g := by
  obtain ⟨⟨n, _, hown, hpc⟩, hothers, hwords⟩ := h
  exact ⟨⟨n, v, by rw [State.group_modGroup, hown]; rfl, hpc⟩,
    fun j hj => (State.group_modGroup_other _ _ _ _ hj).trans (hothers j hj),
    fun w => ((State.SameWords.refl t).modGroup.wordNow w).trans (hwords w)⟩

/-- An acquire leaves no untagged V word in its L1 (R89, R127). -/
theorem State.noValid_dropValid {core : Nat} : ∀ e ∈ ((s.dropValid core).core core).l1, e.2.st = .valid → e.2.tag ≠ none := by
  intro e he hst htag
  have hcore : (s.dropValid core).core core =
      (s.modCore core fun k => { k with l1 := Table.drop k.l1 fun _ x => x.st == .valid && x.tag.isNone }).core core := rfl
  rw [hcore, State.core_modCore] at he
  have hkept := (List.mem_filter.1 he).2
  simp [hst, htag] at hkept

theorem State.core_retire {gid words c : Nat} {slot : Bool} {op : Byte} : (s.retire gid slot op words).core c = s.core c := by
  rw [State.core, State.core, (State.retire_mem s gid slot op words).2.2.2]

end Sys2Proof.Machine

namespace Sys2Proof.Claims
open Sys2Proof.Machine

variable {s t : State} {g : Group} {op : Byte} {words : Nat} {sys : Bool}

/-- What is left by an instruction of order that retires: its slot has passed it, and neither a register nor a byte has changed. -/
def keepsAll (s : State) (g : Group) (t : State) (op : Byte) (words : Nat) : Prop :=
  ∃ h : Group, t.group? s.cur = some h ∧ passes s g h op words ∧ keepsOthers g h [] [] ∧ h.e = g.e ∧ othersKept s t ∧
    ∀ a, t.byteNow a = s.byteNow a

/-- The slots of a group that has passed an instruction are those of any group with the same slots that has. -/
theorem passes_congr {h k : Group} {age ws wc : Nat} {w : Wait} (h0 : h.slot0 = k.slot0) (h1 : h.slot1 = k.slot1)
    (hk : passes s g (k.passed s.curSlot op words age w ws wc) op words) :
    passes s g (h.passed s.curSlot op words age w ws wc) op words := by
  have hpc (b : Bool) : (h.passed s.curSlot op words age w ws wc).pc b = (k.passed s.curSlot op words age w ws wc).pc b := by
    cases s.curSlot <;> cases b <;> simp [Group.passed, Group.setPc, Group.pc, h0, h1]
  simpa only [passes, hpc] using hk

theorem keepsOthers_stamped {n : Notes} {v : Nat} : keepsOthers g (g.stamped n v) [] [] := keepsOthers_noting (n := n)

theorem keepsAll_retire (h : s.Ordered t g) : keepsAll s g (t.retire s.cur s.curSlot op words) op words := by
  obtain ⟨⟨n, v, hown, hpc⟩, hothers, hwords⟩ := h
  refine ⟨_, State.group?_retire hown, passes_congr (k := g.noting n) rfl rfl (passes_noting hpc), keepsOthers_passed keepsOthers_stamped,
    Group.passed_e .., fun j hj => ?_, fun a => ?_⟩
  · rw [State.group?_retire_other hj, hothers j hj]
  · rw [(State.SameWords.refl t).retire.byteNow, State.byteNow, State.byteNow, hwords]

/-- An acquire of the group's loads, where none is outstanding (R127). -/
theorem acqBody_quiet (h : ∀ p ∈ s.pends, p.gid = s.cur → p.hold = false → p.store = true) :
    acqBody g s = .ok (s.dropValid (coreOf s.cur)) := by
  have hq : (s.pends.any fun p => p.gid == s.cur && !p.store && !p.hold) = false := List.any_eq_false.2 fun p hp hb => by
    simp only [Bool.and_eq_true, beq_iff_eq, Bool.not_eq_true'] at hb
    rw [h p hp hb.1.1 hb.2] at hb
    exact absurd hb.1.2 (by decide)
  simp only [acqBody, Acc.core, State.acc, hq]
  rfl

/-- The state that a fence leaves when it completes (R126, R138). -/
def fenced (s : State) (g : Group) (sys : Bool) : State :=
  let t := (s.releasedBy (s.acc g) sys).dropValid (coreOf s.cur)
  t.modGroup s.cur fun h => { h with fenceStamp := (t.core (coreOf s.cur)).lcc }

theorem fenceBody_ready (hg : s.group? s.cur = some g) (h : fenceReady s g sys) : fenceBody sys g s = .ok (fenced s g sys) := by
  obtain ⟨hrel, hloads, hnet⟩ := h
  have hpend : ((s.releasedBy (s.acc g) sys).pends.any fun p => p.gid == s.cur && !p.hold && p.memory) = false := by
    rw [(State.released_releasedBy hg hrel).noted.pends]
    refine List.any_eq_false.2 fun p hp hb => ?_
    simp only [Bool.and_eq_true, beq_iff_eq, Bool.not_eq_true'] at hb
    exact Bool.false_ne_true ((hloads p hp hb.1.1 hb.1.2).symm.trans hb.2)
  have hreply : ((s.releasedBy (s.acc g) sys).net.any fun m => m.gid == some s.cur && m.kind.access && !m.origin.isWatching) = false := by
    rw [State.books_releasedBy.net]
    refine List.any_eq_false.2 fun m hm hb => ?_
    simp only [Bool.and_eq_true, beq_iff_eq, Bool.not_eq_true'] at hb
    exact Bool.false_ne_true (hb.2.symm.trans (hnet m hm hb.1.1 hb.1.2))
  rw [fenceBody, State.fence, State.release_ready hg hrel]
  have hor : (((s.releasedBy (s.acc g) sys).pends.any fun p => p.gid == s.cur && !p.hold && p.memory) ||
      (s.releasedBy (s.acc g) sys).net.any fun m => m.gid == some s.cur && m.kind.access && !m.origin.isWatching) = false := by
    rw [hpend, hreply]
    rfl
  exact if_neg (by rw [State.acc] at hor ⊢; simpa using hor)

theorem ordered_fenced (hg : s.group? s.cur = some g) (h : relReady s g true sys) : s.Ordered (fenced s g sys) g :=
  (State.Ordered.release hg h).dropValid.stamp

theorem relBody_ready (hg : s.group? s.cur = some g) (h : relReady s g true sys) :
    relBody sys g s = .ok (s.releasedBy (s.acc g) sys) := State.release_ready hg h .ok

/-- An instruction whose body completes retires. -/
theorem issue_ok {body : Group → State → Res} {used : List Nat} (hr : ready s g used) (hb : body g s = .ok t) :
    s.issueWith op words used body = .next (t.retire s.cur s.curSlot op words) :=
  (State.issueWith_run hr.1 hr.2).trans (by rw [hb]; rfl)

/-- No untagged V word stands in the L1 of the current group's core. -/
def noValid (s t : State) : Prop := ∀ e ∈ (t.core (coreOf s.cur)).l1, e.2.st = .valid → e.2.tag ≠ none

theorem noValid_retire_dropValid : noValid s ((t.dropValid (coreOf s.cur)).retire s.cur s.curSlot op words) := by
  rw [noValid, State.core_retire]
  exact State.noValid_dropValid

/-- R126, R138, R323: a fence that may complete, in either form. -/
theorem fence_issue {used : List Nat} (hr : ready s g used) (h : fenceReady s g sys) :
    ∃ t, s.issueWith op words used (fenceBody sys) = .next t ∧ keepsAll s g t op words ∧ noValid s t :=
  have hg := (State.current_eq hr.1).1
  ⟨_, issue_ok hr (fenceBody_ready hg h), keepsAll_retire (ordered_fenced hg h.1), by
    rw [noValid, State.core_retire]
    exact State.noValid_dropValid⟩

/-- R127, R323: an acquire of a group with no load outstanding, in either form. -/
theorem acq_issue {used : List Nat} (hr : ready s g used) (h : ∀ p ∈ s.pends, p.gid = s.cur → p.hold = false → p.store = true) :
    ∃ t, s.issueWith op words used acqBody = .next t ∧ keepsAll s g t op words ∧ noValid s t :=
  ⟨_, issue_ok hr (acqBody_quiet h), keepsAll_retire (State.Ordered.refl (State.current_eq hr.1).1).dropValid,
    noValid_retire_dropValid⟩

/-- R124, R126, R323: a release that may complete, in either form. -/
theorem rel_issue {used : List Nat} (hr : ready s g used) (h : relReady s g true sys) :
    ∃ t, s.issueWith op words used (relBody sys) = .next t ∧ keepsAll s g t op words :=
  have hg := (State.current_eq hr.1).1
  ⟨_, issue_ok hr (relBody_ready hg h), keepsAll_retire (State.Ordered.release hg h)⟩

/-- R124, R126, R127, R138, R323: fences, acquires and releases. -/
theorem fences_hold : fences := fun _ _ =>
  ⟨fun _ => fence_issue, fun _ => fence_issue, fun _ => acq_issue, fun _ => acq_issue, fun _ => rel_issue, fun _ => rel_issue⟩

end Sys2Proof.Claims
end

section
/-! SUPPORT. The return of a watch (R331, R364, R384): its access lands as an acquire, and the instruction that waited for it
retires. -/

namespace Sys2Proof.Machine
open Sys2Proof.Claims

variable {s : State} {g : Group} {p : Pend}

theorem State.watchBody_done {why : Wait} {cond : WatchCond} {a cmp : DWord} (h : heldDone s g p) :
    s.watchBody g why cond a cmp = .ok (s.land p) := by
  obtain ⟨hheld, hleft, hfailed⟩ := h
  have hheld' : s.held? s.cur s.curSlot (s.pcNow g) = some p := hheld
  simp only [State.watchBody, hheld', hleft, hfailed]
  rfl

theorem atwaitBody_done {f : ExtM} (h : heldDone s g p) : atwaitBody f g s = .ok (s.land p) := by
  obtain ⟨hheld, hleft, hfailed⟩ := h
  have hheld' : s.held? s.cur s.curSlot (g.pc s.curSlot).pc = some p := hheld
  simp only [atwaitBody, hheld', hleft, hfailed]
  rfl

/-- A watch without a destination that has returned only takes effect as an acquire. -/
theorem State.land_watch (hd : p.dest = .none) (hf : p.failed = false) (ha : p.acq = true) (hge : p.ge = none) :
    s.land p = (s.dropPend p.id).dropValid (coreOf p.gid) := by
  simp only [State.land, hd, hf, ha, hge]
  rfl

end Sys2Proof.Machine

namespace Sys2Proof.Claims
open Sys2Proof.Machine

theorem exec_cwait (f : ExtA) (s : State) : exec (.cwait f) s =
    s.execA 0xEB f fun g s => s.watchBody g .cwait .leZero (g.rdS f.a + f.w2.signExtend 64) 0 := rfl

theorem exec_qwait (f : ExtA) (s : State) : exec (.qwait f) s =
    s.execA 0xF8 f fun g s => s.watchBody g .qwait .geU (g.rdS f.a) (g.rdS f.b) := rfl

/-- R331, R364, R384: `atwait`, `cwait` and `qwait` whose watches have returned. -/
theorem watchesReturn_holds : watchesReturn := by
  intro s g p
  refine ⟨fun f hr h => (State.execM_ready hr).trans (by rw [atwaitBody_done h]; rfl),
    fun f hr h => by rw [exec_cwait, State.execA_ready hr, State.watchBody_done h]; rfl,
    fun f hr h => by rw [exec_qwait, State.execA_ready hr, State.watchBody_done h]; rfl, fun hgid hd hf ha hge => ?_⟩
  rw [State.land_watch hd hf ha hge, hgid]
  exact ⟨rfl, State.noValid_dropValid⟩

end Sys2Proof.Claims
end

section
/-! Fences, acquires, releases and the return of watches (O31). -/

namespace Sys2Proof

/-- Settles O31: what each part of an ordering instruction keeps, a release, an acquire and the stamp of a fence, and how a watch
that has returned lands. -/
theorem fencesAndWatches : Obligations.Fences_and_watches := ⟨Claims.fences_hold, Claims.watchesReturn_holds⟩

end Sys2Proof
end

section
/-! Waits that are over and status reads (O36). The statement about `evget` asks of the ring's oldest record only that its bytes are
populated. They may then be bytes of the supervisor's own ring in plex SRAM, which the read itself can change. -/

namespace Sys2Proof.Claims
open Sys2Proof.Machine

/-- A context's ring of one record, whose frame is that of the supervisor's ring (R381). No write of CTX_EVQ makes it: its frame
field has 23 bits. -/
def ringInSram : CtxBh := { CtxBh.reset with evqCount := 1, evqFrame := 0x2000060 }

/-- A group at its start. -/
def firstGroup : Group := Group.start 0 0 0 false 256 0 0x10000 1

/-- A device with that ring and one group, whose core's counter stands at its largest value: the slice that it meets posts LC_SAT
(R96), whose record lies where the ring's oldest record does. -/
def saturated : State :=
  { State.reset with
    groups := [(0, firstGroup)]
    ctxs := [(0, { Ctx.reset with inst := [(0, ringInSram)] })]
    cores := [(0, { Core.reset with lcc := lcMax })] }

/-- `evget` into s1 to s4. -/
def evgetS1 : ExtA := { d := 1, a := 0, b := 0, c := 0, mod := 0, ty := 0, rnd := 0, sat := 0, fe := 0, gn := 0, g := 0, w2 := 0 }

/-- The value of s1 of group 0 in an answer. -/
def s1After (r : Out) : Option DWord :=
  match r with
  | .next t => (t.group? 0).map fun h => h.rdS 1
  | _ => none

/-- `evget` writes the head of the LC_SAT record that its own read has posted (R96, R381). -/
theorem evget_saturated : s1After (exec (.evget evgetS1) saturated) = some 0x0839000000000000 := by decide +kernel

/-- The ring's oldest record reads 0 before the instruction. -/
theorem eventIn_saturated : (eventIn saturated firstGroup evgetS1 0x20000600000).rdS 1 = 0 := by decide +kernel

end Sys2Proof.Claims

namespace Sys2Proof
open Sys2Proof.Machine Sys2Proof.Claims

/-- Refutes O36: `evget` of a ring whose oldest record lies in the supervisor's own ring, at a core whose counter stands at its
largest value, reads the LC_SAT record that its own request has posted, and not what the ring held before. No reachable state has such
a ring; the statement lacks that the record lies below DPA 2^39. -/
theorem not_statusRows : ¬ Obligations.Status_rows := by
  rintro ⟨-, h⟩
  have hready : ready saturated firstGroup (namedA 0xF7 evgetS1) := ⟨rfl, fun _ _ => List.not_mem_nil⟩
  obtain ⟨t, k, hexec, hgroup, -, -, -, hregs, -⟩ :=
    h saturated firstGroup evgetS1 hready (by decide +kernel) (by decide +kernel)
  have hread : k.rdS 1 = 0x0839000000000000 := by
    have hs1 := evget_saturated
    rw [hexec] at hs1
    have hgroup' : t.group? 0 = some k := hgroup
    simpa only [s1After, hgroup', Option.map_some, Option.some.injEq] using hs1
  have hheld : k.rdS 1 = 0 := (hregs 0 (by decide)).trans eventIn_saturated
  exact absurd (hread.symm.trans hheld) (by decide)

end Sys2Proof
end

section
/-! SUPPORT. The barriers of a team (R132, R236, R362): how an episode is completed, and what an arrival and a wait leave. -/

namespace Sys2Proof.Machine
open Sys2Proof.Claims

/-- What is found stands in the table. -/
theorem Table.mem_of_find {α : Type} {t : Table α} {k : Nat} {a : α} (h : Table.find t k = some a) : (k, a) ∈ t := by
  induction t with
  | nil => cases h
  | cons e t ih =>
    obtain ⟨j, b⟩ := e
    rw [Table.find_cons] at h
    split at h
    next hj =>
      cases h
      exact hj ▸ List.mem_cons_self
    · exact List.mem_cons_of_mem _ (ih h)

/-- What stands in a table with one entry changed stood there before, or is that entry. -/
theorem Table.mem_modify {α : Type} {t : Table α} {k : Nat} {f : α → α} {e : Nat × α} (h : e ∈ Table.modify t k f) :
    e ∈ t ∨ ∃ a, Table.find t k = some a ∧ e = (k, f a) := by
  unfold Table.modify at h
  split at h
  next a ha => exact (Table.mem_set h).symm.imp_right fun he => ⟨a, ha, he⟩
  · exact .inl h

/-! One barrier. -/

@[simp] theorem Team.barrier_setBarrier (t : Team) (n : Nat) (b : Barrier) : (t.setBarrier n b).barrier n = b := by
  simp [Team.barrier, Team.setBarrier]

@[simp] theorem Group.arrivedAt_setArrived (g : Group) (n : Nat) (e : Option Nat) : (g.setArrived n e).arrivedAt n = e := by
  simp [Group.arrivedAt, Group.setArrived]

theorem Barrier.settle_of_missing {b : Barrier} {all : List Nat} {i : Nat} (hi : i ∈ all) (hb : i ∉ b.arrived) :
    b.settle all = b := by
  have hall : (all.all fun j => b.arrived.contains j) = false := List.all_eq_false.2 ⟨i, hi, by simpa using hb⟩
  rw [Barrier.settle, hall, Bool.and_false]
  rfl

/-- A barrier at which nobody has arrived in its episode stays there. -/
theorem Barrier.settle_of_empty {b : Barrier} {all : List Nat} (h : b.arrived = []) : b.settle all = b := by
  simp [Barrier.settle, h]

/-- The last arrival completes the episode (R362). -/
theorem Barrier.settle_arrive {b : Barrier} {all : List Nat} {i : Nat} (h : ∀ j ∈ all, j ≠ i → j ∈ b.arrived) :
    (b.arrive i).settle all = { episode := b.episode + 1, arrived := [] } := by
  have hall : (all.all fun j => (b.arrive i).arrived.contains j) = true := List.all_eq_true.2 fun j hj => by
    by_cases hji : j = i
    · simp [Barrier.arrive, hji]
    · simp [Barrier.arrive, h j hj hji]
  have hne : (b.arrive i).arrived.isEmpty = false := by simp [Barrier.arrive]
  rw [Barrier.settle, hall, hne]
  rfl

theorem Barrier.episode_le_settle (b : Barrier) (all : List Nat) : b.episode ≤ (b.settle all).episode := by
  unfold Barrier.settle
  split
  · exact Nat.le_succ _
  · exact Nat.le_refl _

/-! The barriers of a team in a state. -/

variable {s t : State} {g : Group} {x : Team} {n tid : Nat}

theorem State.mem_liveIndices {i : Nat} :
    i ∈ s.liveIndices tid ↔ ∃ e ∈ s.groups, e.2.team = tid ∧ e.2.ended = false ∧ e.2.index = i := by
  simp only [State.liveIndices, State.groupsOf, Table.select, List.mem_map, List.mem_filter, Bool.not_eq_true', beq_iff_eq]
  exact ⟨fun ⟨e, ⟨⟨he, ht⟩, hend⟩, hi⟩ => ⟨e, he, ht, hend, hi⟩, fun ⟨e, he, ht, hend, hi⟩ => ⟨e, ⟨⟨he, ht⟩, hend⟩, hi⟩⟩

theorem State.team?_settleBarrier (h : s.team? tid = some x) :
    (s.settleBarrier tid n).team? tid = some (x.setBarrier n ((x.barrier n).settle (s.liveIndices tid))) := by
  rw [State.settleBarrier, State.team_modTeam, h, Option.map_some]

/-- What a core hears moves no group and no team. -/
theorem State.MemStep.hear {core : Nat} {cores : List Nat} (h : s.MemStep t) : s.MemStep (t.hear core cores) :=
  .ite h h.lccTake

theorem State.MemStep.team? (h : s.MemStep t) (tid : Nat) : t.team? tid = s.team? tid := congrArg (Table.find · tid) h.teams

theorem State.MemStep.lastToArrive (h : s.MemStep t) (hl : lastToArrive s g x n) : lastToArrive t g x n := by
  obtain ⟨hteam, hnot, hmiss, hall⟩ := hl
  exact ⟨(h.team? _).trans hteam, hnot, hmiss, h.groups ▸ hall⟩

/-- The barrier to which the last group is still to come has not settled (R362). -/
theorem State.settle_lastToArrive (hg : s.group? s.cur = some g) (hend : g.ended = false) (hl : lastToArrive s g x n) :
    (x.barrier n).settle (s.liveIndices g.team) = x.barrier n :=
  Barrier.settle_of_missing (State.mem_liveIndices.2 ⟨_, Table.mem_of_find hg, rfl, hend, rfl⟩) hl.2.2.1

/-- The last group to arrive at a barrier completes its episode; it notes the episode in which it arrived (R362). -/
theorem State.arriveBar_last (hg : s.group? s.cur = some g) (hend : g.ended = false) (hl : lastToArrive s g x n) :
    (∃ y, (s.arriveBar g n).team? g.team = some y ∧ y.barrier n = { episode := (x.barrier n).episode + 1, arrived := [] }) ∧
      (s.arriveBar g n).group? s.cur = some (g.setArrived n (some (x.barrier n).episode)) ∧
      (s.arriveBar g n).cur = s.cur := by
  have hstay := State.settle_lastToArrive hg hend hl
  obtain ⟨hteam, -, -, hall⟩ := hl
  unfold State.arriveBar
  extract_lets s1 e
  have hm : (s.settleBarrier g.team n).MemStep s1 := (State.MemStep.refl _).announce
  have hteam1 : s1.team? g.team = some (x.setBarrier n (x.barrier n)) := by
    rw [hm.team?, State.team?_settleBarrier hteam, hstay]
  have he : e = (x.barrier n).episode := by
    simp only [e, hteam1, Option.map_some, Option.getD_some, Team.barrier_setBarrier]
  have hgroups : s1.groups = s.groups := hm.groups
  have hg1 : s1.group? s.cur = some g := (congrArg (Table.find · s.cur) hgroups).trans hg
  have hcur : s1.cur = s.cur := hm.cur
  clear_value s1 e
  subst he
  have hteam2 : ((s1.modTeam g.team fun t => t.setBarrier n ((t.barrier n).arrive g.index)).modGroup s.cur fun g =>
      g.setArrived n (some (x.barrier n).episode)).team? g.team =
        some ((x.setBarrier n (x.barrier n)).setBarrier n ((x.barrier n).arrive g.index)) := by
    rw [State.team?, State.modGroup_teams]
    exact (s1.team_modTeam _ _).trans (by rw [hteam1, Option.map_some, Team.barrier_setBarrier])
  refine ⟨⟨_, State.team?_settleBarrier hteam2, ?_⟩, (State.group_modGroup _ _ _).trans (congrArg _ hg1), hcur⟩
  rw [Team.barrier_setBarrier, Team.barrier_setBarrier]
  refine Barrier.settle_arrive fun j hj hji => ?_
  obtain ⟨e, he, hte, hende, rfl⟩ := State.mem_liveIndices.1 hj
  obtain he | ⟨k, hk, rfl⟩ := Table.mem_modify he
  · exact hall e (hgroups ▸ he) hte hende hji
  · have hk' : s1.group? s.cur = some k := hk
    rw [hg1] at hk'
    cases hk'
    exact absurd rfl hji

/-- Nobody is waited for at a barrier that has no arrival in its episode. -/
theorem State.team?_settleBarrier_empty (h : s.team? tid = some x) (hb : (x.barrier n).arrived = []) :
    ∃ y, (s.settleBarrier tid n).team? tid = some y ∧ y.barrier n = x.barrier n :=
  ⟨_, State.team?_settleBarrier h, by rw [Team.barrier_setBarrier, Barrier.settle_of_empty hb]⟩

/-- The state in which a group has passed a barrier: its arrival is over, and it has acquired (R132, R362). -/
def State.passedBar (s : State) (g : Group) (n : Nat) (done : State → State) : State :=
  (((done (s.settleBarrier g.team n)).modGroup s.cur fun g => g.setArrived n none).hear (coreOf s.cur)
    (s.teamCores g)).dropValid (coreOf s.cur)

section Passed

variable {h : Group} {done : State → State}

/-- A group whose episode is over passes the barrier (R362). -/
theorem State.waitBar_over (hg : s.group? s.cur = some h) (hteam : h.team = g.team) (ho : barOver s h n) :
    s.waitBar g n done = .ok (s.passedBar g n done) := by
  obtain ⟨x, e, hx, he, hlt⟩ := ho
  have hx' : (s.settleBarrier g.team n).team? h.team = some (x.setBarrier n ((x.barrier n).settle (s.liveIndices g.team))) :=
    hteam ▸ State.team?_settleBarrier (hteam ▸ hx)
  have hdone : (s.settleBarrier g.team n).barDone h n = true := by
    simp only [State.barDone, hx', he, Team.barrier_setBarrier, decide_eq_true_eq]
    exact Nat.lt_of_lt_of_le hlt (Barrier.episode_le_settle _ _)
  have hg' : (s.settleBarrier g.team n).group? s.cur = some h := hg
  simp only [State.waitBar, hg', hdone, if_true]
  rfl

theorem State.group?_passedBar (hd : ∀ u, (done u).groups = u.groups) (hg : s.group? s.cur = some h) :
    (s.passedBar g n done).group? s.cur = some (h.setArrived n none) := by
  have hm := (State.MemStep.refl ((done (s.settleBarrier g.team n)).modGroup s.cur fun g => g.setArrived n none)).hear
    (core := coreOf s.cur) (cores := s.teamCores g)
  refine (hm.group? s.cur).trans ((State.group_modGroup _ _ _).trans ?_)
  rw [State.group?, hd]
  exact congrArg (Option.map _) hg

theorem State.team?_passedBar (hd : ∀ u, (done u).teams = u.teams) :
    (s.passedBar g n done).team? tid = (s.settleBarrier g.team n).team? tid := by
  have hm := (State.MemStep.refl ((done (s.settleBarrier g.team n)).modGroup s.cur fun g => g.setArrived n none)).hear
    (core := coreOf s.cur) (cores := s.teamCores g)
  exact (hm.team? tid).trans (congrArg (Table.find · tid) (hd _))

end Passed

/-- The team of a group that retires counts one instruction more (R440). -/
theorem State.team?_retire {gid words : Nat} {slot : Bool} {op : Byte} (hg : s.group? gid = some g) (hx : s.team? g.team = some x) :
    (s.retire gid slot op words).team? g.team = some { x with retired := x.retired + 1 } := by
  unfold State.retire State.retired
  rw [State.group_modGroup, hg, Option.map_some]
  have hteam (f : PcSlot → PcSlot) : (g.modPc slot f).team = g.team := by cases slot <;> rfl
  dsimp only
  rw [hteam]
  exact (State.team_modTeam _ _ _).trans (by rw [State.team?, State.setGroup_teams, State.modGroup_teams]; exact congrArg _ hx)

/-! The instructions. -/

variable {v : DWord}

/-- `barwt` of a barrier whose episode is over. -/
theorem barwtBody_over (hn : v.toNat ≤ 15) (htwo : g.two = false) (hg : s.group? s.cur = some g) (ho : barOver s g v.toNat) :
    barwtBody v g s = .ok (s.passedBar g v.toNat id) := by
  obtain ⟨x, e, -, he, -⟩ := id ho
  simp only [barwtBody, if_neg (Nat.not_lt.2 hn), htwo, he, Option.isNone_some, Bool.or_false, Bool.false_eq_true, if_false]
  exact State.waitBar_over hg rfl ho

/-- `bar` that has arrived at a barrier whose episode is over. -/
theorem barBody_held {p : Pend} (hp : s.held? s.cur s.curSlot (pcOf s g) = some p) (hg : s.group? s.cur = some g)
    (ho : barOver s g v.toNat) : barBody v g s = .ok (s.passedBar g v.toNat fun s => s.dropPend p.id) := by
  have hp' : s.held? s.cur s.curSlot (s.pcNow g) = some p := hp
  simp only [barBody, hp']
  exact State.waitBar_over hg rfl ho

/-- `barar` of the last group to arrive. -/
theorem bararBody_last (hn : v.toNat ≤ 15) (htwo : g.two = false) (hg : s.group? s.cur = some g)
    (hl : lastToArrive s g x v.toNat) (hr : relReady s g true false) :
    bararBody v g s = .ok ((s.releasedBy (s.acc g) false).arriveBar g v.toNat) := by
  simp only [bararBody, if_neg (Nat.not_lt.2 hn), htwo, hl.2.1, Option.isSome_none, Bool.or_false, Bool.false_eq_true, if_false]
  exact State.release_ready hg hr _

/-- The state in which the last group to arrive at a barrier waits there. -/
def State.lastWaits (s : State) (g : Group) (n : Nat) : State :=
  let s1 := s.releasedBy (s.acc g) false
  (s1.fresh.2.arriveBar g n).addPend { Pend.of s1.nextId s.cur s.curSlot (pcOf s g) 0 with why := .bar n }

theorem State.memStep_releasedBy : s.MemStep (s.releasedBy (s.acc g) false) := (State.MemStep.refl s).flushCore

/-- The last group to arrive at a barrier waits for nobody (R362). -/
theorem State.lastWaits_spec (hg : s.group? s.cur = some g) (hend : g.ended = false) (hl : lastToArrive s g x n) :
    (∃ y, (s.lastWaits g n).team? g.team = some y ∧ y.barrier n = { episode := (x.barrier n).episode + 1, arrived := [] }) ∧
      (s.lastWaits g n).group? s.cur = some (g.setArrived n (some (x.barrier n).episode)) ∧ (s.lastWaits g n).cur = s.cur := by
  have hm : s.MemStep (s.releasedBy (s.acc g) false).fresh.2 := State.memStep_releasedBy.fresh
  have hg1 : (s.releasedBy (s.acc g) false).fresh.2.group? (s.releasedBy (s.acc g) false).fresh.2.cur = some g := by
    rw [hm.cur, hm.group?, hg]
  have h := State.arriveBar_last hg1 hend (hm.lastToArrive hl)
  rwa [hm.cur] at h

/-- `bar` of the last group to arrive: it passes what it has just completed. -/
theorem barBody_last (hp : s.held? s.cur s.curSlot (pcOf s g) = none) (hn : v.toNat ≤ 15) (htwo : g.two = false)
    (hg : s.group? s.cur = some g) (hend : g.ended = false) (hl : lastToArrive s g x v.toNat) (hr : relReady s g true false) :
    barBody v g s = .ok ((s.lastWaits g v.toNat).passedBar g v.toNat fun u =>
      u.dropPend (s.releasedBy (s.acc g) false).nextId) := by
  have hp' : s.held? s.cur s.curSlot (s.pcNow g) = none := hp
  obtain ⟨⟨y, hy, hb⟩, hgroup, hcur⟩ := State.lastWaits_spec hg hend hl
  simp only [barBody, hp', if_neg (Nat.not_lt.2 hn), htwo, hl.2.1, Option.isSome_none, Bool.or_false, Bool.false_eq_true, if_false]
  refine (State.release_ready hg hr _).trans ?_
  refine State.waitBar_over (h := g.setArrived v.toNat (some (x.barrier v.toNat).episode)) (hcur ▸ hgroup) rfl
    ⟨y, _, hy, Group.arrivedAt_setArrived _ _ _, ?_⟩
  rw [hb]
  exact Nat.lt_succ_self _

end Sys2Proof.Machine

namespace Sys2Proof.Claims
open Sys2Proof.Machine

variable {s u : State} {g h : Group} {t : Team} {op : Byte} {words n : Nat}

theorem keepsOthers_refl {ds : List Byte} {vs : List Nat} : keepsOthers g g ds vs :=
  ⟨fun _ _ => rfl, fun _ _ _ => rfl, rfl, rfl, rfl, rfl, rfl, rfl, rfl, rfl, rfl, rfl, rfl, rfl, rfl, rfl⟩

theorem keepsOthers_setArrived {ds : List Byte} {vs : List Nat} {e : Option Nat} (hk : keepsOthers g h ds vs) :
    keepsOthers g (h.setArrived n e) ds vs := hk

theorem Group.passed_arrivedAt {slot : Bool} {age ws wc : Nat} {w : Wait} (n : Nat) :
    (g.passed slot op words age w ws wc).arrivedAt n = g.arrivedAt n := by cases slot <;> rfl

theorem Group.passed_gangArrived {slot : Bool} {age ws wc : Nat} {w : Wait} :
    (g.passed slot op words age w ws wc).gangArrived = g.gangArrived := by cases slot <;> rfl

/-- What retiring leaves of a group that differs from the current one in its arrivals at most. -/
theorem arrivals_retire {k : Group} (hu : u.group? s.cur = some k) (h0 : k.slot0 = g.slot0) (h1 : k.slot1 = g.slot1)
    (hk : keepsOthers g k [] []) :
    ∃ h, (u.retire s.cur s.curSlot op words).group? s.cur = some h ∧ passes s g h op words ∧
      (∀ n, h.arrivedAt n = k.arrivedAt n) ∧ h.gangArrived = k.gangArrived ∧ keepsOthers g h [] [] := by
  exact ⟨_, State.group?_retire hu, passes_passed h0 h1, Group.passed_arrivedAt, Group.passed_gangArrived, keepsOthers_passed hk⟩

/-- A group beyond a barrier (R362): it has no arrival there any more. -/
def beyondBar (s : State) (g : Group) (n : Nat) (u : State) (op : Byte) (words : Nat) : Prop :=
  ∃ h : Group, u.group? s.cur = some h ∧ passes s g h op words ∧ h.arrivedAt n = none ∧ keepsOthers g h [] []

theorem beyondBar_passedBar {done : State → State} (hd : ∀ u, (done u).groups = u.groups) (hg : s.group? s.cur = some g) :
    beyondBar s g n ((s.passedBar g n done).retire s.cur s.curSlot op words) op words := by
  obtain ⟨h, hh, hpass, harr, -, hkeep⟩ := arrivals_retire (op := op) (words := words) (State.group?_passedBar (n := n) (g := g) hd hg)
    rfl rfl (keepsOthers_setArrived keepsOthers_refl)
  exact ⟨h, hh, hpass, (harr n).trans (Group.arrivedAt_setArrived _ _ _), hkeep⟩

/-- The last group to arrive at a barrier has completed its episode and passed it (R362). -/
def lastAtBar (s : State) (g : Group) (t : Team) (n : Nat) (u : State) (op : Byte) (words : Nat) : Prop :=
  ∃ (h : Group) (t' : Team), u.group? s.cur = some h ∧ passes s g h op words ∧ u.team? g.team = some t' ∧
    (t'.barrier n).episode = (t.barrier n).episode + 1 ∧ (t'.barrier n).arrived = [] ∧ h.arrivedAt n = none ∧ keepsOthers g h [] []

theorem lastAtBar_lastWaits {id : Nat} (hg : s.group? s.cur = some g) (hend : g.ended = false) (hl : lastToArrive s g t n) :
    lastAtBar s g t n (((s.lastWaits g n).passedBar g n fun u => u.dropPend id).retire s.cur s.curSlot op words) op words := by
  obtain ⟨⟨y, hy, hb⟩, hgroup, hcur⟩ := State.lastWaits_spec hg hend hl
  have hg' := State.group?_passedBar (s := s.lastWaits g n) (g := g) (n := n) (done := fun u => u.dropPend id) (fun _ => rfl)
    ((congrArg (State.group? _) hcur).trans hgroup)
  rw [hcur] at hg'
  obtain ⟨z, hz, hzb⟩ := State.team?_settleBarrier_empty hy (congrArg Barrier.arrived hb)
  have hteam : ((s.lastWaits g n).passedBar g n fun u => u.dropPend id).team? g.team = some z :=
    (State.team?_passedBar (s := s.lastWaits g n) (g := g) (n := n) (done := fun u => u.dropPend id) fun _ => rfl).trans hz
  have hk : keepsOthers g ((g.setArrived n (some (t.barrier n).episode)).setArrived n none) [] [] :=
    keepsOthers_setArrived (keepsOthers_setArrived keepsOthers_refl)
  obtain ⟨h, hh, hpass, harr, -, hkeep⟩ := arrivals_retire (op := op) (words := words) hg' rfl rfl hk
  have hb' : ({ z with retired := z.retired + 1 } : Team).barrier n = { episode := (t.barrier n).episode + 1, arrived := [] } :=
    hzb.trans hb
  have hret := State.team?_retire (op := op) (words := words) (slot := s.curSlot) hg' hteam
  exact ⟨h, _, hh, hpass, hret, congrArg Barrier.episode hb', congrArg Barrier.arrived hb',
    (harr n).trans (Group.arrivedAt_setArrived _ _ _), hkeep⟩

/-- A group that has recorded its arrival at a barrier (R362). -/
def recordedAtBar (s : State) (g : Group) (t : Team) (n : Nat) (u : State) (op : Byte) (words : Nat) : Prop :=
  ∃ h : Group, u.group? s.cur = some h ∧ passes s g h op words ∧ h.arrivedAt n = some (t.barrier n).episode ∧ keepsOthers g h [] []

theorem recordedAtBar_arriveBar (hg : s.group? s.cur = some g) (hend : g.ended = false) (hl : lastToArrive s g t n) :
    recordedAtBar s g t n (((s.releasedBy (s.acc g) false).arriveBar g n).retire s.cur s.curSlot op words) op words := by
  have hm : s.MemStep (s.releasedBy (s.acc g) false) := State.memStep_releasedBy
  have hg1 : (s.releasedBy (s.acc g) false).group? (s.releasedBy (s.acc g) false).cur = some g := by
    rw [hm.cur, hm.group?, hg]
  obtain ⟨-, hgroup, -⟩ := State.arriveBar_last hg1 hend (hm.lastToArrive hl)
  rw [hm.cur] at hgroup
  obtain ⟨h, hh, hpass, harr, -, hkeep⟩ := arrivals_retire (op := op) (words := words) hgroup rfl rfl
    (keepsOthers_setArrived keepsOthers_refl)
  exact ⟨h, hh, hpass, (harr n).trans (Group.arrivedAt_setArrived _ _ _), hkeep⟩

/-! Each instruction, in a form whose operand N is `v`. -/

section Issue

variable {used : List Nat} {v : DWord}

theorem bar_last_issue (hr : ready s g used) (hv : v.toNat ≤ 15) (htwo : g.two = false)
    (hp : s.held? s.cur s.curSlot (pcOf s g) = none) (hl : lastToArrive s g t v.toNat) (hrel : relReady s g true false) :
    ∃ u, s.issueWith op words used (barBody v) = .next u ∧ lastAtBar s g t v.toNat u op words :=
  have ⟨hg, _, hend⟩ := State.current_eq hr.1
  ⟨_, issue_ok hr (barBody_last hp hv htwo hg hend hl hrel), lastAtBar_lastWaits hg hend hl⟩

theorem bar_held_issue {p : Pend} (hr : ready s g used) (hp : s.held? s.cur s.curSlot (pcOf s g) = some p)
    (ho : barOver s g v.toNat) :
    ∃ u, s.issueWith op words used (barBody v) = .next u ∧ beyondBar s g v.toNat u op words :=
  have hg := (State.current_eq hr.1).1
  ⟨_, issue_ok hr (barBody_held hp hg ho), beyondBar_passedBar (fun _ => rfl) hg⟩

theorem barar_last_issue (hr : ready s g used) (hv : v.toNat ≤ 15) (htwo : g.two = false)
    (hl : lastToArrive s g t v.toNat) (hrel : relReady s g true false) :
    ∃ u, s.issueWith op words used (bararBody v) = .next u ∧ recordedAtBar s g t v.toNat u op words :=
  have ⟨hg, _, hend⟩ := State.current_eq hr.1
  ⟨_, issue_ok hr (bararBody_last hv htwo hg hl hrel), recordedAtBar_arriveBar hg hend hl⟩

theorem barwt_over_issue (hr : ready s g used) (hv : v.toNat ≤ 15) (htwo : g.two = false) (ho : barOver s g v.toNat) :
    ∃ u, s.issueWith op words used (barwtBody v) = .next u ∧ beyondBar s g v.toNat u op words :=
  have hg := (State.current_eq hr.1).1
  ⟨_, issue_ok hr (barwtBody_over hv htwo hg ho), beyondBar_passedBar (fun _ => rfl) hg⟩

end Issue

end Sys2Proof.Claims
end

section
/-! SUPPORT. The lead of a gang (R363, R401): which team it is while one team's barrier changes. -/

namespace Sys2Proof.Machine

variable {s : State} {T : Table Team} {gang k : Nat} {x y : Team} {z : Nat × Team}

/-- The team of a gang in a table that holds its `gangsync` barrier: the first of those with the lowest GTEAM. -/
def leadIn (T : Table Team) (gang : Nat) : Option (Nat × Team) :=
  List.argmin (fun e => e.2.gteam) (Table.select T fun _ t => t.gang == gang)

theorem State.gangLead_eq : s.gangLead gang = leadIn s.teams gang := by
  refine congrArg (fun f => List.foldl f none (s.teamsOf gang)) (funext fun best => funext fun e => ?_)
  cases best <;> rfl

theorem leadIn_cons_of_ne {j : Nat} (h : x.gang ≠ gang) : leadIn ((j, x) :: T) gang = leadIn T gang := by
  simp [leadIn, Table.select, h]

/-- The lead of teams with one before them: the lower GTEAM, and the one before them where that is the same. -/
def leadOf (e : Nat × Team) (best : Option (Nat × Team)) : Option (Nat × Team) :=
  match best with
  | none => some e
  | some c => if c.2.gteam < e.2.gteam then some c else some e

theorem leadOf_eq {e : Nat × Team} {best : Option (Nat × Team)} (h : leadOf e best = some z) :
    z = e ∨ best = some z ∧ z.2.gteam < e.2.gteam := by
  unfold leadOf at h
  split at h
  · cases h
    exact .inl rfl
  next c =>
    split at h
    next hlt =>
      cases h
      exact .inr ⟨rfl, hlt⟩
    · cases h
      exact .inl rfl

theorem leadOf_le {e : Nat × Team} {best : Option (Nat × Team)} (h : leadOf e best = some z) : z.2.gteam ≤ e.2.gteam := by
  obtain rfl | ⟨-, hlt⟩ := leadOf_eq h
  · exact Nat.le_refl _
  · exact hlt.le

theorem leadIn_cons {j : Nat} (h : x.gang = gang) : leadIn ((j, x) :: T) gang = leadOf (j, x) (leadIn T gang) := by
  have hsel : Table.select ((j, x) :: T) (fun _ t => t.gang == gang) = (j, x) :: Table.select T fun _ t => t.gang == gang := by
    simp [Table.select, h]
  rw [leadIn, hsel, List.argmin_cons]
  unfold leadIn
  cases List.argmin (fun e => e.2.gteam) (Table.select T fun _ t => t.gang == gang) <;> rfl

/-- A lead with the number of a team of its gang is that team, or one of a lower GTEAM. -/
theorem leadIn_find (hz : leadIn T gang = some z) (hk : z.1 = k) (hx : Table.find T k = some x) (hg : x.gang = gang) :
    z = (k, x) ∨ z.2.gteam < x.gteam := by
  induction T with
  | nil => cases hx
  | cons e T ih =>
    obtain ⟨j, c⟩ := e
    rw [Table.find_cons] at hx
    by_cases hj : j = k
    · rw [if_pos hj] at hx
      cases hx
      rw [leadIn_cons hg] at hz
      exact (leadOf_eq hz).imp (fun h => by rw [h, hj]) fun h => h.2
    · rw [if_neg hj] at hx
      by_cases hc : c.gang = gang
      · rw [leadIn_cons hc] at hz
        obtain rfl | ⟨hz, -⟩ := leadOf_eq hz
        · exact absurd hk hj
        · exact ih hz hx
      · exact ih ((leadIn_cons_of_ne hc).symm.trans hz) hx

/-- A team of another gang written anew does not change the lead. -/
theorem leadIn_set_of_ne (hx : Table.find T k = some x) (hxg : x.gang ≠ gang) (hyg : y.gang ≠ gang) :
    leadIn (Table.set T k y) gang = leadIn T gang := by
  induction T with
  | nil => cases hx
  | cons e T ih =>
    obtain ⟨j, c⟩ := e
    rw [Table.find_cons] at hx
    unfold Table.set
    split
    · exact leadIn_cons_of_ne hyg
    · split
      next hkj =>
        rw [if_pos hkj.symm] at hx
        cases hx
        rw [leadIn_cons_of_ne hyg, leadIn_cons_of_ne hxg]
      next hkj =>
        rw [if_neg (Ne.symm hkj)] at hx
        by_cases hc : c.gang = gang
        · rw [leadIn_cons hc, leadIn_cons hc, ih hx]
        · rw [leadIn_cons_of_ne hc, leadIn_cons_of_ne hc, ih hx]

/-- A team written anew with its gang and its GTEAM: the lead is as before, or it is that team. -/
theorem leadIn_set (hx : Table.find T k = some x) (hxg : x.gang = gang) (hyg : y.gang = gang) (hgteam : y.gteam = x.gteam) :
    leadIn (Table.set T k y) gang = leadIn T gang ∨
      leadIn (Table.set T k y) gang = some (k, y) ∧
        ∀ z, leadIn T gang = some z → y.gteam ≤ z.2.gteam ∧ (z.1 = k → z = (k, x)) := by
  induction T with
  | nil => cases hx
  | cons e T ih =>
    obtain ⟨j, c⟩ := e
    have hfind := hx
    rw [Table.find_cons] at hx
    unfold Table.set
    split
    next hkj =>
      rw [leadIn_cons hyg]
      cases hz : leadIn ((j, c) :: T) gang with
      | none => exact .inr ⟨rfl, nofun⟩
      | some z =>
        by_cases hlt : z.2.gteam < y.gteam
        · exact .inl (if_pos hlt)
        · refine .inr ⟨if_neg hlt, fun w hw => ?_⟩
          cases hw
          exact ⟨Nat.le_of_not_lt hlt, fun hk => (leadIn_find hz hk hfind hxg).resolve_right fun h => hlt (hgteam ▸ h)⟩
    next hkj =>
      split
      next hj =>
        rw [if_pos hj.symm] at hx
        cases hx
        rw [leadIn_cons hyg, leadIn_cons hxg]
        cases hz : leadIn T gang with
        | none => exact .inr ⟨rfl, fun z hz => by cases hz; exact ⟨hgteam.le, fun _ => by rw [hj]⟩⟩
        | some z =>
          by_cases hlt : z.2.gteam < y.gteam
          · exact .inl ((if_pos hlt).trans (if_pos (hgteam ▸ hlt)).symm)
          · refine .inr ⟨if_neg hlt, fun w hw => ?_⟩
            rw [leadOf, if_neg (hgteam ▸ hlt)] at hw
            cases hw
            exact ⟨hgteam.le, fun _ => by rw [hj]⟩
      next hj =>
        rw [if_neg (Ne.symm hj)] at hx
        by_cases hc : c.gang = gang
        · rw [leadIn_cons hc, leadIn_cons hc]
          obtain hsame | ⟨hy, hold⟩ := ih hx
          · exact .inl (congrArg _ hsame)
          · rw [hy]
            by_cases hlt : y.gteam < c.gteam
            · refine .inr ⟨if_pos hlt, fun z hz => ?_⟩
              obtain rfl | ⟨hz, -⟩ := leadOf_eq hz
              · exact ⟨hlt.le, fun hk => absurd hk.symm hj⟩
              · exact hold z hz
            · refine .inl ((if_neg hlt).trans ?_)
              cases hz : leadIn T gang with
              | none => rfl
              | some z => exact (if_neg fun h => hlt (Nat.lt_of_le_of_lt (hold z hz).1 h)).symm
        · rw [leadIn_cons_of_ne hc, leadIn_cons_of_ne hc]
          exact ih hx

/-- Where the team with the lead's number goes on in its `gangsync` barrier, so does the lead. -/
theorem leadIn_modify {f : Team → Team} {l : Nat × Team} (hgang : ∀ t, (f t).gang = t.gang) (hgteam : ∀ t, (f t).gteam = t.gteam)
    (hep : ∀ t, t.gangSync.episode ≤ (f t).gangSync.episode) (hl : leadIn T gang = some l) :
    ∃ m, leadIn (Table.modify T l.1 f) gang = some m ∧ l.2.gangSync.episode ≤ m.2.gangSync.episode := by
  unfold Table.modify
  split
  next x hx =>
    by_cases hxg : x.gang = gang
    · obtain hsame | ⟨hnew, hold⟩ := leadIn_set hx hxg ((hgang x).trans hxg) (hgteam x)
      · exact ⟨l, hsame.trans hl, Nat.le_refl _⟩
      · exact ⟨_, hnew, by rw [(hold l hl).2 rfl]; exact hep x⟩
    · exact ⟨l, (leadIn_set_of_ne hx hxg fun h => hxg ((hgang x).symm.trans h)).trans hl, Nat.le_refl _⟩
  · exact ⟨l, hl, Nat.le_refl _⟩

/-- The lead of a gang whose barrier is brought up to date stands at its episode or at a later one (R363). -/
theorem State.gangLead_settleGang {l : Nat × Team} (hl : s.gangLead gang = some l) :
    ∃ m, (s.settleGang gang).gangLead gang = some m ∧ l.2.gangSync.episode ≤ m.2.gangSync.episode := by
  simp only [State.settleGang, hl, State.gangLead_eq]
  rw [State.gangLead_eq] at hl
  exact leadIn_modify (fun _ => rfl) (fun _ => rfl) (fun t => t.gangSync.episode_le_settle _) hl

theorem State.groups_settleGang : (s.settleGang gang).groups = s.groups := by
  unfold State.settleGang
  split <;> rfl

/-- The state in which a group has passed its gang's barrier (R132, R363). -/
def State.passedGang (s : State) (g : Group) (done : State → State) : State :=
  (((done (s.settleGang (s.gangOf g))).modGroup s.cur fun g => { g with gangArrived := none }).hear (coreOf s.cur)
    (s.coresWithGang g)).dropValid (coreOf s.cur)

section Passed

variable {g : Group} {done : State → State}

/-- A group whose episode at its gang's barrier is over passes it (R363). -/
theorem State.waitGang_over {l : Nat × Team} {e : Nat} (hg : s.group? s.cur = some g) (hx : s.team? g.team = some x)
    (hl : s.gangLead x.gang = some l) (he : g.gangArrived = some e) (hlt : e < l.2.gangSync.episode) :
    s.waitGang g done = .ok (s.passedGang g done) := by
  have hgang : s.gangOf g = x.gang := by rw [State.gangOf, hx, Option.map_some, Option.getD_some]
  obtain ⟨m, hm, hle⟩ := State.gangLead_settleGang hl
  have hg' : (s.settleGang (s.gangOf g)).group? s.cur = some g := (congrArg (Table.find · s.cur) State.groups_settleGang).trans hg
  rw [← hgang] at hm
  have hover : decide (e < m.2.gangSync.episode) = true := decide_eq_true (Nat.lt_of_lt_of_le hlt hle)
  simp only [State.waitGang, hg', hm, he, Option.elim_some, hover, if_true]
  rfl

theorem State.group?_passedGang (hd : ∀ u, (done u).groups = u.groups) (hg : s.group? s.cur = some g) :
    (s.passedGang g done).group? s.cur = some { g with gangArrived := none } := by
  have hm := (State.MemStep.refl ((done (s.settleGang (s.gangOf g))).modGroup s.cur fun g => { g with gangArrived := none })).hear
    (core := coreOf s.cur) (cores := s.coresWithGang g)
  refine (hm.group? s.cur).trans ((State.group_modGroup _ _ _).trans ?_)
  rw [State.group?, hd, State.groups_settleGang]
  exact congrArg (Option.map _) hg

end Passed

end Sys2Proof.Machine

namespace Sys2Proof.Claims
open Sys2Proof.Machine

variable {s : State} {g : Group}

/-- `gangsync` that has arrived at a barrier whose episode is over (R363). -/
theorem gangsync_over {t : Team} {l : Nat × Team} {p : Pend} {e : Nat} {f : ExtA} (hr : ready s g (namedA 0xFA f))
    (hp : s.held? s.cur s.curSlot (pcOf s g) = some p) (hx : s.team? g.team = some t) (hl : s.gangLead t.gang = some l)
    (he : g.gangArrived = some e) (hlt : e < l.2.gangSync.episode) :
    ∃ (u : State) (h : Group), exec (.gangsync f) s = .next u ∧ u.group? s.cur = some h ∧ passes s g h 0xFA 3 ∧
      h.gangArrived = none ∧ keepsOthers g h [] [] := by
  have hg := (State.current_eq hr.1).1
  have hp' : s.held? s.cur s.curSlot (s.pcNow g) = some p := hp
  have hbody : gangsyncBody g s = .ok (s.passedGang g fun u => u.dropPend p.id) := by
    simp only [gangsyncBody, hp']
    exact State.waitGang_over hg hx hl he hlt
  obtain ⟨h, hh, hpass, -, hgone, hkeep⟩ := arrivals_retire (op := 0xFA) (words := 3)
    (State.group?_passedGang (done := fun u => u.dropPend p.id) (fun _ => rfl) hg) rfl rfl keepsOthers_refl
  exact ⟨_, h, (State.execA_ready hr).trans (by rw [hbody]; rfl), hh, hpass, hgone, hkeep⟩

end Sys2Proof.Claims
end

section
/-! Barriers of a team and of a gang (O32). -/

namespace Sys2Proof.Claims
open Sys2Proof.Machine

variable {s : State} {g : Group} {op : Byte}

/-- A compact form with operand N issues its body at s[B] (R229). -/
theorem execN_eq {w : Word0} (body : DWord → Group → State → Res) (hg : s.current = some g) :
    s.execN op w body = s.issueWith op 1 (namedC op w) (body (g.compactN w)) := by
  change s.issueWith op 1 (namedC op w) (fun g => body (g.compactN w) g) = _
  simp only [State.issueWith, hg]

/-- Operand N of an extended form (R229). -/
theorem operandN_toNat {f : ExtA} {n : Nat} (hn : n ≤ 15) (hf : f.w2 = BitVec.ofNat 32 n) : (operandN f).toNat = n := by
  rw [operandN, hf, BitVec.toNat_setWidth, BitVec.toNat_ofNat]
  omega

end Sys2Proof.Claims

namespace Sys2Proof
open Sys2Proof.Machine Sys2Proof.Claims

/-- Settles O32, by what the last arrival at a barrier completes, and by what a wait leaves whose episode is over. -/
theorem barriers : Obligations.Barriers := by
  intro s g t n hn htwo
  refine ⟨fun f hf hr hp hl hrel => ?_, fun w hw hr hp hl hrel => ?_, fun f hf hr hl hrel => ?_, fun w hw hr hl hrel => ?_,
    fun f hf hr ho => ?_, fun w hw hr ho => ?_, fun f p hf hr hp ho => ?_,
    fun f p l e hr hp hx hl he hlt => gangsync_over hr hp hx hl he hlt⟩
  · obtain rfl := operandN_toNat hn hf
    exact bar_last_issue hr hn htwo hp hl hrel
  · obtain rfl : (g.compactN w).toNat = n := hw
    obtain ⟨u, hu, h⟩ := bar_last_issue hr hn htwo hp hl hrel
    exact ⟨u, (execN_eq barBody hr.1).trans hu, h⟩
  · obtain rfl := operandN_toNat hn hf
    exact barar_last_issue hr hn htwo hl hrel
  · obtain rfl : (g.compactN w).toNat = n := hw
    obtain ⟨u, hu, h⟩ := barar_last_issue hr hn htwo hl hrel
    exact ⟨u, (execN_eq bararBody hr.1).trans hu, h⟩
  · obtain rfl := operandN_toNat hn hf
    exact barwt_over_issue hr hn htwo ho
  · obtain rfl : (g.compactN w).toNat = n := hw
    obtain ⟨u, hu, h⟩ := barwt_over_issue hr hn htwo ho
    exact ⟨u, (execN_eq barwtBody hr.1).trans hu, h⟩
  · obtain rfl := operandN_toNat hn hf
    exact bar_held_issue hr hp ho

end Sys2Proof
end

section
/-! SUPPORT. What an engine does to a request that is not there, is not due, or is due (R134, R366 to R371). -/

namespace Sys2Proof.Machine

variable {s : State} {id : Nat} {r : EngReq}

/-- A list mapped over: what is sought is found in its place, where the map keeps what it is sought by. -/
theorem State.request?_map {f : EngReq → EngReq} (hf : ∀ e, (f e).id = e.id) (h : s.request? id = some r) :
    ({ s with engines := s.engines.map f } : State).request? id = some (f r) := by
  unfold State.request? at h ⊢
  rw [List.find?_map]
  have hsame : ((fun r => r.id == id) ∘ f) = fun r : EngReq => r.id == id := funext fun e => by rw [Function.comp, hf]
  rw [hsame, h, Option.map_some]

theorem State.request?_id (h : s.request? id = some r) : r.id = id := by
  simpa using List.find?_some h

/-- A request written anew. -/
theorem State.request?_setRequest {y : EngReq} (h : s.request? id = some r) (hid : y.id = id) :
    (s.setRequest y).request? id = some y := by
  have hf (e : EngReq) : (if e.id == y.id then y else e).id = e.id := by
    split
    next he => exact (beq_iff_eq.1 he).symm
    · rfl
  refine (State.request?_map hf h).trans ?_
  rw [State.request?_id h, hid, beq_self_eq_true, if_pos rfl]

/-- A request ends with the cause that it has, or with the one given. -/
theorem State.request?_engineDone {c : Cause} (h : s.request? id = some r) :
    ∃ y, (s.engineDone id (some c)).request? id = some y ∧ y.finished = true ∧ y.wait = r.wait ∧ y.cause = some (r.cause.getD c) := by
  have hid := State.request?_id h
  refine ⟨_, State.request?_map (fun e => ?_) h, ?_⟩
  · split <;> rfl
  · rw [hid, beq_self_eq_true, if_pos rfl]
    refine ⟨rfl, rfl, ?_⟩
    cases r.cause <;> rfl

end Sys2Proof.Machine

namespace Sys2Proof.Claims
open Sys2Proof.Machine

variable {s s1 : State} {id : Nat} {r : EngReq}

/-- A request on which an engine works goes on, for a tenant that runs (R37). -/
theorem works_split (h : s.works r = true) :
    r.finished = false ∧ r.wait.isSome = false ∧ s.tenantRuns r.bh r.supervisor = true := by
  simp only [State.works, EngReq.running, Bool.and_eq_true, Bool.not_eq_true', Option.isNone_iff_eq_none] at h
  obtain ⟨⟨hfin, hwait⟩, hruns⟩ := h
  exact ⟨hfin, by rw [hwait]; rfl, hruns⟩

theorem engines_idle (h : s.request? id = none) :
    goes (.copyRequest id) s s ∧ goes (.copyPiece id) s s ∧ goes (.engineRetirement id) s s ∧
      (∀ rank data, goes (.collectiveStep id rank data) s s) ∧ goes (.collCancel id) s s := by
  refine ⟨?_, ?_, ?_, fun rank data => ?_, ?_⟩
  · change execCopyRequest id s = _
    simp only [execCopyRequest, h]
  · change execCopyPiece id s = _
    simp only [execCopyPiece, h]
  · change execEngineRetirement id s = _
    simp only [execEngineRetirement, h]
  · change execCollectiveStep id rank data s = _
    simp only [execCollectiveStep, h]
  · change execCollCancel id s = _
    simp only [execCollCancel, h]

/-! The copy engine (R366 to R368). -/

section Copy

variable {addr : DWord} {row pos wr : Nat}

theorem copyPiece_waits (hr : s.request? id = some r) (h : r.wait.isSome = true ∨ s.tenantRuns r.bh r.supervisor = false) :
    goes (.copyPiece id) s s := by
  change execCopyPiece id s = _
  have hstop : (r.wait.isSome || !s.tenantRuns r.bh r.supervisor) = true := by
    simpa only [Bool.or_eq_true, Bool.not_eq_true'] using h
  simp only [execCopyPiece, hr, hstop, if_true]

/-- A request on which nothing is left to be written or to be subtracted. -/
theorem copyPiece_over (hr : s.request? id = some r) (hfin : r.finished = true) (howed : r.owed = []) :
    goes (.copyPiece id) s s := by
  change execCopyPiece id s = _
  have hpaid : s.owedPiece r = none := by rw [State.owedPiece, howed]; rfl
  simp only [execCopyPiece, hr, hfin, hpaid, Bool.true_or, if_true]
  split
  · rfl
  · split <;> rfl

/-- A refused record fails the request with COPY_FORM before any piece (R368). -/
theorem copyRequest_refused {v : Nat} (hr : s.request? id = some r) (hw : s.works r = true)
    (hk : r.kind = .copy addr none row pos wr) (hload : s.engineLoad (s.reqAsker r) addr 64 = .done (v, false) s1)
    (hrec : copyRec (dwordsOf v 8) = none) :
    goes (.copyRequest id) s ((s1.setRequest { r with kind := .copy addr (some (copyReport (dwordsOf v 8))) 0 0 0 }).engineDone id
      (some .copyForm)) := by
  change execCopyRequest id s = _
  simp only [execCopyRequest, hr, hk, hw, hload, hrec, Bool.not_true, Bool.false_eq_true, if_false]

theorem copyRequest_read {v : Nat} {x : CopyRec} (hr : s.request? id = some r) (hw : s.works r = true)
    (hk : r.kind = .copy addr none row pos wr) (hload : s.engineLoad (s.reqAsker r) addr 64 = .done (v, false) s1)
    (hrec : copyRec (dwordsOf v 8) = some x) (hne : x.rowBytes ≠ 0) :
    goes (.copyRequest id) s (s1.setRequest { r with kind := .copy addr (some x) 0 0 0 }) := by
  change execCopyRequest id s = _
  have hbytes : (x.rowBytes == 0) = false := beq_false_of_ne hne
  simp only [execCopyRequest, hr, hk, hw, hload, hrec, hbytes, Bool.not_true, Bool.false_eq_true, if_false]

theorem copyPiece_writes {x : CopyRec} (hr : s.request? id = some r) (hw : s.works r = true)
    (hk : r.kind = .copy addr (some x) row pos wr) (hrow : row < x.rows) (hpaid : s.owedPiece r = none) :
    goes (.copyPiece id) s (s.copyStep r addr x row pos wr) := by
  change execCopyPiece id s = _
  obtain ⟨hfin, hwait, hruns⟩ := works_split hw
  have hleft : (r.finished || decide (x.rows ≤ row)) = false := by rw [hfin, decide_eq_false (Nat.not_le.2 hrow)]; rfl
  simp only [execCopyPiece, hr, hk, hwait, hruns, hpaid, hleft, Bool.not_true, Bool.or_false, Bool.false_eq_true, if_false]

/-- An acknowledged piece is subtracted at the countdown object (R364). -/
theorem copyPiece_pays {x : CopyRec} {w : Nat × Nat} (hr : s.request? id = some r) (hwait : r.wait = none)
    (hruns : s.tenantRuns r.bh r.supervisor = true) (hk : r.kind = .copy addr (some x) row pos wr)
    (howed : s.owedPiece r = some w) : goes (.copyPiece id) s (s.payPiece r x.cntdn w) := by
  change execCopyPiece id s = _
  simp only [execCopyPiece, hr, hk, hwait, hruns, howed, Option.isSome_none, Bool.not_true, Bool.or_false, Bool.false_eq_true, if_false]

theorem copyPiece_mirrors {va : DWord} {off units : Nat} {toSpad : Bool} (hr : s.request? id = some r) (hw : s.works r = true)
    (hk : r.kind = .mirror va off units toSpad pos) : goes (.copyPiece id) s (s.mirrorStep r va off units toSpad pos) := by
  change execCopyPiece id s = _
  obtain ⟨hfin, hwait, hruns⟩ := works_split hw
  simp only [execCopyPiece, hr, hk, hwait, hruns, hfin, Bool.not_true, Bool.or_false, Bool.false_eq_true, if_false]

end Copy

/-! Retirement, and the collective engine (R134, R158, R369). -/

section Collective

variable {addr : DWord} {d : Table Nat} {rank : Nat} {data : List DWord}

theorem engineRetirement_request (hr : s.request? id = some r) (hk : ∀ addr t, r.kind ≠ .signal addr t) :
    goes (.engineRetirement id) s (if r.finished = true ∧ s.oldest r = true ∧ s.fabricDone r = true then s.retireRequest r else s) := by
  change execEngineRetirement id s = _
  simp only [execEngineRetirement, hr]
  cases h : r.kind with
  | signal addr t => exact absurd h (hk addr t)
  | _ => simp only [Bool.and_eq_true, and_assoc]

theorem engineRetirement_signal {t : Option Nat} (hr : s.request? id = some r) (hk : r.kind = .signal addr t) :
    goes (.engineRetirement id) s (if r.wait.isSome = true ∨ (s.bh r.bh).down = true then s else s.trySignal r addr t) := by
  change execEngineRetirement id s = _
  simp only [execEngineRetirement, hr, hk, Bool.or_eq_true]

theorem collectiveStep_idle (hr : s.request? id = some r) (hw : s.works r = false) :
    goes (.collectiveStep id rank data) s s := by
  change execCollectiveStep id rank data s = _
  simp only [execCollectiveStep, hr, hw, Bool.not_false, if_true]

theorem collectiveStep_begins (hr : s.request? id = some r) (hw : s.works r = true) (hk : r.kind = .coll addr none d) :
    goes (.collectiveStep id rank data) s (s.collBegin r addr) := by
  change execCollectiveStep id rank data s = _
  simp only [execCollectiveStep, hr, hk, hw, Bool.not_true, Bool.false_eq_true, if_false]

theorem collectiveStep_finishes {x : CollRec} (hr : s.request? id = some r) (hw : s.works r = true)
    (hk : r.kind = .coll addr (some x) d) (hfull : x.full? d = true) :
    goes (.collectiveStep id rank data) s (s.collFinish r x d) := by
  change execCollectiveStep id rank data s = _
  simp only [execCollectiveStep, hr, hk, hw, hfull, Bool.not_true, Bool.false_eq_true, if_false, if_true]

/-- A collective that is cancelled waits no more, and ends with COLL_CANCEL where it has no cause (R369, R392). -/
theorem collCancel_ends {x : Option CollRec} (hr : s.request? id = some r) (hk : r.kind = .coll addr x d) (hfin : r.finished = false) :
    reaches (.collCancel id) s fun t => ∃ y, t.request? id = some y ∧ y.finished = true ∧ y.wait = none ∧
      y.cause = some (r.cause.getD .collCancel) := by
  have hid : ({ r with wait := none } : EngReq).id = id := (State.request?_id hr :)
  refine ⟨(s.setRequest { r with wait := none }).engineDone id (some .collCancel), ?_,
    State.request?_engineDone (State.request?_setRequest hr hid)⟩
  change execCollCancel id s = _
  simp only [execCollCancel, hr, hk, hfin, Bool.false_eq_true, if_false]

end Collective

end Sys2Proof.Claims
end

section
/-! SUPPORT. What the matrix unit starts, completes and claims by itself (R335, R336, R338, R340). -/

namespace Sys2Proof.Machine

theorem MatUnit.claim_setClaim (u : MatUnit) (pair : Nat) (c : Option Nat) : (u.setClaim pair c).claim pair = c := by
  unfold MatUnit.setClaim MatUnit.claim
  by_cases h : pair = 0 <;> cases c <;> simp [h]

theorem MatUnit.ops_setClaim (u : MatUnit) (pair : Nat) (c : Option Nat) : (u.setClaim pair c).ops = u.ops := by
  unfold MatUnit.setClaim
  extract_lets u1
  have h1 : u1.ops = u.ops := by unfold u1; split <;> rfl
  split
  · exact h1
  · exact h1

end Sys2Proof.Machine

namespace Sys2Proof.Claims
open Sys2Proof.Machine

variable {s : State} {id part pair : Nat} {o : MatOp}

/-- The operations of a matrix unit at which the engine works (R37). -/
def unitWorks (s : State) (id : Nat) (o : MatOp) : Bool := s.worksFor (bhOfCore id) o.gid

/-- The operation that a matrix unit starts next (R336). -/
def startNext (s : State) (id part : Nat) : Option MatOp :=
  (s.unit id part).ops.find? fun o => unitWorks s id o && s.opMayStart id part (s.unit id part) o

/-- The operation that a matrix unit has started and can complete (R336). -/
def startedNow (s : State) (id part : Nat) : Option MatOp :=
  (s.unit id part).ops.find? fun o => o.started && unitWorks s id o

/-- A matrix unit with an operation started: a load claims its pair, where that is free (R338). -/
def startedUnit (s : State) (o : MatOp) (u : MatUnit) : MatUnit :=
  let u1 := match o.kind with
    | .load w _ _ _ _ _ => if (u.claim (w / 2)).isNone then u.setClaim (w / 2) (s.opTeam o) else u
    | _ => u
  { u1 with ops := u1.ops.map fun x => if x.id == o.id then { x with started := true } else x }

theorem ops_startedUnit (u : MatUnit) :
    (startedUnit s o u).ops = u.ops.map fun x => if x.id == o.id then { x with started := true } else x := by
  unfold startedUnit
  extract_lets u1
  have h1 : u1.ops = u.ops := by
    unfold u1
    split
    · split
      · exact u.ops_setClaim _ _
      · rfl
    · rfl
  rw [← h1]

/-- A matrix unit starts nothing while an operation has started, and nothing where none may start (R336). -/
theorem matrixOpStart_eq : exec (.matrixOpStart id part) s =
    if ((s.unit id part).ops.any fun o => o.started) = true then .next s
    else (startNext s id part).elim (.next s) fun o =>
      if (s.opCheck id part o == .passed) = true then .next (s.failOp id part o .accVersion)
      else .next (s.modUnit id part (startedUnit s o)) := by
  change execMatrixOpStart id part s = _
  unfold execMatrixOpStart startNext unitWorks
  extract_lets u
  split
  · rfl
  · cases u.ops.find? fun o => s.worksFor (bhOfCore id) o.gid && s.opMayStart id part u o <;> rfl

theorem any_started_eq_false {u : MatUnit} (h : ∀ o ∈ u.ops, o.started = false) :
    ¬ (u.ops.any fun o => o.started) = true := fun hany =>
  have ⟨o, ho, hst⟩ := List.any_eq_true.1 hany
  Bool.false_ne_true ((h o ho).symm.trans hst)

theorem matrixOpStart_idle (h : (∃ o ∈ (s.unit id part).ops, o.started = true) ∨ startNext s id part = none) :
    goes (.matrixOpStart id part) s s := by
  refine matrixOpStart_eq.trans ?_
  obtain hbusy | hnone := h
  · exact if_pos (List.any_eq_true.2 hbusy)
  · rw [hnone]
    exact ite_self _

/-- An operation whose version has passed is reported (R335). -/
theorem matrixOpStart_passed (hfree : ∀ o ∈ (s.unit id part).ops, o.started = false) (ho : startNext s id part = some o)
    (hver : s.opCheck id part o = .passed) : goes (.matrixOpStart id part) s (s.failOp id part o .accVersion) := by
  refine matrixOpStart_eq.trans ?_
  rw [if_neg (any_started_eq_false hfree), ho, Option.elim_some, hver]
  rfl

theorem matrixOpStart_starts (hfree : ∀ o ∈ (s.unit id part).ops, o.started = false) (ho : startNext s id part = some o)
    (hver : s.opCheck id part o ≠ .passed) :
    reaches (.matrixOpStart id part) s fun t => (∃ p ∈ (t.unit id part).ops, p.id = o.id ∧ p.started = true) ∧ t.home = s.home := by
  refine ⟨s.modUnit id part (startedUnit s o), matrixOpStart_eq.trans ?_, ⟨{ o with started := true }, ?_, rfl, rfl⟩, rfl⟩
  · rw [if_neg (any_started_eq_false hfree), ho, Option.elim_some, if_neg fun h => hver (beq_iff_eq.1 h)]
  · rw [State.unit_modUnit, ops_startedUnit]
    exact List.mem_map.2 ⟨o, List.mem_of_find?_eq_some ho, if_pos (beq_self_eq_true _)⟩

theorem matrixOpComplete_idle (hfree : ∀ o ∈ (s.unit id part).ops, o.started = false) : goes (.matrixOpComplete id part) s s := by
  change execMatrixOpComplete id part s = _
  have hnone : ((s.unit id part).ops.find? fun o => o.started && s.worksFor (bhOfCore id) o.gid) = none :=
    List.find?_eq_none.2 fun o ho => by
      rw [hfree o ho, Bool.false_and]
      exact Bool.false_ne_true
  simp only [execMatrixOpComplete, hnone]

section Complete

variable {r : EngReq} {t : Team}

/-- An operation that the plex refused leaves its tile unchanged (R336). -/
theorem matrixOpComplete_refused {c : Cause} (ho : startedNow s id part = some o) (hr : s.request? o.id = some r)
    (ht : (s.opTeam o).bind s.team? = some t) (hwait : r.wait = none) (hc : r.cause = some c) :
    goes (.matrixOpComplete id part) s (s.applyOut id part ((s.opTeam o).getD 0) o (.failed c r.addr)) := by
  change execMatrixOpComplete id part s = _
  have ho' : ((s.unit id part).ops.find? fun o => o.started && s.worksFor (bhOfCore id) o.gid) = some o := ho
  simp only [execMatrixOpComplete, ho', hr, ht, hwait, hc, Option.isSome_none, Bool.false_eq_true, if_false]

theorem matrixOpComplete_performs (ho : startedNow s id part = some o) (hr : s.request? o.id = some r)
    (ht : (s.opTeam o).bind s.team? = some t) (hwait : r.wait = none) (hc : r.cause = none) :
    goes (.matrixOpComplete id part) s ((s.matOut id part o t r).2.applyOut id part ((s.opTeam o).getD 0) o
      (s.matOut id part o t r).1) := by
  change execMatrixOpComplete id part s = _
  have ho' : ((s.unit id part).ops.find? fun o => o.started && s.worksFor (bhOfCore id) o.gid) = some o := ho
  simp only [execMatrixOpComplete, ho', hr, ht, hwait, hc, Option.isSome_none, Bool.false_eq_true, if_false]

end Complete

/-! A pair that is claimed, and one that a waiting load claims (R338, R340). -/

theorem slotPairFree_claimed (h : (((s.freePair id part (pair % 2)).unit id part).claim (pair % 2)).isSome = true) :
    goes (.slotPairFree id part pair) s (s.freePair id part (pair % 2)) := by
  change execSlotPairFree id part pair s = _
  simp only [execSlotPairFree, h, if_true]

theorem slotPairFree_claims (h : ((s.freePair id part (pair % 2)).unit id part).claim (pair % 2) = none)
    (ho : ((s.freePair id part (pair % 2)).unit id part).ops.find? (fun o => o.kind.isLoad &&
      (o.kind.slot?.elim false fun w => w / 2 == pair % 2)) = some o) :
    reaches (.slotPairFree id part pair) s fun t =>
      (t.unit id part).claim (pair % 2) = (s.freePair id part (pair % 2)).opTeam o := by
  refine ⟨(s.freePair id part (pair % 2)).modUnit id part fun u =>
    u.setClaim (pair % 2) ((s.freePair id part (pair % 2)).opTeam o), ?_, ?_⟩
  · change execSlotPairFree id part pair s = _
    simp only [execSlotPairFree, h, ho, Option.isSome_none, Bool.false_eq_true, if_false]
  · exact (congrArg (fun u => MatUnit.claim u (pair % 2)) (State.unit_modUnit _ _ _ _)).trans (MatUnit.claim_setClaim _ _ _)

end Sys2Proof.Claims
end

section
/-! SUPPORT. The capture queues of a bulkhead are left alone by the memory system and by a record of an event queue. As for
`State.MemStep`, it is one relation, and each operation is walked through once. -/

namespace Sys2Proof.Machine

variable {s t u v : State}

/-- Every capture queue holds what it held. -/
def State.SameQueues (s t : State) : Prop := ∀ b, (t.bh b).capq = (s.bh b).capq

theorem State.SameQueues.refl (s : State) : s.SameQueues s := fun _ => rfl

theorem State.SameQueues.ite {q : Prop} [Decidable q] (hu : s.SameQueues u) (hv : s.SameQueues v) :
    s.SameQueues (if q then u else v) := by
  split
  · exact hu
  · exact hv

theorem State.SameQueues.foldl {β : Type} {l : List β} {f : State → β → State} (h : s.SameQueues t)
    (hf : ∀ u b, s.SameQueues u → s.SameQueues (f u b)) : s.SameQueues (l.foldl f t) :=
  List.foldlRecOn l f h fun u hu b _ => hf u b hu

/-- What is written outside the bulkheads. -/
theorem State.SameQueues.of_bhs (h : s.SameQueues t) (hb : u.bhs = t.bhs) : s.SameQueues u := fun b =>
  (congrArg (fun x => (Table.findD x b Bulkhead.reset).capq) hb).trans (h b)

theorem State.SameQueues.modBh {b : Nat} {f : Bulkhead → Bulkhead} (h : s.SameQueues t)
    (hf : (f (t.bh b)).capq = (t.bh b).capq) : s.SameQueues (t.modBh b f) := fun j => by
  by_cases hj : j = b
  · rw [hj, State.bh_modBh, hf, h]
  · rw [State.bh_modBh_other _ _ _ _ hj, h]

theorem State.SameQueues.withHome {m : Memory} (h : s.SameQueues t) : s.SameQueues { t with home := m } := fun b => h b
theorem State.SameQueues.withLines {l : Table Line} (h : s.SameQueues t) : s.SameQueues { t with lines := l } := fun b => h b

theorem State.SameQueues.setMsg {m : Msg} (h : s.SameQueues t) : s.SameQueues (t.setMsg m) := fun b => h b

theorem State.SameQueues.modInst {asid b : Nat} {f : CtxBh → CtxBh} (h : s.SameQueues t) : s.SameQueues (t.modInst asid b f) :=
  fun b => h b

theorem State.SameQueues.postSup {c : Cause} {d0 d1 : Nat} (h : s.SameQueues t) : s.SameQueues (t.postSup c d0 d1) :=
  h.of_bhs (t.postSup_bhs c d0 d1)

theorem State.SameQueues.setLine {l : Nat} {x : Line} (h : s.SameQueues t) : s.SameQueues (t.setLine l x) :=
  .ite h.withLines h.withLines

theorem State.SameQueues.touchDirty {dpa stamp : Nat} (h : s.SameQueues t) : s.SameQueues (t.touchDirty dpa stamp) := h.setLine

theorem State.SameQueues.setPoison {w : Nat} {p : Option PoisonLevel} (h : s.SameQueues t) : s.SameQueues (t.setPoison w p) := by
  cases p <;> exact h

theorem State.SameQueues.setLcs {b slice v : Nat} (h : s.SameQueues t) : s.SameQueues (t.setLcs b slice v) :=
  have h1 : s.SameQueues (t.modBh b fun x => { x with lcs := x.lcs.set (slice % 16) (min v lcMax) (Nat.mod_lt _ (by decide)) }) :=
    h.modBh rfl
  .ite h1.postSup h1

theorem State.SameQueues.lcsStep {dpa : Nat} (h : s.SameQueues t) : s.SameQueues (t.lcsStep dpa).2 := h.setLcs

theorem State.SameQueues.takeBack {w : Nat} (h : s.SameQueues t) : s.SameQueues (t.takeBack w) := by
  unfold State.takeBack
  split
  · exact h
  next c stamp _ =>
    extract_lets s1
    have h1 : s.SameQueues s1 := h
    clear_value s1
    split
    · exact h1.touchDirty
    · exact .ite (h1.withHome.setPoison.touchDirty (dpa := 4 * w) (stamp := stamp)) h1.touchDirty

theorem State.SameQueues.recall {m : Msg} (h : s.SameQueues t) : s.SameQueues (t.recall m) := by
  unfold State.recall
  extract_lets s1 old s2 r
  have h1 : s.SameQueues s1 := h.foldl fun _ _ hu => hu.takeBack
  clear_value s1
  refine .ite h1.withHome.setMsg (.ite ?_ h1.setMsg)
  split
  · exact h1.setMsg
  · exact (h1.withHome.foldl fun _ _ hu => hu.setPoison).setMsg

theorem State.SameQueues.settle {w : Nat} (h : s.SameQueues t) : s.SameQueues (t.settle w) := by
  have hmeet (c : Nat) : s.SameQueues (t.meet c (4 * w)) := h.setLcs
  unfold State.settle
  split
  · exact h
  · split
    · exact (hmeet _).recall
    · exact (hmeet _).takeBack

theorem State.SameQueues.settleAll {dpa n : Nat} (h : s.SameQueues t) : s.SameQueues (t.settleAll dpa n) :=
  h.foldl fun _ _ hu => hu.settle

theorem State.SameQueues.writeBackLine {l : Nat} (h : s.SameQueues t) : s.SameQueues (t.writeBackLine l) := by
  unfold State.writeBackLine
  extract_lets s1 x s2
  have h1 : s.SameQueues s1 := h.foldl fun _ _ hu => .ite hu.settle hu
  have h2 : s.SameQueues s2 := h1.setLine
  clear_value s2
  generalize Memory.bytes s1.home (128 * l) 128 = bs
  exact .ite (h2.of_bhs rfl) h1

theorem State.SameQueues.makeRoom {l : Nat} (h : s.SameQueues t) : s.SameQueues (t.makeRoom l).2 := by
  unfold State.makeRoom
  extract_lets mates loose
  split
  · exact h
  · split
    · exact h.writeBackLine.withLines
    · exact h

theorem State.SameQueues.markDirty {dpa stamp : Nat} (h : s.SameQueues t) : s.SameQueues (t.markDirty dpa stamp) :=
  .ite h.makeRoom.touchDirty h.makeRoom.touchDirty.writeBackLine

theorem State.SameQueues.testWatches {dpa n : Nat} (h : s.SameQueues t) : s.SameQueues (t.testWatches dpa n) := by
  unfold State.testWatches
  extract_lets b hit done s1
  have h1 : s.SameQueues s1 := h.modBh rfl
  exact .ite h (h1.of_bhs rfl)

theorem State.SameQueues.devWrite {dpa n v : Nat} (h : s.SameQueues t) : s.SameQueues (t.devWrite dpa n v) := by
  cases hp : dpaPopulated dpa
  · rw [State.devWrite_hole hp]
    exact .ite h h.postSup
  · rw [State.devWrite_populated hp]
    extract_lets s2 s4
    have h2 : s.SameQueues s2 := h.settleAll.lcsStep
    have h4 : s.SameQueues s4 := h2.withHome.foldl fun _ _ hu => hu.setPoison
    exact h4.markDirty.testWatches

theorem State.SameQueues.putRecord {dpa d0 d1 d2 d3 : Nat} (h : s.SameQueues t) : s.SameQueues (t.putRecord dpa d0 d1 d2 d3) :=
  h.devWrite.devWrite.devWrite.devWrite

/-- A record of an event queue moves no capture queue (R379, R380). -/
theorem State.SameQueues.postCtx {asid b kind cause source tag d0 d1 : Nat} (h : s.SameQueues t) :
    s.SameQueues (t.postCtx asid b kind cause source tag d0 d1) := by
  unfold State.postCtx
  extract_lets i s1
  have h1 : s.SameQueues s1 := h.putRecord
  exact .ite h.modInst.postSup h1.modInst

end Sys2Proof.Machine
end

section
/-! SUPPORT. What the standing-product engine serves first, and what a slice sends it (R105, R352, R354, R359). -/

namespace Sys2Proof.Machine

theorem Bulkhead.queue_setQueue (x : Bulkhead) (slice : Nat) (q : List Delta) : (x.setQueue slice q).queue slice = q := by
  unfold Bulkhead.queue Bulkhead.setQueue
  exact Vector.getElem_set_self _

theorem Bulkhead.queue_congr {x y : Bulkhead} {slice : Nat} (h : y.capq = x.capq) : y.queue slice = x.queue slice := by
  simp only [Bulkhead.queue, h]

end Sys2Proof.Machine

namespace Sys2Proof.Claims
open Sys2Proof.Machine

variable {s : State} {b slice num : Nat} {r : Delta} {rest : List Delta} {x : Binding}

theorem deltaApply_idle (h : s.speWorks b = false ∨
    ((s.bh b).nextRefresh = none ∧ s.nextSnap b = none ∧ (s.bh b).nextDelta = none)) : goes (.deltaApply b) s s := by
  change execDeltaApply b s = _
  unfold execDeltaApply
  obtain hw | ⟨hrefresh, hsnap, hdelta⟩ := h
  · simp only [hw, Bool.not_false, if_true]
  · simp only [hrefresh, hsnap, hdelta, ite_self]

/-- A refresh that is due is served before a snapshot and a record (R354). -/
theorem deltaApply_refresh (hw : s.speWorks b = true) (h : (s.bh b).nextRefresh = some (num, x)) :
    goes (.deltaApply b) s (s.dueRefresh b num x) := by
  change execDeltaApply b s = _
  simp only [execDeltaApply, hw, h, Bool.not_true, Bool.false_eq_true, if_false]

/-- A snapshot is served before a record (R359). -/
theorem deltaApply_snap {q : EngReq} {dst : Shape} (hw : s.speWorks b = true) (hrefresh : (s.bh b).nextRefresh = none)
    (h : s.nextSnap b = some (q, dst, x)) : goes (.deltaApply b) s (s.takeSnap q dst x) := by
  change execDeltaApply b s = _
  simp only [execDeltaApply, hw, hrefresh, h, Bool.not_true, Bool.false_eq_true, if_false]

theorem deltaApply_record (hw : s.speWorks b = true) (hrefresh : (s.bh b).nextRefresh = none) (hsnap : s.nextSnap b = none)
    (h : (s.bh b).nextDelta = some r) : goes (.deltaApply b) s (s.applyNext b r) := by
  change execDeltaApply b s = _
  simp only [execDeltaApply, hw, hrefresh, hsnap, h, Bool.not_true, Bool.false_eq_true, if_false]

theorem captureQueueSend_empty (h : (s.bh b).queue slice = []) : goes (.captureQueueSend b slice) s s := by
  change execCaptureQueueSend b slice s = _
  simp only [execCaptureQueueSend, h]

/-- The SPE takes the next record of a slice (R105). -/
theorem captureQueueSend_takes (hq : (s.bh b).queue slice = r :: rest) (hx : Table.find (s.bh b).bindings r.bind = some x)
    (htakes : x.takes = true) :
    reaches (.captureQueueSend b slice) s fun t => (t.bh b).queue slice = rest ∧ (t.bh b).speIn = (s.bh b).speIn ++ [r] := by
  refine ⟨s.modBh b fun y => { (y.setQueue slice rest).hear slice r.stamp with speIn := y.speIn ++ [r] }, ?_, ?_⟩
  · change execCaptureQueueSend b slice s = _
    simp only [execCaptureQueueSend, hq, hx, htakes, if_true]
  · beta_reduce
    rw [State.bh_modBh]
    exact ⟨Bulkhead.queue_setQueue _ _ _, rfl⟩

/-- A record that the SPE cannot take spills to its binding's log (R105). -/
theorem captureQueueSend_spills (hq : (s.bh b).queue slice = r :: rest) (hx : Table.find (s.bh b).bindings r.bind = some x)
    (htakes : x.takes = false) (hroom : x.log.length < x.logCap) :
    reaches (.captureQueueSend b slice) s fun t => (t.bh b).queue slice = rest ∧
      Table.find (t.bh b).bindings r.bind = some { x with log := x.log ++ [r] } := by
  refine ⟨(s.modBh b fun y => (y.setQueue slice rest).hear slice r.stamp).setBinding b r.bind { x with log := x.log ++ [r] }, ?_, ?_⟩
  · change execCaptureQueueSend b slice s = _
    simp only [execCaptureQueueSend, hq, hx, htakes, Bool.false_eq_true, if_false, hroom, if_true]
  · beta_reduce
    rw [State.setBinding, State.bh_modBh, State.bh_modBh]
    exact ⟨Bulkhead.queue_setQueue _ _ _, Table.find_set_same _ _ _⟩

/-- A record whose binding's log is full stays in its queue (R105, R392). -/
theorem captureQueueSend_stays (hq : (s.bh b).queue slice = r :: rest) (hx : Table.find (s.bh b).bindings r.bind = some x)
    (htakes : x.takes = false) (hfull : x.logCap ≤ x.log.length) :
    reaches (.captureQueueSend b slice) s fun t => (t.bh b).queue slice = r :: rest := by
  have hset : s.SameQueues (s.setBinding b r.bind { x with logFullPosted := true }) := (State.SameQueues.refl s).modBh rfl
  by_cases hposted : x.logFullPosted = true
  · refine ⟨s, ?_, hq⟩
    change execCaptureQueueSend b slice s = _
    simp only [execCaptureQueueSend, hq, hx, htakes, Bool.false_eq_true, if_false, Nat.not_lt.2 hfull, hposted, if_true]
  · refine ⟨(s.setBinding b r.bind { x with logFullPosted := true }).postSp b x .spLogFull 0, ?_, ?_⟩
    · change execCaptureQueueSend b slice s = _
      simp only [execCaptureQueueSend, hq, hx, htakes, Bool.false_eq_true, if_false, Nat.not_lt.2 hfull, hposted]
    · exact (Bulkhead.queue_congr (hset.postCtx b)).trans hq

theorem lcsHeartbeat_busy (h : (s.bh b).queue slice ≠ []) : goes (.lcsHeartbeat b slice) s s := by
  change execLcsHeartbeat b slice s = _
  simp only [execLcsHeartbeat, List.isEmpty_eq_false_iff.2 h, Bool.not_false, if_true]

theorem lcsOf_setLcs (v : Nat) : (s.setLcs b slice v).lcsOf b slice = min v lcMax := by
  unfold State.setLcs
  extract_lets n s1
  have h1 : s1.lcsOf b slice = n := by
    unfold State.lcsOf s1
    rw [State.bh_modBh]
    exact Vector.getElem_set_self _
  split
  · unfold State.lcsOf
    rw [State.bh_postSup]
    exact h1
  · exact h1

theorem lcsOf_hear (u : State) (v : Nat) : (u.modBh b fun y => y.hear slice v).lcsOf b slice = u.lcsOf b slice := by
  unfold State.lcsOf
  rw [State.bh_modBh]
  rfl

/-- The largest counter that the SPE and an idle slice know (R105; log 62). -/
def heartbeatOf (s : State) (b slice : Nat) : Nat := max ((s.bh b).speKnown.toList.foldl max 0) (s.lcsOf b slice)

/-- An idle slice takes the largest counter that it and the SPE know: it falls behind none that it had (R105; log 62). -/
theorem lcsHeartbeat_rises (hq : (s.bh b).queue slice = []) (hlt : s.lcsOf b slice < 2 ^ 60) :
    reaches (.lcsHeartbeat b slice) s fun t => s.lcsOf b slice ≤ t.lcsOf b slice := by
  refine ⟨(s.setLcs b slice (heartbeatOf s b slice)).modBh b fun y => y.hear slice (heartbeatOf s b slice), ?_, ?_⟩
  · change execLcsHeartbeat b slice s = _
    simp only [execLcsHeartbeat, hq, List.isEmpty_nil, Bool.not_true, Bool.false_eq_true, if_false, heartbeatOf]
  · have hmax : s.lcsOf b slice ≤ lcMax := Nat.le_sub_one_of_lt hlt
    beta_reduce
    rw [lcsOf_hear, lcsOf_setLcs]
    exact Nat.le_min.2 ⟨Nat.le_max_right _ _, hmax⟩

end Sys2Proof.Claims
end

section
/-! The engines (O51). -/

namespace Sys2Proof
open Sys2Proof.Machine Sys2Proof.Claims

/-- Settles O51, by what each engine does at a request, an operation or a record that is due, and at one that is not. -/
theorem engineSteps : Obligations.Engine_steps := by
  intro s id b slice
  refine ⟨engines_idle, fun r hr h => ?_, fun r rank data hr hw => collectiveStep_idle hr hw,
    fun r addr row pos wr v s1 hr hw hk hload hrec => copyRequest_refused hr hw hk hload hrec,
    fun r addr row pos wr v s1 x hr hw hk hload hrec hne => copyRequest_read hr hw hk hload hrec hne,
    fun r addr x row pos wr hr hw hk hrow hpaid => copyPiece_writes hr hw hk hrow hpaid,
    fun r addr x row pos wr w hr hwait hruns hk howed => copyPiece_pays hr hwait hruns hk howed,
    fun r va off units toSpad pos hr hw hk => copyPiece_mirrors hr hw hk,
    fun r hr hk => engineRetirement_request hr hk, fun r addr t hr hk => engineRetirement_signal hr hk,
    fun r addr d rank data hr hw hk => collectiveStep_begins hr hw hk,
    fun r addr x d rank data hr hw hk hfull => collectiveStep_finishes hr hw hk hfull,
    fun r addr x d hr hk hfin => collCancel_ends hr hk hfin,
    fun part h => matrixOpStart_idle h, fun part o hfree ho hver => matrixOpStart_passed hfree ho hver,
    fun part o hfree ho hver => matrixOpStart_starts hfree ho hver, fun part hfree => matrixOpComplete_idle hfree,
    fun part o r t c ho hr ht hwait hc => matrixOpComplete_refused ho hr ht hwait hc,
    fun part pair h => slotPairFree_claimed h, fun part pair o h ho => slotPairFree_claims h ho,
    fun part o r t ho hr ht hwait hc => matrixOpComplete_performs ho hr ht hwait hc,
    deltaApply_idle, fun num x hw h => deltaApply_refresh hw h,
    fun r dst x hw hrefresh h => deltaApply_snap hw hrefresh h,
    fun r hw hrefresh hsnap h => deltaApply_record hw hrefresh hsnap h,
    captureQueueSend_empty, fun r rest x hq hx htakes => captureQueueSend_takes hq hx htakes,
    fun r rest x hq hx htakes => ⟨captureQueueSend_spills hq hx htakes, captureQueueSend_stays hq hx htakes⟩,
    lcsHeartbeat_busy, lcsHeartbeat_rises⟩
  obtain hwait | hruns | ⟨hfin, howed⟩ := h
  · exact copyPiece_waits hr (.inl hwait)
  · exact copyPiece_waits hr (.inr hruns)
  · exact copyPiece_over hr hfin howed

end Sys2Proof
end
